-- ==== Sys2Proof/Word.lean ====
section
/-! DEFINITION. The word types of the ZB4: lane words, scalar words, 72-bit addresses, bytes (R6, R36). -/

namespace Sys2Proof

/-- One byte of memory (R6). -/
abbrev Byte := BitVec 8

/-- One lane of a vector register, 32 bits (R36). -/
abbrev Lane := BitVec 32

/-- A lane mask or a predicate register: bit L is lane L (R36, R39). -/
abbrev Mask := BitVec 32

/-- A scalar register, 64 bits (R36). -/
abbrev SWord := BitVec 64

/-- An address register or a virtual address, 72 bits (R6, R38). -/
abbrev Addr := BitVec 72

end Sys2Proof
end

