-- ==== Sys2Proof/Config.lean ====
section
/-! DEFINITION. What one implementation fixes and the manual leaves open: free values. None has a body, so no proof can
rest on a value of one; each names its log entry. -/

namespace Sys2Proof

/-- R49: whether the read numbered n of a fixed-latency result that the stall counts do not cover returns the value
before its producer (true) or the produced value (false), with STATUS.CHK clear. Log entry 6. -/
opaque Config.earlyRead : Nat → Bool

/-- R65: whether the predicate of the BRV numbered n, not covered by stall counts, has still not landed when the BRV
reaches issue. Log entry 6. -/
opaque Config.predicateLate : Nat → Bool

/-- R42: how many counts of the reference time base pass beside the one of step n. Log entry 7. -/
opaque Config.elapsed : Nat → Nat

/-- R42: how far the CLOCK counter of a die stands ahead of the reference time base; at most 4 counts. Log entry 7. -/
opaque Config.clockSkew : Nat → Fin 5

/-- R45: how many cycles beyond one the fetch of step n stalls its group, where it misses. Log entry 7. -/
opaque Config.fetchCycles : Nat → Nat

/-- R45, R47: how many cycles the instruction of step n waits for the scoreboarded results that it names. Log entry 7. -/
opaque Config.resultCycles : Nat → Nat

/-- R205: whether the instruction of step n finds an operand for which it is predicted to wait more than 64 cycles. Log entry
22. -/
opaque Config.longWait : Nat → Bool

/-- R104: the FP32 value the part returns for VFRCP of the input, under FTZ or not; used where it lies within the bound
of R104. Log entry 8. -/
opaque Config.rcpValue : BitVec 32 → Bool → BitVec 32

/-- R104: as `Config.rcpValue`, for VFRSQ. Log entry 8. -/
opaque Config.rsqValue : BitVec 32 → Bool → BitVec 32

/-- R104: as `Config.rcpValue`, for VFEXP2. Log entry 8. -/
opaque Config.exp2Value : BitVec 32 → Bool → BitVec 32

/-- R104: as `Config.rcpValue`, for VFLOG2. Log entry 8. -/
opaque Config.log2Value : BitVec 32 → Bool → BitVec 32

/-- R104: as `Config.rcpValue`, for VFSIN. Log entry 8. -/
opaque Config.sinValue : BitVec 32 → Bool → BitVec 32

/-- R104: as `Config.rcpValue`, for VFCOS. Log entry 8. -/
opaque Config.cosValue : BitVec 32 → Bool → BitVec 32

/-- R168: whether the fetch numbered n of bytes that the group has prefetched returns the prefetched bytes (true) or
those the instruction caches hold now. Log entry 9. -/
opaque Config.prefetchUsed : Nat → Bool

/-- R213, R155: TRAPINFO.LEN of a trap taken where no instruction could be fetched, so that the spec states no length.
Log entry 10. -/
opaque Config.fetchTrapLen : Nat → BitVec 5

/-- R208: how many of the cycles of step n the governor withholds from a group in THROTTLE. Log entry 15. -/
opaque Config.withheld : Nat → Nat

/-- R230: where the loader places a section: the 64 KiB page of its virtual address, for load number n and section i. Log
entry 14. -/
opaque Config.loadBase : Nat → Nat → BitVec 56

/-- R236: the physical 64 KiB page into which the loader copies page number j of section i in load number n. Log entry 14. -/
opaque Config.loadPage : Nat → Nat → Nat → BitVec 24

/-- R216, R22, R193, R224: the TRAPPC of the abort record numbered n where no instruction of a group has trapped. Log entry 17. -/
opaque Config.openPc : Nat → BitVec 72

/-- R154, R216, R224: a byte of the record numbered n for which the spec states no value, by its offset. Log entry 17. -/
opaque Config.openByte : Nat → Nat → BitVec 8

/-- R224, R226: the source number of the fatal event of step n. Log entry 17. -/
opaque Config.fatalSource : Nat → BitVec 16

/-- R246: where FEAT0 stands in the identity block. Log entry 20. -/
opaque Config.featOffset : BitVec 15

/-- R246: where the part number stands in the identity block. Log entry 20. -/
opaque Config.partOffset : BitVec 15

/-- R246: where the firmware version stands in the identity block. Log entry 20. -/
opaque Config.versionOffset : BitVec 15

/-- R246: the part number. Log entry 20. -/
opaque Config.partNumber : BitVec 64

/-- R246, R253: the firmware version of an image, given as its bytes by offset. Log entry 20. -/
opaque Config.imageVersion : List (Nat × BitVec 8) → BitVec 64

/-- R253: whether an image bears its LMS signature. Log entry 38. -/
opaque Config.imageHolds : List (Nat × BitVec 8) → Bool

/-- R252: what the read of a measurement index returns of what it measures. Log entry 38. -/
opaque Config.measurement : Nat → List Nat → BitVec 64

/-- R246: the offset and the value of a write to the identity block that resets the device. Log entry 20. -/
opaque Config.resetControl : Nat × BitVec 64

/-- R226: type and index of the source that the TLB or walk cache of a die has in the machine-check log. Log entry 45. -/
opaque Config.walkSource : Nat → BitVec 14

/-- R230: whether a signature is that of these bytes under a key: LMS over SHA-256. Log entry 16. -/
opaque Config.lmsHolds : List (BitVec 8) → List (BitVec 8) → Nat → Bool

/-- R249: what the local memory holds after the device reset of step n. Log entry 18. -/
opaque Config.memAfterReset : Nat → List (Nat × BitVec 8)

/-- R249: the byte at a place as the controller gives it when a data unit with these bytes was encrypted under one key and tweak
(the first number) and is read under another (the second). Log entry 43. -/
opaque Config.garbled : Nat → Nat → List (BitVec 8) → Nat → BitVec 8

/-- R54, R226: die and pseudo-channel where the context area of a key lies. Log entry 32. -/
opaque Config.areaSource : Nat → BitVec 10

/-- R102, R103: whether a widening conversion of a finite value flushes a subnormal result under FTZ, as the rounding of R102
does, or is exact, as R103 says. Log entry 42. -/
opaque Config.widenFlushes : Bool

/-- R166, R167: whether the read numbered n of a scratch byte returns what stood there before an engine's write that is not
ordered before the read. Log entry 44. -/
opaque Config.engineLate : Nat → Nat → Bool

/-- R251: whether a peer refuses the element numbered n, because it lies above the limit that the peer sets for incoming
traffic. Log entry 12. -/
opaque Config.peerRefuses : Nat → Bool

end Sys2Proof
end

