-- ==== Sys2Proof/Syntax.lean ====
section
/-! DEFINITION. The instructions and the device events of spec/opcode_table.json, one constructor a row. An encoded
instruction holds its encoding's fields as they stand (R263, R266 to R269); an event holds what its party supplies. -/

namespace Sys2Proof

/-- A vector source field with its last-read mark (R50, R267). -/
structure VSrc where
  reg : BitVec 8
  lr : Bool
  deriving DecidableEq, Repr

/-- Source b of LV (R46, R267): a vector register, a scalar broadcast, or imm16. -/
inductive BSrc where
  | vec (r : VSrc)
  | scal (s : BitVec 6)
  | imm (i : BitVec 16)
  deriving DecidableEq, Repr

/-- The guard of R14: the predicate and its negation. -/
structure Guard where
  pn : Bool
  pg : BitVec 3
  deriving DecidableEq, Repr

/-- The LV sub-format (R267). -/
structure LvF where
  g : Guard
  stall : BitVec 3
  vd : BitVec 8
  a : VSrc
  b : BSrc
  c : VSrc
  ext : BitVec 8
  deriving DecidableEq, Repr

/-- The WM sub-format (R263): displacement, scope, acquire or release, signed, size, base, register. -/
structure WmF where
  imm : BitVec 6
  scope : BitVec 3
  ord : Bool
  signed : Bool
  size : BitVec 3
  n : BitVec 4
  r : BitVec 6
  deriving DecidableEq, Repr

/-- The LM sub-format (R269). -/
structure LmF where
  g : Guard
  imm : BitVec 8
  stride : BitVec 5
  scale : BitVec 3
  os : Bool
  lro : Bool
  lrd : Bool
  scope : BitVec 3
  ord : Bool
  sign : Bool
  size : BitVec 3
  n : BitVec 4
  vo : BitVec 8
  vd : BitVec 8
  deriving DecidableEq, Repr

/-- The LA sub-format (R269). -/
structure LaF where
  g : Guard
  w64 : Bool
  order : BitVec 2
  scope : BitVec 3
  aop : BitVec 5
  n : BitVec 4
  vc : BitVec 8
  vb : BitVec 8
  va : BitVec 8
  vd : BitVec 8
  deriving DecidableEq, Repr

/-- The LC sub-format of MCUBE (R118). -/
structure LcF where
  lr : Bool
  acol : BitVec 3
  ovw : Bool
  span : Bool
  pm : BitVec 2
  ef : BitVec 3
  nc : BitVec 2
  mc : BitVec 3
  arow : BitVec 7
  base : BitVec 8
  deriving DecidableEq, Repr

/-- The LF sub-format of MLDF (R127). -/
structure LfF where
  g : Guard
  base : BitVec 8
  off : BitVec 6
  pitch : BitVec 6
  ef : BitVec 3
  rows : BitVec 3
  t : Bool
  deriving DecidableEq, Repr

/-- The LZ sub-format (R128): `hi` is [52:47]. -/
structure LzF where
  g : Guard
  base : BitVec 8
  arow : BitVec 7
  mc : BitVec 3
  nc : BitVec 2
  acol : BitVec 3
  n : BitVec 4
  fmt : BitVec 3
  hi : BitVec 6
  sat : Bool
  deriving DecidableEq, Repr

/-- The common fields of the LX sub-format (R181). -/
structure LxF where
  sd : BitVec 6
  n : BitVec 4
  scope : BitVec 3
  acq : Bool
  rel : Bool
  deriving DecidableEq, Repr

/-- One operation that reaches an atomic unit or comes in from a peer (R148, R251): the physical address, the operation
code of R261 (31 a plain write, of 2^size bytes, the upper half of 16 in `c`), the width, the operand and the compare value. -/
structure AtomReq where
  pa : BitVec 52
  aop : BitVec 5
  w64 : Bool
  size : BitVec 3
  b : BitVec 64
  c : BitVec 64
  deriving DecidableEq, Repr

/-- The rows of spec/opcode_table.json. -/
inductive Instr where
  /-- VMOV_C16 (R262). Compact 16-bit form that copies vS to vD in every lane taking part; the result is interlocked. -/
  | vmovC16 (lr : Bool) (vs vd : BitVec 5)
  /-- VADD_C16 (R262). Compact form computing vD := vD + vS with wrapping in each lane taking part. -/
  | vaddC16 (lr : Bool) (vs vd : BitVec 5)
  /-- VSUB_C16 (R262). Compact form computing vD := vD - vS with wrapping in each lane taking part. -/
  | vsubC16 (lr : Bool) (vs vd : BitVec 5)
  /-- VMUL_C16 (R262). Compact form computing the low 32 bits of vD * vS in each lane taking part. -/
  | vmulC16 (lr : Bool) (vs vd : BitVec 5)
  /-- VAND_C16 (R262). Compact form computing vD := vD AND vS. -/
  | vandC16 (lr : Bool) (vs vd : BitVec 5)
  /-- VOR_C16 (R262). Compact form computing vD := vD OR vS. -/
  | vorC16 (lr : Bool) (vs vd : BitVec 5)
  /-- VXOR_C16 (R262). Compact form computing vD := vD XOR vS. -/
  | vxorC16 (lr : Bool) (vs vd : BitVec 5)
  /-- VSHL_C16 (R262). Compact form shifting vD left by vS under the unmasked shift rule. -/
  | vshlC16 (lr : Bool) (vs vd : BitVec 5)
  /-- VSHR_C16 (R262). Compact form shifting vD logically right by vS. -/
  | vshrC16 (lr : Bool) (vs vd : BitVec 5)
  /-- VMIN_C16 (R262). Compact form writing the signed minimum of vD and vS. -/
  | vminC16 (lr : Bool) (vs vd : BitVec 5)
  /-- VMAX_C16 (R262). Compact form writing the signed maximum of vD and vS. -/
  | vmaxC16 (lr : Bool) (vs vd : BitVec 5)
  /-- VFADD_C16 (R262). Compact form of the FP32 add of vD and vS under FMT. -/
  | vfaddC16 (lr : Bool) (vs vd : BitVec 5)
  /-- VFSUB_C16 (R262). Compact form of the FP32 subtract vD - vS under FMT. -/
  | vfsubC16 (lr : Bool) (vs vd : BitVec 5)
  /-- VFMUL_C16 (R262). Compact form of the FP32 multiply of vD and vS under FMT. -/
  | vfmulC16 (lr : Bool) (vs vd : BitVec 5)
  /-- VFMIN_C16 (R262). Compact form of the FP32 minimum of vD and vS. -/
  | vfminC16 (lr : Bool) (vs vd : BitVec 5)
  /-- VFMAX_C16 (R262). Compact form of the FP32 maximum of vD and vS. -/
  | vfmaxC16 (lr : Bool) (vs vd : BitVec 5)
  /-- NOP (R298). Occupies one issue cycle and changes no state. -/
  | nop
  /-- IMX (R257). Prefix that supplies 24 high immediate bits to the instruction that follows it and occupies its own issue
  cycle. -/
  | imx (imm : BitVec 24)
  /-- SADD (R302). Writes the 64-bit wrapping sum of two scalar registers. -/
  | sadd (w : BitVec 3) (d a b : BitVec 6)
  /-- SSUB (R302). Writes the 64-bit wrapping difference of two scalar registers. -/
  | ssub (w : BitVec 3) (d a b : BitVec 6)
  /-- SAND (R302). Writes the bitwise AND of two scalar registers. -/
  | sand (w : BitVec 3) (d a b : BitVec 6)
  /-- SOR (R302). Writes the bitwise OR of two scalar registers. -/
  | sor (w : BitVec 3) (d a b : BitVec 6)
  /-- SXOR (R302). Writes the bitwise XOR of two scalar registers. -/
  | sxor (w : BitVec 3) (d a b : BitVec 6)
  /-- SSHL (R302). Shifts a scalar left by an unmasked 64-bit amount. -/
  | sshl (w : BitVec 3) (d a b : BitVec 6)
  /-- SSHR (R302). Shifts a scalar logically right by an unmasked amount. -/
  | sshr (w : BitVec 3) (d a b : BitVec 6)
  /-- SSRA (R302). Shifts a scalar arithmetically right by an unmasked amount. -/
  | ssra (w : BitVec 3) (d a b : BitVec 6)
  /-- SMUL (R312). Writes the low 64 bits of the product of two scalars. -/
  | smul (w : BitVec 3) (d a b : BitVec 6)
  /-- SMULHS (R312). Writes the high 64 bits of the signed product of two scalars. -/
  | smulhs (w : BitVec 3) (d a b : BitVec 6)
  /-- SMULHU (R312). Writes the high 64 bits of the unsigned product of two scalars. -/
  | smulhu (w : BitVec 3) (d a b : BitVec 6)
  /-- SMINS (R312). Writes the signed minimum of two scalars. -/
  | smins (w : BitVec 3) (d a b : BitVec 6)
  /-- SMAXS (R312). Writes the signed maximum of two scalars. -/
  | smaxs (w : BitVec 3) (d a b : BitVec 6)
  /-- SMINU (R312). Writes the unsigned minimum of two scalars. -/
  | sminu (w : BitVec 3) (d a b : BitVec 6)
  /-- SMAXU (R312). Writes the unsigned maximum of two scalars. -/
  | smaxu (w : BitVec 3) (d a b : BitVec 6)
  /-- SDIVS (R306). Writes the signed quotient under the division rules, on the iterative divider. -/
  | sdivs (w : BitVec 3) (d a b : BitVec 6)
  /-- SDIVU (R306). Writes the unsigned quotient under the division rules. -/
  | sdivu (w : BitVec 3) (d a b : BitVec 6)
  /-- SREMS (R306). Writes the signed remainder under the division rules. -/
  | srems (w : BitVec 3) (d a b : BitVec 6)
  /-- SREMU (R306). Writes the unsigned remainder under the division rules. -/
  | sremu (w : BitVec 3) (d a b : BitVec 6)
  /-- SCLZ (R304). Writes the number of leading zero bits of a scalar. -/
  | sclz (w : BitVec 3) (d a : BitVec 6)
  /-- SCTZ (R304). Writes the number of trailing zero bits of a scalar. -/
  | sctz (w : BitVec 3) (d a : BitVec 6)
  /-- SPOPC (R304). Writes the number of one bits of a scalar. -/
  | spopc (w : BitVec 3) (d a : BitVec 6)
  /-- SSEL (R313). Selects one of two scalars by a condition register. -/
  | ssel (w c : BitVec 3) (d a b : BitVec 6)
  /-- SADDI (R302). Adds a sign-extended immediate to a scalar. -/
  | saddi (d a : BitVec 6) (imm : BitVec 12)
  /-- SANDI (R302). ANDs a scalar with a sign-extended immediate. -/
  | sandi (d a : BitVec 6) (imm : BitVec 12)
  /-- SORI (R302). ORs a scalar with a sign-extended immediate. -/
  | sori (d a : BitVec 6) (imm : BitVec 12)
  /-- SXORI (R302). XORs a scalar with a sign-extended immediate. -/
  | sxori (d a : BitVec 6) (imm : BitVec 12)
  /-- SSHLI (R302). Shifts a scalar left by an immediate amount read unsigned. -/
  | sshli (d a : BitVec 6) (imm : BitVec 12)
  /-- SSHRI (R302). Shifts a scalar logically right by an immediate amount. -/
  | sshri (d a : BitVec 6) (imm : BitVec 12)
  /-- SSRAI (R302). Shifts a scalar arithmetically right by an immediate amount. -/
  | ssrai (d a : BitVec 6) (imm : BitVec 12)
  /-- SLI (R311). Loads a sign-extended, prefix-widened immediate into a scalar register. -/
  | sli (d : BitVec 6) (imm : BitVec 18)
  /-- SCMP (R305). Sets a condition register by comparing two scalars under a condition code. -/
  | scmp (c : BitVec 3) (k : BitVec 4) (a b : BitVec 6)
  /-- SCMPI (R305). Sets a condition register by comparing a scalar with an immediate. -/
  | scmpi (c : BitVec 3) (k : BitVec 4) (a : BitVec 6) (imm : BitVec 11)
  /-- AADD (R272). Adds a sign-extended scalar to an address register modulo 2^72. -/
  | aadd (d a : BitVec 4) (b : BitVec 6)
  /-- AADDI (R272). Adds an immediate to an address register modulo 2^72. -/
  | aaddi (d a : BitVec 4) (imm : BitVec 16)
  /-- AMOV (R272). Moves a sign-extended scalar into an address register. -/
  | amov (d : BitVec 4) (b : BitVec 6)
  /-- AGET (R272). Copies the low 64 bits of an address register to a scalar. -/
  | aget (d : BitVec 6) (a : BitVec 4)
  /-- ASUB (R272). Writes the low 64 bits of the difference of two address registers to a scalar. -/
  | asub (d : BitVec 6) (a b : BitVec 4)
  /-- SLD (R275). Loads one scalar value of 1 to 8 bytes from the global space. -/
  | sld (f : WmF)
  /-- SST (R275). Stores the low bytes of a scalar to the global space. -/
  | sst (f : WmF)
  /-- ALD (R275). Loads a 72-bit pointer slot into an address register, checking the slot's zero bytes. -/
  | ald (f : WmF)
  /-- AST (R275). Stores an address register as a 16-byte pointer slot. -/
  | ast (f : WmF)
  /-- BR (R279). Branches the group to a relative target. -/
  | br (off : BitVec 20)
  /-- BRC (R279). Branches when a condition register, optionally negated, is 1. -/
  | brc (c : BitVec 3) (neg : Bool) (off : BitVec 20)
  /-- CALL (R279). Writes the return address to a14 and branches to a relative target. -/
  | call (off : BitVec 20)
  /-- RET (R282). Jumps to the address in aN, a14 by default, as a return. -/
  | ret (n : BitVec 4)
  /-- JMPA (R282). Jumps to the address held in an address register. -/
  | jmpa (n : BitVec 4)
  /-- CALLA (R282). Writes the return address to a14 and jumps to an address register's value. -/
  | calla (n : BitVec 4)
  /-- BRVA (R63). Branches the whole group when any active lane has the predicate set. -/
  | brva (p : BitVec 3) (neg : Bool) (off : BitVec 20)
  /-- BRVN (R63). Branches the whole group when no active lane has the predicate set. -/
  | brvn (p : BitVec 3) (neg : Bool) (off : BitVec 20)
  /-- BRVL (R63). Branches the whole group when every active lane has the predicate set. -/
  | brvl (p : BitVec 3) (neg : Bool) (off : BitVec 20)
  /-- EXIT (R284). Performs a span-scope release and ends the whole group, counting it as arrived at every barrier. -/
  | exit
  /-- TRAP (R215). Raises the TRAP class with ARG set to its code. -/
  | trap (code : BitVec 8)
  /-- BKPT (R215). Raises the BKPT class with ARG set to its code. -/
  | bkpt (code : BitVec 8)
  /-- WAITH (R186). Waits until a handle's command is final, then observes it and frees its number. -/
  | waith (h : BitVec 6)
  /-- TESTH (R186). Sets a condition register when the handle's present state is in the mask, observing a final state. -/
  | testh (c : BitVec 3) (mask : BitVec 6) (h : BitVec 6)
  /-- CANCH (R186). Asks the engine of a handle to stop and retires without waiting. -/
  | canch (h : BitVec 6)
  /-- SETFMT (R308). Writes FMT from a scalar register, as SYSWR to index 0x02. -/
  | setfmt (h : BitVec 6)
  /-- SYSRD (R308). Reads a special register, zero-extended, into a scalar register. -/
  | sysrd (index : BitVec 8) (d : BitVec 6)
  /-- SYSWR (R308). Writes a special register after checking access and reserved bits, starting its side effect. -/
  | syswr (index : BitVec 8) (b : BitVec 6)
  /-- SETGANG (R308). Writes GANG from a scalar register, as SYSWR to index 0x03. -/
  | setgang (h : BitVec 6)
  /-- BAR (R277). Arrives at a block barrier after a block-scope release and waits for its completion. -/
  | bar (n : BitVec 4)
  /-- BARS (R277). Arrives at a span barrier after a span-scope release and waits for its completion. -/
  | bars (n : BitVec 2)
  /-- FENCE (R287). Orders the group's accesses by kind and scope and retires when its conditions hold. -/
  | fence (kind : BitVec 2) (scope : BitVec 3)
  /-- FETCHB (R168). Discards instructions fetched beyond itself and restarts fetch at the next PC. -/
  | fetchb
  /-- IPF (R239). Prefills the lines of an address range into an instruction-cache level without faulting. -/
  | ipf (level : BitVec 3) (n : BitVec 4) (b : BitVec 6)
  /-- ERET (R215). Returns from a trap handler at or past the trapping instruction and clears the handler flag. -/
  | eret (mode : BitVec 2)
  /-- YIELD (R359). Swaps the group out for a ready pending group, or stands it aside for 16 contended cycles. -/
  | yield
  /-- FRWON (R87). Validates a furrow plan, parks the partition's other groups, loads the stages and starts source steps. -/
  | frwon (n : BitVec 4)
  /-- FRWOFF (R91). Stalls the furrow owner until every sink is drained and its writes are performed. -/
  | frwoff (d : BitVec 6)
  /-- FRWKILL (R91). Stops all firings, discards every token, gleans the pool and unparks the partition. -/
  | frwkill
  /-- FRWDEP (R91). Records a new depth for a furrow queue when it fits and reports success in a condition register. -/
  | frwdep (c : BitVec 3) (q : BitVec 6) (a : BitVec 6)
  /-- LAUNCH (R198). Reads a launch record, enqueues it on a port of the group's function as a device-scope release and returns
  a launch handle. -/
  | launch (d : BitVec 6) (a : BitVec 4)
  /-- LCANCEL (R198). Cancels the launches named by a launch handle, waits for the cancel to take effect and reports the result.
  -/
  | lcancel (c : BitVec 3) (kill : Bool) (h : BitVec 6)
  /-- VADD (R317). Adds va and b per lane, wrapping or saturating signed or unsigned. -/
  | vadd (f : LvF)
  /-- VSUB (R317). Subtracts b from va per lane, wrapping or saturating. -/
  | vsub (f : LvF)
  /-- VMUL (R347). Writes the low 32 bits of va * b per lane. -/
  | vmul (f : LvF)
  /-- VMULH (R347). Writes the high 32 bits of va * b per lane with the chosen signedness. -/
  | vmulh (f : LvF)
  /-- VMAD (R347). Writes the low 32 bits of va * b + vc per lane. -/
  | vmad (f : LvF)
  /-- VADDC (R318). Adds va, b and a carry-in predicate per lane and writes a carry-out predicate. -/
  | vaddc (f : LvF)
  /-- VAND (R320). Writes va AND b per lane. -/
  | vand (f : LvF)
  /-- VOR (R320). Writes va OR b per lane. -/
  | vor (f : LvF)
  /-- VXOR (R320). Writes va XOR b per lane. -/
  | vxor (f : LvF)
  /-- VNOT (R320). Writes NOT va per lane. -/
  | vnot (f : LvF)
  /-- VSHL (R353). Shifts va left per lane by an unmasked amount. -/
  | vshl (f : LvF)
  /-- VSHR (R353). Shifts va logically right per lane by an unmasked amount. -/
  | vshr (f : LvF)
  /-- VSRA (R353). Shifts va arithmetically right per lane by an unmasked amount. -/
  | vsra (f : LvF)
  /-- VMIN (R348). Writes the signed or unsigned minimum of va and b per lane. -/
  | vmin (f : LvF)
  /-- VMAX (R348). Writes the signed or unsigned maximum of va and b per lane. -/
  | vmax (f : LvF)
  /-- VABS (R316). Writes the absolute value of va per lane, optionally saturating. -/
  | vabs (f : LvF)
  /-- VNEG (R316). Writes the negation of va per lane, optionally saturating. -/
  | vneg (f : LvF)
  /-- VCLZ (R322). Writes the leading-zero count of va per lane. -/
  | vclz (f : LvF)
  /-- VPOPC (R322). Writes the population count of va per lane. -/
  | vpopc (f : LvF)
  /-- VBFE (R321). Extracts a bit field of va per lane, optionally sign-extended. -/
  | vbfe (f : LvF)
  /-- VBFI (R321). Inserts a bit field of va into vc per lane. -/
  | vbfi (f : LvF)
  /-- VSEL (R352). Selects va or b per lane by a predicate. -/
  | vsel (f : LvF)
  /-- VMOV (R349). Copies b unchanged into vd per lane. -/
  | vmov (f : LvF)
  /-- VLI (R346). Writes a 32-bit immediate into vd per lane. -/
  | vli (f : LvF)
  /-- VCMP (R323). Writes a predicate from an integer comparison of va and b per lane. -/
  | vcmp (f : LvF)
  /-- VLANE (R338). Writes each participating lane's id, rank, count or lower-lane mask. -/
  | vlane (f : LvF)
  /-- VADDP (R319). Adds packed 8-bit or 16-bit elements with wrapping. -/
  | vaddp (f : LvF)
  /-- VSUBP (R319). Subtracts packed elements with wrapping. -/
  | vsubp (f : LvF)
  /-- VSHLP (R319). Shifts packed elements left by their own amounts. -/
  | vshlp (f : LvF)
  /-- VSHRP (R319). Shifts packed elements logically right by their own amounts. -/
  | vshrp (f : LvF)
  /-- VSRAP (R319). Shifts packed elements arithmetically right by their own amounts. -/
  | vsrap (f : LvF)
  /-- VMINP (R319). Writes the packed element-wise minimum, signed or unsigned. -/
  | vminp (f : LvF)
  /-- VMAXP (R319). Writes the packed element-wise maximum, signed or unsigned. -/
  | vmaxp (f : LvF)
  /-- VDOT8 (R326). Adds the dot product of four 8-bit element pairs to vc per lane. -/
  | vdot8 (f : LvF)
  /-- VDOT4 (R326). Adds the dot product of eight 4-bit element pairs to vc per lane. -/
  | vdot4 (f : LvF)
  /-- VPACK (R351). Narrows elements of va and b into one packed word per lane. -/
  | vpack (f : LvF)
  /-- VUNPK (R351). Widens the low or high half of a packed word per lane. -/
  | vunpk (f : LvF)
  /-- VFADD (R327). Adds FP32 values per lane under FMT. -/
  | vfadd (f : LvF)
  /-- VFSUB (R327). Subtracts FP32 values per lane under FMT. -/
  | vfsub (f : LvF)
  /-- VFMUL (R327). Multiplies FP32 values per lane under FMT. -/
  | vfmul (f : LvF)
  /-- VFMA (R332). Computes the singly rounded FP32 a * b + c per lane. -/
  | vfma (f : LvF)
  /-- VFMIN (R333). Writes the FP32 minimum per lane with NaN and signed-zero rules. -/
  | vfmin (f : LvF)
  /-- VFMAX (R333). Writes the FP32 maximum per lane with NaN and signed-zero rules. -/
  | vfmax (f : LvF)
  /-- VFCMP (R329). Writes a predicate from an FP32 comparison per lane. -/
  | vfcmp (f : LvF)
  /-- VFRCP (R330). Computes 1/x per lane on the special-function path. -/
  | vfrcp (f : LvF)
  /-- VFRSQ (R330). Computes 1/sqrt(x) per lane on the special-function path. -/
  | vfrsq (f : LvF)
  /-- VFSQRT (R330). Computes the correctly rounded sqrt(x) per lane. -/
  | vfsqrt (f : LvF)
  /-- VFEXP2 (R330). Computes 2^x per lane. -/
  | vfexp2 (f : LvF)
  /-- VFLOG2 (R330). Computes log2 x per lane. -/
  | vflog2 (f : LvF)
  /-- VFSIN (R330). Computes sin(pi x) per lane. -/
  | vfsin (f : LvF)
  /-- VFCOS (R330). Computes cos(pi x) per lane. -/
  | vfcos (f : LvF)
  /-- VFRND (R334). Rounds FP32 values to integral values per lane under a chosen mode. -/
  | vfrnd (f : LvF)
  /-- VFCLS (R328). Classifies the FP32 value of each lane into a one-hot word. -/
  | vfcls (f : LvF)
  /-- VHFMA (R336). Computes two packed 16-bit float multiply-adds per lane in the FMT.HF format. -/
  | vhfma (f : LvF)
  /-- VHADD (R336). Adds two packed 16-bit float elements per lane. -/
  | vhadd (f : LvF)
  /-- VHMUL (R336). Multiplies two packed 16-bit float elements per lane. -/
  | vhmul (f : LvF)
  /-- VCVT (R324). Converts one element per lane between two of the eleven formats. -/
  | vcvt (f : LvF)
  /-- VSHFL (R339). Moves va values between lanes by index, up, down or xor. -/
  | vshfl (f : LvF)
  /-- VRFL (R340). Writes the lowest participating lane's value to a scalar register. -/
  | vrfl (f : LvF)
  /-- VVOTE (R341). Folds a predicate over participating lanes into a scalar ballot, any, all or count. -/
  | vvote (f : LvF)
  /-- VRED (R342). Folds va over the participating lanes into a scalar register. -/
  | vred (f : LvF)
  /-- VSCAN (R342). Writes inclusive or exclusive prefix folds of va across participating lanes. -/
  | vscan (f : LvF)
  /-- BRV (R58). Splits the active mask on a predicate, pushes a reconvergence entry and runs the fall-through path first, or
  opens a speculation window when predicted. -/
  | brv (p : BitVec 3) (neg : Bool) (taken : BitVec 24) (rejoin : BitVec 23)
  /-- VLD (R344). Loads per-lane global elements at register-offset addresses. -/
  | vld (f : LmF)
  /-- VST (R344). Stores per-lane data to global addresses, highest lane winning on overlap. -/
  | vst (f : LmF)
  /-- VLDS (R344). Loads per-lane global elements at a scalar lane stride. -/
  | vlds (f : LmF)
  /-- VSTS (R344). Stores per-lane data at a scalar lane stride. -/
  | vsts (f : LmF)
  /-- LDL (R294). Loads per-lane data from the block's own scratch window. -/
  | ldl (f : LmF)
  /-- STL (R294). Stores per-lane data to the block's own scratch window. -/
  | stl (f : LmF)
  /-- LDR (R294). Loads per-lane data from the scratch of a span position. -/
  | ldr (f : LmF)
  /-- STR (R294). Stores per-lane data to the scratch of a span position, counted outstanding until performed. -/
  | str (f : LmF)
  /-- VATOM (R291). Performs a per-lane atomic read-modify-write on global memory in the requesting die's L2. -/
  | vatom (f : LaF)
  /-- VCAS (R291). Performs a per-lane compare-and-swap on global memory. -/
  | vcas (f : LaF)
  /-- LATOM (R291). Performs a per-lane atomic read-modify-write on own scratch. -/
  | latom (f : LaF)
  /-- MATOM (R148). Sends per-lane far atomics to the atomic unit of the target's home stack. -/
  | matom (f : LaF)
  /-- SATOM (R291). Performs one scalar atomic read-modify-write on global memory. -/
  | satom (f : LaF)
  /-- QPUSH (R300). Appends one vector register as an entry to an owned FIFO bank, or waits when full. -/
  | qpush (f : LmF)
  /-- QPOP (R300). Removes the oldest FIFO entry into a vector register, or waits when empty. -/
  | qpop (f : LmF)
  /-- MCUBE (R119). Arrives at the gang's rendezvous latch with this member's plane and retires when the rendezvous completes
  and is accepted. -/
  | mcube (f : LcF)
  /-- MLDF (R127). Loads a cube plane from scratch into vector registers in fragment layout. -/
  | mldf (f : LfF)
  /-- MZERO (R129). Writes +0 to every element of an accumulator tile in cube order. -/
  | mzero (f : LzF)
  /-- MSTZ (R130). Converts an accumulator tile and stores it row by row to scratch or global memory. -/
  | mstz (f : LzF)
  /-- MRDZ (R129). Copies an accumulator tile into vector registers. -/
  | mrdz (f : LzF)
  /-- MWRZ (R129). Copies vector registers into an accumulator tile. -/
  | mwrz (f : LzF)
  /-- MSCL (R129). Scales the rows or columns of an accumulator tile by FP32 factors. -/
  | mscl (f : LzF)
  /-- XCPY (R354). Issues a copy command to an async engine and returns its handle. -/
  | xcpy (f : LxF)
  /-- XGATH (R356). Issues an indexed gather command and returns its handle. -/
  | xgath (f : LxF)
  /-- XSCAT (R356). Issues an indexed scatter command and returns its handle. -/
  | xscat (f : LxF)
  /-- XRED (R357). Issues an element-wise reduction command and returns its handle. -/
  | xred (f : LxF)
  /-- XSIG (R358). Issues a one-atomic signal command and returns its handle. -/
  | xsig (f : LxF)
  /-- SPILL (R288). Issues an engine command that stores a range of vector registers to memory. -/
  | spill (f : LxF) (first count : BitVec 8)
  /-- FILL (R288). Issues an engine command that reloads a range of vector registers, marking them fill-pending. -/
  | fill (f : LxF) (first count : BitVec 8)
  /-- XPFD (R191). Issues a prefetch of a byte range into the issuing die's L2. -/
  | xpfd (f : LxF) (len : BitVec 6)
  /-- FSNK (R82). Sink stage firing that writes a token to its stream's cursor element and advances the cursor. -/
  | fsnk (stage rep : Nat)
  /-- STEER (R286). Stage firing that routes a data token to its true or false output by a predicate token. -/
  | steer (stage rep : Nat)
  /-- MERGE (R286). Stage firing that takes a token from its true or false input by a predicate token. -/
  | merge (stage rep : Nat)
  /-- STAGE_FIRE (R81). A non-source stage of one replica fires when its inputs hold tokens and its outputs have room, consuming
  and producing tokens. -/
  | stageFire (stage rep : Nat)
  /-- SOURCE_STEP (R81). All source replicas emit element e together once outputs have room and translations are present. -/
  | sourceStep
  /-- DRAIN_STEP (R83). A stage whose inputs all head with DRAIN, and with no firing in flight, consumes them, handles feedback
  queues and emits DRAIN. -/
  | drainStep (stage rep : Nat)
  /-- FURROW_DRAINED (R91). Once every sink is drained and performed, FRWOFF releases, gleans the pool, unparks and writes
  FSTAT, raising FRWERR or setting ERRF on errors. -/
  | furrowDrained
  /-- FURROW_DEADLOCK (R93). After 65,536 cycles with no firing, step or access while a sink is undrained, the furrow ends as
  FRWKILL and FRWERR follows. -/
  | furrowDeadlock
  /-- STREAM_FAULT_SUSPEND (R94). A MEMF on a stream element performs a suspend-drain, stores the furrow context and suspends
  the furrow while the block stays resident. -/
  | streamFaultSuspend (stream rep : Nat)
  /-- FURROW_REENTRY (R93). A suspended or restored furrow re-runs phases 1 to 4 from its saved context once its partition is
  free. -/
  | furrowReentry
  /-- RECONVERGENCE_SWITCH (R60). At the top entry's rejoin PC with a pending mask, the group switches to the taken path. -/
  | reconvergenceSwitch
  /-- RECONVERGENCE_POP (R60). At the top entry's rejoin PC with no pending mask, EXEC and FMT are restored and the entry is
  popped. -/
  | reconvergencePop
  /-- BRV_RESOLUTION (R68). When a BRV's predicate lands, the coulter entry is updated and a predicted window is kept, corrected
  or undone by case. -/
  | brvResolution
  /-- LANE_REPLAY (R68). A window's vector instruction is replayed for wrongly omitted lanes, one per cycle. -/
  | laneReplay
  /-- CUBE_ACCEPT (R113). A completed rendezvous or other matrix instruction enters cube order when the cube queue has room. -/
  | cubeAccept
  /-- CUBE_PASS (R124). The cube executes one queued operation, accumulating into the tile and setting SATF on clamps when it
  ends. -/
  | cubePass
  /-- GROUP_SWAP_OUT (R205). An active group meeting a long wait is swapped out over two issue cycles and the oldest ready
  pending group fills the vacancy. -/
  | groupSwapOut
  /-- ISSUE_BOOST (R205). A ready group left unissued for 256 cycles moves to the front of the active set. -/
  | issueBoost
  /-- PENDING_STARVATION_SWAP (R205). A ready pending group waiting 4,096 cycles forces out the longest-active group. -/
  | pendingStarvationSwap
  /-- TRAP_ENTRY (R214). After outstanding fixed-latency writes land, the trap registers are written, the handler flag set and
  PC moved to the trap entry. -/
  | trapEntry
  /-- LAUNCH_ABORT (R216). A trap in a handler or without a trap entry discards every block of the launch, writes an abort
  record and completes with status 3. -/
  | launchAbort
  /-- RECORD_ENQUEUE (R192). Writing the 8 bytes at RECORD offset 0x038 enqueues the staged 64-byte launch record or sets OVF
  when full. -/
  | recordEnqueue (port : Nat) (last : BitVec 64)
  /-- QSTAT_READ (R192). Reading QSTAT returns queue status and clears the sticky OVF and CROVF bits. -/
  | qstatRead (port : Nat)
  /-- HOST_CANCEL (R201). A write to CANCEL without KILL cancels every uncompleted launch of the port bearing the LID. -/
  | hostCancel (port : Nat) (lid : BitVec 32)
  /-- HOST_CANCEL_KILL (R201). A write to CANCEL with KILL cancels the launches and discards their dispatched blocks. -/
  | hostCancelKill (port : Nat) (lid : BitVec 32)
  /-- RECORD_HEAD_CHECK (R194). A record reaching its queue head is checked, rejected with a completion entry or given a record
  slot and copy. -/
  | recordHeadCheck (port : Nat)
  /-- CODE_OBJECT_LOAD (R236). The device loader copies, checks, binds, maps, relocates and invalidates a code object, then
  marks it resident. -/
  | codeObjectLoad (port : Nat)
  /-- WAIT_CONDITION_TEST (R197). The dispatcher re-tests a head record's wait conditions at least every 10 µs or on a counter
  update. -/
  | waitConditionTest (port : Nat)
  /-- DISPATCH_LATCH (R199). Each cycle every ready queue head latches at most one block, placed by priority, power headroom and
  fit. -/
  | dispatchLatch (port : Nat)
  /-- DEFERRAL_ELIGIBILITY (R207). A block deferred for 100 µs becomes eligible and takes a power reservation on a die. -/
  | deferralEligibility (port : Nat)
  /-- BLOCK_ADMISSION (R21). A latched block's resources are allocated and gleaned, its stack frame assigned and zeroed, and its
  groups start together. -/
  | blockAdmission (uid : Nat)
  /-- BLOCK_COMPLETION (R31). When every group has exited and outstanding counters read zero, the block releases its resources
  with a device-scope release. -/
  | blockCompletion (uid : Nat)
  /-- LAUNCH_COMPLETION (R206). After the last block completes, the launch releases, applies its signal, writes its completion
  entry and interrupts. -/
  | launchCompletion (key : Nat)
  /-- PREEMPTION (R203). The dispatcher stops lower-priority victim blocks or spans to make room for a ready head. -/
  | preemption (port : Nat)
  /-- CONTEXT_SAVE (R220). Once victims are stopped and memory is quiet, each group and block context is written to its
  scheduler-owned area. -/
  | contextSave (uid : Nat)
  /-- BLOCK_RESTORE (R221). A saved block is placed with its recorded partition, gleaned, its contexts written back and its
  engines and furrows resumed. -/
  | blockRestore (uid : Nat)
  /-- GOVERNOR_SAMPLE (R208). Every 10 µs the governor samples die power and moves the die between NORMAL, TIGHT, THROTTLE and
  CLOCKDOWN. -/
  | governorSample (die mw : Nat)
  /-- STACK_FREEZE (R209). A stack reaching its critical temperature enters self-refresh and freezes issue on every core. -/
  | stackFreeze (stack : Nat)
  /-- STACK_RESUME (R209). After every stack stays 5 °C below critical for 1 ms, the device resumes. -/
  | stackResume
  /-- BANK_SWITCH (R135). A local-store bank mode switch writes back, invalidates and gleans the bank and ends within 2,048
  cycles. -/
  | bankSwitch (bank : Nat)
  /-- LOAD_DATA_RETURN (R137). Data for a missed sector arrives, fills L1 where allowed and lands in the waiting destination
  registers. -/
  | loadDataReturn (va : Addr)
  /-- MISS_QUEUE_RELEASE (R147). A request waiting under a pseudo-channel cap takes a freed miss slot or register, oldest first.
  -/
  | missQueueRelease (channel : Nat)
  /-- L1_SECTOR_EXPIRY (R170). An L1 sector is dropped no later than 2,048 cycles after it was filled. -/
  | l1SectorExpiry (sector : Nat)
  /-- ATOMIC_UNIT_OPERATION (R148). After recalling every copy, the home stack's atomic unit reads, updates and writes the
  sector. -/
  | atomicUnitOperation (op : AtomReq)
  /-- PAGE_WALK (R151). A TLB miss walks the five-level tables, joins matching walks and returns a leaf or a fault. -/
  | pageWalk (va : Addr)
  /-- INSTRUCTION_FETCH_FILL (R238). A fetch miss is filled through L1I, L2I and L3I or parks the group on a fetch fault. -/
  | instructionFetchFill (va : Addr)
  /-- RDS (R174). A read-shared request reaches the home, which grants E or S or forwards to the owner. -/
  | rds (die sector : Nat)
  /-- RDX (R174). A read-for-ownership request reaches the home, which invalidates holders and grants M. -/
  | rdx (die sector : Nat)
  /-- UPG (R174). An upgrade request from S or O invalidates other holders and grants M. -/
  | upg (die sector : Nat)
  /-- WBK (R174). A writeback of an M or O sector is written to HBM4E and answered with CMP. -/
  | wbk (die sector : Nat)
  /-- EVC (R174). An eviction notice clears the die's MASK bit and its E sectors. -/
  | evc (die sector : Nat)
  /-- SFW (R174). A forward-shared snoop makes the owner send DAT(S) to the requester and keep S or O. -/
  | sfw (die sector : Nat)
  /-- SFX (R174). A forward-exclusive snoop makes the owner send DAT(M) and drop its copy. -/
  | sfx (die sector : Nat)
  /-- SIN (R365). An invalidate snoop drops the holder's copy and is answered with ACK, carrying data if dirty. -/
  | sin (die sector : Nat)
  /-- DAT (R174). A data response installs the sector at the requester in the granted state. -/
  | dat (die sector : Nat)
  /-- ACK (R174). A snoop acknowledgement reaches the home with the state held and any dirty data. -/
  | ack (die sector : Nat)
  /-- CMP (R175). A completion ends the requester's transaction and frees a held writeback buffer. -/
  | cmp (die sector : Nat)
  /-- ENGINE_START (R187). An engine starts a live command in issue order and rejects it if its command block fails the checks. -/
  | engineStart (num : BitVec 8)
  /-- ENGINE_ELEMENT (R189). An engine reads, converts or combines, and writes one element, stopping on MEMF or PROT. -/
  | engineElement (num : BitVec 8)
  /-- ENGINE_COMPLETION (R184). A command's handle becomes done once every element is performed, releasing at its scope when REL
  is set. -/
  | engineCompletion (num : BitVec 8)
  /-- ENGINE_CANCEL_STOP (R186). An engine asked to cancel stops at its next element boundary and its handle becomes cancelled. -/
  | engineCancelStop (num : BitVec 8)
  /-- FAULT_RESOLVED (R217). A FANS write answering resolved replays the faulting instruction, engine element, stream or stage
  access. -/
  | faultResolved (vf seq : Nat)
  /-- FAULT_DENIED (R217). A FANS write answering denied turns the fault into PROT, a PROT stop, a furrow end or an error token.
  -/
  | faultDenied (vf seq : Nat)
  /-- FSTS_READ (R248). Reading FSTS returns WFLT and FBOVF and clears WFLT. -/
  | fstsRead (vf : Nat)
  /-- MODULE_UNLOAD_REQUEST (R237). A write to UNLOAD requests the unload of a registry entry's module. -/
  | moduleUnloadRequest (vf index : Nat)
  /-- MODULE_UNLOAD (R237). Once the module's launches complete, its sections are unmapped and its translations and instruction
  lines invalidated. -/
  | moduleUnload (vf index : Nat)
  /-- FUNCTION_TABLE_WRITE (R247). A write to a function-table entry sets its fields, refusing EN or protected changes under the
  stated conditions. -/
  | functionTableWrite (vf off : Nat) (val : BitVec 64)
  /-- PLACEMENT_TABLE_WRITE (R141). A BAR0 write to the placement table updates entries, leaving any entry written with 2 or 3
  unchanged. -/
  | placementTableWrite (first : Nat) (val : BitVec 64)
  /-- INVALIDATE_ASID (R250). Invalidation kind 0 drops every TLB and walk-cache entry of an address-space id. -/
  | invalidateAsid (asid : Nat)
  /-- INVALIDATE_PAGE (R250). Invalidation kind 1 drops the translations of one page of an address-space id. -/
  | invalidatePage (asid : Nat) (va : Addr)
  /-- FLUSH_QUAD (R250). Invalidation kind 2 writes back and drops every cached sector of a quad on every die. -/
  | flushQuad (pa : Nat)
  /-- FLUSH_KEY (R250). Invalidation kind 3 writes back and drops every cached sector of a key. -/
  | flushKey (key : Nat)
  /-- INVALIDATION_COMPLETE (R152). An invalidation command completes when every matching entry is dropped and every access
  using one is performed, and GO reads 0. -/
  | invalidationComplete
  /-- HOST_WINDOW_ACCESS (R245). A host access through the BAR2 memory window is translated and judged, reading all ones and
  setting WFLT on a fault. -/
  | hostWindowAccess (vf off : Nat) (size : BitVec 2) (data : Option (BitVec 64))
  /-- MCPOP_WRITE (R228). Writing n to MCPOP frees the n oldest machine-check log entries. -/
  | mcpopWrite (die n : Nat)
  /-- MCCLR_WRITE (R228). Writing 1 to MCCLR clears OVF and LOST. -/
  | mcclrWrite (die : Nat) (val : BitVec 64)
  /-- DIE_LINK_RETRANSMIT (R222). A die-link flit that fails its CRC is retransmitted and logged. -/
  | dieLinkRetransmit (die other : Nat)
  /-- FATAL_ERROR (R224). A fatal event stops issue on every core, aborts every running launch and interrupts the physical
  function. -/
  | fatalError
  /-- BUDGET_WRITE (R254). A write to BUD or BASE sets a die's budget, applied at the next sample and scaled to the package
  limit. -/
  | budgetWrite (die : Nat) (base : Bool) (watts : Nat)
  /-- STRELFEL_PORT_FAILURE (R251). A failed Strelfel port is dropped from every peer mask and its flits are resent on the
  remaining ports. -/
  | strelfelPortFailure (port : Nat)
  /-- PEER_INCOMING_ACCESS (R251). An incoming peer write or reduction is applied under key 0 or refused above the incoming
  limit. -/
  | peerIncomingAccess (peer : Nat) (op : AtomReq)
  /-- SPDM_MEASUREMENT_READ (R252). An SPDM request returns signed measurements of the firmware, address map, repair tables or
  key policy. -/
  | spdmMeasurementRead (index : Nat)
  /-- KEY_INSTALL (R252). A vendor-defined message in a secured session installs a tenant key if fresh measurements were read. -/
  | keyInstall (key : Nat)
  /-- KEY_CLEAR (R249). A vendor-defined message clears a key slot after a kind-3 invalidation for that key completes. -/
  | keyClear (key : Nat)
  /-- FIRMWARE_UPDATE (R253). A firmware image written through BAR0 is verified in on-chip memory and replaces the old image.
`good` is the outcome of the verification. -/
  | firmwareUpdate (good interrupted : Bool)
  /-- DEVICE_RESET (R253). A reset checks the firmware image before any core runs and clears device state. -/
  | deviceReset
  /-- REGISTER_WRITE (R246). A write to a BAR0 or BAR2 register with no behaviour of its own stores the value, reserved bits
  ignored. -/
  | registerWrite (bar2 : Bool) (off : Nat) (val : BitVec 64)
  /-- FBTAIL_WRITE (R248). A host write to FBTAIL frees fault-buffer space, so a fault record waiting in the device is written
  and its groups' fault handling proceeds. -/
  | fbtailWrite (vf : Nat) (val : BitVec 64)
  /-- PEER_ACKNOWLEDGEMENT (R354). A peer's acknowledgement arrives over the Strelfel ports, marking an engine element written
  to that peer as performed. -/
  | peerAcknowledgement (num : BitVec 8)
  /-- SPECIAL_FUNCTION_RESULT (R331). A special-function result lands 16 to 24 cycles after issue, in issue order, and clears
  the scoreboard of its destination. -/
  | specialFunctionResult
  /-- DIVISION_RESULT (R306). The partition's iterative divider finishes a division, writes its scoreboarded result and starts
  the next division waiting in issue order. -/
  | divisionResult
  /-- LINK_TRAINING (R244). The PCI Express host link trains at a supported rate and width, x1 to x16, when it comes up. -/
  | linkTraining (rate width : Nat)
  /-- SECURED_SESSION (R252). An SPDM request on the DOE mailbox establishes a secured session, whose measurement readings gate
  later key installation. -/
  | securedSession
  deriving DecidableEq, Repr

end Sys2Proof
end

