-- ==== Sys2Proof/WellFormed.lean ====
section
/-! DEFINITION. What makes an instruction legal beyond the widths of its fields: the codes, the zero fields and the marks
that R258 to R271 and the rules of the single instructions forbid. -/

namespace Sys2Proof

/-- What the bytes at an address are when they are no instruction (R271): too few of them, or an illegal pattern of the
given length in bytes. -/
inductive Reject where
  | truncated
  | illegal (len : Nat)
  deriving DecidableEq, Repr

/-- An unused source field: zero and without a mark (R267, R50). -/
def VSrc.unused (r : VSrc) : Bool := r.reg == 0 && !r.lr

/-- The legal forms of source b (R314, R315, R335): none at all, vector and scalar, or those and the immediate. -/
inductive BForms where
  | none | vs | vsi
  deriving DecidableEq, Repr

/-- Source b against its legal forms (R267). -/
def BSrc.fits : BSrc → BForms → Bool
  | .vec r, .none => r.unused
  | _, .none => false
  | .imm _, .vs => false
  | _, _ => true

/-- What the destination field of an LV instruction names (R267). -/
inductive DstKind where
  | vec | pred | scal
  deriving DecidableEq, Repr

/-- The destination field against its kind (R267): pd in 3 bits, s in 6. -/
def DstKind.fits : DstKind → BitVec 8 → Bool
  | .vec, _ => true
  | .pred, d => decide (d.toNat < 8)
  | .scal, d => decide (d.toNat < 64)

/-- The fields of LV (R267, R268): a and c used or zero, b in a legal form, the destination, ext8. -/
def LvF.fits (f : LvF) (a : Bool) (b : BForms) (c : Bool) (d : DstKind) (ext : Bool) : Bool :=
  (a || f.a.unused) && f.b.fits b && (c || f.c.unused) && d.fits f.vd && ext

/-- VLI (R267, R346): imm32 in ext8 and [48:25]; no mark, no modifier. -/
def LvF.fitsVli (f : LvF) : Bool :=
  !f.a.lr && !f.c.lr && match f.b with
  | .vec r => !r.lr
  | _ => false

/-- R156, R158: a scope code of 0 to 5, and zero where the access is relaxed. -/
def scopeFits (ord : Bool) (scope : BitVec 3) : Bool := if ord then decide (scope.toNat ≤ 5) else scope == 0

/-- WM of SLD and SST (R274). -/
def WmF.fitsScalar (f : WmF) (load : Bool) : Bool :=
  scopeFits f.ord f.scope && decide (f.size.toNat ≤ 3) && (!f.signed || (load && f.size != 3))

/-- WM of ALD and AST (R274). -/
def WmF.fitsAddr (f : WmF) : Bool :=
  scopeFits f.ord f.scope && f.size == 4 && !f.signed && decide (f.r.toNat < 16)

/-- What R269 requires of every LM load or store: size code, sign, order, the scalar offset. -/
def LmF.fitsAll (f : LmF) (load : Bool) : Bool :=
  scopeFits f.ord f.scope && decide (f.size.toNat ≤ 4) && (!f.sign || (load && decide (f.size.toNat ≤ 1))) &&
    (!load || !f.lrd) && (!f.os || (decide (f.vo.toNat < 64) && !f.lro))

/-- VLD and VST (R343). -/
def LmF.fitsGlobal (f : LmF) (load : Bool) : Bool := f.fitsAll load && f.stride == 0

/-- VLDS and VSTS (R343). -/
def LmF.fitsStrided (f : LmF) (load : Bool) : Bool :=
  f.fitsAll load && f.vo == 0 && !f.os && !f.lro && f.scale == 0

/-- LDL and STL, with `span` LDR and STR (R269, R294). -/
def LmF.fitsScratch (f : LmF) (load span : Bool) : Bool :=
  f.fitsAll load && f.stride == 0 && if span then decide (f.n.toNat < 4) else f.n == 0

/-- QPUSH and QPOP (R299). -/
def LmF.fitsFifo (f : LmF) (pop : Bool) : Bool :=
  f.vo == 0 && f.scale == 0 && !f.os && !f.lro && f.stride == 0 && f.imm == 0 && !f.sign && !f.ord && f.scope == 0 &&
    f.size == 2 && f.n != 15 && (!pop || !f.lrd)

/-- LA (R261, R269, R290): the operations from 0 to `top`, the scope, fadd of 32 bits only, vc zero but for cas. -/
def LaF.fits (f : LaF) (top : Nat) (cas : Bool) : Bool :=
  decide (f.aop.toNat ≤ top) && scopeFits (f.order != 0) f.scope && !(f.aop == 1 && f.w64) &&
    (cas || f.aop == 10 || f.vc == 0)

/-- LA of SATOM: s registers in six bits (R269). -/
def LaF.fitsScalar (f : LaF) : Bool :=
  f.fits 10 false && decide (f.vd.toNat < 64) && decide (f.va.toNat < 64) && decide (f.vb.toNat < 64) &&
    decide (f.vc.toNat < 64)

/-- LF (R127): rows codes 0 to 4, no transposition of 4-bit elements. -/
def LfF.fits (f : LfF) : Bool := decide (f.rows.toNat ≤ 4) && !(f.t && decide (6 ≤ f.ef.toNat))

/-- The guard of R14 that takes no part (R266): p7, not negated. -/
def Guard.off (g : Guard) : Bool := !g.pn && g.pg == 7

/-- LX (R181): a scope only beside ACQ or REL. -/
def LxF.fits (f : LxF) : Bool := scopeFits (f.acq || f.rel) f.scope

/-- Whether an instruction is one the encodings of spec/ give: the device events are no instructions and hold nothing to
check. -/
def wellFormed : Instr → Bool
  | .vmovC16 _ _ _ => true
  | .vaddC16 _ _ _ => true
  | .vsubC16 _ _ _ => true
  | .vmulC16 _ _ _ => true
  | .vandC16 _ _ _ => true
  | .vorC16 _ _ _ => true
  | .vxorC16 _ _ _ => true
  | .vshlC16 _ _ _ => true
  | .vshrC16 _ _ _ => true
  | .vminC16 _ _ _ => true
  | .vmaxC16 _ _ _ => true
  | .vfaddC16 _ _ _ => true
  | .vfsubC16 _ _ _ => true
  | .vfmulC16 _ _ _ => true
  | .vfminC16 _ _ _ => true
  | .vfmaxC16 _ _ _ => true
  | .nop => true
  | .imx _ => true
  | .sadd _ _ _ _ => true
  | .ssub _ _ _ _ => true
  | .sand _ _ _ _ => true
  | .sor _ _ _ _ => true
  | .sxor _ _ _ _ => true
  | .sshl _ _ _ _ => true
  | .sshr _ _ _ _ => true
  | .ssra _ _ _ _ => true
  | .smul _ _ _ _ => true
  | .smulhs _ _ _ _ => true
  | .smulhu _ _ _ _ => true
  | .smins _ _ _ _ => true
  | .smaxs _ _ _ _ => true
  | .sminu _ _ _ _ => true
  | .smaxu _ _ _ _ => true
  | .sdivs _ _ _ _ => true
  | .sdivu _ _ _ _ => true
  | .srems _ _ _ _ => true
  | .sremu _ _ _ _ => true
  | .sclz _ _ _ => true
  | .sctz _ _ _ => true
  | .spopc _ _ _ => true
  | .ssel _ _ _ _ _ => true
  | .saddi _ _ _ => true
  | .sandi _ _ _ => true
  | .sori _ _ _ => true
  | .sxori _ _ _ => true
  | .sshli _ _ _ => true
  | .sshri _ _ _ => true
  | .ssrai _ _ _ => true
  | .sli _ _ => true
  | .scmp _ k _ _ => decide (k.toNat ≤ 9)
  | .scmpi _ k _ _ => decide (k.toNat ≤ 9)
  | .aadd _ _ _ => true
  | .aaddi _ _ _ => true
  | .amov _ _ => true
  | .aget _ _ => true
  | .asub _ _ _ => true
  | .sld f => f.fitsScalar true
  | .sst f => f.fitsScalar false
  | .ald f => f.fitsAddr
  | .ast f => f.fitsAddr
  | .br _ => true
  | .brc _ _ _ => true
  | .call _ => true
  | .ret _ => true
  | .jmpa _ => true
  | .calla _ => true
  | .brva _ _ _ => true
  | .brvn _ _ _ => true
  | .brvl _ _ _ => true
  | .exit => true
  | .trap _ => true
  | .bkpt _ => true
  | .waith _ => true
  | .testh _ _ _ => true
  | .canch _ => true
  | .setfmt _ => true
  | .sysrd _ _ => true
  | .syswr _ _ => true
  | .setgang _ => true
  | .bar _ => true
  | .bars _ => true
  | .fence _ scope => decide (scope.toNat ≤ 5)
  | .fetchb => true
  | .ipf level _ _ => decide (level.toNat ≤ 2)
  | .eret mode => mode != 3
  | .yield => true
  | .frwon _ => true
  | .frwoff _ => true
  | .frwkill => true
  | .frwdep _ _ _ => true
  | .launch _ _ => true
  | .lcancel _ _ _ => true
  | .vadd f => f.fits true .vsi false .vec (f.ext.toNat ≤ 2)
  | .vsub f => f.fits true .vsi false .vec (f.ext.toNat ≤ 2)
  | .vmul f => f.fits true .vsi false .vec (f.ext == 0)
  | .vmulh f => f.fits true .vsi false .vec (f.ext.toNat < 4)
  | .vmad f => f.fits true .vs true .vec (f.ext == 0)
  | .vaddc f => f.fits true .vsi false .vec (f.ext.toNat < 64)
  | .vand f => f.fits true .vsi false .vec (f.ext == 0)
  | .vor f => f.fits true .vsi false .vec (f.ext == 0)
  | .vxor f => f.fits true .vsi false .vec (f.ext == 0)
  | .vnot f => f.fits true .none false .vec (f.ext == 0)
  | .vshl f => f.fits true .vsi false .vec (f.ext == 0)
  | .vshr f => f.fits true .vsi false .vec (f.ext == 0)
  | .vsra f => f.fits true .vsi false .vec (f.ext == 0)
  | .vmin f => f.fits true .vsi false .vec (f.ext.toNat < 2)
  | .vmax f => f.fits true .vsi false .vec (f.ext.toNat < 2)
  | .vabs f => f.fits true .none false .vec (f.ext.toNat < 2)
  | .vneg f => f.fits true .none false .vec (f.ext.toNat < 2)
  | .vclz f => f.fits true .none false .vec (f.ext == 0)
  | .vpopc f => f.fits true .none false .vec (f.ext == 0)
  | .vbfe f => f.fits true .vsi false .vec (f.ext.toNat < 2)
  | .vbfi f => f.fits true .vs true .vec (f.ext == 0)
  | .vsel f => f.fits true .vsi false .vec (f.ext.toNat < 8)
  | .vmov f => f.fits false .vsi false .vec (f.ext == 0)
  | .vli f => f.fitsVli
  | .vcmp f => f.fits true .vsi false .pred (f.ext.toNat ≤ 9)
  | .vlane f => f.fits false .none false .vec (f.ext.toNat < 4)
  | .vaddp f => f.fits true .vsi false .vec (f.ext.toNat < 2)
  | .vsubp f => f.fits true .vsi false .vec (f.ext.toNat < 2)
  | .vshlp f => f.fits true .vsi false .vec (f.ext.toNat < 2)
  | .vshrp f => f.fits true .vsi false .vec (f.ext.toNat < 2)
  | .vsrap f => f.fits true .vsi false .vec (f.ext.toNat < 2)
  | .vminp f => f.fits true .vsi false .vec (f.ext.toNat < 4)
  | .vmaxp f => f.fits true .vsi false .vec (f.ext.toNat < 4)
  | .vdot8 f => f.fits true .vs true .vec (f.ext.toNat < 8)
  | .vdot4 f => f.fits true .vs true .vec (f.ext.toNat < 8)
  | .vpack f => f.fits true .vs false .vec (f.ext.toNat < 6)
  | .vunpk f => f.fits true .none false .vec (f.ext.toNat < 16 && f.ext.toNat % 8 < 6)
  | .vfadd f => f.fits true .vsi false .vec (f.ext == 0)
  | .vfsub f => f.fits true .vsi false .vec (f.ext == 0)
  | .vfmul f => f.fits true .vsi false .vec (f.ext == 0)
  | .vfma f => f.fits true .vs true .vec (f.ext == 0)
  | .vfmin f => f.fits true .vsi false .vec (f.ext == 0)
  | .vfmax f => f.fits true .vsi false .vec (f.ext == 0)
  | .vfcmp f => f.fits true .vsi false .pred (f.ext.toNat < 8)
  | .vfrcp f => f.fits true .none false .vec (f.ext == 0)
  | .vfrsq f => f.fits true .none false .vec (f.ext == 0)
  | .vfsqrt f => f.fits true .none false .vec (f.ext == 0)
  | .vfexp2 f => f.fits true .none false .vec (f.ext == 0)
  | .vflog2 f => f.fits true .none false .vec (f.ext == 0)
  | .vfsin f => f.fits true .none false .vec (f.ext == 0)
  | .vfcos f => f.fits true .none false .vec (f.ext == 0)
  | .vfrnd f => f.fits true .none false .vec (f.ext == 0 || (4 ≤ f.ext.toNat && f.ext.toNat < 8))
  | .vfcls f => f.fits true .none false .vec (f.ext == 0)
  | .vhfma f => f.fits true .vs true .vec (f.ext == 0)
  | .vhadd f => f.fits true .vsi false .vec (f.ext == 0)
  | .vhmul f => f.fits true .vsi false .vec (f.ext == 0)
  | .vcvt f => f.fits true .none false .vec (f.ext.toNat % 16 ≤ 10 && f.ext.toNat / 16 ≤ 10)
  | .vshfl f => f.fits true .vsi false .vec (f.ext.toNat < 4)
  | .vrfl f => f.fits true .none false .scal (f.ext.toNat < 2)
  | .vvote f => f.fits true .none false .scal (decide (f.ext.toNat < 4)) && !f.a.lr && decide (f.a.reg.toNat < 8)
  | .vred f => f.fits true .none false .scal (f.ext.toNat ≤ 11)
  | .vscan f => f.fits true .none false .vec (f.ext.toNat < 32 && (f.ext.toNat % 16 ≤ 9 && f.ext.toNat % 16 != 1))
  | .brv _ _ _ _ => true
  | .vld f => f.fitsGlobal true
  | .vst f => f.fitsGlobal false
  | .vlds f => f.fitsStrided true
  | .vsts f => f.fitsStrided false
  | .ldl f => f.fitsScratch true false
  | .stl f => f.fitsScratch false false
  | .ldr f => f.fitsScratch true true
  | .str f => f.fitsScratch false true
  | .vatom f => f.fits 9 false
  | .vcas f => f.fits 0 true
  | .latom f => f.fits 10 false && f.n == 0
  | .matom f => f.fits 10 false
  | .satom f => f.fitsScalar
  | .qpush f => f.fitsFifo false
  | .qpop f => f.fitsFifo true
  | .mcube f => decide (f.mc.toNat < 4)
  | .mldf f => f.fits
  | .mzero f => f.g.off && f.base == 0 && decide (f.mc.toNat < 4) && f.n == 0 && f.fmt == 0 && f.hi == 0 && !f.sat
  | .mstz f => f.g.off && decide (f.base.toNat < 64) && decide (f.mc.toNat < 4) && f.fmt != 7
  | .mrdz f => decide (f.mc.toNat < 4) && f.n == 0 && f.fmt == 0 && f.hi == 0 && !f.sat
  | .mwrz f => decide (f.mc.toNat < 4) && f.n == 0 && f.fmt == 0 && f.hi == 0 && !f.sat
  | .mscl f => f.g.off && decide (f.mc.toNat < 4) && f.n == 0 && f.fmt == 0 && decide (f.hi.toNat < 2) && !f.sat
  | .xcpy f => f.fits
  | .xgath f => f.fits
  | .xscat f => f.fits
  | .xred f => f.fits
  | .xsig f => f.fits
  | .spill f _ _ => f.fits
  | .fill f _ _ => f.fits
  | .xpfd f _ => !f.acq && !f.rel && f.scope == 0
  | .fsnk _ _ => true
  | .steer _ _ => true
  | .merge _ _ => true
  | .stageFire _ _ => true
  | .sourceStep => true
  | .drainStep _ _ => true
  | .furrowDrained => true
  | .furrowDeadlock => true
  | .streamFaultSuspend _ _ => true
  | .furrowReentry => true
  | .reconvergenceSwitch => true
  | .reconvergencePop => true
  | .brvResolution => true
  | .laneReplay => true
  | .cubeAccept => true
  | .cubePass => true
  | .groupSwapOut => true
  | .issueBoost => true
  | .pendingStarvationSwap => true
  | .trapEntry => true
  | .launchAbort => true
  | .recordEnqueue _ _ => true
  | .qstatRead _ => true
  | .hostCancel _ _ => true
  | .hostCancelKill _ _ => true
  | .recordHeadCheck _ => true
  | .codeObjectLoad _ => true
  | .waitConditionTest _ => true
  | .dispatchLatch _ => true
  | .deferralEligibility _ => true
  | .blockAdmission _ => true
  | .blockCompletion _ => true
  | .launchCompletion _ => true
  | .preemption _ => true
  | .contextSave _ => true
  | .blockRestore _ => true
  | .governorSample _ _ => true
  | .stackFreeze _ => true
  | .stackResume => true
  | .bankSwitch _ => true
  | .loadDataReturn _ => true
  | .missQueueRelease _ => true
  | .l1SectorExpiry _ => true
  | .atomicUnitOperation _ => true
  | .pageWalk _ => true
  | .instructionFetchFill _ => true
  | .rds _ _ => true
  | .rdx _ _ => true
  | .upg _ _ => true
  | .wbk _ _ => true
  | .evc _ _ => true
  | .sfw _ _ => true
  | .sfx _ _ => true
  | .sin _ _ => true
  | .dat _ _ => true
  | .ack _ _ => true
  | .cmp _ _ => true
  | .engineStart _ => true
  | .engineElement _ => true
  | .engineCompletion _ => true
  | .engineCancelStop _ => true
  | .faultResolved _ _ => true
  | .faultDenied _ _ => true
  | .fstsRead _ => true
  | .moduleUnloadRequest _ _ => true
  | .moduleUnload _ _ => true
  | .functionTableWrite _ _ _ => true
  | .placementTableWrite _ _ => true
  | .invalidateAsid _ => true
  | .invalidatePage _ _ => true
  | .flushQuad _ => true
  | .flushKey _ => true
  | .invalidationComplete => true
  | .hostWindowAccess _ _ _ _ => true
  | .mcpopWrite _ _ => true
  | .mcclrWrite _ _ => true
  | .dieLinkRetransmit _ _ => true
  | .fatalError => true
  | .budgetWrite _ _ _ => true
  | .strelfelPortFailure _ => true
  | .peerIncomingAccess _ _ => true
  | .spdmMeasurementRead _ => true
  | .keyInstall _ => true
  | .keyClear _ => true
  | .firmwareUpdate _ _ => true
  | .deviceReset => true
  | .registerWrite _ _ _ => true
  | .fbtailWrite _ _ => true
  | .peerAcknowledgement _ => true
  | .specialFunctionResult => true
  | .divisionResult => true
  | .linkTraining _ _ => true
  | .securedSession => true

/-- Whether a constructor is a furrow stage firing or a device event, which no word of memory encodes. -/
def isEvent : Instr → Bool
  | .vmovC16 _ _ _ => false
  | .vaddC16 _ _ _ => false
  | .vsubC16 _ _ _ => false
  | .vmulC16 _ _ _ => false
  | .vandC16 _ _ _ => false
  | .vorC16 _ _ _ => false
  | .vxorC16 _ _ _ => false
  | .vshlC16 _ _ _ => false
  | .vshrC16 _ _ _ => false
  | .vminC16 _ _ _ => false
  | .vmaxC16 _ _ _ => false
  | .vfaddC16 _ _ _ => false
  | .vfsubC16 _ _ _ => false
  | .vfmulC16 _ _ _ => false
  | .vfminC16 _ _ _ => false
  | .vfmaxC16 _ _ _ => false
  | .nop => false
  | .imx _ => false
  | .sadd _ _ _ _ => false
  | .ssub _ _ _ _ => false
  | .sand _ _ _ _ => false
  | .sor _ _ _ _ => false
  | .sxor _ _ _ _ => false
  | .sshl _ _ _ _ => false
  | .sshr _ _ _ _ => false
  | .ssra _ _ _ _ => false
  | .smul _ _ _ _ => false
  | .smulhs _ _ _ _ => false
  | .smulhu _ _ _ _ => false
  | .smins _ _ _ _ => false
  | .smaxs _ _ _ _ => false
  | .sminu _ _ _ _ => false
  | .smaxu _ _ _ _ => false
  | .sdivs _ _ _ _ => false
  | .sdivu _ _ _ _ => false
  | .srems _ _ _ _ => false
  | .sremu _ _ _ _ => false
  | .sclz _ _ _ => false
  | .sctz _ _ _ => false
  | .spopc _ _ _ => false
  | .ssel _ _ _ _ _ => false
  | .saddi _ _ _ => false
  | .sandi _ _ _ => false
  | .sori _ _ _ => false
  | .sxori _ _ _ => false
  | .sshli _ _ _ => false
  | .sshri _ _ _ => false
  | .ssrai _ _ _ => false
  | .sli _ _ => false
  | .scmp _ _ _ _ => false
  | .scmpi _ _ _ _ => false
  | .aadd _ _ _ => false
  | .aaddi _ _ _ => false
  | .amov _ _ => false
  | .aget _ _ => false
  | .asub _ _ _ => false
  | .sld _ => false
  | .sst _ => false
  | .ald _ => false
  | .ast _ => false
  | .br _ => false
  | .brc _ _ _ => false
  | .call _ => false
  | .ret _ => false
  | .jmpa _ => false
  | .calla _ => false
  | .brva _ _ _ => false
  | .brvn _ _ _ => false
  | .brvl _ _ _ => false
  | .exit => false
  | .trap _ => false
  | .bkpt _ => false
  | .waith _ => false
  | .testh _ _ _ => false
  | .canch _ => false
  | .setfmt _ => false
  | .sysrd _ _ => false
  | .syswr _ _ => false
  | .setgang _ => false
  | .bar _ => false
  | .bars _ => false
  | .fence _ _ => false
  | .fetchb => false
  | .ipf _ _ _ => false
  | .eret _ => false
  | .yield => false
  | .frwon _ => false
  | .frwoff _ => false
  | .frwkill => false
  | .frwdep _ _ _ => false
  | .launch _ _ => false
  | .lcancel _ _ _ => false
  | .vadd _ => false
  | .vsub _ => false
  | .vmul _ => false
  | .vmulh _ => false
  | .vmad _ => false
  | .vaddc _ => false
  | .vand _ => false
  | .vor _ => false
  | .vxor _ => false
  | .vnot _ => false
  | .vshl _ => false
  | .vshr _ => false
  | .vsra _ => false
  | .vmin _ => false
  | .vmax _ => false
  | .vabs _ => false
  | .vneg _ => false
  | .vclz _ => false
  | .vpopc _ => false
  | .vbfe _ => false
  | .vbfi _ => false
  | .vsel _ => false
  | .vmov _ => false
  | .vli _ => false
  | .vcmp _ => false
  | .vlane _ => false
  | .vaddp _ => false
  | .vsubp _ => false
  | .vshlp _ => false
  | .vshrp _ => false
  | .vsrap _ => false
  | .vminp _ => false
  | .vmaxp _ => false
  | .vdot8 _ => false
  | .vdot4 _ => false
  | .vpack _ => false
  | .vunpk _ => false
  | .vfadd _ => false
  | .vfsub _ => false
  | .vfmul _ => false
  | .vfma _ => false
  | .vfmin _ => false
  | .vfmax _ => false
  | .vfcmp _ => false
  | .vfrcp _ => false
  | .vfrsq _ => false
  | .vfsqrt _ => false
  | .vfexp2 _ => false
  | .vflog2 _ => false
  | .vfsin _ => false
  | .vfcos _ => false
  | .vfrnd _ => false
  | .vfcls _ => false
  | .vhfma _ => false
  | .vhadd _ => false
  | .vhmul _ => false
  | .vcvt _ => false
  | .vshfl _ => false
  | .vrfl _ => false
  | .vvote _ => false
  | .vred _ => false
  | .vscan _ => false
  | .brv _ _ _ _ => false
  | .vld _ => false
  | .vst _ => false
  | .vlds _ => false
  | .vsts _ => false
  | .ldl _ => false
  | .stl _ => false
  | .ldr _ => false
  | .str _ => false
  | .vatom _ => false
  | .vcas _ => false
  | .latom _ => false
  | .matom _ => false
  | .satom _ => false
  | .qpush _ => false
  | .qpop _ => false
  | .mcube _ => false
  | .mldf _ => false
  | .mzero _ => false
  | .mstz _ => false
  | .mrdz _ => false
  | .mwrz _ => false
  | .mscl _ => false
  | .xcpy _ => false
  | .xgath _ => false
  | .xscat _ => false
  | .xred _ => false
  | .xsig _ => false
  | .spill _ _ _ => false
  | .fill _ _ _ => false
  | .xpfd _ _ => false
  | .fsnk _ _ => true
  | .steer _ _ => true
  | .merge _ _ => true
  | .stageFire _ _ => true
  | .sourceStep => true
  | .drainStep _ _ => true
  | .furrowDrained => true
  | .furrowDeadlock => true
  | .streamFaultSuspend _ _ => true
  | .furrowReentry => true
  | .reconvergenceSwitch => true
  | .reconvergencePop => true
  | .brvResolution => true
  | .laneReplay => true
  | .cubeAccept => true
  | .cubePass => true
  | .groupSwapOut => true
  | .issueBoost => true
  | .pendingStarvationSwap => true
  | .trapEntry => true
  | .launchAbort => true
  | .recordEnqueue _ _ => true
  | .qstatRead _ => true
  | .hostCancel _ _ => true
  | .hostCancelKill _ _ => true
  | .recordHeadCheck _ => true
  | .codeObjectLoad _ => true
  | .waitConditionTest _ => true
  | .dispatchLatch _ => true
  | .deferralEligibility _ => true
  | .blockAdmission _ => true
  | .blockCompletion _ => true
  | .launchCompletion _ => true
  | .preemption _ => true
  | .contextSave _ => true
  | .blockRestore _ => true
  | .governorSample _ _ => true
  | .stackFreeze _ => true
  | .stackResume => true
  | .bankSwitch _ => true
  | .loadDataReturn _ => true
  | .missQueueRelease _ => true
  | .l1SectorExpiry _ => true
  | .atomicUnitOperation _ => true
  | .pageWalk _ => true
  | .instructionFetchFill _ => true
  | .rds _ _ => true
  | .rdx _ _ => true
  | .upg _ _ => true
  | .wbk _ _ => true
  | .evc _ _ => true
  | .sfw _ _ => true
  | .sfx _ _ => true
  | .sin _ _ => true
  | .dat _ _ => true
  | .ack _ _ => true
  | .cmp _ _ => true
  | .engineStart _ => true
  | .engineElement _ => true
  | .engineCompletion _ => true
  | .engineCancelStop _ => true
  | .faultResolved _ _ => true
  | .faultDenied _ _ => true
  | .fstsRead _ => true
  | .moduleUnloadRequest _ _ => true
  | .moduleUnload _ _ => true
  | .functionTableWrite _ _ _ => true
  | .placementTableWrite _ _ => true
  | .invalidateAsid _ => true
  | .invalidatePage _ _ => true
  | .flushQuad _ => true
  | .flushKey _ => true
  | .invalidationComplete => true
  | .hostWindowAccess _ _ _ _ => true
  | .mcpopWrite _ _ => true
  | .mcclrWrite _ _ => true
  | .dieLinkRetransmit _ _ => true
  | .fatalError => true
  | .budgetWrite _ _ _ => true
  | .strelfelPortFailure _ => true
  | .peerIncomingAccess _ _ => true
  | .spdmMeasurementRead _ => true
  | .keyInstall _ => true
  | .keyClear _ => true
  | .firmwareUpdate _ _ => true
  | .deviceReset => true
  | .registerWrite _ _ _ => true
  | .fbtailWrite _ _ => true
  | .peerAcknowledgement _ => true
  | .specialFunctionResult => true
  | .divisionResult => true
  | .linkTraining _ _ => true
  | .securedSession => true

end Sys2Proof
end

