-- ==== Sys2Proof/Decode.lean ====
section
/-! DEFINITION. From the bytes of memory to an instruction, total and rejecting by name (R255 to R271), and the encoder
written from the same tables. A word is held as a natural number, bit 0 the least significant bit of the first byte. -/

namespace Sys2Proof

/-- Fields laid side by side, the lowest first: (width, value) pairs. -/
def pack : List (Nat × Nat) → Nat
  | [] => 0
  | (w, v) :: t => v + 2 ^ w * pack t

/-- The fields of the given widths of a word, the lowest first. -/
def unpack : List Nat → Nat → List Nat
  | [], _ => []
  | w :: ws, x => x % 2 ^ w :: unpack ws (x / 2 ^ w)

/-- The value of little-endian bytes (R6). -/
def leNat : List Byte → Nat
  | [] => 0
  | b :: t => b.toNat + 256 * leNat t

/-- The n little-endian bytes of a value (R6). -/
def leBytes : Nat → Nat → List Byte
  | 0, _ => []
  | n + 1, x => BitVec.ofNat 8 x :: leBytes n (x / 256)

/-- R255: the length of an instruction in bytes, from its first byte. -/
def lengthOf (b : Nat) : Nat := if b % 2 = 0 then 2 else if b % 4 = 1 then 4 else 8

/-- C16 (R262): fields [0], op4, vd, vs, LR. -/
def encC16 (op : Nat) (lr : Bool) (vs vd : BitVec 5) : Nat :=
  pack [(1, 0), (4, op), (5, vd.toNat), (5, vs.toNat), (1, lr.toNat)]

/-- WR (R263). -/
def encWR (op sub : Nat) (w : BitVec 3) (d a b : BitVec 6) : Nat :=
  pack [(2, 1), (6, op), (6, d.toNat), (6, a.toNat), (6, b.toNat), (3, sub), (3, w.toNat)]

/-- WI (R263). -/
def encWI (op : Nat) (d a : BitVec 6) (imm : BitVec 12) : Nat :=
  pack [(2, 1), (6, op), (6, d.toNat), (6, a.toNat), (12, imm.toNat)]

/-- WA (R263): ad, aa, ab, s. -/
def encWA (op : Nat) (d a b : BitVec 4) (r : BitVec 6) : Nat :=
  pack [(2, 1), (6, op), (4, d.toNat), (4, a.toNat), (4, b.toNat), (6, r.toNat), (6, 0)]

/-- WM (R263). -/
def encWM (op : Nat) (f : WmF) : Nat :=
  pack [(2, 1), (6, op), (6, f.r.toNat), (4, f.n.toNat), (3, f.size.toNat), (1, f.signed.toNat), (1, f.ord.toNat),
    (3, f.scope.toNat), (6, f.imm.toNat)]

/-- WB (R263). -/
def encWB (op : Nat) (c : BitVec 3) (neg : Bool) (off : BitVec 20) : Nat :=
  pack [(2, 1), (6, op), (3, c.toNat), (1, neg.toNat), (20, off.toNat)]

/-- WJ (R263). -/
def encWJ (op : Nat) (n : BitVec 4) : Nat := pack [(2, 1), (6, op), (4, n.toNat), (20, 0)]

/-- WS (R263, R265): the register, imm8, the scope or condition. -/
def encWS (op : Nat) (r : BitVec 6) (imm : Nat) (c : BitVec 3) : Nat :=
  pack [(2, 1), (6, op), (6, r.toNat), (8, imm), (3, c.toNat), (7, 0)]

/-- The vb, vc, LRB, mod[2] and mod[3] fields of LV (R267). -/
def encB (b : BSrc) (c : VSrc) : Nat × Nat × Nat × Nat × Nat :=
  match b with
  | .vec r => (r.reg.toNat, c.reg.toNat, r.lr.toNat, 0, 0)
  | .scal s => (s.toNat, c.reg.toNat, 0, 0, 1)
  | .imm i => (i.toNat % 256, i.toNat / 256, 0, 1, 0)

/-- LV (R266, R267). -/
def encLV (op : Nat) (f : LvF) : Nat :=
  pack [(2, 3), (8, op), (3, f.g.pg.toNat), (1, f.g.pn.toNat), (3, f.stall.toNat), (8, f.vd.toNat), (8, f.a.reg.toNat),
    (8, (encB f.b f.c).1), (8, (encB f.b f.c).2.1), (1, f.a.lr.toNat), (1, (encB f.b f.c).2.2.1), (1, f.c.lr.toNat),
    (2, 0), (1, (encB f.b f.c).2.2.2.1), (1, (encB f.b f.c).2.2.2.2), (8, f.ext.toNat)]

/-- LM (R266, R269). -/
def encLM (op : Nat) (f : LmF) : Nat :=
  pack [(2, 3), (8, op), (3, f.g.pg.toNat), (1, f.g.pn.toNat), (3, 0), (8, f.vd.toNat), (8, f.vo.toNat), (4, f.n.toNat),
    (3, f.size.toNat), (1, f.sign.toNat), (1, f.ord.toNat), (3, f.scope.toNat), (1, f.lrd.toNat), (1, f.lro.toNat),
    (1, f.os.toNat), (3, f.scale.toNat), (5, f.stride.toNat), (8, f.imm.toNat)]

/-- LA (R266, R269). -/
def encLA (op : Nat) (f : LaF) : Nat :=
  pack [(2, 3), (8, op), (3, f.g.pg.toNat), (1, f.g.pn.toNat), (3, 0), (8, f.vd.toNat), (8, f.va.toNat), (8, f.vb.toNat),
    (8, f.vc.toNat), (4, f.n.toNat), (5, f.aop.toNat), (3, f.scope.toNat), (2, f.order.toNat), (1, f.w64.toNat)]

/-- LB (R57). -/
def encLB (p : BitVec 3) (neg : Bool) (taken : BitVec 24) (rejoin : BitVec 23) : Nat :=
  pack [(2, 3), (8, 0x58), (3, p.toNat), (1, neg.toNat), (3, 0), (24, taken.toNat), (23, rejoin.toNat)]

/-- LC (R118). -/
def encLC (f : LcF) : Nat :=
  pack [(2, 3), (8, 0x80), (3, 7), (1, 0), (3, 0), (8, f.base.toNat), (7, f.arow.toNat), (3, f.mc.toNat), (2, f.nc.toNat),
    (3, f.ef.toNat), (2, f.pm.toNat), (1, f.span.toNat), (1, f.ovw.toNat), (3, f.acol.toNat), (1, 0), (1, f.lr.toNat),
    (15, 0)]

/-- LF (R127). -/
def encLF (f : LfF) : Nat :=
  pack [(2, 3), (8, 0x81), (3, f.g.pg.toNat), (1, f.g.pn.toNat), (3, 0), (8, f.base.toNat), (6, f.off.toNat),
    (6, f.pitch.toNat), (3, f.ef.toNat), (3, f.rows.toNat), (1, f.t.toNat), (20, 0)]

/-- LZ (R128). -/
def encLZ (op : Nat) (f : LzF) : Nat :=
  pack [(2, 3), (8, op), (3, f.g.pg.toNat), (1, f.g.pn.toNat), (3, 0), (8, f.base.toNat), (7, f.arow.toNat),
    (3, f.mc.toNat), (2, f.nc.toNat), (3, f.acol.toNat), (4, f.n.toNat), (3, f.fmt.toNat), (6, f.hi.toNat),
    (1, f.sat.toNat), (10, 0)]

/-- LX (R181), with bits [44:27]. -/
def encLX (op : Nat) (f : LxF) (further : Nat) : Nat :=
  pack [(2, 3), (8, op), (3, 7), (1, 0), (3, 0), (6, f.sd.toNat), (4, f.n.toNat), (18, further), (3, f.scope.toNat),
    (1, f.acq.toNat), (1, f.rel.toNat), (14, 0)]

/-- How many bytes the encoding of an instruction takes (R255); a device event has none. -/
def byteLen : Instr → Nat
  | .vmovC16 _ _ _ => 2
  | .vaddC16 _ _ _ => 2
  | .vsubC16 _ _ _ => 2
  | .vmulC16 _ _ _ => 2
  | .vandC16 _ _ _ => 2
  | .vorC16 _ _ _ => 2
  | .vxorC16 _ _ _ => 2
  | .vshlC16 _ _ _ => 2
  | .vshrC16 _ _ _ => 2
  | .vminC16 _ _ _ => 2
  | .vmaxC16 _ _ _ => 2
  | .vfaddC16 _ _ _ => 2
  | .vfsubC16 _ _ _ => 2
  | .vfmulC16 _ _ _ => 2
  | .vfminC16 _ _ _ => 2
  | .vfmaxC16 _ _ _ => 2
  | .nop => 4
  | .imx _ => 4
  | .sadd _ _ _ _ => 4
  | .ssub _ _ _ _ => 4
  | .sand _ _ _ _ => 4
  | .sor _ _ _ _ => 4
  | .sxor _ _ _ _ => 4
  | .sshl _ _ _ _ => 4
  | .sshr _ _ _ _ => 4
  | .ssra _ _ _ _ => 4
  | .smul _ _ _ _ => 4
  | .smulhs _ _ _ _ => 4
  | .smulhu _ _ _ _ => 4
  | .smins _ _ _ _ => 4
  | .smaxs _ _ _ _ => 4
  | .sminu _ _ _ _ => 4
  | .smaxu _ _ _ _ => 4
  | .sdivs _ _ _ _ => 4
  | .sdivu _ _ _ _ => 4
  | .srems _ _ _ _ => 4
  | .sremu _ _ _ _ => 4
  | .sclz _ _ _ => 4
  | .sctz _ _ _ => 4
  | .spopc _ _ _ => 4
  | .ssel _ _ _ _ _ => 4
  | .saddi _ _ _ => 4
  | .sandi _ _ _ => 4
  | .sori _ _ _ => 4
  | .sxori _ _ _ => 4
  | .sshli _ _ _ => 4
  | .sshri _ _ _ => 4
  | .ssrai _ _ _ => 4
  | .sli _ _ => 4
  | .scmp _ _ _ _ => 4
  | .scmpi _ _ _ _ => 4
  | .aadd _ _ _ => 4
  | .aaddi _ _ _ => 4
  | .amov _ _ => 4
  | .aget _ _ => 4
  | .asub _ _ _ => 4
  | .sld _ => 4
  | .sst _ => 4
  | .ald _ => 4
  | .ast _ => 4
  | .br _ => 4
  | .brc _ _ _ => 4
  | .call _ => 4
  | .ret _ => 4
  | .jmpa _ => 4
  | .calla _ => 4
  | .brva _ _ _ => 4
  | .brvn _ _ _ => 4
  | .brvl _ _ _ => 4
  | .exit => 4
  | .trap _ => 4
  | .bkpt _ => 4
  | .waith _ => 4
  | .testh _ _ _ => 4
  | .canch _ => 4
  | .setfmt _ => 4
  | .sysrd _ _ => 4
  | .syswr _ _ => 4
  | .setgang _ => 4
  | .bar _ => 4
  | .bars _ => 4
  | .fence _ _ => 4
  | .fetchb => 4
  | .ipf _ _ _ => 4
  | .eret _ => 4
  | .yield => 4
  | .frwon _ => 4
  | .frwoff _ => 4
  | .frwkill => 4
  | .frwdep _ _ _ => 4
  | .launch _ _ => 4
  | .lcancel _ _ _ => 4
  | .vadd _ => 8
  | .vsub _ => 8
  | .vmul _ => 8
  | .vmulh _ => 8
  | .vmad _ => 8
  | .vaddc _ => 8
  | .vand _ => 8
  | .vor _ => 8
  | .vxor _ => 8
  | .vnot _ => 8
  | .vshl _ => 8
  | .vshr _ => 8
  | .vsra _ => 8
  | .vmin _ => 8
  | .vmax _ => 8
  | .vabs _ => 8
  | .vneg _ => 8
  | .vclz _ => 8
  | .vpopc _ => 8
  | .vbfe _ => 8
  | .vbfi _ => 8
  | .vsel _ => 8
  | .vmov _ => 8
  | .vli _ => 8
  | .vcmp _ => 8
  | .vlane _ => 8
  | .vaddp _ => 8
  | .vsubp _ => 8
  | .vshlp _ => 8
  | .vshrp _ => 8
  | .vsrap _ => 8
  | .vminp _ => 8
  | .vmaxp _ => 8
  | .vdot8 _ => 8
  | .vdot4 _ => 8
  | .vpack _ => 8
  | .vunpk _ => 8
  | .vfadd _ => 8
  | .vfsub _ => 8
  | .vfmul _ => 8
  | .vfma _ => 8
  | .vfmin _ => 8
  | .vfmax _ => 8
  | .vfcmp _ => 8
  | .vfrcp _ => 8
  | .vfrsq _ => 8
  | .vfsqrt _ => 8
  | .vfexp2 _ => 8
  | .vflog2 _ => 8
  | .vfsin _ => 8
  | .vfcos _ => 8
  | .vfrnd _ => 8
  | .vfcls _ => 8
  | .vhfma _ => 8
  | .vhadd _ => 8
  | .vhmul _ => 8
  | .vcvt _ => 8
  | .vshfl _ => 8
  | .vrfl _ => 8
  | .vvote _ => 8
  | .vred _ => 8
  | .vscan _ => 8
  | .brv _ _ _ _ => 8
  | .vld _ => 8
  | .vst _ => 8
  | .vlds _ => 8
  | .vsts _ => 8
  | .ldl _ => 8
  | .stl _ => 8
  | .ldr _ => 8
  | .str _ => 8
  | .vatom _ => 8
  | .vcas _ => 8
  | .latom _ => 8
  | .matom _ => 8
  | .satom _ => 8
  | .qpush _ => 8
  | .qpop _ => 8
  | .mcube _ => 8
  | .mldf _ => 8
  | .mzero _ => 8
  | .mstz _ => 8
  | .mrdz _ => 8
  | .mwrz _ => 8
  | .mscl _ => 8
  | .xcpy _ => 8
  | .xgath _ => 8
  | .xscat _ => 8
  | .xred _ => 8
  | .xsig _ => 8
  | .spill _ _ _ => 8
  | .fill _ _ _ => 8
  | .xpfd _ _ => 8
  | .fsnk _ _ => 0
  | .steer _ _ => 0
  | .merge _ _ => 0
  | .stageFire _ _ => 0
  | .sourceStep => 0
  | .drainStep _ _ => 0
  | .furrowDrained => 0
  | .furrowDeadlock => 0
  | .streamFaultSuspend _ _ => 0
  | .furrowReentry => 0
  | .reconvergenceSwitch => 0
  | .reconvergencePop => 0
  | .brvResolution => 0
  | .laneReplay => 0
  | .cubeAccept => 0
  | .cubePass => 0
  | .groupSwapOut => 0
  | .issueBoost => 0
  | .pendingStarvationSwap => 0
  | .trapEntry => 0
  | .launchAbort => 0
  | .recordEnqueue _ _ => 0
  | .qstatRead _ => 0
  | .hostCancel _ _ => 0
  | .hostCancelKill _ _ => 0
  | .recordHeadCheck _ => 0
  | .codeObjectLoad _ => 0
  | .waitConditionTest _ => 0
  | .dispatchLatch _ => 0
  | .deferralEligibility _ => 0
  | .blockAdmission _ => 0
  | .blockCompletion _ => 0
  | .launchCompletion _ => 0
  | .preemption _ => 0
  | .contextSave _ => 0
  | .blockRestore _ => 0
  | .governorSample _ _ => 0
  | .stackFreeze _ => 0
  | .stackResume => 0
  | .bankSwitch _ => 0
  | .loadDataReturn _ => 0
  | .missQueueRelease _ => 0
  | .l1SectorExpiry _ => 0
  | .atomicUnitOperation _ => 0
  | .pageWalk _ => 0
  | .instructionFetchFill _ => 0
  | .rds _ _ => 0
  | .rdx _ _ => 0
  | .upg _ _ => 0
  | .wbk _ _ => 0
  | .evc _ _ => 0
  | .sfw _ _ => 0
  | .sfx _ _ => 0
  | .sin _ _ => 0
  | .dat _ _ => 0
  | .ack _ _ => 0
  | .cmp _ _ => 0
  | .engineStart _ => 0
  | .engineElement _ => 0
  | .engineCompletion _ => 0
  | .engineCancelStop _ => 0
  | .faultResolved _ _ => 0
  | .faultDenied _ _ => 0
  | .fstsRead _ => 0
  | .moduleUnloadRequest _ _ => 0
  | .moduleUnload _ _ => 0
  | .functionTableWrite _ _ _ => 0
  | .placementTableWrite _ _ => 0
  | .invalidateAsid _ => 0
  | .invalidatePage _ _ => 0
  | .flushQuad _ => 0
  | .flushKey _ => 0
  | .invalidationComplete => 0
  | .hostWindowAccess _ _ _ _ => 0
  | .mcpopWrite _ _ => 0
  | .mcclrWrite _ _ => 0
  | .dieLinkRetransmit _ _ => 0
  | .fatalError => 0
  | .budgetWrite _ _ _ => 0
  | .strelfelPortFailure _ => 0
  | .peerIncomingAccess _ _ => 0
  | .spdmMeasurementRead _ => 0
  | .keyInstall _ => 0
  | .keyClear _ => 0
  | .firmwareUpdate _ _ => 0
  | .deviceReset => 0
  | .registerWrite _ _ _ => 0
  | .fbtailWrite _ _ => 0
  | .peerAcknowledgement _ => 0
  | .specialFunctionResult => 0
  | .divisionResult => 0
  | .linkTraining _ _ => 0
  | .securedSession => 0

/-- The word of an instruction (R262 to R270); 0 for a device event, which has none. -/
def encode : Instr → Nat
  | .vmovC16 lr vs vd => encC16 0 lr vs vd
  | .vaddC16 lr vs vd => encC16 1 lr vs vd
  | .vsubC16 lr vs vd => encC16 2 lr vs vd
  | .vmulC16 lr vs vd => encC16 3 lr vs vd
  | .vandC16 lr vs vd => encC16 4 lr vs vd
  | .vorC16 lr vs vd => encC16 5 lr vs vd
  | .vxorC16 lr vs vd => encC16 6 lr vs vd
  | .vshlC16 lr vs vd => encC16 7 lr vs vd
  | .vshrC16 lr vs vd => encC16 8 lr vs vd
  | .vminC16 lr vs vd => encC16 9 lr vs vd
  | .vmaxC16 lr vs vd => encC16 10 lr vs vd
  | .vfaddC16 lr vs vd => encC16 11 lr vs vd
  | .vfsubC16 lr vs vd => encC16 12 lr vs vd
  | .vfmulC16 lr vs vd => encC16 13 lr vs vd
  | .vfminC16 lr vs vd => encC16 14 lr vs vd
  | .vfmaxC16 lr vs vd => encC16 15 lr vs vd
  | .nop => pack [(2, 1), (6, 0), (24, 0)]
  | .imx imm => pack [(2, 1), (6, 1), (24, imm.toNat)]
  | .sadd w d a b => encWR 2 0 w d a b
  | .ssub w d a b => encWR 2 1 w d a b
  | .sand w d a b => encWR 2 2 w d a b
  | .sor w d a b => encWR 2 3 w d a b
  | .sxor w d a b => encWR 2 4 w d a b
  | .sshl w d a b => encWR 2 5 w d a b
  | .sshr w d a b => encWR 2 6 w d a b
  | .ssra w d a b => encWR 2 7 w d a b
  | .smul w d a b => encWR 3 0 w d a b
  | .smulhs w d a b => encWR 3 1 w d a b
  | .smulhu w d a b => encWR 3 2 w d a b
  | .smins w d a b => encWR 3 3 w d a b
  | .smaxs w d a b => encWR 3 4 w d a b
  | .sminu w d a b => encWR 3 5 w d a b
  | .smaxu w d a b => encWR 3 6 w d a b
  | .sdivs w d a b => encWR 4 0 w d a b
  | .sdivu w d a b => encWR 4 1 w d a b
  | .srems w d a b => encWR 4 2 w d a b
  | .sremu w d a b => encWR 4 3 w d a b
  | .sclz w d a => encWR 4 4 w d a 0
  | .sctz w d a => encWR 4 5 w d a 0
  | .spopc w d a => encWR 4 6 w d a 0
  | .ssel w c d a b => encWR 5 c.toNat w d a b
  | .saddi d a imm => encWI 6 d a imm
  | .sandi d a imm => encWI 7 d a imm
  | .sori d a imm => encWI 8 d a imm
  | .sxori d a imm => encWI 9 d a imm
  | .sshli d a imm => encWI 10 d a imm
  | .sshri d a imm => encWI 11 d a imm
  | .ssrai d a imm => encWI 12 d a imm
  | .sli d imm => pack [(2, 1), (6, 0x0D), (6, d.toNat), (18, imm.toNat)]
  | .scmp c k a b => pack [(2, 1), (6, 0x0E), (3, c.toNat), (4, k.toNat), (6, a.toNat), (6, b.toNat), (5, 0)]
  | .scmpi c k a imm => pack [(2, 1), (6, 0x0F), (3, c.toNat), (4, k.toNat), (6, a.toNat), (11, imm.toNat)]
  | .aadd d a b => encWA 0x10 d a 0 b
  | .aaddi d a imm => pack [(2, 1), (6, 0x11), (4, d.toNat), (4, a.toNat), (16, imm.toNat)]
  | .amov d b => encWA 0x12 d 0 0 b
  | .aget d a => encWA 0x13 0 a 0 d
  | .asub d a b => encWA 0x14 0 a b d
  | .sld f => encWM 0x15 f
  | .sst f => encWM 0x16 f
  | .ald f => encWM 0x17 f
  | .ast f => encWM 0x18 f
  | .br off => encWB 0x20 0 false off
  | .brc c neg off => encWB 0x21 c neg off
  | .call off => encWB 0x22 0 false off
  | .ret n => encWJ 0x23 n
  | .jmpa n => encWJ 0x24 n
  | .calla n => encWJ 0x25 n
  | .brva p neg off => encWB 0x26 p neg off
  | .brvn p neg off => encWB 0x27 p neg off
  | .brvl p neg off => encWB 0x28 p neg off
  | .exit => encWS 0x29 0 0 0
  | .trap code => encWS 0x2a 0 code.toNat 0
  | .bkpt code => encWS 0x2b 0 code.toNat 0
  | .waith h => encWS 0x2c h 0 0
  | .testh c mask h => encWS 0x2D h mask.toNat c
  | .canch h => encWS 0x2e h 0 0
  | .setfmt h => encWS 0x2f h 0 0
  | .sysrd index d => encWS 0x30 d index.toNat 0
  | .syswr index b => encWS 0x31 b index.toNat 0
  | .setgang h => encWS 0x32 h 0 0
  | .bar n => encWS 0x33 0 n.toNat 0
  | .bars n => encWS 0x34 0 n.toNat 0
  | .fence kind scope => encWS 0x35 0 kind.toNat scope
  | .fetchb => encWS 0x36 0 0 0
  | .ipf level n b => encWM 0x37 ⟨0, 0, false, false, level, n, b⟩
  | .eret mode => encWS 0x38 0 mode.toNat 0
  | .yield => encWS 0x39 0 0 0
  | .frwon n => encWJ 0x3a n
  | .frwoff h => encWS 0x3b h 0 0
  | .frwkill => encWS 0x3c 0 0 0
  | .frwdep c q a => encWS 0x3D a q.toNat c
  | .launch d a => encWA 0x3E 0 a 0 d
  | .lcancel c kill h => encWS 0x3F h kill.toNat c
  | .vadd f => encLV 0x0 f
  | .vsub f => encLV 0x1 f
  | .vmul f => encLV 0x2 f
  | .vmulh f => encLV 0x3 f
  | .vmad f => encLV 0x4 f
  | .vaddc f => encLV 0x5 f
  | .vand f => encLV 0x6 f
  | .vor f => encLV 0x7 f
  | .vxor f => encLV 0x8 f
  | .vnot f => encLV 0x9 f
  | .vshl f => encLV 0xa f
  | .vshr f => encLV 0xb f
  | .vsra f => encLV 0xc f
  | .vmin f => encLV 0xd f
  | .vmax f => encLV 0xe f
  | .vabs f => encLV 0xf f
  | .vneg f => encLV 0x10 f
  | .vclz f => encLV 0x11 f
  | .vpopc f => encLV 0x12 f
  | .vbfe f => encLV 0x13 f
  | .vbfi f => encLV 0x14 f
  | .vsel f => encLV 0x15 f
  | .vmov f => encLV 0x16 f
  | .vli f => encLV 0x17 f
  | .vcmp f => encLV 0x18 f
  | .vlane f => encLV 0x19 f
  | .vaddp f => encLV 0x20 f
  | .vsubp f => encLV 0x21 f
  | .vshlp f => encLV 0x22 f
  | .vshrp f => encLV 0x23 f
  | .vsrap f => encLV 0x24 f
  | .vminp f => encLV 0x25 f
  | .vmaxp f => encLV 0x26 f
  | .vdot8 f => encLV 0x27 f
  | .vdot4 f => encLV 0x28 f
  | .vpack f => encLV 0x29 f
  | .vunpk f => encLV 0x2a f
  | .vfadd f => encLV 0x30 f
  | .vfsub f => encLV 0x31 f
  | .vfmul f => encLV 0x32 f
  | .vfma f => encLV 0x33 f
  | .vfmin f => encLV 0x34 f
  | .vfmax f => encLV 0x35 f
  | .vfcmp f => encLV 0x36 f
  | .vfrcp f => encLV 0x37 f
  | .vfrsq f => encLV 0x38 f
  | .vfsqrt f => encLV 0x39 f
  | .vfexp2 f => encLV 0x3a f
  | .vflog2 f => encLV 0x3b f
  | .vfsin f => encLV 0x3c f
  | .vfcos f => encLV 0x3d f
  | .vfrnd f => encLV 0x3e f
  | .vfcls f => encLV 0x3f f
  | .vhfma f => encLV 0x40 f
  | .vhadd f => encLV 0x41 f
  | .vhmul f => encLV 0x42 f
  | .vcvt f => encLV 0x43 f
  | .vshfl f => encLV 0x50 f
  | .vrfl f => encLV 0x51 f
  | .vvote f => encLV 0x52 f
  | .vred f => encLV 0x53 f
  | .vscan f => encLV 0x54 f
  | .brv p neg taken rejoin => encLB p neg taken rejoin
  | .vld f => encLM 0x60 f
  | .vst f => encLM 0x61 f
  | .vlds f => encLM 0x62 f
  | .vsts f => encLM 0x63 f
  | .ldl f => encLM 0x64 f
  | .stl f => encLM 0x65 f
  | .ldr f => encLM 0x66 f
  | .str f => encLM 0x67 f
  | .vatom f => encLA 0x68 f
  | .vcas f => encLA 0x69 f
  | .latom f => encLA 0x6a f
  | .matom f => encLA 0x6b f
  | .satom f => encLA 0x6c f
  | .qpush f => encLM 0x6d f
  | .qpop f => encLM 0x6e f
  | .mcube f => encLC f
  | .mldf f => encLF f
  | .mzero f => encLZ 0x82 f
  | .mstz f => encLZ 0x83 f
  | .mrdz f => encLZ 0x84 f
  | .mwrz f => encLZ 0x85 f
  | .mscl f => encLZ 0x86 f
  | .xcpy f => encLX 0x90 f 0
  | .xgath f => encLX 0x91 f 0
  | .xscat f => encLX 0x92 f 0
  | .xred f => encLX 0x93 f 0
  | .xsig f => encLX 0x94 f 0
  | .spill f first count => encLX 0x95 f (first.toNat + 256 * count.toNat)
  | .fill f first count => encLX 0x96 f (first.toNat + 256 * count.toNat)
  | .xpfd f len => encLX 0x97 f len.toNat
  | .fsnk _ _ => 0
  | .steer _ _ => 0
  | .merge _ _ => 0
  | .stageFire _ _ => 0
  | .sourceStep => 0
  | .drainStep _ _ => 0
  | .furrowDrained => 0
  | .furrowDeadlock => 0
  | .streamFaultSuspend _ _ => 0
  | .furrowReentry => 0
  | .reconvergenceSwitch => 0
  | .reconvergencePop => 0
  | .brvResolution => 0
  | .laneReplay => 0
  | .cubeAccept => 0
  | .cubePass => 0
  | .groupSwapOut => 0
  | .issueBoost => 0
  | .pendingStarvationSwap => 0
  | .trapEntry => 0
  | .launchAbort => 0
  | .recordEnqueue _ _ => 0
  | .qstatRead _ => 0
  | .hostCancel _ _ => 0
  | .hostCancelKill _ _ => 0
  | .recordHeadCheck _ => 0
  | .codeObjectLoad _ => 0
  | .waitConditionTest _ => 0
  | .dispatchLatch _ => 0
  | .deferralEligibility _ => 0
  | .blockAdmission _ => 0
  | .blockCompletion _ => 0
  | .launchCompletion _ => 0
  | .preemption _ => 0
  | .contextSave _ => 0
  | .blockRestore _ => 0
  | .governorSample _ _ => 0
  | .stackFreeze _ => 0
  | .stackResume => 0
  | .bankSwitch _ => 0
  | .loadDataReturn _ => 0
  | .missQueueRelease _ => 0
  | .l1SectorExpiry _ => 0
  | .atomicUnitOperation _ => 0
  | .pageWalk _ => 0
  | .instructionFetchFill _ => 0
  | .rds _ _ => 0
  | .rdx _ _ => 0
  | .upg _ _ => 0
  | .wbk _ _ => 0
  | .evc _ _ => 0
  | .sfw _ _ => 0
  | .sfx _ _ => 0
  | .sin _ _ => 0
  | .dat _ _ => 0
  | .ack _ _ => 0
  | .cmp _ _ => 0
  | .engineStart _ => 0
  | .engineElement _ => 0
  | .engineCompletion _ => 0
  | .engineCancelStop _ => 0
  | .faultResolved _ _ => 0
  | .faultDenied _ _ => 0
  | .fstsRead _ => 0
  | .moduleUnloadRequest _ _ => 0
  | .moduleUnload _ _ => 0
  | .functionTableWrite _ _ _ => 0
  | .placementTableWrite _ _ => 0
  | .invalidateAsid _ => 0
  | .invalidatePage _ _ => 0
  | .flushQuad _ => 0
  | .flushKey _ => 0
  | .invalidationComplete => 0
  | .hostWindowAccess _ _ _ _ => 0
  | .mcpopWrite _ _ => 0
  | .mcclrWrite _ _ => 0
  | .dieLinkRetransmit _ _ => 0
  | .fatalError => 0
  | .budgetWrite _ _ _ => 0
  | .strelfelPortFailure _ => 0
  | .peerIncomingAccess _ _ => 0
  | .spdmMeasurementRead _ => 0
  | .keyInstall _ => 0
  | .keyClear _ => 0
  | .firmwareUpdate _ _ => 0
  | .deviceReset => 0
  | .registerWrite _ _ _ => 0
  | .fbtailWrite _ _ => 0
  | .peerAcknowledgement _ => 0
  | .specialFunctionResult => 0
  | .divisionResult => 0
  | .linkTraining _ _ => 0
  | .securedSession => 0

/-- The bytes of an instruction as they lie in memory, the first at the lowest address. -/
def encodeBytes (i : Instr) : List Byte := leBytes (byteLen i) (encode i)

/-- A bit field read as a truth value. -/
def flag (x : Nat) : Bool := x != 0

/-- The fields of a C16 word: op4, LR, vs, vd. -/
def rawC16 (w : Nat) : Option Instr :=
  match unpack [1, 4, 5, 5, 1] w with
  | [_, op, d, s, l] => match op with
    | 0 => some (.vmovC16 (flag l) (BitVec.ofNat 5 s) (BitVec.ofNat 5 d))
    | 1 => some (.vaddC16 (flag l) (BitVec.ofNat 5 s) (BitVec.ofNat 5 d))
    | 2 => some (.vsubC16 (flag l) (BitVec.ofNat 5 s) (BitVec.ofNat 5 d))
    | 3 => some (.vmulC16 (flag l) (BitVec.ofNat 5 s) (BitVec.ofNat 5 d))
    | 4 => some (.vandC16 (flag l) (BitVec.ofNat 5 s) (BitVec.ofNat 5 d))
    | 5 => some (.vorC16 (flag l) (BitVec.ofNat 5 s) (BitVec.ofNat 5 d))
    | 6 => some (.vxorC16 (flag l) (BitVec.ofNat 5 s) (BitVec.ofNat 5 d))
    | 7 => some (.vshlC16 (flag l) (BitVec.ofNat 5 s) (BitVec.ofNat 5 d))
    | 8 => some (.vshrC16 (flag l) (BitVec.ofNat 5 s) (BitVec.ofNat 5 d))
    | 9 => some (.vminC16 (flag l) (BitVec.ofNat 5 s) (BitVec.ofNat 5 d))
    | 10 => some (.vmaxC16 (flag l) (BitVec.ofNat 5 s) (BitVec.ofNat 5 d))
    | 11 => some (.vfaddC16 (flag l) (BitVec.ofNat 5 s) (BitVec.ofNat 5 d))
    | 12 => some (.vfsubC16 (flag l) (BitVec.ofNat 5 s) (BitVec.ofNat 5 d))
    | 13 => some (.vfmulC16 (flag l) (BitVec.ofNat 5 s) (BitVec.ofNat 5 d))
    | 14 => some (.vfminC16 (flag l) (BitVec.ofNat 5 s) (BitVec.ofNat 5 d))
    | 15 => some (.vfmaxC16 (flag l) (BitVec.ofNat 5 s) (BitVec.ofNat 5 d))
    | _ => none
  | _ => none

/-- The register fields of WR, with sub and the stall count. -/
def rawWR (w : Nat) (k : Nat → BitVec 3 → BitVec 6 → BitVec 6 → BitVec 6 → Option Instr) : Option Instr :=
  match unpack [2, 6, 6, 6, 6, 3, 3] w with
  | [_, _, d, a, b, sub, st] => k sub (BitVec.ofNat 3 st) (BitVec.ofNat 6 d) (BitVec.ofNat 6 a) (BitVec.ofNat 6 b)
  | _ => none

/-- The fields of WI. -/
def rawWI (w : Nat) (k : BitVec 6 → BitVec 6 → BitVec 12 → Instr) : Option Instr :=
  match unpack [2, 6, 6, 6, 12] w with
  | [_, _, d, a, i] => some (k (BitVec.ofNat 6 d) (BitVec.ofNat 6 a) (BitVec.ofNat 12 i))
  | _ => none

/-- The fields of WA: ad, aa, ab, s. -/
def rawWA (w : Nat) (k : BitVec 4 → BitVec 4 → BitVec 4 → BitVec 6 → Instr) : Option Instr :=
  match unpack [2, 6, 4, 4, 4, 6] w with
  | [_, _, d, a, b, r] => some (k (BitVec.ofNat 4 d) (BitVec.ofNat 4 a) (BitVec.ofNat 4 b) (BitVec.ofNat 6 r))
  | _ => none

/-- The fields of WM. -/
def rawWM (w : Nat) (k : WmF → Instr) : Option Instr :=
  match unpack [2, 6, 6, 4, 3, 1, 1, 3, 6] w with
  | [_, _, r, n, sz, sg, o, sc, i] =>
    some (k ⟨BitVec.ofNat 6 i, BitVec.ofNat 3 sc, flag o, flag sg, BitVec.ofNat 3 sz, BitVec.ofNat 4 n, BitVec.ofNat 6 r⟩)
  | _ => none

/-- The fields of WB. -/
def rawWB (w : Nat) (k : BitVec 3 → Bool → BitVec 20 → Instr) : Option Instr :=
  match unpack [2, 6, 3, 1, 20] w with
  | [_, _, c, n, o] => some (k (BitVec.ofNat 3 c) (flag n) (BitVec.ofNat 20 o))
  | _ => none

/-- The field of WJ. -/
def rawWJ (w : Nat) (k : BitVec 4 → Instr) : Option Instr :=
  match unpack [2, 6, 4] w with
  | [_, _, n] => some (k (BitVec.ofNat 4 n))
  | _ => none

/-- The fields of WS: register, imm8, scope or condition. -/
def rawWS (w : Nat) (k : BitVec 6 → Nat → BitVec 3 → Instr) : Option Instr :=
  match unpack [2, 6, 6, 8, 3] w with
  | [_, _, r, i, c] => some (k (BitVec.ofNat 6 r) i (BitVec.ofNat 3 c))
  | _ => none

/-- The rows of R264 and R265, before the checks of zero fields. -/
def rawW32 (w : Nat) : Option Instr :=
  match w / 4 % 64 with
  | 0x00 => some .nop
  | 0x01 => some (.imx (BitVec.ofNat 24 (w / 256)))
  | 0x2 => rawWR w fun sub st d a b => match sub with
    | 0 => some (.sadd st d a b)
    | 1 => some (.ssub st d a b)
    | 2 => some (.sand st d a b)
    | 3 => some (.sor st d a b)
    | 4 => some (.sxor st d a b)
    | 5 => some (.sshl st d a b)
    | 6 => some (.sshr st d a b)
    | 7 => some (.ssra st d a b)
    | _ => none
  | 0x3 => rawWR w fun sub st d a b => match sub with
    | 0 => some (.smul st d a b)
    | 1 => some (.smulhs st d a b)
    | 2 => some (.smulhu st d a b)
    | 3 => some (.smins st d a b)
    | 4 => some (.smaxs st d a b)
    | 5 => some (.sminu st d a b)
    | 6 => some (.smaxu st d a b)
    | _ => none
  | 0x4 => rawWR w fun sub st d a b => match sub with
    | 0 => some (.sdivs st d a b)
    | 1 => some (.sdivu st d a b)
    | 2 => some (.srems st d a b)
    | 3 => some (.sremu st d a b)
    | 4 => some (.sclz st d a)
    | 5 => some (.sctz st d a)
    | 6 => some (.spopc st d a)
    | _ => none
  | 0x05 => rawWR w fun sub st d a b => some (.ssel st (BitVec.ofNat 3 sub) d a b)
  | 0x6 => rawWI w .saddi
  | 0x7 => rawWI w .sandi
  | 0x8 => rawWI w .sori
  | 0x9 => rawWI w .sxori
  | 0xa => rawWI w .sshli
  | 0xb => rawWI w .sshri
  | 0xc => rawWI w .ssrai
  | 0x0D => match unpack [2, 6, 6, 18] w with
    | [_, _, d, i] => some (.sli (BitVec.ofNat 6 d) (BitVec.ofNat 18 i))
    | _ => none
  | 0x0E => match unpack [2, 6, 3, 4, 6, 6] w with
    | [_, _, c, k, a, b] => some (.scmp (BitVec.ofNat 3 c) (BitVec.ofNat 4 k) (BitVec.ofNat 6 a) (BitVec.ofNat 6 b))
    | _ => none
  | 0x0F => match unpack [2, 6, 3, 4, 6, 11] w with
    | [_, _, c, k, a, i] => some (.scmpi (BitVec.ofNat 3 c) (BitVec.ofNat 4 k) (BitVec.ofNat 6 a) (BitVec.ofNat 11 i))
    | _ => none
  | 0x10 => rawWA w fun d a _ r => .aadd d a r
  | 0x11 => match unpack [2, 6, 4, 4, 16] w with
    | [_, _, d, a, i] => some (.aaddi (BitVec.ofNat 4 d) (BitVec.ofNat 4 a) (BitVec.ofNat 16 i))
    | _ => none
  | 0x12 => rawWA w fun d _ _ r => .amov d r
  | 0x13 => rawWA w fun _ a _ r => .aget r a
  | 0x14 => rawWA w fun _ a b r => .asub r a b
  | 0x15 => rawWM w .sld
  | 0x16 => rawWM w .sst
  | 0x17 => rawWM w .ald
  | 0x18 => rawWM w .ast
  | 0x20 => rawWB w fun _ _ o => .br o
  | 0x21 => rawWB w .brc
  | 0x22 => rawWB w fun _ _ o => .call o
  | 0x23 => rawWJ w .ret
  | 0x24 => rawWJ w .jmpa
  | 0x25 => rawWJ w .calla
  | 0x26 => rawWB w .brva
  | 0x27 => rawWB w .brvn
  | 0x28 => rawWB w .brvl
  | 0x29 => some .exit
  | 0x2A => rawWS w fun _ i _ => .trap (BitVec.ofNat 8 i)
  | 0x2B => rawWS w fun _ i _ => .bkpt (BitVec.ofNat 8 i)
  | 0x2C => rawWS w fun r _ _ => .waith r
  | 0x2D => rawWS w fun r i c => .testh c (BitVec.ofNat 6 i) r
  | 0x2E => rawWS w fun r _ _ => .canch r
  | 0x2F => rawWS w fun r _ _ => .setfmt r
  | 0x30 => rawWS w fun r i _ => .sysrd (BitVec.ofNat 8 i) r
  | 0x31 => rawWS w fun r i _ => .syswr (BitVec.ofNat 8 i) r
  | 0x32 => rawWS w fun r _ _ => .setgang r
  | 0x33 => rawWS w fun _ i _ => .bar (BitVec.ofNat 4 i)
  | 0x34 => rawWS w fun _ i _ => .bars (BitVec.ofNat 2 i)
  | 0x35 => rawWS w fun _ i c => .fence (BitVec.ofNat 2 i) c
  | 0x36 => some .fetchb
  | 0x37 => rawWM w fun f => .ipf f.size f.n f.r
  | 0x38 => rawWS w fun _ i _ => .eret (BitVec.ofNat 2 i)
  | 0x39 => some .yield
  | 0x3A => rawWJ w .frwon
  | 0x3B => rawWS w fun r _ _ => .frwoff r
  | 0x3C => some .frwkill
  | 0x3D => rawWS w fun r i c => .frwdep c (BitVec.ofNat 6 i) r
  | 0x3E => rawWA w fun _ a _ r => .launch r a
  | 0x3F => rawWS w fun r i c => .lcancel c (flag (i % 2)) r
  | _ => none

/-- Source b and source c from the fields vb, vc, LRB, LRC, mod[2], mod[3] of LV (R267). -/
def rawB (vb vc lrb lrc m2 m3 : Nat) : BSrc × VSrc :=
  if m3 = 1 then (.scal (BitVec.ofNat 6 vb), ⟨BitVec.ofNat 8 vc, flag lrc⟩)
  else if m2 = 1 then (.imm (BitVec.ofNat 16 (vb + 256 * vc)), ⟨0, flag lrc⟩)
  else (.vec ⟨BitVec.ofNat 8 vb, flag lrb⟩, ⟨BitVec.ofNat 8 vc, flag lrc⟩)

/-- The fields of LV (R267). -/
def rawLV (w : Nat) (k : LvF → Instr) : Option Instr :=
  match unpack [2, 8, 3, 1, 3, 8, 8, 8, 8, 1, 1, 1, 2, 1, 1, 8] w with
  | [_, _, pg, pn, st, vd, va, vb, vc, la, lb, lc, _, m2, m3, e] =>
    some (k ⟨⟨flag pn, BitVec.ofNat 3 pg⟩, BitVec.ofNat 3 st, BitVec.ofNat 8 vd, ⟨BitVec.ofNat 8 va, flag la⟩,
      (rawB vb vc lb lc m2 m3).1, (rawB vb vc lb lc m2 m3).2, BitVec.ofNat 8 e⟩)
  | _ => none

/-- The fields of LM (R269). -/
def rawLM (w : Nat) (k : LmF → Instr) : Option Instr :=
  match unpack [2, 8, 3, 1, 3, 8, 8, 4, 3, 1, 1, 3, 1, 1, 1, 3, 5, 8] w with
  | [_, _, pg, pn, _, vd, vo, n, sz, sg, o, sc, lrd, lro, os, scale, stride, i] =>
    some (k ⟨⟨flag pn, BitVec.ofNat 3 pg⟩, BitVec.ofNat 8 i, BitVec.ofNat 5 stride, BitVec.ofNat 3 scale, flag os,
      flag lro, flag lrd, BitVec.ofNat 3 sc, flag o, flag sg, BitVec.ofNat 3 sz, BitVec.ofNat 4 n, BitVec.ofNat 8 vo,
      BitVec.ofNat 8 vd⟩)
  | _ => none

/-- The fields of LA (R269). -/
def rawLA (w : Nat) (k : LaF → Instr) : Option Instr :=
  match unpack [2, 8, 3, 1, 3, 8, 8, 8, 8, 4, 5, 3, 2, 1] w with
  | [_, _, pg, pn, _, vd, va, vb, vc, n, aop, sc, o, w64] =>
    some (k ⟨⟨flag pn, BitVec.ofNat 3 pg⟩, flag w64, BitVec.ofNat 2 o, BitVec.ofNat 3 sc, BitVec.ofNat 5 aop,
      BitVec.ofNat 4 n, BitVec.ofNat 8 vc, BitVec.ofNat 8 vb, BitVec.ofNat 8 va, BitVec.ofNat 8 vd⟩)
  | _ => none

/-- The fields of LZ (R128). -/
def rawLZ (w : Nat) (k : LzF → Instr) : Option Instr :=
  match unpack [2, 8, 3, 1, 3, 8, 7, 3, 2, 3, 4, 3, 6, 1] w with
  | [_, _, pg, pn, _, base, arow, mc, nc, acol, n, fmt, hi, sat] =>
    some (k ⟨⟨flag pn, BitVec.ofNat 3 pg⟩, BitVec.ofNat 8 base, BitVec.ofNat 7 arow, BitVec.ofNat 3 mc, BitVec.ofNat 2 nc,
      BitVec.ofNat 3 acol, BitVec.ofNat 4 n, BitVec.ofNat 3 fmt, BitVec.ofNat 6 hi, flag sat⟩)
  | _ => none

/-- The fields of LX (R181), with bits [44:27]. -/
def rawLX (w : Nat) (k : LxF → Nat → Instr) : Option Instr :=
  match unpack [2, 8, 3, 1, 3, 6, 4, 18, 3, 1, 1] w with
  | [_, _, _, _, _, sd, n, further, sc, acq, rel] =>
    some (k ⟨BitVec.ofNat 6 sd, BitVec.ofNat 4 n, BitVec.ofNat 3 sc, flag acq, flag rel⟩ further)
  | _ => none

/-- The rows of R270, before the checks of zero fields. -/
def rawL64 (w : Nat) : Option Instr :=
  match w / 4 % 256 with
  | 0x0 => rawLV w .vadd
  | 0x1 => rawLV w .vsub
  | 0x2 => rawLV w .vmul
  | 0x3 => rawLV w .vmulh
  | 0x4 => rawLV w .vmad
  | 0x5 => rawLV w .vaddc
  | 0x6 => rawLV w .vand
  | 0x7 => rawLV w .vor
  | 0x8 => rawLV w .vxor
  | 0x9 => rawLV w .vnot
  | 0xa => rawLV w .vshl
  | 0xb => rawLV w .vshr
  | 0xc => rawLV w .vsra
  | 0xd => rawLV w .vmin
  | 0xe => rawLV w .vmax
  | 0xf => rawLV w .vabs
  | 0x10 => rawLV w .vneg
  | 0x11 => rawLV w .vclz
  | 0x12 => rawLV w .vpopc
  | 0x13 => rawLV w .vbfe
  | 0x14 => rawLV w .vbfi
  | 0x15 => rawLV w .vsel
  | 0x16 => rawLV w .vmov
  | 0x17 => rawLV w .vli
  | 0x18 => rawLV w .vcmp
  | 0x19 => rawLV w .vlane
  | 0x20 => rawLV w .vaddp
  | 0x21 => rawLV w .vsubp
  | 0x22 => rawLV w .vshlp
  | 0x23 => rawLV w .vshrp
  | 0x24 => rawLV w .vsrap
  | 0x25 => rawLV w .vminp
  | 0x26 => rawLV w .vmaxp
  | 0x27 => rawLV w .vdot8
  | 0x28 => rawLV w .vdot4
  | 0x29 => rawLV w .vpack
  | 0x2a => rawLV w .vunpk
  | 0x30 => rawLV w .vfadd
  | 0x31 => rawLV w .vfsub
  | 0x32 => rawLV w .vfmul
  | 0x33 => rawLV w .vfma
  | 0x34 => rawLV w .vfmin
  | 0x35 => rawLV w .vfmax
  | 0x36 => rawLV w .vfcmp
  | 0x37 => rawLV w .vfrcp
  | 0x38 => rawLV w .vfrsq
  | 0x39 => rawLV w .vfsqrt
  | 0x3a => rawLV w .vfexp2
  | 0x3b => rawLV w .vflog2
  | 0x3c => rawLV w .vfsin
  | 0x3d => rawLV w .vfcos
  | 0x3e => rawLV w .vfrnd
  | 0x3f => rawLV w .vfcls
  | 0x40 => rawLV w .vhfma
  | 0x41 => rawLV w .vhadd
  | 0x42 => rawLV w .vhmul
  | 0x43 => rawLV w .vcvt
  | 0x50 => rawLV w .vshfl
  | 0x51 => rawLV w .vrfl
  | 0x52 => rawLV w .vvote
  | 0x53 => rawLV w .vred
  | 0x54 => rawLV w .vscan
  | 0x58 => match unpack [2, 8, 3, 1, 3, 24, 23] w with
    | [_, _, p, n, _, t, r] => some (.brv (BitVec.ofNat 3 p) (flag n) (BitVec.ofNat 24 t) (BitVec.ofNat 23 r))
    | _ => none
  | 0x60 => rawLM w .vld
  | 0x61 => rawLM w .vst
  | 0x62 => rawLM w .vlds
  | 0x63 => rawLM w .vsts
  | 0x64 => rawLM w .ldl
  | 0x65 => rawLM w .stl
  | 0x66 => rawLM w .ldr
  | 0x67 => rawLM w .str
  | 0x68 => rawLA w .vatom
  | 0x69 => rawLA w .vcas
  | 0x6a => rawLA w .latom
  | 0x6b => rawLA w .matom
  | 0x6c => rawLA w .satom
  | 0x6d => rawLM w .qpush
  | 0x6e => rawLM w .qpop
  | 0x80 => match unpack [2, 8, 3, 1, 3, 8, 7, 3, 2, 3, 2, 1, 1, 3, 1, 1] w with
    | [_, _, _, _, _, base, arow, mc, nc, ef, pm, span, ovw, acol, _, lr] =>
      some (.mcube ⟨flag lr, BitVec.ofNat 3 acol, flag ovw, flag span, BitVec.ofNat 2 pm, BitVec.ofNat 3 ef,
        BitVec.ofNat 2 nc, BitVec.ofNat 3 mc, BitVec.ofNat 7 arow, BitVec.ofNat 8 base⟩)
    | _ => none
  | 0x81 => match unpack [2, 8, 3, 1, 3, 8, 6, 6, 3, 3, 1] w with
    | [_, _, pg, pn, _, base, off, pitch, ef, rows, t] =>
      some (.mldf ⟨⟨flag pn, BitVec.ofNat 3 pg⟩, BitVec.ofNat 8 base, BitVec.ofNat 6 off, BitVec.ofNat 6 pitch,
        BitVec.ofNat 3 ef, BitVec.ofNat 3 rows, flag t⟩)
    | _ => none
  | 0x82 => rawLZ w .mzero
  | 0x83 => rawLZ w .mstz
  | 0x84 => rawLZ w .mrdz
  | 0x85 => rawLZ w .mwrz
  | 0x86 => rawLZ w .mscl
  | 0x90 => rawLX w fun f _ => .xcpy f
  | 0x91 => rawLX w fun f _ => .xgath f
  | 0x92 => rawLX w fun f _ => .xscat f
  | 0x93 => rawLX w fun f _ => .xred f
  | 0x94 => rawLX w fun f _ => .xsig f
  | 0x95 => rawLX w fun f x => .spill f (BitVec.ofNat 8 x) (BitVec.ofNat 8 (x / 256))
  | 0x96 => rawLX w fun f x => .fill f (BitVec.ofNat 8 x) (BitVec.ofNat 8 (x / 256))
  | 0x97 => rawLX w fun f x => .xpfd f (BitVec.ofNat 6 x)
  | _ => none

/-- The instruction that a word of n bytes would be, before the checks. -/
def rawWord (n w : Nat) : Option Instr := if n = 2 then rawC16 w else if n = 4 then rawW32 w else rawL64 w

/-- The instruction of a word of n bytes: its fields in legal codes, and every field that must be zero zero, which is to
say that its encoding is the word (R271). -/
def decodeWord (n w : Nat) : Option Instr :=
  match rawWord n w with
  | some i => if wellFormed i && byteLen i == n && encode i == w then some i else none
  | none => none

/-- The instruction at the front of the bytes, with its length (R255, R271). -/
def decodeBytes (bs : List Byte) : Except Reject (Instr × Nat) :=
  match bs with
  | [] => .error .truncated
  | b :: _ =>
    if bs.length < lengthOf b.toNat then .error .truncated
    else match decodeWord (lengthOf b.toNat) (leNat (bs.take (lengthOf b.toNat))) with
      | some i => .ok (i, lengthOf b.toNat)
      | none => .error (.illegal (lengthOf b.toNat))

/-- The bytes of a table word, zeros above its bits up to the longest instruction. -/
def tableBytes (nbits w : Nat) : List Byte := leBytes 8 (w % 2 ^ nbits)

/-- The decoder on a word of spec/opcode_table.json. -/
def decodeTableWord (nbits w : Nat) : Option Instr :=
  match decodeBytes (tableBytes nbits w) with
  | .ok (i, _) => some i
  | .error _ => none

end Sys2Proof
end

