-- ==== Sys2Proof/Machine/Bits.lean ====
section
/-! DEFINITION. The integer helpers of R100 and the integer rules R106 to R109: extension, elements, shifts, division. -/

namespace Sys2Proof.Machine

/-- The sum of a list of numbers. -/
def sumOf (l : List Nat) : Nat := l.foldl (· + ·) 0

/-- R100 Sext: the low n bits of x read as a signed integer. -/
def sextN (n x : Nat) : Int :=
  if x % 2 ^ n < 2 ^ (n - 1) then (x % 2 ^ n : Nat) else (x % 2 ^ n : Nat) - (2 ^ n : Nat)

/-- R100 Elem: the i-th packed element of width w. -/
def elemN (x w i : Nat) : Nat := x / 2 ^ (w * i) % 2 ^ w

/-- Packed elements of width w put side by side, element 0 in the low bits (R97). -/
def joinN (w : Nat) : List Nat → Nat
  | [] => 0
  | e :: t => e % 2 ^ w + 2 ^ w * joinN w t

/-- R100 Trunc of an integer as an n-bit pattern, held as a natural number. -/
def truncI (x : Int) (n : Nat) : Nat := (x % ((2 ^ n : Nat) : Int)).toNat

/-- R100 SatS, with whether it clamps. -/
def satS (x : Int) (n : Nat) : Int × Bool :=
  if x < -((2 ^ (n - 1) : Nat) : Int) then (-((2 ^ (n - 1) : Nat) : Int), true)
  else if x > ((2 ^ (n - 1) : Nat) : Int) - 1 then (((2 ^ (n - 1) : Nat) : Int) - 1, true)
  else (x, false)

/-- R100 SatU, with whether it clamps. -/
def satU (x : Int) (n : Nat) : Int × Bool :=
  if x < 0 then (0, true) else if x > ((2 ^ n : Nat) : Int) - 1 then (((2 ^ n : Nat) : Int) - 1, true) else (x, false)

/-- R108: left shift of a w-bit element by k. -/
def shlN (w x k : Nat) : Nat := if k < w then x * 2 ^ k % 2 ^ w else 0

/-- R108: logical right shift of a w-bit element by k. -/
def shrN (w x k : Nat) : Nat := if k < w then x % 2 ^ w / 2 ^ k else 0

/-- R108: arithmetic right shift of a w-bit element by k. -/
def sraN (w x k : Nat) : Nat :=
  if k < w then truncI (Int.fdiv (sextN w x) ((2 ^ k : Nat) : Int)) w
  else if sextN w x < 0 then 2 ^ w - 1 else 0

/-- The number of leading zeros of a w-bit value. -/
def clzN (w x : Nat) : Nat := if x = 0 then w else w - 1 - Nat.log2 x

/-- The number of one bits among the low w bits. -/
def popN : Nat → Nat → Nat
  | 0, _ => 0
  | w + 1, x => x % 2 + popN w (x / 2)

/-- The number of trailing zeros among the low w bits. -/
def ctzN : Nat → Nat → Nat
  | 0, _ => 0
  | w + 1, x => if x % 2 = 1 then 0 else 1 + ctzN w (x / 2)

/-- R107: quotient and remainder of 64-bit patterns. -/
def divRem (signed : Bool) (a b : BitVec 64) : BitVec 64 × BitVec 64 :=
  if b = 0 then (BitVec.allOnes 64, a)
  else if signed then
    if a = BitVec.intMin 64 ∧ b = BitVec.allOnes 64 then (BitVec.intMin 64, 0)
    else (BitVec.ofInt 64 (Int.tdiv a.toInt b.toInt), BitVec.ofInt 64 (Int.tmod a.toInt b.toInt))
  else (BitVec.ofNat 64 (a.toNat / b.toNat), BitVec.ofNat 64 (a.toNat % b.toNat))

/-- R14: lane L of a mask. -/
def laneOn (m : Mask) (l : Nat) : Bool := m.getLsbD l

/-- The mask with the lanes that p holds of. -/
def maskOf (p : Nat → Bool) : Mask := (BitVec.ofBoolListLE ((List.range 32).map p)).setWidth 32

/-- The lanes of a mask, ascending. -/
def lanesOf (m : Mask) : List Nat := (List.range 32).filter (laneOn m)

/-- The number of lanes of a mask. -/
def popMask (m : Mask) : Nat := popN 32 m.toNat

/-- Whether a list of numbers holds n. -/
def hasNat (l : List Nat) (n : Nat) : Bool := l.any (· == n)

/-- R257: an immediate field of width w widened by up to two IMX values, the first IMX first. -/
def widen (prefixes : List (BitVec 24)) (w f : Nat) : Int :=
  match prefixes with
  | [] => sextN w f
  | [x1] => sextN (w + 24) (x1.toNat * 2 ^ w + f)
  | x1 :: x2 :: _ => sextN (w + 48) (x1.toNat * 2 ^ (w + 24) + x2.toNat * 2 ^ w + f)

/-- An integer as an address, modulo 2^72 (R38). -/
def toAddr (x : Int) : Addr := BitVec.ofInt 72 x

end Sys2Proof.Machine
end

