-- ==== Sys2Proof/Machine/Float.lean ====
section
/-! DEFINITION. Floating-point formats, rounding, arithmetic and conversions, exact on dyadic values (R95 to R103). -/

namespace Sys2Proof.Machine

/-- The value of an encoding (R95): NaN, an infinity, or (-1)^neg · m · 2^e, where m = 0 is a signed zero. -/
inductive FVal where
  | nan
  | inf (neg : Bool)
  | fin (neg : Bool) (m : Nat) (e : Int)
  deriving DecidableEq, Repr

/-- The parameters of a format (R95). `wide` formats have infinities and NaNs in the top exponent; the two others have
one NaN, 0x80, and no negative zero. -/
structure FFmt where
  width : Nat
  p : Nat
  emin : Int
  bias : Int
  wide : Bool
  maxBits : Nat
  nan : Nat
  narrow : Bool
  deriving DecidableEq, Repr

/-- FP32 (R95). -/
def fp32 : FFmt := ⟨32, 24, -126, 127, true, 0x7F7FFFFF, 0x7FC00000, false⟩

/-- FP16 (R95). -/
def fp16 : FFmt := ⟨16, 11, -14, 15, true, 0x7BFF, 0x7E00, true⟩

/-- BF16 (R95). -/
def bf16 : FFmt := ⟨16, 8, -126, 127, true, 0x7F7F, 0x7FC0, true⟩

/-- F8A (R95). -/
def f8a : FFmt := ⟨8, 4, -7, 8, false, 0x7F, 0x80, true⟩

/-- F8B (R95). -/
def f8b : FFmt := ⟨8, 3, -15, 16, false, 0x7F, 0x80, true⟩

/-- Rounding modes of FMT.RM (R98). -/
inductive RMode where
  | rne | rtz | rdn | rup
  deriving DecidableEq, Repr

/-- The mode of a two-bit code (R98). -/
def RMode.ofCode (c : Nat) : RMode := if c = 0 then .rne else if c = 1 then .rtz else if c = 2 then .rdn else .rup

/-- The sign bit of a format, 0 or in place. -/
def FFmt.signBits (f : FFmt) (neg : Bool) : Nat := if neg then 2 ^ (f.width - 1) else 0

/-- R95, R100 Decode. -/
def decodeF (f : FFmt) (ftz : Bool) (bits : Nat) : FVal :=
  let neg := decide (bits / 2 ^ (f.width - 1) % 2 = 1)
  let ex := bits % 2 ^ (f.width - 1) / 2 ^ (f.p - 1)
  let fr := bits % 2 ^ (f.p - 1)
  let top := 2 ^ (f.width - f.p) - 1
  if f.wide then
    if ex = top then (if fr = 0 then .inf neg else .nan)
    else if ex = 0 then (if ftz then .fin neg 0 0 else .fin neg fr (f.emin - ((f.p - 1 : Nat) : Int)))
    else .fin neg (2 ^ (f.p - 1) + fr) ((ex : Int) - f.bias - ((f.p - 1 : Nat) : Int))
  else if bits % 2 ^ f.width = f.nan then .nan
  else if ex = 0 then (if ftz then .fin neg 0 0 else .fin neg fr (f.emin - ((f.p - 1 : Nat) : Int)))
  else .fin neg (2 ^ (f.p - 1) + fr) ((ex : Int) - f.bias - ((f.p - 1 : Nat) : Int))

/-- m · 2^e as a multiple of 2^q, rounded to an integer under a mode (R101 ROUND_rm), for a value of the given sign. -/
def roundQ (rm : RMode) (neg : Bool) (m : Nat) (e q : Int) : Nat :=
  if e ≥ q then m * 2 ^ (e - q).toNat
  else
    let d := 2 ^ (q - e).toNat
    let n := m / d
    let r := m % d
    match rm with
    | .rne => if 2 * r < d then n else if 2 * r > d then n + 1 else n + n % 2
    | .rtz => n
    | .rdn => if neg ∧ r ≠ 0 then n + 1 else n
    | .rup => if ¬neg ∧ r ≠ 0 then n + 1 else n

/-- FLOOR(LOG2(m · 2^e)) of a nonzero value. -/
def flog2 (m : Nat) (e : Int) : Int := (Nat.log2 m : Int) + e

/-- The encoding of n · 2^q, where q is the quantum of its binade (R95). -/
def encodeQ (f : FFmt) (neg : Bool) (n : Nat) (q : Int) : Nat :=
  f.signBits neg + ((q + f.p - 2 + f.bias).toNat * 2 ^ (f.p - 1) + n)

/-- A zero of a sign (R96: +0 only in F8A and F8B). -/
def zeroF (f : FFmt) (neg : Bool) : Nat := if f.wide then f.signBits neg else 0

/-- The largest finite value of a sign. -/
def maxF (f : FFmt) (neg : Bool) : Nat := f.signBits neg + f.maxBits

/-- An infinity of a sign, or the NaN where the format has none. -/
def infF (f : FFmt) (neg : Bool) : Nat :=
  if f.wide then f.signBits neg + (2 ^ (f.width - f.p) - 1) * 2 ^ (f.p - 1) else f.nan

/-- R101 RoundF. -/
def roundF (f : FFmt) (rm : RMode) (ftz sat : Bool) (x : FVal) : Nat :=
  match x with
  | .nan => f.nan
  | .inf neg => if sat && f.narrow then maxF f neg else infF f neg
  | .fin neg m e =>
    if m = 0 then zeroF f neg
    else
      let q := max (flog2 m e) f.emin - f.p + 1
      let n := roundQ rm neg m e q
      let big := match decodeF f false f.maxBits with
        | .fin _ mm me => if q ≥ me then decide (n * 2 ^ (q - me).toNat > mm) else decide (n > mm * 2 ^ (me - q).toNat)
        | _ => false
      if big then
        if sat && f.narrow then maxF f neg
        else if rm = .rne ∨ (rm = .rup ∧ ¬neg) ∨ (rm = .rdn ∧ neg) then infF f neg
        else maxF f neg
      else if n = 0 then zeroF f neg
      else if ftz ∧ n < 2 ^ (f.p - 1) then zeroF f neg
      else encodeQ f neg n q

/-- The signed integer (-1)^neg · m. -/
def signedI (neg : Bool) (m : Nat) : Int := if neg then -(m : Int) else m

/-- R102: the exact sum; a zero sum of unlike signs is +0, and -0 under RDN. -/
def addF (rm : RMode) (x y : FVal) : FVal :=
  match x, y with
  | .nan, _ => .nan
  | _, .nan => .nan
  | .inf a, .inf b => if a = b then .inf a else .nan
  | .inf a, _ => .inf a
  | _, .inf b => .inf b
  | .fin na ma ea, .fin nb mb eb =>
    if ma = 0 ∧ mb = 0 then (if na = nb then .fin na 0 0 else .fin (rm = .rdn) 0 0)
    else if ma = 0 then .fin nb mb eb
    else if mb = 0 then .fin na ma ea
    else
      let e := min ea eb
      let s := signedI na (ma * 2 ^ (ea - e).toNat) + signedI nb (mb * 2 ^ (eb - e).toNat)
      if s = 0 then .fin (rm = .rdn) 0 0 else .fin (decide (s < 0)) s.natAbs e

/-- The value with its sign turned. -/
def negF : FVal → FVal
  | .nan => .nan
  | .inf n => .inf (!n)
  | .fin n m e => .fin (!n) m e

/-- R102: the exact product. -/
def mulF (x y : FVal) : FVal :=
  match x, y with
  | .nan, _ => .nan
  | _, .nan => .nan
  | .inf a, .inf b => .inf (a != b)
  | .inf a, .fin b m _ => if m = 0 then .nan else .inf (a != b)
  | .fin a m _, .inf b => if m = 0 then .nan else .inf (a != b)
  | .fin a ma ea, .fin b mb eb => .fin (a != b) (ma * mb) (ea + eb)

/-- R102: a multiply-add, exact. -/
def fmaF (rm : RMode) (x y z : FVal) : FVal := addF rm (mulF x y) z

/-- Order of two values that are no NaN, with -0 equal to +0. -/
def cmpF (x y : FVal) : Ordering :=
  match x, y with
  | .nan, _ => .eq
  | _, .nan => .eq
  | .inf a, .inf b => if a = b then .eq else if a then .lt else .gt
  | .inf a, _ => if a then .lt else .gt
  | _, .inf b => if b then .gt else .lt
  | .fin na ma ea, .fin nb mb eb =>
    let e := min ea eb
    compare (signedI na (ma * 2 ^ (ea - e).toNat)) (signedI nb (mb * 2 ^ (eb - e).toNat))

/-- Whether a value is NaN. -/
def FVal.isNan : FVal → Bool
  | .nan => true
  | _ => false

/-- Whether a value has its sign set. -/
def FVal.isNeg : FVal → Bool
  | .nan => false
  | .inf n => n
  | .fin n _ _ => n

/-- R102: the lesser (`least`) or the greater of two values; one NaN gives the other operand, -0 stands below +0. -/
def minMaxF (least : Bool) (x y : FVal) : FVal :=
  if x.isNan then y
  else if y.isNan then x
  else match cmpF x y with
    | .lt => if least then x else y
    | .gt => if least then y else x
    | .eq => if x.isNeg = least then x else y

/-- R101 ROUND_rm to an integer. -/
def roundI (rm : RMode) (neg : Bool) (m : Nat) (e : Int) : Int := signedI neg (roundQ rm neg m e 0)

/-- R103 CvtFI: the integer and whether SATF is set. -/
def cvtFI (x : FVal) (n : Nat) (signed : Bool) (rm : RMode) : Int × Bool :=
  match x with
  | .nan => (0, true)
  | .inf neg =>
    let big : Int := if neg then (if signed then -((2 ^ n : Nat) : Int) else -1) else ((2 ^ n : Nat) : Int)
    if signed then satS big n else satU big n
  | .fin neg m e => if signed then satS (roundI rm neg m e) n else satU (roundI rm neg m e) n

/-- An integer as an exact value. -/
def intF (x : Int) : FVal := .fin (decide (x < 0)) x.natAbs 0

/-- Codes of R103: the float format of codes 0 to 4. -/
def fmtOfCode (c : Nat) : FFmt :=
  if c = 0 then fp32 else if c = 1 then fp16 else if c = 2 then bf16 else if c = 3 then f8a else f8b

/-- Codes of R103: the width of a format in bits. -/
def cvtWidth (c : Nat) : Nat :=
  if c = 0 ∨ c = 5 ∨ c = 6 then 32 else if c = 3 ∨ c = 4 ∨ c = 9 ∨ c = 10 then 8 else 16

/-- Codes of R103: whether an integer format is signed. -/
def cvtSigned (c : Nat) : Bool := c == 5 || c == 7 || c == 9

/-- R102, R103: whether a conversion flushes a subnormal result. F8B alone has normal values that a wider format holds as
subnormals, FP16: R103 calls a widening conversion exact, while its RoundF flushes them under FTZ; which it is, is free (log
entry 42). -/
def flushesTo (src dst : FFmt) (ftz : Bool) : Bool := ftz && if src = f8b ∧ dst = fp16 then Config.widenFlushes else true

/-- R103: conversion of an element between two of the eleven formats; the bits in the destination width and whether SATF
is set. -/
def convert (src dst : Nat) (rm : RMode) (ftz sat : Bool) (bits : Nat) : Nat × Bool :=
  let x : FVal := if src < 5 then decodeF (fmtOfCode src) ftz (bits % 2 ^ cvtWidth src) else .nan
  let i : Int := if cvtSigned src then sextN (cvtWidth src) bits else ((bits % 2 ^ cvtWidth src : Nat) : Int)
  if dst < 5 then (roundF (fmtOfCode dst) rm (if src < 5 then flushesTo (fmtOfCode src) (fmtOfCode dst) ftz else ftz) sat
    (if src < 5 then x else intF i), false)
  else
    let r := if src < 5 then cvtFI x (cvtWidth dst) (cvtSigned dst) rm
      else if cvtSigned dst then satS i (cvtWidth dst) else satU i (cvtWidth dst)
    (truncI r.1 (cvtWidth dst), r.2)

/-- R124, R129, R291: RoundFP32_RNE. -/
def roundRne (x : FVal) : Nat := roundF fp32 .rne false false x

end Sys2Proof.Machine
end

