-- ==== Sys2Proof/Machine/Special.lean ====
section
/-! DEFINITION. The special functions of R104 and R105. The part may return any FP32 value within the bound of R104; the
free values of Config stand for its choice, and count where they lie within the bound (log entry 8). -/

namespace Sys2Proof.Machine

/-- The bit at and below place k of the integer square root of n, given its higher bits r. -/
def isqrtFrom (n : Nat) : Nat → Nat → Nat
  | 0, r => r
  | k + 1, r => if (r + 2 ^ k) * (r + 2 ^ k) ≤ n then isqrtFrom n k (r + 2 ^ k) else isqrtFrom n k r

/-- The integer square root. -/
def isqrt (n : Nat) : Nat := isqrtFrom n (Nat.log2 n / 2 + 1) 0

/-- An exact real known to lie from lo · 2^e to hi · 2^e; exact when lo = hi. -/
structure Encl where
  lo : Int
  hi : Int
  e : Int
  deriving DecidableEq, Repr

/-- a · 2^ea ≤ b · 2^eb. -/
def dyLe (a ea b eb : Int) : Bool :=
  let e := min ea eb
  decide (a * ((2 ^ (ea - e).toNat : Nat) : Int) ≤ b * ((2 ^ (eb - e).toNat : Nat) : Int))

/-- The FP32 value nearest an enclosed real, under RNE. -/
def nearestEncl (ftz : Bool) (y : Encl) : Nat :=
  if y.lo = y.hi then roundF fp32 .rne ftz false (.fin (decide (y.lo < 0)) y.lo.natAbs y.e)
  else roundF fp32 .rne ftz false (.fin (decide (2 * y.lo + 1 < 0)) (2 * y.lo + 1).natAbs (y.e - 1))

/-- The exponent of the quantum of one ulp at the enclosed value (R104). -/
def ulpExp (y : Encl) : Int := max (flog2 (min y.lo.natAbs y.hi.natAbs) y.e) (-126) - 23

/-- Whether the value (-1)^neg · m · 2^e lies within b · 2^eb of the enclosed real. -/
def withinEncl (y : Encl) (neg : Bool) (m : Nat) (e b eb : Int) : Bool :=
  let g := min (min e y.e) eb
  let c := signedI neg m * ((2 ^ (e - g).toNat : Nat) : Int)
  let d := b * ((2 ^ (eb - g).toNat : Nat) : Int)
  let u := ((2 ^ (y.e - g).toNat : Nat) : Int)
  decide (c - d ≤ y.lo * u) && decide (y.hi * u ≤ c + d)

/-- R105: a result that overflows is plus infinity (log entry 47). -/
def overflowed (r : Nat) : Nat := if r = infF fp32 true then infF fp32 false else r

/-- R104, R105: the result for an enclosed exact value: one that overflows gives plus infinity; a magnitude of 2^-126 or less is
rounded, as an underflow is (log entry 8); otherwise the free value counts where it is finite and within the bound (`ulps` ulp,
or 2^-22 where that is 0). -/
def pickValue (free : BitVec 32) (ftz : Bool) (ulps : Int) (y : Encl) : Nat :=
  let near := overflowed (nearestEncl ftz y)
  if dyLe y.hi y.e (-1) 128 || dyLe 1 128 y.lo y.e then infF fp32 false
  else if !dyLe 1 (-126) y.hi y.e && !dyLe y.lo y.e (-1) (-126) then near
  else match decodeF fp32 false free.toNat with
    | .fin neg m e =>
      if withinEncl y neg m e (if ulps = 0 then 1 else ulps) (if ulps = 0 then -22 else ulpExp y) then
        (if ftz then roundF fp32 .rne true false (.fin neg m e) else free.toNat)
      else near
    | _ => near

/-- 1 / (m · 2^e) for m ≠ 0. -/
def recipEncl (neg : Bool) (m : Nat) (e : Int) : Encl :=
  let k := 256 + Nat.log2 m
  let q := 2 ^ k / m
  let r := 2 ^ k % m
  let lo := signedI neg q
  let hi := signedI neg (if r = 0 then q else q + 1)
  ⟨min lo hi, max lo hi, -e - k⟩

/-- 1 / √(m · 2^e) for m ≠ 0. -/
def rsqrtEncl (m : Nat) (e : Int) : Encl :=
  let odd := e % 2 = 1
  let m' := if odd then 2 * m else m
  let h := (if odd then e - 1 else e) / 2
  let k := 256 + Nat.log2 m'
  let n := 2 ^ (2 * k) / m'
  let r := isqrt n
  ⟨r, if r * r * m' = 2 ^ (2 * k) then r else r + 1, -h - k⟩

/-- FLOOR(π · 2^256). -/
def piFix : Int := 0x3243f6a8885a308d313198a2e03707344a4093822299f31d0082efa98ec4e6c89

/-- FLOOR(ln 2 · 2^256). -/
def ln2Fix : Int := 0xb17217f7d1cf79abc9e3b39803f2f6af40f343267298b62d8a0d175b8baafa2b

/-- 2^256, the scale of the fixed-point numbers below. -/
def oneFix : Int := ((2 ^ 256 : Nat) : Int)

/-- The sum of t · z^i · k! / (k+i)! over the next i terms, in fixed point. -/
def expSum (z : Int) : Nat → Nat → Int → Int
  | 0, _, _ => 0
  | n + 1, k, t => t + expSum z n (k + 1) (t * z / oneFix / ((k : Int) + 1))

/-- The sum of the next terms t · (-z²)^i / ((k+1)(k+2)…), in fixed point: sine from k = 1, cosine from k = 0. -/
def trigSum (z2 : Int) : Nat → Nat → Int → Int
  | 0, _, _ => 0
  | n + 1, k, t => t + trigSum z2 n (k + 2) (-(t * z2 / oneFix) / (((k : Int) + 1) * ((k : Int) + 2)))

/-- The sum of the next terms t · (t²)^i / (2k+1 …), in fixed point. -/
def atanhSum (t2 : Int) : Nat → Nat → Int → Int
  | 0, _, _ => 0
  | n + 1, k, t => t / (2 * (k : Int) + 1) + atanhSum t2 n (k + 1) (t * t2 / oneFix)

/-- How far the sums may stand from the exact value. -/
def slackFix : Int := ((2 ^ 24 : Nat) : Int)

/-- The value (-1)^neg · m · 2^e in fixed point, exact for e ≥ -256. -/
def toFix (neg : Bool) (m : Nat) (e : Int) : Int := signedI neg (m * 2 ^ (e + 256).toNat)

/-- 2^x. -/
def exp2Encl (neg : Bool) (m : Nat) (e : Int) : Encl :=
  let x := toFix neg m e
  let n := Int.fdiv x oneFix
  let f := x - n * oneFix
  if f = 0 then ⟨1, 1, n⟩
  else
    let s := expSum (f * ln2Fix / oneFix) 80 0 oneFix
    ⟨s - slackFix, s + slackFix, n - 256⟩

/-- log2 x, for m ≠ 0. -/
def log2Encl (m : Nat) (e : Int) : Encl :=
  let k := Nat.log2 m
  let x : Int := ((m * 2 ^ 256 / 2 ^ k : Nat) : Int)
  if x = oneFix then ⟨flog2 m e, flog2 m e, 0⟩
  else
    let t := (x - oneFix) * oneFix / (x + oneFix)
    let s := 2 * atanhSum (t * t / oneFix) 100 0 t * oneFix / ln2Fix + flog2 m e * oneFix
    ⟨s - slackFix, s + slackFix, -256⟩

/-- x less 2k, k the integer nearest x / 2, in fixed point (R104). -/
def reduceFix (x : Int) : Int := x - 2 * oneFix * Int.fdiv (x + oneFix) (2 * oneFix)

/-- sin(πx) of the reduced argument. -/
def sinEncl (x : Int) : Encl :=
  let z := x * piFix / oneFix
  let s := trigSum (z * z / oneFix) 50 1 z
  ⟨s - slackFix, s + slackFix, -256⟩

/-- cos(πx) of the reduced argument. -/
def cosEncl (x : Int) : Encl :=
  let z := x * piFix / oneFix
  let s := trigSum (z * z / oneFix) 50 0 oneFix
  ⟨s - slackFix, s + slackFix, -256⟩

/-- The special functions of R330. -/
inductive SpecialOp where
  | rcp | rsq | sqrt | exp2 | log2 | sin | cos
  deriving DecidableEq, Repr

/-- VFSQRT: correctly rounded under the mode (R104, R105). -/
def sqrtF (rm : RMode) (ftz : Bool) (x : FVal) : Nat :=
  match x with
  | .nan => fp32.nan
  | .inf neg => if neg then fp32.nan else infF fp32 false
  | .fin neg m e =>
    if m = 0 then zeroF fp32 neg
    else if neg then fp32.nan
    else
      let odd := e % 2 = 1
      let m' := (if odd then 2 * m else m) * 2 ^ 64
      let h := (if odd then e - 1 else e) / 2 - 32
      let r := isqrt m'
      roundF fp32 rm ftz false (.fin false (2 * r + if r * r = m' then 0 else 1) (h - 1))

/-- Exactly ±1 or a zero. -/
def oneF (neg : Bool) : Nat := fp32.signBits neg + 0x3F800000

/-- R104: the FP32 pattern of a reduced argument, which is exact. -/
def reducedBits (x : Int) : BitVec 32 :=
  BitVec.ofNat 32 (roundF fp32 .rne false false (.fin (decide (x < 0)) x.natAbs (-256)))

/-- VFSIN or VFCOS of a finite value (R104): the result for the reduced argument. -/
def trigF (free : BitVec 32 → Bool → BitVec 32) (cos ftz : Bool) (neg : Bool) (m : Nat) (e : Int) : Nat :=
  let x := reduceFix (toFix neg m e)
  let quarter := oneFix / 2
  if m = 0 ∨ x = 0 ∨ x = oneFix ∨ x = -oneFix then
    (if cos then oneF (decide (m ≠ 0 ∧ x ≠ 0)) else zeroF fp32 neg)
  else if x = quarter ∨ x = -quarter then (if cos then zeroF fp32 false else oneF (decide (x < 0)))
  else pickValue (free (reducedBits x) ftz) ftz 0 (if cos then cosEncl x else sinEncl x)

/-- R104, R105, R330: the result of a special function on an FP32 pattern. -/
def specialF (op : SpecialOp) (rm : RMode) (ftz : Bool) (bits : BitVec 32) : Nat :=
  let x := decodeF fp32 ftz bits.toNat
  match op, x with
  | .sqrt, _ => sqrtF rm ftz x
  | _, .nan => fp32.nan
  | .rcp, .inf neg => zeroF fp32 neg
  | .rcp, .fin neg m e =>
    if m = 0 then infF fp32 neg
    else if ¬neg ∧ m * 2 ^ (e + 256).toNat = 2 ^ 256 then oneF false
    else pickValue (Config.rcpValue bits ftz) ftz 1 (recipEncl neg m e)
  | .rsq, .inf neg => if neg then fp32.nan else zeroF fp32 false
  | .rsq, .fin neg m e =>
    if m = 0 then infF fp32 neg
    else if neg then fp32.nan
    else if m * 2 ^ (e + 256).toNat = 2 ^ 256 then oneF false
    else pickValue (Config.rsqValue bits ftz) ftz 1 (rsqrtEncl m e)
  | .exp2, .inf neg => if neg then zeroF fp32 false else infF fp32 false
  | .exp2, .fin neg m e =>
    if m = 0 then oneF false
    else if flog2 m e ≥ 12 then (if neg then zeroF fp32 false else infF fp32 false)
    else
      let y := exp2Encl neg m e
      if y.lo = y.hi then nearestEncl ftz y else pickValue (Config.exp2Value bits ftz) ftz 2 y
  | .log2, .inf neg => if neg then fp32.nan else infF fp32 false
  | .log2, .fin neg m e =>
    if m = 0 then infF fp32 true
    else if neg then fp32.nan
    else
      let y := log2Encl m e
      if y.lo = y.hi then nearestEncl ftz y else pickValue (Config.log2Value bits ftz) ftz 2 y
  | .sin, .inf _ => fp32.nan
  | .sin, .fin neg m e => trigF Config.sinValue false ftz neg m e
  | .cos, .inf _ => fp32.nan
  | .cos, .fin neg m e => trigF Config.cosValue true ftz neg m e

end Sys2Proof.Machine
end

