-- ==== Sys2Proof/Machine/Flags.lean ====
section
/-! DEFINITION. Every computation of a flag, a condition or a predicate bit: the comparisons of R259, the carry of R318, the
sticky bits of STATUS (R41). -/

namespace Sys2Proof.Machine

/-- R259: an integer comparison of w-bit patterns under codes 0 to 9. -/
def condHolds (w : Nat) (code : Nat) (a b : Nat) : Bool :=
  if code = 0 then decide (a % 2 ^ w = b % 2 ^ w)
  else if code = 1 then decide (a % 2 ^ w ≠ b % 2 ^ w)
  else if code = 2 then decide (sextN w a < sextN w b)
  else if code = 3 then decide (sextN w a ≤ sextN w b)
  else if code = 4 then decide (sextN w a > sextN w b)
  else if code = 5 then decide (sextN w a ≥ sextN w b)
  else if code = 6 then decide (a % 2 ^ w < b % 2 ^ w)
  else if code = 7 then decide (a % 2 ^ w ≤ b % 2 ^ w)
  else if code = 8 then decide (a % 2 ^ w > b % 2 ^ w)
  else decide (a % 2 ^ w ≥ b % 2 ^ w)

/-- R259, R329: a floating-point comparison under codes 0 to 7. -/
def fcondHolds (code : Nat) (x y : FVal) : Bool :=
  let un := x.isNan || y.isNan
  if code = 0 then !un && cmpF x y == .eq
  else if code = 1 then un || cmpF x y != .eq
  else if code = 2 then !un && cmpF x y == .lt
  else if code = 3 then !un && cmpF x y != .gt
  else if code = 4 then !un && cmpF x y == .gt
  else if code = 5 then !un && cmpF x y != .lt
  else if code = 6 then un
  else !un

/-- R318: the carry out of a 32-bit sum. -/
def carryOut (a b : Lane) (cin : Bool) : Bool := decide (a.toNat + b.toNat + cin.toNat ≥ 2 ^ 32)

/-- R186: whether the bit of a state is set in a TESTH mask. -/
def maskBit (mask : BitVec 6) (k : Nat) : Bool := mask.getLsbD k

/-- The fields of STATUS (R41). -/
def statusFck (st : BitVec 64) : Bool := st.getLsbD 0

/-- STATUS.CHK (R41). -/
def statusChk (st : BitVec 64) : Bool := st.getLsbD 1

/-- STATUS.SATF (R41). -/
def statusSatf (st : BitVec 64) : Bool := st.getLsbD 8

/-- STATUS.ERRF (R41). -/
def statusErrf (st : BitVec 64) : Bool := st.getLsbD 9

/-- STATUS with SATF set where `on` (R41: sticky). -/
def setSatf (st : BitVec 64) (on : Bool) : BitVec 64 := if on then st ||| 0x100 else st

/-- STATUS with ERRF set where `on` (R41: sticky). -/
def setErrf (st : BitVec 64) (on : Bool) : BitVec 64 := if on then st ||| 0x200 else st

/-- The fields of FMT (R98): rounding mode. -/
def fmtRm (fmt : BitVec 32) : RMode := RMode.ofCode (fmt.toNat % 4)

/-- FMT.FTZ (R98). -/
def fmtFtz (fmt : BitVec 32) : Bool := fmt.getLsbD 2

/-- FMT.SAT (R98). -/
def fmtSat (fmt : BitVec 32) : Bool := fmt.getLsbD 9

/-- The half format of FMT.HF (R98). -/
def fmtHalf (fmt : BitVec 32) : FFmt := if fmt.toNat / 8 % 8 = 0 then fp16 else bf16

/-- The narrow format of FMT.NF (R98). -/
def fmtNarrow (fmt : BitVec 32) : FFmt := if fmt.toNat / 64 % 8 = 0 then f8a else f8b

/-- R98, R40: whether a value may be written to FMT. -/
def fmtLegal (x : BitVec 64) : Bool :=
  decide (x.toNat < 2 ^ 10) && decide (x.toNat / 8 % 8 < 2) && decide (x.toNat / 64 % 8 < 2)

/-- R41, R40: whether a value may be written to STATUS. -/
def statusLegal (x : BitVec 64) : Bool := x &&& 0x303 == x

/-- R116: one entry of GANG. -/
structure GangEntry where
  valid : Bool
  half : Bool
  plane : Nat
  slot : Nat
  deriving DecidableEq, Repr

/-- R116: the six entries of GANG. -/
def gangEntries (x : BitVec 64) : List GangEntry :=
  (List.range 6).map fun i =>
    let e := x.toNat / 2 ^ (10 * i) % 2 ^ 10
    ⟨decide (e / 256 % 2 = 1), decide (e / 128 % 2 = 1), e / 32 % 4, e % 32⟩

/-- R116: the gang id. -/
def gangId (x : BitVec 64) : Nat := x.toNat / 2 ^ 60 % 4

/-- R116: whether a value may be written to GANG: reserved bits zero, no plane 3. -/
def gangLegal (x : BitVec 64) : Bool :=
  decide (x.toNat < 2 ^ 62) && (List.range 6).all fun i =>
    decide (x.toNat / 2 ^ (10 * i + 9) % 2 = 0) && decide (x.toNat / 2 ^ (10 * i + 5) % 4 ≠ 3)

/-- R45: whether a value may be written to PMCSEL: reserved bits zero, a listed event. -/
def pmcselLegal (x : BitVec 64) : Bool := decide (x.toNat < 2 ^ 13) && decide (x.toNat / 16 % 256 ≤ 0x0D)

/-- R44: whether a value may be written to LSMODE of a block with n owned banks. -/
def lsmodeLegal (n : Nat) (x : BitVec 64) : Bool :=
  decide (x.toNat < 2 ^ 32) && (List.range 16).all fun i =>
    decide (x.toNat / 4 ^ i % 4 ≠ 3) && (decide (i < n) || decide (x.toNat / 4 ^ i % 4 = 0))

end Sys2Proof.Machine
end

