-- ==== Sys2Proof/Machine/SMap.lean ====
section
/-! DEFINITION. Sparse data by key: a list of (key, value) pairs in one canonical form, keys strictly rising and no entry
equal to what an unlisted key reads as. Memory, scratch, accumulators and register files are held so. -/

namespace Sys2Proof.Machine

/-- The value at key k; `d` is what an unlisted key reads as. -/
def mget {β : Type} (d : β) : List (Nat × β) → Nat → β
  | [], _ => d
  | (k', v) :: t, k => if k' = k then v else mget d t k

/-- Whether key k is listed. -/
def mhas {β : Type} : List (Nat × β) → Nat → Bool
  | [], _ => false
  | (k', _) :: t, k => if k' = k then true else mhas t k

/-- Sorted insertion of an entry, in place of one with the same key. -/
def mput {β : Type} : List (Nat × β) → Nat → β → List (Nat × β)
  | [], k, v => [(k, v)]
  | (k', v') :: t, k, v =>
    if k < k' then (k, v) :: (k', v') :: t
    else if k = k' then (k, v) :: t
    else (k', v') :: mput t k v

/-- Removal of every entry with key k. -/
def mdel {β : Type} : List (Nat × β) → Nat → List (Nat × β)
  | [], _ => []
  | (k', v) :: t, k => if k' = k then mdel t k else (k', v) :: mdel t k

/-- Write of v at k in canonical form: writing the value an unlisted key reads as removes the entry. -/
def mset {β : Type} [DecidableEq β] (d : β) (m : List (Nat × β)) (k : Nat) (v : β) : List (Nat × β) :=
  if v = d then mdel m k else mput m k v

/-- Removal of every entry whose key p holds of. -/
def mdrop {β : Type} (p : Nat → Bool) (m : List (Nat × β)) : List (Nat × β) := m.filter fun e => !p e.1

/-- The canonical form: strictly rising keys, no default entries. -/
def mwf {β : Type} [DecidableEq β] (d : β) : List (Nat × β) → Bool
  | [] => true
  | (k, v) :: t => decide (v ≠ d) && t.all (fun e => decide (k < e.1)) && mwf d t

/-- The numbers from 0 to n - 1. -/
def upTo (n : Nat) : List Nat := List.range n

/-- Write of the values of a list at k, k + 1 and on. -/
def msetAll {β : Type} [DecidableEq β] (d : β) : List (Nat × β) → Nat → List β → List (Nat × β)
  | m, _, [] => m
  | m, k, v :: t => msetAll d (mset d m k v) (k + 1) t

end Sys2Proof.Machine
end

