-- ==== Sys2Proof/Machine/State.lean ====
section
/-! DEFINITION. The state of the device, plain data, and the state after device reset. Each field names the rule of spec/
that gives it; INVENTORY.md lists them with their reset values. -/

namespace Sys2Proof.Machine

/-- Register classes of R213. -/
inductive RegClass where
  | vector | scalar | address | predicate | condition
  deriving DecidableEq, Repr

/-- A reconvergence-stack entry (R54, R58). `tag` is 0 while the entry is held in hardware; of one that lives in the group's
context area it says under which key it was written there (R54, R249). -/
structure StackEntry where
  rejoin : Addr
  taken : Addr
  pending : Mask
  exec : Mask
  fmt : BitVec 32
  tag : Nat
  deriving DecidableEq, Repr

/-- A fixed-latency result that the stall counts do not cover yet (R48, R49): the register, the cycles missing, the value
before its producer, whether the result has landed for certain, and whether something has lengthened the gap beyond the one
that the counts promise (R48). -/
structure Pend where
  cls : RegClass
  num : Nat
  need : Nat
  oldV : List (Nat × Lane)
  oldS : SWord
  landed : Bool
  loose : Bool
  deriving DecidableEq, Repr

/-- The context of a group (R54) with what one core keeps beside it for its next instruction. -/
structure Ctx where
  pc : Addr
  exec : Mask
  fmt : BitVec 32
  status : BitVec 64
  gang : BitVec 64
  v : List (Nat × Lane)
  s : List (Nat × SWord)
  a : List (Nat × Addr)
  p : List (Nat × Mask)
  c : List (Nat × Bool)
  released : List (Nat × Bool)
  fillPend : List (Nat × Bool)
  trapInfo : BitVec 64
  trapPc : BitVec 64
  trapVa : BitVec 64
  trapVah : BitVec 64
  handler : Bool
  stack : List StackEntry
  pend : List Pend
  prefixes : List (BitVec 24)
  fstat : BitVec 64
  deriving DecidableEq, Repr

/-- The context a group starts with, apart from PC, a0, a1 and a15 (R21). -/
def Ctx.start : Ctx where
  pc := 0
  exec := 0xFFFFFFFF
  fmt := 0
  status := 0
  gang := 0
  v := []
  s := []
  a := []
  p := []
  c := []
  released := []
  fillPend := []
  trapInfo := 0
  trapPc := 0
  trapVa := 0
  trapVah := 0
  handler := false
  stack := []
  pend := []
  prefixes := []
  fstat := 0

/-- A vector instruction issued in a speculation window (R68): its address, the instruction, the scalar and address operands
and the FMT of its first issue, its prefixes, the uncovered results whose registers it read at their old values (R49) and, for a
load, the register words it wrote. -/
structure WinRec where
  pc : Addr
  instr : Instr
  prefixes : List (BitVec 24)
  base : Addr
  scalar : SWord
  fmt : BitVec 32
  olds : List Pend
  got : List (Nat × Lane)
  deriving DecidableEq, Repr

/-- An open speculation window (R67): the BRV, the context before it and its poison (R223), the masks, the instructions issued,
the cycles until the stall counts have the predicate landed (R48, R65), the log and what is deferred: exceptions of loads (R70),
and fallow mismatches by address and lane (R73), the lane with 32 times the number of earlier passes of the window over that
address. -/
structure Window where
  brv : Addr
  taken : Addr
  rejoin : Addr
  snap : Ctx
  mask : Mask
  pred : Nat
  truth : Mask
  guess : Mask
  count : Nat
  left : Nat
  log : List WinRec
  deferred : Mask
  deferredS : Bool
  fallow : List (Addr × Nat)
  poisonV : List (Nat × Bool)
  poisonS : List (Nat × Bool)
  deriving DecidableEq, Repr

/-- A trap to be taken (R210, R213): class, detail, ARG, TRAPVA, the lane where one is valid. -/
structure TrapReq where
  cls : BitVec 8
  detail : BitVec 8
  arg : BitVec 9
  va : Addr
  lane : Option (BitVec 5)
  deriving DecidableEq, Repr

/-- What an instruction that has issued and does not retire waits for (R134, R135, R186, R198, R113, R182, R191, R88). -/
inductive WaitOn where
  | nothing
  /-- the switch of a bank of the block or of its span (R135) -/
  | bank
  /-- room in a FIFO bank (R134) -/
  | room (bank : Nat)
  /-- an entry in a FIFO bank (R134) -/
  | entry (bank : Nat)
  /-- the end of a command of a block (R186) -/
  | handle (uid num : Nat) (gen : BitVec 16)
  /-- room in the queue of a port (R198) -/
  | port (port : Nat)
  /-- room in the cube queue of a core (R113) -/
  | cube (core : Nat)
  /-- a handle number (R182) -/
  | handles
  /-- registers that an engine is to fill (R191), or of which it is to read those that the instruction writes -/
  | operand (named written : List Nat)
  /-- the furrow that holds the partition, or its re-entry (R88, R91) -/
  | furrow
  deriving DecidableEq, Repr

/-- What a group is doing (R28, R30, R120, R91, R154). -/
inductive Run where
  /-- no group stands here -/
  | absent
  | ready
  /-- arrived at block barrier n (R28) -/
  | atBar (n : Nat)
  /-- arrived at span barrier n (R28) -/
  | atSpanBar (n : Nat)
  /-- arrived at the latch of a gang id, of the block or of the span, with its own MCUBE (R120) -/
  | atLatch (gid : Nat) (span : Bool) (f : LcF)
  /-- waiting at FRWOFF (R91) for sD -/
  | atFrwoff (sd : Nat)
  /-- parked on the MEMF with this sequence number (R154) -/
  | faulted (seq : Nat)
  /-- ended (R30) -/
  | exited
  deriving DecidableEq, Repr

/-- A resident or saved group. `undo` is the window whose replays run and `replayOld` what the registers held before the last of
them that wrote them: word L of vector register r at 32 r + L, predicate p at 8,192 + p (R68). `suspects` are the held fallow
mismatches whose instructions are to be checked again, as a window holds them (R73), `upset` the lanes whose next checked
operation mismatches, `waitOn` what its instruction waits for, `swapDue` that it is to be swapped out (R205), `arriving` the
registers whose scoreboarded result may be on its way still (R47). -/
structure Group where
  uid : Nat
  slot : Nat
  part : Nat
  fown : Bool
  run : Run
  parked : Bool
  ctx : Ctx
  window : Option Window
  replay : List WinRec
  replayMask : Mask
  replayNew : Mask
  undo : Option Window
  replayOld : List (Nat × Lane)
  suspects : List (Addr × Nat)
  noPredict : Bool
  ibuf : List (Nat × Byte)
  trapReq : Option TrapReq
  pmc : List (Nat × BitVec 64)
  pmcProg : List (Nat × BitVec 9)
  pmcSel : BitVec 4
  poisonV : List (Nat × Bool)
  poisonS : List (Nat × Bool)
  upset : Mask
  waitOn : WaitOn
  swapDue : Bool
  arriving : List (RegClass × Nat)
  waited : Nat
  since : Nat
  lastClock : Nat
  deriving DecidableEq, Repr

/-- No group. -/
def Group.none : Group where
  uid := 0
  slot := 0
  part := 0
  fown := false
  run := .absent
  parked := false
  ctx := Ctx.start
  window := .none
  replay := []
  replayMask := 0
  replayNew := 0
  undo := .none
  replayOld := []
  suspects := []
  noPredict := false
  ibuf := []
  trapReq := .none
  pmc := []
  pmcProg := []
  pmcSel := 0
  poisonV := []
  poisonS := []
  upset := 0
  waitOn := .nothing
  swapDue := false
  arriving := []
  waited := 0
  since := 0
  lastClock := 0

/-- A latch entry (R120): arrived slots, sequence, the first arrival's GANG and MCUBE fields. -/
structure Latch where
  arrived : Mask
  seq : BitVec 16
  first : Option (BitVec 64 × LcF)
  deriving DecidableEq, Repr

/-- An empty latch entry. -/
def Latch.empty : Latch := ⟨0, 0, none⟩

/-- A rendezvous that has completed and waits for room in the cube queue (R113, R119): its gang id, whether it is a span's,
the members of this block and the record. -/
structure Join where
  gid : Nat
  span : Bool
  members : Mask
  gang : BitVec 64
  f : LcF
  deriving DecidableEq, Repr

/-- The states of a live command (R184). -/
inductive CmdState where
  | pending | faultedRetry | done | cancelled | rejected
  deriving DecidableEq, Repr

/-- An engine command (R181, R184, R190, R220). `bytes` holds the command block read at issue, or for FILL and SPILL nothing but
what SPILL reads; `insn` is the encoding of SPILL, FILL and XPFD; `ack` says that an element awaits its peer's acknowledgement
(R354), `issued` orders the commands of a core. -/
structure Cmd where
  num : Nat
  gen : BitVec 16
  kind : BitVec 3
  state : CmdState
  started : Bool
  bytes : List Byte
  stop : Nat
  slot : Nat
  acq : Bool
  rel : Bool
  scope : BitVec 3
  addr : Addr
  first : Nat
  count : Nat
  cancelReq : Bool
  ack : Bool
  protVa : Option Addr
  poisonVa : Option Addr
  fault : Option Nat
  issued : Nat
  insn : BitVec 64
  deriving DecidableEq, Repr

/-- Residency of a block (R21, R23, R25, R31, R218). -/
inductive Phase where
  | none
  /-- resources reserved for a member of a span that has not been latched yet (R23) -/
  | reserved
  | latched
  /-- admitted, while another member of its span is not (R21, R23) -/
  | admitted
  | resident
  /-- being pre-empted (R218) -/
  | stopping
  /-- complete and being pre-empted with its span: only its banks are held still (R24, R218) -/
  | leaving
  | saved
  /-- complete, its banks held for its span (R24) -/
  | complete
  deriving DecidableEq, Repr

/-- A bound emulation entry (R234): feature bit, routine address, match and mask. -/
structure EmuEntry where
  feat : BitVec 9
  routine : Addr
  mtch : BitVec 64
  mask : BitVec 64
  deriving DecidableEq, Repr

/-- A furrow token: value, error tag, drain tag (R80), and the stages that have consumed it or are not to receive it (R78). -/
structure Token where
  val : Lane
  err : Bool
  drain : Bool
  seen : Mask
  deriving DecidableEq, Repr

/-- A stage entry (R75). -/
structure Stage where
  insn : BitVec 64
  kind : BitVec 8
  gate : BitVec 8
  sflags : BitVec 8
  wstr : BitVec 8
  tail : BitVec 32
  deriving DecidableEq, Repr

/-- A queue entry (R78). -/
structure QueueEntry where
  prod : BitVec 8
  cons : BitVec 24
  dk : BitVec 8
  qf : BitVec 8
  init : BitVec 8
  ireg : BitVec 8
  deriving DecidableEq, Repr

/-- A stream entry (R79). -/
structure StreamEntry where
  base : BitVec 8
  oreg : BitVec 8
  es : BitVec 8
  nd : BitVec 8
  cnt : BitVec 32
  x : List (BitVec 16)
  zero : BitVec 16
  st : List (BitVec 32)
  wlim : BitVec 32
  deriving DecidableEq, Repr

/-- A furrow plan (R74). -/
structure Plan where
  tag : BitVec 32
  ver : BitVec 16
  flags : BitVec 16
  size : BitVec 32
  ns : Nat
  repl : Nat
  nq : Nat
  nt : Nat
  zero : Bool
  stages : List Stage
  queues : List QueueEntry
  streams : List StreamEntry
  deriving DecidableEq, Repr

/-- A furrow of a partition (R74 to R94): its owner, its plan, what phase 3 captured, its queue copies, depths and recorded
depths at key 32 q + r, the sink cursors at key 32 t + r, the source step, and at key 32 s + r the drained stages, sources
among them, and the stages stalled on a fault (2 more than its sequence number; 1 once it is denied). `susp` is
SUSP of R83, `suspended` says that the context stands stored (R94), `idle` the cycles since the last activity (R93). -/
structure Furrow where
  uid : Nat
  slot : Nat
  planAddr : Addr
  plan : Plan
  fmt : BitVec 32
  capV : List (Nat × Lane)
  capA : List (Nat × Addr)
  queues : List (Nat × List Token)
  depth : List (Nat × Nat)
  recorded : List (Nat × Nat)
  cursors : List (Nat × Nat)
  step : Nat
  drained : List (Nat × Bool)
  stalled : List (Nat × Nat)
  susp : Bool
  suspended : Bool
  idle : Nat
  deriving DecidableEq, Repr

/-- A block (R12, R17, R220). `banks` are its owned banks, ascending (R17, R44). -/
structure Block where
  uid : Nat
  port : Nat
  launch : Nat
  lid : BitVec 32
  vf : Nat
  core : Nat
  idx : BitVec 32 × BitVec 32 × BitVec 32
  grid : Nat × Nat × Nat
  groups : Nat
  regs : Nat
  lstore : Nat
  accrows : Nat
  fpool : Nat
  spanCode : BitVec 2
  spanPos : BitVec 2
  span : Nat
  pstart : Nat
  cls : BitVec 2
  energy : BitVec 3
  entry : Addr
  trapEntry : Option Addr
  arg : Addr
  stack : Nat
  phase : Phase
  bar : List (Nat × Mask)
  sbar : List (Nat × Mask)
  latch : List (Nat × Latch)
  slatch : List (Nat × Latch)
  lsmode : List (Nat × BitVec 2)
  switches : List (Nat × BitVec 2)
  scratch : List (Nat × Byte)
  scratchPoison : List (Nat × Bool)
  fifo : List (Nat × List (List Lane))
  acc : List (Nat × Lane)
  accPoison : List (Nat × Bool)
  gens : List (Nat × BitVec 16)
  cmds : List Cmd
  joined : List Join
  furrows : List (Nat × Furrow)
  frame : Option Nat
  recAddr : Addr
  admitted : Nat
  saveNo : Nat
  banks : List Nat
  deriving DecidableEq, Repr

/-- No block. -/
def Block.none : Block where
  uid := 0
  port := 0
  launch := 0
  lid := 0
  vf := 0
  core := 0
  idx := (0, 0, 0)
  grid := (1, 1, 1)
  groups := 0
  regs := 0
  lstore := 0
  accrows := 0
  fpool := 0
  spanCode := 0
  spanPos := 0
  span := 0
  pstart := 0
  cls := 0
  energy := 0
  entry := 0
  trapEntry := .none
  arg := 0
  stack := 0
  phase := .none
  bar := []
  sbar := []
  latch := []
  slatch := []
  lsmode := []
  switches := []
  scratch := []
  scratchPoison := []
  fifo := []
  acc := []
  accPoison := []
  gens := []
  cmds := []
  joined := []
  furrows := []
  frame := .none
  recAddr := 0
  admitted := 0
  saveNo := 0
  banks := []

/-- A coulter entry (R64). -/
structure CoulterEntry where
  m : Mask
  c : BitVec 2
  vf : BitVec 6
  deriving DecidableEq, Repr

/-- A partition of a core: coulter table, active and pending set (R205), the groups that stand aside (R359), results on their
way (R306, R331), the furrow, and the group that issued last. -/
structure Part where
  coulter : List (Nat × CoulterEntry)
  active : List (Nat × Nat)
  pending : List (Nat × Nat)
  yielded : List (Nat × Nat × Nat)
  divQueue : List (Nat × Nat × Nat)
  sfQueue : List (Nat × Nat × Nat)
  furrow : Option Furrow
  last : Option (Nat × Nat)
  deriving DecidableEq, Repr

/-- A partition at device reset (R64). -/
def Part.reset : Part := ⟨[], [], [], [], [], [], none, none⟩

/-- What a queued cube operation does (R113): a pass with its captured planes, or another matrix operation. -/
inductive CubeOp where
  | pass (f : LcF) (a b c : List (Nat × Lane))
  | zero (f : LzF)
  | write (f : LzF) (words : List (Nat × Lane))
  | scale (f : LzF) (scales : List (Nat × Lane))
  deriving DecidableEq, Repr

/-- An accepted operation (R113): the block whose tile it writes, the operation, and the members whose SATF a clamp
sets (R126). -/
structure CubeJob where
  uid : Nat
  op : CubeOp
  members : List (Nat × Nat)
  deriving DecidableEq, Repr

/-- A cached translation (R152): address space, first byte, size, leaf entry. -/
structure TlbEntry where
  asid : Nat
  base : Nat
  size : Nat
  leaf : BitVec 64
  deriving DecidableEq, Repr

/-- A sector of an L1 (R137, R170): its sector number in PA and at its home, the bank that is its way, the time of its fill, its
bytes, and the tag (`State.memKey`) under which they came from memory (R249, R250). -/
structure L1Sec where
  pa : Nat
  sector : Nat
  way : Nat
  age : Nat
  bytes : List Byte
  tag : Nat
  deriving DecidableEq, Repr

/-- A request for a sector that waits for a miss slot or register (R147): whether its die's L2 misses the sector too, its
requesters, the time of issue of the instruction of the first, whether it takes a slot of its core, as a load does, and the leaf
of its page. -/
structure MissReq where
  sector : Nat
  deep : Bool
  owners : List Nat
  since : Nat
  slot : Bool
  leaf : Nat
  deriving DecidableEq, Repr

/-- A core (R34): the cube queue, L1 in order of fill, L1I in order of use, the L1 TLB, the sectors that hold a miss
slot, each with its requester, and those that await one (R146, R147). -/
structure Core where
  cubeQ : List CubeJob
  l1 : List L1Sec
  l1i : List (Nat × List Byte)
  tlb : List TlbEntry
  missSlots : List (Nat × Nat)
  missQ : List MissReq
  deriving DecidableEq, Repr

/-- A core at device reset. -/
def Core.reset : Core := ⟨[], [], [], [], [], []⟩

/-- Sector states of R172. -/
inductive SecState where
  | I | S | E | O | M
  deriving DecidableEq, Repr

/-- A snoop-filter entry (R172): line address, mask of remote dies, per sector the state and its owner, and whether it is being
evicted (R177). -/
structure DirLine where
  line : Nat
  mask : BitVec 4
  st : List (SecState × Nat)
  evict : Bool
  deriving DecidableEq, Repr

/-- A sector that a die's L2 or its writeback buffers hold (R138, R172, R175): its number at its home, its number in PA, its
state, and the tag (`State.memKey`) under which it came from memory (R249, R250). -/
structure L2Sec where
  sector : Nat
  pa : Nat
  st : SecState
  tag : Nat
  deriving DecidableEq, Repr

/-- A walk in progress or waiting for a walker (R152): address space, the page VA[71:16], the cores that have joined it. -/
structure Walk where
  asid : Nat
  page : Nat
  cores : List Nat
  deriving DecidableEq, Repr

/-- A machine-check log entry (R225). -/
structure McEntry where
  seq : Nat
  src : BitVec 16
  kind : BitVec 8
  flags : BitVec 8
  addr : Addr
  synd : BitVec 64
  clock : Nat
  ce : BitVec 32
  ue : BitVec 32
  vf : Nat
  core : Nat
  part : Nat
  slot : Nat
  deriving DecidableEq, Repr

/-- States of the power governor (R208). -/
inductive GovState where
  | normal | tight | throttle | clockdown
  deriving DecidableEq, Repr

/-- What stands at the front of a port's queue: nothing that can be placed, a member of a span whose resources are reserved, a
saved span, or the next undispatched span of a launch. -/
inductive Front where
  | idle
  | latch (uid : Nat)
  | restore (uids : List Nat)
  | fresh (key : Nat)
  deriving DecidableEq, Repr

/-- A reservation (R207): the front of a port that holds it, with its class and figure in quarter watts. -/
structure Resv where
  port : Nat
  front : Front
  cls : BitVec 2
  quarter : Nat
  deriving DecidableEq, Repr

/-- A die: L2 TLB, walk cache, the walks in age order, of which the first 64 have a walker (R152), L2 sectors in order of use,
writeback buffers, snoop filter in order of use, miss registers as line and sector mask, L3I,
machine-check log, power. `newBud` and `newBase` wait for the next governor sample (R254); `phase` is what the
counts of the time base leave over of a cycle of the die's clock, in 1,500ths (R42, R208). -/
structure Die where
  tlb : List TlbEntry
  walks : List TlbEntry
  walking : List Walk
  l2 : List L2Sec
  wb : List L2Sec
  dir : List DirLine
  missRegs : List (Nat × Nat)
  l3i : List (Nat × List Byte)
  l3iWays : Nat
  mclog : List McEntry
  mchead : Nat
  mclost : Nat
  mcovf : Bool
  gov : GovState
  govOver : Nat
  govUnder : Nat
  mhz : Nat
  phase : Nat
  bud : Nat
  base : Nat
  newBud : Nat
  newBase : Nat
  power : Nat
  resv : Option Resv
  deriving DecidableEq, Repr

/-- A die at device reset: empty caches and log, clock at 1.5 GHz (R2). BUD and BASE are log entry 2. -/
def Die.reset : Die where
  tlb := []
  walks := []
  walking := []
  l2 := []
  wb := []
  dir := []
  missRegs := []
  l3i := []
  l3iWays := 0
  mclog := []
  mchead := 0
  mclost := 0
  mcovf := false
  gov := .normal
  govOver := 0
  govUnder := 0
  mhz := 1500
  phase := 0
  bud := 712
  base := 0
  newBud := 712
  newBase := 0
  power := 0
  resv := none

/-- A function-table entry (R247). -/
structure Func where
  en : Bool
  asid : BitVec 16
  key : BitVec 8
  root : BitVec 52
  ecbase : Addr
  fbbase : Addr
  apbase : Addr
  grant : BitVec 256
  stkbase : Addr
  stkstride : BitVec 32
  stkcount : BitVec 32
  reccount : BitVec 32
  recbase : Addr
  deriving DecidableEq, Repr

/-- An entry not set (log entry 2). -/
def Func.reset : Func := ⟨false, 0, 0, 0, 0, 0, 0, 0, 0, 0, 0, 0, 0⟩

/-- A virtual function's BAR0 (R248), the records that wait for room in its fault buffer, and the unloads requested: registry
index and the number of the next record at the request (R237). -/
structure Tenant where
  fbhead : BitVec 64
  fbtail : BitVec 64
  fanseq : BitVec 64
  wflt : Bool
  fbovf : Bool
  registry : List (Nat × Byte)
  waiting : List (List Byte)
  unload : List (Nat × Nat)
  deriving DecidableEq, Repr

/-- A virtual function's BAR0 at reset. -/
def Tenant.reset : Tenant := ⟨0, 0, 0, false, false, [], [], []⟩

/-- A kernel-table entry (R231). -/
structure Kernel where
  entry : BitVec 32
  trape : BitVec 32
  stack : BitVec 32
  deriving DecidableEq, Repr

/-- A resident code object (R236): function, registry index, base and size of .text, the translations of its mapped sections, its
kernel table, bound emulation entries. -/
structure Module where
  vf : Nat
  index : Nat
  text : Addr
  size : Nat
  maps : List TlbEntry
  kernels : List Kernel
  emu : List EmuEntry
  deriving DecidableEq, Repr

/-- A queued launch record (R193): its number in order of arrival, whether LAUNCH enqueued it (R198), its 64 bytes. -/
structure QRec where
  num : Nat
  dev : Bool
  bits : BitVec 512
  deriving DecidableEq, Repr

/-- A block deferred for power (R207): the front of a port that it is or was, when it was first deferred, whether it is eligible
for a reservation. -/
structure Deferral where
  port : Nat
  front : Front
  since : Nat
  eligible : Bool
  deriving DecidableEq, Repr

/-- An ingress port (R192, R195): the function that it is assigned to, bits [5:0] of its assignment (R246), staged record bytes,
queued records, the launch made of the head record once that has passed its checks, the record slot that the head record holds
while its copy waits on a MEMF (R193), status bits, completion ring. -/
structure Port where
  owner : Option Nat
  fn : BitVec 6
  staged : List (Nat × Byte)
  queue : List QRec
  checked : Option Nat
  copySlot : Option Nat
  ovf : Bool
  crovf : Bool
  loadw : Bool
  waitw : Bool
  pwrw : Bool
  crbase : Addr
  crhead : BitVec 32
  crtail : BitVec 32
  deriving DecidableEq, Repr

/-- A port at reset: empty, FREE 256 (R192). -/
def Port.reset : Port := ⟨none, 0, [], [], none, none, false, false, false, false, false, 0, 0, 0⟩

/-- How a launch stands (R201, R216). -/
inductive LaunchState where
  | active | cancelled | killed | aborted
  deriving DecidableEq, Repr

/-- A launch whose record has passed its checks (R193, R199, R200). -/
structure Launch where
  key : Nat
  port : Nat
  vf : Nat
  record : BitVec 512
  text : Addr
  kernel : Kernel
  next : Nat
  dispatched : Nat
  recSlot : Option Nat
  recAddr : Addr
  state : LaunchState
  deriving DecidableEq, Repr

/-- Who stands on a fault (R154). -/
inductive FaultOwner where
  | group (uid slot : Nat)
  | engine (uid num : Nat)
  | stage (core part st rep : Nat)
  | stream (core part uid slot : Nat)
  /-- the zeroing of a group's stack (R22) -/
  | stack (uid slot : Nat)
  /-- the copy of the head record of a port (R193) -/
  | copy (port : Nat)
  deriving DecidableEq, Repr

/-- A fault record not yet answered, with its access kind (R154, R217). -/
structure PendingFault where
  seq : Nat
  vf : Nat
  owner : FaultOwner
  va : Addr
  lane : Option (BitVec 5)
  kind : Nat
  deriving DecidableEq, Repr

/-- Kinds of coherence messages (R173). -/
inductive MsgKind where
  | rds | rdx | upg | wbk | evc | sfw | sfx | sin | dat | ack | cmp
  deriving DecidableEq, Repr

/-- A coherence message in flight (R173): kind, sector, sending and receiving die, requester, the state granted or held, and the
sector's bytes where it carries them, and the tag (`State.memKey`) under which the requester's page asks for the sector or under
which its data came from memory (R249). A request that its home serves stays here: st is S where the home supplies the data and O
where the owner does. The requester of a snoop for an atomic unit or an eviction is 4 (R176, R177). -/
structure Msg where
  kind : MsgKind
  sector : Nat
  src : Nat
  dst : Nat
  req : Nat
  st : SecState
  data : Option (List Byte)
  tag : Nat
  deriving DecidableEq, Repr

/-- A request for a sector at the pseudo-channel of its home (R145): the die that asks, and how many younger requests have
passed it. -/
structure ChanReq where
  die : Nat
  sector : Nat
  passed : Nat
  deriving DecidableEq, Repr

/-- An element in a block's scratch that an engine has written and that not every group need see yet (R166, R167): the block and
the offset, the bytes that stood there, whether it was written through the span's scratch (R164), the command that wrote it
(number 256 where that is yet to be issued), the cycles since, the groups that have observed the command, and the offsets that
have been read at their new values. -/
structure Loose where
  uid : Nat
  off : Nat
  old : List Byte
  span : Bool
  cmdUid : Nat
  cmdNum : Nat
  cmdGen : BitVec 16
  cmdKind : BitVec 3
  age : Nat
  seen : List (Nat × Nat)
  known : List Nat
  deriving DecidableEq, Repr

/-- An element in a block's scratch that a command with ACQ clear has written ahead of its issue (R166): the block, the offset,
the bytes, the group that issues the command, how many other commands it issues before, the number and generation of the command
once it has been issued, and whether a byte has been written over since. -/
structure Early where
  uid : Nat
  off : Nat
  bytes : List Byte
  byUid : Nat
  bySlot : Nat
  skip : Nat
  cmd : Option (Nat × BitVec 16)
  past : Bool
  deriving DecidableEq, Repr

/-- A halfword of local memory of which a command has written one byte, with its bytes before (R168). -/
structure Torn where
  half : Nat
  byte : Nat
  uid : Nat
  num : Nat
  old : List Byte
  deriving DecidableEq, Repr

/-- A peer-table entry (R251). -/
structure Peer where
  mask : BitVec 24
  valid : Bool
  limit : BitVec 64
  deriving DecidableEq, Repr

/-- The invalidation command registers (R250). -/
structure Inval where
  addr : BitVec 128
  asid : BitVec 16
  kind : BitVec 8
  key : BitVec 8
  go : Bool
  deriving DecidableEq, Repr

/-- Interrupts raised towards the host (R154, R206, R209, R228). -/
inductive Intr where
  | completion (vf : Nat)
  | fault (vf : Nat)
  | freeze
  | machineCheck
  | fatal
  deriving DecidableEq, Repr

/-- One choice of what comes next: the group to put in focus and the event; no event means that the group issues. -/
structure AgItem where
  focus : Option (Nat × Nat)
  op : Option Instr
  deriving DecidableEq, Repr

/-- Where a soft error strikes (R222). -/
inductive Site where
  /-- a word of the register file: a lane of a vector register -/
  | vreg (uid slot reg lane : Nat)
  /-- a word of slot storage: a register of another class -/
  | slotReg (uid slot : Nat) (cls : RegClass) (num : Nat)
  /-- a special register of a group -/
  | special (uid slot index : Nat)
  /-- the token at a position of copy r of queue q of the furrow of a partition, in the furrow pool -/
  | pool (core part q r pos : Nat)
  /-- a byte of a block's banks in SCRATCH or FIFO mode, by its offset in the window -/
  | scratch (uid off : Nat)
  /-- a sector of an L1, by its number in PA -/
  | way (core pa : Nat)
  /-- an element of a block's accumulator rows -/
  | acc (uid elem : Nat)
  /-- a 32-byte granule of a sector as an L2 holds it -/
  | l2 (die sector granule : Nat)
  /-- the same in HBM4E -/
  | hbm (sector granule : Nat)
  /-- an entry of L2 tags, snoop filter or directory of a slice -/
  | tags (die slice : Nat)
  /-- a line of an instruction cache: L1I, L2I, L3I -/
  | l1i (core sector : Nat)
  | l2i (cluster sector : Nat)
  | l3i (die sector : Nat)
  /-- an entry, by its position, of a core's TLB, of a die's TLB, of a walk cache -/
  | coreTlb (core pos : Nat)
  | dieTlb (die pos : Nat)
  | walkCache (die pos : Nat)
  /-- an entry of the coulter table of a partition -/
  | coulter (core part index : Nat)
  /-- a 32-byte granule of the context area of a group, or with slot 32 of a block -/
  | area (uid slot granule : Nat)
  deriving DecidableEq, Repr

/-- What happens around the device in a cycle, beside its own events (log entry 45). -/
inductive Env where
  /-- a soft error, uncorrectable or not, with its syndrome (R222, R225) -/
  | soft (site : Site) (bad : Bool) (synd : BitVec 64)
  /-- an upset of the datapath in some lanes of a group at its next checked operation (R72, R73) -/
  | upset (uid slot : Nat) (lanes : Mask)
  /-- the flit that was last sent again between two dies arrives (R222) -/
  | flit (die other : Nat)
  /-- a temperature in °C is measured at a stack (R254) -/
  | temp (stack deg : Nat)
  /-- the host's access of this cycle comes through a virtual function, or through the physical one with 64 (R245) -/
  | via (fn : Nat)
  /-- a read by the host of n bytes of BAR2 or BAR0 (R192, R228, R246, R248, R254) -/
  | read (bar2 : Bool) (off n : Nat)
  /-- a write of some bytes of RECORD by the host (R192) -/
  | stage (port off : Nat) (bytes : List Byte)
  /-- a change of the HBM4E repair tables (R252) -/
  | repair (val : Nat)
  /-- a change of the code-object signature key of a function, 0 for none (R230, R252) -/
  | signKey (vf key : Nat)
  /-- the messages that follow belong to another secured session (R252) -/
  | session (n : Nat)
  /-- management reserves one way in each of n L2 slices of a die for L3I (R138) -/
  | codeWays (die n : Nat)
  /-- an element that a command with ACQ clear, to be issued by a group after some other commands, writes to a block's scratch is
  performed ahead of what happens before the issue (R166, log entry 44) -/
  | ahead (uid off : Nat) (bytes : List Byte) (byUid bySlot skip : Nat)
  deriving DecidableEq, Repr

/-- An action that a freeze holds back (R209): the event, the record that an enqueue takes, the function that the access came
through. -/
structure HeldAct where
  op : Instr
  record : BitVec 512
  via : Option Nat
  deriving DecidableEq, Repr

/-- Why a run stops. -/
inductive Fault where
  /-- Raised by `step` alone: a fatal event has stopped issue on every core and only a device reset restarts the device
  (R224). Safe: nothing issues on the part either. -/
  | fatalStop
  /-- Raised by `step` alone: an element that `State.env` had a command write ahead of its issue is not written by it, or the
  command or an access in between rules it out (R161, R166, log entry 44). Safe: the part has no such run. -/
  | promiseBroken
  deriving DecidableEq, Repr

/-- Why an instruction has no meaning. -/
inductive Refusal where
  /-- Raised by `exec` for an instruction not reached yet. Safe. No arm raises it. -/
  | notModelled (mnemonic : String)
  deriving DecidableEq, Repr

/-- The device. `memKey` holds, for a sector of local memory that has been written through a page, 1 + KEY + 256 · (PA[51:7] +
2^45 · the number of keys that the slot had held before), and `keyGen` counts the keys of a slot (R249). `g` is the group in
focus and `blk` its block; `groups` and `blks` hold the others. `nextPort` holds for each priority class the port after the one
served last, `served` and `taken` are the ports and cores that the dispatcher has served in its cycle (R199), `invalRun` and
`invalQ` the invalidation command that runs and those that wait (R250), `session` whether a secured session is in use,
`sessionNo` its number, `sessionRead` what it has read and `sessions` what the others have read (R252), `repair` and `signKeys`
the repair tables and signature keys (R252), `firmware` whether the image in place passes its check and `image` its bytes
(R253), `bar` the bytes of an image that the host has written (R253), `temps` the temperatures of the stacks and `cooled` the
time since which every stack has stood 5 °C below critical (R209, R254), `hot` the stacks in self-refresh, `flits` how often a
flit between two dies has been sent again (R222), `env` what happens around the device in the cycles to come, `via` the function
that the host's access of this cycle comes through, `frozenTime` the time spent frozen, `held` the host's actions that a freeze
holds back (R209), `areas` the context areas of saved groups, blocks and furrows (R54, R92, R220) with the tags under which they
are encrypted, `chan` the requests at the pseudo-channels in order of arrival (R145), `unitOps` the operations that wait for an
atomic unit (R148), `loose` the engine writes that are not ordered before every later read (R167), `early` those performed ahead
of their commands (R166) and `broken` whether one of these has turned out not to be a run of the part, `torn` the halfwords that
an instruction fetch still sees whole (R168), `flushed` the keys flushed since they were installed (R249), `portsDown` the
Strelfel ports that have failed (R251), `hostData` what the last read by the host returned. -/
structure State where
  g : Group
  groups : List Group
  blk : Block
  blks : List Block
  parts : List (Nat × Part)
  cores : List (Nat × Core)
  clusters : List (Nat × List (Nat × List Byte))
  dies : List (Nat × Die)
  mem : List Host.Cell
  memPoison : List (Nat × Bool)
  memKey : List (Nat × Nat)
  hostMem : List Host.Cell
  peerMem : List Host.Cell
  place : List (Nat × BitVec 2)
  funcs : List (Nat × Func)
  tenants : List (Nat × Tenant)
  ports : List (Nat × Port)
  launches : List Launch
  modules : List Module
  nextPort : List (Nat × Nat)
  served : List Nat
  taken : List Nat
  deferred : List Deferral
  msgs : List Msg
  chan : List ChanReq
  unitOps : List AtomReq
  loose : List Loose
  early : List Early
  broken : Bool
  torn : List Torn
  faults : List PendingFault
  faultSeq : Nat
  mcSeq : Nat
  mcCE : List (Nat × BitVec 32)
  mcUE : List (Nat × BitVec 32)
  inval : Inval
  invalRun : Option Inval
  invalQ : List Inval
  keys : List (Nat × Bool)
  keyGen : List (Nat × Nat)
  flushed : List (Nat × Bool)
  session : Bool
  sessionRead : List (Nat × Bool)
  sessionNo : Nat
  sessions : List (Nat × List (Nat × Bool))
  repair : Nat
  signKeys : List (Nat × Nat)
  firmware : Bool
  image : List Host.Cell
  recovery : Bool
  peers : List (Nat × Peer)
  portsDown : BitVec 24
  bar : List Host.Cell
  hot : List (Nat × Bool)
  crit : List (Nat × Nat)
  temps : List (Nat × Nat)
  cooled : Nat
  freezes : Nat
  frozen : Bool
  frozenTime : Nat
  held : List HeldAct
  areas : List (Nat × List (Nat × Byte))
  areaTags : List (Nat × Nat)
  halted : Bool
  link : Option (Nat × Nat)
  flits : List (Nat × Nat)
  env : List (List Env)
  via : Option Nat
  intr : List Intr
  hostData : BitVec 64
  clock : Nat
  uidNext : Nat
  freeCtr : Nat
  agenda : List AgItem
  deriving DecidableEq, Repr

/-- What an unlisted byte of memory reads as (log entry 3). -/
def memDefault : Byte := 0

/-- The device right after reset: no group resident, caches and queues empty, tables clear (R64, R141, R192, R225 to R228;
log entries 1 to 5 for what the spec does not give). -/
def State.reset : State where
  g := Group.none
  groups := []
  blk := Block.none
  blks := []
  parts := []
  cores := []
  clusters := []
  dies := []
  mem := []
  memPoison := []
  memKey := []
  hostMem := []
  peerMem := []
  place := []
  funcs := []
  tenants := []
  ports := []
  launches := []
  modules := []
  nextPort := []
  served := []
  taken := []
  deferred := []
  msgs := []
  chan := []
  unitOps := []
  loose := []
  early := []
  broken := false
  torn := []
  faults := []
  faultSeq := 0
  mcSeq := 0
  mcCE := []
  mcUE := []
  inval := ⟨0, 0, 0, 0, false⟩
  invalRun := none
  invalQ := []
  keys := []
  keyGen := []
  flushed := []
  session := false
  sessionRead := []
  sessionNo := 0
  sessions := []
  repair := 0
  signKeys := []
  firmware := true
  image := []
  recovery := false
  peers := []
  portsDown := 0
  bar := []
  hot := []
  crit := []
  temps := []
  cooled := 0
  freezes := 0
  frozen := false
  frozenTime := 0
  held := []
  areas := []
  areaTags := []
  halted := false
  link := none
  flits := []
  env := []
  via := none
  intr := []
  hostData := 0
  clock := 0
  uidNext := 1
  freeCtr := 0
  agenda := []

end Sys2Proof.Machine
end

