-- ==== Sys2Proof/Machine/Focus.lean ====
section
/-! DEFINITION. Finding and updating the parts of the state: groups, blocks, partitions, cores, dies, functions, ports and
launches, and putting a group in focus. -/

namespace Sys2Proof.Machine

/-- The context of the group in focus. -/
def State.ctx (s : State) : Ctx := s.g.ctx

/-- The state with a context for the group in focus. -/
def State.withCtx (s : State) (c : Ctx) : State := { s with g := { s.g with ctx := c } }

/-- An update of the context in focus. -/
def modCtx (s : State) (f : Ctx → Ctx) : State := s.withCtx (f s.ctx)

/-- An update of the group in focus. -/
def modG (s : State) (f : Group → Group) : State := { s with g := f s.g }

/-- An update of the block in focus. -/
def modBlk (s : State) (f : Block → Block) : State := { s with blk := f s.blk }

/-- Whether a group is the one of a block and slot. -/
def Group.isAt (g : Group) (uid slot : Nat) : Bool := g.uid == uid && g.slot == slot

/-- Every group that stands somewhere. -/
def allGroups (s : State) : List Group := (s.g :: s.groups).filter fun g => g.run != .absent

/-- Every block that stands somewhere. -/
def allBlocks (s : State) : List Block := (s.blk :: s.blks).filter fun b => b.phase != .none

/-- The group of a block and slot, or no group. -/
def findGroup (s : State) (uid slot : Nat) : Group :=
  ((s.g :: s.groups).find? fun g => g.isAt uid slot).getD Group.none

/-- The block of a number, or no block. -/
def findBlk (s : State) (uid : Nat) : Block := ((s.blk :: s.blks).find? fun b => b.uid == uid).getD Block.none

/-- An update of every group. -/
def modGroups (s : State) (f : Group → Group) : State := { s with g := f s.g, groups := s.groups.map f }

/-- An update of every block. -/
def modBlks (s : State) (f : Block → Block) : State := { s with blk := f s.blk, blks := s.blks.map f }

/-- An update of the group of a block and slot. -/
def updGroup (s : State) (uid slot : Nat) (f : Group → Group) : State :=
  modGroups s fun g => if g.isAt uid slot then f g else g

/-- An update of the block of a number. -/
def updBlk (s : State) (uid : Nat) (f : Block → Block) : State := modBlks s fun b => if b.uid == uid then f b else b

/-- The groups of a block. -/
def groupsOf (s : State) (uid : Nat) : List Group := (allGroups s).filter fun g => g.uid == uid

/-- The blocks of a span (R23). -/
def spanBlocks (s : State) (b : Block) : List Block := (allBlocks s).filter fun x => x.span == b.span

/-- The span position's block of the span of a block. -/
def spanMember (s : State) (b : Block) (pos : Nat) : Option Block :=
  (spanBlocks s b).find? fun x => x.spanPos.toNat == pos

/-- The number of blocks of a span (R16 SIZE). -/
def spanSize (b : Block) : Nat := if b.spanCode = 0 then 1 else if b.spanCode = 1 then 2 else 4

/-- The die of a core (R16). -/
def dieOf (core : Nat) : Nat := core / 64 % 4

/-- The cluster of a core, over the device (R16). -/
def clusterOf (core : Nat) : Nat := core / 4

/-- The key of a partition. -/
def partKey (core part : Nat) : Nat := 4 * core + part

/-- A partition. -/
def getPart (s : State) (k : Nat) : Part := mget Part.reset s.parts k

/-- An update of a partition. -/
def modPart (s : State) (k : Nat) (f : Part → Part) : State :=
  { s with parts := mset Part.reset s.parts k (f (getPart s k)) }

/-- The key of the partition of the group in focus. -/
def myPart (s : State) : Nat := partKey s.blk.core s.g.part

/-- A core. -/
def getCore (s : State) (k : Nat) : Core := mget Core.reset s.cores k

/-- An update of a core. -/
def modCore (s : State) (k : Nat) (f : Core → Core) : State :=
  { s with cores := mset Core.reset s.cores k (f (getCore s k)) }

/-- A die. -/
def getDie (s : State) (k : Nat) : Die := mget Die.reset s.dies k

/-- An update of a die. -/
def modDie (s : State) (k : Nat) (f : Die → Die) : State :=
  { s with dies := mset Die.reset s.dies k (f (getDie s k)) }

/-- A function-table entry. -/
def getFunc (s : State) (vf : Nat) : Func := mget Func.reset s.funcs vf

/-- The BAR0 of a virtual function. -/
def getTenant (s : State) (vf : Nat) : Tenant := mget Tenant.reset s.tenants vf

/-- An update of the BAR0 of a virtual function. -/
def modTenant (s : State) (vf : Nat) (f : Tenant → Tenant) : State :=
  { s with tenants := mset Tenant.reset s.tenants vf (f (getTenant s vf)) }

/-- A port. -/
def getPort (s : State) (k : Nat) : Port := mget Port.reset s.ports k

/-- An update of a port. -/
def modPort (s : State) (k : Nat) (f : Port → Port) : State :=
  { s with ports := mset Port.reset s.ports k (f (getPort s k)) }

/-- The launch of a key. -/
def findLaunch (s : State) (key : Nat) : Option Launch := s.launches.find? fun l => l.key == key

/-- An update of the launch of a key. -/
def updLaunch (s : State) (key : Nat) (f : Launch → Launch) : State :=
  { s with launches := s.launches.map fun l => if l.key == key then f l else l }

/-- The groups that stand beside one that leaves the focus. -/
def putBack (g : Group) (l : List Group) : List Group := if g.run = .absent then l else g :: l

/-- The blocks that stand beside one that leaves the focus. -/
def putBackBlk (b : Block) (l : List Block) : List Block := if b.phase = .none then l else b :: l

/-- The state with the group of a block and slot in focus, and its block; unchanged where there is none. -/
def refocus (s : State) (uid slot : Nat) : State :=
  if s.g.isAt uid slot then s
  else match s.groups.find? fun g => g.isAt uid slot with
    | none => s
    | some g =>
      let s1 := { s with g := g, groups := putBack s.g (s.groups.filter fun x => !x.isAt uid slot) }
      if s.blk.uid == uid then s1
      else match s.blks.find? fun b => b.uid == uid with
        | none => s1
        | some b => { s1 with blk := b, blks := putBackBlk s.blk (s.blks.filter fun x => x.uid != uid) }

/-- An interrupt towards the host (R154, R206, R209, R228). -/
def interrupt (s : State) (i : Intr) : State := { s with intr := s.intr ++ [i] }

end Sys2Proof.Machine
end

