-- ==== Sys2Proof/Machine/Directory.lean ====
section
/-! DEFINITION. Home dies (R140 to R142) and the protocol that keeps the L2s coherent (R138, R172 to R177, R365): what each message
does where it arrives, and the transactions that an access of a die needs. The state keeps the contents of a sector once, in
`State.mem`: they are those of its last performed write, wherever the protocol holds them (log entry 28). -/

namespace Sys2Proof.Machine

/-- R141: the home die and the die-local offset of a local PA under a placement, as die · 2^38 + L. -/
def homeAs (placement pa : Nat) : Nat :=
  if placement = 1 then
    Nat.xor (pa / 2 ^ 38 % 4) (pa / 2 ^ 12 % 4) * 2 ^ 38 +
      (pa % 2 ^ 38 / 2 ^ 14 * 2 ^ 14 + pa / 2 ^ 38 % 4 * 2 ^ 12 + pa % 2 ^ 12)
  else pa % 2 ^ 40

/-- R141: the placement of the quad of a PA. -/
def placeOf (place : List (Nat × BitVec 2)) (pa : Nat) : Nat := (mget 0 place (pa / 2 ^ 16 % 2 ^ 22)).toNat

/-- R141: the home die and the die-local offset of a local PA, as the placement table stands. -/
def homeIdx (place : List (Nat × BitVec 2)) (pa : Nat) : Nat := homeAs (placeOf place pa) pa

/-- R141: the PA that a place of local memory has under a placement. -/
def paAs (placement i : Nat) : Nat :=
  let d := i / 2 ^ 38 % 4
  let l := i % 2 ^ 38
  if placement = 1 then
    l / 2 ^ 12 % 4 * 2 ^ 38 + l / 2 ^ 14 * 2 ^ 14 + Nat.xor d (l / 2 ^ 12 % 4) * 2 ^ 12 + l % 2 ^ 12
  else i

/-- R141: the PA of a place of local memory, as the placement table stands. -/
def paOfIdx (place : List (Nat × BitVec 2)) (i : Nat) : Nat := paAs (mget 0 place (i % 2 ^ 38 / 2 ^ 16)).toNat i

/-- Whether a PA lies in local HBM4E (R140). -/
def isLocal (pa : Nat) : Bool := decide (pa < 2 ^ 40)

/-- R138: the L2 slice of a physical address. -/
def l2Slice (pa : Nat) : Nat :=
  Nat.xor (Nat.xor (Nat.xor (Nat.xor (pa / 2 ^ 10 % 64) (pa / 2 ^ 16 % 64)) (pa / 2 ^ 22 % 64)) (pa / 2 ^ 28 % 64))
    (pa / 2 ^ 34 % 64)

/-- The home die of a sector. -/
def homeDie (sector : Nat) : Nat := sector / 2 ^ 31 % 4

/-- R142: the pseudo-channel of a sector, over the device. -/
def pseudoChannel (sector : Nat) : Nat :=
  let l := sector * 128 % 2 ^ 38
  sector / 2 ^ 31 * 256 + Nat.xor (l / 2 ^ 10 % 4) (l / 2 ^ 20 % 4) * 64 + Nat.xor (l / 2 ^ 12 % 64) (l / 2 ^ 22 % 64)

/-- R145: a request about a sector, served at its pseudo-channel, passes those that wait there; one that 32 younger ones have
passed is served before it. -/
def chanPass (l : List ChanReq) (sector : Nat) : List ChanReq :=
  let beside := fun (x : ChanReq) => pseudoChannel x.sector == pseudoChannel sector && x.sector != sector
  (l.filter fun x => !beside x || decide (x.passed < 32)).map fun x => if beside x then { x with passed := x.passed + 1 } else x

/-- R173: the classes of coherence messages. -/
inductive MsgClass where
  | req | snp | rsp
  deriving DecidableEq, Repr

/-- R173: the class of a message. -/
def MsgKind.cls : MsgKind → MsgClass
  | .rds => .req
  | .rdx => .req
  | .upg => .req
  | .wbk => .req
  | .evc => .req
  | .sfw => .snp
  | .sfx => .snp
  | .sin => .snp
  | .dat => .rsp
  | .ack => .rsp
  | .cmp => .rsp

/-- What the protocol works on: the placement table, the contents of the sectors, the messages on their way, the dies, the
requests at the pseudo-channels. -/
structure Coh where
  place : List (Nat × BitVec 2)
  mem : List Host.Cell
  msgs : List Msg
  dies : List (Nat × Die)
  chan : List ChanReq
  deriving DecidableEq, Repr

/-- The protocol's part of a state. -/
def cohOf (s : State) : Coh := ⟨s.place, s.mem, s.msgs, s.dies, s.chan⟩

/-- An action of the protocol on a state: it changes messages, dies and what waits at the pseudo-channels, and nothing else. -/
def onCoh (s : State) (f : Coh → Coh) : State :=
  { s with msgs := (f (cohOf s)).msgs, dies := (f (cohOf s)).dies, chan := (f (cohOf s)).chan }

/-- R173: the bytes of a sector, as a message carries them. -/
def sectorData (m : List Host.Cell) (sector : Nat) : List Byte := (List.range 128).map fun k => mget memDefault m (128 * sector + k)

/-- R145: an access of the home stack about a sector. -/
def Coh.pass (c : Coh) (sector : Nat) : Coh := { c with chan := chanPass c.chan sector }

/-- A die. -/
def Coh.die (c : Coh) (k : Nat) : Die := mget Die.reset c.dies k

/-- An update of a die. -/
def Coh.modDie (c : Coh) (k : Nat) (f : Die → Die) : Coh := { c with dies := mset Die.reset c.dies k (f (c.die k)) }

/-- A message sent. -/
def Coh.send (c : Coh) (m : Msg) : Coh := { c with msgs := c.msgs ++ [m] }

/-- A message taken. -/
def Coh.take (c : Coh) (m : Msg) : Coh := { c with msgs := c.msgs.erase m }

/-- A sector's PA, in sectors. -/
def Coh.paSector (c : Coh) (sector : Nat) : Nat := paOfIdx c.place (128 * sector) / 128

/-- The L2 state in which a die holds a sector. -/
def Coh.held (c : Coh) (die sector : Nat) : SecState :=
  match (c.die die).l2.find? fun x => x.sector == sector with
  | some x => x.st
  | none => .I

/-- The state of a sector in a die's writeback buffers (R175). -/
def Coh.buffered (c : Coh) (die sector : Nat) : SecState :=
  match (c.die die).wb.find? fun x => x.sector == sector with
  | some x => x.st
  | none => .I

/-- R249: the tag under which a die holds a sector in its L2 or its writeback buffers, 0 where it holds none. -/
def Coh.tagAt (c : Coh) (die sector : Nat) : Nat :=
  match ((c.die die).l2 ++ (c.die die).wb).find? fun x => x.sector == sector with
  | some x => x.tag
  | none => 0

/-- R249: the tag under which the L2s hold a sector, whose plaintext they have; 0 where none holds it. -/
def Coh.heldTag (c : Coh) (sector : Nat) : Nat :=
  ((List.range 4).flatMap fun d => (c.die d).l2.filterMap fun x => if x.sector == sector then some x.tag else none).headD 0

/-- R138: the slice and set of a line of 1,024 bytes, by its PA in lines. -/
def l2Set (line : Nat) : Nat × Nat := (l2Slice (1024 * line), 1024 * line / 2 ^ 16 % 128)

/-- R138: the ways of a slice that hold data. The slices in which management reserves a way for L3I are those numbered from 0
on (log entry 28). -/
def dataWays (d : Die) (slice : Nat) : Nat := if slice < d.l3iWays then 11 else 12

/-- The lines of the set of a line in an L2, least recently used first (R138). -/
def setLines (d : Die) (line : Nat) : List Nat :=
  ((d.l2.filter fun x => l2Set (x.pa / 8) == l2Set line).map fun x => x.pa / 8).eraseDups

/-- Whether a die awaits an answer about a sector of a line, by PA in lines. -/
def Coh.lineBusy (c : Coh) (die line : Nat) : Bool :=
  c.msgs.any fun m => c.paSector m.sector / 8 == line &&
    (m.req == die || ((m.kind == .sfw || m.kind == .sfx || m.kind == .sin) && m.dst == die))

/-- R173: the write back of a sector. -/
def Coh.sendWbk (die : Nat) (c : Coh) (sector : Nat) : Coh :=
  c.send ⟨.wbk, sector, die, homeDie sector, die, .I, some (sectorData c.mem sector), c.tagAt die sector⟩

/-- R138, R173, R175: a line leaves a die's L2: dirty sectors go to writeback buffers with a WBK each, and where the die is not
the home, EVC follows, since it holds no sector of the line any more. -/
def Coh.dropLine (c : Coh) (die line : Nat) : Coh :=
  let l := (c.die die).l2.filter fun x => x.pa / 8 == line
  let dirty := l.filter fun x => x.st == .M || x.st == .O
  let c1 := c.modDie die fun d =>
    { d with l2 := d.l2.filter (fun x => x.pa / 8 != line), wb := d.wb ++ dirty }
  let c2 := dirty.foldl (fun acc x => acc.sendWbk die x.sector) c1
  match l with
  | [] => c2
  | x :: _ => if homeDie x.sector = die then c2 else c2.send ⟨.evc, x.sector, die, homeDie x.sector, die, .I, none, 0⟩

/-- R138: whether another line has to leave the set of a line before that has a way there. -/
def Coh.setFull (c : Coh) (die line : Nat) : Bool :=
  let l := setLines (c.die die) line
  !hasNat l line && decide (dataWays (c.die die) (l2Slice (1024 * line)) ≤ l.length)

/-- R138: the line that leaves the full set of a line: the least recently used for which the die awaits no answer. -/
def Coh.victim (c : Coh) (die line : Nat) : Option Nat :=
  if c.setFull die line then (setLines (c.die die) line).find? fun x => !c.lineBusy die x else none

/-- A sector that a die's L2 holds set to a state, or dropped with I. -/
def Coh.setHeld (c : Coh) (die sector : Nat) (st : SecState) : Coh :=
  if st = .I then c.modDie die fun d => { d with l2 := d.l2.filter fun x => x.sector != sector }
  else c.modDie die fun d => { d with l2 := d.l2.map fun x => if x.sector == sector then { x with st := st } else x }

/-- R138: whether a die's L2 can take in a sector now: it holds it, or its set has a way or a line that may leave. -/
def Coh.canHold (c : Coh) (die sector : Nat) : Bool :=
  let line := c.paSector sector / 8
  c.held die sector != .I || !c.setFull die line || (c.victim die line).isSome

/-- R138, R249: a sector that a die's L2 takes in, under a tag; another line makes room in its set. -/
def Coh.takeIn (c : Coh) (die sector : Nat) (st : SecState) (tag : Nat) : Coh :=
  if c.held die sector != .I then c.setHeld die sector st
  else
    let pa := c.paSector sector
    let c1 := match c.victim die (pa / 8) with
      | some v => c.dropLine die v
      | none => c
    c1.modDie die fun d => { d with l2 := d.l2 ++ [⟨sector, pa, st, if c.heldTag sector = 0 then tag else c.heldTag sector⟩] }

/-- R138: a line of a die's L2 becomes the most recently used of its set. -/
def Coh.touch (c : Coh) (die sector : Nat) : Coh :=
  match (c.die die).l2.find? fun x => x.sector == sector with
  | none => c
  | some x => c.modDie die fun d =>
    { d with l2 := d.l2.filter (fun y => y.pa / 8 != x.pa / 8) ++ d.l2.filter fun y => y.pa / 8 == x.pa / 8 }

/-- R175: the state in which a die answers a snoop: its L2's, or its writeback buffer's. -/
def Coh.snoopState (c : Coh) (die sector : Nat) : SecState :=
  if c.held die sector = .I then c.buffered die sector else c.held die sector

/-- The snoop-filter entry of a line at its home. -/
def Coh.line (c : Coh) (home line : Nat) : Option DirLine := (c.die home).dir.find? fun x => x.line == line

/-- R172: the state of a sector at a home without an entry: that of the home's own tags, or the one granted to it by data that is
on its way. -/
def Coh.ownState (c : Coh) (sector : Nat) : SecState :=
  let home := homeDie sector
  match c.msgs.find? fun m => (m.kind == .dat || (m.kind == .cmp && m.st == .M)) && m.sector == sector && m.dst == home with
  | some m => m.st
  | none => c.snoopState home sector

/-- R172: the state of a sector at its home, with its owner. -/
def Coh.dirState (c : Coh) (sector : Nat) : SecState × Nat :=
  match c.line (homeDie sector) (sector / 8) with
  | some x => (x.st[sector % 8]?).getD (.I, 0)
  | none => (c.ownState sector, homeDie sector)

/-- R172, R174: the dies that may hold a sector: those of MASK, and the home by its own tags. -/
def Coh.holders (c : Coh) (sector : Nat) : List Nat :=
  let home := homeDie sector
  (List.range 4).filter fun d =>
    if d = home then c.snoopState home sector != .I
    else match c.line home (sector / 8) with
      | some x => x.mask.getLsbD d
      | none => false

/-- R172, R138: the set of a slice's snoop filter to which a line belongs. -/
def Coh.filterSet (c : Coh) (line : Nat) : Nat × Nat :=
  let pa := paOfIdx c.place (1024 * line)
  (l2Slice pa, pa / 2 ^ 16 % 64)

/-- R172: a sector's state and owner at its home, with a die added to MASK; its entry becomes the most recently used. -/
def Coh.setDir (c : Coh) (sector : Nat) (x : SecState × Nat) (die : Nat) : Coh :=
  let home := homeDie sector
  c.modDie home fun d =>
    match d.dir.find? fun y => y.line == sector / 8 with
    | none => d
    | some y =>
      let mask := if die = home then y.mask else y.mask ||| BitVec.ofNat 4 (2 ^ die)
      { d with dir := (d.dir.filter fun z => z.line != sector / 8) ++ [{ y with mask := mask, st := y.st.set (sector % 8) x }] }

/-- R172: an entry without remote holders goes. -/
def Coh.trim (c : Coh) (sector : Nat) : Coh :=
  c.modDie (homeDie sector) fun d => { d with dir := d.dir.filter fun x => x.line != sector / 8 || x.mask != 0 }

/-- R175: whether the home serves a transaction of a sector. -/
def Coh.inService (c : Coh) (sector : Nat) : Bool :=
  c.msgs.any fun m => m.sector == sector &&
    (match m.kind with
      | .rds | .rdx | .upg => m.st != .I
      | .wbk | .evc => false
      | _ => true)

/-- Whether the home serves a transaction of some sector of a line. -/
def Coh.lineInService (c : Coh) (line : Nat) : Bool := (List.range 8).any fun j => c.inService (8 * line + j)

/-- R174: data with a granted state, and the tag under which they came from memory. -/
def Coh.grant (c : Coh) (src sector die : Nat) (st : SecState) (tag : Nat) : Coh :=
  c.send ⟨.dat, sector, src, die, die, st, some (sectorData c.mem sector), tag⟩

/-- R174: data with a granted state for a request, read from HBM4E by the home under the key of the requester's page (R249). A
request that stands at the pseudo-channel passes others there when its data return (R145). -/
def Coh.supply (c : Coh) (m : Msg) (st : SecState) : Coh :=
  (if c.chan.any fun x => x.die == m.src && x.sector == m.sector then c else c.pass m.sector).grant (homeDie m.sector) m.sector
    m.src st m.tag

/-- A snoop from the home to a die (R365: never to the requester). -/
def Coh.snoop (c : Coh) (kind : MsgKind) (sector die req : Nat) : Coh :=
  if die = req then c else c.send ⟨kind, sector, homeDie sector, die, req, .I, none, 0⟩

/-- A request taken into service at its home. -/
def Coh.serve (c : Coh) (m : Msg) (st : SecState) : Coh :=
  { c with msgs := c.msgs.map fun x => if x = m then { m with st := st } else x }

/-- R177: the eviction of a snoop-filter entry begins: SIN for every sector that is not I to every die of its MASK. -/
def Coh.startEvict (c : Coh) (home : Nat) (x : DirLine) : Coh :=
  let c1 := c.modDie home fun d => { d with dir := d.dir.map fun y => if y.line == x.line then { y with evict := true } else y }
  (List.range 8).foldl (fun acc j =>
    if ((x.st[j]?).getD (.I, 0)).1 = .I then acc
    else (List.range 4).foldl (fun acc d => if x.mask.getLsbD d then acc.snoop .sin (8 * x.line + j) d 4 else acc) acc) c1

/-- An entry freed (R177). -/
def Coh.freeLine (c : Coh) (home line : Nat) : Coh :=
  c.modDie home fun d => { d with dir := d.dir.filter fun y => y.line != line }

/-- R172, R177: a new entry of a line, its states those of the home's own tags. -/
def Coh.newLine (c : Coh) (home line : Nat) : Coh :=
  let st := (List.range 8).map fun j => let x := c.ownState (8 * line + j); if x = .I then (SecState.I, 0) else (x, home)
  c.modDie home fun d => { d with dir := d.dir ++ [⟨line, 0, st, false⟩] }

/-- What a request that needs an entry finds (R174, R177). -/
inductive Entry where
  /-- the entry stands, or none is needed -/
  | ready (c : Coh)
  /-- an eviction has begun -/
  | begun (c : Coh)
  /-- an eviction or a transaction of the line that is to go is under way -/
  | wait
  deriving DecidableEq, Repr

/-- R174, R177: the entry for a request of a die about a sector; in a full set the least recently used entry is evicted first. -/
def Coh.entryFor (c : Coh) (die sector : Nat) : Entry :=
  let home := homeDie sector
  let line := sector / 8
  if die = home ∨ (c.line home line).isSome then .ready c
  else
    let set := (c.die home).dir.filter fun x => c.filterSet x.line == c.filterSet line
    if set.length < 16 then .ready (c.newLine home line)
    else match set.find? fun x => x.evict with
      | some x => if c.lineInService x.line then .wait else .ready ((c.freeLine home x.line).newLine home line)
      | none => match set with
        | [] => .wait
        | x :: _ => if c.lineInService x.line then .wait else .begun (c.startEvict home x)

/-- R174 RDS at the home, its entry standing. -/
def Coh.homeRds (c : Coh) (m : Msg) : Coh :=
  let x := c.dirState m.sector
  if x.1 = .I ∨ (x.1 ≠ .S ∧ x.2 = m.src) then
    ((c.take m).supply m .E).setDir m.sector (.E, m.src) m.src
  else if x.1 = .S then ((c.take m).supply m .S).setDir m.sector (.S, 0) m.src
  else ((c.setDir m.sector x m.src).serve m .O).snoop .sfw m.sector x.2 m.src

/-- R174 RDX at the home, its entry standing; also an UPG of a die that holds the sector no longer. -/
def Coh.homeRdx (c : Coh) (m : Msg) : Coh :=
  let x := c.dirState m.sector
  let owned := x.1 != .I && x.1 != .S && x.2 != m.src
  let others := if x.1 = .I then []
    else (c.holders m.sector).filter fun d => d != m.src && !(owned && d == x.2)
  let c1 := c.setDir m.sector x m.src
  if !owned && others.isEmpty then
    ((c1.take m).supply m .M).setDir m.sector (.M, m.src) m.src
  else
    let c2 := others.foldl (fun acc d => acc.snoop .sin m.sector d m.src) (c1.serve m (if owned then .O else .S))
    if owned then c2.snoop .sfx m.sector x.2 m.src else c2

/-- R174: whether a die that asks for an upgrade still holds the sector. -/
def Coh.stillHolds (c : Coh) (die sector : Nat) : Bool :=
  let x := c.dirState sector
  hasNat (c.holders sector) die && (x.1 == .S || (x.1 == .O && x.2 == die)) && c.held die sector != .I

/-- R174 UPG at the home. -/
def Coh.homeUpg (c : Coh) (m : Msg) : Coh :=
  if c.stillHolds m.src m.sector then
    let others := (c.holders m.sector).filter fun d => d != m.src
    if others.isEmpty then
      ((c.take m).send ⟨.cmp, m.sector, homeDie m.sector, m.src, m.src, .M, none, 0⟩).setDir m.sector (.M, m.src) m.src
    else others.foldl (fun acc d => acc.snoop .sin m.sector d m.src) (c.serve m .E)
  else c.homeRdx m

/-- R174, R175 WBK at the home; one of a die that the entry names no longer is discarded. -/
def Coh.homeWbk (c : Coh) (m : Msg) : Coh :=
  let x := c.dirState m.sector
  let c1 := ((c.take m).pass m.sector).send ⟨.cmp, m.sector, homeDie m.sector, m.src, m.src, .I, none, 0⟩
  if x.2 = m.src ∧ (x.1 = .M ∨ x.1 = .E) then c1.setDir m.sector (.I, 0) m.src
  else if x.2 = m.src ∧ x.1 = .O then c1.setDir m.sector (.S, 0) m.src
  else c1

/-- R174 EVC at the home. -/
def Coh.homeEvc (c : Coh) (m : Msg) : Coh :=
  ((c.take m).modDie (homeDie m.sector) fun d =>
    { d with dir := d.dir.map fun x =>
        if x.line == m.sector / 8 then
          { x with
            mask := x.mask &&& ~~~(BitVec.ofNat 4 (2 ^ m.src))
            st := x.st.map fun y => if y.1 = .E ∧ y.2 = m.src then (.I, 0) else y }
        else x }).trim m.sector

/-- Whether two requests concern one sector, or one line where either is an EVC. -/
def sameTarget (x y : Msg) : Bool :=
  x.sector == y.sector || ((x.kind == .evc || y.kind == .evc) && x.sector / 8 == y.sector / 8)

/-- R175: whether a request waits at or travels to its home before another, to the same sector. -/
def Coh.before (c : Coh) (m : Msg) : Bool :=
  (c.msgs.takeWhile (· != m)).any fun x => sameTarget x m && x.st == .I && x.kind.cls == .req

/-- R174, R175, R177: a request arrives at its home, which takes it up where it serves nothing else of the sector, requests to a
sector in the order of the list; none where it waits, as any request to a line that is being evicted does until the eviction has
ended. -/
def Coh.arrive (c : Coh) (m : Msg) : Option Coh :=
  if c.inService m.sector || c.before m then none
  else if ((c.line (homeDie m.sector) (m.sector / 8)).map (·.evict)).getD false then
    (if c.lineInService (m.sector / 8) then none else some (c.freeLine (homeDie m.sector) (m.sector / 8)))
  else if m.kind = .wbk then some (c.homeWbk m)
  else if m.kind = .evc then (if c.lineInService (m.sector / 8) then none else some (c.homeEvc m))
  else match c.entryFor m.src m.sector with
    | .wait => none
    | .begun c1 => some c1
    | .ready c1 =>
      some (if m.kind = .rds then c1.homeRds m else if m.kind = .rdx then c1.homeRdx m else c1.homeUpg m)

/-- R173, R365: the acknowledgement of a snoop, with the state held; it carries the sector exactly when it answers an SIN and
the die held the sector in M or O. -/
def Coh.ackOf (c : Coh) (m : Msg) (held : SecState) : Msg :=
  ⟨.ack, m.sector, m.dst, homeDie m.sector, m.req, held,
    if m.kind = .sin ∧ (held = .M ∨ held = .O) then some (sectorData c.mem m.sector) else none, c.tagAt m.dst m.sector⟩

/-- A sector of a die's writeback buffers set to a state (R175); the buffer stays until its CMP. -/
def Coh.setBuffered (c : Coh) (die sector : Nat) (st : SecState) : Coh :=
  c.modDie die fun d => { d with wb := d.wb.map fun x => if x.sector == sector then { x with st := st } else x }

/-- R174, R175: what a die that is snooped keeps of a sector, in its L2 or in its writeback buffer. -/
def Coh.keep (c : Coh) (die sector : Nat) (st : SecState) : Coh :=
  if c.held die sector = .I then c.setBuffered die sector st else c.setHeld die sector st

/-- R174 SFW: the owner sends DAT(S) and keeps S or O. -/
def Coh.onSfw (c : Coh) (m : Msg) : Coh :=
  let held := c.snoopState m.dst m.sector
  let c1 := (c.take m).send (c.ackOf m held)
  if held = .I ∨ held = .S then c1
  else (c1.grant m.dst m.sector m.req .S (c.tagAt m.dst m.sector)).keep m.dst m.sector (if held = .E then .S else .O)

/-- R174 SFX: the owner sends DAT(M) and drops its copy. -/
def Coh.onSfx (c : Coh) (m : Msg) : Coh :=
  let held := c.snoopState m.dst m.sector
  let c1 := ((c.take m).send (c.ackOf m held)).keep m.dst m.sector .I
  if held = .I ∨ held = .S then c1 else c1.grant m.dst m.sector m.req .M (c.tagAt m.dst m.sector)

/-- R365, R174 SIN: the holder drops its copy and answers with the state that it held. -/
def Coh.onSin (c : Coh) (m : Msg) : Coh :=
  ((c.take m).send (c.ackOf m (c.snoopState m.dst m.sector))).keep m.dst m.sector .I

/-- R174 DAT: the requester holds the sector in the granted state. -/
def Coh.onDat (c : Coh) (m : Msg) : Coh := (c.take m).takeIn m.dst m.sector m.st m.tag

/-- R175 CMP: an upgrade's holder goes to M; a writeback buffer is free. -/
def Coh.onCmp (c : Coh) (m : Msg) : Coh :=
  if m.st = .M then (c.take m).setHeld m.dst m.sector .M
  else (c.take m).modDie m.dst fun d => { d with wb := d.wb.filter fun x => x.sector != m.sector }

/-- Whether a snoop of a sector or its acknowledgement is still on its way. -/
def Coh.snooping (c : Coh) (sector : Nat) : Bool :=
  c.msgs.any fun m => m.sector == sector && (m.kind == .sin || m.kind == .sfx || m.kind == .sfw || m.kind == .ack)

/-- R174: the end of an exclusive request after its last acknowledgement. -/
def Coh.finishExclusive (c : Coh) (m : Msg) : Coh :=
  let c1 := (c.take m).setDir m.sector (.M, m.src) m.src
  if m.kind = .upg ∧ m.st = .E then c1.send ⟨.cmp, m.sector, homeDie m.sector, m.src, m.src, .M, none, 0⟩
  else if m.st = .S then c1.supply m .M
  else c1

/-- R174: the end of an RDS that was forwarded, by the state that the owner held. -/
def Coh.finishShared (c : Coh) (m : Msg) (held : SecState) : Coh :=
  let c1 := c.take m
  if held = .I ∨ held = .S then (c1.supply m .E).setDir m.sector (.E, m.src) m.src
  else if held = .E then c1.setDir m.sector (.S, 0) m.src
  else c1.setDir m.sector (.O, (c1.dirState m.sector).2) m.src

/-- R174 ACK at the home of a sector: an owner that held nothing leaves the data to the home; after the last acknowledgement
the request in service ends. One for an atomic unit or an eviction answers no request (R176, R177). -/
def Coh.onAck (c : Coh) (a : Msg) : Coh :=
  let c1 := c.take a
  match c1.msgs.find? fun m => m.sector == a.sector && m.src == a.req && m.st != .I &&
      (m.kind == .rds || m.kind == .rdx || m.kind == .upg) with
  | none => c1
  | some r =>
    if r.kind = .rds then c1.finishShared r a.st
    else
      let lost := r.st == .O && (c1.dirState a.sector).2 == a.src && a.st == .I
      let r1 : Msg := if lost then { r with st := .S } else r
      let c2 := if lost then c1.serve r .S else c1
      if c2.snooping a.sector then c2 else c2.finishExclusive r1

/-- A message delivered; none where it waits at its home, or for a way of a full set in which the die awaits answers about every
line (R138). -/
def Coh.deliver (c : Coh) (m : Msg) : Option Coh :=
  match m.kind with
  | .rds | .rdx | .upg | .wbk | .evc => if m.st = .I then c.arrive m else none
  | .sfw => some (c.onSfw m)
  | .sfx => some (c.onSfx m)
  | .sin => some (c.onSin m)
  | .dat => if c.canHold m.dst m.sector then some (c.onDat m) else none
  | .ack => some (c.onAck m)
  | .cmp => some (c.onCmp m)

/-- Whether a message concerns a transaction of a sector: it is about the sector, or about a line that is being evicted, or an EVC
of its line. -/
def Coh.concerns (c : Coh) (sector : Nat) (m : Msg) : Bool :=
  m.sector == sector || (m.kind == .evc && m.sector / 8 == sector / 8) ||
    ((c.line (homeDie m.sector) (m.sector / 8)).map (·.evict)).getD false

/-- Messages of a kind delivered, oldest first, until none is left that can be. -/
def Coh.settle (p : Coh → Msg → Bool) : Nat → Coh → Coh
  | 0, c => c
  | n + 1, c =>
    match (c.msgs.filter (p c)).findSome? c.deliver with
    | none => c
    | some c1 => Coh.settle p n c1

/-- R174, R175: the transactions about a sector run to their end; where one waits for another, all of them do. -/
def Coh.finishAll (c : Coh) (sector : Nat) : Coh :=
  let c1 := Coh.settle (fun c m => c.concerns sector m) 400 c
  if c1.msgs.any fun m => m.sector == sector then Coh.settle (fun _ _ => true) 4000 c1 else c1

/-- R138, R169, R170, R174: a die comes to hold a sector: in M with `excl`, else in any state, after whatever the protocol had
under way about the sector. `tag` is that of the page that asks for it (R249). -/
def Coh.obtain (die sector : Nat) (excl : Bool) (tag : Nat) (c : Coh) : Coh :=
  let c1 := c.finishAll sector
  let st := c1.held die sector
  if st = .M ∨ (st ≠ .I ∧ excl = false) then c1.touch die sector
  else if st = .E then (c1.setHeld die sector .M).touch die sector
  else
    let kind := if st = .I then (if excl then MsgKind.rdx else .rds) else .upg
    ((c1.send ⟨kind, sector, die, homeDie sector, die, .I, none, tag⟩).finishAll sector).touch die sector

/-- R148, R176: every cached copy of a sector recalled from every L2 by SIN and ACK; the sector goes to I, and its home stack is
accessed. -/
def Coh.recall (sector : Nat) (c : Coh) : Coh :=
  let c1 := (c.pass sector).finishAll sector
  let c2 := (c1.holders sector).foldl (fun acc d => acc.snoop .sin sector d 4) c1
  let c3 := c2.finishAll sector
  match c3.line (homeDie sector) (sector / 8) with
  | none => c3
  | some _ => c3.setDir sector (.I, 0) (homeDie sector)

end Sys2Proof.Machine
end

