-- ==== Sys2Proof/Machine/Memory.lean ====
section
/-! DEFINITION. Memory: the five-level walk (R149 to R152), permissions and the order of checks (R153), bytes, keys, sectors and
poison (R137, R224, R249), miss slots (R146, R147), scratch windows (R133). -/

namespace Sys2Proof.Machine

/-- Why an instruction does not retire: a trap to take (R210), ILL with its emulation match (R271), a wait after which it
issues again, a wait that changes the state, or a replayable fault (R154) with its lane, address, level, malformed bit and
access kind. -/
inductive Halt where
  | trap (t : TrapReq)
  | ill
  | stay (s : State)
  | wait (on : WaitOn)
  | memf (lane : Option (BitVec 5)) (va : Addr) (lvl : Nat) (malf : Bool) (kind : Nat)
  deriving DecidableEq, Repr

/-- The n bytes from a place of a memory. -/
def bytesAt (m : List Host.Cell) (i n : Nat) : List Byte := (List.range n).map fun k => mget memDefault m (i + k)

/-- Whether one of n bytes of memory stands in a poisoned 32-byte granule (R224). -/
def poisonedAt (s : State) (i n : Nat) : Bool :=
  (List.range ((i + n - 1) / 32 + 1 - i / 32)).any fun k => mget false s.memPoison (i / 32 + k)

/-- R149: the index of an address into the table of a level. -/
def vaIndex (va lvl : Nat) : Nat := va / 2 ^ (16 + 13 * lvl) % (if lvl = 4 then 16 else 8192)

/-- R143: the place of a PA under the decode with which a die's L2 took its sector, none where it holds none. -/
def heldPlace (s : State) (die pa : Nat) : Option Nat :=
  ((getDie s die).l2.find? fun x => x.pa == pa / 128).map fun x => 128 * x.sector + pa % 128

/-- R143: the place of local memory that a walk of a die reads at a PA. -/
def walkIdx (s : State) (die pa : Nat) : Nat := (heldPlace s die pa).getD (homeIdx s.place pa)

/-- R150: an entry of a table at a PA, as a walk of a die reads it; none where it is poisoned (R224) or where no local memory lies
there. -/
def tableEntry (s : State) (die t i : Nat) : Option Nat :=
  let pa := t + 8 * i
  if isLocal pa then
    let k := walkIdx s die pa
    if poisonedAt s k 8 then none else some (leNat (bytesAt s.mem k 8))
  else none

/-- The fields of an entry (R150). -/
def entryPA (e : Nat) : Nat := e / 2 ^ 16 % 2 ^ 36

/-- R150: R, W, X as bits 0, 1, 2. -/
def entryRWX (e : Nat) : Nat := e / 2 % 8

/-- R150: memory type. -/
def entryMT (e : Nat) : Nat := e / 2 ^ 8 % 4

/-- R150: placement. -/
def entryPlace (e : Nat) : Nat := e / 2 ^ 6 % 4

/-- R150: tenant key. -/
def entryKey (e : Nat) : Nat := e / 2 ^ 56 % 2 ^ 8

/-- R150: the PRIV bit. -/
def entryPriv (e : Nat) : Bool := decide (e / 2 ^ 4 % 2 = 1)

/-- R150: the contiguous bit. -/
def entryC (e : Nat) : Bool := decide (e / 2 ^ 5 % 2 = 1)

/-- R151: the attributes that the leaves of a contiguous group share. -/
def entryAttrs (e : Nat) : Nat × Nat × Nat × Nat × Nat × Bool :=
  (e % 2, entryRWX e, entryMT e, entryPlace e, entryKey e, entryPriv e)

/-- R151: whether the 32 aligned entries around entry i of a table form one contiguous page. -/
def contiguous (s : State) (die t i lvl e : Nat) : Bool :=
  let i0 := i - i % 32
  let step := if lvl = 1 then 2 ^ 13 else 1
  match tableEntry s die t i0 with
  | none => false
  | some e0 => decide (entryPA e0 % (32 * step) = 0) && (List.range 32).all fun j =>
      match tableEntry s die t (i0 + j) with
      | none => false
      | some x => decide (entryAttrs x = entryAttrs e) && decide (entryPA x = entryPA e0 + j * step) &&
          (lvl == 0 || decide (entryRWX x ≠ 0))

/-- What a translation gives: the PA with the leaf, or the level where it stops and whether the entry is malformed. -/
inductive Xlat where
  | ok (pa : Nat) (leaf : Nat)
  | fault (lvl : Nat) (malf : Bool)
  deriving DecidableEq, Repr

/-- R152: a pointer of the walk cache for the entry of a level. -/
def cachedPointer (d : Die) (asid va lvl : Nat) : Option Nat :=
  (d.walks.find? fun w => w.asid == asid && w.size == 2 ^ (16 + 13 * lvl) && w.base == va - va % 2 ^ (16 + 13 * lvl)).map
    fun w => w.leaf.toNat

/-- R151: whether a leaf is malformed. -/
def badLeaf (s : State) (die t i lvl e : Nat) : Bool :=
  decide (e / 2 ^ 52 % 16 ≠ 0) || decide (e / 2 ^ 10 % 64 ≠ 0) || decide (entryMT e = 3) || decide (entryPlace e ≥ 2) ||
    (lvl == 1 && decide (entryPA e % 2 ^ 13 ≠ 0)) || (entryC e && !contiguous s die t i lvl e)

/-- R151: the walk from the table at t, of the level one below the count of levels left. -/
def walkFrom (s : State) (die asid va : Nat) : Nat → Nat → Xlat
  | 0, _ => .fault 0 true
  | lvl + 1, t =>
    let i := vaIndex va lvl
    match (match cachedPointer (getDie s die) asid va lvl with
      | some e => some e
      | none => tableEntry s die t i) with
    | none => .fault lvl true
    | some e =>
      if e % 2 = 0 then .fault lvl false
      else if lvl ≥ 2 ∨ (lvl = 1 ∧ entryRWX e = 0) then
        if e / 2 ^ 52 ≠ 0 ∨ e / 2 % 2 ^ 15 ≠ 0 then .fault lvl true
        else walkFrom s die asid va lvl (entryPA e * 2 ^ 16)
      else if badLeaf s die t i lvl e then .fault lvl true
      else .ok (entryPA e * 2 ^ 16 + va % 2 ^ (16 + 13 * lvl)) e

/-- R152: a cached translation. -/
def tlbLookup (l : List TlbEntry) (asid va : Nat) : Option Xlat :=
  (l.find? fun e => e.asid == asid && decide (e.base ≤ va) && decide (va < e.base + e.size)).map
    fun e => .ok (entryPA e.leaf.toNat * 2 ^ 16 + (va - e.base)) e.leaf.toNat

/-- The bit above a leaf that says that its translation was cached. -/
def cachedMark : Nat := 2 ^ 64

/-- R143: whether a leaf comes from a cached translation, which no change of the placement table touches. -/
def leafCached (leaf : Nat) : Bool := decide (cachedMark ≤ leaf)

/-- R143: a translation marked as cached. -/
def asCached (x : Xlat) : Xlat :=
  match x with
  | .fault lvl malf => .fault lvl malf
  | .ok pa leaf => .ok pa (leaf + cachedMark)

/-- R230: the translations of the sections that the device's loader has mapped for a function (log entry 14). -/
def loadedMaps (s : State) (vf : Nat) : List TlbEntry := (s.modules.filter fun m => m.vf == vf).flatMap fun m => m.maps

/-- R151, R152: the translation of an address of a function, as a core makes it: its TLB, the die's, the loader's mappings, then
a walk. A leaf from a TLB carries `cachedMark`. -/
def translate (s : State) (core vf : Nat) (va : Addr) : Xlat :=
  let asid := (getFunc s vf).asid.toNat
  match tlbLookup ((getCore s core).tlb ++ (getDie s (dieOf core)).tlb) asid va.toNat with
  | some x => asCached x
  | none => match tlbLookup (loadedMaps s vf) asid va.toNat with
  | some x => x
  | none => walkFrom s (dieOf core) asid va.toNat 5 (getFunc s vf).root.toNat

/-- Access kinds of R154. -/
def kindRead : Nat := 0

/-- A write (R154). -/
def kindWrite : Nat := 1

/-- An atomic (R154). -/
def kindAtomic : Nat := 2

/-- An instruction fetch (R154). -/
def kindFetch : Nat := 3

/-- An engine read (R154). -/
def kindEngRead : Nat := 4

/-- An engine write (R154). -/
def kindEngWrite : Nat := 5

/-- A furrow access (R154). -/
def kindFurrow : Nat := 6

/-- Whether a page permits a kind of access (R150): R, W or X. `write` tells a furrow or engine access apart. -/
def kindAllowed (e : Nat) (write fetch : Bool) : Bool :=
  if fetch then decide (entryRWX e / 4 % 2 = 1)
  else if write then decide (entryRWX e / 2 % 2 = 1)
  else decide (entryRWX e % 2 = 1)

/-- R153, R249: whether a page of a key is closed to a function. -/
def keyClosed (s : State) (f : Func) (k : Nat) : Bool :=
  (k != f.key.toNat && !f.grant.getLsbD k) || (k != 0 && !mget false s.keys k)

/-- R153 step 5: the PROT detail of R210 of an access, or none. `far` lets host memory and peers pass (R140). DESIGN CHOICE:
R143 compares the PLACE of a leaf with the entry of the quad that it maps; of a leaf that maps several quads the model compares
the quad of the accessed page alone, and then caches the leaf for all of them (log entry 39). -/
def protDetail (s : State) (vf : Nat) (handler write fetch far : Bool) (pa leaf : Nat) : Option (BitVec 8) :=
  if !kindAllowed leaf write fetch then some 1
  else if entryPriv leaf && !handler then some 2
  else if keyClosed s (getFunc s vf) (entryKey leaf) then some 3
  else if isLocal pa && !leafCached leaf && placeOf s.place pa != entryPlace leaf then some 4
  else if !isLocal pa && !(far && (decide (pa / 2 ^ 51 % 2 = 1) || decide (pa / 2 ^ 50 % 2 = 1))) then some 5
  else none

/-- R143: the place of local memory that an access of a core reaches: the decode under which its die's L2 holds the sector, or the
one that its leaf gives. -/
def accIdx (s : State) (core leaf pa : Nat) : Nat := (heldPlace s (dieOf core) pa).getD (homeAs (entryPlace leaf) pa)

/-- A translated access of one lane, or of the group. -/
structure Acc where
  lane : Option (BitVec 5)
  va : Addr
  pa : Nat
  idx : Nat
  leaf : Nat
  deriving DecidableEq, Repr

/-- A trap of a memory class (R213). -/
def memTrap (cls detail : Nat) (lane : Option (BitVec 5)) (va : Addr) : TrapReq :=
  ⟨BitVec.ofNat 8 cls, BitVec.ofNat 8 detail, 0, va, lane⟩

/-- R153 step 2: the first access that is not aligned to n bytes. -/
def misaligned (n : Nat) (l : List (Option (BitVec 5) × Addr)) : Option (Option (BitVec 5) × Addr) :=
  l.find? fun x => x.2.toNat % n != 0

/-- R153 step 4: the first access that does not translate. -/
def untranslated (s : State) (core vf : Nat) : List (Option (BitVec 5) × Addr) → Option (Option (BitVec 5) × Addr × Nat × Bool)
  | [] => none
  | x :: t => match translate s core vf x.2 with
    | .fault lvl malf => some (x.1, x.2, lvl, malf)
    | .ok _ _ => untranslated s core vf t

/-- R153 step 5: the first access that is not permitted. -/
def unpermitted (s : State) (core vf : Nat) (handler write far : Bool) :
    List (Option (BitVec 5) × Addr) → Option (Option (BitVec 5) × Addr × BitVec 8)
  | [] => none
  | x :: t => match translate s core vf x.2 with
    | .fault _ _ => unpermitted s core vf handler write far t
    | .ok pa leaf => match protDetail s vf handler write false far pa leaf with
      | some d => some (x.1, x.2, d)
      | none => unpermitted s core vf handler write far t

/-- The translated accesses. -/
def accesses (s : State) (core vf : Nat) : List (Option (BitVec 5) × Addr) → List Acc
  | [] => []
  | x :: t => match translate s core vf x.2 with
    | .fault _ _ => accesses s core vf t
    | .ok pa leaf => ⟨x.1, x.2, pa, accIdx s core leaf pa, leaf⟩ :: accesses s core vf t

/-- R153: the checks of a global access of the group in focus, in their order, for accesses of n bytes. -/
def checkGlobal (s : State) (kind n : Nat) (l : List (Option (BitVec 5) × Addr)) : Except Halt (List Acc) :=
  match misaligned n l with
  | some x => .error (.trap (memTrap 2 0 x.1 x.2))
  | none => match untranslated s s.blk.core s.blk.vf l with
    | some x => .error (.memf x.1 x.2.1 x.2.2.1 x.2.2.2 kind)
    | none => match unpermitted s s.blk.core s.blk.vf s.g.ctx.handler (kind != kindRead) false l with
      | some x => .error (.trap ⟨5, x.2.2, 0, x.2.1, x.1⟩)
      | none => .ok (accesses s s.blk.core s.blk.vf l)

/-- R224: the first access that reads poison. -/
def poisonedAcc (s : State) (n : Nat) (l : List Acc) : Option Acc := l.find? fun a => poisonedAt s a.idx n

/-- R224: SOFTERR for consumed poison. -/
def checkPoison (s : State) (n : Nat) (l : List Acc) : Except Halt Unit :=
  match poisonedAcc s n l with
  | some a => .error (.trap (memTrap 12 5 a.lane a.va))
  | none => .ok ()

/-- R249: the key, its generation and the tweak PA[51:7] under which a page's bytes at a place are encrypted now, as
`State.memKey` holds them. An access that comes through no page has the placement of the table. -/
def keyTag (s : State) (leaf i : Nat) : Nat :=
  let placement := if leaf = 0 then (mget 0 s.place (i % 2 ^ 38 / 2 ^ 16)).toNat else entryPlace leaf
  1 + entryKey leaf + 256 * (paAs placement i / 128 % 2 ^ 45 + 2 ^ 45 * mget 0 s.keyGen (entryKey leaf))

/-- R249: the tag under which the L2s hold a sector, whose plaintext they have; 0 where none holds it. -/
def heldTag (s : State) (sector : Nat) : Nat := (cohOf s).heldTag sector

/-- R249: the tag under which an access through a page sees a place: that of the L2s that hold the sector, else its page's. -/
def viewTag (s : State) (leaf i : Nat) : Nat := if heldTag s (i / 128) = 0 then keyTag s leaf i else heldTag s (i / 128)

/-- R249: a byte of local memory as it is seen under a tag: in a sector that was written under another key, under an earlier key
of the slot or at another PA it comes out of the controller as something else (log entry 43). -/
def byteUnder (s : State) (v i : Nat) : Byte :=
  let t := mget 0 s.memKey (i / 128)
  if t = 0 ∨ t = v then mget memDefault s.mem i else Config.garbled t v (sectorData s.mem (i / 128)) (i % 128)

/-- R249: a byte of local memory as a page shows it. -/
def pageByte (s : State) (leaf i : Nat) : Byte := byteUnder s (viewTag s leaf i) i

/-- R249: the n bytes from a place as a page shows them. -/
def pageBytes (s : State) (leaf i n : Nat) : List Byte := (List.range n).map fun k => pageByte s leaf (i + k)

/-- R137, R170: the sector of a PA in a core's L1, which keeps none for 2,048 cycles after its fill. -/
def l1Find (s : State) (core pa : Nat) : Option L1Sec :=
  (getCore s core).l1.find? fun x => x.pa == pa / 128 && decide (x.age < 2048)

/-- R137, R139: whether a load is served by its core's L1: that holds the sector, the memory type is NORMAL and the load carries
no .acq. -/
def l1Serves (s : State) (core : Nat) (acq : Bool) (a : Acc) : Option L1Sec :=
  if !acq && entryMT a.leaf == 0 then l1Find s core a.pa else none

/-- R137, R139: the bytes that a load reads: of its core's L1, else of memory. -/
def loadBytes (s : State) (core : Nat) (acq : Bool) (a : Acc) (n : Nat) : List Byte :=
  match l1Serves s core acq a with
  | some x => (List.range n).map fun k => (x.bytes[a.pa % 128 + k]?).getD 0
  | none => pageBytes s a.leaf a.idx n

/-- Byte cells written one after another; the last write to a place stands. -/
def writeCells (m : List Host.Cell) : List (Nat × Byte) → List Host.Cell
  | [] => m
  | (k, v) :: t => writeCells (mset memDefault m k v) t

/-- R137: a store updates the sectors its core's L1 holds and allocates none. -/
def l1Store (l1 : List L1Sec) (cells : List (Nat × Byte)) : List L1Sec :=
  l1.map fun x => { x with bytes := cells.foldl (fun b c => if c.1 / 128 == x.sector then b.set (c.1 % 128) c.2 else b) x.bytes }

/-- R224: the poison of a granule goes when one write covers the whole granule. -/
def clearPoison (p : List (Nat × Bool)) (cells : List (Nat × Byte)) : List (Nat × Bool) :=
  p.filter fun e => !((List.range 32).all fun k => cells.any fun c => c.1 == 32 * e.1 + k)

/-- Cells written to local memory. -/
def putCells (s : State) (cells : List (Nat × Byte)) : State :=
  { s with
    mem := writeCells s.mem cells
    memPoison := clearPoison s.memPoison cells
    torn := s.torn.filter fun x => !cells.any fun c => c.1 / 2 == x.half }

/-- The cells written to memory by a store of a core whose die holds the sectors (R170). -/
def storeCells (s : State) (core : Nat) (cells : List (Nat × Byte)) : State :=
  modCore (putCells s cells) core fun c => { c with l1 := l1Store c.l1 cells }

/-- The cells of bytes from a place. -/
def cellsAt (i : Nat) (bs : List Byte) : List (Nat × Byte) := (List.range bs.length).zip bs |>.map fun x => (i + x.1, x.2)

/-- R249: a sector comes to be encrypted under a tag. The data unit is the sector, so that bytes written under another tag are
kept as the new one shows them. -/
def reseal (s : State) (sector v : Nat) : State :=
  let t := mget 0 s.memKey sector
  { s with
    mem := if t = 0 ∨ t = v then s.mem
      else writeCells s.mem (cellsAt (128 * sector) ((List.range 128).map fun k => byteUnder s v (128 * sector + k)))
    memKey := mset 0 s.memKey sector v }

/-- R249: the sector of a place comes to be encrypted as the L2s hold it, or under the key of a page. -/
def tagBytes (s : State) (leaf i : Nat) : State := reseal s (i / 128) (viewTag s leaf i)

/-- R139: whether an access goes through the L2s: one to memory of type DIRECT does not. -/
def Acc.cached (a : Acc) : Bool := entryMT a.leaf != 2

/-- R138, R169, R170: a die obtains a sector for an access through a page, in M with `excl`. -/
def fetchSector (die leaf : Nat) (excl : Bool) (s : State) (sector : Nat) : State :=
  onCoh s fun c => c.obtain die sector excl (keyTag s leaf (128 * sector))

/-- R138, R169, R170: the die of a core comes to hold the sectors of accesses, in M with `excl`. -/
def holdSectors (s : State) (core : Nat) (excl : Bool) (l : List Acc) : State :=
  ((l.filter Acc.cached).map fun a => (a.idx / 128, a.leaf)).eraseDups.foldl (fun s x => fetchSector (dieOf core) x.2 excl s x.1) s

/-- The members of a list of sectors that lie in the pseudo-channel of a sector. -/
def sameChannel (l : List Nat) (sector : Nat) : Nat :=
  (l.filter fun x => pseudoChannel x == pseudoChannel sector).length

/-- R147: whether a die has a miss register for the line of a sector, or the caps leave one. -/
def registerRoom (d : Die) (sector : Nat) : Bool :=
  mhas d.missRegs (sector / 8) ||
    (decide (d.missRegs.length < 8192) && decide (sameChannel (d.missRegs.map fun x => 8 * x.1) sector < 512))

/-- R139, R145: an access of memory of type DIRECT goes to its home stack. -/
def atHome (s : State) (sector : Nat) : State := onCoh s fun c => c.pass sector

/-- R138, R139, R146: the sectors of accesses that take no miss slots: obtained by the die, or accessed at their homes. -/
def fetchSectors (s : State) (core : Nat) (excl : Bool) (l : List Acc) : State :=
  (l.map fun a => (a.idx / 128, a.leaf)).eraseDups.foldl (fun s x =>
    if entryMT x.2 = 2 then atHome s x.1 else fetchSector (dieOf core) x.2 excl s x.1) s

/-- R170, R249: the sectors that accesses are to write, held in M and encrypted under their pages' keys. -/
def ownAccs (s : State) (core : Nat) (l : List Acc) : State :=
  l.foldl (fun acc a => tagBytes acc a.leaf a.idx) (fetchSectors s core true l)

/-- R170: an acquire at span scope or wider drops what the core's L1 holds. -/
def dropL1 (s : State) (core : Nat) : State := modCore s core fun c => { c with l1 := [] }

/-- R170, R161: sectors that a read has found elsewhere than in its core's L1 leave that L1. -/
def dropL1At (s : State) (core : Nat) (sectors : List Nat) : State :=
  modCore s core fun c => { c with l1 := c.l1.filter fun x => !hasNat sectors x.sector }

/-- R135, R137: some banks of a core, as ways of its L1, are empty. -/
def dropWays (s : State) (core : Nat) (banks : List Nat) : State :=
  modCore s core fun c => { c with l1 := c.l1.filter fun x => !hasNat banks x.way }

/-- R148, R176: every cached copy of some sectors recalled: from the L2s by the protocol, and from every L1. -/
def recallSectors (s : State) (sectors : List Nat) : State :=
  let s1 := onCoh s fun c => sectors.eraseDups.foldl (fun c x => c.recall x) c
  { s1 with cores := s1.cores.map fun e => (e.1, { e.2 with l1 := e.2.l1.filter fun x => !hasNat sectors x.sector }) }

/-- R146: whether a miss register of a die already asks for a sector. -/
def registerAsks (d : Die) (sector : Nat) : Bool := mget 0 d.missRegs (sector / 8) / 2 ^ (sector % 8) % 2 == 1

/-- R146: whether a miss of a core on a sector is one of its die's L2 too. -/
def missesDeep (d : Die) (sector : Nat) : Bool := registerAsks d sector || !(d.l2.any fun x => x.sector == sector)

/-- R147: whether the caps leave a miss slot of a core for a sector. -/
def coreRoom (c : Core) (sector : Nat) : Bool :=
  decide (c.missSlots.length < 256) && decide (sameChannel (c.missSlots.map (·.1)) sector < 64)

/-- R147: whether the caps leave a core a miss slot for a request, where it takes one. -/
def MissReq.fits (x : MissReq) (c : Core) : Bool := !x.slot || coreRoom c x.sector

/-- R147: whether a request takes what it needs now. -/
def slotRoom (c : Core) (d : Die) (x : MissReq) : Bool := x.fits c && (!x.deep || registerRoom d x.sector)

/-- R147: the oldest request of a core's queue for a pseudo-channel. -/
def queueHead (c : Core) (channel : Nat) : Option MissReq := c.missQ.find? fun x => pseudoChannel x.sector == channel

/-- R147: whether an older request of the die of a core waits for a miss register of the pseudo-channel, where a request needs
another one. -/
def olderWaits (s : State) (core : Nat) (x : MissReq) : Bool :=
  x.deep && !mhas (getDie s (dieOf core)).missRegs (x.sector / 8) && s.cores.any fun e =>
    dieOf e.1 == dieOf core && match queueHead e.2 (pseudoChannel x.sector) with
    | some y => y.deep && decide (y.since < x.since) && y.fits e.2
    | none => false

/-- R146, R147: whether a request of a core for a sector that takes no miss slot (a store, an atomic, an engine's or a walk's
read, a fetch) misses its die's L2 and has to wait for a miss register. -/
def registerWaits (s : State) (core sector : Nat) : Bool :=
  let d := getDie s (dieOf core)
  !(d.l2.any fun x => x.sector == sector) &&
    (!registerRoom d sector || olderWaits s core ⟨sector, true, [], s.clock, false, 0⟩)

/-- R147: a request of a core that takes no miss slot waits in the queue of its pseudo-channel, with one for the same sector that
waits there. -/
def queueMiss (core leaf : Nat) (owners : List Nat) (s : State) (sector : Nat) : State :=
  modCore s core fun c => { c with
    missQ := if c.missQ.any fun y => y.sector == sector then
        c.missQ.map fun y =>
          if y.sector == sector then { y with owners := y.owners ++ owners.filter fun o => !hasNat y.owners o } else y
      else c.missQ ++ [⟨sector, true, owners, s.clock, false, leaf⟩] }

/-- R147: of the sectors that writes of a core for a group need, those that have to wait for a miss register wait in its queues.
What the access does is done at its issue, as a load's is (log entry 28). -/
def queueMisses (s : State) (core owner : Nat) (l : List Acc) : State :=
  l.foldl (fun acc a =>
    if a.cached && registerWaits acc core (a.idx / 128) then queueMiss core a.leaf [owner] acc (a.idx / 128) else acc) s

/-- R146: a request takes a miss slot of its core, and a miss register where its die's L2 misses too; its pseudo-channel then has
the request (R145). -/
def takeSlot (s : State) (core : Nat) (x : MissReq) : State :=
  let s1 := modCore s core fun c => { c with missSlots := c.missSlots ++ [(x.sector, x.owners.headD 0)] }
  if !x.deep || registerAsks (getDie s (dieOf core)) x.sector then s1
  else
    modDie { s1 with chan := s1.chan ++ [⟨dieOf core, x.sector, 0⟩] } (dieOf core) fun d =>
      { d with missRegs := mput d.missRegs (x.sector / 8) (Nat.lor (mget 0 d.missRegs (x.sector / 8)) (2 ^ (x.sector % 8))) }

/-- R146, R147: a sector that a load finds absent from its core's L1: it joins a slot or a request that waits, takes a slot, or
waits for one behind the requests that wait for its pseudo-channel. -/
def askSector (s : State) (core owner leaf sector : Nat) : State :=
  let c := getCore s core
  let d := getDie s (dieOf core)
  let x : MissReq := ⟨sector, missesDeep d sector, [owner], s.clock, true, leaf⟩
  if c.missSlots.any fun y => y.1 == sector then s
  else if c.missQ.any fun y => y.sector == sector then
    modCore s core fun c => { c with
      missQ := c.missQ.map fun y =>
        if y.sector == sector then
          { y with slot := true, owners := y.owners ++ [owner].filter fun o => !hasNat y.owners o } else y }
  else if slotRoom c d x && (queueHead c (pseudoChannel sector)).isNone && !olderWaits s core x then takeSlot s core x
  else modCore s core fun c => { c with missQ := c.missQ ++ [x] }

/-- R152: a walk joined, or added in age order. -/
def joinWalk (l : List Walk) (asid page core : Nat) : List Walk :=
  if l.any fun w => w.asid == asid && w.page == page then
    l.map fun w => if w.asid == asid && w.page == page && !hasNat w.cores core then { w with cores := w.cores ++ [core] } else w
  else l ++ [⟨asid, page, [core]⟩]

/-- R152: an access of a core at an address, where no TLB and no mapping of the loader translates it, joins or starts a walk. -/
def askWalk (s : State) (core vf : Nat) (va : Addr) : State :=
  let asid := (getFunc s vf).asid.toNat
  if (tlbLookup ((getCore s core).tlb ++ (getDie s (dieOf core)).tlb ++ loadedMaps s vf) asid va.toNat).isSome then s
  else modDie s (dieOf core) fun d => { d with walking := joinWalk d.walking asid (va.toNat / 2 ^ 16) core }

/-- R152: the walks that accesses of a core need. -/
def askWalks (s : State) (core vf : Nat) (l : List Acc) : State := l.foldl (fun s a => askWalk s core vf a.va) s

/-- The requester that stands for a group at a core's miss slots. -/
def ownerKey (uid slot : Nat) : Nat := 32 * uid + slot

/-- R137: the accesses of a load that its core's L1 does not serve. -/
def l1Misses (s : State) (core : Nat) (acq : Bool) (l : List Acc) : List Acc :=
  l.filter fun a => (l1Serves s core acq a).isNone

/-- R137, R138, R146, R170: what reads of a core for a group ask for: walks, miss slots for the sectors that L1 does not serve,
the sectors in the die's L2. An older L1 copy of such a sector goes. -/
def readFor (s : State) (core vf owner : Nat) (acq : Bool) (l : List Acc) : State :=
  let miss := l1Misses s core acq l
  let s1 := miss.foldl (fun s a => askSector s core owner a.leaf (a.idx / 128)) (askWalks s core vf l)
  dropL1At (holdSectors s1 core false miss) core (miss.map fun a => a.idx / 128)

/-- R137, R146, R205: what a load of the group in focus asks for; where L1 does not serve it, the group may be swapped out. -/
def askSectors (s : State) (acq : Bool) (l : List Acc) : State :=
  let s1 := readFor s s.blk.core s.blk.vf (ownerKey s.blk.uid s.g.slot) acq l
  if (l1Misses s s.blk.core acq l).isEmpty then s1 else modG s1 fun g => { g with swapDue := true }

/-- R137, R205: an access of the group in focus that its core's L1 does not serve makes its group due to be swapped out, where it
needs a sector that the L1 lacks. -/
def swapOnMiss (s : State) (l : List Acc) : State :=
  if l.any fun a => (l1Find s s.blk.core a.pa).isNone then modG s fun g => { g with swapDue := true } else s

/-- R147, R205: what writes of the group in focus have to wait for under a cap; the group is then swapped out. -/
def queueWrites (s : State) (l : List Acc) : State :=
  let s1 := queueMisses s s.blk.core (ownerKey s.blk.uid s.g.slot) l
  if l.any fun a => a.cached && registerWaits s s.blk.core (a.idx / 128) then modG s1 fun g => { g with swapDue := true } else s1

/-- R137, R147, R170: a store of the group in focus by accesses, its sectors held in M by its die. -/
def storeGroup (s : State) (l : List Acc) (cells : List (Nat × Byte)) : State :=
  storeCells (ownAccs (queueWrites (askWalks s s.blk.core s.blk.vf l) l) s.blk.core l) s.blk.core cells

/-- R153, R249: the place of a byte that the device reaches at a virtual address of a function, with its leaf: local memory
under a key that is open to the function and installed. Permissions are not judged (R22, R193). -/
def devicePlace (s : State) (core vf : Nat) (va : Addr) : Option (Nat × Nat) :=
  match translate s core vf va with
  | .ok pa leaf =>
    if isLocal pa && !keyClosed s (getFunc s vf) (entryKey leaf) then some (accIdx s core leaf pa, leaf) else none
  | .fault _ _ => none

/-- Bytes performed at their home by the device or the host, at places with the leaves of their pages: every copy in an L2 is
recalled first. -/
def performBytes (s : State) (l : List (Nat × Nat)) (bs : List Byte) : State :=
  let s1 := onCoh s fun c => (l.map fun x => x.1 / 128).eraseDups.foldl (fun c x => c.recall x) c
  let s2 := l.foldl (fun acc x => tagBytes acc x.2 x.1) s1
  putCells s2 ((l.map (·.1)).zip bs)

/-- A write by the device of bytes at a virtual address of a function: the state after it, or none where a byte cannot be
written. -/
def deviceWrite (s : State) (core vf : Nat) (va : Addr) (bs : List Byte) : Option State :=
  let l := (List.range bs.length).filterMap fun k => devicePlace s core vf (va + BitVec.ofNat 72 k)
  if l.length = bs.length then some (performBytes s l bs) else none

/-- A read by the device of n bytes at a virtual address of a function. -/
def deviceRead (s : State) (core vf : Nat) (va : Addr) (n : Nat) : Option (List Byte) :=
  let bs := (List.range n).filterMap fun k =>
    (devicePlace s core vf (va + BitVec.ofNat 72 k)).map fun x => pageByte s x.2 x.1
  if bs.length = n then some bs else none

/-- R44: the mode of an owned bank; SCRATCH at admission. -/
def bankMode (b : Block) (i : Nat) : Nat := (mget (1 : BitVec 2) b.lsmode i).toNat

/-- R135: whether a bank switch is in progress or waits. -/
def bankBusy (b : Block) (i : Nat) : Bool := b.switches.any fun x => x.1 == i

/-- R133: whether n bytes from an offset lie in banks of the window in SCRATCH mode. -/
def inWindow (b : Block) (off n : Nat) : Bool :=
  decide (off + n ≤ b.lstore * 32768) && bankMode b (off / 32768) == 1 && bankMode b ((off + n - 1) / 32768) == 1

/-- R133, R135: whether an access must wait for a bank switch. -/
def windowBusy (b : Block) (off n : Nat) : Bool :=
  decide (off + n ≤ b.lstore * 32768) && (bankBusy b (off / 32768) || bankBusy b ((off + n - 1) / 32768))

/-- R223: whether scratch bytes stand in a poisoned 8-byte granule. -/
def scratchPoisoned (b : Block) (off n : Nat) : Bool :=
  mget false b.scratchPoison (off / 8) || mget false b.scratchPoison ((off + n - 1) / 8)

/-- R153, R133, R223: the checks of a scratch access of n bytes to a block: ALIGN, then LSR, then SOFTERR for a read. -/
def checkScratch (b : Block) (n : Nat) (read : Bool) (l : List (Option (BitVec 5) × Nat)) : Except Halt Unit :=
  match l.find? fun x => x.2 % n != 0 with
  | some x => .error (.trap (memTrap 2 0 x.1 (BitVec.ofNat 72 x.2)))
  | none =>
    if l.any fun x => windowBusy b x.2 n then .error (.wait .bank)
    else match l.find? fun x => !inWindow b x.2 n with
      | some x => .error (.trap (memTrap 3 0 x.1 (BitVec.ofNat 72 x.2)))
      | none => match l.find? fun x => read && scratchPoisoned b x.2 n with
        | some x => .error (.trap (memTrap 12 3 x.1 0))
        | none => .ok ()

/-- The n scratch bytes of a block from an offset. -/
def scratchBytes (b : Block) (off n : Nat) : List Byte := (List.range n).map fun k => mget 0 b.scratch (off + k)

/-- Whether n bytes from an offset of a block's scratch take in the byte at off. -/
def within (uid lo n : Nat) (u off : Nat) : Bool := uid == u && decide (lo ≤ off) && decide (off < lo + n)

/-- R166: the number that stands for a command yet to be issued; a handle's number is below it (R183). -/
def unissued : Nat := 256

/-- R157, R166, R167: whether an access of n bytes at lo by the group in focus need not see an element that an engine has
written: the group has not observed the command, no byte of the access has been read at its new value, and less than 2,048
cycles have gone by since a command that has been issued wrote it (log entry 44). -/
def unseen (s : State) (lo n : Nat) (x : Loose) : Bool :=
  (x.cmdNum == unissued || decide (x.age < 2048)) && !(x.seen.any fun y => y == (s.g.uid, s.g.slot)) &&
    !(x.known.any fun o => within x.uid lo n x.uid o)

/-- The elements that cover a byte of an access and that the group in focus need not see, oldest first; one that it sees hides
those before it. -/
def looseOver (s : State) (uid lo n off : Nat) : List Loose :=
  s.loose.foldl (fun l x =>
    if within x.uid x.off x.old.length uid off then (if unseen s lo n x then l ++ [x] else []) else l) []

/-- The widest of some elements. -/
def widest (x : Loose) (l : List Loose) : Loose := l.foldl (fun a b => if a.old.length < b.old.length then b else a) x

/-- R166: the element that a command yet to be issued by the group in focus has written, as `State.early` keeps it. -/
def owedOf (s : State) (x : Loose) : Option Early :=
  if x.cmdNum = unissued then s.early.find? fun e =>
    e.uid == x.uid && e.off == x.off && e.cmd.isNone && e.byUid == s.g.uid && e.bySlot == s.g.slot
  else none

/-- R166: whether an element follows what the group in focus does, for that has yet to issue its command. -/
def owes (s : State) (x : Loose) : Bool := (owedOf s x).isSome

/-- R157, R166, R167: the byte at off of an access of n bytes at lo to a block's scratch, as the group in focus reads it: where an
engine's write is not ordered before the read, its old or its new value, the same for all the bytes of an element; where the group
has yet to issue the command, the old value (log entry 44). -/
def scratchSeen (s : State) (b : Block) (lo n off : Nat) : Byte :=
  match looseOver s b.uid lo n off with
  | [] => mget 0 b.scratch off
  | x :: t =>
    if Config.engineLate s.freeCtr (widest x t).off then (x.old[off - x.off]?).getD 0
    else match (x :: t).find? (owes s) with
      | some y => (y.old[off - y.off]?).getD 0
      | none => mget 0 b.scratch off

/-- The n scratch bytes of a block from an offset as the group in focus reads them. -/
def scratchRead (s : State) (b : Block) (off n : Nat) : List Byte := (List.range n).map fun k => scratchSeen s b off n (off + k)

/-- Whether an access of n bytes at lo has read the byte at off at the value that an element gave it, or at a newer one. -/
def readNew (s : State) (uid lo n off : Nat) (x : Loose) : Bool :=
  match looseOver s uid lo n off with
  | [] => true
  | y :: t => !Config.engineLate s.freeCtr (widest y t).off && !((y :: t).dropWhile fun z => !owes s z).any (· == x)

/-- R161, R166: whether the group in focus reads a byte of an element that its own command, yet to be issued, is to write, once
another has read the element or written over it: then no order of the accesses has the command after this read. -/
def tooLate (s : State) (uid n : Nat) (los : List Nat) : Bool :=
  s.loose.any fun x => (match owedOf s x with
    | some e => e.past || !x.known.isEmpty
    | none => false) &&
    los.any fun lo => (List.range n).any fun k => within x.uid x.off x.old.length uid (lo + k)

/-- R161: the group in focus has made accesses of n bytes, at some offsets, to a block's scratch: what it has seen of an engine's
writes is seen by every later read. -/
def looseRead (s : State) (uid n : Nat) (los : List Nat) : State :=
  let news := fun (x : Loose) => los.flatMap fun lo => ((List.range n).map fun k => lo + k).filter fun o =>
    within x.uid x.off x.old.length uid o && readNew s uid lo n o x
  { s with
    broken := s.broken || tooLate s uid n los
    loose := s.loose.map fun x => { x with known := x.known ++ news x } }

/-- Scratch cells written one after another. -/
def scratchCells (m : List (Nat × Byte)) : List (Nat × Byte) → List (Nat × Byte)
  | [] => m
  | (k, v) :: t => scratchCells (mset 0 m k v) t

/-- R223: the poison of a scratch granule goes when one write covers it. -/
def clearScratchPoison (p : List (Nat × Bool)) (cells : List (Nat × Byte)) : List (Nat × Bool) :=
  p.filter fun e => !((List.range 8).all fun k => cells.any fun c => c.1 == 8 * e.1 + k)

/-- The bytes that an element stands beside, where later writes have taken the place of some. -/
def Loose.over (cells : List (Nat × Byte)) (x : Loose) : Loose :=
  { x with old := (List.range x.old.length).map fun i =>
      match cells.reverse.find? fun c => c.1 == x.off + i with
      | some c => c.2
      | none => (x.old[i]?).getD 0 }

/-- Engine writes to the scratch of a block that every group has seen, or that are gone. A command of the block that has written
ahead of its issue, or into what is gone, does so no more (log entry 44). -/
def dropLooseOf (s : State) (uid : Nat) : State :=
  { s with
    loose := s.loose.filter fun x => x.uid != uid
    early := s.early.filter fun x => x.uid != uid && x.byUid != uid
    broken := s.broken || s.early.any fun x => x.uid == uid || x.byUid == uid }

/-- Scratch cells of a block written, with the poison that goes. -/
def putScratch (s : State) (uid : Nat) (cells : List (Nat × Byte)) : State :=
  updBlk s uid fun b =>
    { b with scratch := scratchCells b.scratch cells, scratchPoison := clearScratchPoison b.scratchPoison cells }

/-- Whether some cells of a block take the place of a byte of an element written ahead of its command. -/
def Early.hit (cells : List (Nat × Byte)) (uid : Nat) (x : Early) : Bool :=
  x.uid == uid && cells.any fun c => within uid x.off x.bytes.length uid c.1

/-- Scratch cells of a block that come after the elements that engines have written there: whatever else an element still hides,
it does not hide them. -/
def overLoose (s : State) (uid : Nat) (cells : List (Nat × Byte)) : State :=
  { s with
    loose := s.loose.map fun x => if x.uid == uid then x.over cells else x
    early := s.early.map fun x => if x.hit cells uid then { x with past := true } else x }

/-- R166: scratch cells of a block that the group in focus writes. Where its own command, yet to be issued, has written there,
no order of the accesses has the command after this write. -/
def groupOver (s : State) (uid : Nat) (cells : List (Nat × Byte)) : State :=
  { overLoose s uid cells with
    broken := s.broken || s.early.any fun x =>
      x.hit cells uid && x.cmd.isNone && x.byUid == s.g.uid && x.bySlot == s.g.slot }

/-- Scratch cells stored to a block by the group in focus. -/
def storeScratch (s : State) (uid : Nat) (cells : List (Nat × Byte)) : State := putScratch (groupOver s uid cells) uid cells

end Sys2Proof.Machine
end

