-- ==== Sys2Proof/Machine/Areas.lean ====
section
/-! DEFINITION. The memory of context areas (R54, R92, R220): bytes put into an area and read back from it, the key under which they
are encrypted (R249), and the entries of a reconvergence stack that live there while their group runs (R54). The areas lie in device
memory that no address space maps, so no access reaches them (log entry 32). -/

namespace Sys2Proof.Machine

/-- Bytes put into an area at an offset. -/
def areaPut (m : List (Nat × Byte)) (off : Nat) (bs : List Byte) : List (Nat × Byte) := msetAll 0 m off bs

/-- Fields put into an area. -/
def areaPuts (m : List (Nat × Byte)) (l : List (Nat × List Byte)) : List (Nat × Byte) := l.foldl (fun m x => areaPut m x.1 x.2) m

/-- The n bytes of an area from an offset, as a number. -/
def areaNat (m : List (Nat × Byte)) (off n : Nat) : Nat := leNat ((List.range n).map fun k => mget 0 m (off + k))

/-- The entries of n bytes each, from a place on and at most `count`, that hold something: index and number. -/
def areaWords (m : List (Nat × Byte)) (off n count : Nat) : List (Nat × Nat) :=
  let l := (m.filter fun e => decide (off ≤ e.1) && decide (e.1 < off + n * count)).map fun e => (e.1 - off) / n
  l.eraseDups.map fun k => (k, areaNat m (off + n * k) n)

/-- The number whose bits are listed. -/
def bitsNat (l : List (Nat × Bool)) : Nat := sumOf (l.map fun e => if e.2 then 2 ^ e.1 else 0)

/-- The bits of a number below n that are set. -/
def natBits (n x : Nat) : List (Nat × Bool) := ((List.range n).filter fun i => decide (x / 2 ^ i % 2 = 1)).map fun i => (i, true)

/-- R54: the 32 bytes of a reconvergence-stack entry. -/
def entryBytes (e : StackEntry) : List Byte :=
  leBytes 8 (e.rejoin.toNat % 2 ^ 64) ++ leBytes 8 (e.taken.toNat % 2 ^ 64) ++ leBytes 1 (e.rejoin.toNat / 2 ^ 64) ++
    leBytes 3 (e.taken.toNat / 2 ^ 64) ++ leBytes 4 e.pending.toNat ++ leBytes 4 e.exec.toNat ++ leBytes 4 e.fmt.toNat

/-- R54: a reconvergence-stack entry read back into hardware. -/
def entryFrom (m : List (Nat × Byte)) (off : Nat) : StackEntry where
  rejoin := BitVec.ofNat 72 (areaNat m off 8 + areaNat m (off + 16) 1 * 2 ^ 64)
  taken := BitVec.ofNat 72 (areaNat m (off + 8) 8 + areaNat m (off + 17) 1 * 2 ^ 64)
  pending := BitVec.ofNat 32 (areaNat m (off + 20) 4)
  exec := BitVec.ofNat 32 (areaNat m (off + 24) 4)
  fmt := BitVec.ofNat 32 (areaNat m (off + 28) 4)
  tag := 0

/-- The key of the area of a group, and with slot 32 that of a block. -/
def areaKey (uid slot : Nat) : Nat := 33 * uid + slot

/-- The place of an area among those of `Config.garbled`. -/
def areaPlace (uid slot : Nat) : Nat := 2 ^ 41 + 2 ^ 24 * areaKey uid slot

/-- R54, R220: the key under which the context areas of a function's groups and blocks are encrypted now, with its generation; 1
where the slot holds none. -/
def areaTag (s : State) (vf : Nat) : Nat :=
  let k := (getFunc s vf).key.toNat
  if k = 0 ∨ mget false s.keys k = true then 2 + k + 256 * mget 0 s.keyGen k else 1

/-- R54, R92: the part of an area that is written at one time: the furrow region of partition p of a block's area is part 1 + p,
the rest part 0. -/
def areaPart (slot o : Nat) : Nat := if slot = 32 ∧ 0x1000 ≤ o ∧ o < 0x15000 then 1 + (o - 0x1000) / 0x5000 else 0

/-- The key of a part of an area in `State.areaTags`. -/
def areaPartKey (uid slot part : Nat) : Nat := 8 * areaKey uid slot + part

/-- Parts of an area come to be encrypted under a function's key. -/
def tagParts (s : State) (uid slot vf : Nat) (parts : List Nat) : State :=
  { s with areaTags := parts.foldl (fun l p => mset 0 l (areaPartKey uid slot p) (areaTag s vf)) s.areaTags }

/-- R54, R220, R249: a byte of an area as it is read under a tag: where it was written under another, it comes out as something
else (log entry 43). -/
def areaByte (s : State) (uid slot v o : Nat) : Byte :=
  let m := mget [] s.areas (areaKey uid slot)
  let t := mget 0 s.areaTags (areaPartKey uid slot (areaPart slot o))
  if t = v then mget 0 m o
  else Config.garbled t v ((List.range 128).map fun k => mget 0 m (o - o % 128 + k)) (areaPlace uid slot + o)

/-- R54, R220: a part of an area of n bytes as its function's key shows it; what stands beyond it is not looked at. -/
def areaView (s : State) (uid slot part n : Nat) : List (Nat × Byte) :=
  let v := areaTag s (findBlk s uid).vf
  if mget 0 s.areaTags (areaPartKey uid slot part) = v then mget [] s.areas (areaKey uid slot)
  else (List.range n).map fun o => (o, areaByte s uid slot v o)

/-- R222: the bytes of an area that an uncorrectable error has struck: the spec gives no reading of a poisoned word of an area,
and they are free values (log entry 45). -/
def lostBytes (s : State) (o n : Nat) : List Byte := (List.range n).map fun k => Config.garbled 0 (1 + s.freeCtr) [] (o + k)

/-- The tag of a stack entry that an uncorrectable error has struck, no key's. -/
def lostTag (s : State) : Nat := 2 ^ 60 + s.freeCtr

/-- R54, R249: a stack entry that comes back to hardware, read under a tag. The cipher works on blocks of 16 bytes, so that what
comes out of an entry depends on its own bytes alone. -/
def entryUnder (v place : Nat) (e : StackEntry) : StackEntry :=
  if e.tag = v then { e with tag := 0 }
  else entryFrom ((List.range 32).map fun k => (k, Config.garbled e.tag v (entryBytes e) (place + k))) 0

/-- R54: a stack entry in its place, x.2 from the newest: the newest 16 are held in hardware, the others live in the area. -/
def placeEntry (v place : Nat) (x : StackEntry × Nat) : StackEntry :=
  if x.2 < 16 then (if x.1.tag = 0 then x.1 else entryUnder v place x.1)
  else if x.1.tag = 0 then { x.1 with tag := v } else x.1

/-- R54: a stack, newest entry first, whose entries stand where they belong. -/
def placeStack (v uid slot : Nat) (l : List StackEntry) : List StackEntry :=
  l.zipIdx.map fun x => placeEntry v (areaPlace uid slot + 0xD00 + 32 * (l.length - 1 - x.2)) x

/-- R54: a group whose stack has changed: entries beyond the newest 16 go to its area, and come back from there. -/
def placeDeep (s : State) (g : Group) : Group :=
  { g with ctx := { g.ctx with stack := placeStack (areaTag s (findBlk s g.uid).vf) g.uid g.slot g.ctx.stack } }

/-- R54: the group in focus, whose stack has changed. -/
def settleStack (s : State) : State := modG s (placeDeep s)

/-- R54, R222: the entry i of a stack, the oldest being 0, struck in the area; those in hardware are untouched. -/
def strikeDeep (s : State) (i : Nat) (l : List StackEntry) : List StackEntry :=
  l.zipIdx.map fun x => if x.2 + i + 1 = l.length ∧ x.1.tag ≠ 0 then { x.1 with tag := lostTag s } else x.1

end Sys2Proof.Machine
end

