-- ==== Sys2Proof/Machine/Sets.lean ====
section
/-! DEFINITION. Performance counters (R45), what a group that does not retire waits for, and the active and pending set of a
partition: which group may issue, swaps, vacancies and boosts (R32, R205). -/

namespace Sys2Proof.Machine

/-- R45: n counts of event e. -/
def countEvt (e n : Nat) (g : Group) : Group :=
  { g with pmc := (List.range 16).foldl (fun m i =>
      if (mget 0 g.pmcProg i).toNat = 2 * e + 1 then mset 0 m i (mget 0 m i + BitVec.ofNat 64 n) else m) g.pmc }

/-- The event codes of R45. -/
def evIssue : Nat := 0x01

/-- CYCLES (R45). -/
def evCycles : Nat := 0x02

/-- FETCH_STALL (R45). -/
def evFetchStall : Nat := 0x03

/-- MASK_PRED (R45). -/
def evMaskPred : Nat := 0x04

/-- MASK_MISS (R45). -/
def evMaskMiss : Nat := 0x05

/-- LANE_REPLAY (R45). -/
def evLaneReplay : Nat := 0x06

/-- FURROW_CYCLES (R45). -/
def evFurrowCycles : Nat := 0x07

/-- RDV_WAIT (R45). -/
def evRdvWait : Nat := 0x08

/-- BANK_CAP_WAIT (R45). -/
def evBankCap : Nat := 0x09

/-- SWAP (R45). -/
def evSwap : Nat := 0x0A

/-- PWR_DEFER (R45). -/
def evPwrDefer : Nat := 0x0B

/-- FALLOW_OPS (R45). -/
def evFallow : Nat := 0x0C

/-- SB_WAIT (R45). -/
def evSbWait : Nat := 0x0D

/-- R49: every outstanding fixed-latency write has landed; coverage stays a matter of the counts. -/
def landAll (l : List Pend) : List Pend := l.map fun p => { p with landed := true }

/-- R48: something lengthens the gap after every producer still on its way. -/
def loosen (l : List Pend) : List Pend := l.map fun p => { p with loose := true }

/-- Whether a command is final (R184). -/
def Cmd.isFinal (k : Cmd) : Bool := k.state == .done || k.state == .cancelled || k.state == .rejected

/-- R182: the live handles of the blocks on a core. -/
def coreHandles (s : State) (core : Nat) : Nat :=
  (((allBlocks s).filter fun b => b.core == core && (b.phase == .resident || b.phase == .stopping)).map
    fun b => b.cmds.length).foldl (· + ·) 0

/-- R182 step 2: whether a block and its core have a handle left. -/
def handlesLeft (s : State) (b : Block) : Bool := decide (coreHandles s b.core < 256) && decide (b.cmds.length < 256)

/-- R191: whether a live SPILL of a group has yet to read one of some registers. -/
def spillReads (b : Block) (slot : Nat) (regs : List Nat) : Bool :=
  b.cmds.any fun k => k.kind == 5 && k.slot == slot && (k.state == .pending || k.state == .faultedRetry) &&
    regs.any fun r => decide (k.first + k.stop ≤ r) && decide (r < k.first + k.count)

/-- R191: whether one of the registers that an instruction names awaits a FILL, or one that it writes a SPILL. -/
def enginesHold (b : Block) (slot : Nat) (fillPend : List (Nat × Bool)) (named written : List Nat) : Bool :=
  (named.any fun r => mget false fillPend r) || spillReads b slot written

/-- R113: whether a core's cube queue has room. -/
def cubeRoom (s : State) (core : Nat) : Bool := decide ((getCore s core).cubeQ.length < 4)

/-- Whether a group still waits for what its instruction found missing. -/
def stillWaits (s : State) (g : Group) : Bool :=
  let b := findBlk s g.uid
  match g.waitOn with
  | .nothing => false
  | .bank => (spanBlocks s b).any fun x => !x.switches.isEmpty
  | .room n => decide (256 ≤ (mget [] b.fifo n).length)
  | .entry n => (mget [] b.fifo n).isEmpty && bankMode b n == 2
  | .handle u n gen => (findBlk s u).cmds.any fun k => k.num == n && k.gen == gen && !k.isFinal
  | .port p => decide (256 ≤ (getPort s p).queue.length)
  | .cube c => !cubeRoom s c
  | .handles => !handlesLeft s b
  | .operand named written => enginesHold b g.slot g.ctx.fillPend named written
  | .furrow => match (getPart s (partKey b.core g.part)).furrow with
    | some f => !g.fown || f.suspended
    | none => false

/-- R205: the waits for which an active group is swapped out: a QPUSH or QPOP, a WAITH, or a LAUNCH that does not retire. -/
def WaitOn.swaps : WaitOn → Bool
  | .nothing => false
  | .bank => false
  | .room _ => true
  | .entry _ => true
  | .handle _ _ _ => true
  | .port _ => true
  | .cube _ => false
  | .handles => false
  | .operand _ _ => false
  | .furrow => false

/-- Whether a group could issue if it were active: its block is resident, it is ready, not parked, and waits for nothing. -/
def isReady (s : State) (g : Group) : Bool :=
  (findBlk s g.uid).phase == .resident && g.run == .ready && !g.parked && !stillWaits s g

/-- Whether a pair stands in a list of groups. -/
def hasPair (l : List (Nat × Nat)) (uid slot : Nat) : Bool := l.any fun x => x.1 == uid && x.2 == slot

/-- A list of groups without one. -/
def dropPair (l : List (Nat × Nat)) (uid slot : Nat) : List (Nat × Nat) := l.filter fun x => !(x.1 == uid && x.2 == slot)

/-- R205: whether group x is older than group y: by admission cycle, then slot. -/
def older (s : State) (x y : Nat × Nat) : Bool :=
  let ax := (findBlk s x.1).admitted
  let ay := (findBlk s y.1).admitted
  decide (ax < ay) || (ax == ay && decide (x.2 ≤ y.2))

/-- The oldest of a list of groups. -/
def oldest (s : State) : List (Nat × Nat) → Option (Nat × Nat)
  | [] => none
  | x :: t => match oldest s t with
    | none => some x
    | some y => some (if older s x y then x else y)

/-- The ready groups of a list. -/
def readyOf (s : State) (l : List (Nat × Nat)) : List (Nat × Nat) := l.filter fun x => isReady s (findGroup s x.1 x.2)

/-- R32: the groups of a list that have been ready and unissued for 256 cycles. -/
def boostedOf (s : State) (l : List (Nat × Nat)) : List (Nat × Nat) :=
  l.filter fun x => decide (256 ≤ (findGroup s x.1 x.2).waited)

/-- R359: whether a group stands aside in a partition after a YIELD. -/
def asideIn (p : Part) (uid slot : Nat) : Bool := p.yielded.any fun x => x.1 == uid && x.2.1 == slot

/-- R32, R205, R359: the group of a partition that issues next: of the boosted ready active groups the oldest; else the oldest
ready active group that does not stand aside, as one does only while another is ready. -/
def nextIssue (s : State) (k : Nat) : Option (Nat × Nat) :=
  let p := getPart s k
  match readyOf s p.active with
  | [x] => some x
  | l => match oldest s (boostedOf s l) with
    | some x => some x
    | none => oldest s (l.filter fun x => !asideIn p x.1 x.2)

/-- A group enters the active set of a partition. -/
def enterActive (s : State) (k : Nat) (x : Nat × Nat) : State :=
  let s1 := modPart s k fun p => { p with active := p.active ++ [x], pending := dropPair p.pending x.1 x.2 }
  updGroup s1 x.1 x.2 fun g => { g with since := s.clock, waited := 0 }

/-- R205: a vacancy of the active set is filled by the oldest ready pending group. -/
def fillVacancy (s : State) (k : Nat) : State :=
  if 8 ≤ (getPart s k).active.length then s
  else match oldest s (readyOf s (getPart s k).pending) with
    | none => s
    | some x => enterActive s k x

/-- A group leaves the active and pending sets of a partition for good (R30). -/
def leaveSets (s : State) (k uid slot : Nat) : State :=
  fillVacancy (modPart s k fun p =>
    { p with active := dropPair p.active uid slot, pending := dropPair p.pending uid slot }) k

/-- R205: whether a group may be swapped out: active, without an open window (R67), not parked (R89). -/
def maySwap (s : State) (k uid slot : Nat) : Bool :=
  let g := findGroup s uid slot
  hasPair (getPart s k).active uid slot && g.window.isNone && !g.parked

/-- R205, R278: whether a group is due to be swapped out: it has met an instruction for which R205 has it swapped out, or waits
at a rendezvous or at a barrier, where a participant lacking counts as a predicted wait above 64 cycles (log entry 22). -/
def swapWanted (g : Group) : Bool :=
  g.swapDue || match g.run with
    | .atLatch _ _ _ => true
    | .atBar _ => true
    | .atSpanBar _ => true
    | _ => false

/-- R205: a group is swapped out to the pending set; its outstanding fixed-latency writes land first (R49), and what it waits
there counts from now. -/
def swapOut (s : State) (k uid slot : Nat) : State :=
  let s1 := modPart s k fun p => { p with active := dropPair p.active uid slot, pending := p.pending ++ [(uid, slot)] }
  updGroup s1 uid slot fun g =>
    { countEvt evSwap 1 g with swapDue := false, waited := 0, ctx := { g.ctx with pend := landAll g.ctx.pend } }

/-- R205, R3: whether a group may not be swapped out yet: the pending set is full, and no ready group would leave it. -/
def pendingFull (s : State) (k uid slot : Nat) : Bool :=
  let p := getPart s k
  decide (24 ≤ p.pending.length) && (readyOf s p.pending).isEmpty && !isReady s (findGroup s uid slot)

/-- R205: a swap: the vacancy is filled by the oldest group that was ready and pending when it arose, or else by the group
itself where it is ready. A group for which the pending set has no room stays active until there is some (log entry 22). -/
def swapFor (s : State) (k uid slot : Nat) : State :=
  if pendingFull s k uid slot then s
  else
    let p := getPart s k
    let s1 := swapOut s k uid slot
    match oldest s1 (readyOf s1 (dropPair p.pending uid slot)) with
    | some x => if 8 ≤ (getPart s1 k).active.length then s1 else enterActive s1 k x
    | none => fillVacancy s1 k

/-- R205: the active group that has been active longest. -/
def longest (s : State) : List (Nat × Nat) → Option (Nat × Nat)
  | [] => none
  | x :: t => match longest s t with
    | none => some x
    | some y => some (if (findGroup s x.1 x.2).since ≤ (findGroup s y.1 y.2).since then x else y)

/-- R205: the ready group that has waited 4,096 cycles in the pending set takes the place of the group that has been active
longest. DESIGN CHOICE: of one that may not be swapped out now (R67, R89) R205 says nothing here; the model passes it over and
takes the longest active of the others (log entry 22). -/
def starvationSwap (s : State) (k uid slot : Nat) : State :=
  match longest s ((getPart s k).active.filter fun x => maySwap s k x.1 x.2) with
  | none => s
  | some x => enterActive (swapOut s k x.1 x.2) k (uid, slot)

/-- R205: the oldest ready group that has been pending for 4,096 cycles. -/
def starved (s : State) (k : Nat) : Option (Nat × Nat) :=
  oldest s ((readyOf s (getPart s k).pending).filter fun x => decide (4096 ≤ (findGroup s x.1 x.2).waited))

/-- Vacancies filled while there is one and a group that may fill it, at most n of them. -/
def fillAll (s : State) (k : Nat) : Nat → State
  | 0 => s
  | n + 1 => fillAll (fillVacancy s k) k n

/-- R205: what the scheduler of a partition does before it chooses a group: the swaps that are due, the vacancies, and the
swap for a group that has waited too long. -/
def schedule (s : State) (k : Nat) : State :=
  let s1 := (getPart s k).active.foldl (fun acc x =>
    if swapWanted (findGroup acc x.1 x.2) && maySwap acc k x.1 x.2 then swapFor acc k x.1 x.2 else acc) s
  let s2 := fillAll s1 k 8
  match starved s2 k with
  | some x => starvationSwap s2 k x.1 x.2
  | none => s2

end Sys2Proof.Machine
end

