-- ==== Sys2Proof/Machine/Power.lean ====
section
/-! DEFINITION. What the dispatcher weighs: the room of a core (R17, R19, R20, R23), the power headroom of a die and its
reservation (R207, R254), what stands at the front of a queue (R25, R203), and where it is placed (R199). -/

namespace Sys2Proof.Machine

/-- R207: the energy figure of an energy class in quarter watts. -/
def energyQuarters (e : BitVec 3) : Nat := ([1, 2, 4, 8, 12, 18, 24, 32][e.toNat]?).getD 0

/-- Whether a block holds group slots, registers and rows of its core. -/
def holdsRoom (b : Block) : Bool :=
  b.phase == .reserved || b.phase == .latched || b.phase == .admitted || b.phase == .resident || b.phase == .stopping

/-- Whether a block holds banks of its core (R24). -/
def holdsBanks (b : Block) : Bool := holdsRoom b || b.phase == .complete || b.phase == .leaving

/-- R17: the banks of a core that no block owns, ascending. -/
def freeBanks (s : State) (core : Nat) : List Nat :=
  ((List.range 16).drop 1).filter fun i => !(allBlocks s).any fun b => b.core == core && holdsBanks b && hasNat b.banks i

/-- The blocks of a core that hold room, but for those of a list. -/
def blocksOn (s : State) (gone : List Nat) (core : Nat) : List Block :=
  (allBlocks s).filter fun b => b.core == core && holdsRoom b && !hasNat gone b.uid

/-- R19: the groups of a block of n groups that stand in a partition. -/
def partShare (pstart n p : Nat) : Nat := ((List.range n).filter fun j => (pstart + j) % 4 == p).length

/-- R20: the groups that blocks place in a partition. -/
def partGroups (bs : List Block) (p : Nat) : Nat := sumOf (bs.map fun b => partShare b.pstart b.groups p)

/-- R20: the registers that a block of n groups takes in a partition. -/
def partCost (pstart n regs fpool p : Nat) : Nat :=
  if partShare pstart n p = 0 then 0 else partShare pstart n p * regs + fpool / 32

/-- R20: the registers that blocks take in a partition. -/
def partRegs (bs : List Block) (p : Nat) : Nat := sumOf (bs.map fun b => partCost b.pstart b.groups b.regs b.fpool p)

/-- What is to be placed: resources per block (R17), span size, class, energy figure, function, whether each block needs a new
stack frame, and the starting partitions recorded for a restore (R221). -/
structure Demand where
  groups : Nat
  regs : Nat
  lstore : Nat
  accrows : Nat
  fpool : Nat
  size : Nat
  cls : BitVec 2
  quarter : Nat
  vf : Nat
  frame : Bool
  pstarts : List Nat
  deriving DecidableEq, Repr

/-- R20: whether a block fits beside others of a core from a starting partition. `banks` are those not owned. -/
def fitsWith (bs : List Block) (banks : Nat) (d : Demand) (pstart : Nat) : Bool :=
  decide (bs.length < 32) && decide (d.lstore ≤ banks) && decide (sumOf (bs.map (·.accrows)) + d.accrows ≤ 128) &&
    (List.range 4).all fun p => partShare pstart d.groups p == 0 ||
      (decide (partGroups bs p + partShare pstart d.groups p ≤ 32) &&
        decide (partRegs bs p + partCost pstart d.groups d.regs d.fpool p ≤ 1024))

/-- R19: the partition of a core with the fewest groups, the lowest-numbered among equals. -/
def fewest (bs : List Block) : Nat :=
  (List.range 4).foldl (fun m p => if partGroups bs p < partGroups bs m then p else m) 0

/-- R19, R20: the starting partition with which a member of the demand fits on a core, or none. -/
def placeCore (s : State) (gone : List Nat) (core : Nat) (d : Demand) (member : Nat) : Option Nat :=
  let bs := blocksOn s gone core
  let owned := sumOf (((allBlocks s).filter fun b => b.core == core && holdsBanks b && !hasNat gone b.uid).map (·.lstore))
  let p := (d.pstarts[member]?).getD (fewest bs)
  if fitsWith bs (15 - owned) d p then some p else none

/-- R18: whether one block fits on an empty core (R20). -/
def fitsEmpty (d : Demand) : Bool := fitsWith [] 15 d 0

/-- R23, R199: the choices of n cores of a cluster, lowest-numbered first, positions in ascending order. -/
def corePicks (n : Nat) : List (List Nat) :=
  if n = 1 then [[0], [1], [2], [3]]
  else if n = 2 then [[0, 1], [0, 2], [0, 3], [1, 2], [1, 3], [2, 3]]
  else [[0, 1, 2, 3]]

/-- The members of a demand on cores, from a member number on. -/
def placeMembers (s : State) (gone : List Nat) (d : Demand) : Nat → List Nat → Option (List (Nat × Nat))
  | _, [] => some []
  | k, core :: t => match placeCore s gone core d k with
    | none => none
    | some p => match placeMembers s gone d (k + 1) t with
      | none => none
      | some l => some ((core, p) :: l)

/-- R23, R199: where a cluster takes the demand: core and starting partition of each member. -/
def placeCluster (s : State) (gone : List Nat) (cl : Nat) (d : Demand) : Option (List (Nat × Nat)) :=
  (corePicks d.size).findSome? fun cs => placeMembers s gone d 0 (cs.map fun c => 4 * cl + c)

/-- R199: the lowest-numbered core or cluster of a die that takes the demand. -/
def placeDie (s : State) (die : Nat) (d : Demand) : Option (List (Nat × Nat)) :=
  (List.range 16).findSome? fun c => placeCluster s [] (16 * die + c) d

/-- R254: the factor by which the governor scales the budgets, as numerator and denominator. -/
def budScale (s : State) : Nat × Nat :=
  let t := sumOf ((List.range 4).map fun d => (getDie s d).bud)
  if 2850 < t then (2850, t) else (1, 1)

/-- The blocks resident on a die (R207). -/
def blocksOnDie (s : State) (die : Nat) : List Block := (allBlocks s).filter fun b => dieOf b.core == die && holdsRoom b

/-- R207: the headroom of a die, in quarter watts times the denominator of `budScale`. -/
def headroom (s : State) (die : Nat) : Int :=
  let x := budScale s
  ((x.1 * 4 * (getDie s die).bud : Nat) : Int) -
    ((x.2 * (4 * (getDie s die).base + sumOf ((blocksOnDie s die).map fun b => energyQuarters b.energy)) : Nat) : Int)

/-- The byte offset in a launch record (R193). -/
def recField (r : BitVec 512) (off n : Nat) : Nat := r.toNat / 2 ^ (8 * off) % 2 ^ (8 * n)

/-- The launch id of a record. -/
def recLid (r : BitVec 512) : Nat := recField r 60 4

/-- R193: the span size of a record. -/
def recSpan (r : BitVec 512) : Nat :=
  if recField r 29 1 / 32 % 4 = 0 then 1 else if recField r 29 1 / 32 % 4 = 1 then 2 else 4

/-- R193: the extents of a record in x, y and z. -/
def recGrid (r : BitVec 512) : Nat × Nat × Nat := (recField r 12 4 + 1, recField r 16 4 + 1, recField r 20 4 + 1)

/-- R25: the number of blocks of a grid. -/
def gridSize (g : Nat × Nat × Nat) : Nat := g.1 * g.2.1 * g.2.2

/-- The block of a list with the least span position. -/
def firstMember : List Block → Option Block
  | [] => none
  | b :: t => match firstMember t with
    | none => some b
    | some c => some (if c.spanPos.toNat < b.spanPos.toNat then c else b)

/-- R203: the block of a list that was pre-empted last. -/
def lastSaved : List Block → Option Block
  | [] => none
  | b :: t => match lastSaved t with
    | none => some b
    | some c => some (if b.saveNo < c.saveNo then c else b)

/-- R23: the members of a span in order of position. -/
def spanMembers (s : State) (b : Block) : List Block :=
  (List.range 4).filterMap fun p => (spanBlocks s b).find? fun x => x.spanPos.toNat == p

/-- R25, R199, R203: the front of a port's queue. A pre-empted block stands ahead of undispatched ones, the one pre-empted last
first; while a block of the port is being pre-empted, nothing is placed. -/
def frontOf (s : State) (port : Nat) : Front :=
  let l := (allBlocks s).filter fun b => b.port == port
  match firstMember (l.filter fun b => b.phase == .reserved) with
  | some b => .latch b.uid
  | none =>
    if l.any fun b => b.phase == .stopping || b.phase == .leaving then .idle
    else match lastSaved (l.filter fun b => b.phase == .saved) with
      | some b => .restore ((spanMembers s b).map (·.uid))
      | none =>
        let p := getPort s port
        match p.checked with
        | none => .idle
        | some key => match findLaunch s key with
          | none => .idle
          | some n => if n.state = .active ∧ p.waitw = false ∧ n.next < gridSize (recGrid n.record) then .fresh key else .idle

/-- R207: the reservation of a die that is not that of a port's front, in quarter watts. -/
def otherResv (s : State) (die port : Nat) : Nat :=
  match (getDie s die).resv with
  | some r => if r.port = port ∧ r.front = frontOf s port then 0 else r.quarter
  | none => 0

/-- R207: whether the die holds the reservation of a port's front. -/
def ownResv (s : State) (die port : Nat) : Bool :=
  match (getDie s die).resv with
  | some r => r.port == port && r.front == frontOf s port
  | none => false

/-- R208: whether a die defers blocks of energy class 4 to 7: in TIGHT and above. -/
def isTight (s : State) (die : Nat) : Bool := (getDie s die).gov != .normal

/-- R207, R208: whether power admits the demand of a port on a die. -/
def powerOk (s : State) (port : Nat) (d : Demand) (high : Bool) (die : Nat) : Bool :=
  d.cls == 0 ||
    (decide ((((d.size * d.quarter + otherResv s die port) * (budScale s).2 : Nat) : Int) ≤ headroom s die) &&
      !(isTight s die && high)) ||
    (ownResv s die port && (blocksOnDie s die).all fun b => b.cls == 0)

/-- What placing a demand comes to (R199, R207). -/
inductive Choice where
  | noRoom
  | deferred
  | at (l : List (Nat × Nat))
  deriving DecidableEq, Repr

/-- R199: of several dies, the one with the most headroom, the lowest-numbered among equals. -/
def roomiest (s : State) : List (Nat × List (Nat × Nat)) → Option (Nat × List (Nat × Nat))
  | [] => none
  | x :: t => match roomiest s t with
    | none => some x
    | some y => some (if headroom s y.1 > headroom s x.1 then y else x)

/-- R199, R207: where the demand of a port goes. -/
def choosePlace (s : State) (port : Nat) (d : Demand) : Choice :=
  let opts := (List.range 4).filterMap fun die => (placeDie s die d).map fun l => (die, l)
  if opts.isEmpty then .noRoom
  else match roomiest s (opts.filter fun x => powerOk s port d (decide (12 ≤ d.quarter)) x.1) with
    | none => .deferred
    | some x => .at x.2

/-- R193: what a record asks for. -/
def recDemand (r : BitVec 512) (vf : Nat) (frame : Bool) : Demand where
  groups := recField r 24 1
  regs := 8 * recField r 25 1
  lstore := recField r 26 1
  accrows := 16 * recField r 27 1
  fpool := 128 * recField r 28 1
  size := recSpan r
  cls := BitVec.ofNat 2 (recField r 29 1)
  quarter := energyQuarters (BitVec.ofNat 3 (recField r 29 1 / 4))
  vf := vf
  frame := frame
  pstarts := []

/-- R221: what a saved span asks for, its members in order of position. DESIGN CHOICE: the rules do not say what room the restore
asks for a member that was already complete (R24 has released its slots, registers and rows); the model asks what the launch asks
for every member alike (log entry 46). -/
def savedDemand (l : List Block) : Demand :=
  let b := l.headD Block.none
  { groups := b.groups, regs := b.regs, lstore := b.lstore, accrows := b.accrows, fpool := b.fpool, size := l.length,
    cls := b.cls, quarter := energyQuarters b.energy, vf := b.vf, frame := false, pstarts := l.map (·.pstart) }

/-- R22: the stack frames that a function still has to give, those for blocks latched and not yet admitted set aside. -/
def framesLeft (s : State) (vf : Nat) : Nat :=
  let bs := (allBlocks s).filter fun b => b.vf == vf
  let held := (bs.filter fun b => b.frame.isSome).length
  let due := (bs.filter fun b => (b.phase == .reserved || b.phase == .latched) && b.frame.isNone && b.stack != 0).length
  (getFunc s vf).stkcount.toNat - held - due

/-- What the front of a port's queue asks for, none where it is to wait for something else than room. -/
def frontDemand (s : State) (port : Nat) : Option Demand :=
  match frontOf s port with
  | .idle => none
  | .latch _ => none
  | .restore us => some (savedDemand (us.map (findBlk s)))
  | .fresh key => match findLaunch s key with
    | none => none
    | some n =>
      let frame := n.kernel.stack != 0
      if frame && decide (framesLeft s n.vf < recSpan n.record) then none else some (recDemand n.record n.vf frame)

/-- R207: of the dies that hold no reservation, the one with the most headroom. -/
def freeDie (s : State) : Option Nat :=
  (roomiest s (((List.range 4).filter fun d => (getDie s d).resv.isNone).map fun d => (d, []))).map (·.1)

/-- R207: reservations taken by eligible blocks that hold none, in the order in which they were first deferred; one that does not
stand at the front of its queue takes none. -/
def grantReservations (s : State) : State :=
  s.deferred.foldl (fun s x =>
    if x.eligible && x.front == frontOf s x.port && !((List.range 4).any fun d => ownResv s d x.port) then
      match freeDie s, frontDemand s x.port with
      | some die, some d => modDie s die fun y => { y with resv := some ⟨x.port, x.front, d.cls, d.size * d.quarter⟩ }
      | _, _ => s
    else s) s

/-- R207: some blocks of a port are deferred no longer: admitted, cancelled or aborted. Their reservations pass on. -/
def dropDeferral (s : State) (port : Nat) (gone : Front → Bool) : State :=
  let s1 := { s with deferred := s.deferred.filter fun x => !(x.port == port && gone x.front) }
  let s2 := modPort s1 port fun p => { p with pwrw := s1.deferred.any fun x => x.port == port }
  grantReservations ((List.range 4).foldl (fun s d =>
    modDie s d fun x => { x with resv := x.resv.filter fun r => !(r.port == port && gone r.front) }) s2)

/-- R209: the time that counts towards the bounds given in microseconds: none passes while the device is frozen. -/
def liveClock (s : State) : Nat := s.clock - s.frozenTime

/-- R207: a block that has been deferred for 100 µs (150,000 counts of the reference time base) and is not eligible yet. -/
def ripe (s : State) (x : Deferral) : Bool := !x.eligible && decide (150000 ≤ liveClock s - x.since)

/-- R207: the blocks that have been deferred for 100 µs are eligible and take reservations. -/
def ripen (s : State) : State :=
  if s.deferred.any (ripe s) then
    grantReservations { s with deferred := s.deferred.map fun x => if ripe s x then { x with eligible := true } else x }
  else s

/-- R207: a queue holds at most one deferred block, at its head: one that a pre-empted block has displaced from there is
deferred no longer, and starts anew when it is deferred again (log entry 34). -/
def dropDisplaced (s : State) (port : Nat) : State :=
  let front := frontOf s port
  if front != .idle && s.deferred.any fun x => x.port == port && x.front != front then dropDeferral s port fun x => x != front
  else s

/-- R207: the front of a port is deferred for power. -/
def markDeferred (s0 : State) (port : Nat) : State :=
  let s := dropDisplaced s0 port
  if s.deferred.any fun x => x.port == port && x.front == frontOf s port then s
  else modPort { s with deferred := s.deferred ++ [⟨port, frontOf s port, liveClock s, false⟩] } port fun p => { p with pwrw := true }

end Sys2Proof.Machine
end

