-- ==== Sys2Proof/Machine/Launching.lean ====
section
/-! DEFINITION. What the device writes towards the host and how launches end: fault records (R154, R248), completion entries
(R195, R206), discarding blocks (R201, R216), the end of a furrow (R91). -/

namespace Sys2Proof.Machine

/-- R226: a source number. -/
def mcSource (die type index : Nat) : Nat := die % 4 * 2 ^ 14 + type % 8 * 2 ^ 11 + index % 2 ^ 11

/-- A 32-bit counter that saturates (R226). -/
def satInc (x : BitVec 32) : BitVec 32 := if x = BitVec.allOnes 32 then x else x + 1

/-- R227, R228: a machine-check event, in one indivisible step. `flags` is byte 11 of R225, `g` the group concerned. -/
def mcEvent (s : State) (die type index kind flags : Nat) (addr : Addr) (synd : Nat) (vf core part slot : Nat) : State :=
  let src := mcSource die type index
  let s1 := if kind = 1 ∨ kind = 2 ∨ kind = 6 then { s with mcCE := mset 0 s.mcCE src (satInc (mget 0 s.mcCE src)) }
    else if kind = 7 then s
    else { s with mcUE := mset 0 s.mcUE src (satInc (mget 0 s.mcUE src)) }
  let d := getDie s1 die
  if d.mclog.length < 32 then
    let e : McEntry := ⟨s1.mcSeq, BitVec.ofNat 16 src, BitVec.ofNat 8 kind, BitVec.ofNat 8 flags, addr, BitVec.ofNat 64 synd,
      s1.clock, mget 0 s1.mcCE src, mget 0 s1.mcUE src, vf, core, part, slot⟩
    let s2 := modDie { s1 with mcSeq := s1.mcSeq + 1 } die fun d => { d with mclog := d.mclog ++ [e] }
    if kind ≥ 3 ∨ d.mclog.length + 1 = 24 then interrupt s2 .machineCheck else s2
  else
    modDie s1 die fun d =>
      { d with mclost := if d.mclost < 2 ^ 32 - 1 then d.mclost + 1 else d.mclost, mcovf := true }

/-- R225: a machine-check event of a group, with a PC. -/
def mcOf (s : State) (b : Block) (g : Group) (type kind : Nat) (pc : Addr) (lane : Nat) : State :=
  mcEvent s (dieOf b.core) type (b.core % 64) kind 6 pc lane b.vf (b.core % 64) g.part g.slot

/-- R225: a machine-check event of the group in focus, with a PC. -/
def mcGroup (s : State) (type kind : Nat) (pc : Addr) (lane : Nat) : State := mcOf s s.blk s.g type kind pc lane

/-- R73: held fallow mismatches of a group that are discarded or do not recur, each entered in the log as kind 6. -/
def logHeld (s : State) (b : Block) (g : Group) (l : List (Addr × Nat)) : State :=
  l.foldl (fun acc x => mcOf acc b g 5 6 x.1 (x.2 % 32)) s

/-- A pointer slot: 72 bits in 16 bytes (R54). -/
def slotBytes (a : Addr) : List Byte := leBytes 16 a.toNat

/-- R248: a record of 32 bytes put into the fault buffer of a function, or kept while the buffer is full. -/
def putRecord (s : State) (core vf : Nat) (bs : List Byte) : State :=
  let t := getTenant s vf
  if t.waiting = [] ∧ (t.fbhead - t.fbtail).toNat < 128 then
    match deviceWrite s core vf ((getFunc s vf).fbbase + BitVec.ofNat 72 (32 * (t.fbhead.toNat % 128))) bs with
    | some s1 => interrupt (modTenant s1 vf fun t => { t with fbhead := t.fbhead + 1 }) (.fault vf)
    | none => modTenant s vf fun t => { t with waiting := t.waiting ++ [bs] }
  else modTenant s vf fun t => { t with waiting := t.waiting ++ [bs], fbovf := true }

/-- R154: the bytes of a fault record. -/
def faultBytes (va : Addr) (asid lvl : Nat) (malf : Bool) (kind core b21 b22 b23 seq : Nat) : List Byte :=
  slotBytes va ++ leBytes 2 asid ++ leBytes 1 (lvl + if malf then 8 else 0) ++ leBytes 1 kind ++ leBytes 1 core ++
    leBytes 1 b21 ++ leBytes 1 b22 ++ leBytes 1 b23 ++ leBytes 8 seq

/-- R224: the PA of a poisoned entry that a walk of a die meets, from the table at t on, of the level one below the count of
levels left. -/
def walkPoison (s : State) (die asid va : Nat) : Nat → Nat → Option Nat
  | 0, _ => none
  | lvl + 1, t =>
    let i := vaIndex va lvl
    let poisoned := fun (j : Nat) => isLocal (t + 8 * j) && poisonedAt s (walkIdx s die (t + 8 * j)) 8
    match (match cachedPointer (getDie s die) asid va lvl with
      | some e => some e
      | none => tableEntry s die t i) with
    | none => if poisoned i then some (t + 8 * i) else none
    | some e =>
      if lvl ≥ 2 ∨ (lvl = 1 ∧ entryRWX e = 0) then walkPoison s die asid va lvl (entryPA e * 2 ^ 16)
      else if entryC e then
        (((List.range 32).map fun j => i - i % 32 + j).find? poisoned).map fun j => t + 8 * j
      else none

/-- R225: the partition and the slot of the group for which something is done that has met a fault. -/
def ownerGroup (s : State) : FaultOwner → Option (Nat × Nat)
  | .group u k => some ((findGroup s u k).part, k)
  | .engine u n => ((findBlk s u).cmds.find? fun c => c.num == n).map fun c => ((findGroup s u c.slot).part, c.slot)
  | .stage core part _ _ => (getPart s (partKey core part)).furrow.map fun f => (part, f.slot)
  | .stream _ part _ slot => some (part, slot)
  | .stack _ _ => none
  | .copy _ => none

/-- R224, R225: the log entry of poison that a consumer reads at a PA: kind 7 of its L2 slice, with the group concerned. -/
def logConsumed (s : State) (die pa vf core : Nat) (g : Option (Nat × Nat)) : State :=
  match g with
  | some x => mcEvent s die 1 (l2Slice pa) 7 5 (BitVec.ofNat 72 pa) 0 vf (core % 64) x.1 x.2
  | none => mcEvent s die 1 (l2Slice pa) 7 1 (BitVec.ofNat 72 pa) 0 0 0 0 0

/-- R224, R225: the log entry of a poisoned entry that the walk for an address meets, where it does. -/
def logWalkPoison (s : State) (owner : FaultOwner) (core vf : Nat) (va : Addr) : State :=
  match walkPoison s (dieOf core) (getFunc s vf).asid.toNat va.toNat 5 (getFunc s vf).root.toNat with
  | some pa => logConsumed s (dieOf core) pa vf core (ownerGroup s owner)
  | none => s

/-- R154: a fault recorded for an owner, under the next sequence number; one of a poisoned entry of a table is logged (R225). -/
def reportFault (s : State) (owner : FaultOwner) (core vf : Nat) (lane : Option (BitVec 5)) (va : Addr) (lvl : Nat)
    (malf : Bool) (kind b21 b22 b23 : Nat) : State :=
  let seq := s.faultSeq
  let s0 := if malf then logWalkPoison s owner core vf va else s
  let s1 := { s0 with faultSeq := seq + 1, faults := s0.faults ++ [⟨seq, vf, owner, va, lane, kind⟩] }
  putRecord s1 core vf (faultBytes va (getFunc s vf).asid.toNat lvl malf kind core b21 b22 b23 seq)

/-- R195, R206: a completion entry written to a port's ring, or dropped with CROVF where the ring is full. -/
def writeCompletion (s : State) (port lid status detail blocks : Nat) : State :=
  let p := getPort s port
  if (p.crhead - p.crtail).toNat = 256 then modPort s port fun p => { p with crovf := true }
  else
    let bs := leBytes 4 lid ++ leBytes 1 status ++ leBytes 1 detail ++ leBytes 2 0 ++ leBytes 8 blocks
    let s1 := (deviceWrite s 0 (p.owner.getD 0) (p.crbase + BitVec.ofNat 72 (16 * (p.crhead.toNat % 256))) bs).getD s
    modPort s1 port fun p => { p with crhead := p.crhead + 1 }

/-- R197: whether a wait on a counter holds for a value. -/
def waitHolds (s : State) (vf id target : Nat) : Bool :=
  match deviceRead s 0 vf ((getFunc s vf).ecbase + BitVec.ofNat 72 (4 * id)) 4 with
  | some bs => decide ((leNat bs + 2 ^ 32 - target) % 2 ^ 32 < 2 ^ 31)
  | none => false

/-- R197: whether every valid wait of a record holds. -/
def recordWaits (s : State) (vf : Nat) (r : BitVec 512) : Bool :=
  (recField r 30 1 % 2 == 0 || waitHolds s vf (recField r 44 2) (recField r 52 4)) &&
    (recField r 30 1 / 2 % 2 == 0 || waitHolds s vf (recField r 46 2) (recField r 56 4))

/-- R197: the waits of a port's head launch tested again, until its first block is dispatched. -/
def testWaits (s : State) (port : Nat) : State :=
  match (getPort s port).checked with
  | none => s
  | some key => match findLaunch s key with
    | none => s
    | some l =>
      if l.dispatched = 0 then modPort s port fun p => { p with waitw := !recordWaits s l.vf l.record } else s

/-- R197: the waiting heads of a function, tested again since one of its counters has been updated. -/
def retestWaits (s : State) (vf : Nat) : State :=
  ((List.range 64).filter fun p => (getPort s p).waitw && (getPort s p).owner == some vf).foldl testWaits s

/-- R197: the signal of a record, added to its counter; the heads that wait are tested again. -/
def applySignal (s : State) (vf : Nat) (r : BitVec 512) : State :=
  let a := (getFunc s vf).ecbase + BitVec.ofNat 72 (4 * recField r 48 2)
  match deviceRead s 0 vf a 4 with
  | some bs => match deviceWrite s 0 vf a (leBytes 4 (leNat bs + recField r 50 2)) with
    | some s1 => retestWaits s1 vf
    | none => s
  | none => s

/-- R193: the copy of a port's head record is asked for no more: its fault and its record slot are gone. -/
def dropCopy (s : State) (port : Nat) : State :=
  modPort { s with faults := s.faults.filter fun f => f.owner != .copy port } port fun p => { p with copySlot := none }

/-- The head record of a port leaves its queue. -/
def popHead (s : State) (port : Nat) : State :=
  let key := (getPort s port).checked
  dropDeferral (modPort s port fun p =>
    { p with queue := p.queue.tail, checked := none, copySlot := none, loadw := false, waitw := false }) port
    fun x => key.any fun k => x == .fresh k

/-- The launch leaves the head of its port, where it stands there. -/
def leaveHead (s : State) (l : Launch) : State :=
  if (getPort s l.port).checked = some l.key then popHead s l.port else s

/-- The numbers of the blocks of a launch. -/
def launchBlocks (s : State) (key : Nat) : List Nat :=
  ((allBlocks s).filter fun b => b.launch == key).map fun b => b.uid

/-- R207: what is yet to be dispatched of a launch is deferred no longer, nor are its saved blocks where they go too. -/
def dropFront (s : State) (l : Launch) (saved : Bool) : State :=
  dropDeferral s l.port fun x => x == .fresh l.key ||
    (saved && (launchBlocks s l.key).any fun u => match x with
      | .restore us => hasNat us u
      | _ => false)

/-- R206: the completion of a launch: its signal (done and cancelled only), its entry, its interrupt. Its record slot is free. -/
def completeLaunch (s : State) (l : Launch) (status : Nat) : State :=
  let s0 := leaveHead s l
  let s1 := if recField l.record 30 1 / 4 % 2 = 1 ∧ (status = 0 ∨ status = 2) then applySignal s0 l.vf l.record else s0
  let s2 := writeCompletion s1 l.port (recLid l.record) status 0 l.dispatched
  let s3 := if recField l.record 30 1 / 8 % 2 = 1 then interrupt s2 (.completion l.vf) else s2
  { s3 with launches := s3.launches.filter fun x => x.key != l.key }

/-- Whether a fault belongs to one of the blocks. -/
def faultOf (us : List Nat) (f : PendingFault) : Bool :=
  match f.owner with
  | .group u _ => hasNat us u
  | .engine u _ => hasNat us u
  | .stage _ _ _ _ => false
  | .stream _ _ u _ => hasNat us u
  | .stack u _ => hasNat us u
  | .copy _ => false

/-- What a partition keeps when blocks leave it. -/
def Part.without (p : Part) (us : List Nat) : Part :=
  { p with
    active := p.active.filter fun x => !hasNat us x.1
    pending := p.pending.filter fun x => !hasNat us x.1
    yielded := p.yielded.filter fun x => !hasNat us x.1
    divQueue := p.divQueue.filter fun x => !hasNat us x.1
    sfQueue := p.sfQueue.filter fun x => !hasNat us x.1
    furrow := p.furrow.filter fun f => !hasNat us f.uid }

/-- R93: whether a group owns a furrow that was saved with its block and has not re-entered; it stays parked until then. -/
def awaitsReentry (s : State) (g : Group) : Bool :=
  (findBlk s g.uid).furrows.any fun e => e.1 == g.part && g.isAt e.2.uid e.2.slot

/-- Unparks the groups whose partition holds no running furrow (R91), but for owners that await re-entry (R93). -/
def unpark (s : State) : State :=
  modGroups s fun g =>
    if awaitsReentry s g then g
    else match (getPart s (partKey (findBlk s g.uid).core g.part)).furrow with
      | some f => if f.suspended then { g with parked := false } else g
      | none => { g with parked := false }

/-- The mismatches that an open window of a group holds. -/
def heldFallow (g : Group) : List (Addr × Nat) :=
  match g.window with
  | some w => w.fallow
  | none => []

/-- R73: the mismatches that groups of some blocks hold still are discarded with them. -/
def logDiscarded (s : State) (us : List Nat) : State :=
  ((s.g :: s.groups).filter fun g => g.run != .absent && hasNat us g.uid).foldl
    (fun acc g => logHeld acc (findBlk s g.uid) g (heldFallow g ++ g.suspects)) s

/-- R201 with KILL, R216: blocks discarded, unsaved, with their groups, engine commands, furrows and queued work. -/
def discardBlocks (s : State) (us : List Nat) : State :=
  let s0 := logDiscarded s us
  let s1 := { s0 with
    g := if hasNat us s.g.uid then Group.none else s.g
    groups := s.groups.filter fun g => !hasNat us g.uid
    blk := if hasNat us s.blk.uid then Block.none else s.blk
    blks := s.blks.filter fun b => !hasNat us b.uid
    loose := s.loose.filter fun x => !hasNat us x.uid
    early := s.early.filter fun x => !hasNat us x.uid && !hasNat us x.byUid
    broken := s.broken || s.early.any fun x => hasNat us x.uid || hasNat us x.byUid
    torn := s.torn.filter fun x => !hasNat us x.uid
    areas := s.areas.filter fun e => !hasNat us (e.1 / 33)
    areaTags := s.areaTags.filter fun e => !hasNat us (e.1 / 264)
    parts := s.parts.map fun e => (e.1, e.2.without us)
    cores := s.cores.map fun e => (e.1, { e.2 with cubeQ := e.2.cubeQ.filter fun j => !hasNat us j.uid })
    faults := s.faults.filter fun f => !faultOf us f }
  unpark s1

/-- R201: a launch without further dispatch: cancelled, or killed with its blocks discarded. A launch with no block
dispatched completes at once. -/
def cancelLaunch (s : State) (l : Launch) (kill : Bool) : State :=
  if l.dispatched = 0 then completeLaunch s l 2
  else
    let s0 := dropFront s l kill
    let s1 := leaveHead (updLaunch s0 l.key fun x =>
      { x with state := if kill ∨ x.state = .killed then .killed else .cancelled }) l
    if kill then
      let s2 := discardBlocks s1 (launchBlocks s1 l.key)
      match findLaunch s2 l.key with
      | some l2 => completeLaunch s2 l2 2
      | none => s2
    else s1

/-- A record that ends without a launch: its signal where it applies one, its entry, its interrupt (R194, R196, R201). -/
def endRecord (s : State) (port : Nat) (r : BitVec 512) (status detail : Nat) : State :=
  let vf := (getPort s port).owner.getD 0
  let s1 := if status = 2 ∧ recField r 30 1 / 4 % 2 = 1 then applySignal s vf r else s
  let s2 := writeCompletion s1 port (recLid r) status detail 0
  if recField r 30 1 / 8 % 2 = 1 then interrupt s2 (.completion vf) else s2

/-- The queued records of a port that no launch under way stands for. -/
def uncheckedRecords (p : Port) : List QRec := if p.checked.isSome then p.queue.tail else p.queue

/-- The records of a port without those of a predicate that no launch under way stands for. -/
def dropRecords (p : QRec → Bool) (x : Port) : Port :=
  { x with
    queue := (if x.checked.isSome then x.queue.take 1 else []) ++ (uncheckedRecords x).filter fun r => !p r
    loadw := x.loadw && !((uncheckedRecords x).head?.any p && x.checked.isNone) }

/-- The launches of a port under way that bear a launch id (R201). -/
def namedLaunches (s : State) (port lid : Nat) : List Launch :=
  s.launches.filter fun l => l.port == port && recLid l.record == lid

/-- R201: a cancel of every launch of a port that bears the LID and has not completed: those under way, then the queued
records. -/
def cancelAll (s : State) (port lid : Nat) (kill : Bool) : State :=
  let p := getPort s port
  let gone := (uncheckedRecords p).filter fun r => recLid r.bits == lid
  let s0 := if p.checked.isNone && p.queue.head?.any fun r => recLid r.bits == lid then dropCopy s port else s
  let s1 := modPort s0 port (dropRecords fun r => recLid r.bits == lid)
  let s2 := (namedLaunches s port lid).foldl (fun acc l => cancelLaunch acc l kill) s1
  gone.foldl (fun acc r => endRecord acc port r.bits 2 0) s2

/-- R86, R91: FSTAT when a furrow ends: the counts stay, ACT goes. -/
def fstatEnd (x : BitVec 64) : BitVec 64 := x &&& ~~~(BitVec.ofNat 64 (2 ^ 36))

/-- R91: the furrow of a partition ends as FRWKILL ends it. -/
def killFurrow (s : State) (k : Nat) : State :=
  match (getPart s k).furrow with
  | none => s
  | some f =>
    let s1 := modPart s k fun p => { p with furrow := none }
    let s2 := updGroup s1 f.uid f.slot fun g =>
      { g with fown := false, ctx := { g.ctx with fstat := fstatEnd g.ctx.fstat } }
    let s3 := { s2 with faults := s2.faults.filter fun x => match x.owner with
      | .stage c p _ _ => partKey c p != k
      | .stream c p _ _ => partKey c p != k
      | _ => true }
    unpark s3

end Sys2Proof.Machine
end

