-- ==== Sys2Proof/Machine/Lane.lean ====
section
/-! DEFINITION. The per-lane computations of the vector ALU, one function for SIMT issue, for replays and for furrow stages
(R314 to R336, R346 to R353). -/

namespace Sys2Proof.Machine

/-- The lane computations, by mnemonic. -/
inductive LaneOp where
  | add | sub | mul | mulh | mad | addc | and | or | xor | not | shl | shr | sra | min | max | abs | neg | clz | popc
  | bfe | bfi | sel | mov | li | cmp | addp | subp | shlp | shrp | srap | minp | maxp | dot8 | dot4 | pack | unpk
  | fadd | fsub | fmul | fma | fmin | fmax | fcmp | special (op : SpecialOp) | frnd | fcls | hfma | hadd | hmul | cvt
  deriving DecidableEq, Repr

/-- What one lane computes: the word, the predicate bit, whether it saturates. -/
structure LaneOut where
  val : Lane
  pred : Bool
  sat : Bool
  deriving DecidableEq, Repr

/-- A word alone. -/
def word (x : Lane) : LaneOut := ⟨x, false, false⟩

/-- A word given as a number. -/
def wordN (x : Nat) : LaneOut := word (BitVec.ofNat 32 x)

/-- A word given as an integer, wrapped. -/
def wordI (x : Int) : LaneOut := word (BitVec.ofInt 32 x)

/-- A saturated integer. -/
def wordS (r : Int × Bool) : LaneOut := ⟨BitVec.ofInt 32 r.1, false, r.2⟩

/-- A predicate bit alone. -/
def bitOut (b : Bool) : LaneOut := ⟨0, b, false⟩

/-- R317: add or subtract, wrapping, saturating signed or unsigned by ext8[1:0]. -/
def addLane (minus : Bool) (mode : Nat) (a b : Lane) : LaneOut :=
  let sg : Int := if minus then -1 else 1
  if mode = 0 then (if minus then word (a - b) else word (a + b))
  else if mode = 1 then wordS (satS (a.toInt + sg * b.toInt) 32)
  else wordS (satU ((a.toNat : Int) + sg * (b.toNat : Int)) 32)

/-- R316: a value as computed, wrapped or saturated by ext8[0]. -/
def satLane (sat : Bool) (r : Int) : LaneOut := if sat then wordS (satS r 32) else wordI r

/-- R347: the high half of a product; ext8[1:0] gives the signedness of a and of b. -/
def mulhLane (mode : Nat) (a b : Lane) : LaneOut :=
  let x : Int := if mode = 0 ∨ mode = 2 then a.toInt else (a.toNat : Int)
  let y : Int := if mode = 0 ∨ mode = 3 then b.toInt else (b.toNat : Int)
  wordI (Int.fdiv (x * y) ((2 ^ 32 : Nat) : Int))

/-- R321: the field position and width of a control word. -/
def fieldPos (b : Lane) : Nat × Nat := (b.toNat % 256, Min.min (b.toNat / 256 % 256) 32)

/-- R321 VBFE. -/
def bfeLane (sx : Bool) (a b : Lane) : LaneOut :=
  let p := (fieldPos b).1
  let w := (fieldPos b).2
  let x : Int := if sx then a.toInt else (a.toNat : Int)
  let f := truncI (Int.fdiv x ((2 ^ p : Nat) : Int)) w
  if sx ∧ w > 0 then wordI (sextN w f) else wordN f

/-- R321 VBFI. -/
def bfiLane (a b c : Lane) : LaneOut :=
  let p := (fieldPos b).1
  let w := (fieldPos b).2
  let m := BitVec.ofNat 32 ((2 ^ w - 1) * 2 ^ p)
  word ((c &&& ~~~m) ||| (BitVec.ofNat 32 (a.toNat * 2 ^ p) &&& m))

/-- R319: a packed operation on elements of width w. -/
def packedLane (w : Nat) (f : Nat → Nat → Nat) (a b : Lane) : LaneOut :=
  wordN (joinN w ((List.range (32 / w)).map fun i => f (elemN a.toNat w i) (elemN b.toNat w i)))

/-- The lesser or greater of two elements, read signed or not (R319, R348). -/
def pickN (w : Nat) (least signed : Bool) (x y : Nat) : Nat :=
  let lt := if signed then decide (sextN w x < sextN w y) else decide (x < y)
  if lt = least then x else y

/-- R109: the dot product of n element pairs of width w, with the signedness of a and b and the saturation in ext8. -/
def dotLane (w n : Nat) (ext : BitVec 8) (a b c : Lane) : LaneOut :=
  let s := (List.range n).foldl (fun (acc : Int) i =>
    let x : Int := if ext.getLsbD 0 then sextN w (elemN a.toNat w i) else ((elemN a.toNat w i : Nat) : Int)
    let y : Int := if ext.getLsbD 1 then sextN w (elemN b.toNat w i) else ((elemN b.toNat w i : Nat) : Int)
    acc + x * y) c.toInt
  if ext.getLsbD 2 then wordS (satS s 32) else wordI s

/-- R327, R332: FP32 result of an exact value under FMT. -/
def fpLane (fmt : BitVec 32) (x : FVal) : LaneOut := wordN (roundF fp32 (fmtRm fmt) (fmtFtz fmt) false x)

/-- An FP32 operand decoded under FMT.FTZ. -/
def fp (fmt : BitVec 32) (x : Lane) : FVal := decodeF fp32 (fmtFtz fmt) x.toNat

/-- R336: an operation on the two half elements. -/
def halfLane (fmt : BitVec 32) (f : FVal → FVal → FVal → FVal) (a b c : Lane) : LaneOut :=
  let h := fmtHalf fmt
  let d := fun (x : Lane) (i : Nat) => decodeF h (fmtFtz fmt) (elemN x.toNat 16 i)
  wordN (joinN 16 ((List.range 2).map fun i =>
    roundF h (fmtRm fmt) (fmtFtz fmt) (fmtSat fmt) (f (d a i) (d b i) (d c i))))

/-- R334 VFRND. -/
def frndLane (fmt : BitVec 32) (ext : BitVec 8) (a : Lane) : LaneOut :=
  match fp fmt a with
  | .nan => wordN fp32.nan
  | .inf neg => wordN (infF fp32 neg)
  | .fin neg m e =>
    if m = 0 then wordN (zeroF fp32 neg)
    else
      let rm := if ext.getLsbD 2 then RMode.ofCode (ext.toNat % 4) else fmtRm fmt
      wordN (roundF fp32 .rne false false (.fin neg (roundQ rm neg m e 0) 0))

/-- R328 VFCLS. -/
def fclsLane (fmt : BitVec 32) (a : Lane) : LaneOut :=
  match fp fmt a with
  | .nan => wordN 0x100
  | .inf neg => wordN (if neg then 0x001 else 0x080)
  | .fin neg m e =>
    if m = 0 then wordN (if neg then 0x008 else 0x010)
    else if flog2 m e < -126 then wordN (if neg then 0x004 else 0x020)
    else wordN (if neg then 0x002 else 0x040)

/-- R324 VCVT. -/
def cvtLane (fmt : BitVec 32) (ext : BitVec 8) (a : Lane) : LaneOut :=
  let src := ext.toNat % 16
  let dst := ext.toNat / 16
  let r := convert src dst (fmtRm fmt) (fmtFtz fmt) (fmtSat fmt) a.toNat
  ⟨if cvtSigned dst then BitVec.ofInt 32 (sextN (cvtWidth dst) r.1) else BitVec.ofNat 32 r.1, false, r.2⟩

/-- R351: the narrow element of a kind, with whether it saturates. -/
def narrowElem (fmt : BitVec 32) (kind x : Nat) : Nat × Bool :=
  let rd := fun (f g : FFmt) => (roundF g (fmtRm fmt) (fmtFtz fmt) (fmtSat fmt) (decodeF f (fmtFtz fmt) x), false)
  let sat := fun (r : Int × Bool) (n : Nat) => (truncI r.1 n, r.2)
  if kind = 0 then rd fp32 (fmtHalf fmt)
  else if kind = 1 then sat (satS (sextN 32 x) 16) 16
  else if kind = 2 then sat (satU (sextN 32 x) 16) 16
  else if kind = 3 then rd (fmtHalf fmt) (fmtNarrow fmt)
  else if kind = 4 then sat (satS (sextN 16 x) 8) 8
  else sat (satU (sextN 16 x) 8) 8

/-- R351, R102: the wide element of a kind; a float form decodes under FTZ and encodes the value, exactly but where the wide
format holds it as a subnormal (log entry 42). -/
def widenElem (fmt : BitVec 32) (kind x : Nat) : Nat :=
  let up := fun (f g : FFmt) => roundF g .rne (flushesTo f g (fmtFtz fmt)) false (decodeF f (fmtFtz fmt) x)
  if kind = 0 then up (fmtHalf fmt) fp32
  else if kind = 1 then truncI (sextN 16 x) 32
  else if kind = 2 then x % 2 ^ 16
  else if kind = 3 then up (fmtNarrow fmt) (fmtHalf fmt)
  else if kind = 4 then truncI (sextN 8 x) 16
  else x % 2 ^ 8

/-- R351 VPACK. -/
def packLane (fmt : BitVec 32) (ext : BitVec 8) (a b : Lane) : LaneOut :=
  let k := ext.toNat % 8
  let es := if k < 3 then [narrowElem fmt k a.toNat, narrowElem fmt k b.toNat]
    else [narrowElem fmt k (elemN a.toNat 16 0), narrowElem fmt k (elemN a.toNat 16 1),
      narrowElem fmt k (elemN b.toNat 16 0), narrowElem fmt k (elemN b.toNat 16 1)]
  ⟨BitVec.ofNat 32 (joinN (if k < 3 then 16 else 8) (es.map (·.1))), false, es.any (·.2)⟩

/-- R351 VUNPK. -/
def unpkLane (fmt : BitVec 32) (ext : BitVec 8) (a : Lane) : LaneOut :=
  let k := ext.toNat % 8
  let hi := ext.toNat / 8 % 2
  if k < 3 then wordN (widenElem fmt k (elemN a.toNat 16 hi))
  else wordN (joinN 16 [widenElem fmt k (elemN a.toNat 8 (2 * hi)), widenElem fmt k (elemN a.toNat 8 (2 * hi + 1))])

/-- One lane of a vector ALU instruction: ext8, FMT, the sources a, b, c and the predicate source. -/
def laneEval (op : LaneOp) (ext : BitVec 8) (fmt : BitVec 32) (a b c : Lane) (p : Bool) : LaneOut :=
  match op with
  | .add => addLane false (ext.toNat % 4) a b
  | .sub => addLane true (ext.toNat % 4) a b
  | .mul => word (a * b)
  | .mulh => mulhLane (ext.toNat % 4) a b
  | .mad => word (a * b + c)
  | .addc => ⟨BitVec.ofNat 32 (a.toNat + b.toNat + p.toNat), carryOut a b p, false⟩
  | .and => word (a &&& b)
  | .or => word (a ||| b)
  | .xor => word (a ^^^ b)
  | .not => word (~~~a)
  | .shl => wordN (shlN 32 a.toNat b.toNat)
  | .shr => wordN (shrN 32 a.toNat b.toNat)
  | .sra => wordN (sraN 32 a.toNat b.toNat)
  | .min => wordN (pickN 32 true (!ext.getLsbD 0) a.toNat b.toNat)
  | .max => wordN (pickN 32 false (!ext.getLsbD 0) a.toNat b.toNat)
  | .abs => satLane (ext.getLsbD 0) (if a.toInt < 0 then -a.toInt else a.toInt)
  | .neg => satLane (ext.getLsbD 0) (-a.toInt)
  | .clz => wordN (clzN 32 a.toNat)
  | .popc => wordN (popN 32 a.toNat)
  | .bfe => bfeLane (ext.getLsbD 0) a b
  | .bfi => bfiLane a b c
  | .sel => word (if p then a else b)
  | .mov => word b
  | .li => word b
  | .cmp => bitOut (condHolds 32 (ext.toNat % 16) a.toNat b.toNat)
  | .addp => packedLane (if ext.getLsbD 0 then 16 else 8) (· + ·) a b
  | .subp => packedLane (if ext.getLsbD 0 then 16 else 8)
      (fun x y => x + 2 ^ (if ext.getLsbD 0 then 16 else 8) - y) a b
  | .shlp => packedLane (if ext.getLsbD 0 then 16 else 8) (shlN (if ext.getLsbD 0 then 16 else 8)) a b
  | .shrp => packedLane (if ext.getLsbD 0 then 16 else 8) (shrN (if ext.getLsbD 0 then 16 else 8)) a b
  | .srap => packedLane (if ext.getLsbD 0 then 16 else 8) (sraN (if ext.getLsbD 0 then 16 else 8)) a b
  | .minp => packedLane (if ext.getLsbD 0 then 16 else 8)
      (pickN (if ext.getLsbD 0 then 16 else 8) true (ext.getLsbD 1)) a b
  | .maxp => packedLane (if ext.getLsbD 0 then 16 else 8)
      (pickN (if ext.getLsbD 0 then 16 else 8) false (ext.getLsbD 1)) a b
  | .dot8 => dotLane 8 4 ext a b c
  | .dot4 => dotLane 4 8 ext a b c
  | .pack => packLane fmt ext a b
  | .unpk => unpkLane fmt ext a
  | .fadd => fpLane fmt (addF (fmtRm fmt) (fp fmt a) (fp fmt b))
  | .fsub => fpLane fmt (addF (fmtRm fmt) (fp fmt a) (negF (fp fmt b)))
  | .fmul => fpLane fmt (mulF (fp fmt a) (fp fmt b))
  | .fma => fpLane fmt (fmaF (fmtRm fmt) (fp fmt a) (fp fmt b) (fp fmt c))
  | .fmin => fpLane fmt (minMaxF true (fp fmt a) (fp fmt b))
  | .fmax => fpLane fmt (minMaxF false (fp fmt a) (fp fmt b))
  | .fcmp => bitOut (fcondHolds (ext.toNat % 16) (fp fmt a) (fp fmt b))
  | .special op => wordN (specialF op (fmtRm fmt) (fmtFtz fmt) a)
  | .frnd => frndLane fmt ext a
  | .fcls => fclsLane fmt a
  | .hfma => halfLane fmt (fmaF (fmtRm fmt)) a b c
  | .hadd => halfLane fmt (fun x y _ => addF (fmtRm fmt) x y) a b c
  | .hmul => halfLane fmt (fun x y _ => mulF x y) a b c
  | .cvt => cvtLane fmt ext a

end Sys2Proof.Machine
end

