-- ==== Sys2Proof/Machine/Operands.lean ====
section
/-! DEFINITION. The registers of a context with their special behaviour (R36, R37, R50, R51), and every operand form of the
instructions (R46, R267, R293). -/

namespace Sys2Proof.Machine

/-- Lane L of vector register r (R36); a released register holds zeros (R51). -/
def Ctx.lane (c : Ctx) (r l : Nat) : Lane := mget 0 c.v (32 * r + l)

/-- Whether vector register r is released (R50). -/
def Ctx.isReleased (c : Ctx) (r : Nat) : Bool := mget false c.released r

/-- The lanes of a vector register written one after another. -/
def setLanes (v : List (Nat × Lane)) (r : Nat) (f : Nat → Lane) : List Nat → List (Nat × Lane)
  | [] => v
  | l :: t => setLanes (mset 0 v (32 * r + l) (f l)) r f t

/-- A write of the lanes of a mask; any write makes the register live (R51). -/
def Ctx.setV (c : Ctx) (r : Nat) (m : Mask) (f : Nat → Lane) : Ctx :=
  { c with v := setLanes c.v r f (lanesOf m), released := mset false c.released r false }

/-- R50: the release of a vector register, in all lanes. -/
def Ctx.release (c : Ctx) (r : Nat) : Ctx :=
  { c with v := setLanes c.v r (fun _ => 0) (List.range 32), released := mset false c.released r true }

/-- A scalar register; s0 reads zero (R36). -/
def Ctx.readS (c : Ctx) (n : Nat) : SWord := if n = 0 then 0 else mget 0 c.s n

/-- A write of a scalar register; s0 discards it (R36, R37). -/
def Ctx.writeS (c : Ctx) (n : Nat) (x : SWord) : Ctx := if n = 0 then c else { c with s := mset 0 c.s n x }

/-- An address register (R36). -/
def Ctx.readA (c : Ctx) (n : Nat) : Addr := mget 0 c.a n

/-- A write of an address register. -/
def Ctx.writeA (c : Ctx) (n : Nat) (x : Addr) : Ctx := { c with a := mset 0 c.a n x }

/-- A predicate register; p7 reads all ones (R36). -/
def Ctx.readP (c : Ctx) (n : Nat) : Mask := if n = 7 then BitVec.allOnes 32 else mget 0 c.p n

/-- A write of the bits of a mask in a predicate register; p7 discards it (R36, R37). -/
def Ctx.writeP (c : Ctx) (n : Nat) (m : Mask) (x : Mask) : Ctx :=
  if n = 7 then c else { c with p := mset 0 c.p n ((c.readP n &&& ~~~m) ||| (x &&& m)) }

/-- A condition register; c7 reads one (R36). -/
def Ctx.readC (c : Ctx) (n : Nat) : Bool := if n = 7 then true else mget false c.c n

/-- A write of a condition register; c7 discards it (R36, R37). -/
def Ctx.writeC (c : Ctx) (n : Nat) (x : Bool) : Ctx := if n = 7 then c else { c with c := mset false c.c n x }

/-- R14: the mask that the guard leaves of EXEC. -/
def Ctx.takePart (c : Ctx) (g : Guard) : Mask :=
  c.exec &&& (if g.pn then ~~~(c.readP g.pg.toNat) else c.readP g.pg.toNat)

/-- R14 for a guard under a given mask, with the predicates of a context. -/
def guardUnder (c : Ctx) (g : Guard) (m : Mask) : Mask :=
  m &&& (if g.pn then ~~~(c.readP g.pg.toNat) else c.readP g.pg.toNat)

/-- R38: a scalar sign-extended to an address. -/
def sextAddr (x : SWord) : Addr := x.signExtend 72

/-- A lane word sign-extended to an address. -/
def sextLane (x : Lane) : Addr := x.signExtend 72

/-- R267: what imm16 gives a lane operation: its upper half for FP32, both elements for VHADD and VHMUL, sign-extended
otherwise. -/
def immLane (op : LaneOp) (i : BitVec 16) : Lane :=
  match op with
  | .fadd | .fsub | .fmul | .fma | .fmin | .fmax | .fcmp | .special _ | .frnd | .fcls => i.zeroExtend 32 <<< 16
  | .hadd | .hmul => (i.zeroExtend 32 <<< 16) ||| i.zeroExtend 32
  | _ => i.signExtend 32

/-- R346: the constant of VLI. -/
def liConst (f : LvF) : Lane :=
  let b := match f.b with
    | .vec r => r.reg.toNat
    | .scal s => s.toNat
    | .imm i => i.toNat
  BitVec.ofNat 32 (f.a.reg.toNat + 256 * b + 65536 * f.c.reg.toNat + 16777216 * f.ext.toNat)

/-- R46, R267: source b as lane L sees it; `sc` is the scalar delivered at issue. -/
def bLane (op : LaneOp) (f : LvF) (sc : SWord) (c : Ctx) (l : Nat) : Lane :=
  if op = .li then liConst f
  else match f.b with
    | .vec r => c.lane r.reg.toNat l
    | .scal _ => sc.truncate 32
    | .imm i => immLane op i

/-- The predicate that an operation reads beside its guard: the carry-in of VADDC, pS of VSEL (R268). -/
def predSrc (op : LaneOp) (f : LvF) : Option Nat :=
  match op with
  | .addc => some (f.ext.toNat % 8)
  | .sel => some (f.ext.toNat % 8)
  | _ => none

/-- Where a lane operation writes (R315): a vector register, a predicate, or both. -/
def predDst (op : LaneOp) (f : LvF) : Option Nat :=
  match op with
  | .addc => some (f.ext.toNat / 8 % 8)
  | .cmp => some (f.vd.toNat % 8)
  | .fcmp => some (f.vd.toNat % 8)
  | _ => none

/-- Whether a lane operation writes a vector register (R315). -/
def writesVec (op : LaneOp) : Bool :=
  match op with
  | .cmp => false
  | .fcmp => false
  | _ => true

/-- Whether a lane operation reads va (R315, R335). -/
def readsA (op : LaneOp) : Bool :=
  match op with
  | .mov => false
  | .li => false
  | _ => true

/-- Whether a lane operation reads vc (R315, R335). -/
def readsC (op : LaneOp) : Bool :=
  match op with
  | .mad | .bfi | .dot8 | .dot4 | .fma | .hfma => true
  | _ => false

/-- Whether a lane operation reads b (R315, R335). -/
def readsB (op : LaneOp) : Bool :=
  match op with
  | .not | .abs | .neg | .clz | .popc | .special _ | .frnd | .fcls | .cvt | .unpk | .li => false
  | _ => true

/-- What lane L computes, its operands read from a context. -/
def laneOf (op : LaneOp) (f : LvF) (fmt : BitVec 32) (sc : SWord) (c : Ctx) (l : Nat) : LaneOut :=
  laneEval op f.ext fmt (c.lane f.a.reg.toNat l) (bLane op f sc c l) (c.lane f.c.reg.toNat l)
    (match predSrc op f with
      | some p => laneOn (c.readP p) l
      | none => false)

/-- R314: the effect of a vector ALU instruction on the lanes of a mask, its operands read from `rc`. -/
def runLanes (op : LaneOp) (f : LvF) (fmt : BitVec 32) (sc : SWord) (rc : Ctx) (m : Mask) (c : Ctx) : Ctx :=
  let c1 := if writesVec op then c.setV f.vd.toNat m (fun l => (laneOf op f fmt sc rc l).val) else c
  let c2 := match predDst op f with
    | some p => c1.writeP p m (maskOf fun l => (laneOf op f fmt sc rc l).pred)
    | none => c1
  { c2 with status := setSatf c2.status ((lanesOf m).any fun l => (laneOf op f fmt sc rc l).sat) }

/-- The scalar that source b names. -/
def bScalar (f : LvF) : Option Nat :=
  match f.b with
  | .scal s => some s.toNat
  | _ => none

/-- The vector register that source b names. -/
def bVector (f : LvF) : Option VSrc :=
  match f.b with
  | .vec r => some r
  | _ => none

/-- R262: the LV fields of a C16 form. -/
def c16Fields (lr : Bool) (vs vd : BitVec 5) : LvF where
  g := ⟨false, 7⟩
  stall := 0
  vd := vd.zeroExtend 8
  a := ⟨vd.zeroExtend 8, false⟩
  b := .vec ⟨vs.zeroExtend 8, lr⟩
  c := ⟨0, false⟩
  ext := 0

/-- R260: the access size of LM and WM in bytes. -/
def sizeBytes (code : BitVec 3) : Nat := 2 ^ code.toNat

/-- R293: the data registers of an LM access: one, a pair or four. -/
def lmCount (code : BitVec 3) : Nat := if code.toNat = 3 then 2 else if code.toNat = 4 then 4 else 1

/-- R293: the lane offset word of an LM access; `sc` is the scalar delivered at issue. -/
def lmOffset (f : LmF) (sc : SWord) (c : Ctx) (l : Nat) : Lane := if f.os then sc.truncate 32 else c.lane f.vo.toNat l

/-- R293: the scaled displacement in bytes, imm8 widened by the prefixes. -/
def lmDisp (f : LmF) (prefixes : List (BitVec 24)) : Int := widen prefixes 8 f.imm.toNat * (sizeBytes f.size : Int)

/-- R293: the address of lane L in the global space. -/
def globalEA (f : LmF) (prefixes : List (BitVec 24)) (base : Addr) (sc : SWord) (c : Ctx) (l : Nat) : Addr :=
  toAddr ((base.toNat : Int) + (lmOffset f sc c l).toInt * ((2 ^ f.scale.toNat : Nat) : Int) + lmDisp f prefixes)

/-- R343: the address of lane L of a strided access. -/
def stridedEA (f : LmF) (prefixes : List (BitVec 24)) (base : Addr) (sc : SWord) (l : Nat) : Addr :=
  toAddr ((base.toNat : Int) + (l : Int) * sc.toInt + lmDisp f prefixes)

/-- R293: the scratch offset of lane L. -/
def scratchEA (f : LmF) (prefixes : List (BitVec 24)) (sc : SWord) (c : Ctx) (l : Nat) : Nat :=
  truncI (((lmOffset f sc c l).toNat : Int) * ((2 ^ f.scale.toNat : Nat) : Int) + lmDisp f prefixes) 32

/-- The scalar that an LM access names: its offset or, in the strided forms, its stride. -/
def lmScalar (f : LmF) (strided : Bool) : Option Nat :=
  if strided then some f.stride.toNat else if f.os then some f.vo.toNat else none

/-- R293: the word of data register k of a loaded element of n bytes. -/
def loadWord (f : LmF) (bs : List Byte) (k : Nat) : Lane :=
  if f.size.toNat < 2 then
    (if f.sign then BitVec.ofInt 32 (sextN (8 * sizeBytes f.size) (leNat bs)) else BitVec.ofNat 32 (leNat bs))
  else BitVec.ofNat 32 (leNat ((bs.drop (4 * k)).take 4))

/-- R293: the bytes that a store takes from the data registers of lane L. -/
def storeBytes (f : LmF) (c : Ctx) (l : Nat) : List Byte :=
  ((List.range (lmCount f.size)).flatMap fun k => leBytes 4 (c.lane (f.vd.toNat + k) l).toNat).take (sizeBytes f.size)

/-- R275: the address of a scalar access. -/
def wmEA (f : WmF) (c : Ctx) : Addr :=
  toAddr (((c.readA f.n.toNat).toNat : Int) + widen c.prefixes 6 f.imm.toNat * (sizeBytes f.size : Int))

/-- The registers from r on, n of them. -/
def regRange (r n : Nat) : List Nat := (List.range n).map fun k => r + k

end Sys2Proof.Machine
end

