-- ==== Sys2Proof/Machine/Ops.lean ====
section
/-! DEFINITION. The shared operations of every instruction: performance counters (R45), the machine-check log (R225 to R228),
taking a trap and returning from one (R212 to R216), parking on a fault (R154), coverage of stall counts (R47 to R49), the
speculation window (R67 to R73), and issue and retirement (R13, R90, R211). -/

namespace Sys2Proof.Machine

/-- R225, R223, R224: the log entry of a SOFTERR that is raised: kind 5 for a fallow mismatch, kind 7 for poison that is
consumed. An engine's stop was logged when it happened. -/
def logSofterr (s : State) (t : TrapReq) (pc : Addr) : State :=
  let lane := (t.lane.getD 0).toNat
  if t.cls ≠ 12 ∨ t.detail = 6 then s
  else if t.detail = 1 then mcGroup s 5 5 pc lane
  else if t.detail = 2 then mcGroup s 2 7 pc 0
  else if t.detail = 3 then mcGroup s 3 7 pc 0
  else if t.detail = 4 then mcGroup s 4 7 pc 0
  else match translate s s.blk.core s.blk.vf t.va with
    | .ok pa _ => mcEvent s (dieOf s.blk.core) 1 (l2Slice pa) 7 5 (BitVec.ofNat 72 pa) 0 s.blk.vf (s.blk.core % 64)
        s.g.part s.g.slot
    | .fault _ _ => mcGroup s 7 7 pc 0

/-- The address of an instruction with its prefixes (R257). -/
def startPc (c : Ctx) : Addr := c.pc - BitVec.ofNat 72 (4 * c.prefixes.length)

/-- R213: the length of the instruction at the PC with its prefixes. -/
def fullLen (c : Ctx) (size : Nat) : Nat := size + 4 * c.prefixes.length

/-- R210: whether the default return of a trap goes past the instruction. -/
def trapPast (cls detail : BitVec 8) : Bool :=
  cls == 13 || cls == 14 || cls == 15 || (cls == 5 && detail == 6) || (cls == 12 && detail == 6) ||
    (cls == 8 && detail == 1)

/-- R213: TRAPINFO. -/
def trapInfoOf (t : TrapReq) (len : Nat) : BitVec 64 :=
  BitVec.ofNat 64 (t.cls.toNat + t.detail.toNat * 2 ^ 8 + (t.lane.getD 0).toNat * 2 ^ 16 +
    (if t.lane.isSome then 1 else 0) * 2 ^ 21 + len % 32 * 2 ^ 24 +
    (if trapPast t.cls t.detail then 1 else 0) * 2 ^ 29 + t.arg.toNat * 2 ^ 32)

/-- R214: what trap entry does to the context: the trap registers, the handler flag, the PC. Outstanding fixed-latency
writes have landed (R212). -/
def enterTrap (c : Ctx) (t : TrapReq) (len : Nat) (target : Addr) : Ctx :=
  let at_ := startPc c
  { c with
    trapInfo := trapInfoOf t len
    trapPc := at_.truncate 64
    trapVa := t.va.truncate 64
    trapVah := BitVec.ofNat 64 (at_.toNat / 2 ^ 64 * 2 ^ 8 + t.va.toNat / 2 ^ 64)
    handler := true
    pc := target
    prefixes := []
    pend := landAll c.pend }

/-- R216: the bytes of an abort record. -/
def abortBytes (pc : Addr) (asid cls core part slot detail why seq : Nat) : List Byte :=
  slotBytes pc ++ leBytes 2 asid ++ leBytes 1 cls ++ leBytes 1 7 ++ leBytes 1 core ++ leBytes 1 (part * 32 + slot) ++
    leBytes 1 detail ++ leBytes 1 why ++ leBytes 8 seq

/-- R216: the end of a launch by an abort: its blocks are discarded, the abort record is written, and the launch completes
with status 3 and no signal. -/
def abortLaunch (s : State) (key vf core part slot : Nat) (pc : Addr) (cls detail why : Nat) : State :=
  let s1 := putRecord { s with faultSeq := s.faultSeq + 1 } core vf
    (abortBytes pc (getFunc s vf).asid.toNat cls core part slot detail why s.faultSeq)
  match findLaunch s1 key with
  | none => discardBlocks s1 (launchBlocks s1 key)
  | some l =>
    let s2 := discardBlocks (dropFront s1 l true) (launchBlocks s1 key)
    completeLaunch s2 ((findLaunch s2 key).getD l) 3

/-- R214, R216: the group in focus takes a trap. `len` is the length of the instruction with its prefixes; `routine` is the
emulation routine of an EMU. A kernel without a trap entry has no trap delivered, an EMU with a bound routine included. -/
def takeTrap (s : State) (t : TrapReq) (len : Nat) (routine : Option Addr) : State :=
  let s1 := logSofterr s t (startPc s.ctx)
  let target := if t.cls = 13 then (if s1.blk.trapEntry.isSome then routine else none) else s1.blk.trapEntry
  match target with
  | some a =>
    if s1.ctx.handler then
      abortLaunch s1 s1.blk.launch s1.blk.vf s1.blk.core s1.g.part s1.g.slot (startPc s1.ctx) t.cls.toNat t.detail.toNat 1
    else modCtx s1 fun c => enterTrap c t len a
  | none =>
    abortLaunch s1 s1.blk.launch s1.blk.vf s1.blk.core s1.g.part s1.g.slot (startPc s1.ctx) t.cls.toNat t.detail.toNat
      (if s1.ctx.handler then 3 else 2)

/-- R215: the return from a trap handler; `back` says whether it goes past the trapping instruction. -/
def leaveTrap (c : Ctx) (back : Bool) : Ctx :=
  { c with
    pc := BitVec.ofNat 72 (c.trapVah.toNat / 2 ^ 8 % 2 ^ 8 * 2 ^ 64 + c.trapPc.toNat) +
      BitVec.ofNat 72 (if back then c.trapInfo.toNat / 2 ^ 24 % 32 else 0)
    handler := false }

/-- R154: the group in focus is parked on a replayable fault, its PC at the instruction. -/
def parkMemf (s : State) (lane : Option (BitVec 5)) (va : Addr) (lvl : Nat) (malf : Bool) (kind : Nat) : State :=
  let s1 := modCtx s fun c => { c with pc := startPc c, prefixes := [] }
  let s2 := modG s1 fun g => { g with run := .faulted s.faultSeq }
  reportFault s2 (.group s.g.uid s.g.slot) s.blk.core s.blk.vf lane va lvl malf kind (s.g.part * 32 + s.g.slot) 0 0

/-- What an agent outside the control thread writes to a context: with a window or a replay open, the state to which the
group may return takes it too. -/
def outside (f : Ctx → Ctx) (g : Group) : Group :=
  { g with
    ctx := f g.ctx
    window := g.window.map fun w => { w with snap := f w.snap }
    undo := g.undo.map fun w => { w with snap := f w.snap } }

/-- R65: the index of a BRV in the coulter table. -/
def coulterIdx (brv : Addr) : Nat := Nat.xor (brv.toNat / 2 % 2 ^ 9) (brv.toNat / 2 ^ 10 % 2 ^ 9)

/-- An entry of the coulter table. -/
def coulterAt (s : State) (brv : Addr) : CoulterEntry := mget ⟨0, 0, 0⟩ (getPart s (myPart s)).coulter (coulterIdx brv)

/-- R65: the entry after a BRV with active mask e and true taken mask t has been resolved. -/
def coulterNext (x : CoulterEntry) (vf : BitVec 6) (e t : Mask) : CoulterEntry :=
  if x.vf ≠ vf then ⟨t, 0, vf⟩
  else ⟨(x.m &&& ~~~e) ||| t, if t = x.m &&& e then (if x.c = 3 then 3 else x.c + 1) else 0, vf⟩

/-- R65: the update of the coulter table at resolution. -/
def coulterUpdate (s : State) (brv : Addr) (e t : Mask) : State :=
  modPart s (myPart s) fun p =>
    let x := coulterNext (mget ⟨0, 0, 0⟩ p.coulter (coulterIdx brv)) (BitVec.ofNat 6 s.blk.vf) e t
    { p with coulter := mset ⟨0, 0, 0⟩ p.coulter (coulterIdx brv) x }

/-- The operation of a vector ALU instruction and its LV fields. -/
def laneInstr : Instr → Option (LaneOp × LvF)
  | .vmovC16 lr vs vd => some (.mov, c16Fields lr vs vd)
  | .vaddC16 lr vs vd => some (.add, c16Fields lr vs vd)
  | .vsubC16 lr vs vd => some (.sub, c16Fields lr vs vd)
  | .vmulC16 lr vs vd => some (.mul, c16Fields lr vs vd)
  | .vandC16 lr vs vd => some (.and, c16Fields lr vs vd)
  | .vorC16 lr vs vd => some (.or, c16Fields lr vs vd)
  | .vxorC16 lr vs vd => some (.xor, c16Fields lr vs vd)
  | .vshlC16 lr vs vd => some (.shl, c16Fields lr vs vd)
  | .vshrC16 lr vs vd => some (.shr, c16Fields lr vs vd)
  | .vminC16 lr vs vd => some (.min, c16Fields lr vs vd)
  | .vmaxC16 lr vs vd => some (.max, c16Fields lr vs vd)
  | .vfaddC16 lr vs vd => some (.fadd, c16Fields lr vs vd)
  | .vfsubC16 lr vs vd => some (.fsub, c16Fields lr vs vd)
  | .vfmulC16 lr vs vd => some (.fmul, c16Fields lr vs vd)
  | .vfminC16 lr vs vd => some (.fmin, c16Fields lr vs vd)
  | .vfmaxC16 lr vs vd => some (.fmax, c16Fields lr vs vd)
  | .vadd f => some (.add, f)
  | .vsub f => some (.sub, f)
  | .vmul f => some (.mul, f)
  | .vmulh f => some (.mulh, f)
  | .vmad f => some (.mad, f)
  | .vaddc f => some (.addc, f)
  | .vand f => some (.and, f)
  | .vor f => some (.or, f)
  | .vxor f => some (.xor, f)
  | .vnot f => some (.not, f)
  | .vshl f => some (.shl, f)
  | .vshr f => some (.shr, f)
  | .vsra f => some (.sra, f)
  | .vmin f => some (.min, f)
  | .vmax f => some (.max, f)
  | .vabs f => some (.abs, f)
  | .vneg f => some (.neg, f)
  | .vclz f => some (.clz, f)
  | .vpopc f => some (.popc, f)
  | .vbfe f => some (.bfe, f)
  | .vbfi f => some (.bfi, f)
  | .vsel f => some (.sel, f)
  | .vmov f => some (.mov, f)
  | .vli f => some (.li, f)
  | .vcmp f => some (.cmp, f)
  | .vaddp f => some (.addp, f)
  | .vsubp f => some (.subp, f)
  | .vshlp f => some (.shlp, f)
  | .vshrp f => some (.shrp, f)
  | .vsrap f => some (.srap, f)
  | .vminp f => some (.minp, f)
  | .vmaxp f => some (.maxp, f)
  | .vdot8 f => some (.dot8, f)
  | .vdot4 f => some (.dot4, f)
  | .vpack f => some (.pack, f)
  | .vunpk f => some (.unpk, f)
  | .vfadd f => some (.fadd, f)
  | .vfsub f => some (.fsub, f)
  | .vfmul f => some (.fmul, f)
  | .vfma f => some (.fma, f)
  | .vfmin f => some (.fmin, f)
  | .vfmax f => some (.fmax, f)
  | .vfcmp f => some (.fcmp, f)
  | .vfrcp f => some (.special .rcp, f)
  | .vfrsq f => some (.special .rsq, f)
  | .vfsqrt f => some (.special .sqrt, f)
  | .vfexp2 f => some (.special .exp2, f)
  | .vflog2 f => some (.special .log2, f)
  | .vfsin f => some (.special .sin, f)
  | .vfcos f => some (.special .cos, f)
  | .vfrnd f => some (.frnd, f)
  | .vfcls f => some (.fcls, f)
  | .vhfma f => some (.hfma, f)
  | .vhadd f => some (.hadd, f)
  | .vhmul f => some (.hmul, f)
  | .vcvt f => some (.cvt, f)
  | _ => none

/-- The vector registers that the marks of LV fields release (R50). -/
def lvMarks (op : LaneOp) (f : LvF) : List Nat :=
  (if readsA op && f.a.lr then [f.a.reg.toNat] else []) ++
    (match bVector f with
      | some r => if readsB op && r.lr then [r.reg.toNat] else []
      | none => []) ++
    (if readsC op && f.c.lr then [f.c.reg.toNat] else [])

/-- R50, R51: the releases that a retiring instruction makes; a register that it also writes stays live. -/
def releaseMarks (c : Ctx) : List Nat → List Nat → Ctx
  | [], _ => c
  | r :: t, written => releaseMarks (if hasNat written r then c else c.release r) t written

/-- A load of the window replayed (R68): the lanes that loaded at first issue keep their words, the lanes of `fresh` load
now; none where a lane raises an exception. `rd` gives the address of a lane and the bytes found there. -/
def replayLoad (f : LmF) (rec : WinRec) (m fresh : Mask) (rd : Nat → Option (List Byte)) (c : Ctx) : Option Ctx :=
  if (lanesOf (m &&& fresh)).all fun l => (rd l).isSome then
    some ((List.range (lmCount f.size)).foldl (fun c k => c.setV (f.vd.toNat + k) m fun l =>
      if laneOn fresh l then loadWord f ((rd l).getD []) k else mget 0 rec.got (32 * (f.vd.toNat + k) + l)) c)
  else none

/-- The bytes that one lane of a global load reads, or none where it would raise an exception (R70). -/
def quietGlobal (s : State) (n : Nat) (va : Addr) : Option (List Byte) :=
  match checkGlobal s kindRead n [(none, va)] with
  | .error _ => none
  | .ok [a] => if poisonedAt s a.idx n then none else some (loadBytes s s.blk.core false a n)
  | .ok _ => none

/-- The bytes that one lane of a scratch load reads, or none where it would raise an exception (R70). -/
def quietScratch (s : State) (b : Block) (n off : Nat) : Option (List Byte) :=
  match checkScratch b n true [(none, off)] with
  | .error _ => none
  | .ok _ => some (scratchRead s b off n)

/-- R67: the loads of a window: their LM fields and how lane L reads. -/
def windowLoad (s : State) (rec : WinRec) : Option (LmF × List Nat × (Nat → Option (List Byte))) :=
  match rec.instr with
  | .vld f => some (f, (if f.lro && !f.os then [f.vo.toNat] else []), fun l =>
      quietGlobal s (sizeBytes f.size) (globalEA f rec.prefixes rec.base rec.scalar s.ctx l))
  | .vlds f => some (f, [], fun l => quietGlobal s (sizeBytes f.size) (stridedEA f rec.prefixes rec.base rec.scalar l))
  | .ldl f => some (f, (if f.lro && !f.os then [f.vo.toNat] else []), fun l =>
      quietScratch s s.blk (sizeBytes f.size) (scratchEA f rec.prefixes rec.scalar s.ctx l))
  | .ldr f => some (f, (if f.lro && !f.os then [f.vo.toNat] else []), fun l =>
      match spanMember s s.blk f.n.toNat with
      | none => none
      | some b => quietScratch s b (sizeBytes f.size) (scratchEA f rec.prefixes rec.scalar s.ctx l))
  | _ => none

/-- R137, R161: what the reads of some lanes of a logged load ask for and leave behind. -/
def replayAsks (s : State) (rec : WinRec) (m : Mask) : State :=
  let reads := fun (ea : Nat → Addr) =>
    askSectors s false (accesses s s.blk.core s.blk.vf ((lanesOf m).map fun l => (none, ea l)))
  let offs := fun (f : LmF) => (lanesOf m).map fun l => scratchEA f rec.prefixes rec.scalar s.ctx l
  match rec.instr with
  | .vld f => reads fun l => globalEA f rec.prefixes rec.base rec.scalar s.ctx l
  | .vlds f => reads fun l => stridedEA f rec.prefixes rec.base rec.scalar l
  | .ldl f => looseRead s s.blk.uid (sizeBytes f.size) (offs f)
  | .ldr f => match spanMember s s.blk f.n.toNat with
    | some b => looseRead s b.uid (sizeBytes f.size) (offs f)
    | none => s
  | _ => s

/-- The guard of a logged instruction. -/
def recGuard (i : Instr) : Guard :=
  match laneInstr i with
  | some (_, f) => f.g
  | none => match i with
    | .vld f => f.g
    | .vlds f => f.g
    | .ldl f => f.g
    | .ldr f => f.g
    | _ => ⟨false, 7⟩

/-- The context with a register at its value before the producer of an uncovered result. -/
def oldValue (c : Ctx) (p : Pend) : Ctx :=
  match p.cls with
  | .vector => { c with v := setLanes c.v p.num (fun l => mget 0 p.oldV l) (List.range 32) }
  | .scalar => { c with s := mset 0 c.s p.num p.oldS }
  | .predicate => { c with p := mset 0 c.p p.num (p.oldS.truncate 32) }
  | .address => c
  | .condition => c

/-- R49, R68: an old value that an instruction of a window read, as its replay finds it: in the lanes of `fresh`, what the
register held before the producer where that has been replayed too. -/
def replayedOld (g : Group) (fresh : Mask) (p : Pend) : Pend :=
  match p.cls with
  | .vector => { p with oldV := (List.range 32).foldl (fun m l =>
      if laneOn fresh l && mhas g.replayOld (32 * p.num + l) then mset 0 m l (mget 0 g.replayOld (32 * p.num + l)) else m) p.oldV }
  | .predicate =>
    if mhas g.replayOld (8192 + p.num) then
      { p with oldS := (((p.oldS.truncate 32 : Mask) &&& ~~~fresh) ||| (mget 0 g.replayOld (8192 + p.num) &&& fresh)).zeroExtend 64 }
    else p
  | _ => p

/-- R49, R68: the context as the replay of a logged instruction reads it: in all lanes the value, old or new, that its first issue
read. -/
def recView (g : Group) (rec : WinRec) (fresh : Mask) : Ctx :=
  rec.olds.foldl (fun c p => oldValue c (replayedOld g fresh p)) g.ctx

/-- What a context holds in a register, as `Group.replayOld` keeps it, put into such a list. -/
def keepOld (c : Ctx) (m : List (Nat × Lane)) (r : RegClass × Nat) : List (Nat × Lane) :=
  match r.1 with
  | .vector => (List.range 32).foldl (fun m l => mput m (32 * r.2 + l) (c.lane r.2 l)) m
  | .predicate => mput m (8192 + r.2) (c.readP r.2)
  | _ => m

/-- R68: one logged instruction executed again for the lanes of `m`, of which `fresh` were wrongly omitted; none where a
replayed load raises an exception (R70). -/
def applyRec (s : State) (rec : WinRec) (m fresh : Mask) : Option Ctx :=
  let c := s.ctx
  let rc := recView s.g rec fresh
  let part := guardUnder rc (recGuard rec.instr) m
  match laneInstr rec.instr with
  | some (op, f) =>
    let c1 := runLanes op f rec.fmt rec.scalar rc part c
    some (releaseMarks c1 (lvMarks op f) (if writesVec op then [f.vd.toNat] else []))
  | none =>
    match windowLoad (s.withCtx rc) rec with
    | none => some c
    | some (f, marks, rd) =>
      match replayLoad f rec part fresh rd c with
      | none => none
      | some c1 => some (releaseMarks c1 marks (regRange f.vd.toNat (lmCount f.size)))

/-- Whether a register stands in a list. -/
def hasReg (l : List (RegClass × Nat)) (r : RegClass × Nat) : Bool := l.any fun x => x.1 == r.1 && x.2 == r.2

/-- The code of a register class (R213). -/
def clsCode : RegClass → Nat
  | .vector => 0
  | .scalar => 1
  | .address => 2
  | .predicate => 3
  | .condition => 4

/-- What a logged instruction writes. -/
def recWrites (i : Instr) : List (RegClass × Nat) :=
  match laneInstr i with
  | some (op, f) => (if writesVec op then [(.vector, f.vd.toNat)] else []) ++ (match predDst op f with
      | some p => [(.predicate, p)]
      | none => [])
  | none => match i with
    | .vld f => (regRange f.vd.toNat (lmCount f.size)).map fun r => (.vector, r)
    | .vlds f => (regRange f.vd.toNat (lmCount f.size)).map fun r => (.vector, r)
    | .ldl f => (regRange f.vd.toNat (lmCount f.size)).map fun r => (.vector, r)
    | .ldr f => (regRange f.vd.toNat (lmCount f.size)).map fun r => (.vector, r)
    | _ => []

/-- The vector registers that a logged instruction reads lane by lane. -/
def recReads (i : Instr) : List Nat :=
  match laneInstr i with
  | some (op, f) => (if readsA op then [f.a.reg.toNat] else []) ++ (match bVector f with
      | some r => if readsB op then [r.reg.toNat] else []
      | none => []) ++ (if readsC op then [f.c.reg.toNat] else [])
  | none => match i with
    | .vld f => if f.os then [] else [f.vo.toNat]
    | .ldl f => if f.os then [] else [f.vo.toNat]
    | .ldr f => if f.os then [] else [f.vo.toNat]
    | _ => []

/-- Whether a vector register of a list is poisoned in a lane of a mask (R223). -/
def poisonedLanes (g : Group) (regs : List Nat) (m : Mask) : Bool :=
  regs.any fun r => (lanesOf m).any fun l => mget false g.poisonV (32 * r + l)

/-- R223: the poison that writes clear: of the lanes `vm` of vector registers, of predicates that are written in all lanes,
and of the other registers. -/
def clearWritten (g : Group) (writes : List (RegClass × Nat)) (vm m : Mask) : Group :=
  { g with
    poisonV := g.poisonV.filter fun e =>
      !((writes.any fun r => r.1 == .vector && r.2 == e.1 / 32) && laneOn vm (e.1 % 32))
    poisonS := g.poisonS.filter fun e => !(writes.any fun r =>
      r.1 != .vector && e.1 == 256 * clsCode r.1 + r.2 && (r.1 != .predicate || m == BitVec.allOnes 32)) }

/-- The vector registers of a list. -/
def vecRegs (l : List (RegClass × Nat)) : List Nat := (l.filter fun x => x.1 == .vector).map fun x => x.2

/-- R51, R223: the registers that marks release read zero, so that no poison of theirs is left. -/
def cleanReleased (g : Group) (marks written : List Nat) : Group :=
  { g with poisonV := g.poisonV.filter fun e => !hasNat marks (e.1 / 32) || hasNat written (e.1 / 32) }

/-- The vector registers that the marks of a logged instruction release (R50). -/
def recMarks (i : Instr) : List Nat :=
  match laneInstr i with
  | some (op, f) => lvMarks op f
  | none => match i with
    | .vld f => if f.lro && !f.os then [f.vo.toNat] else []
    | .ldl f => if f.lro && !f.os then [f.vo.toNat] else []
    | .ldr f => if f.lro && !f.os then [f.vo.toNat] else []
    | _ => []

/-- R68, R223: as `applyRec`, on the group: a lane replayed afresh that would read poison is an exception too, and what is
written is poisoned no longer. -/
def replayRec (s : State) (rec : WinRec) (m fresh : Mask) : Option Group :=
  let part := guardUnder (recView s.g rec fresh) (recGuard rec.instr) m
  if poisonedLanes s.g (recReads rec.instr) (part &&& fresh) then none
  else (applyRec s rec m fresh).map fun c =>
    cleanReleased
      (clearWritten { s.g with ctx := c, replayOld := (recWrites rec.instr).foldl (keepOld s.ctx) s.g.replayOld }
        (recWrites rec.instr) part part)
      (recMarks rec.instr) (vecRegs (recWrites rec.instr))

/-- R72: the lanes whose partner lane checks them, of the lanes that take part. -/
def fallowLanes (m : Mask) : Mask := maskOf fun l => laneOn m l && !laneOn m (Nat.xor l 16)

/-- R70, R71: a group returns to the state before the BRV of a window, which issues again with its predicate landed. -/
def backTo (w : Window) (g : Group) : Group :=
  { g with
    ctx := { w.snap with pend := loosen w.snap.pend }
    poisonV := w.poisonV
    poisonS := w.poisonS
    window := none
    replay := []
    replayMask := 0
    replayNew := 0
    undo := none
    replayOld := []
    noPredict := true }

/-- R71: a group without its open window. Where the window has been resolved and its replays still run, the rules do not say
what a pre-emption leaves; the model undoes that window too, and the BRV issues again (log entry 33). -/
def undone (g : Group) : Group :=
  match g.window with
  | some w => backTo w g
  | none => match g.undo with
    | some w => backTo w g
    | none => g

/-- R70: the group in focus returns to the state before the BRV of a window. -/
def undoTo (w : Window) (s : State) : State := modG s (backTo w)

/-- R71, R73: the open window of the group in focus undone; the mismatches it holds are discarded. -/
def undoWindow (s : State) : State := modG (logHeld s s.blk s.g (heldFallow s.g)) undone

/-- R73: the lanes of a mask with the address of the instruction that they belong to, which n instructions of a window at that
address stand before. -/
def heldAt (pc : Addr) (n : Nat) (m : Mask) : List (Addr × Nat) := (lanesOf m).map fun l => (pc, 32 * n + l)

/-- How many of some logged instructions stand at an address. -/
def passes (l : List WinRec) (pc : Addr) : Nat := (l.filter fun r => r.pc == pc).length

/-- R68 replay step: one logged instruction replayed; an exception or a fallow mismatch undoes the whole window (R70, R73).
LANE_REPLAY counts every wrongly omitted lane, for an instruction is replayed for each (R66), whatever its guard (log entry 33).
-/
def replayStep (s : State) : State :=
  match s.g.replay with
  | [] => s
  | rec :: rest =>
    let fresh := s.g.replayNew
    let part := guardUnder (recView s.g rec fresh) (recGuard rec.instr) fresh
    let checked := if statusFck s.ctx.status && (laneInstr rec.instr).isSome then fallowLanes part else 0
    let bad := checked &&& s.g.upset
    let counts := fun g =>
      countEvt evFallow (popMask checked) (countEvt evLaneReplay (popMask fresh) (countEvt evIssue 1 g))
    let before := match s.g.undo with
      | some w => w.log.take (w.log.length - s.g.replay.length)
      | none => []
    match replayRec s rec s.g.replayMask fresh with
    | none => modG (undoWindow s) counts
    | some g1 =>
      if bad ≠ 0 then modG (undoWindow s) fun g =>
          counts { g with upset := 0, suspects := g.suspects ++ heldAt rec.pc (passes before rec.pc) bad }
      else modG (replayAsks s rec part) fun g =>
        let g2 := counts { g1 with
          replay := rest, swapDue := g.swapDue
          arriving := g1.arriving ++ (recWrites rec.instr).filter fun r => !hasReg g1.arriving r }
        if rest.isEmpty then { g2 with undo := none, replayMask := 0, replayNew := 0, replayOld := [] } else g2

/-- The stack entry that a BRV pushes (R58). -/
def brvEntry (w : Window) (pending : Mask) : StackEntry := ⟨w.rejoin, w.taken, pending, w.mask, w.snap.fmt, 0⟩

/-- Whether something deferred in the window stands under the true mask (R70, R73, R276): only in cases A and D. -/
def windowStands (w : Window) (held : Mask) : Bool :=
  let f := w.mask &&& ~~~w.truth
  let f' := w.mask &&& ~~~w.guess
  if f' ≠ 0 then decide (f ≠ 0) && decide (held &&& f ≠ 0) else decide (f = 0) && decide (held &&& w.truth ≠ 0)

/-- Whether the window is kept: cases A and D of R68. -/
def windowKept (w : Window) : Bool :=
  if w.mask &&& ~~~w.guess ≠ 0 then decide (w.mask &&& ~~~w.truth ≠ 0) else decide (w.mask &&& ~~~w.truth = 0)

/-- A result that a window has produced, its value before the producer corrected for the lanes that do not stand, or landed
where its producer is replayed (R68); any other result as it is. -/
def standingPend (w : Window) (f fresh : Mask) (p : Pend) : Pend :=
  if w.log.any fun rec => (recWrites rec.instr).any fun r => r.1 == p.cls && r.2 == p.num then
    if fresh ≠ 0 then { p with landed := true }
    else match p.cls with
      | .vector => { p with oldV := (List.range 32).foldl (fun m l =>
          if laneOn f l then m else mset 0 m l (w.snap.lane p.num l)) p.oldV }
      | .predicate => { p with
          oldS := (((p.oldS.truncate 32 : Mask) &&& f) ||| (w.snap.readP p.num &&& ~~~f)).zeroExtend 64 }
      | _ => p
  else p

/-- R65: the predicate of the BRV of a window has landed; where the counts do not say so yet, the group may have waited for it,
and the gap after every other producer may be longer than they promise. -/
def landPred (w : Window) (l : List Pend) : List Pend :=
  (if w.left = 0 then l else loosen l).map fun p =>
    if p.cls == .predicate && p.num == w.pred then { p with landed := true } else p

/-- Case A of R68: the window's vector writes of the wrong lanes go; the logged instructions run again for the true mask. The
coverage of results stays as the counts of the instructions issued give it, so that STALLCHK arises as it would have without
the prediction (R66, R70); replayed results have landed. -/
def windowCaseA (s : State) (w : Window) : State :=
  let f := w.mask &&& ~~~w.truth
  let f' := w.mask &&& ~~~w.guess
  let fresh := f &&& ~~~f'
  let c := s.ctx
  let stack := match c.stack with
    | [] => []
    | e :: t => if w.truth = 0 then t else { e with pending := w.truth } :: t
  let base := modG s fun g =>
    { g with
      window := none
      ctx := { c with
        v := w.snap.v, p := w.snap.p, released := w.snap.released, exec := f, stack := stack
        status := (c.status &&& ~~~(0x100 : BitVec 64)) ||| (w.snap.status &&& 0x100)
        pend := landPred w (c.pend.map (standingPend w f fresh)) }
      poisonV := w.poisonV
      poisonS := (g.poisonS.filter fun e => e.1 / 256 != 3) ++ w.poisonS.filter fun e => e.1 / 256 == 3
      replay := w.log, replayMask := f, replayNew := fresh, replayOld := [], undo := some w }
  if fresh = 0 then
    let done := w.log.foldl (fun acc rec => match replayRec acc rec f 0 with
      | some g => modG acc fun _ => g
      | none => acc) base
    modG done fun g => { g with replay := [], replayMask := 0, replayNew := 0, replayOld := [], undo := none }
  else if w.log.isEmpty then modG base fun g => { g with replayMask := 0, replayNew := 0, undo := none }
  else base

/-- R48: coverage after an instruction that carries no count. -/
def agePend (l : List Pend) : List Pend :=
  l.filterMap fun p => if p.need > 1 then some { p with need := p.need - 1 } else none

/-- Cases B and C of R68: the whole window undone, and the BRV's effect under the true mask. -/
def windowCaseBC (s : State) (w : Window) : State :=
  let f := w.mask &&& ~~~w.truth
  let c := { w.snap with pend := landPred w (agePend (loosen w.snap.pend)), prefixes := [] }
  let c1 := if f = 0 then
      { c with exec := w.truth, pc := w.taken, stack := brvEntry w 0 :: c.stack }
    else if w.truth = 0 then { c with exec := f, pc := w.brv + 8 }
    else { c with exec := f, pc := w.brv + 8, stack := brvEntry w w.truth :: c.stack }
  modG s fun g => { g with window := none, ctx := c1, poisonV := w.poisonV, poisonS := w.poisonS }

/-- Case D of R68: the window stands. -/
def windowCaseD (s : State) (w : Window) : State :=
  modG s fun g => { g with window := none, ctx := { g.ctx with pend := landPred w g.ctx.pend } }

/-- R68: the resolution of a predicted BRV, with the stack as it leaves that. -/
def resolveStep (s : State) : State :=
  match s.g.window with
  | none => s
  | some w =>
    let s1 := coulterUpdate s w.brv w.mask w.truth
    let s2 := if w.truth ≠ w.guess then modG s1 (countEvt evMaskMiss 1) else s1
    let stands := if windowKept w then w.fallow.filter fun x => windowStands w (BitVec.ofNat 32 (2 ^ (x.2 % 32))) else []
    let s3 := logHeld s2 s2.blk s2.g (w.fallow.filter fun x => !stands.any (· == x))
    if windowKept w && (w.deferredS || windowStands w w.deferred || !stands.isEmpty) then
      undoTo w (modG s3 fun g => { g with suspects := g.suspects ++ stands })
    else if w.mask &&& ~~~w.guess = 0 then
      (if w.mask &&& ~~~w.truth = 0 then windowCaseD s3 w else windowCaseBC s3 w)
    else if w.mask &&& ~~~w.truth = 0 then windowCaseBC s3 w
    else windowCaseA s3 w

/-- R68, R54: the resolution of a predicted BRV. -/
def resolveWindow (s : State) : State := settleStack (resolveStep s)

/-- What issue needs to know of an instruction: its bytes; the registers it reads, the guard first and then in assembly order;
the marks; the registers it writes; vector registers it names beside these; the stall count; the latency where that is fixed and
a stall field is carried, else 0; whether it accepts prefixes; whether it closes a window; what a furrow owner may do with it (0
nothing, 1 under OSR, 2 always); its guard, none where it takes whole registers; whether fallow checking covers it; the vector
registers whose values it waits for; whether STALLCHK does not arise from it; whether it sets the PC itself; whether its fields
make it illegal; whether a window logs it; whether its issue leaves the wait for scoreboarded results to its own effect (R65);
its address base and its scalar; the 24 bits that an IMX puts before its instruction; whether it reads its vector sources in all
lanes (R337); the vector registers that an engine writes for it later (R191); the lanes of its vector sources that it reads and
those of its vector destinations that it writes, where they are not those that take part; a trap of its own that comes before
the waits for operands (R119). -/
structure Info where
  size : Nat
  reads : List (RegClass × Nat) := []
  marks : List Nat := []
  writes : List (RegClass × Nat) := []
  vregs : List Nat := []
  stall : Nat := 0
  latency : Nat := 0
  accepts : Bool := false
  closes : Bool := false
  furrow : Nat := 0
  guard : Option Guard := none
  fallow : Bool := false
  lands : List Nat := []
  interlocked : Bool := false
  jumps : Bool := false
  ill : Bool := false
  vec : Bool := false
  eager : Bool := false
  base : Option Nat := none
  scal : Option Nat := none
  imx : Option (BitVec 24) := none
  whole : Bool := false
  later : List Nat := []
  readLanes : Option Mask := none
  writeLanes : Option Mask := none
  first : Option TrapReq := none
  deriving DecidableEq, Repr

/-- The uncovered result that a read of a register would meet (R48). -/
def pendOf (c : Ctx) (r : RegClass × Nat) : Option Pend := c.pend.find? fun p => p.cls == r.1 && p.num == r.2

/-- R49: whether an uncovered read returns the value before its producer: a free choice until the result has landed. -/
def readsOld (s : State) (p : Pend) : Bool :=
  !p.landed && Config.earlyRead (s.freeCtr * 2048 + clsCode p.cls * 256 + p.num)

/-- R345, R297: whether the instruction reads a register only after every outstanding write to it has landed, so that no
read of it is early (log entry 21). -/
def landsFirst (inf : Info) (r : RegClass × Nat) : Bool := r.1 == .vector && hasNat inf.lands r.2

/-- R49: the uncovered results whose registers the instruction reads at their old values. -/
def oldReads (s : State) (inf : Info) : List Pend :=
  if inf.interlocked then []
  else inf.reads.filterMap fun r => match pendOf s.ctx r with
    | some p => if readsOld s p && !landsFirst inf r then some p else none
    | none => none

/-- R49: the context as the instruction reads it. -/
def viewOf (s : State) (inf : Info) : Ctx := (oldReads s inf).foldl oldValue s.ctx

/-- R235: the bound entry that an instruction of n bytes matches, in the module whose .text holds it. -/
def emuMatch (s : State) (n w : Nat) : Option EmuEntry :=
  let pc := s.ctx.pc.toNat
  match s.modules.find? fun m => m.vf == s.blk.vf && decide (m.text.toNat ≤ pc) && decide (pc < m.text.toNat + m.size) with
  | none => none
  | some m => m.emu.find? fun e =>
      decide (Nat.land (Nat.land w e.mask.toNat) (2 ^ (8 * n) - 1) = Nat.land e.mtch.toNat (2 ^ (8 * n) - 1))

/-- R271, R235: the trap of an illegal instruction of n bytes that read w: EMU at a match, else ILL. -/
def illTrap (s : State) (n w len : Nat) : State :=
  match emuMatch s n w with
  | some e => takeTrap s ⟨13, 0, BitVec.ofNat 9 e.feat.toNat, 0, none⟩ len (some e.routine)
  | none => takeTrap s ⟨1, 0, 0, 0, none⟩ len none

/-- R258: the word of an IMX prefix. -/
def imxWord (x : BitVec 24) : Nat := 256 * x.toNat + 5

/-- R90: whether the owner of a running furrow may issue an instruction. -/
def ownerMay (s : State) (inf : Info) : Bool :=
  !s.g.fown || inf.furrow == 2 ||
    (inf.furrow == 1 && match (getPart s (myPart s)).furrow with
      | some f => f.plan.flags.getLsbD 1
      | none => true)

/-- R90, R257: whether an instruction of a furrow owner ends its furrow: one that the owner may not issue, or one behind a
prefix where the owner may not issue prefixes, which are judged with their instruction. -/
def ownerBarred (s : State) (inf : Info) : Bool :=
  !ownerMay s inf || (s.g.fown && !s.ctx.prefixes.isEmpty && (inf.imx.isNone || !inf.accepts) &&
    match (getPart s (myPart s)).furrow with
    | some f => !f.plan.flags.getLsbD 1
    | none => false)

/-- R258: the refused prefix of an instruction, and the length of the prefixes up to the instruction that refuses. -/
def refusedPrefix (c : Ctx) (inf : Info) : Option (BitVec 24 × Nat) :=
  match c.prefixes, inf.accepts with
  | x :: _, false => some (x, 4 * c.prefixes.length + if inf.imx.isSome then 4 else 0)
  | _, _ => none

/-- R258, R271: the trap of an instruction that is illegal, or of the prefixes that it refuses. -/
def illInstr (s : State) (i : Instr) (inf : Info) (u : State) : State :=
  match refusedPrefix s.ctx inf with
  | some (x, n) => illTrap u 4 (imxWord x) n
  | none => illTrap u (byteLen i) (encode i) (fullLen s.ctx inf.size)

/-- R37: whether every vector register that an instruction names lies below the allocation. -/
def regsOk (s : State) (inf : Info) : Bool :=
  (vecRegs inf.reads ++ vecRegs inf.writes ++ inf.vregs ++ inf.later).all fun r => decide (r < s.blk.regs)

/-- R51, R191: the first released register that an instruction reads. One that awaits a FILL is live again once it has been
filled, and its reader waits. -/
def relRead (c : Ctx) (inf : Info) : Option Nat :=
  (vecRegs inf.reads).find? fun r => c.isReleased r && !mget false c.fillPend r

/-- R49: the first register whose read is not covered. -/
def stallRead (c : Ctx) (inf : Info) : Option (RegClass × Nat) :=
  if inf.interlocked then none else inf.reads.find? fun r => (pendOf c r).isSome && !landsFirst inf r

/-- The vector registers that an instruction names as operands or destinations. -/
def namedRegs (inf : Info) : List Nat := vecRegs inf.reads ++ vecRegs inf.writes ++ inf.later

/-- The vector registers that an instruction, or an engine for it, writes. -/
def writtenRegs (inf : Info) : List Nat := vecRegs inf.writes ++ inf.later

/-- Whether a register awaits a FILL (R191), or a live SPILL has yet to read it before a write. -/
def fillWaits (s : State) (inf : Info) : Bool :=
  enginesHold s.blk s.g.slot s.ctx.fillPend (namedRegs inf) (writtenRegs inf)

/-- R14: the lanes that take part, as the context read says. -/
def partOf (c : Ctx) (inf : Info) : Mask :=
  match inf.guard with
  | some g => c.takePart g
  | none => BitVec.allOnes 32

/-- R223: whether an instruction would be given a poisoned register word. -/
def poisonRead (s : State) (inf : Info) (m : Mask) : Bool :=
  inf.reads.any fun r => match r.1 with
    | .vector => (lanesOf m).any fun l => mget false s.g.poisonV (32 * r.2 + l)
    | _ => mget false s.g.poisonS (256 * clsCode r.1 + r.2)

/-- R223: the poison that whole writes clear. -/
def unpoison (g : Group) (inf : Info) (m : Mask) : Group := clearWritten g inf.writes (inf.writeLanes.getD (BitVec.allOnes 32) &&& m) m

/-- The lanes whose vector sources an instruction reads. -/
def readLanes (rc : Ctx) (inf : Info) : Mask :=
  inf.readLanes.getD (if inf.whole then BitVec.allOnes 32 else partOf rc inf)

/-- A queue of results on their way, in issue order, past its last entry for a register of a group: those before it have
arrived too (R306, R331). -/
def landThrough (uid slot : Nat) (regs : List Nat) : List (Nat × Nat × Nat) → List (Nat × Nat × Nat)
  | [] => []
  | e :: t =>
    if (e :: t).any fun x => x.1 == uid && x.2.1 == slot && hasNat regs x.2.2 then landThrough uid slot regs t else e :: t

/-- The scalar registers of a list. -/
def scalRegs (l : List (RegClass × Nat)) : List Nat := (l.filter fun x => x.1 == .scalar).map fun x => x.2

/-- The registers that an instruction names, and those that an engine writes for it. -/
def operandRegs (inf : Info) : List (RegClass × Nat) := inf.reads ++ inf.writes ++ inf.later.map fun r => (.vector, r)

/-- R47: whether an instruction names a register whose scoreboarded result may be on its way. -/
def namesArriving (g : Group) (inf : Info) : Bool := !inf.eager && (operandRegs inf).any (hasReg g.arriving)

/-- R45, R48: a group has waited n cycles for a scoreboarded result, so that the gap after every producer is longer than the
counts promise. -/
def afterWait (n : Nat) (g : Group) : Group :=
  countEvt evSbWait n { g with ctx := { g.ctx with pend := loosen g.ctx.pend } }

/-- R47: an instruction that names a scoreboarded result waits until it has arrived; the wait counts as SB_WAIT. -/
def awaitResults (s : State) (inf : Info) : State :=
  let rs := operandRegs inf
  let p := getPart s (myPart s)
  let dq := landThrough s.g.uid s.g.slot (scalRegs rs) p.divQueue
  let sq := landThrough s.g.uid s.g.slot (vecRegs rs) p.sfQueue
  let s1 := if dq = p.divQueue ∧ sq = p.sfQueue then s
    else modG (modPart s (myPart s) fun p => { p with divQueue := dq, sfQueue := sq }) (afterWait 1)
  if namesArriving s.g inf then
    modG s1 fun g => { afterWait (Config.resultCycles s.freeCtr) g with arriving := g.arriving.filter fun r => !hasReg rs r }
  else s1

/-- R205: whether an instruction finds a scoreboarded operand for which it is predicted to wait so long that its group is swapped
out. -/
def longOperand (s : State) (inf : Info) : Bool := namesArriving s.g inf && Config.longWait s.freeCtr

/-- The values of a register before its producer (R49). -/
def pendFor (c : Ctx) (need : Nat) (r : RegClass × Nat) : Pend where
  cls := r.1
  num := r.2
  need := need
  oldV := match r.1 with
    | .vector => (List.range 32).foldl (fun m l => mset 0 m l (c.lane r.2 l)) []
    | _ => []
  oldS := match r.1 with
    | .scalar => c.readS r.2
    | .predicate => (c.readP r.2).zeroExtend 64
    | _ => 0
  landed := false
  loose := false

/-- Whether a destination discards what is written (R37). -/
def discards (r : RegClass × Nat) : Bool :=
  match r.1 with
  | .scalar => r.2 == 0
  | .predicate => r.2 == 7
  | .condition => r.2 == 7
  | _ => false

/-- R49, R59, R345: whether an instruction has waited for a result of its sources to land. -/
def waitsLanded (inf : Info) (p : Pend) : Bool :=
  hasReg inf.reads (p.cls, p.num) && (inf.interlocked || landsFirst inf (p.cls, p.num))

/-- R48, R49: the results not covered after an instruction with a stall count: older ones age, those of rewritten registers
have landed, as have those that the instruction waited for, and its own are added while the count stands below its latency. A wait
lengthens the gap after every other producer. -/
def pendAfter (c0 : Ctx) (inf : Info) : List Pend :=
  let hasWaited := c0.pend.any fun p => waitsLanded inf p && !p.landed
  ((c0.pend.filter fun p => !hasReg inf.writes (p.cls, p.num) &&
      !(p.cls == .vector && hasNat inf.later p.num)).filterMap fun p =>
      if p.need > 1 + inf.stall then
        some { p with need := p.need - (1 + inf.stall), landed := p.landed || waitsLanded inf p, loose := p.loose || hasWaited }
      else none) ++
    (if inf.latency > 1 + inf.stall then
      (inf.writes.filter fun r => !discards r).map (pendFor c0 (inf.latency - (1 + inf.stall)))
    else [])

/-- The log entry of an instruction in a window (R68). -/
def winRec (i : Instr) (inf : Info) (olds : List Pend) (rc after : Ctx) : WinRec where
  pc := startPc rc
  instr := i
  prefixes := rc.prefixes
  base := match inf.base with
    | some n => rc.readA n
    | none => 0
  scalar := match inf.scal with
    | some n => rc.readS n
    | none => 0
  fmt := rc.fmt
  olds := olds
  got := if (laneInstr i).isSome then []
    else (vecRegs inf.writes).foldl (fun m r => (List.range 32).foldl (fun m l =>
      mset 0 m (32 * r + l) (after.lane r l)) m) []

/-- What retirement does to the context: the PC goes on, the marks release, coverage is counted, the prefixes are used up. -/
def retireCtx (inf : Info) (c0 c : Ctx) : Ctx :=
  let c1 := releaseMarks c inf.marks (vecRegs inf.writes)
  { c1 with
    pc := if inf.jumps then c1.pc else c1.pc + BitVec.ofNat 72 inf.size
    pend := pendAfter { c0 with pend := c.pend } inf
    prefixes := match inf.imx with
      | some x => c1.prefixes ++ [x]
      | none => [] }

/-- R47: the registers whose scoreboarded result may be on its way after an instruction: those that it writes without a fixed
latency and a stall field of its own are among them. -/
def arrivingAfter (inf : Info) (l : List (RegClass × Nat)) : List (RegClass × Nat) :=
  (l.filter fun r => !hasReg inf.writes r) ++ if inf.latency = 0 then inf.writes.filter fun r => !discards r else []

/-- R13, R50: retirement. `s0` is the state before the instruction, `rc` what it read. -/
def retire (i : Instr) (inf : Info) (rc : Ctx) (s0 s : State) : State :=
  if s.g.uid = s0.g.uid then
    modG s fun g =>
      let g1 := countEvt evIssue 1 (cleanReleased (unpoison { g with
        ctx := retireCtx inf s0.ctx g.ctx
        arriving := arrivingAfter inf g.arriving } inf (partOf rc inf)) inf.marks (vecRegs inf.writes))
      { g1 with window := g1.window.map fun w =>
          if s0.g.window.isSome then
            { w with
              count := w.count + 1, left := w.left - (1 + inf.stall)
              log := if inf.vec then w.log ++ [winRec i inf (oldReads s0 inf) rc g1.ctx] else w.log }
          else w }
  else s

/-- R72, R73: fallow checking of a covered instruction: the counts, and the lowest lane whose check mismatches. -/
def fallowOf (rc : Ctx) (inf : Info) : Mask :=
  if statusFck rc.status && inf.fallow then fallowLanes (partOf rc inf) else 0

/-- R45: an instruction of the group in focus issues without retiring. -/
def issued (s : State) : State := modG s (countEvt evIssue 1)

/-- R73: the instruction of the group in focus at an address has been checked again: the held mismatches of this pass over it that
have not recurred go into the log, and once it has retired those of later passes are a pass nearer. -/
def settle (s : State) (pc : Addr) (bad : Mask) (retired : Bool) : State :=
  let mine := s.g.suspects.filter fun x => x.1 == pc
  if mine.isEmpty then s
  else modG (logHeld s s.blk s.g (mine.filter fun x => decide (x.2 < 32) && !laneOn bad x.2)) fun g =>
    { g with suspects := (g.suspects.filter fun x => x.1 != pc) ++
        (mine.filter fun x => decide (32 ≤ x.2)).map fun x => (x.1, if retired then x.2 - 32 else x.2) }

/-- What comes after the body of an instruction: the fallow check and retirement. -/
def finish (i : Instr) (inf : Info) (rc : Ctx) (s0 s : State) : Host.Outcome State Fault Refusal :=
  let checked := fallowOf rc inf
  let bad := checked &&& s0.g.upset
  if bad = 0 then .next (settle (modG (retire i inf rc s0 s) (countEvt evFallow (popMask checked))) (startPc s0.ctx) 0 true)
  else match s0.g.window with
    | some w0 =>
      .next (settle (modG (retire i inf rc s0 s) fun g =>
        { countEvt evFallow (popMask checked) g with
          upset := 0
          window := g.window.map fun w => { w with fallow := w.fallow ++ heldAt (startPc s0.ctx) (passes w0.log (startPc s0.ctx)) bad } })
        (startPc s0.ctx) bad true)
    | none =>
      .next (takeTrap (settle (modG (issued s0) fun g => { countEvt evFallow (popMask checked) g with upset := 0 })
          (startPc s0.ctx) bad false)
        ⟨12, 1, 0, 0, some (BitVec.ofNat 5 (ctzN 32 bad.toNat))⟩ (fullLen s0.ctx inf.size) none)

/-- A trap of an instruction, which has issued (R45); inside a window it waits for resolution instead (R70). -/
def trapOr (s : State) (next : State → State) : Host.Outcome State Fault Refusal :=
  match s.g.window with
  | some _ => .next (resolveWindow s)
  | none => .next (next (issued s))

/-- R205: whether a group that waits is swapped out for it; for an operand where the predicted wait is long. -/
def swapsFor (s : State) (on : WaitOn) : Bool :=
  on.swaps || match on with
    | .operand _ _ => Config.longWait s.freeCtr
    | _ => false

/-- An instruction that waits, and issues again when what it waits for may have come about. -/
def waitFor (s : State) (on : WaitOn) : State :=
  modG s fun g => { g with
    waitOn := on, swapDue := g.swapDue || swapsFor s on, ctx := { g.ctx with pend := loosen g.ctx.pend } }

/-- R47, R191: an instruction that waits for its operands. -/
def waitOperands (s : State) (inf : Info) : State :=
  waitFor (modG s (countEvt evSbWait 1)) (.operand (namedRegs inf) (writtenRegs inf))

/-- R70, R154: what becomes of an instruction that does not retire. -/
def halted (s : State) (i : Instr) (inf : Info) : Halt → Host.Outcome State Fault Refusal
  | .trap t => trapOr s fun u => takeTrap u t (fullLen s.ctx inf.size) none
  | .ill => trapOr s fun u => illTrap u (byteLen i) (encode i) (fullLen s.ctx inf.size)
  | .stay s1 => .next s1
  | .wait on => .next (waitFor s on)
  | .memf lane va lvl malf kind => trapOr s fun u => parkMemf u lane va lvl malf kind

/-- R90, R67, R211: the issue of one instruction by the group in focus. The furrow owner's rule comes first, then the closing
of a window, then EMU and ILL, RELREAD, STALLCHK, the traps that come before a wait, the waits for operands, poison in
registers, the instruction's own body on what it reads, and retirement. -/
def issue (i : Instr) (inf : Info) (body : Ctx → State → Except Halt State) (s : State) :
    Host.Outcome State Fault Refusal :=
  if ownerBarred s inf then .next (illInstr s i inf (issued (killFurrow s (myPart s))))
  else if s.g.window.isSome && (inf.closes || decide (32 ≤ (s.g.window.map (·.count)).getD 0)) then .next (resolveWindow s)
  else if (refusedPrefix s.ctx inf).isSome || inf.ill || !regsOk s inf then trapOr s (illInstr s i inf)
  else match (if statusChk s.ctx.status then relRead s.ctx inf else none) with
        | some r => trapOr s fun u => takeTrap u ⟨10, BitVec.ofNat 8 r, 0, 0, none⟩ (fullLen s.ctx inf.size) none
        | none => match (if statusChk s.ctx.status then stallRead s.ctx inf else none) with
          | some r => trapOr s fun u => takeTrap u ⟨9, BitVec.ofNat 8 r.2, BitVec.ofNat 9 (clsCode r.1), 0, none⟩
              (fullLen s.ctx inf.size) none
          | none => match inf.first with
            | some t => trapOr s fun u => takeTrap u t (fullLen s.ctx inf.size) none
            | none =>
              if fillWaits s inf then .next (waitOperands s inf)
              else if longOperand s inf then .next (waitOperands (awaitResults s inf) inf)
              else if poisonRead s inf (readLanes (viewOf s inf) inf) then
                trapOr s fun u => takeTrap u ⟨12, 2, 0, 0, none⟩ (fullLen s.ctx inf.size) none
              else
                let s1 := awaitResults s inf
                match body (viewOf s1 inf) s1 with
                | .error h => halted s1 i inf h
                | .ok s2 => finish i inf (viewOf s1 inf) s1 s2

/-- SATF set by an agent outside the control thread (R126, R84). -/
def satOutside (c : Ctx) : Ctx := { c with status := setSatf c.status true }

end Sys2Proof.Machine
end

