-- ==== Sys2Proof/Machine/Registers.lean ====
section
/-! DEFINITION. What the host reads: the port windows (R192), the physical function's BAR0 (R228, R246, R247, R250, R251, R254) and
that of a virtual function (R248). -/

namespace Sys2Proof.Machine

/-- R192: QSTAT as a port reads it. -/
def qstat (p : Port) : BitVec 64 :=
  BitVec.ofNat 64 ((if p.crovf then 2 ^ 45 else 0) + (if p.ovf then 2 ^ 44 else 0) + (if p.loadw then 2 ^ 43 else 0) +
    (if p.waitw then 2 ^ 42 else 0) + (if p.pwrw then 2 ^ 41 else 0) + (256 - p.queue.length) * 2 ^ 32 +
    (match p.queue with
      | r :: _ => recLid r.bits
      | [] => 0))

/-- R248: FSTS of a function. -/
def fsts (t : Tenant) : BitVec 64 := (if t.wflt then 1 else 0) + (if t.fbovf then 2 else 0)

/-- R245: whether a port window is reached: the port is assigned to a function, and the host's access comes through that
function; one that comes through none of the virtual functions reaches no window (log entry 20). -/
def portOpen (s : State) (port : Nat) : Bool :=
  decide (port < 64) && match (getPort s port).owner, s.via with
    | none, _ => false
    | some _, none => false
    | some f, some v => f == v

/-- A list of bytes with a byte at a place, zero beyond its end. -/
def byteOf (l : List Byte) (i : Nat) : Byte := (l[i]?).getD 0

/-- R192: a byte of a port window; RECORD and CANCEL are write-only. -/
def portByte (p : Port) (off : Nat) : Byte :=
  if off < 0x40 then 0
  else if off < 0x48 then byteOf (leBytes 8 (qstat p).toNat) (off - 0x40)
  else if off < 0x50 then 0
  else if off < 0x60 then byteOf (slotBytes p.crbase) (off - 0x50)
  else if off < 0x68 then byteOf (leBytes 8 p.crhead.toNat) (off - 0x60)
  else if off < 0x70 then byteOf (leBytes 8 p.crtail.toNat) (off - 0x68)
  else 0

/-- R247: the bytes of a function-table entry. -/
def funcBytes (f : Func) : List Byte :=
  leBytes 16 ((if f.en then 1 else 0) + f.asid.toNat * 2 ^ 8 + f.key.toNat * 2 ^ 24) ++ leBytes 16 f.root.toNat ++
    slotBytes f.ecbase ++ slotBytes f.fbbase ++ slotBytes f.apbase ++ leBytes 32 f.grant.toNat ++ slotBytes f.stkbase ++
    leBytes 4 f.stkstride.toNat ++ leBytes 4 f.stkcount.toNat ++ leBytes 8 f.reccount.toNat ++ slotBytes f.recbase

/-- R246: a byte of the port assignment: {valid, function}. -/
def assignByte (p : Port) : Byte :=
  BitVec.ofNat 8 (p.fn.toNat + if p.owner.isSome then 128 else 0)

/-- R250: the bytes of the invalidation command registers. -/
def invalBytes (x : Inval) : List Byte :=
  leBytes 16 x.addr.toNat ++ leBytes 2 x.asid.toNat ++ leBytes 1 x.kind.toNat ++ leBytes 1 x.key.toNat ++ leBytes 4 0 ++
    leBytes 8 (if x.go then 1 else 0)

/-- A peer not set. -/
def Peer.reset : Peer := ⟨0, false, 0⟩

/-- R251: the bytes of a peer-table entry: mask and valid, the limit, four zeros. -/
def peerBytes (p : Peer) : List Byte :=
  leBytes 4 (p.mask.toNat + if p.valid then 2 ^ 31 else 0) ++ leBytes 8 p.limit.toNat ++ leBytes 4 0

/-- R141: four entries of the placement table. -/
def placeByte (place : List (Nat × BitVec 2)) (i : Nat) : Byte :=
  BitVec.ofNat 8 (sumOf ((List.range 4).map fun k => (mget 0 place (4 * i + k)).toNat * 4 ^ k))

/-- R225: the 64 bytes of a log entry. -/
def mcBytes (e : McEntry) : List Byte :=
  leBytes 8 e.seq ++ leBytes 2 e.src.toNat ++ leBytes 1 e.kind.toNat ++ leBytes 1 e.flags.toNat ++ leBytes 4 0 ++
    slotBytes e.addr ++ leBytes 8 e.synd.toNat ++ leBytes 8 e.clock ++ leBytes 4 e.ce.toNat ++ leBytes 4 e.ue.toNat ++
    leBytes 1 e.vf ++ leBytes 1 e.core ++ leBytes 1 (e.part * 32 + e.slot) ++ leBytes 5 0

/-- R228: the log entry in a slot of a die's log. -/
def mcSlot (d : Die) (slot : Nat) : Option McEntry := d.mclog[(slot + 32 - d.mchead % 32) % 32]?

/-- R228: a byte of a die's machine-check register block; what a slot without an entry holds is open (log entry 17). -/
def mcByte (s : State) (die off : Nat) : Byte :=
  let d := getDie s die
  if off < 0x800 then
    match mcSlot d (off / 64) with
    | some e => byteOf (mcBytes e) (off % 64)
    | none => Config.openByte s.freeCtr off
  else if off < 0x808 then byteOf (leBytes 8 d.mchead) (off - 0x800)
  else if off < 0x810 then byteOf (leBytes 8 d.mclog.length) (off - 0x808)
  else if off < 0x818 then byteOf (leBytes 8 (d.mclost * 2 ^ 32 + if d.mcovf then 1 else 0)) (off - 0x810)
  else if 0x10000 ≤ off ∧ off < 0x30000 then
    let src := (die % 4) * 2 ^ 14 + (off - 0x10000) / 8
    byteOf (leBytes 4 (mget 0 s.mcCE src).toNat ++ leBytes 4 (mget 0 s.mcUE src).toNat) (off % 8)
  else 0

/-- R254: the critical temperature of a stack (log entry 2 for its reset value). -/
def critOf (s : State) (stack : Nat) : Nat := mget 110 s.crit stack

/-- R254: the temperature of a stack (log entry 2). -/
def tempOf (s : State) (stack : Nat) : Nat := mget 0 s.temps stack

/-- R254: FRZ. -/
def frzValue (s : State) : Nat :=
  s.freezes % 2 ^ 32 * 2 ^ 32 + (if s.frozen then 2 ^ 31 else 0) +
    sumOf ((List.range 16).map fun i => if critOf s i ≤ tempOf s i then 2 ^ i else 0)

/-- R254: a byte of the management block. -/
def manageByte (s : State) (off : Nat) : Byte :=
  let die := getDie s (off / 4 % 4)
  if off < 0x10 then byteOf (leBytes 4 die.newBud) (off % 4)
  else if off < 0x20 then byteOf (leBytes 4 die.newBase) (off % 4)
  else if off < 0x30 then BitVec.ofNat 8 (critOf s (off - 0x20))
  else if 0x100 ≤ off ∧ off < 0x110 then byteOf (leBytes 4 die.power) (off % 4)
  else if 0x110 ≤ off ∧ off < 0x120 then BitVec.ofNat 8 (tempOf s (off - 0x110))
  else if 0x120 ≤ off ∧ off < 0x128 then byteOf (leBytes 8 (frzValue s)) (off - 0x120)
  else 0

/-- R43, R11: a byte of FEAT0 to FEAT7: bits 0 to 95 read one, the others zero. -/
def featByte (i : Nat) : Byte := if i < 12 then 0xFF else 0

/-- R8, R246: a byte of the identity block: FEAT0 to FEAT7, part number and firmware version where they stand, else reserved (log
entry 20). -/
def identityByte (s : State) (off : Nat) : Byte :=
  let f := Config.featOffset.toNat
  let p := Config.partOffset.toNat
  let v := Config.versionOffset.toNat
  if f ≤ off ∧ off < f + 64 then featByte (off - f)
  else if p ≤ off ∧ off < p + 8 then byteOf (leBytes 8 Config.partNumber.toNat) (off - p)
  else if v ≤ off ∧ off < v + 8 then byteOf (leBytes 8 (Config.imageVersion s.image).toNat) (off - v)
  else 0

/-- R246: a byte of the physical function's BAR0. -/
def controlByte (s : State) (off : Nat) : Byte :=
  if off < 0x10000 then identityByte s off
  else if off < 0x14000 then byteOf (funcBytes (getFunc s ((off - 0x10000) / 256))) (off % 256)
  else if 0x20000 ≤ off ∧ off < 0x20040 then assignByte (getPort s (off - 0x20000))
  else if 0x30000 ≤ off ∧ off < 0x30020 then byteOf (invalBytes s.inval) (off - 0x30000)
  else if 0x40000 ≤ off ∧ off < 0x44000 then byteOf (peerBytes (mget Peer.reset s.peers ((off - 0x40000) / 16))) (off % 16)
  else if 0x100000 ≤ off ∧ off < 0x200000 then placeByte s.place (off - 0x100000)
  else if 0x200000 ≤ off ∧ off < 0x300000 then mcByte s ((off - 0x200000) / 0x40000) (off % 0x40000)
  else if 0x300000 ≤ off ∧ off < 0x301000 then manageByte s (off - 0x300000)
  else 0

/-- R248: a byte of a virtual function's BAR0; FANS and UNLOAD are write-only. -/
def tenantByte (t : Tenant) (off : Nat) : Byte :=
  if off < 0x08 then byteOf (leBytes 8 t.fbhead.toNat) off
  else if off < 0x10 then byteOf (leBytes 8 t.fbtail.toNat) (off - 0x08)
  else if off < 0x18 then byteOf (leBytes 8 t.fanseq.toNat) (off - 0x10)
  else if 0x20 ≤ off ∧ off < 0x28 then byteOf (leBytes 8 (fsts t).toNat) (off - 0x20)
  else if 0x1000 ≤ off ∧ off < 0x2000 then mget 0 t.registry (off - 0x1000)
  else 0

/-- R8, R245: a byte that the host reads: in BAR2 of the port windows, in BAR0 of the physical function's block and then of the
virtual functions' (log entry 20). Reserved bytes, and the windows of ports of other functions, read zero. -/
def hostByte (s : State) (bar2 : Bool) (off : Nat) : Byte :=
  if bar2 then (if off < 0x40000 ∧ portOpen s (off / 0x1000) = true then portByte (getPort s (off / 0x1000)) (off % 0x1000) else 0)
  else if off < 0x4000000 then controlByte s off
  else if off < 0x4400000 then tenantByte (getTenant s ((off - 0x4000000) / 0x10000)) (off % 0x10000)
  else 0

/-- R192: the sticky bits of QSTAT go with its read. -/
def clearQstat (s : State) (port : Nat) : State := modPort s port fun p => { p with ovf := false, crovf := false }

/-- R248: WFLT goes with the read of FSTS. -/
def clearFsts (s : State) (vf : Nat) : State := modTenant s vf fun t => { t with wflt := false }

/-- What a read by the host changes: the sticky bits of the status registers that it covers. -/
def readEffect (s : State) (bar2 : Bool) (off : Nat) : State :=
  if bar2 then (if off < 0x40000 ∧ portOpen s (off / 0x1000) = true ∧ off % 0x1000 / 8 = 8 then clearQstat s (off / 0x1000) else s)
  else if 0x4000000 ≤ off ∧ off < 0x4400000 ∧ off % 0x10000 / 8 = 4 then clearFsts s ((off - 0x4000000) / 0x10000)
  else s

/-- A read by the host of n bytes. -/
def hostRead (s : State) (bar2 : Bool) (off n : Nat) : State :=
  let v := leNat ((List.range (min n 8)).map fun k => hostByte s bar2 (off + k))
  { readEffect s bar2 off with hostData := BitVec.ofNat 64 v }

/-- R192: bytes of RECORD that the host writes before the last eight, kept by the port. -/
def stageBytes (s : State) (port off : Nat) (bs : List Byte) : State :=
  if portOpen s port && decide (off + bs.length ≤ 56) then
    modPort s port fun p => { p with staged := msetAll 0 p.staged off bs }
  else s

end Sys2Proof.Machine
end

