-- ==== Sys2Proof/Machine/Environment.lean ====
section
/-! DEFINITION. What happens around the device: soft errors (R219, R222 to R227), upsets of the datapath (R73), fatal events (R224),
temperatures and stack freeze (R209, R254), the host's reads and staged bytes (R192, R228), changes that attestation measures
(R252). -/

namespace Sys2Proof.Machine

/-- R224, R216: a running launch aborted by a fatal event; what the record says of a trap is open (log entry 17). -/
def abortFatal (s : State) (l : Launch) : State :=
  let b := Config.openByte s.faultSeq
  abortLaunch s l.key l.vf (b 20).toNat 0 (b 21).toNat (Config.openPc s.faultSeq) (b 18).toNat (b 22).toNat 0

/-- R224: a fatal event of a source: it is logged as kind 8, every running launch is aborted, the physical function is interrupted
and nothing issues until a device reset. -/
def fatalEvent (s : State) (src : Nat) (synd : BitVec 64) : State :=
  let s1 := mcEvent s (src / 2 ^ 14) (src / 2 ^ 11) src 8 0 0 synd.toNat 0 0 0 0
  let s2 := s1.launches.foldl abortFatal s1
  interrupt { s2 with halted := true } .fatal

/-- R222, R223: the key of a special register among the poisoned words of a group. -/
def specialKey (i : Nat) : Nat := 256 * 5 + i

/-- R226: the source of a structure of a core. -/
def coreSource (core type : Nat) : Nat := mcSource (dieOf core) type (core % 64)

/-- R226: the source of the slice of a sector. -/
def sliceSource (s : State) (die sector : Nat) : Nat := mcSource die 1 (l2Slice (paOfIdx s.place (128 * sector)))

/-- R226: the source of a site. Which it is for the TLB and the walk cache of a die the table does not say (log entry 45). -/
def siteSource (s : State) : Site → Nat
  | .vreg u _ _ _ => coreSource (findBlk s u).core 2
  | .slotReg u _ _ _ => coreSource (findBlk s u).core 2
  | .special u _ _ => coreSource (findBlk s u).core 2
  | .pool core _ _ _ _ => coreSource core 2
  | .scratch u _ => coreSource (findBlk s u).core 3
  | .way core _ => coreSource core 3
  | .acc u _ => coreSource (findBlk s u).core 4
  | .l2 die sector _ => sliceSource s die sector
  | .hbm sector _ => mcSource (homeDie sector) 0 (pseudoChannel sector % 256)
  | .tags die slice => mcSource die 1 slice
  | .l1i core _ => coreSource core 7
  | .l2i cluster _ => mcSource (cluster / 16) 7 (96 + cluster % 16)
  | .l3i die sector => sliceSource s die sector
  | .coreTlb core _ => coreSource core 7
  | .dieTlb die _ => die % 4 * 2 ^ 14 + (Config.walkSource s.freeCtr).toNat
  | .walkCache die _ => die % 4 * 2 ^ 14 + (Config.walkSource s.freeCtr).toNat
  | .coulter core _ _ => coreSource core 2
  | .area u k _ => let x := (Config.areaSource (areaKey u k)).toNat; mcSource (x / 256) 0 (x % 256)

/-- R54, R222: the number, from the oldest, of the stack entry at a granule of a group's area. -/
def granuleEntry (granule : Nat) : Nat := granule - 0x68

/-- R54: whether a granule of a group's area holds an entry of the stack of the group, as it runs or is saved. -/
def deepStands (s : State) (u k granule : Nat) : Bool :=
  decide (0x68 ≤ granule) && decide (granuleEntry granule + 16 < (findGroup s u k).ctx.stack.length)

/-- R222: whether something stands where a soft error strikes. -/
def siteStands (s : State) : Site → Bool
  | .vreg u k r l => (findGroup s u k).run != .absent && decide (r < (findBlk s u).regs) && decide (l < 32)
  | .slotReg u k c _ => (findGroup s u k).run != .absent && c != .vector
  | .special u k _ => (findGroup s u k).run != .absent
  | .pool core p q r i => match (getPart s (partKey core p)).furrow with
    | some f => decide (i < (mget [] f.queues (32 * q + r)).length)
    | none => false
  | .scratch u off => decide (off < (findBlk s u).lstore * 32768) && bankMode (findBlk s u) (off / 32768) != 0
  | .way core pa => (getCore s core).l1.any fun x => x.pa == pa
  | .acc u e => decide (e < (findBlk s u).accrows * 128)
  | .l2 die sector g => (getDie s die).l2.any (fun x => x.sector == sector) && decide (g < 4)
  | .hbm sector g => decide (sector < 2 ^ 33) && decide (g < 4)
  | .tags die slice => decide (die < 4) && decide (slice < 64)
  | .l1i core x => (getCore s core).l1i.any fun e => e.1 == x
  | .l2i cluster x => (mget [] s.clusters cluster).any fun e => e.1 == x
  | .l3i die x => (getDie s die).l3i.any fun e => e.1 == x
  | .coreTlb core i => decide (i < (getCore s core).tlb.length)
  | .dieTlb die i => decide (i < (getDie s die).tlb.length)
  | .walkCache die i => decide (i < (getDie s die).walks.length)
  | .coulter _ p i => decide (p < 4) && decide (i < 512)
  | .area u k n => decide (k ≤ 32) && (deepStands s u k n || ((mget [] s.areas (areaKey u k)).any fun e => e.1 / 32 == n))

/-- R225: the kind of the log entry of a soft error, 0 where it is not logged. Uncorrectable errors of context state (R223) are
kind 4, of memory kind 3 (log entry 45). -/
def siteKind (site : Site) (bad : Bool) : Nat :=
  match site with
  | .way _ _ => if bad then 2 else 1
  | .l2 _ _ _ => if bad then 3 else 1
  | .hbm _ _ => if bad then 3 else 1
  | .tags _ _ => if bad then 8 else 1
  | .l1i _ _ => 2
  | .l2i _ _ => 2
  | .l3i _ _ => 2
  | .coreTlb _ _ => 2
  | .dieTlb _ _ => 2
  | .walkCache _ _ => 2
  | .coulter _ _ _ => 0
  | .area _ _ _ => if bad then 3 else 1
  | _ => if bad then 4 else 1

/-- R223: words of a group poisoned, in what a window would bring back too. -/
def poisonWords (v s : List Nat) (g : Group) : Group :=
  let put := fun (l : List Nat) (m : List (Nat × Bool)) => l.foldl (fun m i => mset false m i true) m
  let both := fun (w : Window) => { w with poisonV := put v w.poisonV, poisonS := put s w.poisonS }
  { g with poisonV := put v g.poisonV, poisonS := put s g.poisonS, window := g.window.map both, undo := g.undo.map both }

/-- R222: the token at a position of a queue copy is poisoned; the rules give no reading of a poisoned word of the pool, and the
model makes the token an error token (log entry 45). -/
def poisonToken (key pos : Nat) (f : Furrow) : Furrow :=
  { f with queues := mset [] f.queues key (((mget [] f.queues key).zipIdx).map fun x =>
      if x.2 = pos then { x.1 with err := true } else x.1) }

/-- R222: what an uncorrectable soft error does to its word or entry, and a parity error to its entry. -/
def strike (s : State) : Site → State
  | .vreg u k r l => updGroup s u k (poisonWords [32 * r + l] [])
  | .slotReg u k c n => updGroup s u k (poisonWords [] [256 * clsCode c + n])
  | .special u k i => updGroup s u k (poisonWords [] [specialKey i])
  | .pool core p q r i => modPart s (partKey core p) fun x => { x with furrow := x.furrow.map (poisonToken (32 * q + r) i) }
  | .scratch u off => updBlk s u fun b => { b with scratchPoison := mset false b.scratchPoison (off / 8) true }
  | .way core pa => modCore s core fun c => { c with l1 := c.l1.filter fun x => x.pa != pa }
  | .acc u e => updBlk s u fun b => { b with accPoison := mset false b.accPoison e true }
  | .l2 _ sector g => { s with memPoison := mset false s.memPoison (4 * sector + g) true }
  | .hbm sector g => { s with memPoison := mset false s.memPoison (4 * sector + g) true }
  | .tags _ _ => s
  | .l1i core x => modCore s core fun c => { c with l1i := mdel c.l1i x }
  | .l2i cluster x => { s with clusters := mset [] s.clusters cluster (mdel (mget [] s.clusters cluster) x) }
  | .l3i die x => modDie s die fun d => { d with l3i := mdel d.l3i x }
  | .coreTlb core i => modCore s core fun c => { c with tlb := c.tlb.eraseIdx i }
  | .dieTlb die i => modDie s die fun d => { d with tlb := d.tlb.eraseIdx i }
  | .walkCache die i => modDie s die fun d => { d with walks := d.walks.eraseIdx i }
  | .coulter core p i => modPart s (partKey core p) fun x => { x with coulter := mset ⟨0, 0, 0⟩ x.coulter i ⟨0, 0, 0⟩ }
  | .area u k n =>
    if deepStands s u k n then
      updGroup s u k (outside fun c => { c with stack := strikeDeep s (granuleEntry n) c.stack })
    else
      let m := areaPut (mget [] s.areas (areaKey u k)) (32 * n) (lostBytes s (areaPlace u k + 32 * n) 32)
      { s with areas := mput s.areas (areaKey u k) m }

/-- R225: flags, address, function, core, partition and slot of the log entry of a soft error. -/
def siteEntry (s : State) (site : Site) : Nat × Addr × Nat × Nat × Nat × Nat :=
  let group := fun (u k : Nat) =>
    (4, (0 : Addr), (findBlk s u).vf, (findBlk s u).core % 64, (findGroup s u k).part, k)
  match site with
  | .vreg u k _ _ => group u k
  | .slotReg u k _ _ => group u k
  | .special u k _ => group u k
  | .way _ pa => (1, BitVec.ofNat 72 (128 * pa), 0, 0, 0, 0)
  | .l2 _ sector g => (1, BitVec.ofNat 72 (paOfIdx s.place (128 * sector + 32 * g)), 0, 0, 0, 0)
  | .hbm sector g => (1, BitVec.ofNat 72 (paOfIdx s.place (128 * sector + 32 * g)), 0, 0, 0, 0)
  | _ => (0, 0, 0, 0, 0, 0)

/-- R222, R227: a soft error: its structure corrects it, drops the entry or poisons the word, and it is logged; one of a coulter
table is repaired silently, an uncorrectable one of tags, filter or directory is fatal. -/
def softError (s : State) (site : Site) (bad : Bool) (synd : BitVec 64) : State :=
  if siteStands s site then
    let kind := siteKind site bad
    let src := siteSource s site
    let e := siteEntry s site
    let s1 := if bad || kind = 2 || kind = 0 then strike s site else s
    if kind = 0 then s1
    else if kind = 8 then fatalEvent s1 src synd
    else mcEvent s1 (src / 2 ^ 14) (src / 2 ^ 11) src kind e.1 e.2.1 synd.toNat e.2.2.1 e.2.2.2.1 e.2.2.2.2.1 e.2.2.2.2.2
  else s

/-- R209: whether every stack stands at least 5 °C below its critical temperature. -/
def allCool (s : State) : Bool := (List.range 16).all fun i => decide (tempOf s i + 5 ≤ critOf s i)

/-- R209: the time since which every stack has stood 5 °C below critical, after a change of temperatures or limits. -/
def coolFrom (old new : State) : State := if allCool new && !allCool old then { new with cooled := new.clock } else new

/-- R209: a stack reaches its critical temperature: it enters self-refresh and the device freezes. One that follows during a
freeze extends it. -/
def freezeAt (s : State) (stack : Nat) : State :=
  let s1 := { s with hot := mset false s.hot stack true }
  if s.frozen then s1 else interrupt { s1 with frozen := true, freezes := s.freezes + 1 } .freeze

/-- R209, R254: a temperature measured at a stack. -/
def measure (s : State) (stack deg : Nat) : State :=
  if 16 ≤ stack then s
  else
    let s1 := coolFrom s { s with temps := mset 0 s.temps stack deg }
    if critOf s stack ≤ deg then freezeAt s1 stack else s1

/-- R252: the reading of a measurement index is stale in every session. -/
def staleReading (s : State) (index : Nat) : State :=
  { s with
    sessionRead := mset false s.sessionRead index false
    sessions := s.sessions.map fun e => (e.1, mset false e.2 index false) }

/-- R252: whether any tenant key is installed. -/
def anyKey (s : State) : Bool := s.keys.any fun e => e.2

/-- R252: the state after a write to what a measurement index measures, whose readings a change makes stale. -/
def measuredWrite (s t : State) (index : Nat) (changed : Bool) : State := if changed then staleReading t index else s

/-- R252: a write to what index 3 or 4 measures: a change is ignored while any key is installed. -/
def policyWrite (s t : State) (index : Nat) (changed : Bool) : State :=
  if anyKey s then s else measuredWrite s t index changed

/-- R252: the session that was in use, kept under its number. -/
def parkSession (s : State) : State :=
  if s.session then { s with sessions := mput s.sessions s.sessionNo s.sessionRead } else s

/-- R252: another session comes into use. -/
def useSession (s : State) (n : Nat) : State :=
  match s.sessions.find? fun e => e.1 == n with
  | none => s
  | some e =>
    let s1 := parkSession s
    { s1 with session := true, sessionNo := n, sessionRead := e.2, sessions := mdel s1.sessions n }

/-- R138: with one way fewer, or one more, in some slices, a line of each set that is too full leaves the L2 of a die: the least
recently used about which the die awaits no answer. -/
def Coh.shrink (die : Nat) (c : Coh) : Coh :=
  match (c.die die).l2.find? fun x => dataWays (c.die die) (l2Slice (1024 * (x.pa / 8))) < (setLines (c.die die) (x.pa / 8)).length with
  | none => c
  | some x => match (setLines (c.die die) (x.pa / 8)).find? fun y => !c.lineBusy die y with
    | some y => c.dropLine die y
    | none => c

/-- R138: management reserves one way in each of n slices of a die for L3I, which starts empty; what the protocol has under way
ends first (log entry 28). -/
def reserveWays (s : State) (die n : Nat) : State :=
  if die < 4 ∧ n ≤ 64 then
    let s1 := modDie s die fun d => { d with l3iWays := n, l3i := [] }
    onCoh s1 fun c => (List.range (getDie s1 die).l2.length).foldl (fun c _ => c.shrink die)
      (Coh.settle (fun _ _ => true) 4000 c)
  else s

/-- R166: whether a group may yet issue a command, to write at an offset of the scratch of a block of its span, ahead of which n
bytes are written there now. -/
def mayPromise (s : State) (uid off n byUid bySlot : Nat) : Bool :=
  let b := findBlk s uid
  let g := findGroup s byUid bySlot
  g.run != .absent && g.run != .exited && (spanBlocks s (findBlk s byUid)).any (fun x => x.uid == uid) && inWindow b off n &&
    !windowBusy b off n && !(s.early.any fun x => x.uid == uid && decide (x.off < off + n) && decide (off < x.off + x.bytes.length))

/-- R166: an element that a command with ACQ clear is to write is performed ahead of its issue (log entry 44). -/
def writeAhead (s : State) (uid off : Nat) (bs : List Byte) (byUid bySlot skip : Nat) : State :=
  let x : Loose := ⟨uid, off, scratchBytes (findBlk s uid) off bs.length, uid != byUid, byUid, unissued, 0, 0, 0, [], []⟩
  putScratch { s with loose := s.loose ++ [x], early := s.early ++ [⟨uid, off, bs, byUid, bySlot, skip, none, false⟩] } uid
    (cellsAt off bs)

/-- What happens around the device, but for soft errors; in recovery the host and management change nothing (R253). -/
def around (s : State) : Env → State
  | .soft _ _ _ => s
  | .upset u k m => updGroup s u k fun g => { g with upset := g.upset ||| m }
  | .flit die other => { s with flits := mdel s.flits (4 * die + other) }
  | .temp stack deg => measure s stack deg
  | .via fn => { s with via := some fn }
  | .read bar2 off n => hostRead s bar2 off n
  | .stage port off bs => if s.recovery then s else stageBytes s port off bs
  | .repair v => if s.recovery then s else policyWrite s { s with repair := v } 3 (v != s.repair)
  | .signKey vf k =>
    if s.recovery then s else policyWrite s { s with signKeys := mset 0 s.signKeys vf k } 4 (k != mget 0 s.signKeys vf)
  | .session n => if s.recovery then s else useSession s n
  | .codeWays die n => if s.recovery then s else reserveWays s die n
  | .ahead uid off bs u k skip =>
    if bs ≠ [] ∧ mayPromise s uid off bs.length u k = true then writeAhead s uid off bs u k skip else s

/-- The soft errors of a list of events, in ascending order of source (R227). -/
def insertSoft (s : State) (x : Site × Bool × BitVec 64) : List (Site × Bool × BitVec 64) → List (Site × Bool × BitVec 64)
  | [] => [x]
  | y :: t => if siteSource s x.1 ≤ siteSource s y.1 then x :: y :: t else y :: insertSoft s x t

/-- The soft errors of a list of events. -/
def softOf : Env → Option (Site × Bool × BitVec 64)
  | .soft site bad synd => some (site, bad, synd)
  | _ => none

/-- What happens around the device in one cycle: first all but the soft errors, in their order, then these in ascending order of
source (R227). -/
def surround (s : State) (l : List Env) : State :=
  let s1 := l.foldl around s
  ((l.filterMap softOf).foldr (insertSoft s1) []).foldl (fun acc x => softError acc x.1 x.2.1 x.2.2) s1

end Sys2Proof.Machine
end

