-- ==== Sys2Proof/Machine/Fetch.lean ====
section
/-! DEFINITION. Fetching an instruction (R155, R168, R238, R255), what an illegal pattern does (R271), when a group may issue
(R89, R205, R209), the passing of time, and placing an instruction where it is fetched next. -/

namespace Sys2Proof.Machine

/-- Why a fetch gives no instruction: a missing translation, a permission failure, poisoned bytes (R155, R224). -/
inductive FetchErr where
  | memf (va : Addr) (lvl : Nat) (malf : Bool)
  | prot (va : Addr) (detail : BitVec 8)
  | poison (va : Addr)
  deriving DecidableEq, Repr

/-- The sector that an instruction-cache level holds. -/
def cacheSector (c : List (Nat × List Byte)) (sec : Nat) : Option (List Byte) := (c.find? fun x => x.1 == sec).map fun x => x.2

/-- The byte that an instruction-cache level holds of a place. -/
def cacheByte (c : List (Nat × List Byte)) (i : Nat) : Option Byte :=
  match cacheSector c (i / 128) with
  | some bs => bs[i % 128]?
  | none => none

/-- R238: a sector of an instruction-cache level that has been used is the most recent. -/
def cacheTouch (c : List (Nat × List Byte)) (sec : Nat) : List (Nat × List Byte) :=
  c.filter (fun x => x.1 != sec) ++ c.filter fun x => x.1 == sec

/-- R238, R168: a byte of memory as an instruction fetch reads it under a page: of a halfword of which a copy has written one
byte, the byte before the copy. -/
def memCode (s : State) (leaf i : Nat) : Byte :=
  match s.torn.find? fun x => x.half == i / 2 with
  | some x => (x.old[i % 2]?).getD 0
  | none => pageByte s leaf i

/-- The lines of the L2I of a cluster (R238). -/
def getCluster (s : State) (k : Nat) : List (Nat × List Byte) := mget [] s.clusters k

/-- R238: the byte at a place of memory as fetch reads it under a page: L1I, L2I, L3I, then memory. -/
def codeByte (s : State) (core leaf i : Nat) : Byte :=
  match cacheByte (getCore s core).l1i i with
  | some b => b
  | none => match cacheByte (getCluster s (clusterOf core)) i with
    | some b => b
    | none => match cacheByte (getDie s (dieOf core)).l3i i with
      | some b => b
      | none => memCode s leaf i

/-- R238: the level that serves a fetch of a sector holds it as its most recent. -/
def codeTouch (s : State) (core sec : Nat) : State :=
  if (cacheSector (getCore s core).l1i sec).isSome then modCore s core fun c => { c with l1i := cacheTouch c.l1i sec }
  else if (cacheSector (getCluster s (clusterOf core)) sec).isSome then
    { s with clusters := mset [] s.clusters (clusterOf core) (cacheTouch (getCluster s (clusterOf core)) sec) }
  else modDie s (dieOf core) fun d => { d with l3i := cacheTouch d.l3i sec }

/-- R147, R205: the group in focus needs a sector for which it has to wait under a cap, and is then swapped out. -/
def queueCode (s : State) (core leaf sec : Nat) : State :=
  if registerWaits s core sec then
    modG (queueMiss core leaf [ownerKey s.blk.uid s.g.slot] s sec) fun g => { g with swapDue := true }
  else s

/-- R138, R238: what a fetch of a sector that no instruction cache holds asks for: the sector in the die's L2, or its home where
the page is DIRECT. -/
def obtainCode (s : State) (core leaf sec : Nat) : State :=
  if entryMT leaf = 2 then atHome s sec else fetchSector (dieOf core) leaf false (queueCode s core leaf sec) sec

/-- Whether some instruction-cache level holds a place. -/
def codeCached (s : State) (core i : Nat) : Bool :=
  (cacheByte (getCore s core).l1i i).isSome || (cacheByte (getCluster s (clusterOf core)) i).isSome ||
    (cacheByte (getDie s (dieOf core)).l3i i).isSome

/-- R168: whether the fetch takes a byte that the group in focus has prefetched (log entry 9). -/
def takesPrefetched (s : State) (va : Addr) : Bool := mhas s.g.ibuf va.toNat && Config.prefetchUsed s.freeCtr

/-- One byte of an instruction of the group in focus. Bytes that it has prefetched may be used (R168, log entry 9). DESIGN
CHOICE: where an instruction crosses into a page that fails, R155 says only that the fault stands at its PC; the address that it
bears is that of the first byte that cannot be fetched (log entry 10). -/
def fetchByte (s : State) (va : Addr) : Except FetchErr Byte :=
  match translate s s.blk.core s.blk.vf va with
  | .fault lvl malf => .error (.memf va lvl malf)
  | .ok pa leaf =>
    match protDetail s s.blk.vf s.g.ctx.handler false true false pa leaf with
    | some d => .error (.prot va d)
    | none =>
      let i := accIdx s s.blk.core leaf pa
      if takesPrefetched s va then .ok (mget 0 s.g.ibuf va.toNat)
      else if !codeCached s s.blk.core i && poisonedAt s i 1 then .error (.poison va)
      else .ok (codeByte s s.blk.core leaf i)

/-- The n bytes from an address, in order. -/
def fetchBytes (s : State) (va : Addr) : Nat → Except FetchErr (List Byte)
  | 0 => .ok []
  | n + 1 => match fetchByte s va with
    | .error e => .error e
    | .ok b => match fetchBytes s (va + 1) n with
      | .error e => .error e
      | .ok t => .ok (b :: t)

/-- R255: the length and the word of the instruction at the PC. -/
def peek (s : State) : Except FetchErr (Nat × Nat) :=
  match fetchByte s s.ctx.pc with
  | .error e => .error e
  | .ok b => match fetchBytes s s.ctx.pc (lengthOf b.toNat) with
    | .error e => .error e
    | .ok bs => .ok (lengthOf b.toNat, leNat bs)

/-- TRAPINFO.LEN where no instruction could be fetched: the spec states none (log entry 10). -/
def openLen (s : State) : Nat := (Config.fetchTrapLen s.freeCtr).toNat

/-- R155, R224: a fetch that gives no instruction; none has issued. With a window open the model resolves it first, a MEMF
included, where the rules do not say whether the group is parked at once (log entry 33). -/
def fetchFails (s : State) (e : FetchErr) : Host.Outcome State Fault Refusal :=
  match s.g.window, e with
  | some _, _ => .next (resolveWindow s)
  | none, .memf va lvl malf => .next (parkMemf s none va lvl malf kindFetch)
  | none, .prot va d => .next (takeTrap s ⟨5, d, 0, va, none⟩ (openLen s) none)
  | none, .poison va => .next (takeTrap s ⟨12, 5, 0, va, none⟩ (openLen s) none)

/-- R271, R90: a pattern of n bytes that is no instruction. A furrow owner's ends its furrow first. -/
def illegal (s : State) (n w : Nat) : Host.Outcome State Fault Refusal :=
  if s.g.fown then .next (illTrap (issued (killFurrow s (myPart s))) n w (fullLen s.ctx n))
  else trapOr s fun u => illTrap u n w (fullLen s.ctx n)

/-- R93: n cycles without activity of the furrow of a partition. -/
def tickFurrow (n : Nat) (p : Part) : Part := { p with furrow := p.furrow.map fun f => { f with idle := f.idle + n } }

/-- R359: n contended cycles pass for the groups of a partition that stand aside: those in which another active group of the
partition is ready. A group stands aside in the last of its cycles too. -/
def tickAside (s : State) (n : Nat) (p : Part) : Part :=
  let ready := readyOf s p.active
  { p with yielded := (p.yielded.filter fun x => x.2.2 != 0).map fun x =>
      if ready.any fun y => !(y.1 == x.1 && y.2 == x.2.1) then (x.1, x.2.1, x.2.2 - n) else x }

/-- Whether a group may issue: resident, ready, not parked (R89), with issue neither frozen (R209) nor stopped (R224), and the
one that its partition issues next (R32, R205, R359). -/
def mayIssue (s : State) : Bool :=
  s.g.run == .ready && !s.g.parked && s.blk.phase == .resident && !s.frozen && !s.halted &&
    nextIssue s (myPart s) == some (s.g.uid, s.g.slot)

/-- What comes before the next instruction at the PC (R60, R68, R94). -/
inductive Before where
  | trap | replay | resolve | switch | pop | fetch
  deriving DecidableEq, Repr

/-- R65, R48: whether the predicate of an open window has landed by the stall counts of what has issued since its producer, so
that the window is resolved before anything else issues. -/
def windowDue (g : Group) : Bool :=
  match g.window with
  | some w => w.left == 0
  | none => false

/-- What the group in focus does next: a trap that waits for it, the replays of a resolution, the resolution of a window whose
predicate has landed, the rejoin rule of R60 at a new PC (in a window, resolution comes first, R67), else the instruction at its
PC. -/
def beforeNext (s : State) : Before :=
  if s.g.trapReq.isSome then .trap
  else if !s.g.replay.isEmpty then .replay
  else if windowDue s.g then .resolve
  else if !s.ctx.prefixes.isEmpty then .fetch
  else match s.ctx.stack with
    | [] => .fetch
    | e :: _ =>
      if e.rejoin = s.ctx.pc then
        (if s.g.window.isSome then .resolve else if e.pending = 0 then .pop else .switch)
      else .fetch

/-- R208: whether the governor withholds issue cycles from a group. -/
def throttled (s : State) (g : Group) : Bool :=
  let b := findBlk s g.uid
  let gov := (getDie s (dieOf b.core)).gov
  (gov == .throttle || gov == .clockdown) && decide (4 ≤ b.energy.toNat) && isReady s g

/-- R42, R208: the cycles of a die in n counts of the time base. -/
def dieCycles (d : Die) (n : Nat) : Nat := (d.phase + n * d.mhz) / 1500

/-- R42, R208: the clock of a die after n counts of the time base. -/
def tickDie (n : Nat) (d : Die) : Die := { d with phase := (d.phase + n * d.mhz) % 1500 }

/-- R42: the counts of the time base that a cycle of a die spans at most. -/
def cycleCounts (d : Die) : Nat := if d.mhz = 0 then 1 else (1499 + d.mhz) / d.mhz

/-- The cycles that a resident group sees (R45); a frozen one waits for nothing (R209). -/
def tickGroup (n : Nat) (frozen ready : Bool) (g : Group) : Group :=
  let g1 := countEvt evCycles n g
  let g2 := if g.fown then countEvt evFurrowCycles n g1 else g1
  match g.run with
  | .atLatch _ _ _ => countEvt evRdvWait n g2
  | .ready => if frozen || !ready then g2 else { g2 with waited := g2.waited + n }
  | _ => g2

/-- Whether a group takes part in time: it stands somewhere and its block is not saved. -/
def counted (s : State) (g : Group) : Bool := g.run != .absent && (findBlk s g.uid).phase != .saved

/-- R147: whether a request of a group waits for a miss slot under a cap. -/
def capWaits (s : State) (g : Group) : Bool :=
  (getCore s (findBlk s g.uid).core).missQ.any fun x => hasNat x.owners (ownerKey g.uid g.slot)

/-- Whether a group is ready but for a scoreboarded operand (R45, R191). -/
def operandWaits (s : State) (g : Group) : Bool :=
  g.run == .ready && !g.parked && stillWaits s g && match g.waitOn with
    | .operand _ _ => true
    | _ => false

/-- The counts for a group of the device of the cycles that its die makes in n counts of the time base: those of R45,
BANK_CAP_WAIT (R147), SB_WAIT, PWR_DEFER (R208). -/
def tickOne (s : State) (n : Nat) (g : Group) : Group :=
  if counted s g then
    let c := dieCycles (getDie s (dieOf (findBlk s g.uid).core)) n
    let g1 := tickGroup c s.frozen (isReady s g) g
    let g2 := if capWaits s g then countEvt evBankCap c g1 else g1
    let g3 := if operandWaits s g then countEvt evSbWait c g2 else g2
    if throttled s g then countEvt evPwrDefer (min c (Config.withheld s.freeCtr)) g3 else g3
  else g

/-- The counts of the time base in a step: at least those of a cycle of the die in focus. -/
def stepCounts (s : State) : Nat := cycleCounts (getDie s (dieOf s.blk.core)) + Config.elapsed s.freeCtr

/-- R137, R170, R209: the age of what a core's L1 holds after n cycles. -/
def tickL1 (n : Nat) (c : Core) : Core := { c with l1 := c.l1.map fun x => { x with age := x.age + n } }

/-- The cycles that the core of a block makes in n counts of the time base. -/
def blockCycles (s : State) (n uid : Nat) : Nat := dieCycles (getDie s (dieOf (findBlk s uid).core)) n

/-- Time passes: the reference time base (R42), the clocks of the dies (R208), the cycle counts of the groups, the counter of the
free values. -/
def passTime (s : State) : State :=
  let n := stepCounts s
  let s1 := modGroups s (tickOne s n)
  { s1 with
    parts := if s.frozen then s1.parts
      else s1.parts.map fun e =>
        let c := dieCycles (getDie s (dieOf (e.1 / 4))) n
        (e.1, tickFurrow c (tickAside s c e.2))
    cores := if s.frozen then s1.cores
      else s1.cores.map fun e => (e.1, tickL1 (dieCycles (getDie s (dieOf e.1)) n) e.2)
    loose := if s.frozen then s1.loose else s1.loose.map fun x => { x with age := x.age + blockCycles s n x.uid }
    dies := s1.dies.map fun e => (e.1, tickDie n e.2)
    clock := s.clock + n
    frozenTime := if s.frozen then s.frozenTime + n else s.frozenTime
    freeCtr := s.freeCtr + 1 }

/-- One step of time: time passes, deferred blocks ripen (R207), and what is around the device has its effect. -/
def tick (s : State) : State := surround { ripen (passTime s) with env := s.env.tail, via := none } (s.env.headD [])

/-- R255: the addresses of the bytes of the instruction at the PC, as far as it can be read. -/
def fetchAddrs (s : State) : List Addr :=
  match peek s with
  | .ok (n, _) => (List.range n).map fun k => s.ctx.pc + BitVec.ofNat 72 k
  | .error _ => [s.ctx.pc]

/-- R155, R168: the sectors that the fetch at the PC reads, each with its page: of the bytes that it may fetch and that the
group has not prefetched. -/
def codeSectors (s : State) : List (Nat × Nat) :=
  ((fetchAddrs s).filterMap fun va => match translate s s.blk.core s.blk.vf va with
    | .ok pa leaf =>
      if takesPrefetched s va || (protDetail s s.blk.vf s.g.ctx.handler false true false pa leaf).isSome then none
      else some (accIdx s s.blk.core leaf pa / 128, leaf)
    | .fault _ _ => none).eraseDups

/-- R45: whether the fetch of the instruction at the PC misses its core's L1I in a sector. -/
def fetchMisses (s : State) : Bool :=
  (codeSectors s).any fun x => (cacheSector (getCore s s.blk.core).l1i x.1).isNone

/-- R152, R238: what the fetch at the PC asks for: walks; the sectors it reads become the most recently used of the level that
serves them, or come to the die's L2 where no instruction cache holds them. -/
def fetchAsks (s : State) : State :=
  let s1 := (fetchAddrs s).foldl (fun acc va => askWalk acc s.blk.core s.blk.vf va) s
  (codeSectors s).foldl (fun acc x =>
    if codeCached s s.blk.core (128 * x.1) then codeTouch acc s.blk.core x.1 else obtainCode acc s.blk.core x.2 x.1) s1

/-- The group in focus is chosen to issue: it waits no longer (R205), its partition has issued for it, and the cycles of a
fetch that misses count as FETCH_STALL (R45). Where another group of the partition has issued since it did, or its fetch
misses, the gap after its producers is longer than the counts promise (R48). -/
def chosen (s : State) : State :=
  let miss := beforeNext s == .fetch && fetchMisses s
  let me := some (s.g.uid, s.g.slot)
  let s1 := modG s fun g =>
    { g with
      waited := 0, waitOn := .nothing
      ctx := if miss || (getPart s (myPart s)).last != me then { g.ctx with pend := loosen g.ctx.pend } else g.ctx }
  let s2 := if miss then modG s1 (countEvt evFetchStall (1 + Config.fetchCycles s.freeCtr)) else s1
  modPart (if beforeNext s == .fetch then fetchAsks s2 else s2) (myPart s) fun p => { p with last := me }

/-- R205: the scheduler of the partition in focus has done what is due; a freeze (R209) and a fatal event (R224) stop it. -/
def scheduled (s : State) : State := if s.frozen || s.halted then s else schedule s (myPart s)

/-- The function under which `State.withFetchWord` loads a program. -/
def loadFunc : Func := ⟨true, 1, 0, 0x100000, 0, 0, 0, 0, 0, 0, 0, 0, 0⟩

/-- The block of one group that `State.withFetchWord` makes resident on core 0. -/
def loadBlock (uid : Nat) : Block :=
  { Block.none with
    uid := uid, groups := 1, regs := 256, span := uid, entry := 0x10000, phase := .resident }

/-- Its group, at the start values of R21. -/
def loadGroup (uid : Nat) : Group :=
  { Group.none with uid := uid, run := .ready, ctx := { Ctx.start with pc := 0x10000 } }

/-- Page tables from PA 0x100000 on that map the page at VA 0x10000 to PA 0x200000, readable, writable and executable. -/
def loadTables : List (Nat × Byte) :=
  cellsAt 0x100000 (leBytes 8 0x110001) ++ cellsAt 0x110000 (leBytes 8 0x120001) ++
    cellsAt 0x120000 (leBytes 8 0x130001) ++ cellsAt 0x130000 (leBytes 8 0x140001) ++
    cellsAt 0x140008 (leBytes 8 0x20000F)

/-- A group made resident, as a load from outside the machine does it (log entry 11). -/
def loadMachine (s : State) : State :=
  { s with
    g := loadGroup s.uidNext
    groups := putBack s.g s.groups
    blk := loadBlock s.uidNext
    blks := putBackBlk s.blk s.blks
    funcs := mput s.funcs 0 loadFunc
    mem := writeCells s.mem loadTables
    place := mdrop (fun k => decide (k < 64)) s.place
    memPoison := clearPoison s.memPoison loadTables
    torn := []
    cores := mset Core.reset s.cores 0 { getCore s 0 with tlb := [], l1i := [] }
    clusters := mdel s.clusters 0
    dies := mset Die.reset s.dies 0 { getDie s 0 with tlb := [], walks := [], walking := [], l2 := [], l3i := [] }
    parts := mset Part.reset s.parts 0 { getPart s 0 with active := [(s.uidNext, 0)], pending := [], furrow := none }
    frozen := false
    halted := false
    broken := false
    uidNext := s.uidNext + 1 }

/-- The place of each of n bytes from an address that the group in focus may fetch, or none. -/
def codePlaces (s : State) (va : Addr) (n : Nat) : Option (List Nat) :=
  let l := (List.range n).filterMap fun k =>
    match translate s s.blk.core s.blk.vf (va + BitVec.ofNat 72 k) with
    | .fault _ _ => none
    | .ok pa leaf => match protDetail s s.blk.vf s.g.ctx.handler false true false pa leaf with
      | some _ => none
      | none => some (accIdx s s.blk.core leaf pa)
  if l.length = n then some l else none

/-- Whether the next step, with nothing in the agenda, fetches at the PC. -/
def fetchesNext (s : State) : Bool :=
  !s.broken && mayIssue s && mayIssue (scheduled s) && beforeNext s == .fetch && s.ctx.prefixes.isEmpty && s.g.window.isNone &&
    (codePlaces s s.ctx.pc 8).isSome

/-- The bytes of an instruction stored where the group in focus fetches them next, with no stale copy of them left. -/
def storeCode (s : State) (bs : List Byte) : State :=
  match codePlaces s s.ctx.pc bs.length with
  | none => s
  | some l =>
    let sec := l.map (· / 128)
    let s1 := { s with
      mem := writeCells s.mem (l.zip bs)
      memPoison := s.memPoison.filter fun e => !hasNat (l.map (· / 32)) e.1
      memKey := mdrop (hasNat sec) s.memKey
      torn := s.torn.filter fun x => !hasNat (l.map (· / 2)) x.half
      agenda := []
      env := [] }
    let s2 := modG s1 fun g => { g with ibuf := [] }
    let s3 := modCore s2 s.blk.core fun c => { c with l1i := mdrop (hasNat sec) c.l1i }
    let s4 := modDie s3 (dieOf s.blk.core) fun d => { d with l3i := mdrop (hasNat sec) d.l3i }
    { s4 with clusters := mset [] s4.clusters (clusterOf s.blk.core) (mdrop (hasNat sec) (getCluster s4 (clusterOf s.blk.core))) }

/-- An instruction of nbits bits placed where the next step fetches; without a group that fetches next, one is loaded first. -/
def placeWord (s : State) (nbits w : Nat) : State :=
  storeCode (if fetchesNext { s with agenda := [], env := [] } then s else loadMachine s) (leBytes 8 (w % 2 ^ nbits))

end Sys2Proof.Machine
end

