-- ==== Sys2Proof/Machine/Scheduling.lean ====
section
/-! DEFINITION. The group scheduler of a partition (R205, R359) and the barriers of blocks and spans (R27, R28). -/

namespace Sys2Proof.Machine

/-- R205: the group in focus is swapped out where it is due to be, and the vacancy is filled. -/
def execGroupSwapOut (s : State) : Host.Outcome State Fault Refusal :=
  .next (if swapWanted s.g && maySwap s (myPart s) s.g.uid s.g.slot then swapFor s (myPart s) s.g.uid s.g.slot else s)

/-- R32: the boosted groups of an active set, oldest first, and then the others. -/
def boostFront (s : State) (l : List (Nat × Nat)) (x : Nat × Nat) : List (Nat × Nat) :=
  let rest := dropPair l x.1 x.2
  let ahead := (boostedOf s rest).filter fun y => older s y x
  ahead ++ x :: rest.filter fun y => !hasPair ahead y.1 y.2

/-- R205, R32: the group in focus, ready and unissued for 256 cycles, moves to the front of the active set, behind the boosted
groups that are older. -/
def execIssueBoost (s : State) : Host.Outcome State Fault Refusal :=
  .next (if isReady s s.g && decide (256 ≤ s.g.waited) && hasPair (getPart s (myPart s)).active s.g.uid s.g.slot then
      modPart s (myPart s) fun p => { p with active := boostFront s p.active (s.g.uid, s.g.slot) }
    else s)

/-- R205: the group in focus, ready and pending for 4,096 cycles, takes the place of the group that has been active longest. -/
def execPendingStarvationSwap (s : State) : Host.Outcome State Fault Refusal :=
  let k := myPart s
  .next (if isReady s s.g && decide (4096 ≤ s.g.waited) && hasPair (getPart s k).pending s.g.uid s.g.slot then
      starvationSwap s k s.g.uid s.g.slot
    else s)

/-- R359 YIELD: a swap for a pending group that is ready, else the group stands aside for 16 contended cycles. -/
def yieldBody (s : State) : State :=
  let k := myPart s
  if (readyOf s (getPart s k).pending).isEmpty then
    modPart s k fun p => { p with
      yielded := (p.yielded.filter fun x => !(x.1 == s.g.uid && x.2.1 == s.g.slot)) ++ [(s.g.uid, s.g.slot, 16)] }
  else swapFor s k s.g.uid s.g.slot

/-- R359 YIELD. -/
def execYield (s : State) : Host.Outcome State Fault Refusal :=
  issue .yield { size := 4, closes := true } (fun _ s => .ok (yieldBody s)) s

/-- R28: whether every group of a block that has not exited has arrived, by an arrival mask. -/
def allArrived (s : State) (uid : Nat) (m : Mask) : Bool :=
  (groupsOf s uid).all fun g => g.run == .exited || laneOn m g.slot

/-- R28: block barrier n of a block completes when its last participant has arrived: its groups become ready, and the
barrier is free. -/
def checkBar (s : State) (uid n : Nat) : State :=
  let m := mget 0 (findBlk s uid).bar n
  if m ≠ 0 ∧ allArrived s uid m = true then
    let s1 := updBlk s uid fun b => { b with bar := mdel b.bar n }
    modGroups s1 fun g => if g.uid == uid && g.run == .atBar n then { g with run := .ready } else g
  else s

/-- Whether a block stands in the span of a block. -/
def inSpan (l : List Block) (uid : Nat) : Bool := l.any fun b => b.uid == uid

/-- R188, R355, R357, R358: whether the block of an engine command names span scratch as what it writes. -/
def writesSpanScratch (k : Cmd) : Bool :=
  let space := fun o => leNat ((k.bytes.drop o).take 1) % 4
  (k.kind == 0 && space 49 == 2) || (k.kind == 3 && space 49 == 2) || (k.kind == 1 && space 65 == 2) ||
    (k.kind == 2 && space 65 == 2) || (k.kind == 4 && space 32 == 2)

/-- R164: whether a block has a live command that writes span scratch: its elements are to be performed before a departure
from a span barrier. -/
def spanWritePending (b : Block) : Bool :=
  b.cmds.any fun k => (k.state == .pending || k.state == .faultedRetry) && writesSpanScratch k

/-- R164: engine writes into the scratch of a span stand before every departure from its barrier; those of a command that is yet
to be issued are none of them. -/
def dropSpanLoose (s : State) (l : List Block) : State :=
  { s with loose := s.loose.filter fun x => !(x.span && x.cmdNum != unissued && inSpan l x.uid) }

/-- R28, R164: span barrier n of the span of a block, complete once all have arrived and the engine writes into span scratch
of the span are performed; its departure drops the L1 of every core of the span (R277). -/
def checkSpanBar (s : State) (b : Block) (n : Nat) : State :=
  let l := spanBlocks s b
  if (l.any fun x => mget 0 x.sbar n != 0) && (l.all fun x => allArrived s x.uid (mget 0 x.sbar n)) &&
      !l.any spanWritePending then
    let s1 := modBlks s fun x => if inSpan l x.uid then { x with sbar := mdel x.sbar n } else x
    let s2 := modGroups s1 fun g =>
      if inSpan l g.uid && g.run == .atSpanBar n then { g with run := .ready } else g
    dropSpanLoose (l.foldl (fun acc x => dropL1 acc x.core) s2) l
  else s

/-- R28: every barrier of a block and its span, judged again when a group exits. -/
def checkBarriers (s : State) (uid : Nat) : State :=
  let s1 := (List.range 16).foldl (fun acc n => checkBar acc uid n) s
  (List.range 4).foldl (fun acc n => checkSpanBar acc (findBlk acc uid) n) s1

/-- R28, R277: the arrival of the group in focus at block barrier n. -/
def barBody (n : Nat) (s : State) : State :=
  let s1 := modBlk s fun b => { b with bar := mset 0 b.bar n (mget 0 b.bar n ||| BitVec.ofNat 32 (2 ^ s.g.slot)) }
  checkBar (modG s1 fun g => { g with run := .atBar n }) s.blk.uid n

/-- R28, R277: the arrival of the group in focus at span barrier n. -/
def barsBody (n : Nat) (s : State) : State :=
  let s1 := modBlk s fun b => { b with sbar := mset 0 b.sbar n (mget 0 b.sbar n ||| BitVec.ofNat 32 (2 ^ s.g.slot)) }
  let s2 := modG s1 fun g => { g with run := .atSpanBar n }
  checkSpanBar s2 s2.blk n

/-- R277 BAR. -/
def execBar (n : BitVec 4) (s : State) : Host.Outcome State Fault Refusal :=
  issue (.bar n) { size := 4, closes := true } (fun _ s => .ok (barBody n.toNat s)) s

/-- R277 BARS. -/
def execBars (n : BitVec 2) (s : State) : Host.Outcome State Fault Refusal :=
  issue (.bars n) { size := 4, closes := true } (fun _ s => .ok (barsBody n.toNat s)) s

end Sys2Proof.Machine
end

