-- ==== Sys2Proof/Machine/Cube.lean ====
section
/-! DEFINITION. The cube: planes in fragment layout (R114, R115), the arithmetic of a pass (R110, R124, R125), the operations
of the cube queue (R113, R126, R129), gangs and the rendezvous latch (R116 to R123). -/

namespace Sys2Proof.Machine

/-- R111: the rows M of a code. -/
def rowsOf (mc : BitVec 3) : Nat := 16 * 2 ^ mc.toNat

/-- R111: the columns N of a code. -/
def colsOf (nc : BitVec 2) : Nat := 16 * 2 ^ nc.toNat

/-- R111: the width in bits of an element of a format. -/
def efWidth (ef : BitVec 3) : Nat := if ef.toNat < 2 then 16 else if ef.toNat < 6 then 8 else 4

/-- R111: the elements of a plane row. -/
def efK (ef : BitVec 3) : Nat := 256 / efWidth ef

/-- R111: the float format of an element format, or none where it is an integer. -/
def efFloat (ef : BitVec 3) : Option FFmt :=
  if ef = 0 then some bf16 else if ef = 1 then some fp16 else if ef = 2 then some f8a else if ef = 3 then some f8b else none

/-- R114: the bits of element k of row q of a plane. -/
def planeElem (ef : BitVec 3) (p : List (Nat × Lane)) (q k : Nat) : Nat :=
  let e := 32 / efWidth ef
  elemN (mget 0 p (8 * q + k / e)).toNat (efWidth ef) (k % e)

/-- R125: an integer element, signed for INT8 and INT4. -/
def intElem (ef : BitVec 3) (x : Nat) : Int := if ef.toNat % 2 = 0 then sextN (efWidth ef) x else x

/-- R110: the row of plane C that element (m, n) reads. -/
def cRow (pm : BitVec 2) (m n : Nat) : Nat := if pm = 1 then m else if pm = 2 then n else 0

/-- R124: the product of three decoded elements, exact. -/
def cubeProd (ff : FFmt) (pm : BitVec 2) (a b c : Nat) : FVal :=
  let ab := mulF (decodeF ff false a) (decodeF ff false b)
  if pm = 0 then ab else mulF ab (decodeF ff false c)

/-- Whether a value is a signed zero of the given sign, finite zeros only. -/
def FVal.isZero : FVal → Bool
  | .fin _ m _ => m == 0
  | _ => false

/-- Whether a value is infinite with the given sign. -/
def FVal.isInf (neg : Bool) : FVal → Bool
  | .inf n => n == neg
  | _ => false

/-- Whether a value is negative zero. -/
def FVal.isNegZero : FVal → Bool
  | .fin neg m _ => neg && m == 0
  | _ => false

/-- FLOOR(LOG2) of the largest finite magnitude of a list, with a start value for lists of zeros. -/
def topExp : List FVal → Option Int
  | [] => none
  | .fin _ m e :: t =>
    if m = 0 then topExp t
    else match topExp t with
      | none => some (flog2 m e)
      | some x => some (max (flog2 m e) x)
  | _ :: t => topExp t

/-- R124: a product truncated toward zero to a multiple of 2^q, as that multiple. -/
def truncTo (q : Int) : FVal → Int
  | .fin neg m e => signedI neg (if e ≥ q then m * 2 ^ (e - q).toNat else m / 2 ^ (q - e).toNat)
  | _ => 0

/-- R124: the sum S of the products of one element. -/
def cubeSum (l : List FVal) : FVal :=
  if l.any FVal.isNan then .nan
  else if l.any (FVal.isInf false) && l.any (FVal.isInf true) then .nan
  else if l.any (FVal.isInf false) then .inf false
  else if l.any (FVal.isInf true) then .inf true
  else match topExp l with
    | none => .fin (l.all FVal.isNegZero) 0 0
    | some e =>
      let t := (l.map (truncTo (e - 47))).foldl (· + ·) 0
      if t = 0 then .fin false 0 0 else .fin (decide (t < 0)) t.natAbs (e - 47)

/-- R124, R125: the new value of an accumulator element and whether it clamps. -/
def cubeElem (f : LcF) (a b c : List (Nat × Lane)) (m n : Nat) (d : Lane) : Lane × Bool :=
  let ks := List.range (efK f.ef)
  match efFloat f.ef with
  | some ff =>
    let x := cubeSum (ks.map fun k =>
      cubeProd ff f.pm (planeElem f.ef a m k) (planeElem f.ef b n k) (planeElem f.ef c (cRow f.pm m n) k))
    let r := if f.ovw then x else addF .rne (decodeF fp32 false d.toNat) x
    (BitVec.ofNat 32 (roundF fp32 .rne false false r), false)
  | none =>
    let x := (ks.map fun k =>
      intElem f.ef (planeElem f.ef a m k) * intElem f.ef (planeElem f.ef b n k) *
        (if f.pm = 0 then 1 else intElem f.ef (planeElem f.ef c (cRow f.pm m n) k))).foldl (· + ·) 0
    let r := satS (if f.ovw then x else d.toInt + x) 32
    (BitVec.ofInt 32 r.1, r.2)

/-- The key of an accumulator element (R112). -/
def accKey (row col : Nat) : Nat := 128 * row + col

/-- The elements of a tile in row order. -/
def tileOf (m n : Nat) : List (Nat × Nat) := (List.range m).flatMap fun i => (List.range n).map fun j => (i, j)

/-- An accumulator element of a block (R112). -/
def accAt (b : Block) (row col : Nat) : Lane := mget 0 b.acc (accKey row col)

/-- One element of a block's rows written, with its poison set or cleared (R223). -/
def setAcc (b : Block) (row col : Nat) (x : Lane) (poison : Bool) : Block :=
  { b with
    acc := mset 0 b.acc (accKey row col) x
    accPoison := mset false b.accPoison (accKey row col) poison }

/-- R124 to R126, R223: a pass over its tile; whether some element clamped. -/
def passTile (f : LcF) (a b c : List (Nat × Lane)) : List (Nat × Nat) → Block → Block × Bool
  | [], x => (x, false)
  | (m, n) :: t, x =>
    let row := f.arow.toNat + m
    let col := 16 * f.acol.toNat + n
    let r := cubeElem f a b c m n (accAt x row col)
    let poison := !f.ovw && mget false x.accPoison (accKey row col)
    let rest := passTile f a b c t (setAcc x row col r.1 poison)
    (rest.1, r.2 || rest.2)

/-- R129 MZERO over its tile. -/
def zeroTile (f : LzF) (x : Block) : Block :=
  (tileOf (rowsOf f.mc) (colsOf f.nc)).foldl (fun x e =>
    setAcc x (f.arow.toNat + e.1) (16 * f.acol.toNat + e.2) 0 false) x

/-- R129 MWRZ over its tile: the words that take part, by number. -/
def writeTile (f : LzF) (words : List (Nat × Lane)) (x : Block) : Block :=
  words.foldl (fun x w =>
    setAcc x (f.arow.toNat + w.1 / colsOf f.nc) (16 * f.acol.toNat + w.1 % colsOf f.nc) w.2 false) x

/-- R129: the scale that MSCL takes for an element. -/
def scaleFor (f : LzF) (scales : List (Nat × Lane)) (m n : Nat) : Lane := mget 0 scales (if f.hi = 1 then n else m)

/-- R129 MSCL over its tile; a poisoned element stays poisoned (R223). -/
def scaleTile (f : LzF) (scales : List (Nat × Lane)) (x : Block) : Block :=
  (tileOf (rowsOf f.mc) (colsOf f.nc)).foldl (fun x e =>
    let row := f.arow.toNat + e.1
    let col := 16 * f.acol.toNat + e.2
    let r := mulF (decodeF fp32 false (accAt x row col).toNat) (decodeF fp32 false (scaleFor f scales e.1 e.2).toNat)
    setAcc x row col (BitVec.ofNat 32 (roundF fp32 .rne false false r)) (mget false x.accPoison (accKey row col))) x

/-- What a queued operation does to its block, and whether it clamps. -/
def runOp (op : CubeOp) (x : Block) : Block × Bool :=
  match op with
  | .pass f a b c => passTile f a b c (tileOf (rowsOf f.mc) (colsOf f.nc)) x
  | .zero f => (zeroTile f x, false)
  | .write f words => (writeTile f words x, false)
  | .scale f scales => (scaleTile f scales x, false)

/-- R126: SATF set in the members of a gang that have not exited. -/
def satMembers (s : State) : List (Nat × Nat) → State
  | [] => s
  | x :: t => satMembers (updGroup s x.1 x.2 fun g => if g.run = .exited then g else outside satOutside g) t

/-- R113, R126: one queued operation runs to its end. -/
def runJob (s : State) (j : CubeJob) : State :=
  let r := runOp j.op (findBlk s j.uid)
  let s1 := updBlk s j.uid fun _ => r.1
  if r.2 then satMembers s1 j.members else s1

/-- The operations of a core's queue run in order. -/
def runJobs (s : State) : List CubeJob → State
  | [] => s
  | j :: t => runJobs (runJob s j) t

/-- R113: every operation accepted before an accumulator read has run. -/
def drainCube (s : State) (core : Nat) : State :=
  runJobs (modCore s core fun c => { c with cubeQ := [] }) (getCore s core).cubeQ

/-- An operation accepted into cube order. -/
def acceptJob (s : State) (core : Nat) (j : CubeJob) : State := modCore s core fun c => { c with cubeQ := c.cubeQ ++ [j] }

/-- R113, R124: the cube of the core of the block in focus executes one queued operation. -/
def execCubePass (s : State) : Host.Outcome State Fault Refusal :=
  .next (match (getCore s s.blk.core).cubeQ with
    | [] => s
    | j :: t => runJob (modCore s s.blk.core fun c => { c with cubeQ := t }) j)

/-- The valid entries of GANG. -/
def validEntries (gang : BitVec 64) : List GangEntry := (gangEntries gang).filter (·.valid)

/-- R117: whether a GANG makes the group of a slot a lone gang. -/
def isLone (gang : BitVec 64) (slot : Nat) : Bool :=
  match validEntries gang with
  | [] => true
  | [e] => e.slot == slot && e.plane == 0 && !e.half
  | _ => false

/-- R120: the slots that a record's GANG lists; one that lists none is a lone gang's, of the one group that has arrived. -/
def listed (gang : BitVec 64) (arrived : Mask) : List Nat :=
  match validEntries gang with
  | [] => lanesOf arrived
  | l => l.map (·.slot)

/-- R114, R110: the rows of a plane. -/
def planeRows (f : LcF) (plane : Nat) : Nat :=
  if plane = 0 then rowsOf f.mc
  else if plane = 1 then colsOf f.nc
  else if f.pm = 1 then rowsOf f.mc
  else if f.pm = 2 then colsOf f.nc
  else 1

/-- R117, R123: the planes that a gang must supply, given whether the operation is a span's and the gang is its leader's. -/
def requiredPlanes (f : LcF) (span leader : Bool) : List Nat :=
  (if !span || leader then [0] else []) ++ [1] ++
    (if f.pm = 0 then []
     else if f.pm = 2 then [2]
     else if !span || leader then [2] else [])

/-- R117: the supply of one plane by the entries that list it. -/
def supplyOk (f : LcF) (l : List GangEntry) (plane : Nat) : Bool :=
  match (l.filter fun e => e.plane == plane).map (·.half) with
  | [false] => true
  | [a, b] => a != b && decide (32 ≤ planeRows f plane)
  | _ => false

/-- R117: the composition check of a member. -/
def composed (f : LcF) (gang : BitVec 64) (slot groups : Nat) (span leader : Bool) : Bool :=
  isLone gang slot ||
    (let l := validEntries gang
     (l.filter fun e => e.slot == slot).length == 1 && decide ((l.map (·.slot)).Nodup) &&
       (l.all fun e => decide (e.slot < groups)) &&
       ((requiredPlanes f span leader).all fun p => supplyOk f l p) &&
       l.all fun e => hasNat (requiredPlanes f span leader) e.plane)

/-- R114, R115: the registers that hold q rows of a plane from a base. -/
def rowRegs (base q : Nat) : List Nat := regRange base (if q = 1 then 1 else q / 4)

/-- R115: the rows that an entry supplies: half of them where the plane is split. -/
def entryRows (f : LcF) (l : List GangEntry) (e : GangEntry) : Nat :=
  if (l.any fun x => x.plane == e.plane && x.half) then planeRows f e.plane / 2 else planeRows f e.plane

/-- R115: the register base of a plane of a lone gang. R115 does not say where the lone gang of a span block other than the
leader's holds B and C, since it supplies no A (R117); the model keeps base + M/4 for B and base + M/4 + N/4 for C (log entry
26). -/
def loneBase (f : LcF) (plane : Nat) : Nat :=
  f.base.toNat + if plane = 0 then 0 else if plane = 1 then rowsOf f.mc / 4 else rowsOf f.mc / 4 + colsOf f.nc / 4

/-- R115: the plane registers that a member supplies. -/
def memberRegs (f : LcF) (gang : BitVec 64) (slot : Nat) (span leader : Bool) : List Nat :=
  if isLone gang slot then
    (requiredPlanes f span leader).flatMap fun p => rowRegs (loneBase f p) (planeRows f p)
  else match (validEntries gang).find? fun e => e.slot == slot with
    | none => []
    | some e => rowRegs f.base.toNat (entryRows f (validEntries gang) e)

/-- The words of q rows in registers from a base, put at word w0 on. -/
def readRows (c : Ctx) (base q w0 : Nat) : List (Nat × Lane) :=
  (List.range (8 * q)).map fun w => (w0 + w, c.lane (base + w / 32) (w % 32))

/-- Words put into a plane. -/
def putWords (p : List (Nat × Lane)) : List (Nat × Lane) → List (Nat × Lane)
  | [] => p
  | e :: t => putWords (mset 0 p e.1 e.2) t

/-- The MCUBE with which a group stands at a latch. -/
def latchField (g : Group) : LcF :=
  match g.run with
  | .atLatch _ _ f => f
  | _ => ⟨false, 0, false, false, 0, 0, 0, 0, 0, 0⟩

/-- R119, R114, R115: a plane of a join, as its suppliers' registers stand. -/
def capturePlane (s : State) (uid : Nat) (j : Join) (plane : Nat) : List (Nat × Lane) :=
  match lanesOf j.members with
  | [] => []
  | slot :: _ =>
    if isLone j.gang slot then
      putWords [] (readRows (findGroup s uid slot).ctx (loneBase (latchField (findGroup s uid slot)) plane)
        (planeRows j.f plane) 0)
    else (validEntries j.gang).foldl (fun p e =>
      if e.plane = plane then
        let g := findGroup s uid e.slot
        let q := entryRows j.f (validEntries j.gang) e
        putWords p (readRows g.ctx (latchField g).base.toNat q (if e.half then 8 * q else 0))
      else p) []

/-- R119, R48, R50: MCUBE retires in a member. -/
def retireMember (regs : List Nat) (lr : Bool) (g : Group) : Group :=
  let inf : Info := { size := 8 }
  let c := if lr then releaseMarks g.ctx regs [] else g.ctx
  { countEvt evIssue 1 (if lr then cleanReleased g regs [] else g) with
    run := .ready
    ctx := { c with pc := c.pc + 8, pend := pendAfter c inf, prefixes := [] } }

/-- Whether an MCUBE of a block is a span operation (R123). -/
def spanOp (b : Block) (f : LcF) : Bool := f.span && decide (1 < spanSize b)

/-- R119: the members of a join retire. -/
def retireJoin (s : State) (b : Block) (j : Join) : State :=
  modGroups s fun g =>
    if g.uid == b.uid && laneOn j.members g.slot then
      retireMember (memberRegs (latchField g) g.ctx.gang g.slot j.span (b.spanPos == 0)) (latchField g).lr g
    else g

/-- R113, R119: the join of a block accepted as one pass, with planes A and C of the span's leader where it supplies them. -/
def joinJob (s : State) (b : Block) (j : Join) (lead : Option (Nat × Join)) (members : List (Nat × Nat)) : CubeJob :=
  let own := capturePlane s b.uid j
  let from_ := fun p => match lead with
    | some (u, lj) => capturePlane s u lj p
    | none => own p
  ⟨b.uid, .pass j.f (from_ 0) (own 1) (if j.f.pm = 0 then [] else if j.f.pm = 2 then own 2 else from_ 2), members⟩

/-- The members of a join, as groups. -/
def joinMembers (uid : Nat) (j : Join) : List (Nat × Nat) := (lanesOf j.members).map fun k => (uid, k)

/-- R123: the joins that enter cube order together: of the block, or of every block of its span. -/
def joinHeads (s : State) (b : Block) (j : Join) : List (Block × Join) :=
  (if j.span then spanBlocks s b else [b]).filterMap fun x =>
    (x.joined.find? fun y => y.span == j.span && y.gid == j.gid).map fun y => (x, y)

/-- R113, R123: whether a join has room: in its own queue, or in every queue of its span. -/
def joinRoom (s : State) (b : Block) (j : Join) : Bool :=
  (joinHeads s b j).length == (if j.span then spanSize b else 1) && (joinHeads s b j).all fun e => cubeRoom s e.1.core

/-- R113: the first join of a block that has room is accepted, and its members retire. -/
def acceptJoin (s : State) (b : Block) : State :=
  match b.joined.find? (joinRoom s b) with
  | none => s
  | some j =>
    let heads := joinHeads s b j
    let lead := if j.span then (heads.find? fun e => e.1.spanPos == 0).map fun e => (e.1.uid, e.2) else none
    let members := heads.flatMap fun e => joinMembers e.1.uid e.2
    let s1 := heads.foldl (fun acc e => acceptJob acc e.1.core (joinJob s e.1 e.2 lead members)) s
    let s2 := heads.foldl (fun acc e => retireJoin acc e.1 e.2) s1
    modBlks s2 fun x => match heads.find? fun e => e.1.uid == x.uid with
      | some e => { x with joined := x.joined.erase e.2 }
      | none => x

/-- A deferred trap of a group (R121): it is taken where the group stands. -/
def trapGroup (s : State) (uid slot : Nat) (t : TrapReq) : State :=
  updGroup s uid slot fun g => { g with run := .ready, trapReq := some t }

/-- R121: the GANG trap. -/
def gangTrap (detail : Nat) : TrapReq := ⟨6, BitVec.ofNat 8 detail, 0, 0, none⟩

/-- The block latch entry, or the block's part of the span latch entry, of a gang id. -/
def latchOf (b : Block) (span : Bool) (gid : Nat) : Latch := mget Latch.empty (if span then b.slatch else b.latch) gid

/-- A block with a latch entry changed. -/
def putLatch (b : Block) (span : Bool) (gid : Nat) (x : Latch) : Block :=
  if span then { b with slatch := mset Latch.empty b.slatch gid x } else { b with latch := mset Latch.empty b.latch gid x }

/-- The blocks whose arrivals stand on an entry. -/
def latchBlocks (s : State) (b : Block) (span : Bool) : List Block := if span then spanBlocks s b else [b]

/-- R121: every arrived member of an entry raises GANG; the arrivals are cleared and the sequence stays. -/
def breakLatch (s : State) (b : Block) (span : Bool) (gid detail : Nat) : State :=
  let l := latchBlocks s b span
  let s1 := l.foldl (fun acc x => (lanesOf (latchOf x span gid).arrived).foldl (fun acc k =>
    trapGroup acc x.uid k (gangTrap detail)) acc) s
  modBlks s1 fun x =>
    if inSpan l x.uid then putLatch x span gid { latchOf x span gid with arrived := 0, first := none } else x

/-- R121 detail 3: whether a group of a block that exits breaks an entry: the block's record lists it, or others have arrived on a
span entry, of which every group of a listed block counts (log entry 26). -/
def exitBreaks (s : State) (b : Block) (span : Bool) (gid slot : Nat) : Bool :=
  if span then (latchBlocks s b span).any fun x => (latchOf x span gid).arrived != 0
  else match (latchOf b span gid).first with
    | some r => hasNat (listed r.1 (latchOf b span gid).arrived) slot
    | none => false

/-- R121 detail 3: the entries that an exiting group of a block breaks. -/
def breakOnExit (s : State) (uid slot : Nat) : State :=
  (List.range 4).foldl (fun acc gid =>
    let b := findBlk acc uid
    let acc1 := if exitBreaks acc b false gid slot then breakLatch acc b false gid 3 else acc
    let b1 := findBlk acc1 uid
    if exitBreaks acc1 b1 true gid slot then breakLatch acc1 b1 true gid 3 else acc1) s

/-- R123, R121 detail 3: the span entries that the completion of a block breaks. -/
def breakOnCompletion (s : State) (uid : Nat) : State :=
  (List.range 4).foldl (fun acc gid =>
    let b := findBlk acc uid
    if (latchBlocks acc b true).any fun x => (latchOf x true gid).arrived != 0 then breakLatch acc b true gid 3 else acc) s

/-- R121: whether some group that a record lists has exited. -/
def listedGone (s : State) (uid : Nat) (gang : BitVec 64) (arrived : Mask) : Bool :=
  (listed gang arrived).any fun k => (findGroup s uid k).run == .exited

/-- R121 detail 1 within a block: the fields in which members must agree. -/
def agree (x y : LcF) : Bool :=
  x.mc == y.mc && x.nc == y.nc && x.ef == y.ef && x.pm == y.pm && x.ovw == y.ovw && x.span == y.span

/-- R121 detail 1: whether the arrived members of a block agree with its record. -/
def blockAgrees (s : State) (b : Block) (x : Latch) : Bool :=
  match x.first with
  | none => true
  | some r => (lanesOf x.arrived).all fun k =>
      let f := latchField (findGroup s b.uid k)
      agree f r.2 && f.arow == r.2.arow && f.acol == r.2.acol

/-- R120: whether a block's part of an entry is complete: a record, and every listed group arrived. -/
def latchFull (x : Latch) : Bool :=
  match x.first with
  | none => false
  | some r => (listed r.1 x.arrived).all fun k => laneOn x.arrived k

/-- R121 detail 1 between blocks. -/
def recordsAgree (l : List Latch) : Bool :=
  match l.filterMap (·.first) with
  | [] => true
  | r :: t => t.all fun y => agree r.2 y.2

/-- R120, R121: an entry whose members have all arrived completes: the sequence goes on and the joins wait for acceptance; or
its members disagree. -/
def completeLatch (s : State) (b : Block) (span : Bool) (gid : Nat) : State :=
  let l := latchBlocks s b span
  if l.length = (if span then spanSize b else 1) ∧ (l.all fun x => latchFull (latchOf x span gid)) = true then
    if (l.all fun x => blockAgrees s x (latchOf x span gid)) && recordsAgree (l.map fun x => latchOf x span gid) then
      let s1 := modBlks s fun x =>
        if inSpan l x.uid then
          let e := latchOf x span gid
          let r := e.first.getD (0, ⟨false, 0, false, false, 0, 0, 0, 0, 0, 0⟩)
          { putLatch x span gid ⟨0, e.seq + 1, none⟩ with joined := x.joined ++ [⟨gid, span, e.arrived, r.1, r.2⟩] }
        else x
      acceptJoin s1 (findBlk s1 b.uid)
    else breakLatch s b span gid 1
  else s

/-- R119, R120: the group in focus arrives at its latch entry. -/
def arrive (s : State) (f : LcF) : State :=
  let span := spanOp s.blk f
  let gid := gangId s.ctx.gang
  let e := latchOf s.blk span gid
  let here := e.arrived ||| BitVec.ofNat 32 (2 ^ s.g.slot)
  let s1 := modG s fun g => { g with run := .atLatch gid span f }
  let s2 := modBlk s1 fun b =>
    putLatch b span gid { e with arrived := here, first := some (e.first.getD (s.ctx.gang, f)) }
  let clash := match e.first with
    | none => false
    | some r => r.1 != s.ctx.gang || !hasNat (listed r.1 e.arrived) s.g.slot
  let gone := (latchBlocks s2 s2.blk span).any fun x =>
    x.phase == .complete || (if span then (groupsOf s2 x.uid).any fun g => g.run == .exited
      else match (latchOf x span gid).first with
        | none => false
        | some r => listedGone s2 x.uid r.1 (latchOf x span gid).arrived)
  if clash then breakLatch s2 s2.blk span gid 2
  else if gone then breakLatch s2 s2.blk span gid 3
  else completeLatch s2 s2.blk span gid

end Sys2Proof.Machine
end

