-- ==== Sys2Proof/Machine/System.lean ====
section
/-! DEFINITION. The system instructions: EXIT (R30, R284), TRAP, BKPT, ERET (R215), FENCE (R163, R287), FETCHB (R168), IPF
(R239), and the trap and abort events (R214, R216). -/

namespace Sys2Proof.Machine

/-- R185: the commands of a block whose numbers stay taken: not final, or issued by a group that has not exited. -/
def freeExited (s : State) (b : Block) : Block :=
  { b with cmds := b.cmds.filter fun k => !(k.isFinal && (findGroup s b.uid k.slot).run == .exited) }

/-- R30, R284: the group in focus ends: it leaves the sets, its final handles are free, gangs that wait on it trap, barriers
count it as arrived. A command that was to write ahead of its issue is issued no more (log entry 44). -/
def exitBody (s : State) : State :=
  let k := myPart s
  let s0 := { s with broken := s.broken || s.early.any fun e => e.cmd.isNone && e.byUid == s.g.uid && e.bySlot == s.g.slot }
  let s1 := modG (logHeld s0 s.blk s.g s.g.suspects) fun g =>
    { g with run := .exited, suspects := [], ctx := { g.ctx with stack := [] } }
  let s2 := leaveSets s1 k s.g.uid s.g.slot
  let s3 := modBlk s2 fun b => freeExited s2 b
  checkBarriers (breakOnExit s3 s.g.uid s.g.slot) s.g.uid

/-- R284 EXIT. -/
def execExit (s : State) : Host.Outcome State Fault Refusal :=
  issue .exit { size := 4, closes := true } (fun _ s => .ok (exitBody s)) s

/-- R215 TRAP: its class, with ARG its code. -/
def execTrap (code : BitVec 8) (s : State) : Host.Outcome State Fault Refusal :=
  issue (.trap code) { size := 4, closes := true }
    (fun _ _ => .error (.trap ⟨14, 0, code.zeroExtend 9, 0, none⟩)) s

/-- R215 BKPT: its class, with ARG its code. -/
def execBkpt (code : BitVec 8) (s : State) : Host.Outcome State Fault Refusal :=
  issue (.bkpt code) { size := 4, closes := true }
    (fun _ _ => .error (.trap ⟨15, 0, code.zeroExtend 9, 0, none⟩)) s

/-- R215: whether ERET goes past the trapping instruction. -/
def eretPast (c : Ctx) (mode : BitVec 2) : Bool := if mode = 0 then c.trapInfo.getLsbD 29 else mode == 2

/-- R215 ERET: illegal outside a handler. -/
def execEret (mode : BitVec 2) (s : State) : Host.Outcome State Fault Refusal :=
  issue (.eret mode) { size := 4, closes := true, jumps := true, ill := !s.ctx.handler || mode == 3 }
    (fun _ s => .ok (modCtx s fun c => leaveTrap c (eretPast c mode))) s

/-- R170: an acquire at span scope or wider drops the core's L1. -/
def acquireAt (s : State) (scope : BitVec 3) : State := if 2 ≤ scope.toNat then dropL1 s s.blk.core else s

/-- R163, R287 FENCE: kinds acq, acq_rel and sc acquire; every earlier access of the group has been performed. -/
def execFence (kind : BitVec 2) (scope : BitVec 3) (s : State) : Host.Outcome State Fault Refusal :=
  issue (.fence kind scope) { size := 4, closes := true }
    (fun _ s => .ok (if kind = 1 then s else acquireAt s scope)) s

/-- R168 FETCHB: what the group has prefetched goes. -/
def execFetchb (s : State) : Host.Outcome State Fault Refusal :=
  issue .fetchb { size := 4, closes := true } (fun _ s => .ok (modG s fun g => { g with ibuf := [] })) s

/-- R239: the capacity of an instruction-cache level in bytes. -/
def levelCapacity (s : State) (level : Nat) : Nat :=
  if level = 0 then 131072 else if level = 1 then 1048576 else 131072 * (getDie s (dieOf s.blk.core)).l3iWays

/-- R238: the 128 bytes of a sector of memory, as a page shows them to an instruction fetch. -/
def codeBytes (s : State) (leaf sec : Nat) : List Byte := (List.range 128).map fun k => memCode s leaf (128 * sec + k)

/-- R238: a sector put into a level of 128-byte lines with some sets and ways; the least recently used of a full set goes. -/
def cachePut (sets ways : Nat) (c : List (Nat × List Byte)) (sec : Nat) (bs : List Byte) : List (Nat × List Byte) :=
  let rest := c.filter fun x => x.1 != sec
  let same := (rest.filter fun x => x.1 % sets == sec % sets).map (·.1)
  let out := if same.length < ways then [] else same.take 1
  rest.filter (fun x => !hasNat out x.1) ++ [(sec, bs)]

/-- R138, R238: the place in L3I of the line of a sector, with n ways reserved: slice and set (log entry 28). -/
def l3iSlot (s : State) (n sec : Nat) : Nat × Nat :=
  let pa := paOfIdx s.place (128 * sec)
  (l2Slice pa % n, pa / 2 ^ 16 % 128)

/-- R238: a sector put into L3I; another line in the place of its line goes. -/
def l3iPut (s : State) (n : Nat) (c : List (Nat × List Byte)) (sec : Nat) (bs : List Byte) : List (Nat × List Byte) :=
  (c.filter fun x => x.1 != sec && (x.1 / 8 == sec / 8 || l3iSlot s n x.1 != l3iSlot s n sec)) ++ [(sec, bs)]

/-- R138, R238: L3I filled from the die's L2, where ways are reserved. A poisoned sector stays out (R224). -/
def fillL3 (s : State) (core leaf sec : Nat) : State :=
  let n := (getDie s (dieOf core)).l3iWays
  if n = 0 ∨ poisonedAt s (128 * sec) 128 = true then s
  else modDie (obtainCode s core leaf sec) (dieOf core) fun d => { d with l3i := l3iPut s n d.l3i sec (codeBytes s leaf sec) }

/-- R238: L2I filled from L3I, which is filled where it lacks the sector, or from the die's L2 where no way is reserved. A
sector that L3I serves becomes its most recent. -/
def fillL2 (s : State) (core leaf sec : Nat) : State :=
  let s1 := if (cacheSector (getDie s (dieOf core)).l3i sec).isSome then
      modDie s (dieOf core) fun d => { d with l3i := cacheTouch d.l3i sec }
    else fillL3 s core leaf sec
  match cacheSector (getDie s1 (dieOf core)).l3i sec with
  | some bs => { s1 with clusters := mput s1.clusters (clusterOf core) (cachePut 512 16 (getCluster s1 (clusterOf core)) sec bs) }
  | none =>
    if poisonedAt s (128 * sec) 128 then s1
    else
      let s2 := obtainCode s1 core leaf sec
      { s2 with
        clusters := mput s2.clusters (clusterOf core) (cachePut 512 16 (getCluster s2 (clusterOf core)) sec (codeBytes s leaf sec)) }

/-- R238: L1I filled from L2I, which is filled where it lacks the sector. A sector that L2I serves becomes its most recent. -/
def fillL1 (s : State) (core leaf sec : Nat) : State :=
  let s1 := if (cacheSector (getCluster s (clusterOf core)) sec).isSome then
      { s with clusters := mset [] s.clusters (clusterOf core) (cacheTouch (getCluster s (clusterOf core)) sec) }
    else fillL2 s core leaf sec
  match cacheSector (getCluster s1 (clusterOf core)) sec with
  | some bs => modCore s1 core fun c => { c with l1i := cachePut 128 8 c.l1i sec bs }
  | none => s1

/-- R238: a sector filled into a level of the instruction caches. -/
def fillLevel (s : State) (core level leaf sec : Nat) : State :=
  if level = 0 then fillL1 s core leaf sec else if level = 1 then fillL2 s core leaf sec else fillL3 s core leaf sec

/-- R239: the sector at an address filled where the group may fetch from it, else skipped. -/
def prefill (s : State) (level : Nat) (va : Addr) : State :=
  match translate s s.blk.core s.blk.vf va with
  | .fault _ _ => s
  | .ok pa leaf => match protDetail s s.blk.vf s.g.ctx.handler false true false pa leaf with
    | some _ => s
    | none => fillLevel s s.blk.core level leaf (accIdx s s.blk.core leaf pa / 128)

/-- R239: the line addresses of a level that hold a byte of n bytes from an address, as sectors. -/
def ipfSectors (a : Addr) (n : Nat) : List Addr :=
  if n = 0 then []
  else (List.range ((a.toNat % 128 + n + 127) / 128)).map fun k =>
    a - BitVec.ofNat 72 (a.toNat % 128) + BitVec.ofNat 72 (128 * k)

/-- R238: with 1,024-byte lines in L3I, the range widened to whole lines. -/
def ipfRange (level : Nat) (a : Addr) (n : Nat) : Addr × Nat :=
  if level = 2 ∧ n ≠ 0 then
    (a - BitVec.ofNat 72 (a.toNat % 1024), (a.toNat % 1024 + n + 1023) / 1024 * 1024)
  else (a, n)

/-- R239 IPF. -/
def ipfBody (level : BitVec 3) (n : BitVec 4) (b : BitVec 6) (rc : Ctx) (s : State) : State :=
  let r := ipfRange level.toNat (rc.readA n.toNat) (min (rc.readS b.toNat).toNat (levelCapacity s level.toNat))
  (ipfSectors r.1 r.2).foldl (fun acc va => prefill acc level.toNat va) s

/-- R239 IPF. -/
def execIpf (level : BitVec 3) (n : BitVec 4) (b : BitVec 6) (s : State) : Host.Outcome State Fault Refusal :=
  issue (.ipf level n b)
    { size := 4, reads := [(.address, n.toNat), (.scalar, b.toNat)], closes := true, ill := decide (3 ≤ level.toNat) }
    (fun rc s => .ok (ipfBody level n b rc s)) s

/-- R213, R257: the length of the instruction at the PC with the prefixes that stand there before it, at most n of them. -/
def wholeLen (s : State) : Nat → Option Nat
  | 0 => none
  | n + 1 => match peek s with
    | .error _ => none
    | .ok (len, w) =>
      if len = 4 ∧ w % 256 = 5 then (wholeLen (modCtx s fun c => { c with pc := c.pc + 4 }) n).map (· + 4) else some len

/-- R213: the length of the instruction where a deferred trap is taken. -/
def deferredLen (s : State) : Nat :=
  match wholeLen s 4 with
  | some n => fullLen s.ctx n
  | none => openLen s

/-- R45: the trap that waits for a group is that of an instruction that has issued and not been counted: an MCUBE at its latch
(R121). -/
def countWaiting (t : TrapReq) (s : State) : State := if t.cls = 6 then issued s else s

/-- R214: the group in focus takes the trap that waits for it (R94, R93, R121, R217). -/
def execTrapEntry (s : State) : Host.Outcome State Fault Refusal :=
  .next (match s.g.trapReq with
    | none => s
    | some t => takeTrap (countWaiting t (modG (undoWindow s) fun g => { g with trapReq := none })) t (deferredLen s) none)

/-- R216: the launch of the block in focus is aborted by the trap that waits for the group, where it can take none. -/
def execLaunchAbort (s : State) : Host.Outcome State Fault Refusal :=
  .next (match s.g.trapReq with
    | none => s
    | some t =>
      if s.ctx.handler || s.blk.trapEntry.isNone then
        takeTrap (countWaiting t (modG (undoWindow s) fun g => { g with trapReq := none })) t (deferredLen s) none
      else s)

end Sys2Proof.Machine
end

