-- ==== Sys2Proof/Machine/MemoryAccess.lean ====
section
/-! DEFINITION. Loads and stores: scalar (R274 to R276), vector (R293, R343 to R345), scratch (R294, R295), FIFO banks (R299
to R301). -/

namespace Sys2Proof.Machine

/-- A scalar access of n bytes at an address, checked (R153): its place. -/
def scalarAcc (s : State) (kind n : Nat) (ea : Addr) : Except Halt Acc :=
  match checkGlobal s kind n [(none, ea)] with
  | .error h => .error h
  | .ok [a] => .ok a
  | .ok _ => .error (.wait .nothing)

/-- R275: the n bytes that a scalar load reads, with the state after its sector has been asked for. -/
def scalarRead (s : State) (n : Nat) (acq : Bool) (ea : Addr) : Except Halt (List Byte × State) :=
  match scalarAcc s kindRead n ea with
  | .error h => .error h
  | .ok a => match checkPoison s n [a] with
    | .error h => .error h
    | .ok _ => .ok (loadBytes s s.blk.core acq a n, askSectors s acq [a])

/-- R70, R276: the exception of a scalar load; inside a window it is deferred and the load returns nothing. -/
def deferScalar (s : State) (h : Halt) : Except Halt State :=
  match s.g.window with
  | none => .error h
  | some w => .ok (modG s fun g => { g with window := some { w with deferredS := true } })

/-- R275 SLD. -/
def sldBody (f : WmF) (rc : Ctx) (s : State) : Except Halt State :=
  match scalarRead s (sizeBytes f.size) f.ord (wmEA f rc) with
  | .error h => deferScalar s h
  | .ok (bs, s0) =>
    let s1 := if f.ord then acquireAt s0 f.scope else s0
    .ok (modCtx s1 fun c => c.writeS f.r.toNat
      (if f.signed then BitVec.ofInt 64 (sextN (8 * sizeBytes f.size) (leNat bs)) else BitVec.ofNat 64 (leNat bs)))

/-- R275 SLD. -/
def execSld (f : WmF) (s : State) : Host.Outcome State Fault Refusal :=
  issue (.sld f)
    { size := 4, reads := [(.address, f.n.toNat)], writes := [(.scalar, f.r.toNat)], accepts := true, closes := f.ord }
    (sldBody f) s

/-- R275 ALD: the slot check comes last. -/
def aldBody (f : WmF) (rc : Ctx) (s : State) : Except Halt State :=
  match scalarRead s 16 f.ord (wmEA f rc) with
  | .error h => deferScalar s h
  | .ok (bs, s0) =>
    if leNat bs / 2 ^ 72 ≠ 0 then deferScalar s (.trap (memTrap 2 0 none (wmEA f rc)))
    else
      let s1 := if f.ord then acquireAt s0 f.scope else s0
      .ok (modCtx s1 fun c => c.writeA f.r.toNat (BitVec.ofNat 72 (leNat bs)))

/-- R275 ALD. -/
def execAld (f : WmF) (s : State) : Host.Outcome State Fault Refusal :=
  issue (.ald f)
    { size := 4, reads := [(.address, f.n.toNat)], writes := [(.address, f.r.toNat)], accepts := true, closes := f.ord }
    (aldBody f) s

/-- R275: bytes stored by a scalar store. -/
def scalarWrite (s : State) (ea : Addr) (bs : List Byte) : Except Halt State :=
  match scalarAcc s kindWrite bs.length ea with
  | .error h => .error h
  | .ok a => .ok (storeGroup s [a] (cellsAt a.idx bs))

/-- R275 SST. -/
def execSst (f : WmF) (s : State) : Host.Outcome State Fault Refusal :=
  issue (.sst f)
    { size := 4, reads := [(.scalar, f.r.toNat), (.address, f.n.toNat)], accepts := true, closes := true }
    (fun rc s => scalarWrite s (wmEA f rc) (leBytes (sizeBytes f.size) (rc.readS f.r.toNat).toNat)) s

/-- R275 AST. -/
def execAst (f : WmF) (s : State) : Host.Outcome State Fault Refusal :=
  issue (.ast f)
    { size := 4, reads := [(.address, f.r.toNat), (.address, f.n.toNat)], accepts := true, closes := true }
    (fun rc s => scalarWrite s (wmEA f rc) (leBytes 16 (rc.readA f.r.toNat).toNat)) s

/-- The scalar that an LM access is given at issue. -/
def lmScalarVal (f : LmF) (strided : Bool) (rc : Ctx) : SWord :=
  match lmScalar f strided with
  | some n => rc.readS n
  | none => 0

/-- R293: the data registers of an LM access. -/
def lmData (f : LmF) : List Nat := regRange f.vd.toNat (lmCount f.size)

/-- R293: the registers of the address of an LM access, in assembly order. -/
def lmAddrReads (f : LmF) (global strided : Bool) : List (RegClass × Nat) :=
  (if global then [(.address, f.n.toNat)] else []) ++
    (if strided then [(.scalar, f.stride.toNat)]
     else if f.os then [(.scalar, f.vo.toNat)] else [(.vector, f.vo.toNat)])

/-- What issue needs of an LM load. -/
def lmLoadInfo (f : LmF) (global strided : Bool) : Info where
  size := 8
  reads := (.predicate, f.g.pg.toNat) :: lmAddrReads f global strided
  marks := if f.lro then [f.vo.toNat] else []
  writes := (lmData f).map fun r => (.vector, r)
  accepts := true
  closes := f.ord
  guard := some f.g
  vec := true
  base := if global then some f.n.toNat else none
  scal := lmScalar f strided

/-- What issue needs of an LM store; `lands` where it reads its data registers only after every write to them (R345). -/
def lmStoreInfo (f : LmF) (global strided lands : Bool) : Info where
  size := 8
  reads := ((.predicate, f.g.pg.toNat) :: (lmData f).map fun r => (.vector, r)) ++ lmAddrReads f global strided
  marks := (if f.lrd then lmData f else []) ++ (if f.lro then [f.vo.toNat] else [])
  accepts := true
  closes := true
  guard := some f.g
  lands := if lands then lmData f else []

/-- Addresses with their lanes. -/
def laneAddrs (m : Mask) (ea : Nat → Addr) : List (Option (BitVec 5) × Addr) :=
  (lanesOf m).map fun l => (some (BitVec.ofNat 5 l), ea l)

/-- R293: the lanes of a mask loaded, from the bytes of each. -/
def writeLoaded (f : LmF) (m : Mask) (bs : Nat → List Byte) (c : Ctx) : Ctx :=
  (List.range (lmCount f.size)).foldl (fun c k => c.setV (f.vd.toNat + k) m fun l => loadWord f (bs l) k) c

/-- R70: a load inside a window: each lane reads or defers its exception; `asks` is what the reads of some lanes ask for. -/
def loadQuiet (f : LmF) (m : Mask) (rd : Nat → Option (List Byte)) (asks : Mask → State) (w : Window) : State :=
  let good := maskOf fun l => laneOn m l && (rd l).isSome
  let s1 := modCtx (asks good) (writeLoaded f good fun l => (rd l).getD [])
  modG s1 fun g => { g with window := some { w with deferred := w.deferred ||| (m &&& ~~~good) } }

/-- The bytes of a lane among checked accesses. -/
def accBytes (s : State) (acq : Bool) (n : Nat) (l : List Acc) (lane : Nat) : List Byte :=
  match l.find? fun a => a.lane == some (BitVec.ofNat 5 lane) with
  | some a => loadBytes s s.blk.core acq a n
  | none => []

/-- R344: a global load at the addresses of its lanes. -/
def loadGlobal (f : LmF) (m : Mask) (ea : Nat → Addr) (s : State) : Except Halt State :=
  let n := sizeBytes f.size
  match s.g.window with
  | some w => .ok (loadQuiet f m (fun l => quietGlobal s n (ea l))
      (fun good => askSectors s false (accesses s s.blk.core s.blk.vf (laneAddrs good ea))) w)
  | none =>
    match checkGlobal s kindRead n (laneAddrs m ea) with
    | .error h => .error h
    | .ok l => match checkPoison s n l with
      | .error h => .error h
      | .ok _ =>
        let s1 := modCtx (askSectors s f.ord l) (writeLoaded f m (accBytes s f.ord n l))
        .ok (if f.ord then acquireAt s1 f.scope else s1)

/-- R344: the cells that the lanes of a global store write, ascending, so that the highest lane stands. -/
def storeAccs (f : LmF) (rc : Ctx) (l : List Acc) : List (Nat × Byte) :=
  l.flatMap fun a => cellsAt a.idx (storeBytes f rc ((a.lane.getD 0).toNat))

/-- R344: a global store at the addresses of its lanes. -/
def storeGlobal (f : LmF) (rc : Ctx) (m : Mask) (ea : Nat → Addr) (s : State) : Except Halt State :=
  match checkGlobal s kindWrite (sizeBytes f.size) (laneAddrs m ea) with
  | .error h => .error h
  | .ok l => .ok (storeGroup s l (storeAccs f rc l))

/-- R343: the addresses of VLD and VST. -/
def vldEA (f : LmF) (rc : Ctx) (l : Nat) : Addr :=
  globalEA f rc.prefixes (rc.readA f.n.toNat) (lmScalarVal f false rc) rc l

/-- R343: the addresses of VLDS and VSTS. -/
def vldsEA (f : LmF) (rc : Ctx) (l : Nat) : Addr :=
  stridedEA f rc.prefixes (rc.readA f.n.toNat) (lmScalarVal f true rc) l

/-- R344 VLD. -/
def execVld (f : LmF) (s : State) : Host.Outcome State Fault Refusal :=
  issue (.vld f) (lmLoadInfo f true false) (fun rc s => loadGlobal f (rc.takePart f.g) (vldEA f rc) s) s

/-- R344 VST. -/
def execVst (f : LmF) (s : State) : Host.Outcome State Fault Refusal :=
  issue (.vst f) (lmStoreInfo f true false true) (fun rc s => storeGlobal f rc (rc.takePart f.g) (vldEA f rc) s) s

/-- R344 VLDS. -/
def execVlds (f : LmF) (s : State) : Host.Outcome State Fault Refusal :=
  issue (.vlds f) (lmLoadInfo f true true) (fun rc s => loadGlobal f (rc.takePart f.g) (vldsEA f rc) s) s

/-- R344 VSTS. -/
def execVsts (f : LmF) (s : State) : Host.Outcome State Fault Refusal :=
  issue (.vsts f) (lmStoreInfo f true true true) (fun rc s => storeGlobal f rc (rc.takePart f.g) (vldsEA f rc) s) s

/-- R293: the scratch offset of lane L. -/
def scratchOff (f : LmF) (rc : Ctx) (l : Nat) : Nat := scratchEA f rc.prefixes (lmScalarVal f false rc) rc l

/-- Offsets with their lanes. -/
def laneOffs (f : LmF) (rc : Ctx) (m : Mask) : List (Option (BitVec 5) × Nat) :=
  (lanesOf m).map fun l => (some (BitVec.ofNat 5 l), scratchOff f rc l)

/-- R295: the block whose window a span position names. -/
def spanTarget (s : State) (pos : Nat) : Option Block := if pos < spanSize s.blk then spanMember s s.blk pos else none

/-- R133, R295: the checks of a scratch access to a block, or to a span position that does not exist. -/
def checkTarget (b : Option Block) (n : Nat) (read : Bool) (l : List (Option (BitVec 5) × Nat)) : Except Halt Unit :=
  match b with
  | some b => checkScratch b n read l
  | none => match l.find? fun x => x.2 % n != 0 with
    | some x => .error (.trap (memTrap 2 0 x.1 (BitVec.ofNat 72 x.2)))
    | none => match l with
      | [] => .ok ()
      | x :: _ => .error (.trap (memTrap 3 0 x.1 (BitVec.ofNat 72 x.2)))

/-- R70: the bytes of a lane of a scratch load, or none where it would raise an exception. -/
def quietTarget (s : State) (b : Option Block) (n off : Nat) : Option (List Byte) :=
  match b with
  | some b => quietScratch s b n off
  | none => none

/-- R161: the lanes of a mask have read n scratch bytes each. -/
def lanesRead (f : LmF) (rc : Ctx) (b : Option Block) (m : Mask) (s : State) : State :=
  match b with
  | some b => looseRead s b.uid (sizeBytes f.size) ((lanesOf m).map fun l => scratchOff f rc l)
  | none => s

/-- R294: a scratch load. Inside a window only a bank switch makes it wait. -/
def loadScratch (f : LmF) (rc : Ctx) (b : Option Block) (s : State) : Except Halt State :=
  let n := sizeBytes f.size
  let m := rc.takePart f.g
  match s.g.window with
  | some w =>
    if (lanesOf m).any fun l => ((b.map fun b => windowBusy b (scratchOff f rc l) n).getD false) then .error (.wait .bank)
    else .ok (loadQuiet f m (fun l => quietTarget s b n (scratchOff f rc l)) (fun good => lanesRead f rc b good s) w)
  | none =>
    match checkTarget b n true (laneOffs f rc m) with
    | .error h => .error h
    | .ok _ =>
      let s1 := modCtx (lanesRead f rc b m s) (writeLoaded f m fun l =>
        match b with
        | some b => scratchRead s b (scratchOff f rc l) n
        | none => [])
      .ok (if f.ord then acquireAt s1 f.scope else s1)

/-- R294: a scratch store; the highest lane stands. -/
def storeScratchLanes (f : LmF) (rc : Ctx) (b : Option Block) (s : State) : Except Halt State :=
  let m := rc.takePart f.g
  match checkTarget b (sizeBytes f.size) false (laneOffs f rc m) with
  | .error h => .error h
  | .ok _ => match b with
    | none => .ok s
    | some b => .ok (storeScratch s b.uid ((lanesOf m).flatMap fun l => cellsAt (scratchOff f rc l) (storeBytes f rc l)))

/-- R294 LDL. -/
def execLdl (f : LmF) (s : State) : Host.Outcome State Fault Refusal :=
  issue (.ldl f) (lmLoadInfo f false false) (fun rc s => loadScratch f rc (some s.blk) s) s

/-- R294 STL. -/
def execStl (f : LmF) (s : State) : Host.Outcome State Fault Refusal :=
  issue (.stl f) (lmStoreInfo f false false false) (fun rc s => storeScratchLanes f rc (some s.blk) s) s

/-- R294 LDR. -/
def execLdr (f : LmF) (s : State) : Host.Outcome State Fault Refusal :=
  issue (.ldr f) (lmLoadInfo f false false) (fun rc s => loadScratch f rc (spanTarget s f.n.toNat) s) s

/-- R294 STR: performed in the target window at once. -/
def execStr (f : LmF) (s : State) : Host.Outcome State Fault Refusal :=
  issue (.str f) (lmStoreInfo f false false false) (fun rc s => storeScratchLanes f rc (spanTarget s f.n.toNat) s) s

/-- The FIFO of an owned bank, oldest entry first. -/
def fifoOf (b : Block) (bank : Nat) : List (List Lane) := mget [] b.fifo bank

/-- R300: the checks of QPUSH and QPOP on a bank. -/
def checkFifo (b : Block) (bank : Nat) : Except Halt Unit :=
  if bank < b.lstore ∧ bankBusy b bank = true then .error (.wait .bank)
  else if b.lstore ≤ bank ∨ bankMode b bank ≠ 2 then .error (.trap (memTrap 3 0 none (BitVec.ofNat 72 (bank * 32768))))
  else .ok ()

/-- R223: the poison of a FIFO bank, kept from the head on, when the head entry goes. -/
def shiftPoison (p : List (Nat × Bool)) (bank : Nat) : List (Nat × Bool) :=
  p.filterMap fun e =>
    if e.1 / 4096 = bank then (if e.1 % 4096 < 16 then none else some (e.1 - 16, e.2)) else some e

/-- R223: the poison of a local store without that of an entry of a FIFO bank, which is written whole. -/
def clearEntry (p : List (Nat × Bool)) (bank n : Nat) : List (Nat × Bool) :=
  mdrop (fun x => x / 4096 == bank && x % 4096 / 16 == n) p

/-- R300 QPUSH. -/
def qpushBody (f : LmF) (rc : Ctx) (s : State) : Except Halt State :=
  let bank := f.n.toNat
  match checkFifo s.blk bank with
  | .error h => .error h
  | .ok _ =>
    if 256 ≤ (fifoOf s.blk bank).length then .error (.wait (.room bank))
    else
      let m := rc.takePart f.g
      let e := (List.range 32).map fun l => if laneOn m l then rc.lane f.vd.toNat l else 0
      .ok (modBlk s fun b =>
        { b with
          fifo := mset [] b.fifo bank (fifoOf b bank ++ [e])
          scratchPoison := clearEntry b.scratchPoison bank (fifoOf b bank).length })

/-- R300 QPUSH. -/
def execQpush (f : LmF) (s : State) : Host.Outcome State Fault Refusal :=
  issue (.qpush f)
    { size := 8, reads := [(.predicate, f.g.pg.toNat), (.vector, f.vd.toNat)], closes := true, guard := some f.g
      marks := if f.lrd then [f.vd.toNat] else [], lands := [f.vd.toNat] }
    (qpushBody f) s

/-- R223: the lane that a QPOP of a poisoned head entry names: of the lanes whose word lies in a poisoned granule, the lowest
that takes part, or else the lowest. -/
def poisonedSlot (p : List (Nat × Bool)) (bank : Nat) (m : Mask) : Option Nat :=
  let l := (List.range 32).filter fun k => mget false p (4096 * bank + k / 2)
  match l.filter (laneOn m) with
  | x :: _ => some x
  | [] => l.head?

/-- R300 QPOP. -/
def qpopBody (f : LmF) (rc : Ctx) (s : State) : Except Halt State :=
  let bank := f.n.toNat
  match checkFifo s.blk bank with
  | .error h => .error h
  | .ok _ => match fifoOf s.blk bank with
    | [] => .error (.wait (.entry bank))
    | e :: t =>
      match poisonedSlot s.blk.scratchPoison bank (rc.takePart f.g) with
      | some l => .error (.trap (memTrap 12 3 (some (BitVec.ofNat 5 l)) 0))
      | none =>
        let s1 := modCtx s fun c => c.setV f.vd.toNat (rc.takePart f.g) fun l => (e[l]?).getD 0
        .ok (modBlk s1 fun b =>
          { b with fifo := mset [] b.fifo bank t, scratchPoison := shiftPoison b.scratchPoison bank })

/-- R300 QPOP. -/
def execQpop (f : LmF) (s : State) : Host.Outcome State Fault Refusal :=
  issue (.qpop f)
    { size := 8, reads := [(.predicate, f.g.pg.toNat)], writes := [(.vector, f.vd.toNat)], closes := true
      guard := some f.g }
    (qpopBody f) s

end Sys2Proof.Machine
end

