-- ==== Sys2Proof/Machine/Atomics.lean ====
section
/-! DEFINITION. The atomics: VATOM, VCAS, LATOM, MATOM, SATOM (R148, R169, R290 to R292) and the atomic units (R148). -/

namespace Sys2Proof.Machine

/-- The operation of R261 by its code. -/
def aopCas : Nat := 10

/-- R291: the new value of an element of w bits. -/
def atomNew (aop w o b c : Nat) : Nat :=
  if aop = 0 then (o + b) % 2 ^ w
  else if aop = 1 then roundF fp32 .rne false false (addF .rne (decodeF fp32 false o) (decodeF fp32 false b))
  else if aop = 2 then (if sextN w o ≤ sextN w b then o else b)
  else if aop = 3 then (if sextN w o ≤ sextN w b then b else o)
  else if aop = 4 then min o b
  else if aop = 5 then max o b
  else if aop = 6 then Nat.land o b
  else if aop = 7 then Nat.lor o b
  else if aop = 8 then Nat.xor o b
  else if aop = 9 then b
  else if o = c then b else o

/-- The bytes of an element. -/
def atomBytes (w64 : Bool) : Nat := if w64 then 8 else 4

/-- R148, R251: the operation that the home stack's unit performs on a place of memory, once every cached copy of the sector is
recalled, under key 0. -/
def atomUnit (s : State) (op : AtomReq) : State :=
  let n := atomBytes op.w64
  let i := homeIdx s.place op.pa.toNat
  let new := atomNew op.aop.toNat (8 * n) (leNat (pageBytes s 0 i n)) (op.b.toNat % 2 ^ (8 * n)) (op.c.toNat % 2 ^ (8 * n))
  putCells (tagBytes (recallSectors s [i / 128]) 0 i) (cellsAt i (leBytes n new))

/-- R148: whether an operation that waits for an atomic unit is on a sector. -/
def unitOpAt (s : State) (sector : Nat) (op : AtomReq) : Bool := homeIdx s.place op.pa.toNat / 128 == sector

/-- R148: the operations on a sector that wait at its unit, performed in their order, as they are before one that arrives now. -/
def drainUnit (s : State) (sector : Nat) : State :=
  (s.unitOps.filter (unitOpAt s sector)).foldl atomUnit { s with unitOps := s.unitOps.filter fun op => !unitOpAt s sector op }

/-- R148, R169, R176: the state in which an atomic is performed: with the sector in M in the die's L2, or, for a far one, with
every cached copy recalled, of which memory of type DIRECT has none. -/
def atomReady (s : State) (core : Nat) (far : Bool) (a : Acc) : State :=
  if far then tagBytes (if a.cached then recallSectors s [a.idx / 128] else atHome s (a.idx / 128)) a.leaf a.idx
  else ownAccs s core [a]

/-- One lane's operation on memory: the state after it, and the old value. One of the home stack's unit comes after those that
wait there (R148). -/
def atomMem (s0 : State) (core aop n : Nat) (far : Bool) (a : Acc) (b c : Nat) : State × Nat :=
  let s := if far then drainUnit s0 (a.idx / 128) else s0
  let o := leNat (pageBytes s a.leaf a.idx n)
  (storeCells (atomReady s core far a) core (cellsAt a.idx (leBytes n (atomNew aop (8 * n) o b c))), o)

/-- R291: the operations of the lanes in order, with the old values by lane. -/
def atomLanes (core aop n : Nat) (far : Bool) (b c : Nat → Nat) : List Acc → State → State × List (Nat × Nat)
  | [], s => (s, [])
  | a :: t, s =>
    let lane := (a.lane.getD 0).toNat
    let r := atomMem s core aop n far a (b lane) (c lane)
    let rest := atomLanes core aop n far b c t r.1
    (rest.1, (lane, r.2) :: rest.2)

/-- R290: the registers that a field names, a pair with W64. -/
def atomRegs (r : BitVec 8) (w64 : Bool) : List Nat := regRange r.toNat (if w64 then 2 else 1)

/-- R290: the operand of a lane. -/
def atomOperand (c : Ctx) (r : BitVec 8) (w64 : Bool) (l : Nat) : Nat :=
  (c.lane r.toNat l).toNat + if w64 then 2 ^ 32 * (c.lane (r.toNat + 1) l).toNat else 0

/-- R291: the old values written to vD. -/
def writeOld (f : LaF) (m : Mask) (old : List (Nat × Nat)) (c : Ctx) : Ctx :=
  let c1 := c.setV f.vd.toNat m fun l => BitVec.ofNat 32 (mget 0 old l)
  if f.w64 then c1.setV (f.vd.toNat + 1) m fun l => BitVec.ofNat 32 (mget 0 old l / 2 ^ 32) else c1

/-- R261: the operation that an atomic performs; VCAS performs cas. -/
def aopOf (f : LaF) (vcas : Bool) : Nat := if vcas then aopCas else f.aop.toNat

/-- What issue needs of a vector atomic. -/
def atomInfo (f : LaF) (global cas : Bool) : Info where
  size := 8
  reads := [(.predicate, f.g.pg.toNat)] ++ (if global then [(.address, f.n.toNat)] else []) ++ [(.vector, f.va.toNat)] ++
    ((atomRegs f.vb f.w64).map fun r => (.vector, r)) ++
    (if cas then (atomRegs f.vc f.w64).map fun r => (.vector, r) else [])
  writes := (atomRegs f.vd f.w64).map fun r => (.vector, r)
  closes := true
  guard := some f.g

/-- R290: the address of a lane. -/
def atomEA (f : LaF) (rc : Ctx) (l : Nat) : Addr := rc.readA f.n.toNat + sextLane (rc.lane f.va.toNat l)

/-- R169, R170: the acquire of an atomic with acquire order. -/
def atomAcquire (order : BitVec 2) (scope : BitVec 3) (s : State) : State :=
  if order.getLsbD 0 then acquireAt s scope else s

/-- R137, R147, R205: what the accesses of an atomic of the group in focus ask for: walks, and miss registers for the sectors
that its die is to hold. Where its core's L1 lacks one, the group may be swapped out. -/
def atomAsks (s : State) (far : Bool) (l : List Acc) : State :=
  let s1 := swapOnMiss (askWalks s s.blk.core s.blk.vf l) l
  if far then s1 else queueWrites s1 l

/-- R291, R148: an atomic of the lanes that take part on global memory. -/
def atomBody (f : LaF) (vcas far : Bool) (rc : Ctx) (s : State) : Except Halt State :=
  let n := atomBytes f.w64
  let m := rc.takePart f.g
  match checkGlobal s kindAtomic n (laneAddrs m (atomEA f rc)) with
  | .error h => .error h
  | .ok l => match checkPoison s n l with
    | .error h => .error h
    | .ok _ =>
      let r := atomLanes s.blk.core (aopOf f vcas) n far (atomOperand rc f.vb f.w64) (atomOperand rc f.vc f.w64) l
        (atomAsks s far l)
      .ok (atomAcquire f.order f.scope (modCtx r.1 (writeOld f m r.2)))

/-- R291 VATOM. -/
def execVatom (f : LaF) (s : State) : Host.Outcome State Fault Refusal :=
  issue (.vatom f) (atomInfo f true false) (atomBody f false false) s

/-- R291 VCAS. -/
def execVcas (f : LaF) (s : State) : Host.Outcome State Fault Refusal :=
  issue (.vcas f) (atomInfo f true true) (atomBody f true false) s

/-- R148, R291 MATOM. -/
def execMatom (f : LaF) (s : State) : Host.Outcome State Fault Refusal :=
  issue (.matom f) (atomInfo f true (f.aop.toNat == aopCas)) (atomBody f false true) s

/-- R291: the operations of the lanes on the block's scratch. -/
def atomScratch (aop n : Nat) (b c : Nat → Nat) : List (Nat × Nat) → Block → Block × List (Nat × Nat)
  | [], x => (x, [])
  | (lane, off) :: t, x =>
    let o := leNat (scratchBytes x off n)
    let cells := cellsAt off (leBytes n (atomNew aop (8 * n) o (b lane) (c lane)))
    let rest := atomScratch aop n b c t
      { x with scratch := scratchCells x.scratch cells, scratchPoison := clearScratchPoison x.scratchPoison cells }
    (rest.1, (lane, o) :: rest.2)

/-- R291, R292 LATOM. -/
def latomBody (f : LaF) (rc : Ctx) (s : State) : Except Halt State :=
  let n := atomBytes f.w64
  let m := rc.takePart f.g
  let offs := (lanesOf m).map fun l => (l, (rc.lane f.va.toNat l).toNat)
  match checkScratch s.blk n true (offs.map fun x => (some (BitVec.ofNat 5 x.1), x.2)) with
  | .error h => .error h
  | .ok _ =>
    let r := atomScratch f.aop.toNat n (atomOperand rc f.vb f.w64) (atomOperand rc f.vc f.w64) offs s.blk
    let s1 := groupOver s s.blk.uid (offs.flatMap fun x => cellsAt x.2 (scratchBytes r.1 x.2 n))
    .ok (atomAcquire f.order f.scope (modCtx (modBlk s1 fun _ => r.1) (writeOld f m r.2)))

/-- R291 LATOM. -/
def execLatom (f : LaF) (s : State) : Host.Outcome State Fault Refusal :=
  issue (.latom f) (atomInfo f false (f.aop.toNat == aopCas)) (latomBody f) s

/-- R290: a scalar operand of SATOM. -/
def satomOperand (c : Ctx) (r : BitVec 8) (w64 : Bool) : Nat :=
  if w64 then (c.readS r.toNat).toNat else (c.readS r.toNat).toNat % 2 ^ 32

/-- R290, R291 SATOM: once for the group. -/
def satomBody (f : LaF) (rc : Ctx) (s : State) : Except Halt State :=
  let n := atomBytes f.w64
  match scalarAcc s kindAtomic n (rc.readA f.n.toNat + sextAddr (rc.readS f.va.toNat)) with
  | .error h => .error h
  | .ok a => match checkPoison s n [a] with
    | .error h => .error h
    | .ok _ =>
      let r := atomMem (atomAsks s false [a]) s.blk.core f.aop.toNat n false a (satomOperand rc f.vb f.w64)
        (satomOperand rc f.vc f.w64)
      .ok (atomAcquire f.order f.scope (modCtx r.1 fun c => c.writeS f.vd.toNat (BitVec.ofNat 64 r.2)))

/-- R291 SATOM. -/
def execSatom (f : LaF) (s : State) : Host.Outcome State Fault Refusal :=
  issue (.satom f)
    { size := 8
      reads := [(.address, f.n.toNat), (.scalar, f.va.toNat), (.scalar, f.vb.toNat)] ++
        (if f.aop.toNat = aopCas then [(.scalar, f.vc.toNat)] else [])
      writes := [(.scalar, f.vd.toNat)]
      closes := true }
    (satomBody f) s

/-- R148: an atomic unit performs an operation that waits for it, the first that has arrived of its sector. -/
def execAtomicUnitOperation (op : AtomReq) (s : State) : Host.Outcome State Fault Refusal :=
  .next (if s.unitOps.find? (unitOpAt s (homeIdx s.place op.pa.toNat / 128)) == some op then
      atomUnit { s with unitOps := s.unitOps.erase op } op
    else s)

end Sys2Proof.Machine
end

