-- ==== Sys2Proof/Machine/Handles.lean ====
section
/-! DEFINITION. Engine commands as a group sees them: issue of XCPY, XGATH, XSCAT, XRED, XSIG, SPILL, FILL and XPFD (R181,
R182), handles (R183 to R185), WAITH, TESTH and CANCH (R186, R283). -/

namespace Sys2Proof.Machine

/-- R183: a handle. -/
def handleOf (spos : BitVec 2) (kind : BitVec 3) (gen : BitVec 16) (num : Nat) : SWord :=
  BitVec.ofNat 64 (num % 256 + gen.toNat * 2 ^ 16 + kind.toNat * 2 ^ 32 + spos.toNat * 2 ^ 35)

/-- R183: the handle number. -/
def handleNum (h : SWord) : Nat := h.toNat % 256

/-- R183: the generation. -/
def handleGen (h : SWord) : BitVec 16 := BitVec.ofNat 16 (h.toNat / 2 ^ 16)

/-- R183: the engine kind. -/
def handleKind (h : SWord) : BitVec 3 := BitVec.ofNat 3 (h.toNat / 2 ^ 32)

/-- R183: the span position. -/
def handleSpos (h : SWord) : Nat := h.toNat / 2 ^ 35 % 4

/-- R183: whether a value is no handle for a block of a span of n blocks. -/
def badHandle (n : Nat) (h : SWord) : Bool :=
  h.toNat / 2 ^ 37 != 0 || h.toNat / 2 ^ 8 % 2 ^ 8 != 0 || handleGen h == 0 || decide (n ≤ handleSpos h)

/-- R185: the lowest free handle number of a block. -/
def freeNum (b : Block) : Nat := ((List.range 256).find? fun n => !b.cmds.any fun k => k.num == n).getD 256

/-- R185: the generation after the last use of a number. -/
def nextGen (x : BitVec 16) : BitVec 16 := if x = 0xFFFF then 1 else x + 1

/-- R182 step 2: whether the block in focus and its core have a handle left. -/
def handleRoom (s : State) : Bool := handlesLeft s s.blk

/-- R166: the group in focus issues a command: it is the one that an element written ahead is to come from, or one of those before
it. One with ACQ set writes nothing ahead of its issue (log entry 44). -/
def bindEarly (s : State) (num : Nat) (gen : BitVec 16) (acq : Bool) : State :=
  let mine := fun (e : Early) => e.cmd.isNone && e.byUid == s.g.uid && e.bySlot == s.g.slot
  { s with
    broken := s.broken || (acq && s.early.any fun e => mine e && e.skip == 0)
    early := s.early.map fun e =>
      if mine e then (if e.skip = 0 then { e with cmd := some (num, gen) } else { e with skip := e.skip - 1 }) else e }

/-- R182 step 4: the command is live and its handle stands in sd; the registers of a FILL await it (R191). -/
def startCmd (f : LxF) (kind : BitVec 3) (insn : Nat) (bytes : List Byte) (addr : Addr) (first count : Nat) (s : State) : State :=
  let num := freeNum s.blk
  let gen := nextGen (mget 0 s.blk.gens num)
  let k : Cmd :=
    { num := num, gen := gen, kind := kind, state := .pending, started := false, bytes := bytes, stop := 0
      slot := s.g.slot, acq := f.acq, rel := f.rel, scope := f.scope, addr := addr, first := first, count := count
      cancelReq := false, ack := false, protVa := none, poisonVa := none, fault := none, issued := s.clock
      insn := BitVec.ofNat 64 insn }
  let s1 := modBlk (bindEarly s num gen f.acq) fun b => { b with cmds := b.cmds ++ [k], gens := mset 0 b.gens num gen }
  modCtx s1 fun c => c.writeS f.sd.toNat (handleOf s.blk.spanPos kind gen num)

/-- R182 step 1: the address of a command or a save area, on its alignment. -/
def cmdAligned (n : Nat) (a : Addr) : Except Halt Unit :=
  if a.toNat % n = 0 then .ok () else .error (.trap (memTrap 2 0 none a))

/-- The 16-byte pieces of a command block of n bytes. -/
def cmdPieces (a : Addr) (n : Nat) : List (Option (BitVec 5) × Addr) :=
  (List.range ((n + 15) / 16)).map fun k => (none, a + BitVec.ofNat 72 (16 * k))

/-- R137: what a read of 16-byte pieces by the group asks for. -/
def askPieces (s : State) (l : List (Option (BitVec 5) × Addr)) : State :=
  askSectors s false (accesses s s.blk.core s.blk.vf l)

/-- A read of 16-byte pieces by the group: a relaxed load (R182). -/
def readPieces (s : State) (l : List (Option (BitVec 5) × Addr)) : Except Halt (List Byte) :=
  match checkGlobal s kindRead 16 l with
  | .error h => .error h
  | .ok accs => match checkPoison s 16 accs with
    | .error h => .error h
    | .ok _ => .ok (accs.flatMap fun a => loadBytes s s.blk.core false a 16)

/-- R182 step 3: the command block at an address: the bytes that SIZE of its header gives, up to 4,096. -/
def readCommand (s : State) (a : Addr) : Except Halt (List Byte) :=
  match readPieces s (cmdPieces a 16) with
  | .error h => .error h
  | .ok hd => readPieces s (cmdPieces a (max 16 (min 4096 (leNat ((hd.drop 4).take 2)))))

/-- R182: the body of an instruction with a command block. -/
def blockBody (f : LxF) (kind : BitVec 3) (rc : Ctx) (s : State) : Except Halt State :=
  let a := rc.readA f.n.toNat
  match cmdAligned 16 a with
  | .error h => .error h
  | .ok _ =>
    if handleRoom s then
      match readCommand s a with
      | .error h => .error h
      | .ok bs => .ok (startCmd f kind 0 bs a 0 0 (askPieces s (cmdPieces a bs.length)))
    else .error (.wait .handles)

/-- What issue needs of an instruction with a command block. -/
def blockInfo (f : LxF) : Info where
  size := 8
  reads := [(.address, f.n.toNat)]
  writes := [(.scalar, f.sd.toNat)]
  closes := true

/-- R354 XCPY. -/
def execXcpy (f : LxF) (s : State) : Host.Outcome State Fault Refusal := issue (.xcpy f) (blockInfo f) (blockBody f 0) s

/-- R355 XGATH. -/
def execXgath (f : LxF) (s : State) : Host.Outcome State Fault Refusal := issue (.xgath f) (blockInfo f) (blockBody f 1) s

/-- R355 XSCAT. -/
def execXscat (f : LxF) (s : State) : Host.Outcome State Fault Refusal := issue (.xscat f) (blockInfo f) (blockBody f 2) s

/-- R357 XRED. -/
def execXred (f : LxF) (s : State) : Host.Outcome State Fault Refusal := issue (.xred f) (blockInfo f) (blockBody f 3) s

/-- R358 XSIG. -/
def execXsig (f : LxF) (s : State) : Host.Outcome State Fault Refusal := issue (.xsig f) (blockInfo f) (blockBody f 4) s

/-- R191, R288: the registers of a SPILL or FILL; the field holds n - 1. -/
def saveRange (first count : BitVec 8) : List Nat := regRange first.toNat (count.toNat + 1)

/-- The bytes of vector registers as SPILL stores them: lane L at 4 L. -/
def regBytes (c : Ctx) (regs : List Nat) : List Byte :=
  regs.flatMap fun r => (List.range 32).flatMap fun l => leBytes 4 (c.lane r l).toNat

/-- R182, R191: the body of SPILL and FILL; `bytes` is what SPILL stores. -/
def saveBody (f : LxF) (kind : BitVec 3) (insn : Nat) (first count : BitVec 8) (bytes : Ctx → List Byte) (mark : Ctx → Ctx) (rc : Ctx)
    (s : State) : Except Halt State :=
  let a := rc.readA f.n.toNat
  match cmdAligned 128 a with
  | .error h => .error h
  | .ok _ =>
    if handleRoom s then
      .ok (modCtx (startCmd f kind insn (bytes rc) a first.toNat (count.toNat + 1) s) mark)
    else .error (.wait .handles)

/-- R191, R288 SPILL: it reads every lane, and what it reads is what its engine stores. -/
def execSpill (f : LxF) (first count : BitVec 8) (s : State) : Host.Outcome State Fault Refusal :=
  issue (.spill f first count)
    { size := 8
      reads := (.address, f.n.toNat) :: (saveRange first count).map fun r => (.vector, r)
      writes := [(.scalar, f.sd.toNat)]
      closes := true }
    (saveBody f 5 (encode (.spill f first count)) first count (fun rc => regBytes rc (saveRange first count)) id) s

/-- R191: registers that await a FILL. -/
def markFill (regs : List Nat) (on : Bool) (c : Ctx) : Ctx :=
  { c with fillPend := regs.foldl (fun m r => mset false m r on) c.fillPend }

/-- R191, R288 FILL. -/
def execFill (f : LxF) (first count : BitVec 8) (s : State) : Host.Outcome State Fault Refusal :=
  issue (.fill f first count)
    { size := 8
      reads := [(.address, f.n.toNat)]
      writes := [(.scalar, f.sd.toNat)]
      later := saveRange first count
      closes := true }
    (saveBody f 6 (encode (.fill f first count)) first count (fun _ => []) (markFill (saveRange first count) true)) s

/-- R191 XPFD: `count` holds the length in bytes. -/
def xpfdBody (f : LxF) (len : BitVec 6) (rc : Ctx) (s : State) : Except Halt State :=
  if handleRoom s then .ok (startCmd f 7 (encode (.xpfd f len)) [] (rc.readA f.n.toNat) 0 (rc.readS len.toNat).toNat s)
  else .error (.wait .handles)

/-- R191 XPFD. -/
def execXpfd (f : LxF) (len : BitVec 6) (s : State) : Host.Outcome State Fault Refusal :=
  issue (.xpfd f len)
    { size := 8, reads := [(.address, f.n.toNat), (.scalar, len.toNat)], writes := [(.scalar, f.sd.toNat)], closes := true }
    (xpfdBody f len) s

/-- R183, R185, R283: the command of a handle, with its block; none where the handle is stale. -/
def handleCmd (s : State) (h : SWord) : Option (Block × Cmd) :=
  match spanMember s s.blk (handleSpos h) with
  | none => none
  | some b =>
    if b.phase = .complete then none
    else match b.cmds.find? fun k => k.num == handleNum h with
      | none => none
      | some k => if k.gen = handleGen h ∧ k.kind = handleKind h then some (b, k) else none

/-- R184, R186: the bit of a state in TESTH's mask. -/
def stateBit : CmdState → Nat
  | .pending => 0
  | .faultedRetry => 1
  | .done => 2
  | .cancelled => 3
  | .rejected => 4

/-- R185: a command leaves its number. -/
def dropCmd (s : State) (uid num : Nat) : State := updBlk s uid fun b => { b with cmds := b.cmds.filter fun k => k.num != num }

/-- R156: whether the group in focus lies within the scope of a command of its span. -/
def inScope (s : State) (b : Block) (k : Cmd) : Bool :=
  if k.scope = 0 then b.uid == s.blk.uid && k.slot == s.g.slot else if k.scope = 1 then b.uid == s.blk.uid else true

/-- R167: what the group in focus sees of the scratch writes of a command that it observes: with REL set all who come after,
within its scope; with REL clear the group alone. -/
def seeCmd (s : State) (b : Block) (k : Cmd) : State :=
  let mine := fun (x : Loose) => x.cmdUid == b.uid && x.cmdNum == k.num && x.cmdGen == k.gen
  if k.rel then (if inScope s b k then { s with loose := s.loose.filter fun x => !mine x } else s)
  else { s with loose := s.loose.map fun x => if mine x then { x with seen := x.seen ++ [(s.g.uid, s.g.slot)] } else x }

/-- R167, R185: the group in focus observes a stale handle: the writes of its old command were performed before its number was
freed. -/
def seeOld (s : State) (h : SWord) : State :=
  let mine := fun (x : Loose) => (spanMember s s.blk (handleSpos h)).map (·.uid) == some x.cmdUid &&
    x.cmdNum == handleNum h && x.cmdGen == handleGen h && x.cmdKind == handleKind h
  { s with loose := s.loose.map fun x => if mine x then { x with seen := x.seen ++ [(s.g.uid, s.g.slot)] } else x }

/-- R167, R185, R283: the group in focus observes a final command: what its core's L1 holds goes, and the number is free
where the group issued it. -/
def observe (s : State) (b : Block) (k : Cmd) : State :=
  let s1 := dropL1 (seeCmd s b k) s.blk.core
  if b.uid = s.blk.uid ∧ k.slot = s.g.slot then dropCmd s1 b.uid k.num else s1

/-- R186, R224: the trap of a WAITH after a PROT stop or a poison stop. -/
def waithTrap (k : Cmd) : Option TrapReq :=
  match k.protVa, k.poisonVa with
  | some va, _ => some ⟨5, 6, 0, va, none⟩
  | none, some va => some ⟨12, 6, 0, va, none⟩
  | none, none => none

/-- R186 WAITH. -/
def waithBody (h : BitVec 6) (rc : Ctx) (s : State) : Except Halt State :=
  let x := rc.readS h.toNat
  if badHandle (spanSize s.blk) x then .error .ill
  else match handleCmd s x with
    | none => .ok (dropL1 (seeOld s x) s.blk.core)
    | some (b, k) =>
      if k.isFinal then
        match waithTrap k with
        | none => .ok (observe s b k)
        | some t => .error (.stay (takeTrap (issued (observe s b k)) t (fullLen s.ctx 4) none))
      else .error (.wait (.handle b.uid k.num k.gen))

/-- Whether a handle register is illegal whatever may be read early: with checking on, its value is the one read. -/
def handleIll (s : State) (h : BitVec 6) : Bool :=
  h == 0 || (statusChk s.ctx.status && badHandle (spanSize s.blk) (s.ctx.readS h.toNat))

/-- R186 WAITH. -/
def execWaith (h : BitVec 6) (s : State) : Host.Outcome State Fault Refusal :=
  issue (.waith h) { size := 4, reads := [(.scalar, h.toNat)], closes := true, ill := handleIll s h } (waithBody h) s

/-- R186 TESTH. -/
def testhBody (c : BitVec 3) (mask : BitVec 6) (h : BitVec 6) (rc : Ctx) (s : State) : Except Halt State :=
  let x := rc.readS h.toNat
  if badHandle (spanSize s.blk) x then .error .ill
  else match handleCmd s x with
    | none => .ok (modCtx (dropL1 (seeOld s x) s.blk.core) fun ctx => ctx.writeC c.toNat (maskBit mask 5))
    | some (b, k) =>
      let s1 := if k.isFinal then observe s b k else s
      .ok (modCtx s1 fun ctx => ctx.writeC c.toNat (maskBit mask (stateBit k.state)))

/-- R186 TESTH. -/
def execTesth (c : BitVec 3) (mask : BitVec 6) (h : BitVec 6) (s : State) : Host.Outcome State Fault Refusal :=
  issue (.testh c mask h)
    { size := 4, reads := [(.scalar, h.toNat)], writes := [(.condition, c.toNat)], closes := true, ill := handleIll s h }
    (testhBody c mask h) s

/-- A command of a block changed. -/
def modCmd (s : State) (uid num : Nat) (f : Cmd → Cmd) : State :=
  updBlk s uid fun b => { b with cmds := b.cmds.map fun k => if k.num == num then f k else k }

/-- R191: the registers of a FILL that stops leave the fill-pending state. -/
def endFill (s : State) (uid : Nat) (k : Cmd) : State :=
  if k.kind = 6 then updGroup s uid k.slot (outside (markFill (regRange (k.first + k.stop) (k.count - k.stop)) false)) else s

/-- A command becomes final (R184): its registers are free, and its number where its group has exited (R185); a span barrier
that waited for its writes may complete (R164). What it has written ahead of its issue, it has written again by now (log entry
44). -/
def endCmd (s : State) (uid : Nat) (k : Cmd) (st : CmdState) : State :=
  let s0 := { s with
    torn := s.torn.filter fun x => !(x.uid == uid && x.num == k.num)
    broken := s.broken || s.early.any fun e => e.byUid == uid && e.cmd == some (k.num, k.gen) }
  let s1 := endFill (modCmd s0 uid k.num fun x => { x with state := st, fault := none }) uid k
  let s2 := updBlk s1 uid (freeExited s1)
  if writesSpanScratch k then (List.range 4).foldl (fun acc n => checkSpanBar acc (findBlk acc uid) n) s2 else s2

/-- R186 CANCH: a faulted-retry command is cancelled at once, and the answer to its fault finds nothing. -/
def canchCmd (s : State) (b : Block) (k : Cmd) : State :=
  if k.state = .pending then modCmd s b.uid k.num fun x => { x with cancelReq := true }
  else if k.state = .faultedRetry then
    endCmd { s with faults := s.faults.filter fun f => f.owner != .engine b.uid k.num } b.uid k .cancelled
  else s

/-- R186 CANCH. -/
def canchBody (h : BitVec 6) (rc : Ctx) (s : State) : Except Halt State :=
  let x := rc.readS h.toNat
  if badHandle (spanSize s.blk) x then .error .ill
  else match handleCmd s x with
    | none => .ok s
    | some (b, k) => .ok (canchCmd s b k)

/-- R186 CANCH. -/
def execCanch (h : BitVec 6) (s : State) : Host.Outcome State Fault Refusal :=
  issue (.canch h) { size := 4, reads := [(.scalar, h.toNat)], closes := true, ill := handleIll s h } (canchBody h) s

end Sys2Proof.Machine
end

