-- ==== Sys2Proof/Machine/Engines.lean ====
section
/-! DEFINITION. What the engines do: the checks of a command block (R187, R188, R355, R357, R358), elements (R189 to R191, R354
to R358), completion and cancelling (R184, R186). -/

namespace Sys2Proof.Machine

/-- The field of n bytes at an offset of a command block. -/
def cmdU (k : Cmd) (o n : Nat) : Nat := leNat ((k.bytes.drop o).take n)

/-- The same, signed. -/
def cmdI (k : Cmd) (o n : Nat) : Int := sextN (8 * n) (cmdU k o n)

/-- R187: whether n bytes at an offset are zero. -/
def zeroAt (k : Cmd) (o n : Nat) : Bool := cmdU k o n == 0

/-- R187: the header, for an engine kind and the known length of its version 1 block. -/
def headerOk (k : Cmd) (known : Nat) : Bool :=
  cmdU k 0 2 == k.kind.toNat && cmdU k 2 2 == 1 && decide (known ≤ cmdU k 4 2) && cmdU k 4 2 % 16 == 0 &&
    decide (cmdU k 4 2 ≤ 4096) && zeroAt k 6 10 && (k.bytes.drop known).all (· == 0)

/-- R188: a space byte: its kind, and a span position only in span scratch, below the span size. -/
def spaceOk (b : Block) (x : Nat) : Bool :=
  decide (x < 16) && x % 4 != 3 && (x / 4 == 0 || x % 4 == 2) && decide (x / 4 < spanSize b)

/-- R188: a pointer slot: bytes 9 to 15 zero, and in scratch bits [71:32]. -/
def slotOk (k : Cmd) (o x : Nat) : Bool := zeroAt k (o + 9) 7 && (x % 4 == 0 || zeroAt k (o + 4) 5)

/-- R188: the extents of dimensions 0 to 3 as they count. -/
def cmdExtent (k : Cmd) (d : Nat) : Nat := if d < cmdU k 53 1 then cmdU k (56 + 4 * d) 4 else 1

/-- R188: the stride of a dimension, of the source at 72 or the destination at 104. -/
def cmdStride (k : Cmd) (o d : Nat) : Int := cmdI k (o + 8 * d) 8

/-- R88 check 10: the least and greatest displacement of the box of extents. -/
def cmdBox (k : Cmd) (o : Nat) : Int × Int :=
  (List.range (cmdU k 53 1)).foldl (fun (acc : Int × Int) d =>
    let span := ((cmdExtent k d : Int) - 1) * cmdStride k o d
    (acc.1 + min 0 span, acc.2 + max 0 span)) (0, 0)

/-- R133: the bytes of the scratch window that a space byte names. -/
def windowBytes (s : State) (b : Block) (x : Nat) : Nat :=
  if x % 4 = 2 then (match spanMember s b (x / 4) with
    | some t => t.lstore * 32768
    | none => 0)
  else b.lstore * 32768

/-- R188: one side of a copy: space, slot, base and strides in units of its element of n bytes, the box in its window. -/
def sideOk (s : State) (b : Block) (k : Cmd) (slot strides space n : Nat) : Bool :=
  spaceOk b space && slotOk k slot space && cmdU k slot 9 % n == 0 &&
    ((List.range 4).all fun d => cmdStride k strides d % (n : Int) == 0) &&
    (space % 4 == 0 ||
      (decide (0 ≤ (cmdU k slot 9 : Int) + (cmdBox k strides).1) &&
        decide ((cmdU k slot 9 : Int) + (cmdBox k strides).2 + (n : Int) ≤ (windowBytes s b space : Int))))

/-- R188: the extents and strides within the known length. -/
def dimsOk (k : Cmd) : Bool :=
  decide (1 ≤ cmdU k 53 1) && decide (cmdU k 53 1 ≤ 4) && (List.range 4).all fun d =>
    if d < cmdU k 53 1 then cmdU k (56 + 4 * d) 4 != 0
    else zeroAt k (56 + 4 * d) 4 && zeroAt k (72 + 8 * d) 8 && zeroAt k (104 + 8 * d) 8

/-- R188: the bytes of a source element. -/
def srcBytes (k : Cmd) : Nat := 2 ^ cmdU k 50 1

/-- R188: the bytes of a destination element of a copy: those of the destination format where it converts. -/
def dstBytes (k : Cmd) : Nat :=
  if k.kind = 0 ∧ cmdU k 51 1 % 2 = 1 then cvtWidth (cmdU k 52 1 / 16) / 8 else srcBytes k

/-- R188: the conversion fields of a copy. -/
def convertOk (k : Cmd) : Bool :=
  decide (cmdU k 51 1 < 16) &&
    (if cmdU k 51 1 % 2 = 1 then
      decide (cmdU k 52 1 % 16 ≤ 10) && decide (cmdU k 52 1 / 16 ≤ 10) && cvtWidth (cmdU k 52 1 % 16) == 8 * srcBytes k
     else zeroAt k 52 1)

/-- R357: the operation and the type of a reduction. -/
def reduceOk (k : Cmd) : Bool :=
  decide (cmdU k 51 1 ≤ 8) && decide (cmdU k 52 1 ≤ 2) && ((cmdU k 51 1 == 1) == (cmdU k 52 1 == 2)) &&
    cmdU k 50 1 == (if cmdU k 52 1 = 1 then 3 else 2)

/-- R188, R357: the block of a copy or a reduction. -/
def copyOk (s : State) (b : Block) (k : Cmd) : Bool :=
  headerOk k 144 && decide (cmdU k 50 1 ≤ 4) && zeroAt k 54 2 && zeroAt k 136 8 && dimsOk k &&
    (if k.kind = 3 then reduceOk k else convertOk k) &&
    sideOk s b k 16 72 (cmdU k 48 1) (srcBytes k) && sideOk s b k 32 104 (cmdU k 49 1) (dstBytes k)

/-- R355: the element bytes of a gather or scatter. -/
def gathBytes (k : Cmd) : Nat := 2 ^ cmdU k 67 1

/-- R355: the contiguous side of a gather or scatter: its slot and space. -/
def contSide (k : Cmd) : Nat × Nat := if k.kind = 1 then (32, cmdU k 65 1) else (16, cmdU k 64 1)

/-- R355: whether the elements of the contiguous side stay in its window. -/
def contFits (s : State) (b : Block) (k : Cmd) : Bool :=
  let x := contSide k
  let base := (cmdU k x.1 9 : Int)
  let last := ((cmdU k 72 4 : Int) - 1) * cmdI k 80 8
  x.2 % 4 == 0 || cmdU k 72 4 == 0 ||
    (decide (0 ≤ base + min 0 last) && decide (base + max 0 last + (gathBytes k : Int) ≤ (windowBytes s b x.2 : Int)))

/-- R355: the block of a gather or scatter. -/
def gatherOk (s : State) (b : Block) (k : Cmd) : Bool :=
  headerOk k 96 && spaceOk b (cmdU k 64 1) && spaceOk b (cmdU k 65 1) && spaceOk b (cmdU k 66 1) &&
    slotOk k 16 (cmdU k 64 1) && slotOk k 32 (cmdU k 65 1) && slotOk k 48 (cmdU k 66 1) &&
    decide (cmdU k 67 1 ≤ 4) && (cmdU k 68 1 == 2 || cmdU k 68 1 == 3) && decide (cmdU k 69 1 < 8) &&
    decide (cmdU k 70 1 < 2) && zeroAt k 71 1 && zeroAt k 76 4 && zeroAt k 88 8 &&
    cmdU k (contSide k).1 9 % gathBytes k == 0 && cmdI k 80 8 % (gathBytes k : Int) == 0 &&
    cmdU k 48 9 % 2 ^ cmdU k 68 1 == 0 && contFits s b k

/-- R358: the bytes of a signal. -/
def sigBytes (k : Cmd) : Nat := if cmdU k 34 1 = 1 then 8 else 4

/-- R358: the block of a signal. -/
def signalOk (b : Block) (k : Cmd) : Bool :=
  headerOk k 64 && spaceOk b (cmdU k 32 1) && slotOk k 16 (cmdU k 32 1) &&
    (cmdU k 33 1 == 0 || (decide (6 ≤ cmdU k 33 1) && decide (cmdU k 33 1 ≤ 9))) && decide (cmdU k 34 1 < 2) &&
    zeroAt k 35 5 && (cmdU k 34 1 == 1 || zeroAt k 44 4) && zeroAt k 48 16 && cmdU k 16 9 % sigBytes k == 0

/-- R187: whether an engine starts the command of a block. -/
def commandOk (s : State) (b : Block) (k : Cmd) : Bool :=
  if k.kind = 0 ∨ k.kind = 3 then copyOk s b k
  else if k.kind = 1 ∨ k.kind = 2 then gatherOk s b k
  else if k.kind = 4 then signalOk b k
  else if k.kind = 7 then decide (k.count ≤ 2 ^ 24)
  else true

/-- The number of elements of a command. -/
def cmdTotal (k : Cmd) : Nat :=
  if k.kind = 0 ∨ k.kind = 3 then cmdExtent k 0 * cmdExtent k 1 * cmdExtent k 2 * cmdExtent k 3
  else if k.kind = 1 ∨ k.kind = 2 then cmdU k 72 4
  else if k.kind = 4 then 1
  else if k.kind = 7 then (if k.count = 0 then 0 else (k.addr.toNat % 128 + k.count + 127) / 128)
  else k.count

/-- Whether some command of the core of a block, issued earlier, has yet to start (R190). -/
def earlierWaits (s : State) (b : Block) (k : Cmd) : Bool :=
  (allBlocks s).any fun x => x.core == b.core && (x.phase == .resident || x.phase == .stopping) && x.cmds.any fun y =>
    decide (y.issued < k.issued) && y.state == .pending && !y.started

/-- R218: whether the engines serve a command of a block: that of a resident block, and of one that is being stopped its XSIGs,
which are to complete, and what stands ahead of them. -/
def served (b : Block) (k : Cmd) : Bool := b.phase == .resident || (b.phase == .stopping && (k.kind == 4 || !k.started))

/-- The command of the block in focus with a number, none where it is not served. -/
def focusCmd (s : State) (num : BitVec 8) : Option Cmd := s.blk.cmds.find? fun k => k.num == num.toNat && served s.blk k

/-- R187: a command of the block in focus starts, in issue order, or is rejected; one without elements is done at once. -/
def execEngineStart (num : BitVec 8) (s : State) : Host.Outcome State Fault Refusal :=
  .next (match focusCmd s num with
    | none => s
    | some k =>
      if k.state = .pending ∧ k.started = false ∧ k.cancelReq = false ∧ earlierWaits s s.blk k = false then
        if commandOk s s.blk k then
          if cmdTotal k = 0 then endCmd s s.blk.uid { k with started := true } .done
          else modCmd s s.blk.uid k.num fun x => { x with started := true }
        else endCmd s s.blk.uid k .rejected
      else s)

/-- Where an element lies: local memory, host memory, a peer, or the scratch of a block. -/
inductive Place where
  | local (a : Acc)
  | host (i : Nat)
  | peer (i : Nat)
  | scratch (uid off : Nat)
  deriving DecidableEq, Repr

/-- Why an engine does not perform an element now (R190, R224, R135), or has to wait for a miss register first (R147). -/
inductive EngStop where
  | memf (va : Addr) (lvl : Nat) (malf : Bool) (kind : Nat)
  | prot (va : Addr)
  | poison (va : Addr) (p : Place)
  | wait
  | queue (core leaf sector : Nat)
  deriving DecidableEq, Repr

/-- R251: whether the peer of an aperture offset can be reached. -/
def peerOpen (s : State) (i : Nat) : Bool :=
  match s.peers.find? fun e => e.1 == i / 2 ^ 41 % 1024 with
  | some e => e.2.valid && e.2.mask != 0
  | none => false

/-- R147: whether an engine has to wait for a miss register before an access of local memory: an atomic of its home's unit needs
none, nor does memory of type DIRECT. -/
def engineQueues (s : State) (b : Block) (k : Cmd) (leaf i : Nat) (write : Bool) : Bool :=
  !(write && (k.kind == 3 || k.kind == 4)) && entryMT leaf != 2 && registerWaits s b.core (i / 128)

/-- R153, R190: the place of a global element of the engine of a command. `peers` says whether the kind uses the Strelfel ports
(R251). -/
def globalPlace (s : State) (b : Block) (k : Cmd) (va : Addr) (write peers : Bool) : Except EngStop Place :=
  match translate s b.core b.vf va with
  | .fault lvl malf => .error (.memf va lvl malf (if write then kindEngWrite else kindEngRead))
  | .ok pa leaf =>
    match protDetail s b.vf (findGroup s b.uid k.slot).ctx.handler write false true pa leaf with
    | some _ => .error (.prot va)
    | none =>
      if isLocal pa then
        let i := accIdx s b.core leaf pa
        if engineQueues s b k leaf i write then .error (.queue b.core leaf (i / 128)) else .ok (.local ⟨none, va, pa, i, leaf⟩)
      else if pa / 2 ^ 51 % 2 = 1 then
        (if peers && peerOpen s pa then .ok (.peer (pa % 2 ^ 51)) else .error (.prot va))
      else .ok (.host (pa % 2 ^ 50))

/-- R133, R354: the place of a scratch element of n bytes. -/
def scratchPlace (b : Option Block) (off n : Nat) : Except EngStop Place :=
  match b with
  | none => .error (.prot (BitVec.ofNat 72 off))
  | some t =>
    if windowBusy t off n then .error .wait
    else if inWindow t off n then .ok (.scratch t.uid off)
    else .error (.prot (BitVec.ofNat 72 off))

/-- The place of an element of n bytes at an address of a space (R188). -/
def elemPlace (s : State) (b : Block) (k : Cmd) (space : Nat) (x : Int) (n : Nat) (write peers : Bool) :
    Except EngStop Place :=
  if space % 4 = 0 then globalPlace s b k (toAddr x) write peers
  else scratchPlace (if space % 4 = 1 then some b else spanMember s b (space / 4)) (truncI x 32) n

/-- The address of an element as a trap reports it. -/
def elemVa (space : Nat) (x : Int) : Addr := if space % 4 = 0 then toAddr x else BitVec.ofNat 72 (truncI x 32)

/-- Whether the n bytes of a place are poisoned (R223, R224). -/
def placePoisoned (s : State) (p : Place) (n : Nat) : Bool :=
  match p with
  | .local a => poisonedAt s a.idx n
  | .scratch uid off => scratchPoisoned (findBlk s uid) off n
  | .host _ => false
  | .peer _ => false

/-- The n bytes of a place. DESIGN CHOICE: of scratch an engine reads the newest bytes, whatever ACQ says, though with ACQ clear
its read need not follow another group's write that happens before its issue (R166, log entry 44). -/
def placeBytes (s : State) (p : Place) (n : Nat) : List Byte :=
  match p with
  | .local a => pageBytes s a.leaf a.idx n
  | .scratch uid off => scratchBytes (findBlk s uid) off n
  | .host i => bytesAt s.hostMem i n
  | .peer i => bytesAt s.peerMem i n

/-- R168: a byte written to local memory by an engine: until the other byte of its halfword is written, or the command ends, an
instruction fetch may see the halfword as it was. -/
def tearByte (s : State) (b : Block) (k : Cmd) (i : Nat) (v : Byte) : State :=
  let s1 := putCells s [(i, v)]
  match s.torn.find? fun x => x.half == i / 2 && x.uid == b.uid && x.num == k.num with
  | some x => if x.byte = i % 2 then { s1 with torn := s.torn } else s1
  | none => { s1 with torn := s1.torn ++ [⟨i / 2, i % 2, b.uid, k.num, bytesAt s.mem (i / 2 * 2) 2⟩] }

/-- Whether an element written ahead is to come from a command of a block. -/
def Early.from_ (b : Block) (k : Cmd) (x : Early) : Bool := x.byUid == b.uid && x.cmd == some (k.num, k.gen)

/-- R166: an element of a command that was written ahead of its issue: it stands already, and is now the command's. -/
def fulfil (s : State) (b : Block) (k : Cmd) (e : Early) : State :=
  { s with
    early := s.early.erase e
    loose := s.loose.map fun x =>
      if x.cmdNum = unissued ∧ x.uid = e.uid ∧ x.off = e.off then
        { x with span := writesSpanScratch k, cmdUid := b.uid, cmdNum := k.num, cmdGen := k.gen, cmdKind := k.kind, age := 0 }
      else x }

/-- R166, R167: an element written to scratch by an engine, which a group need not see before it observes the command. What others
have written ahead there stands no more; where the command itself has written something else there ahead of its issue, there is no
such run (log entry 44). -/
def looseWrite (s : State) (b : Block) (k : Cmd) (uid off : Nat) (bs : List Byte) : State :=
  match s.early.find? fun x => x.from_ b k && x.uid == uid && x.off == off && x.bytes == bs with
  | some e => fulfil s b k e
  | none =>
    let cells := cellsAt off bs
    let s1 := putScratch s uid cells
    { s1 with
      loose := s1.loose.filter (fun x => x.cmdNum == unissued || decide (x.age < 2048)) ++
        [⟨uid, off, scratchBytes (findBlk s uid) off bs.length, writesSpanScratch k, b.uid, k.num, k.gen, k.kind, 0, [], []⟩]
      early := s.early.map fun x => if x.hit cells uid then { x with past := true } else x
      broken := s.broken || s.early.any fun x => x.hit cells uid && x.from_ b k }

/-- R170, R190: bytes of an element written to a place by a command, and whether a peer's acknowledgement is awaited. -/
def placeWrite (s : State) (b : Block) (k : Cmd) (p : Place) (bs : List Byte) : State × Bool :=
  match p with
  | .local a =>
    let s1 := ownAccs (askWalks s b.core b.vf [a]) b.core [a]
    (match bs with
      | [v] => tearByte s1 b k a.idx v
      | _ => putCells s1 (cellsAt a.idx bs), false)
  | .scratch uid off => (looseWrite s b k uid off bs, false)
  | .host i => ({ s with hostMem := writeCells s.hostMem (cellsAt i bs) }, false)
  | .peer i => ({ s with peerMem := writeCells s.peerMem (cellsAt i bs) }, true)

/-- R251: whether the peer of a place refuses what is sent to it. -/
def refused (s : State) (p : Place) : Bool :=
  match p with
  | .peer _ => Config.peerRefuses s.freeCtr
  | _ => false

/-- R138: what an engine's read of a place asks for: a walk, the sector in the L2 of its die. -/
def placeAsks (s : State) (b : Block) (p : Place) : State :=
  match p with
  | .local a => fetchSectors (askWalks s b.core b.vf [a]) b.core false [a]
  | _ => s

/-- A read of the bytes of an element, without poison, with the state after what it asks for. -/
def elemRead (s : State) (b : Block) (p : Place) (va : Addr) (n : Nat) : Except EngStop (List Byte × State) :=
  if refused s p then .error (.prot va)
  else if placePoisoned s p n then .error (.poison va p)
  else .ok (placeBytes s p n, placeAsks s b p)

/-- A write of an element. -/
def elemWrite (s : State) (b : Block) (k : Cmd) (p : Place) (va : Addr) (bs : List Byte) : Except EngStop (State × Bool) :=
  if refused s p then .error (.prot va) else .ok (placeWrite s b k p bs)

/-- The state after an atomic of an engine has written a place (R148, R170). DESIGN CHOICE: one of scratch is seen by every
group at once, though a group that has not observed the command need not see it yet (R167, log entry 44). -/
def atomicWrite (s : State) (b : Block) (p : Place) (bs : List Byte) : State × Bool :=
  match p with
  | .local a => (putCells (atomReady (askWalks s b.core b.vf [a]) b.core true a) (cellsAt a.idx bs), false)
  | .scratch uid off => (putScratch (overLoose s uid (cellsAt off bs)) uid (cellsAt off bs), false)
  | .host _ => (s, false)
  | .peer i => ({ s with peerMem := writeCells s.peerMem (cellsAt i bs) }, true)

/-- R357, R358: one atomic of an engine: in the home stack's unit, in the local store, in a peer's unit, in host memory
nowhere. -/
def elemAtomic (s : State) (b : Block) (p : Place) (va : Addr) (aop n x : Nat) : Except EngStop (State × Bool) :=
  match p with
  | .host _ => .error (.prot va)
  | _ =>
    if refused s p then .error (.prot va)
    else if placePoisoned s p n then .error (.poison va p)
    else
      let s1 := match p with
        | .local a => drainUnit s (a.idx / 128)
        | _ => s
      .ok (atomicWrite s1 b p (leBytes n (atomNew aop (8 * n) (leNat (placeBytes s1 p n)) x 0)))

/-- R188: where element e of a copy lies: the displacement from its base. -/
def cmdDisp (k : Cmd) (o e : Nat) : Int :=
  let x0 := cmdExtent k 0
  let x1 := cmdExtent k 1
  let x2 := cmdExtent k 2
  ((e % x0 : Nat) : Int) * cmdStride k o 0 + ((e / x0 % x1 : Nat) : Int) * cmdStride k o 1 +
    ((e / (x0 * x1) % x2 : Nat) : Int) * cmdStride k o 2 + ((e / (x0 * x1 * x2) : Nat) : Int) * cmdStride k o 3

/-- R189: the conversion of a copy. -/
def copyConvert (k : Cmd) (bs : List Byte) : List Byte :=
  if cmdU k 51 1 % 2 = 1 then
    leBytes (dstBytes k) (convert (cmdU k 52 1 % 16) (cmdU k 52 1 / 16) (RMode.ofCode (cmdU k 51 1 / 4)) false
      (cmdU k 51 1 / 2 % 2 == 1) (leNat bs)).1
  else bs

/-- R189, R357: element e of a copy or a reduction. -/
def copyElem (s : State) (b : Block) (k : Cmd) (e : Nat) : Except EngStop (State × Bool) :=
  let src := (cmdU k 16 9 : Int) + cmdDisp k 72 e
  let dst := (cmdU k 32 9 : Int) + cmdDisp k 104 e
  match elemPlace s b k (cmdU k 48 1) src (srcBytes k) false true with
  | .error x => .error x
  | .ok p => match elemRead s b p (elemVa (cmdU k 48 1) src) (srcBytes k) with
    | .error x => .error x
    | .ok (bs, s1) => match elemPlace s b k (cmdU k 49 1) dst (dstBytes k) true true with
      | .error x => .error x
      | .ok q =>
        if k.kind = 3 then
          elemAtomic s1 b q (elemVa (cmdU k 49 1) dst) (cmdU k 51 1) (srcBytes k) (leNat bs)
        else elemWrite s1 b k q (elemVa (cmdU k 49 1) dst) (copyConvert k bs)

/-- R356: the indexed displacement from an index. -/
def indexDisp (k : Cmd) (x : Nat) : Int :=
  (if cmdU k 70 1 = 1 then (x : Int) else sextN (8 * 2 ^ cmdU k 68 1) x) * ((2 ^ cmdU k 69 1 : Nat) : Int)

/-- R356: a transfer of one element of n bytes; the indexed side stops on an address that is no multiple of n. -/
def moveElem (s : State) (b : Block) (k : Cmd) (n : Nat) (src dst indexed : Int) (ispace : Nat) :
    Except EngStop (State × Bool) :=
  if indexed % (n : Int) ≠ 0 then .error (.prot (elemVa ispace indexed))
  else match elemPlace s b k (cmdU k 64 1) src n false false with
    | .error x => .error x
    | .ok p => match elemRead s b p (elemVa (cmdU k 64 1) src) n with
      | .error x => .error x
      | .ok (bs, s1) => match elemPlace s b k (cmdU k 65 1) dst n true false with
        | .error x => .error x
        | .ok q => elemWrite s1 b k q (elemVa (cmdU k 65 1) dst) bs

/-- R356: element e of a gather or a scatter. -/
def gatherElem (s : State) (b : Block) (k : Cmd) (e : Nat) : Except EngStop (State × Bool) :=
  let iw := 2 ^ cmdU k 68 1
  let ix := (cmdU k 48 9 : Int) + ((e * iw : Nat) : Int)
  match elemPlace s b k (cmdU k 66 1) ix iw false false with
  | .error x => .error x
  | .ok p => match elemRead s b p (elemVa (cmdU k 66 1) ix) iw with
    | .error x => .error x
    | .ok (bs, s) =>
      let o := indexDisp k (leNat bs)
      let c := (e : Int) * cmdI k 80 8
      if k.kind = 1 then
        moveElem s b k (gathBytes k) ((cmdU k 16 9 : Int) + o) ((cmdU k 32 9 : Int) + c) ((cmdU k 16 9 : Int) + o)
          (cmdU k 64 1)
      else
        moveElem s b k (gathBytes k) ((cmdU k 16 9 : Int) + c) ((cmdU k 32 9 : Int) + o) ((cmdU k 32 9 : Int) + o)
          (cmdU k 65 1)

/-- R358: the atomic of a signal. -/
def signalElem (s : State) (b : Block) (k : Cmd) : Except EngStop (State × Bool) :=
  match elemPlace s b k (cmdU k 32 1) (cmdU k 16 9 : Int) (sigBytes k) true true with
  | .error x => .error x
  | .ok p => elemAtomic s b p (elemVa (cmdU k 32 1) (cmdU k 16 9 : Int)) (cmdU k 33 1) (sigBytes k) (cmdU k 40 8)

/-- R191: element i of a SPILL. -/
def spillElem (s : State) (b : Block) (k : Cmd) (i : Nat) : Except EngStop (State × Bool) :=
  let va := k.addr + BitVec.ofNat 72 (128 * i)
  match globalPlace s b k va true false with
  | .error x => .error x
  | .ok p => elemWrite s b k p va ((k.bytes.drop (128 * i)).take 128)

/-- R191: a register written whole by a FILL: live, without poison, no longer awaited. -/
def fillReg (r : Nat) (bs : List Byte) (g : Group) : Group :=
  outside (fun c => markFill [r] false (c.setV r (BitVec.allOnes 32) fun l => BitVec.ofNat 32 (leNat ((bs.drop (4 * l)).take 4))))
    { g with
      poisonV := mdrop (fun x => x / 32 == r) g.poisonV
      window := g.window.map fun w => { w with poisonV := mdrop (fun x => x / 32 == r) w.poisonV }
      undo := g.undo.map fun w => { w with poisonV := mdrop (fun x => x / 32 == r) w.poisonV } }

/-- R191: element i of a FILL. -/
def fillElem (s : State) (b : Block) (k : Cmd) (i : Nat) : Except EngStop (State × Bool) :=
  let va := k.addr + BitVec.ofNat 72 (128 * i)
  match globalPlace s b k va false false with
  | .error x => .error x
  | .ok p => match elemRead s b p va 128 with
    | .error x => .error x
    | .ok (bs, s1) => .ok (updGroup s1 b.uid k.slot (fillReg (k.first + i) bs), false)

/-- R191: sector i of an XPFD: brought into the L2 of the die, or skipped where its page may not be read or is not cached. -/
def prefetchElem (s : State) (b : Block) (k : Cmd) (i : Nat) : Except EngStop State :=
  let va := k.addr - BitVec.ofNat 72 (k.addr.toNat % 128) + BitVec.ofNat 72 (128 * i)
  let s1 := askWalk s b.core b.vf va
  match translate s b.core b.vf va with
  | .fault _ _ => .ok s1
  | .ok pa leaf =>
    let i := accIdx s b.core leaf pa
    if (protDetail s b.vf (findGroup s b.uid k.slot).ctx.handler false false false pa leaf).isSome then .ok s1
    else if entryMT leaf = 2 then .ok s1
    else if engineQueues s b k leaf i false then .error (.queue b.core leaf (i / 128))
    else .ok (fetchSectors s1 b.core false [⟨none, va, pa, i, leaf⟩])

/-- The element at the stop index of a command. -/
def elemStep (s : State) (b : Block) (k : Cmd) : Except EngStop (State × Bool) :=
  if k.kind = 0 ∨ k.kind = 3 then copyElem s b k k.stop
  else if k.kind = 1 ∨ k.kind = 2 then gatherElem s b k k.stop
  else if k.kind = 4 then signalElem s b k
  else if k.kind = 5 then spillElem s b k k.stop
  else if k.kind = 6 then fillElem s b k k.stop
  else (prefetchElem s b k k.stop).map fun s1 => (s1, false)

/-- R190: a command stopped by a MEMF: its record and its state. -/
def stopMemf (s : State) (b : Block) (k : Cmd) (va : Addr) (lvl : Nat) (malf : Bool) (kind : Nat) : State :=
  let s1 := modCmd s b.uid k.num fun x => { x with state := .faultedRetry, fault := some s.faultSeq }
  reportFault s1 (.engine b.uid k.num) b.core b.vf none va lvl malf kind 0xFF k.num b.spanPos.toNat

/-- R223 to R227: the log entry of the poison in a place that stops a command of a block: by its PA, or of the local store of the
core whose scratch it is, with the group that issued the command. -/
def logEnginePoison (s : State) (b : Block) (k : Cmd) (p : Place) : State :=
  let log := fun (die type index flags : Nat) (addr : Addr) =>
    mcEvent s die type index 7 flags addr 0 b.vf (b.core % 64) (findGroup s b.uid k.slot).part k.slot
  match p with
  | .local a => log (dieOf b.core) 1 (l2Slice a.pa) 5 (BitVec.ofNat 72 a.pa)
  | .scratch uid _ => log (dieOf (findBlk s uid).core) 3 ((findBlk s uid).core % 64) 4 0
  | .host _ => s
  | .peer _ => s

/-- R190: what stops a command at an element. -/
def stopCmd (s : State) (b : Block) (k : Cmd) : EngStop → State
  | .memf va lvl malf kind => stopMemf s b k va lvl malf kind
  | .prot va => endCmd (modCmd s b.uid k.num fun x => { x with protVa := some va }) b.uid k .cancelled
  | .poison va p => endCmd (modCmd (logEnginePoison s b k p) b.uid k.num fun x => { x with poisonVa := some va }) b.uid k .cancelled
  | .wait => s
  | .queue core leaf sector => queueMiss core leaf [] s sector

/-- R189, R190: an engine performs the next element of a command of the block in focus, or stops at it. -/
def execEngineElement (num : BitVec 8) (s : State) : Host.Outcome State Fault Refusal :=
  .next (match focusCmd s num with
    | none => s
    | some k =>
      if k.state = .pending ∧ k.started = true ∧ k.cancelReq = false ∧ k.ack = false ∧ k.stop < cmdTotal k then
        match elemStep s s.blk k with
        | .error e => stopCmd s s.blk k e
        | .ok (s1, true) => modCmd s1 s.blk.uid k.num fun x => { x with ack := true }
        | .ok (s1, false) => modCmd s1 s.blk.uid k.num fun x => { x with stop := k.stop + 1 }
      else s)

/-- R354: the peer's acknowledgement of the element that a command of the block in focus awaits: it has been performed. -/
def execPeerAcknowledgement (num : BitVec 8) (s : State) : Host.Outcome State Fault Refusal :=
  .next (match s.blk.cmds.find? fun k => k.num == num.toNat with
    | none => s
    | some k => if k.ack then modCmd s s.blk.uid k.num fun x => { x with ack := false, stop := k.stop + 1 } else s)

/-- R184: every element of a command of the block in focus is performed: its handle is done. -/
def execEngineCompletion (num : BitVec 8) (s : State) : Host.Outcome State Fault Refusal :=
  .next (match focusCmd s num with
    | none => s
    | some k =>
      if k.state = .pending ∧ k.started = true ∧ k.ack = false ∧ k.stop = cmdTotal k then endCmd s s.blk.uid k .done else s)

/-- R186: an engine asked to stop a command of the block in focus stops at its element boundary; a command whose elements are all
performed is done instead. -/
def execEngineCancelStop (num : BitVec 8) (s : State) : Host.Outcome State Fault Refusal :=
  .next (match focusCmd s num with
    | none => s
    | some k =>
      if k.state = .pending ∧ k.cancelReq = true ∧ k.ack = false ∧ ¬(k.started = true ∧ k.stop = cmdTotal k) then
        endCmd s s.blk.uid k .cancelled
      else s)

end Sys2Proof.Machine
end

