-- ==== Sys2Proof/Machine/Coherence.lean ====
section
/-! DEFINITION. The coherence events (R173 to R177, R365): the messages that a die sends of itself and what each message does
where it arrives, by the protocol of Sys2Proof.Machine.Directory. -/

namespace Sys2Proof.Machine

/-- The L2 state in which a die holds a sector. -/
def heldState (s : State) (die sector : Nat) : SecState := (cohOf s).held die sector

/-- R175: the state in which a die answers a snoop. -/
def snoopState (s : State) (die sector : Nat) : SecState := (cohOf s).snoopState die sector

/-- R175: whether a die's writeback buffers hold a sector. -/
def inBuffer (s : State) (die sector : Nat) : Bool := (getDie s die).wb.any fun x => x.sector == sector

/-- A message of a kind about a sector, by its sender or its receiver. -/
def findMsg (s : State) (kind : MsgKind) (sector die : Nat) (from_ : Bool) : Option Msg :=
  s.msgs.find? fun m => m.kind == kind && m.sector == sector && (if from_ then m.src else m.dst) == die

/-- The request of a die for a sector that waits at or travels to its home. -/
def waitingReq (s : State) (kind : MsgKind) (die sector : Nat) : Option Msg :=
  s.msgs.find? fun m => m.kind == kind && m.sector == sector && m.src == die && m.st == .I

/-- Whether a die has any request about a sector on its way or in service. -/
def asking (s : State) (die sector : Nat) : Bool := s.msgs.any fun m => m.sector == sector && m.req == die

/-- A cached translation that covers a sector and whose memory type a condition holds of. -/
def mappedAs (s : State) (l : List TlbEntry) (p : Nat → Bool) (sector : Nat) : Bool :=
  let pa := paOfIdx s.place (128 * sector)
  l.any fun e =>
    p (entryMT e.leaf.toNat) && decide (entryPA e.leaf.toNat * 2 ^ 16 ≤ pa) && decide (pa < entryPA e.leaf.toNat * 2 ^ 16 + e.size)

/-- The translations that the TLBs of a die and of its cores hold. -/
def dieTlbs (s : State) (die : Nat) : List TlbEntry :=
  (getDie s die).tlb ++ (s.cores.filter fun e => dieOf e.1 == die).flatMap fun e => e.2.tlb

/-- R176: whether a page of type DIRECT covers a sector in some TLB, so that no die asks for it of itself. -/
def directMapped (s : State) (sector : Nat) : Bool :=
  mappedAs s ((s.dies.flatMap fun e => e.2.tlb) ++ s.cores.flatMap fun e => e.2.tlb) (· == 2) sector

/-- R249: the tag under which a die that holds nothing of a sector asks for it: that of a page that it has mapped there. -/
def askTag (s : State) (die sector : Nat) : Nat :=
  match (dieTlbs s die).find? fun e => mappedAs s [e] (fun t => decide (t < 2)) sector with
  | some e => keyTag s e.leaf.toNat (128 * sector)
  | none => 0

/-- A request of a die, with the tag that it carries: delivered to its home where it is on its way (R175), else sent where the die
may send it. -/
def requestStep (kind : MsgKind) (may : State → Bool) (send : Coh → Coh) (data : Coh → Option (List Byte)) (tag : Nat)
    (die sector : Nat) (s : State) : State :=
  match waitingReq s kind die sector with
  | some m => onCoh s fun c => (c.arrive m).getD c
  | none =>
    if !asking s die sector && may s then
      onCoh s fun c => (send c).send ⟨kind, sector, die, homeDie sector, die, .I, data (send c), tag⟩
    else s

/-- R139, R176: whether a die holds nothing of a sector and may ask for it: a translation that it holds maps the sector in a type
that L2 allocates, and none maps it as DIRECT (log entry 28). -/
def lacks (s : State) (die sector : Nat) : Bool :=
  heldState s die sector == .I && !inBuffer s die sector && mappedAs s (dieTlbs s die) (fun t => decide (t < 2)) sector &&
    !directMapped s sector

/-- R174 RDS. -/
def execRds (die sector : Nat) (s : State) : Host.Outcome State Fault Refusal :=
  .next (requestStep .rds (fun s => lacks s (die % 4) sector) id (fun _ => none) (askTag s (die % 4) sector) (die % 4) sector s)

/-- R174 RDX. -/
def execRdx (die sector : Nat) (s : State) : Host.Outcome State Fault Refusal :=
  .next (requestStep .rdx (fun s => lacks s (die % 4) sector) id (fun _ => none) (askTag s (die % 4) sector) (die % 4) sector s)

/-- R174 UPG. -/
def execUpg (die sector : Nat) (s : State) : Host.Outcome State Fault Refusal :=
  .next (requestStep .upg (fun s => heldState s (die % 4) sector == .S || heldState s (die % 4) sector == .O) id
    (fun _ => none) ((cohOf s).tagAt (die % 4) sector) (die % 4) sector s)

/-- R175: a dirty sector leaves a die's L2 for a writeback buffer. -/
def Coh.buffer (die sector : Nat) (c : Coh) : Coh :=
  (c.setHeld die sector .I).modDie die fun d => { d with wb := d.wb ++ (c.die die).l2.filter fun x => x.sector == sector }

/-- R174, R175 WBK: the sector leaves the L2 for a writeback buffer, where it stays until its CMP. -/
def execWbk (die sector : Nat) (s : State) : Host.Outcome State Fault Refusal :=
  .next (requestStep .wbk (fun s => heldState s (die % 4) sector == .M || heldState s (die % 4) sector == .O)
    (Coh.buffer (die % 4) sector) (fun c => some (sectorData c.mem sector))
    ((cohOf s).tagAt (die % 4) sector) (die % 4) sector s)

/-- The sectors of a line. -/
def lineSectors (sector : Nat) : List Nat := (List.range 8).map fun j => 8 * (sector / 8) + j

/-- A die drops what it holds of a line. -/
def Coh.clearLine (die sector : Nat) (c : Coh) : Coh :=
  c.modDie die fun d => { d with l2 := d.l2.filter fun x => !hasNat (lineSectors sector) x.sector }

/-- R174 EVC: a die that holds no dirty sector of the line, and asks for none, drops what it holds of it. -/
def execEvc (die sector : Nat) (s : State) : Host.Outcome State Fault Refusal :=
  .next (requestStep .evc
    (fun s => die % 4 != homeDie sector && (lineSectors sector).all fun x =>
      heldState s (die % 4) x != .M && heldState s (die % 4) x != .O && !inBuffer s (die % 4) x && !asking s (die % 4) x)
    (Coh.clearLine (die % 4) sector) (fun _ => none) 0 (die % 4) sector s)

/-- A message to or from a die delivered, where there is one. -/
def deliverTo (kind : MsgKind) (sector die : Nat) (from_ : Bool) (s : State) : State :=
  match findMsg s kind sector die from_ with
  | none => s
  | some m => onCoh s fun c => (c.deliver m).getD c

/-- R174 SFW: the owner sends DAT(S) and keeps S or O. -/
def execSfw (die sector : Nat) (s : State) : Host.Outcome State Fault Refusal := .next (deliverTo .sfw sector (die % 4) false s)

/-- R174 SFX: the owner sends DAT(M) and drops its copy. -/
def execSfx (die sector : Nat) (s : State) : Host.Outcome State Fault Refusal := .next (deliverTo .sfx sector (die % 4) false s)

/-- R365, R174 SIN: the holder drops its copy and answers with the state that it held. -/
def execSin (die sector : Nat) (s : State) : Host.Outcome State Fault Refusal := .next (deliverTo .sin sector (die % 4) false s)

/-- R174 DAT: the requester holds the sector in the granted state. -/
def execDat (die sector : Nat) (s : State) : Host.Outcome State Fault Refusal := .next (deliverTo .dat sector (die % 4) false s)

/-- R174, R177 ACK at the home of a sector. -/
def execAck (die sector : Nat) (s : State) : Host.Outcome State Fault Refusal := .next (deliverTo .ack sector (die % 4) true s)

/-- R175 CMP: an upgrade's holder goes to M; a writeback buffer is free. -/
def execCmp (die sector : Nat) (s : State) : Host.Outcome State Fault Refusal := .next (deliverTo .cmp sector (die % 4) false s)

end Sys2Proof.Machine
end

