-- ==== Sys2Proof/Machine/Caches.lean ====
section
/-! DEFINITION. What fills and empties the caches of a core: L1 and its miss slots (R137, R146, R147, R170), bank switches (R135),
the TLBs and the walk cache (R151, R152), the instruction caches (R155, R238). -/

namespace Sys2Proof.Machine

/-- R44, R134, R135: whether a bank of a core serves a block otherwise than as a way of L1: in another mode than CACHE, or while
it switches. -/
def bankHeld (b : Block) (bank : Nat) : Bool :=
  (List.range b.lstore).any fun i => b.banks[i]? == some bank && (bankMode b i != 0 || bankBusy b i)

/-- R134, R137: the banks that are the ways of a core's L1. -/
def l1Ways (s : State) (core : Nat) : List Nat :=
  (List.range 16).filter fun i => !(allBlocks s).any fun b => b.core == core && holdsBanks b && bankHeld b i

/-- R137: the way that a sector of a set takes in a core's L1: one that the set leaves free, the lowest-numbered, or that of the
sector of the set that was filled first (log entry 13). -/
def l1Way (s : State) (core pa : Nat) : Nat :=
  let same := (getCore s core).l1.filter fun x => x.pa % 256 == pa % 256 && x.pa != pa
  match (l1Ways s core).find? fun w => !same.any fun x => x.way == w with
  | some w => w
  | none => ((same.head?).map (·.way)).getD 0

/-- R137: a sector of a page, by its numbers in PA and at its home, put into a core's L1. -/
def l1Fill (s : State) (core leaf pa sector : Nat) : State :=
  let w := l1Way s core pa
  modCore s core fun c => { c with
    l1 := (c.l1.filter fun x => x.pa != pa && !(x.pa % 256 == pa % 256 && x.way == w)) ++
      [⟨pa, sector, w, 0, pageBytes s leaf (128 * sector) 128, viewTag s leaf (128 * sector)⟩] }

/-- R145: the requests at the pseudo-channels once that of a die for a sector has been served; none where a request that stands
before it has been passed by 32 younger ones. -/
def chanServed (l : List ChanReq) (die sector : Nat) : Option (List ChanReq) :=
  let mine := fun (x : ChanReq) => x.die == die && x.sector == sector
  let ahead := fun (x : ChanReq) => pseudoChannel x.sector == pseudoChannel sector
  if l.any mine then
    let old := l.takeWhile fun x => !mine x
    if old.any fun x => ahead x && decide (32 ≤ x.passed) then none
    else some ((old.map fun x => if ahead x then { x with passed := x.passed + 1 } else x) ++ (l.drop (old.length + 1)))
  else some l

/-- R146: a core's slot for a sector is free, and the die's register where no core of the die awaits the sector any more. -/
def releaseSlot (s : State) (core sector : Nat) : State :=
  let s1 := modCore s core fun c => { c with missSlots := c.missSlots.filter fun x => x.1 != sector }
  if s1.cores.any fun e => dieOf e.1 == dieOf core && e.2.missSlots.any fun x => x.1 == sector then s1
  else modDie s1 (dieOf core) fun d =>
    let left := Nat.land (mget 0 d.missRegs (sector / 8)) (255 - 2 ^ (sector % 8))
    { d with missRegs := if left = 0 then mdel d.missRegs (sector / 8) else mput d.missRegs (sector / 8) left }

/-- R137, R145, R146: data for a sector that the core of the block in focus has missed arrives: it fills L1 where the memory type
allows, and its slot and register are free. A poisoned sector stays out of L1. -/
def execLoadDataReturn (va : Addr) (s : State) : Host.Outcome State Fault Refusal :=
  .next (match translate s s.blk.core s.blk.vf va with
    | .fault _ _ => s
    | .ok pa leaf =>
      let core := s.blk.core
      let sector := accIdx s core leaf pa / 128
      match (if (getCore s core).missSlots.any fun x => x.1 == sector then chanServed s.chan (dieOf core) sector else none) with
      | none => s
      | some l =>
        let s1 := releaseSlot { s with chan := l } core sector
        if entryMT leaf = 0 ∧ isLocal pa = true ∧ poisonedAt s (128 * sector) 128 = false then l1Fill s1 core leaf (pa / 128) sector
        else s1)

/-- R147: the oldest request that waits at the core in focus for a pseudo-channel takes a slot, where the caps leave one and no
older request of its die waits for the register. One that needs no slot takes a register, brings its sector to the die's L2 and
gives the register back (log entry 28). -/
def execMissQueueRelease (channel : Nat) (s : State) : Host.Outcome State Fault Refusal :=
  let core := s.blk.core
  .next (match queueHead (getCore s core) channel with
    | none => s
    | some x =>
      if slotRoom (getCore s core) (getDie s (dieOf core)) x && !olderWaits s core x then
        let s1 := modCore s core fun c => { c with missQ := c.missQ.filter fun y => y.sector != x.sector }
        if x.slot then takeSlot s1 core x else fetchSector (dieOf core) x.leaf false s1 x.sector
      else s)

/-- R170: a sector of the L1 of the core in focus is dropped. -/
def execL1SectorExpiry (sector : Nat) (s : State) : Host.Outcome State Fault Refusal :=
  .next (dropL1At s s.blk.core [sector])

/-- R135: the oldest switch of an owned bank ends: the bank is gleaned. -/
def endSwitch (b : Block) (bank : Nat) : Block :=
  { b with
    switches := b.switches.eraseP fun x => x.1 == bank
    scratch := mdrop (fun x => x / 32768 == bank) b.scratch
    scratchPoison := mdrop (fun x => x / 4096 == bank) b.scratchPoison
    fifo := mdel b.fifo bank }

/-- Engine writes to a bank that is gleaned are gone. A command that has written there ahead of its issue does so no more (log
entry 44). -/
def dropLooseBank (s : State) (uid bank : Nat) : State :=
  { s with
    loose := s.loose.filter fun x => !(x.uid == uid && x.off / 32768 == bank)
    early := s.early.filter fun x => !(x.uid == uid && x.off / 32768 == bank)
    broken := s.broken || s.early.any fun x => x.uid == uid && x.off / 32768 == bank }

/-- R135, R136: the oldest switch of a bank ends, of the block in focus or else of a member of its span that is complete (R24).
A bank that leaves the cache was emptied when the switch was requested, and one that enters it does so as an empty way. -/
def execBankSwitch (bank : Nat) (s : State) : Host.Outcome State Fault Refusal :=
  .next (match (s.blk :: (spanBlocks s s.blk).filter fun b => b.phase == .complete).find? fun b => bankBusy b bank with
    | none => s
    | some x => updBlk (dropLooseBank s x.uid bank) x.uid fun b => endSwitch b bank)

/-- R151, R152: the entries that a walk reads, with their level and the PA of each: pointers, then a leaf. -/
def walkPath (s : State) (die asid va : Nat) : Nat → Nat → List (Nat × Nat × Nat)
  | 0, _ => []
  | lvl + 1, t =>
    match (match cachedPointer (getDie s die) asid va lvl with
      | some e => some e
      | none => tableEntry s die t (vaIndex va lvl)) with
    | none => []
    | some e =>
      (lvl, e, t + 8 * vaIndex va lvl) ::
        (if e % 2 = 1 ∧ (lvl ≥ 2 ∨ (lvl = 1 ∧ entryRWX e = 0)) then walkPath s die asid va lvl (entryPA e * 2 ^ 16) else [])

/-- The last n of a list. -/
def lastOf {β : Type} (n : Nat) (l : List β) : List β := l.drop (l.length - n)

/-- R151, R152: the translation that a leaf found at a level gives: of its page, or of all the pages of its contiguous group. -/
def leafEntry (asid va lvl leaf : Nat) : TlbEntry :=
  let page := 2 ^ (16 + 13 * lvl)
  let size := if entryC leaf then 32 * page else page
  let first := if entryC leaf then leaf - vaIndex va lvl % 32 * page else leaf
  ⟨asid, va - va % size, size, BitVec.ofNat 64 first⟩

/-- R152: what a finished walk of a die leaves in the walk cache, in the die's TLB and in those of the cores that joined it. A
full one gives up what was filled first (log entry 13). -/
def cacheWalk (s : State) (die asid va : Nat) (cores : List Nat) (path : List (Nat × Nat × Nat)) (leaf : Nat) : State :=
  let ptrs := path.dropLast.map fun x =>
    TlbEntry.mk asid (va - va % 2 ^ (16 + 13 * x.1)) (2 ^ (16 + 13 * x.1)) (BitVec.ofNat 64 x.2.1)
  let e := leafEntry asid va (((path.getLast?).map (·.1)).getD 0) leaf
  let s1 := cores.foldl (fun acc core => modCore acc core fun c => { c with tlb := lastOf 256 (c.tlb.filter (· ≠ e) ++ [e]) }) s
  modDie s1 die fun d =>
    { d with
      tlb := lastOf 16384 (d.tlb.filter (· ≠ e) ++ [e])
      walks := lastOf 4096 (d.walks.filter (fun w => !ptrs.any (· == w)) ++ ptrs) }

/-- R151, R152: a walk that an access has asked for and that has one of the 64 walkers ends, for an address of the function in
focus. Its reads go through L2, and wait where a cap leaves no miss register for one of them (R147). A walk that faults, or
whose leaf disagrees with the placement table (R143), leaves nothing. -/
def execPageWalk (va : Addr) (s : State) : Host.Outcome State Fault Refusal :=
  let die := dieOf s.blk.core
  let f := getFunc s s.blk.vf
  let asid := f.asid.toNat
  .next (match ((getDie s die).walking.take 64).find? fun w => w.asid == asid && w.page == va.toNat / 2 ^ 16 with
    | none => s
    | some w =>
      let s1 := modDie s die fun d => { d with walking := d.walking.erase w }
      match walkFrom s die asid va.toNat 5 f.root.toNat with
      | .fault _ _ => s1
      | .ok pa leaf =>
        if isLocal pa && placeOf s.place pa != entryPlace leaf then s1
        else
          let path := walkPath s die asid va.toNat 5 f.root.toNat
          let sectors := path.map fun x => walkIdx s die x.2.2 / 128
          let core := w.cores.headD s.blk.core
          let held := sectors.filter (registerWaits s core)
          if held.isEmpty then cacheWalk (sectors.foldl (fetchSector die 0 false) s1) die asid va.toNat w.cores path leaf
          else held.foldl (queueMiss core 0 []) s)

/-- R168: the 128 bytes of a sector prefetched by a group, by address. -/
def prefetched (s : State) (va : Addr) (leaf sector : Nat) (b : List (Nat × Byte)) : List (Nat × Byte) :=
  (List.range 128).foldl (fun m k =>
    mput m (va.toNat - va.toNat % 128 + k) (codeByte s s.blk.core leaf (128 * sector + k))) b

/-- R238, R168: the sector of an address that the group in focus may fetch fills L3I (where ways are reserved), L2I and L1I,
and its bytes are prefetched. -/
def execInstructionFetchFill (va : Addr) (s : State) : Host.Outcome State Fault Refusal :=
  let core := s.blk.core
  .next (match translate s core s.blk.vf va with
    | .fault _ _ => s
    | .ok pa leaf => match protDetail s s.blk.vf s.g.ctx.handler false true false pa leaf with
      | some _ => s
      | none =>
        let sector := accIdx s core leaf pa / 128
        let s1 := fillL1 s core leaf sector
        if (cacheSector (getCore s1 core).l1i sector).isSome then
          modG s1 fun g => { g with ibuf := prefetched s1 va leaf sector g.ibuf }
        else s1)

end Sys2Proof.Machine
end

