-- ==== Sys2Proof/Machine/FurrowPlan.lean ====
section
/-! DEFINITION. Furrow plans: their layout (R74 to R79), the operations that a stage may hold (R76, R77, R285), and the checks of
FRWON (R88). -/

namespace Sys2Proof.Machine

/-- The field of n bytes at an offset of an image. -/
def bytesU (bs : List Byte) (o n : Nat) : Nat := leNat ((bs.drop o).take n)

/-- R75: a stage entry. -/
def parseStage (bs : List Byte) : Stage where
  insn := BitVec.ofNat 64 (bytesU bs 0 8)
  kind := BitVec.ofNat 8 (bytesU bs 8 1)
  gate := BitVec.ofNat 8 (bytesU bs 9 1)
  sflags := BitVec.ofNat 8 (bytesU bs 10 1)
  wstr := BitVec.ofNat 8 (bytesU bs 11 1)
  tail := BitVec.ofNat 32 (bytesU bs 12 4)

/-- R78: a queue entry. -/
def parseQueue (bs : List Byte) : QueueEntry where
  prod := BitVec.ofNat 8 (bytesU bs 0 1)
  cons := BitVec.ofNat 24 (bytesU bs 1 3)
  dk := BitVec.ofNat 8 (bytesU bs 4 1)
  qf := BitVec.ofNat 8 (bytesU bs 5 1)
  init := BitVec.ofNat 8 (bytesU bs 6 1)
  ireg := BitVec.ofNat 8 (bytesU bs 7 1)

/-- R79: a stream entry. -/
def parseStream (bs : List Byte) : StreamEntry where
  base := BitVec.ofNat 8 (bytesU bs 0 1)
  oreg := BitVec.ofNat 8 (bytesU bs 1 1)
  es := BitVec.ofNat 8 (bytesU bs 2 1)
  nd := BitVec.ofNat 8 (bytesU bs 3 1)
  cnt := BitVec.ofNat 32 (bytesU bs 4 4)
  x := (List.range 3).map fun d => BitVec.ofNat 16 (bytesU bs (8 + 2 * d) 2)
  zero := BitVec.ofNat 16 (bytesU bs 14 2)
  st := (List.range 3).map fun d => BitVec.ofNat 32 (bytesU bs (16 + 4 * d) 4)
  wlim := BitVec.ofNat 32 (bytesU bs 28 4)

/-- R74: the size of the image that S, Q and T give. -/
def planBytes (ns nq nt : Nat) : Nat := 32 + 16 * ns + 8 * nq + 32 * nt

/-- R74: a plan from its image. -/
def parsePlan (bs : List Byte) : Plan :=
  let ns := bytesU bs 12 1
  let nq := bytesU bs 14 1
  { tag := BitVec.ofNat 32 (bytesU bs 0 4)
    ver := BitVec.ofNat 16 (bytesU bs 4 2)
    flags := BitVec.ofNat 16 (bytesU bs 6 2)
    size := BitVec.ofNat 32 (bytesU bs 8 4)
    ns := ns
    repl := bytesU bs 13 1
    nq := nq
    nt := bytesU bs 15 1
    zero := bytesU bs 16 16 == 0
    stages := (List.range ns).map fun i => parseStage (bs.drop (32 + 16 * i))
    queues := (List.range nq).map fun i => parseQueue (bs.drop (32 + 16 * ns + 8 * i))
    streams := (List.range (bytesU bs 15 1)).map fun i => parseStream (bs.drop (32 + 16 * ns + 8 * nq + 32 * i)) }

/-- The opcode of a stage. -/
def stageOp8 (st : Stage) : Nat := st.insn.toNat / 4 % 2 ^ 8

/-- Field i of a stage: vd, va, vb, vc. -/
def stageField (st : Stage) (i : Nat) : Nat := st.insn.toNat / 2 ^ (17 + 8 * i) % 2 ^ 8

/-- The kind of field i of a stage (R75). -/
def stageKind (st : Stage) (i : Nat) : Nat := st.kind.toNat / 4 ^ i % 4

/-- ext8 of a stage. -/
def stageExt (st : Stage) : Nat := st.insn.toNat / 2 ^ 56

/-- R76: the immediate form. -/
def stageImm (st : Stage) : Bool := st.insn.getLsbD 54

/-- R76: the LV operations that a stage may hold. -/
def stageAllowed (op : Nat) : Bool :=
  decide (op ≤ 0x04) || (decide (0x06 ≤ op) && decide (op ≤ 0x14)) || op == 0x16 || op == 0x18 ||
    (decide (0x20 ≤ op) && decide (op ≤ 0x2A)) || (decide (0x30 ≤ op) && decide (op ≤ 0x43))

/-- The INSN of an LV stage with its operand fields cleared, imm16 kept. -/
def stageWord (st : Stage) : Nat :=
  let w := st.insn.toNat
  if stageImm st then w - w / 2 ^ 17 % 2 ^ 16 * 2 ^ 17 else w - w / 2 ^ 17 % 2 ^ 32 * 2 ^ 17

/-- R76: the operation of an LV stage, with its LV fields where they name no operand. -/
def stageLane (st : Stage) : Option (LaneOp × LvF) :=
  if stageAllowed (stageOp8 st) then
    match decodeWord 8 (stageWord st) with
    | some i => laneInstr i
    | none => none
  else none

/-- Whether a stage is a VLD. -/
def isVldStage (st : Stage) : Bool := stageOp8 st == 0x60

/-- The bits of an INSN from `lo`, n of them. -/
def stageBits (st : Stage) (lo n : Nat) : Nat := st.insn.toNat / 2 ^ lo % 2 ^ n

/-- R76: no guard, no stall field. -/
def plainHead (st : Stage) : Bool := stageBits st 10 3 == 7 && stageBits st 13 4 == 0 && stageBits st 0 2 == 3

/-- R88 check 3: an INSN that breaks R76. -/
def insnOk (st : Stage) : Bool :=
  plainHead st &&
    (if isVldStage st then
      stageBits st 41 7 == 0 && stageBits st 51 5 == 0 && decide (stageBits st 37 3 ≤ 2)
     else if stageOp8 st = 0xA0 ∨ stageOp8 st = 0xA1 then stageBits st 49 7 == 0 && decide (stageExt st < 8)
     else if 0xA2 ≤ stageOp8 st ∧ stageOp8 st ≤ 0xA4 then stageBits st 49 15 == 0
     else stageBits st 49 3 == 0 && stageBits st 55 1 == 0 && (stageLane st).isSome)

/-- What a field of a stage is for (R75, R77, R85, R285). -/
inductive FieldUse where
  | output | input | queueIn | const | unused
  deriving DecidableEq, Repr

/-- The use of field i of a stage. -/
def fieldUse (st : Stage) (i : Nat) : FieldUse :=
  let op := stageOp8 st
  if op = 0x60 then (if i = 0 then .output else if i = 1 then .queueIn else .unused)
  else if op = 0xA0 then (if i = 0 then .output else .unused)
  else if op = 0xA1 then (if i = 1 then .queueIn else .unused)
  else if op = 0xA2 then (if i = 0 ∨ i = 3 then .output else .queueIn)
  else if op = 0xA3 then (if i = 0 then .output else .queueIn)
  else if op = 0xA4 then (if i = 0 then .output else if i = 1 then .const else .unused)
  else match stageLane st with
    | none => .unused
    | some (l, _) =>
      if i = 0 then .output
      else if i = 1 then (if readsA l then .input else .unused)
      else if i = 2 then (if readsB l && !stageImm st then .input else .unused)
      else if readsC l then .input else .unused

/-- R88 check 4: one operand field, for Q queues and a vector-register allocation. -/
def fieldOk (st : Stage) (nq regs i : Nat) : Bool :=
  let k := stageKind st i
  let v := stageField st i
  let reg := decide (v < regs)
  match fieldUse st i with
  | .output => k == 0 && decide (v < nq)
  | .queueIn => k == 0 && decide (v < nq)
  | .input => if k = 0 then decide (v < nq) else k != 3 && reg
  | .const => (k == 1 || k == 2) && reg
  | .unused => k == 3 && (v == 0 || (decide (2 ≤ i) && (isVldStage st || stageImm st)))

/-- R88 check 4: a stage entry. -/
def stageFieldsOk (st : Stage) (nq regs : Nat) : Bool :=
  ((List.range 4).all (fieldOk st nq regs)) && (st.gate == 0x7F || decide (st.gate.toNat < nq)) &&
    decide (st.sflags.toNat < 2) && st.tail == 0

/-- The output queues of a stage, each once. -/
def stageOuts (st : Stage) : List Nat :=
  ((List.range 4).filterMap fun i => if fieldUse st i = .output then some (stageField st i) else none).eraseDups

/-- The queues that a stage reads, its gate left out: each once, since two fields that name one queue are one input (R81). -/
def stageIns (st : Stage) : List Nat :=
  ((List.range 4).filterMap fun i =>
    if (fieldUse st i = .input ∨ fieldUse st i = .queueIn) ∧ stageKind st i = 0 then some (stageField st i)
    else none).eraseDups

/-- The gate of a stage, as a list. -/
def stageGate (st : Stage) : List Nat := if st.gate = 0x7F then [] else [st.gate.toNat]

/-- Every queue that a stage reads, each once. -/
def stageReads (st : Stage) : List Nat := (stageIns st ++ stageGate st).eraseDups

/-- A stage of a plan; a stage that is not there holds nothing. -/
def planStage (p : Plan) (i : Nat) : Stage := (p.stages[i]?).getD ⟨0, 0, 0x7F, 0, 0xFF, 0⟩

/-- A queue entry of a plan. -/
def planQueue (p : Plan) (i : Nat) : QueueEntry := (p.queues[i]?).getD ⟨0, 0, 0, 0, 0, 0⟩

/-- A stream of a plan. -/
def planStream (p : Plan) (i : Nat) : StreamEntry := (p.streams[i]?).getD ⟨0, 0, 0, 0, 0, [], 0, [], 0⟩

/-- R78: consumer slot j of a queue. -/
def consSlot (q : QueueEntry) (j : Nat) : Nat := q.cons.toNat / 64 ^ j % 64

/-- R78: the consumers of a queue, in slot order. -/
def queueCons (q : QueueEntry) : List Nat :=
  (List.range 4).filterMap fun j => if 32 ≤ consSlot q j then some (consSlot q j % 32) else none

/-- R78: whether a queue is a feedback queue. -/
def queueFb (q : QueueEntry) : Bool := q.qf.getLsbD 0

/-- R78: the feedback consumer. -/
def fbConsumer (q : QueueEntry) : Nat := consSlot q 0 % 32

/-- R78: whether a queue holds predicates. -/
def queuePred (q : QueueEntry) : Bool := q.dk.getLsbD 7

/-- R78: the depth of a queue as the plan gives it. -/
def queueDepth (q : QueueEntry) : Nat := q.dk.toNat % 128

/-- The stages that name a queue in an output field. -/
def producers (p : Plan) (q : Nat) : List Nat := (List.range p.ns).filter fun s => hasNat (stageOuts (planStage p s)) q

/-- The stages that read a queue. -/
def readers (p : Plan) (q : Nat) : List Nat := (List.range p.ns).filter fun s => hasNat (stageReads (planStage p s)) q

/-- Whether a queue is produced by an FCONST stage. -/
def isConst (p : Plan) (q : Nat) : Bool := (producers p q).any fun s => stageOp8 (planStage p s) == 0xA4

/-- Whether a queue is a feedback input of a stage (R78). -/
def isFbInput (p : Plan) (s q : Nat) : Bool := queueFb (planQueue p q) && fbConsumer (planQueue p q) == s

/-- R88 check 5: a queue against the stages that name it. -/
def queueOk (p : Plan) (q : Nat) : Bool :=
  let e := planQueue p q
  let cons := queueCons e
  let names := readers p q
  (match producers p q with
    | [s] => e.prod.toNat == s
    | _ => false) &&
    !names.isEmpty && cons.length == names.length && (names.all fun s => hasNat cons s) && decide cons.Nodup &&
    ((List.range 4).all fun j => decide (32 ≤ consSlot e j) || consSlot e j == 0) &&
    (!queueFb e || decide (32 ≤ consSlot e 0))

/-- R88 check 5: a stage other than FSRC and FCONST has an input besides feedback and constants. -/
def stageInputsOk (p : Plan) (s : Nat) : Bool :=
  let st := planStage p s
  stageOp8 st == 0xA0 || stageOp8 st == 0xA4 ||
    (stageReads st).any fun q => !isFbInput p s q && !isConst p q

/-- Whether an operation writes a predicate queue (R76). -/
def writesPredQueue (st : Stage) : Bool := stageOp8 st == 0x18 || stageOp8 st == 0x36

/-- R88 check 6, R285: the kinds of the queues of a stage. -/
def stageKindsOk (p : Plan) (s : Nat) : Bool :=
  let st := planStage p s
  let pred := fun q => queuePred (planQueue p q)
  ((stageOuts st).all fun q => pred q == writesPredQueue st) && ((stageGate st).all pred) &&
    (if stageOp8 st = 0xA2 then !pred (stageField st 1) && pred (stageField st 2)
     else if stageOp8 st = 0xA3 then !pred (stageField st 1) && !pred (stageField st 2) && pred (stageField st 3)
     else true)

/-- R88 check 7: depths and initial tokens. -/
def depthOk (p : Plan) (regs q : Nat) : Bool :=
  let e := planQueue p q
  decide (1 ≤ queueDepth e) && decide (queueDepth e ≤ 64) && decide (e.init.toNat ≤ queueDepth e) &&
    (e.init == 0 || queueFb e) && (!isConst p q || queueDepth e == 1) && decide (e.qf.toNat < 2) &&
    (if e.init = 0 then e.ireg == 0 else decide (e.ireg.toNat < regs))

/-- R80: the pool that the queues need. -/
def planPool (p : Plan) : Nat :=
  ((List.range p.nq).map fun q => if isConst p q then 0 else queueDepth (planQueue p q) * p.repl).foldl (· + ·) 0

/-- R79: extent d of a stream as it counts. -/
def streamExtent (t : StreamEntry) (d : Nat) : Nat := if d < t.nd.toNat then ((t.x[d]?).getD 0).toNat else 1

/-- R79: stride d of a stream. -/
def streamStride (t : StreamEntry) (d : Nat) : Int := ((t.st[d]?).getD 0).toInt

/-- R79: the bytes of an element. -/
def streamBytes (t : StreamEntry) : Nat := 2 ^ (t.es.toNat % 4)

/-- The stages that name a stream. -/
def streamUsers (p : Plan) (n : Nat) : List Nat :=
  (List.range p.ns).filter fun s =>
    (stageOp8 (planStage p s) == 0xA0 || stageOp8 (planStage p s) == 0xA1) && stageExt (planStage p s) == n

/-- R88 check 9: a stream. -/
def streamOk (p : Plan) (regs n : Nat) : Bool :=
  let t := planStream p n
  decide (t.base.toNat < 16) && decide (t.oreg.toNat < regs) && decide (t.es.toNat < 8) && t.es.toNat % 4 != 3 &&
    decide (1 ≤ t.nd.toNat) && decide (t.nd.toNat ≤ 3) && t.zero == 0 &&
    ((List.range 3).all fun d =>
      if d < t.nd.toNat then (t.x[d]?).getD 0 != 0 else (t.x[d]?).getD 0 == 0 && (t.st[d]?).getD 0 == 0) &&
    decide (t.cnt.toNat ≤ streamExtent t 0 * streamExtent t 1 * streamExtent t 2) && (streamUsers p n).length == 1

/-- R88 check 9: the streams that a stage names, and WSTR. -/
def stageStreamOk (p : Plan) (s : Nat) : Bool :=
  let st := planStage p s
  (if stageOp8 st = 0xA0 ∨ stageOp8 st = 0xA1 then decide (stageExt st < p.nt) else true) &&
    (if isVldStage st then decide (st.wstr.toNat < p.nt) else st.wstr == 0xFF)

/-- R88 check 10: the least and greatest displacement of a stream's box. -/
def streamBox (t : StreamEntry) : Int × Int :=
  (List.range t.nd.toNat).foldl (fun (acc : Int × Int) d =>
    let span := ((streamExtent t d : Int) - 1) * streamStride t d
    (acc.1 + min 0 span, acc.2 + max 0 span)) (0, 0)

/-- R79: the origin of replica r of a stream, from a context. -/
def originOf (c : Ctx) (t : StreamEntry) (r : Nat) : Addr := c.readA t.base.toNat + sextLane (c.lane t.oreg.toNat r)

/-- R88 check 10 for a stream. -/
def windowOk (c : Ctx) (p : Plan) (n : Nat) : Bool :=
  let t := planStream p n
  let box := streamBox t
  decide (0 ≤ box.1) && decide (box.2 + (streamBytes t : Int) ≤ (t.wlim.toNat : Int)) &&
    ((List.range p.repl).all fun r => (originOf c t r).toNat % streamBytes t == 0) &&
    (List.range 3).all fun d => streamStride t d % (streamBytes t : Int) == 0

/-- R88 checks 1 and 2: the header. -/
def headerCheck (p : Plan) : Nat :=
  if p.tag ≠ 0x50575246 ∨ p.ver ≠ 1 ∨ p.size.toNat ≠ planBytes p.ns p.nq p.nt ∨ p.zero = false ∨ 4 ≤ p.flags.toNat then 1
  else if p.ns = 0 ∨ 32 < p.ns ∨ p.repl = 0 ∨ 32 < p.repl ∨ 32 < p.ns * p.repl ∨ 64 < p.nq ∨ 8 < p.nt then 2
  else 0

/-- R88: the first of the checks 1 to 9 that fails, in table order, or 0. `regs` and `fpool` are the owner's allocations. -/
def layoutCheck (p : Plan) (regs fpool : Nat) : Nat :=
  let stages := List.range p.ns
  let queues := List.range p.nq
  let streams := List.range p.nt
  if headerCheck p ≠ 0 then headerCheck p
  else if !stages.all fun s => insnOk (planStage p s) then 3
  else if !stages.all fun s => stageFieldsOk (planStage p s) p.nq regs then 4
  else if !((queues.all (queueOk p)) && stages.all (stageInputsOk p)) then 5
  else if !stages.all (stageKindsOk p) then 6
  else if !queues.all (depthOk p regs) then 7
  else if fpool < planPool p then 8
  else if !((streams.all (streamOk p regs)) && stages.all (stageStreamOk p)) then 9
  else 0

/-- R88: the first check that fails, in table order, or 0: check 10 reads registers, from a context. -/
def planCheck (c : Ctx) (p : Plan) (regs fpool : Nat) : Nat :=
  if layoutCheck p regs fpool ≠ 0 then layoutCheck p regs fpool
  else if !(List.range p.nt).all (windowOk c p) then 10
  else 0

/-- R87: the owner's vector registers that a plan captures or takes initial tokens from. -/
def planVecs (p : Plan) : List Nat :=
  ((List.range p.ns).flatMap fun s => (List.range 4).filterMap fun i =>
      let st := planStage p s
      if (fieldUse st i = .input ∨ fieldUse st i = .const) ∧ stageKind st i ≠ 0 then some (stageField st i) else none) ++
    ((List.range p.nq).filterMap fun q =>
      if (planQueue p q).init = 0 then none else some (planQueue p q).ireg.toNat) ++
    (List.range p.nt).map fun n => (planStream p n).oreg.toNat

/-- R87: the owner's address registers that a plan captures: every BASE and the aN of every VLD stage. -/
def planAddrs (p : Plan) : List Nat :=
  ((List.range p.nt).map fun n => (planStream p n).base.toNat) ++
    (List.range p.ns).filterMap fun s => if isVldStage (planStage p s) then some (stageBits (planStage p s) 33 4) else none

/-- R87: every owner register that a plan captures. Where several are released, or not covered, FRWON names the first in this
order: the registers of the stages, those of initial tokens, those of stream origins, then the address registers (log entry 29).
-/
def planRegs (p : Plan) : List (RegClass × Nat) :=
  ((planVecs p).eraseDups.map fun r => (.vector, r)) ++ (planAddrs p).eraseDups.map fun r => (.address, r)

/-- R78: the consumers of a queue as a mask. -/
def consMask (e : QueueEntry) : Mask := (queueCons e).foldl (fun m s => m ||| BitVec.ofNat 32 (2 ^ s)) 0

/-- R78: the consumers that a token of a queue passes by when it is produced: the drain consumers of a feedback queue. -/
def passBy (e : QueueEntry) : Mask := if queueFb e then consMask e &&& ~~~(BitVec.ofNat 32 (2 ^ fbConsumer e)) else 0

/-- R94, R220: where the furrow region of a partition stands in the area of its block. -/
def furrowBase (part : Nat) : Nat := 0x1000 + 0x5000 * part

/-- R92: the context of a furrow, with the FSTAT of its owner. It has one depth for a queue, of which a replica may still use an
older one (R91); the model writes that of replica 0 and keeps the others beside (log entry 32). -/
def furrowArea (f : Furrow) (fstat : BitVec 64) : List (Nat × List Byte) :=
  let toks := f.queues.flatMap (·.2)
  [(0, slotBytes f.planAddr), (0x10, leBytes 8 fstat.toNat), (0x18, leBytes 4 f.step)] ++
    ((List.range f.plan.nq).map fun q => (0x20 + q, leBytes 1 (mget 0 f.depth (32 * q)))) ++
    ((List.range f.plan.nq).map fun q => (0x60 + q, leBytes 1 (mget 0 f.recorded (32 * q)))) ++
    (f.queues.map fun e => (0x100 + e.1, leBytes 1 e.2.length)) ++
    [(0x900, leBytes 512 (bitsNat (toks.zipIdx.map fun x => (x.2, x.1.err))))] ++
    toks.zipIdx.map fun x => (0x1000 + 4 * x.2, leBytes 4 x.1.val.toNat)

/-- R92, R94: the context of a furrow of a partition written to its region of the area of its block. -/
def storeFurrow (s : State) (f : Furrow) (part : Nat) (fstat : BitVec 64) : State :=
  let base := furrowBase part
  let old := mdrop (fun o => decide (base ≤ o) && decide (o < base + 0x5000)) (mget [] s.areas (areaKey f.uid 32))
  let m := areaPuts old ((furrowArea f fstat).map fun x => (base + x.1, x.2))
  tagParts { s with areas := mput s.areas (areaKey f.uid 32) m } f.uid 32 (findBlk s f.uid).vf [1 + part]

/-- R92: the saved tokens of the queue copies of a plan, from token number i on. -/
def tokensFrom (p : Plan) (m : List (Nat × Byte)) (base : Nat) : Nat → List (Nat × Nat) → List (Nat × List Token)
  | _, [] => []
  | i, (key, n) :: t =>
    (key, (List.range n).map fun j =>
      { val := BitVec.ofNat 32 (areaNat m (base + 0x1000 + 4 * (i + j)) 4)
        err := decide (areaNat m (base + 0x900 + (i + j) / 8) 1 / 2 ^ ((i + j) % 8) % 2 = 1)
        drain := false, seen := passBy (planQueue p (key / 32)) }) :: tokensFrom p m base (i + n) t

/-- Bytes from a place on, one for each of n queues, as the entries of replica 0 in a table of the queue copies. -/
def leadFrom (m : List (Nat × Byte)) (off n : Nat) (l : List (Nat × Nat)) : List (Nat × Nat) :=
  (List.range n).foldl (fun l q => mset 0 l (32 * q) (areaNat m (off + q) 1)) l

/-- R92: a furrow as a re-entry finds it in the area of its block. -/
def furrowFrom (m : List (Nat × Byte)) (base : Nat) (f : Furrow) : Furrow :=
  { f with
    planAddr := BitVec.ofNat 72 (areaNat m base 9)
    step := areaNat m (base + 0x18) 4
    depth := leadFrom m (base + 0x20) f.plan.nq f.depth
    recorded := leadFrom m (base + 0x60) f.plan.nq f.recorded
    queues := tokensFrom f.plan m base 0 (areaWords m (base + 0x100) 1 2048) }

/-- R93, R94: a suspended furrow of a partition as its region of the area holds it. -/
def storedFurrow (s : State) (part : Nat) (f : Furrow) : Furrow :=
  furrowFrom (areaView s f.uid 32 (1 + part) 0x15000) (furrowBase part) f

end Sys2Proof.Machine
end

