-- ==== Sys2Proof/Machine/Furrow.lean ====
section
/-! DEFINITION. Furrow mode: FRWON, FRWOFF, FRWKILL, FRWDEP (R87 to R91, R289), stage firings, source steps and drain (R80 to R86,
R286), suspend-drain and re-entry (R92 to R94). -/

namespace Sys2Proof.Machine

/-- A queue copy of a furrow, oldest token first, at key 32 q + r. -/
def tokensOf (f : Furrow) (q r : Nat) : List Token := mget [] f.queues (32 * q + r)

/-- R80: the depth of a queue copy. -/
def depthOf (f : Furrow) (q r : Nat) : Nat := mget 0 f.depth (32 * q + r)

/-- R91: a recorded depth applies once its queue copy is empty. -/
def applyDepth (f : Furrow) (key : Nat) : Furrow :=
  if mget [] f.queues key = [] ∧ mget 0 f.recorded key ≠ 0 then
    { f with depth := mset 0 f.depth key (mget 0 f.recorded key), recorded := mset 0 f.recorded key 0 }
  else f

/-- A queue copy set. -/
def setTokens (f : Furrow) (q r : Nat) (l : List Token) : Furrow :=
  applyDepth { f with queues := mset [] f.queues (32 * q + r) l } (32 * q + r)

/-- Whether a stage has consumed a token or is not to receive it. -/
def Token.skips (t : Token) (s : Nat) : Bool := t.seen.getLsbD s

/-- The value of an operand of kind 1 or 2 in replica r (R75). -/
def capturedVal (f : Furrow) (kind reg r : Nat) : Lane := mget 0 f.capV (32 * reg + if kind = 1 then r else 0)

/-- R80: the standing token of a queue that an FCONST stage produces. -/
def constToken (f : Furrow) (q r : Nat) : Token :=
  match producers f.plan q with
  | s :: _ => ⟨capturedVal f (stageKind (planStage f.plan s) 1) (stageField (planStage f.plan s) 1) r, false, false, 0⟩
  | [] => ⟨0, false, false, 0⟩

/-- The head of a queue copy for a stage. -/
def headFor (f : Furrow) (q r s : Nat) : Option Token :=
  if isConst f.plan q then some (constToken f q r) else (tokensOf f q r).find? fun t => !t.skips s

/-- The head of a list of tokens consumed by a stage. -/
def markHead (s : Nat) : List Token → List Token
  | [] => []
  | t :: rest => if t.skips s then t :: markHead s rest else { t with seen := t.seen ||| BitVec.ofNat 32 (2 ^ s) } :: rest

/-- R78: a stage consumes the head of a queue copy; a token leaves once every consumer has. An FCONST token stays (R80). -/
def consume (f : Furrow) (q r s : Nat) : Furrow :=
  if isConst f.plan q then f
  else
    let all := consMask (planQueue f.plan q)
    setTokens f q r ((markHead s (tokensOf f q r)).filter fun t => t.seen &&& all ≠ all)

/-- The heads of several queue copies consumed, one token of each. -/
def consumeAll (f : Furrow) (r s : Nat) (qs : List Nat) : Furrow := qs.eraseDups.foldl (fun f q => consume f q r s) f

/-- R81: whether a queue copy has a free slot. -/
def hasRoom (f : Furrow) (r q : Nat) : Bool := decide ((tokensOf f q r).length < depthOf f q r)

/-- A token put into a queue copy; one of a predicate queue is one bit (R78). -/
def produce (f : Furrow) (q r : Nat) (val : Lane) (err : Bool) : Furrow :=
  let e := planQueue f.plan q
  setTokens f q r (tokensOf f q r ++ [⟨if queuePred e then val &&& 1 else val, err, false, passBy e⟩])

/-- The feedback inputs of a stage. -/
def fbInputs (p : Plan) (s : Nat) : List Nat := (stageIns (planStage p s)).filter (isFbInput p s)

/-- R83: whether a stage replica is drained. -/
def isDrained (f : Furrow) (s r : Nat) : Bool := mget false f.drained (32 * s + r)

/-- R83: DRAIN put into an output queue. A feedback queue whose consumer is past its drain takes none; where that consumer reads
the queue as data, the DRAIN passes by the drain consumers, to which the consumer's own drain step sends one (log entry 29). -/
def produceDrain (f : Furrow) (r q : Nat) : Furrow :=
  let e := planQueue f.plan q
  if queueFb e && isDrained f (fbConsumer e) r then f
  else setTokens f q r (tokensOf f q r ++ [⟨0, false, true, if hasNat (fbInputs f.plan (fbConsumer e)) q then passBy e else 0⟩])

/-- R83: whether an output queue of a stage that drains can take its DRAIN, or needs none. -/
def drainRoom (f : Furrow) (i r q : Nat) : Bool :=
  let e := planQueue f.plan q
  hasRoom f r q || (queueFb e && (fbConsumer e == i || isDrained f (fbConsumer e) r))

/-- The non-feedback inputs of a stage, its gate left out. -/
def plainInputs (p : Plan) (s : Nat) : List Nat := (stageIns (planStage p s)).filter fun q => !isFbInput p s q

/-- R83: the set IN of a stage. -/
def drainInputs (p : Plan) (s : Nat) : List Nat :=
  ((plainInputs p s ++ stageGate (planStage p s)).filter fun q => !isConst p q).eraseDups

/-- Whether the head of a queue copy for a stage is DRAIN. -/
def headDrain (f : Furrow) (r s q : Nat) : Bool :=
  match headFor f q r s with
  | some t => t.drain
  | none => false

/-- The operand of a field of a stage in replica r, with its error tag; none where its queue is empty. -/
def operandOf (f : Furrow) (s r i : Nat) : Option (Lane × Bool) :=
  let st := planStage f.plan s
  match fieldUse st i with
  | .input | .queueIn | .const =>
    if stageKind st i = 0 then (headFor f (stageField st i) r s).map fun t => (t.val, t.err)
    else some (capturedVal f (stageKind st i) (stageField st i) r, false)
  | _ => some (0, false)

/-- R84: what an LV stage computes. -/
def stageCompute (f : Furrow) (s : Nat) (a b c : Lane) : LaneOut :=
  match stageLane (planStage f.plan s) with
  | none => word 0
  | some (op, lv) => laneEval op lv.ext f.fmt a (match lv.b with
      | .imm i => immLane op i
      | _ => b) c false

/-- R79: the address of element e of a stream in replica r. -/
def elemAddr (f : Furrow) (n r e : Nat) : Addr :=
  let t := planStream f.plan n
  let x0 := streamExtent t 0
  let x1 := streamExtent t 1
  toAddr (((mget 0 f.capA t.base.toNat + sextLane (mget 0 f.capV (32 * t.oreg.toNat + r))).toNat : Int) +
    ((e % x0 : Nat) : Int) * streamStride t 0 + ((e / x0 % x1 : Nat) : Int) * streamStride t 1 +
    ((e / (x0 * x1) : Nat) : Int) * streamStride t 2)

/-- What an access of a furrow meets: a place, a missing translation, a permission failure. -/
inductive FAcc where
  | ok (a : Acc)
  | memf (va : Addr) (lvl : Nat) (malf : Bool)
  | prot (va : Addr)
  deriving DecidableEq, Repr

/-- R92, R153: an access of a furrow at an address, as one of its owner. -/
def furrowAccess (s : State) (core : Nat) (f : Furrow) (va : Addr) (write : Bool) : FAcc :=
  let vf := (findBlk s f.uid).vf
  match translate s core vf va with
  | .fault lvl malf => .memf va lvl malf
  | .ok pa leaf => match protDetail s vf (findGroup s f.uid f.slot).ctx.handler write false false pa leaf with
    | some _ => .prot va
    | none => .ok ⟨none, va, pa, accIdx s core leaf pa, leaf⟩

/-- R137, R146: what the reads of a furrow at some addresses ask for, as reads of its owner. -/
def furrowAsks (s : State) (core : Nat) (f : Furrow) (l : List Addr) : State :=
  readFor s core (findBlk s f.uid).vf (ownerKey f.uid f.slot) false (l.filterMap fun va =>
    match furrowAccess s core f va false with
    | .ok a => some a
    | _ => none)

/-- A furrow put back into its partition, active now. -/
def putFurrow (s : State) (k : Nat) (f : Furrow) : State :=
  modPart s k fun p => { p with furrow := some { f with idle := 0 } }

/-- R84, R126: SATF set in the owner. -/
def ownerSat (s : State) (f : Furrow) (on : Bool) : State :=
  if on then updGroup s f.uid f.slot (outside satOutside) else s

/-- R86: an update of the owner's FSTAT. -/
def modFstat (s : State) (f : Furrow) (h : Nat → Nat) : State :=
  updGroup s f.uid f.slot fun g => { g with ctx := { g.ctx with fstat := BitVec.ofNat 64 (h g.ctx.fstat.toNat) } }

/-- R82, R86: an error token counted by a sink of a stream. -/
def countErr (n x : Nat) : Nat :=
  let cnt := x % 2 ^ 32
  let x1 := if cnt < 2 ^ 32 - 1 then x + 1 else x
  if x / 2 ^ 35 % 2 = 1 then x1 else x1 + 2 ^ 35 + n * 2 ^ 32

/-- R83, R86: a token discarded. -/
def countUnm (x : Nat) : Nat := if x / 2 ^ 40 % 2 ^ 16 < 0xFFFF then x + 2 ^ 40 else x

/-- R86: SUSP. -/
def setSusp (x : Nat) : Nat := Nat.lor x (2 ^ 37)

/-- R86: DLK. -/
def setDlk (x : Nat) : Nat := Nat.lor x (2 ^ 38)

/-- R45: a group that waits at an FRWOFF, which has issued, and is to take a trap there. -/
def countFrwoff (g : Group) : Group :=
  match g.run with
  | .atFrwoff _ => countEvt evIssue 1 g
  | _ => g

/-- R90, R92: the furrow of a partition ends as FRWKILL ends it, and its owner takes a trap at its next instruction, the FRWOFF
where it waits at one. -/
def endFurrow (s : State) (k : Nat) (f : Furrow) (t : TrapReq) : State :=
  updGroup (killFurrow s k) f.uid f.slot fun g => { countFrwoff g with run := .ready, trapReq := some t }

/-- R92: the trap of a stream element that is not permitted. -/
def streamProt (va : Addr) : TrapReq := ⟨5, 7, 0, va, none⟩

/-- R224: the trap of a source element that is poisoned. -/
def streamPoison (va : Addr) : TrapReq := ⟨12, 5, 0, va, none⟩

/-- R82, R86: a sink's cursor. -/
def cursorOf (f : Furrow) (n r : Nat) : Nat := mget 0 f.cursors (32 * n + r)

/-- A sink's cursor moved on. -/
def advance (f : Furrow) (n r : Nat) : Furrow := { f with cursors := mset 0 f.cursors (32 * n + r) (cursorOf f n r + 1) }

/-- Whether the gate of a stage, given its head, is closed (R81). -/
def gateClosed (g : Option Token) : Bool :=
  match g with
  | some t => !t.err && !t.val.getLsbD 0
  | none => false

/-- The head of the gate of a stage replica, where it has one. -/
def gateHead (f : Furrow) (s r : Nat) : Option Token :=
  match stageGate (planStage f.plan s) with
  | q :: _ => headFor f q r s
  | [] => none

/-- R81: whether the gate of a stage replica holds a token, where it has one. -/
def gateReady (f : Furrow) (s r : Nat) : Bool := (stageGate (planStage f.plan s)).all fun q => (headFor f q r s).isSome

/-- R81: whether the gate and the feedback inputs of a stage replica hold tokens. -/
def sidesReady (f : Furrow) (s r : Nat) : Bool := gateReady f s r && (fbInputs f.plan s).all fun q => (headFor f q r s).isSome

/-- The queue of a field of a stage, where it names one. -/
def fieldQueue (st : Stage) (i : Nat) : List Nat := if stageKind st i = 0 then [stageField st i] else []

/-- R81, R286: the queues that a MERGE replica needs for its next firing: its gate, its predicate and, where that is there, the
input that it chooses. -/
def mergeNeeds (f : Furrow) (s r : Nat) : List Nat :=
  let st := planStage f.plan s
  stageGate st ++ fieldQueue st 3 ++ match operandOf f s r 3 with
    | some p => if p.2 then [] else fieldQueue st (if p.1.getLsbD 0 then 1 else 2)
    | none => []

/-- The queues whose head a stage replica looks at for DRAIN before it fires: all of its inputs, of a MERGE those that it needs.
-/
def watched (f : Furrow) (s r : Nat) : List Nat :=
  if stageOp8 (planStage f.plan s) = 0xA3 then mergeNeeds f s r else drainInputs f.plan s ++ fbInputs f.plan s

/-- R81, R83: whether a stage replica may fire at all: not drained, not stalled, no DRAIN at the head of an input that it needs.
-/
def mayFire (f : Furrow) (s r : Nat) : Bool :=
  decide (s < f.plan.ns) && decide (r < f.plan.repl) && !f.suspended && !isDrained f s r &&
    decide (mget 0 f.stalled (32 * s + r) ≤ 1) && !(watched f s r).any (headDrain f r s)

/-- R85: the address of a VLD stage whose offset is given. -/
def vldStageAddr (f : Furrow) (st : Stage) (off : Lane) : Addr :=
  toAddr (((mget 0 f.capA (stageBits st 33 4)).toNat : Int) + off.toInt * ((2 ^ stageBits st 48 3 : Nat) : Int) +
    sextN 8 (stageExt st) * ((2 ^ stageBits st 37 3 : Nat) : Int))

/-- R85: whether an access of n bytes lies in the window of a stream in replica r and is aligned. -/
def vldStageOk (f : Furrow) (st : Stage) (r : Nat) (va : Addr) : Bool :=
  let t := planStream f.plan st.wstr.toNat
  let o := mget 0 f.capA t.base.toNat + sextLane (mget 0 f.capV (32 * t.oreg.toNat + r))
  decide ((va - o).toNat + 2 ^ stageBits st 37 3 ≤ t.wlim.toNat) && va.toNat % 2 ^ stageBits st 37 3 == 0

/-- R85: the token of a load of a VLD stage. -/
def vldStageWord (st : Stage) (bs : List Byte) : Lane :=
  if stageBits st 40 1 = 1 then BitVec.ofInt 32 (sextN (8 * bs.length) (leNat bs)) else BitVec.ofNat 32 (leNat bs)

/-- What a firing that computes gives: a word and its error tag with SATF, or a stall on a fault (R85). -/
inductive Fired where
  | word (x : Lane) (err sat : Bool)
  | fault (va : Addr) (lvl : Nat) (malf : Bool)
  deriving DecidableEq, Repr

/-- R84, R85: what a stage computes from operands without error. A poisoned load gives an error token. -/
def fireValue (s : State) (core : Nat) (f : Furrow) (i r : Nat) (a b c : Lane) : Fired :=
  let st := planStage f.plan i
  if isVldStage st then
    let va := vldStageAddr f st a
    let n := 2 ^ stageBits st 37 3
    if mget 0 f.stalled (32 * i + r) = 1 ∨ vldStageOk f st r va = false then .word 0 true false
    else match furrowAccess s core f va false with
      | .memf va lvl malf => .fault va lvl malf
      | .prot _ => .word 0 true false
      | .ok acc =>
        if poisonedAt s acc.idx n then .word 0 true false
        else .word (vldStageWord st (loadBytes s core false acc n)) false false
  else
    let r := stageCompute f i a b c
    .word (if writesPredQueue st then (if r.pred then 1 else 0) else r.val) false r.sat

/-- R80: the lane of a stage replica, as its place in a fault record's partition and slot. -/
def ownerByte (s : State) (f : Furrow) : Nat := (findGroup s f.uid f.slot).part * 32 + f.slot

/-- R85: a stage stalls on a fault, recorded for the owner. -/
def stallStage (s : State) (core part : Nat) (f : Furrow) (i r : Nat) (va : Addr) (lvl : Nat) (malf : Bool) : State :=
  let s1 := putFurrow s (partKey core part) { f with stalled := mset 0 f.stalled (32 * i + r) (s.faultSeq + 2) }
  reportFault s1 (.stage core part i r) core (findBlk s f.uid).vf none va lvl malf kindFurrow (ownerByte s f) 0 0

/-- R224, R225: the log entry of the poison that a VLD stage loads for an offset, where it does. -/
def logStagePoison (s : State) (core part : Nat) (f : Furrow) (i r : Nat) (off : Lane) : State :=
  let st := planStage f.plan i
  let va := vldStageAddr f st off
  if mget 0 f.stalled (32 * i + r) = 1 ∨ vldStageOk f st r va = false then s
  else match furrowAccess s core f va false with
    | .ok a =>
      if poisonedAt s a.idx (2 ^ stageBits st 37 3) then
        logConsumed s (dieOf core) a.pa (findBlk s f.uid).vf core (some (part, f.slot))
      else s
    | _ => s

/-- R81, R84, R85: a firing of an LV or VLD stage in replica r. -/
def fireLane (s : State) (core part : Nat) (f : Furrow) (i r : Nat) : State :=
  let k := partKey core part
  let st := planStage f.plan i
  let outs := stageOuts st
  match operandOf f i r 1, operandOf f i r 2, operandOf f i r 3 with
  | some a, some b, some c =>
    if !sidesReady f i r then s
    else if gateClosed (gateHead f i r) then putFurrow s k (consumeAll f r i (plainInputs f.plan i ++ stageGate st))
    else if !outs.all (hasRoom f r) then s
    else
      let f1 := consumeAll { f with stalled := mset 0 f.stalled (32 * i + r) 0 } r i (stageReads st)
      let err := a.2 || b.2 || c.2 || (match gateHead f i r with
        | some t => t.err
        | none => false)
      if err then putFurrow s k (outs.foldl (fun f q => produce f q r 0 true) f1)
      else match fireValue s core f i r a.1 b.1 c.1 with
        | .fault va lvl malf => stallStage s core part f i r va lvl malf
        | .word x e sat =>
          let s1 := if isVldStage st then furrowAsks (logStagePoison s core part f i r a.1) core f [vldStageAddr f st a.1] else s
          ownerSat (putFurrow s1 k (outs.foldl (fun f q => produce f q r x e) f1)) f sat
  | _, _, _ => s

/-- R81, R286: a firing of a STEER. At a gate of 0 it consumes its data and predicate tokens, those of a feedback input too: R81
leaves feedback inputs untouched in one sentence and names these tokens in the next (log entry 29). -/
def fireSteer (s : State) (core part : Nat) (f : Furrow) (i r : Nat) : State :=
  let k := partKey core part
  let st := planStage f.plan i
  match operandOf f i r 1, operandOf f i r 2 with
  | some a, some p =>
    if !sidesReady f i r then s
    else if gateClosed (gateHead f i r) then putFurrow s k (consumeAll f r i (stageReads st))
    else
      let err := a.2 || p.2 || (match gateHead f i r with
        | some t => t.err
        | none => false)
      let out := if p.2 || p.1.getLsbD 0 then stageField st 0 else stageField st 3
      if hasRoom f r out then putFurrow s k (produce (consumeAll f r i (stageReads st)) out r (if err then 0 else a.1) err)
      else s
  | _, _ => s

/-- R81, R286: a firing of a MERGE, which waits only for the input that its predicate chooses. At a gate of 0 it consumes the
predicate token and that input, a feedback input too (log entry 29). -/
def fireMerge (s : State) (core part : Nat) (f : Furrow) (i r : Nat) : State :=
  let k := partKey core part
  let st := planStage f.plan i
  let out := stageField st 0
  match operandOf f i r 3 with
  | none => s
  | some p =>
    if !gateReady f i r then s
    else
      let closed := gateClosed (gateHead f i r)
      let gerr := match gateHead f i r with
        | some t => t.err
        | none => false
      if p.2 then
        let f1 := consumeAll f r i (stageField st 3 :: stageGate st)
        if closed then putFurrow s k f1
        else if hasRoom f r out then putFurrow s k (produce f1 out r 0 true) else s
      else
        let pick := if p.1.getLsbD 0 then 1 else 2
        match operandOf f i r pick with
        | none => s
        | some x =>
          let f1 := consumeAll f r i (stageField st 3 :: stageField st pick :: stageGate st)
          if closed then putFurrow s k f1
          else if hasRoom f r out then
            putFurrow s k (produce f1 out r (if x.2 || gerr then 0 else x.1) (x.2 || gerr))
          else s

/-- Whether a fault on an element of the furrow of a group has been recorded and not answered (R92). -/
def streamFaulted (s : State) (uid slot : Nat) : Bool :=
  s.faults.any fun x => match x.owner with
    | .stream _ _ u k => u == uid && k == slot
    | _ => false

/-- R92: an element of a stream does not translate: the fault is recorded, the owner is parked on it, and the furrow drains. -/
def streamFault (s : State) (core part : Nat) (f : Furrow) (va : Addr) (lvl : Nat) (malf : Bool) : State :=
  if streamFaulted s f.uid f.slot then s
  else
    let s1 := modPart s (partKey core part) fun p => { p with furrow := some { f with susp := true } }
    let s2 := updGroup s1 f.uid f.slot fun g => { g with run := .faulted s.faultSeq }
    reportFault s2 (.stream core part f.uid f.slot) core (findBlk s f.uid).vf none va lvl malf kindFurrow (ownerByte s f) 0 0

/-- R82: a sink writes a token's low bytes to its cursor's element. A translation that was there when the element's step issued
and is gone now is a MEMF on a stream element (R92), with B the steps issued so far (log entry 29). -/
def sinkWrite (s : State) (core part : Nat) (f f1 : Furrow) (n r : Nat) (x : Lane) : State :=
  let t := planStream f.plan n
  let va := elemAddr f n r (cursorOf f n r)
  match furrowAccess s core f va true with
  | .memf va lvl malf => streamFault s core part f va lvl malf
  | .prot va => endFurrow s (partKey core part) f (streamProt va)
  | .ok a =>
    let s0 := queueMisses (askWalks s core (findBlk s f.uid).vf [a]) core (ownerKey f.uid f.slot) [a]
    let s1 := ownAccs s0 core [a]
    putFurrow (storeCells s1 core (cellsAt a.idx (leBytes (streamBytes t) x.toNat))) (partKey core part) (advance f1 n r)

/-- R82, R286: a firing of a sink. An element that does not translate waits (R92, R94). -/
def fireSink (s : State) (core part : Nat) (f : Furrow) (i r : Nat) : State :=
  let k := partKey core part
  let st := planStage f.plan i
  let n := stageExt st
  match operandOf f i r 1 with
  | none => s
  | some x =>
    if !sidesReady f i r then s
    else
      let f1 := consumeAll f r i (stageReads st)
      let gerr := match gateHead f i r with
        | some t => t.err
        | none => false
      if gateClosed (gateHead f i r) then putFurrow s k f1
      else if x.2 || gerr then modFstat (putFurrow s k (advance f1 n r)) f (countErr n)
      else if (planStream f.plan n).cnt.toNat ≤ cursorOf f n r then modFstat (putFurrow s k f1) f (countErr n)
      else sinkWrite s core part f f1 n r x.1

/-- R81: a stage replica fires where it may. -/
def fireStage (s : State) (core part : Nat) (f : Furrow) (i r : Nat) : State :=
  let op := stageOp8 (planStage f.plan i)
  if mayFire f i r then
    if op = 0xA0 ∨ op = 0xA4 then s
    else if op = 0xA1 then fireSink s core part f i r
    else if op = 0xA2 then fireSteer s core part f i r
    else if op = 0xA3 then fireMerge s core part f i r
    else fireLane s core part f i r
  else s

/-- R83: the feedback inputs of a stage that drains: kept during a suspend-drain, moved to the drain consumers with EOD, else
emptied; DRAIN follows to the drain consumers. -/
def drainFeedback (f : Furrow) (i r : Nat) (q : Nat) : Furrow :=
  let e := planQueue f.plan q
  let all := consMask e
  let self := BitVec.ofNat 32 (2 ^ i)
  let l := tokensOf f q r
  let kept : List Token := if f.susp then l.filter fun t => !t.drain
    else if (planStage f.plan i).sflags.getLsbD 0 then
      (match l.find? fun t => !t.skips i && !t.drain with
        | some t => [{ t with seen := self }]
        | none => [])
    else []
  setTokens f q r ((kept ++ [Token.mk 0 false true self]).filter fun t => t.seen &&& all ≠ all)

/-- R83: the drain step of a stage replica whose inputs all head with DRAIN. -/
def drainStage (f : Furrow) (i r : Nat) : Furrow :=
  let f1 := consumeAll f r i (drainInputs f.plan i)
  let f2 := (fbInputs f.plan i).foldl (fun f q => drainFeedback f i r q) f1
  (stageOuts (planStage f.plan i)).foldl (fun f q => produceDrain f r q)
    { f2 with drained := mset false f2.drained (32 * i + r) true }

/-- R83: the queues of which a stage replica with DRAIN at the head of some discards the head. The rule's text has MERGE wait
for DRAIN on all of its inputs and a balanced plan lose no token, so that a MERGE discards tokens only once DRAIN stands where
its next firing needs a token: those that it would have consumed, or all where it will fire no more (log entry 29). -/
def drainGone (f : Furrow) (i r : Nat) : List Nat :=
  let st := planStage f.plan i
  let ins := drainInputs f.plan i
  let held := fun (l : List Nat) => l.filter fun q => (headFor f q r i).isSome && !headDrain f r i q
  if stageOp8 st = 0xA3 then
    let needs := (mergeNeeds f i r).filter (hasNat ins)
    if !needs.any (headDrain f r i) then []
    else if (stageGate st ++ fieldQueue st 3).any (headDrain f r i) || !(fieldQueue st 3).all (hasNat ins) then held ins
    else held needs.eraseDups
  else if ins.any (headDrain f r i) then held ins
  else []

/-- R83: the rule of drain tokens for a stage replica. A drain step needs room in the outputs (log entry 29). -/
def drainRule (s : State) (k : Nat) (f : Furrow) (i r : Nat) : State :=
  let ins := drainInputs f.plan i
  if isDrained f i r ∨ f.suspended = true ∨ f.plan.ns ≤ i ∨ f.plan.repl ≤ r ∨ ins = [] ∨
      1 < mget 0 f.stalled (32 * i + r) then s
  else if ins.all (headDrain f r i) then
    if (stageOuts (planStage f.plan i)).all (drainRoom f i r) then
      putFurrow s k (drainStage f i r)
    else s
  else
    let gone := drainGone f i r
    if gone.isEmpty then s
    else modFstat (putFurrow s k (consumeAll f r i gone)) f fun x => gone.foldl (fun x _ => countUnm x) x

/-- The running furrow of a partition, with an action on it. -/
def onFurrow (s : State) (h : Nat → Nat → Furrow → State) : State :=
  match (getPart s (myPart s)).furrow with
  | none => s
  | some f => h s.blk.core s.g.part f

/-- A firing of a stage replica of one of the opcodes. -/
def fireOp (p : Nat → Bool) (stage rep : Nat) (s : State) : State :=
  onFurrow s fun core part f => if p (stageOp8 (planStage f.plan stage)) then fireStage s core part f stage rep else s

/-- R82, R286: a sink of the partition in focus fires. -/
def execFsnk (stage rep : Nat) (s : State) : Host.Outcome State Fault Refusal := .next (fireOp (· == 0xA1) stage rep s)

/-- R286: a STEER of the partition in focus fires. -/
def execSteer (stage rep : Nat) (s : State) : Host.Outcome State Fault Refusal := .next (fireOp (· == 0xA2) stage rep s)

/-- R286: a MERGE of the partition in focus fires. -/
def execMerge (stage rep : Nat) (s : State) : Host.Outcome State Fault Refusal := .next (fireOp (· == 0xA3) stage rep s)

/-- R81: another stage of the partition in focus fires. -/
def execStageFire (stage rep : Nat) (s : State) : Host.Outcome State Fault Refusal :=
  .next (fireOp (fun op => decide (op < 0xA0)) stage rep s)

/-- R83: a stage of the partition in focus takes its drain step. -/
def execDrainStep (stage rep : Nat) (s : State) : Host.Outcome State Fault Refusal :=
  .next (onFurrow s fun core part f => drainRule s (partKey core part) f stage rep)

/-- The sources of a plan. -/
def sources (p : Plan) : List Nat := (List.range p.ns).filter fun s => stageOp8 (planStage p s) == 0xA0

/-- The sinks of a plan. -/
def sinks (p : Plan) : List Nat := (List.range p.ns).filter fun s => stageOp8 (planStage p s) == 0xA1

/-- Every pair of a stage of a list and a replica. -/
def replicas (f : Furrow) (l : List Nat) : List (Nat × Nat) :=
  l.flatMap fun i => (List.range f.plan.repl).map fun r => (i, r)

/-- R79: the count of the stream that a source or sink names. -/
def countOf (f : Furrow) (i : Nat) : Nat := (planStream f.plan (stageExt (planStage f.plan i))).cnt.toNat

/-- R81: the first element of a step, over streams and replicas, whose access does not go through. -/
def stepBlocked (s : State) (core : Nat) (f : Furrow) (e : Nat) : Option (Nat × Nat × FAcc) :=
  (((List.range f.plan.nt).flatMap fun n => (List.range f.plan.repl).map fun r => (n, r)).filterMap fun x =>
    if e < (planStream f.plan x.1).cnt.toNat then
      match furrowAccess s core f (elemAddr f x.1 x.2 e) false with
      | .memf va lvl malf => some (x.1, x.2, FAcc.memf va lvl malf)
      | _ => none
    else none).head?

/-- R286: what source i reads in replica r at step e. -/
def sourceRead (s : State) (core : Nat) (f : Furrow) (i r e : Nat) : Except TrapReq Lane :=
  let n := stageExt (planStage f.plan i)
  let t := planStream f.plan n
  match furrowAccess s core f (elemAddr f n r e) false with
  | .memf va _ _ => .error (streamProt va)
  | .prot va => .error (streamProt va)
  | .ok a =>
    if poisonedAt s a.idx (streamBytes t) then .error (streamPoison a.va)
    else
      let bs := loadBytes s core false a (streamBytes t)
      .ok (if t.es.getLsbD 2 then BitVec.ofInt 32 (sextN (8 * bs.length) (leNat bs)) else BitVec.ofNat 32 (leNat bs))

/-- R81: the emission of step e by the source replicas of a list that are not drained. A replica whose elements had run out
before a suspension emits its drain anew in the first step after re-entry, since its stages are to drain again (log entry 29). -/
def emitStep (s : State) (core : Nat) (e : Nat) : List (Nat × Nat) → Furrow → Except TrapReq Furrow
  | [], f => .ok f
  | (i, r) :: t, f =>
    let out := stageField (planStage f.plan i) 0
    if e < countOf f i then
      match sourceRead s core f i r e with
      | .error x => .error x
      | .ok v => emitStep s core e t (produce f out r v false)
    else if isDrained f i r then emitStep s core e t f
    else emitStep s core e t { produceDrain f r out with drained := mset false f.drained (32 * i + r) true }

/-- R92: during a suspend-drain, every source replica that has not drained emits its drain once it has room. R92 names those with
CNT > B; one with CNT = B has not drained either, and its stages could not drain without it (log entry 29). -/
def emitDrains (f : Furrow) : Furrow :=
  (replicas f (sources f.plan)).foldl (fun f x =>
    let out := stageField (planStage f.plan x.1) 0
    if !isDrained f x.1 x.2 && hasRoom f x.2 out then
      { produceDrain f x.2 out with drained := mset false f.drained (32 * x.1 + x.2) true }
    else f) f

/-- The addresses that the sources of a list read at a step. -/
def stepReads (f : Furrow) (l : List (Nat × Nat)) : List Addr :=
  (l.filter fun x => decide (f.step < countOf f x.1)).map fun x => elemAddr f (stageExt (planStage f.plan x.1)) x.2 f.step

/-- R81, R92: a source step of a furrow, or the drains of its sources while it is suspended. -/
def sourceStep (s : State) (core part : Nat) (f : Furrow) : State :=
  let k := partKey core part
  let l := replicas f (sources f.plan)
  if f.suspended then s
  else if f.susp then (if emitDrains f = f then s else putFurrow s k (emitDrains f))
  else if (l.any fun x => !isDrained f x.1 x.2) &&
      (l.all fun x => isDrained f x.1 x.2 || hasRoom f x.2 (stageField (planStage f.plan x.1) 0)) &&
      (stepBlocked s core f f.step).isNone then
    match emitStep s core f.step l f with
    | .error t => endFurrow s k f t
    | .ok f1 =>
      putFurrow (furrowAsks s core f (stepReads f l)) k
        { f1 with step := if l.any fun x => decide (f.step ≤ countOf f x.1) then f.step + 1 else f.step }
  else s

/-- R81: all sources of the partition in focus take the next step together. -/
def execSourceStep (s : State) : Host.Outcome State Fault Refusal := .next (onFurrow s fun core part f => sourceStep s core part f)

/-- R83, R91: whether every sink is drained. -/
def sinksDrained (f : Furrow) : Bool := (replicas f (sinks f.plan)).all fun x => isDrained f x.1 x.2

/-- R87, R89: the other groups of the owner's partition parked, those of a block that waits for its span among them. -/
def parkOthers (s : State) (core part uid slot : Nat) : State :=
  modGroups s fun g =>
    let b := findBlk s g.uid
    if b.core == core && (b.phase == .resident || b.phase == .admitted) && g.part == part && !g.isAt uid slot &&
        g.run != .absent then { g with parked := true }
    else g

/-- R87 phase 3: the lanes of captured registers. -/
def captureV (c : Ctx) (regs : List Nat) : List (Nat × Lane) :=
  regs.foldl (fun m r => (List.range 32).foldl (fun m l => mset 0 m (32 * r + l) (c.lane r l)) m) []

/-- R80, R87: the initial tokens of a plan. -/
def initialTokens (p : Plan) (cap : List (Nat × Lane)) : List (Nat × List Token) :=
  ((List.range p.nq).flatMap fun q => (List.range p.repl).map fun r => (q, r)).foldl (fun m x =>
    let e := planQueue p x.1
    let v := mget 0 cap (32 * e.ireg.toNat + x.2)
    mset [] m (32 * x.1 + x.2)
      (List.replicate e.init.toNat ⟨if queuePred e then v &&& 1 else v, false, false, passBy e⟩)) []

/-- R80: the depths of a plan. -/
def initialDepths (p : Plan) : List (Nat × Nat) :=
  ((List.range p.nq).flatMap fun q => (List.range p.repl).map fun r => (q, r)).foldl (fun m x =>
    mset 0 m (32 * x.1 + x.2) (queueDepth (planQueue p x.1))) []

/-- R87 phase 3: a furrow loaded for its owner. -/
def loadedFurrow (uid slot : Nat) (va : Addr) (c : Ctx) (p : Plan) : Furrow where
  uid := uid
  slot := slot
  planAddr := va
  plan := p
  fmt := c.fmt
  capV := captureV c (planVecs p)
  capA := c.a
  queues := initialTokens p (captureV c (planVecs p))
  depth := initialDepths p
  recorded := []
  cursors := []
  step := 0
  drained := []
  stalled := []
  susp := false
  suspended := false
  idle := 0

/-- R86: ACT alone. -/
def fstatAct : BitVec 64 := BitVec.ofNat 64 (2 ^ 36)

/-- R87 phase 1: the plan at an address, read with plain loads: its header, checked, then all of it. -/
def readPlan (s : State) (va : Addr) : Except Halt Plan :=
  match readPieces s (cmdPieces va 32) with
  | .error h => .error h
  | .ok hd =>
    let p := parsePlan hd
    if headerCheck p ≠ 0 then .error (.trap ⟨7, BitVec.ofNat 8 (headerCheck p), 0, va, none⟩)
    else match readPieces s (cmdPieces va (planBytes p.ns p.nq p.nt)) with
      | .error h => .error h
      | .ok bs => .ok (parsePlan bs)

/-- R87: what FRWON reads once its plan is known: the registers that the plan captures. -/
def planInfo (p : Plan) : Info := { size := 4, reads := planRegs p }

/-- R191: a plan whose stream origins await a FILL is checked no further than check 9, for check 10 reads them. -/
def originInfo (p : Plan) : Info := { size := 4, reads := (List.range p.nt).map fun n => (.vector, (planStream p n).oreg.toNat) }

/-- R87 phase 1: a plan read and checked for the group in focus, with the captured registers as its one read of them gives them
(R49), which are then judged: RELREAD and, since phase 3 reads them, STALLCHK; the wait for a FILL (R191); poison (R223). -/
def validPlan (s : State) (va : Addr) (c : Ctx) : Except Halt Plan :=
  match readPlan s va with
  | .error h => .error h
  | .ok p =>
    let n := planCheck (viewOf s (planInfo p)) p s.blk.regs s.blk.fpool
    if layoutCheck p s.blk.regs s.blk.fpool = 0 ∧ fillWaits s (originInfo p) = true then .error (.stay (waitOperands s (originInfo p)))
    else if n ≠ 0 then .error (.trap ⟨7, BitVec.ofNat 8 n, 0, va, none⟩)
    else match (if statusChk c.status then relRead s.ctx (planInfo p) else none) with
      | some r => .error (.trap ⟨10, BitVec.ofNat 8 r, 0, 0, none⟩)
      | none => match (if statusChk c.status then stallRead s.ctx (planInfo p) else none) with
        | some r => .error (.trap ⟨9, BitVec.ofNat 8 r.2, BitVec.ofNat 9 (clsCode r.1), 0, none⟩)
        | none =>
          if fillWaits s (planInfo p) then .error (.stay (waitOperands s (planInfo p)))
          else if poisonRead s (planInfo p) (BitVec.allOnes 32) then .error (.trap ⟨12, 2, 0, 0, none⟩)
          else .ok p

/-- R93, R94: whether a partition holds a furrow, or one that was saved with its block and has not re-entered there. -/
def furrowHeld (s : State) (core part : Nat) : Bool :=
  (getPart s (partKey core part)).furrow.isSome ||
    (allBlocks s).any fun b => b.core == core && b.phase == .resident && b.furrows.any fun e => e.1 == part

/-- R87: phases 1 to 4 for the group in focus. While another group's furrow stands suspended, FRWON waits (R94). Phase 3 takes a
register that the stall counts do not cover at its old or new value (R49). -/
def frwonBody (n : BitVec 4) (rc : Ctx) (s : State) : Except Halt State :=
  let va := rc.readA n.toNat
  match cmdAligned 16 va with
  | .error h => .error h
  | .ok _ => match validPlan s va s.ctx with
    | .error h => .error h
    | .ok p =>
      if furrowHeld s s.blk.core s.g.part then .error (.wait .furrow)
      else
        let s0 := awaitResults (askPieces s (cmdPieces va (planBytes p.ns p.nq p.nt))) (planInfo p)
        let f := loadedFurrow s.g.uid s.g.slot va (viewOf s (planInfo p)) p
        let s1 := parkOthers (putFurrow s0 (myPart s) f) s.blk.core s.g.part s.g.uid s.g.slot
        .ok (modG s1 fun g => { g with fown := true, ctx := { g.ctx with fstat := fstatAct } })

/-- R87 FRWON. -/
def execFrwon (n : BitVec 4) (s : State) : Host.Outcome State Fault Refusal :=
  issue (.frwon n) { size := 4, reads := [(.address, n.toNat)], closes := true } (frwonBody n) s

/-- R91: what FRWOFF does to its owner once every sink is drained: the pool and the partition are free, FSTAT[31:0] stands in sD,
ERRF is set on errors without TOE. -/
def frwoffDone (s : State) (k : Nat) (f : Furrow) (d : Nat) : State :=
  let s1 := killFurrow s k
  updGroup s1 f.uid f.slot fun g =>
    let c := g.ctx.writeS d (BitVec.ofNat 64 (g.ctx.fstat.toNat % 2 ^ 32))
    { g with
      run := .ready
      ctx := { c with status := setErrf c.status (c.fstat.toNat % 2 ^ 32 != 0 && !f.plan.flags.getLsbD 0) } }

/-- R91: whether FRWOFF raises FRWERR. -/
def frwoffErr (s : State) (f : Furrow) : Bool :=
  (findGroup s f.uid f.slot).ctx.fstat.toNat % 2 ^ 32 != 0 && f.plan.flags.getLsbD 0

/-- R91 FRWOFF: it completes at once where every sink is drained, else its owner waits. -/
def frwoffBody (d : BitVec 6) (s : State) : Except Halt State :=
  match (getPart s (myPart s)).furrow with
  | none => .error .ill
  | some f =>
    if f.suspended then .error (.wait .furrow)
    else if sinksDrained f then
      let s1 := frwoffDone s (myPart s) f d.toNat
      if frwoffErr s f then .error (.stay (takeTrap (issued s1) ⟨8, 1, 0, 0, none⟩ (fullLen s.ctx 4) none)) else .ok s1
    else .error (.stay (modG s fun g => { g with run := .atFrwoff d.toNat }))

/-- Whether the group in focus owns no furrow, so that FRWOFF, FRWKILL and FRWDEP are illegal (R289). -/
def notOwner (s : State) : Bool := !s.g.fown

/-- R91 FRWOFF. -/
def execFrwoff (d : BitVec 6) (s : State) : Host.Outcome State Fault Refusal :=
  issue (.frwoff d) { size := 4, writes := [(.scalar, d.toNat)], furrow := 2, ill := notOwner s }
    (fun _ s => frwoffBody d s) s

/-- R91 FRWKILL. -/
def execFrwkill (s : State) : Host.Outcome State Fault Refusal :=
  issue .frwkill { size := 4, furrow := 2, ill := notOwner s } (fun _ s => .ok (killFurrow s (myPart s))) s

/-- R91: the depth that counts for a queue copy: the one recorded, or its own. -/
def nextDepth (f : Furrow) (q r : Nat) : Nat :=
  let d := mget 0 f.recorded (32 * q + r)
  if d = 0 then depthOf f q r else d

/-- R91: the pool needed with queue q at depth d. -/
def poolWith (f : Furrow) (q d : Nat) : Nat :=
  ((replicas f (List.range f.plan.nq)).map fun x =>
    if isConst f.plan x.1 then 0 else if x.1 = q then d else nextDepth f x.1 x.2).foldl (· + ·) 0

/-- R91: a depth change recorded for every replica; it applies at once to an empty copy. -/
def recordDepth (f : Furrow) (q d : Nat) : Furrow :=
  (List.range f.plan.repl).foldl (fun f r =>
    applyDepth { f with recorded := mset 0 f.recorded (32 * q + r) d } (32 * q + r)) f

/-- R91 FRWDEP. -/
def frwdepBody (c : BitVec 3) (q : Nat) (d : Nat) (s : State) : Except Halt State :=
  match (getPart s (myPart s)).furrow with
  | none => .error .ill
  | some f =>
    if 1 ≤ d ∧ d ≤ 64 ∧ q < f.plan.nq ∧ isConst f.plan q = false ∧ poolWith f q d ≤ s.blk.fpool then
      .ok (modCtx (modPart s (myPart s) fun p => { p with furrow := some (recordDepth f q d) })
        fun ctx => ctx.writeC c.toNat true)
    else .ok (modCtx s fun ctx => ctx.writeC c.toNat false)

/-- R91 FRWDEP. -/
def execFrwdep (c : BitVec 3) (q : BitVec 6) (a : BitVec 6) (s : State) : Host.Outcome State Fault Refusal :=
  issue (.frwdep c q a)
    { size := 4, reads := [(.scalar, a.toNat)], writes := [(.condition, c.toNat)], furrow := 2, ill := notOwner s }
    (fun rc s => frwdepBody c q.toNat (rc.readS a.toNat).toNat s) s

/-- R91: every sink of the furrow of the partition in focus is drained and its owner waits at FRWOFF: FRWOFF retires, or raises
FRWERR. -/
def execFurrowDrained (s : State) : Host.Outcome State Fault Refusal :=
  .next (onFurrow s fun core part f =>
    match (findGroup s f.uid f.slot).run with
    | .atFrwoff d =>
      if sinksDrained f && !f.susp then
        let s1 := refocus (frwoffDone s (partKey core part) f d) f.uid f.slot
        if frwoffErr s f then takeTrap (issued s1) ⟨8, 1, 0, 0, none⟩ (fullLen s1.ctx 4) none
        else modG s1 fun g =>
          countEvt evIssue 1 { g with ctx := retireCtx { size := 4, writes := [(.scalar, d)] } g.ctx g.ctx }
      else s
    | _ => s)

/-- R93: no stage has fired, no step issued and no access been outstanding for 65,536 cycles, while some sink is not drained:
the furrow ends, FSTAT.DLK is set, and its owner raises FRWERR. -/
def execFurrowDeadlock (s : State) : Host.Outcome State Fault Refusal :=
  .next (onFurrow s fun core part f =>
    if 65536 ≤ f.idle ∧ sinksDrained f = false ∧ f.suspended = false ∧
        (f.stalled.all fun x => decide (x.2 ≤ 1)) then
      modFstat (endFurrow s (partKey core part) f ⟨8, 2, 0, 0, none⟩) f setDlk
    else s)

/-- The furrow that a partition holds after an action. -/
def furrowAt (s : State) (k : Nat) : Option Furrow := (getPart s k).furrow

/-- R83, R92: every stage replica of a furrow drains or fires once, where it can. -/
def drainPass (core part : Nat) (s : State) : State :=
  let k := partKey core part
  match furrowAt s k with
  | none => s
  | some f0 =>
    (replicas f0 (List.range f0.plan.ns)).foldl (fun s x =>
      match furrowAt s k with
      | none => s
      | some f =>
        let s1 := drainRule s k f x.1 x.2
        match furrowAt s1 k with
        | none => s1
        | some f1 => fireStage s1 core part f1 x.1 x.2) (sourceStep s core part f0)

/-- R92: whether every stage replica is drained but for FCONST stages, which take no drain step of their own (R83). -/
def stagesDrained (f : Furrow) : Bool :=
  (replicas f ((List.range f.plan.ns).filter fun i => stageOp8 (planStage f.plan i) != 0xA4)).all fun x => isDrained f x.1 x.2

/-- R92: passes of a suspend-drain, until every stage is drained or nothing moves. -/
def drainPasses (core part : Nat) : Nat → State → State
  | 0, s => s
  | n + 1, s =>
    match furrowAt s (partKey core part) with
    | none => s
    | some f =>
      if stagesDrained f then s
      else if drainPass core part s = s then s
      else drainPasses core part n (drainPass core part s)

/-- R92: what a suspended furrow keeps: its feedback tokens, its depths, its step and its cursors. -/
def suspendedFurrow (f : Furrow) : Furrow :=
  { f with
    queues := (f.queues.map fun e => (e.1, e.2.filter fun t =>
      queueFb (planQueue f.plan (e.1 / 32)) && !t.drain && !t.skips (fbConsumer (planQueue f.plan (e.1 / 32))))).filter
        fun e => !e.2.isEmpty
    drained := []
    stalled := []
    susp := false
    suspended := true }

/-- R92: whether a suspend-drain has ended: every sink is drained, no stage waits on a fault, and nothing moves any more. -/
def drainDone (s : State) (core part : Nat) (f : Furrow) : Bool :=
  f.susp && sinksDrained f && (f.stalled.all fun x => decide (x.2 ≤ 1)) &&
    (stagesDrained f || drainPass core part s == s)

/-- R92, R94: the suspend-drain of a furrow goes on; once it has ended, its context is stored and FSTAT.SUSP set. -/
def suspendDrain (s : State) (core part : Nat) : State :=
  let k := partKey core part
  let s1 := drainPasses core part 20000 s
  match furrowAt s1 k with
  | none => s1
  | some f =>
    if drainDone s1 core part f then
      let s2 := modFstat (modPart s1 k fun p => { p with furrow := some (suspendedFurrow f) }) f setSusp
      storeFurrow s2 (suspendedFurrow f) part (findGroup s2 f.uid f.slot).ctx.fstat
    else s1

/-- R92, R94: an element of a stream does not translate: the owner of the partition in focus is parked on the fault, the furrow
drains, and its context is stored; the other groups of the partition run again. -/
def execStreamFaultSuspend (stream rep : Nat) (s : State) : Host.Outcome State Fault Refusal :=
  .next (onFurrow s fun core part f =>
    if f.suspended then s
    else if f.susp then unpark (suspendDrain s core part)
    else match stepBlocked s core f f.step with
      | some (n, r, .memf va lvl malf) =>
        if n = stream ∧ r = rep then unpark (suspendDrain (streamFault s core part f va lvl malf) core part)
        else s
      | _ => s)

/-- R93: the furrow of a suspended context, loaded again: its feedback tokens, depths, step and cursors stay. -/
def reenteredFurrow (old : Furrow) (c : Ctx) (p : Plan) : Furrow :=
  { loadedFurrow old.uid old.slot old.planAddr c p with
    fmt := old.fmt
    queues := old.queues
    depth := old.depth
    recorded := old.recorded
    cursors := old.cursors
    step := old.step }

/-- R93, R94: phases 1 to 4 run again for a suspended furrow of the group in focus, as the area of its block holds its context;
`kept` still holds it where it stood, for a fault on the plan. Checks and capture take one read of the registers (R49). -/
def reenter (kept s : State) (f : Furrow) : State :=
  let old := storedFurrow s s.g.part f
  let k := myPart s
  let gone := killFurrow s k
  match validPlan s old.planAddr s.ctx with
  | .error (.memf lane va lvl malf _) =>
    let s2 := modG kept fun g => { g with run := .faulted s.faultSeq }
    reportFault s2 (.stream s.blk.core s.g.part s.g.uid s.g.slot) s.blk.core s.blk.vf lane va lvl malf kindRead
      (ownerByte s old) 0 0
  | .error (.trap t) =>
    modG gone fun g => { g with
      run := .ready, parked := false, fown := false, trapReq := some t, ctx := { g.ctx with fstat := fstatEnd g.ctx.fstat } }
  | .error _ => kept
  | .ok p =>
    let s1 := parkOthers (modPart s k fun x => { x with furrow := some (reenteredFurrow old (viewOf s (planInfo p)) p) }) s.blk.core
      s.g.part s.g.uid s.g.slot
    modG s1 fun g => { g with run := .ready, parked := false }

/-- Whether the fault on which a group stands has been answered. -/
def answeredFault (s : State) (g : Group) : Bool :=
  match g.run with
  | .faulted n => !s.faults.any fun f => f.seq == n
  | _ => true

/-- R93, R94: the furrow of the group in focus re-enters: the one that stands suspended in its partition, or, once the partition
holds none, the one saved with its block. -/
def execFurrowReentry (s : State) : Host.Outcome State Fault Refusal :=
  .next (if s.g.fown && s.blk.phase == .resident && answeredFault s s.g then
      match (getPart s (myPart s)).furrow with
      | some f => if f.suspended && s.g.isAt f.uid f.slot then reenter s s f else s
      | none => match s.blk.furrows.find? fun e => e.1 == s.g.part with
        | none => s
        | some e => if s.g.isAt e.2.uid e.2.slot then
            reenter s (modBlk s fun b => { b with furrows := b.furrows.filter fun x => x.1 != s.g.part }) e.2
          else s
    else s)

end Sys2Proof.Machine
end

