-- ==== Sys2Proof/Machine/Ingress.lean ====
section
/-! DEFINITION. The ingress ports (R192 to R195), the checks of a head record (R18, R22, R193, R194, R231), waits (R197), LAUNCH and
LCANCEL (R198), host cancels (R201). -/

namespace Sys2Proof.Machine

/-- R192: a record put into a port's queue, or discarded with OVF. -/
def enqueueRecord (s : State) (port : Nat) (dev : Bool) (r : BitVec 512) : State :=
  if 256 ≤ (getPort s port).queue.length then modPort s port fun p => { p with ovf := true }
  else modPort { s with uidNext := s.uidNext + 1 } port fun p => { p with queue := p.queue ++ [⟨s.uidNext, dev, r⟩] }

/-- The 64 bytes staged at a port (R192). -/
def stagedRecord (p : Port) : BitVec 512 := BitVec.ofNat 512 (leNat ((List.range 64).map fun k => mget 0 p.staged k))

/-- R192: the record that a write of the last 8 bytes completes. -/
def stagedWith (p : Port) (last : BitVec 64) : BitVec 512 :=
  stagedRecord { p with staged := msetAll 0 p.staged 56 (leBytes 8 last.toNat) }

/-- R192: the write of the last 8 bytes enqueues the staged record. A port assigned to no function, or reached through another,
ignores it (R8, R245). -/
def execRecordEnqueue (port : Nat) (last : BitVec 64) (s : State) : Host.Outcome State Fault Refusal :=
  .next (if portOpen s port = false then s
    else
      enqueueRecord (modPort s port fun p => { p with staged := msetAll 0 p.staged 56 (leBytes 8 last.toNat) }) port false
        (stagedWith (getPort s port) last))

/-- R192: a read of QSTAT returns it and clears its sticky bits. -/
def execQstatRead (port : Nat) (s : State) : Host.Outcome State Fault Refusal :=
  .next (if portOpen s port then clearQstat { s with hostData := qstat (getPort s port) } port else { s with hostData := 0 })

/-- R201: a cancel by the host. -/
def execHostCancel (port : Nat) (lid : BitVec 32) (s : State) : Host.Outcome State Fault Refusal :=
  .next (if portOpen s port then cancelAll s port lid.toNat false else s)

/-- R201: a cancel with KILL by the host. -/
def execHostCancelKill (port : Nat) (lid : BitVec 32) (s : State) : Host.Outcome State Fault Refusal :=
  .next (if portOpen s port then cancelAll s port lid.toNat true else s)

/-- R198: the 64-byte record that LAUNCH reads. -/
def readRecord (s : State) (a : Addr) : Except Halt (BitVec 512) :=
  match readPieces s (cmdPieces a 64) with
  | .error h => .error h
  | .ok bs => .ok (BitVec.ofNat 512 (leNat bs))

/-- R198: a launch handle. -/
def launchHandle (port lid : Nat) : SWord := BitVec.ofNat 64 (2 ^ 63 + port * 2 ^ 32 + lid)

/-- R198 LAUNCH. -/
def launchBody (d : BitVec 6) (a : BitVec 4) (rc : Ctx) (s : State) : Except Halt State :=
  let va := rc.readA a.toNat
  match cmdAligned 64 va with
  | .error h => .error h
  | .ok _ => match readRecord s va with
    | .error h => .error h
    | .ok r =>
      let port := recField r 31 1 % 64
      if (getPort s port).owner ≠ some s.blk.vf then .error (.trap ⟨5, 9, 0, va, none⟩)
      else if 256 ≤ (getPort s port).queue.length then .error (.wait (.port port))
      else .ok (modCtx (enqueueRecord (askPieces s (cmdPieces va 64)) port true r) fun c =>
        c.writeS d.toNat (launchHandle port (recLid r)))

/-- R198 LAUNCH. -/
def execLaunch (d : BitVec 6) (a : BitVec 4) (s : State) : Host.Outcome State Fault Refusal :=
  issue (.launch d a) { size := 4, reads := [(.address, a.toNat)], writes := [(.scalar, d.toNat)], closes := true }
    (launchBody d a) s

/-- R198: whether a value is no launch handle. -/
def badLaunchHandle (h : SWord) : Bool := !h.getLsbD 63 || h.toNat / 2 ^ 38 % 2 ^ 25 != 0

/-- R198: how many launches of a port bear a launch id and have not completed, and the blocks that they have dispatched. -/
def cancelCounts (s : State) (port lid : Nat) : Nat × Nat :=
  let l := namedLaunches s port lid
  (l.length + ((uncheckedRecords (getPort s port)).filter fun r => recLid r.bits == lid).length,
    sumOf (l.map (·.dispatched)))

/-- R198: a cancel by the group in focus and what it writes. A group that its own KILL discards retires nothing. -/
def lcancelTo (c : BitVec 3) (kill : Bool) (h : BitVec 6) (x : Nat) (s : State) : State :=
  let n := cancelCounts s (x / 2 ^ 32 % 64) (x % 2 ^ 32)
  let s1 := cancelAll s (x / 2 ^ 32 % 64) (x % 2 ^ 32) kill
  if s1.g.uid = s.g.uid then
    modCtx s1 fun ctx => (ctx.writeC c.toNat (n.1 != 0)).writeS h.toNat (BitVec.ofNat 64 n.2)
  else s1

/-- R198 LCANCEL: the value read is judged. -/
def lcancelBody (c : BitVec 3) (kill : Bool) (h : BitVec 6) (rc : Ctx) (s : State) : Except Halt State :=
  if badLaunchHandle (rc.readS h.toNat) then .error .ill else .ok (lcancelTo c kill h (rc.readS h.toNat).toNat s)

/-- R198 LCANCEL. -/
def execLcancel (c : BitVec 3) (kill : Bool) (h : BitVec 6) (s : State) : Host.Outcome State Fault Refusal :=
  issue (.lcancel c kill h)
    { size := 4, reads := [(.scalar, h.toNat)], writes := [(.condition, c.toNat), (.scalar, h.toNat)], closes := true,
      ill := statusChk s.ctx.status && badLaunchHandle (s.ctx.readS h.toNat) }
    (lcancelBody c kill h) s

/-- R248: the registry index that a record names, none for CODE 0. -/
def recIndex (r : BitVec 512) : Option Nat := if recField r 0 8 = 0 then none else some (recField r 0 8 - 1)

/-- R236: the resident module of a function and registry index. -/
def findModule (s : State) (vf index : Nat) : Option Module := s.modules.find? fun m => m.vf == vf && m.index == index

/-- R237: whether a record waits for an unload that was requested before it was enqueued. -/
def unloadHolds (s : State) (vf index num : Nat) : Bool :=
  (getTenant s vf).unload.any fun e => e.1 == index && decide (e.2 ≤ num)

/-- R231: the kernel of a module that a record names. -/
def kernelOf (m : Module) (r : BitVec 512) : Option Kernel := m.kernels.find? fun k => k.entry.toNat == recField r 8 4

/-- R18, R193, R194: the offset of the first field of a record that fails, of those from GROUPS on. -/
def badField (dev : Bool) (port : Nat) (r : BitVec 512) : Option Nat :=
  let f := recField r
  if f 24 1 = 0 ∨ 32 < f 24 1 then some 24
  else if f 25 1 = 0 ∨ 32 < f 25 1 then some 25
  else if 15 < f 26 1 then some 26
  else if 8 < f 27 1 then some 27
  else if 32 < f 28 1 then some 28
  else if 128 ≤ f 29 1 ∨ f 29 1 / 32 = 3 ∨ (recGrid r).1 % recSpan r ≠ 0 then some 29
  else if 16 ≤ f 30 1 then some 30
  else if f 31 1 ≠ (if dev then port else 0) then some 31
  else if f 41 3 ≠ 0 then some 41
  else if f 60 4 = 0 then some 60
  else none

/-- R194: the detail with which a record is rejected, or none: ENTRY, the fields in order, the fit test of R20, the stack rule of
R22. -/
def recordDetail (s : State) (vf : Nat) (m : Module) (dev : Bool) (port : Nat) (r : BitVec 512) : Option Nat :=
  match kernelOf m r with
  | none => some 8
  | some k => match badField dev port r with
    | some n => some n
    | none =>
      if fitsEmpty (recDemand r vf false) = false then some 0xFF
      else if (getFunc s vf).stkstride.toNat < k.stack.toNat ∨ (k.stack ≠ 0 ∧ (getFunc s vf).stkcount = 0) then some 0xFE
      else none

/-- What a write of the device for a function meets: nothing in its way, a missing translation, a permission failure. -/
inductive DevAcc where
  | ok
  | memf (va : Addr) (lvl : Nat) (malf : Bool)
  | prot (va : Addr) (detail : BitVec 8)
  deriving DecidableEq, Repr

/-- R22, R193: a device write for a function at an address. `judged` says whether it is judged against W. -/
def devAccess (s : State) (core vf : Nat) (judged : Bool) (va : Addr) : DevAcc :=
  match translate s core vf va with
  | .fault lvl malf => .memf va lvl malf
  | .ok pa leaf =>
    match protDetail s vf false true false false pa (if judged then leaf else Nat.lor leaf 4) with
    | some d => .prot va d
    | none => .ok

/-- The first of n bytes, and the first of each further page that they reach. -/
def pageStarts (va : Addr) (n : Nat) : List Addr :=
  if n = 0 then []
  else va :: (List.range ((va.toNat % 2 ^ 16 + n - 1) / 2 ^ 16)).map fun j =>
    va - BitVec.ofNat 72 (va.toNat % 2 ^ 16) + BitVec.ofNat 72 (2 ^ 16 * (j + 1))

/-- What a device write of n bytes meets: its first translation that is missing, else its first permission failure (R153). -/
def devRange (s : State) (core vf : Nat) (judged : Bool) (va : Addr) (n : Nat) : DevAcc :=
  let l := (pageStarts va n).map (devAccess s core vf judged)
  match l.find? (fun x => match x with
    | .memf _ _ _ => true
    | _ => false) with
  | some x => x
  | none => (l.find? (· ≠ .ok)).getD .ok

/-- R193: the lowest-numbered free record slot of a function: no launch holds it, and no head record whose copy waits. -/
def freeSlot (s : State) (vf : Nat) : Option Nat :=
  (List.range (getFunc s vf).reccount.toNat).find? fun i =>
    !(s.launches.any fun l => l.vf == vf && l.recSlot == some i) &&
      !s.ports.any fun e => e.2.owner == some vf && e.2.copySlot == some i

/-- The launch made of a record that has passed its checks. -/
def newLaunch (s : State) (port vf : Nat) (m : Module) (k : Kernel) (r : BitVec 512) (slot : Option Nat) : Launch where
  key := s.uidNext
  port := port
  vf := vf
  record := r
  text := m.text
  kernel := k
  next := 0
  dispatched := 0
  recSlot := slot
  recAddr := match slot with
    | some i => (getFunc s vf).recbase + BitVec.ofNat 72 (64 * i)
    | none => 0
  state := .active

/-- The launch of the head record stands at its port; WAITW says whether its waits hold (R197). -/
def startLaunch (s : State) (port : Nat) (l : Launch) : State :=
  modPort { s with launches := s.launches ++ [l], uidNext := s.uidNext + 1 } port fun p =>
    { p with checked := some l.key, loadw := false, waitw := !recordWaits s l.vf l.record }

/-- R216: the abort of a launch for which the device, and no group, met a permission failure (log entry 17). -/
def abortDevice (s : State) (l : Launch) (detail : BitVec 8) : State :=
  abortLaunch s l.key l.vf (Config.openByte s.faultSeq 20).toNat 0 (Config.openByte s.faultSeq 21).toNat
    (Config.openPc s.faultSeq) 5 detail.toNat 0

/-- R193: the record's copy is written to a record slot and the launch stands; a missing translation waits for its answer, the
slot held, and a permission failure aborts the launch. -/
def copyRecord (s : State) (port vf : Nat) (m : Module) (k : Kernel) (r : BitVec 512) : State :=
  if (getFunc s vf).reccount = 0 then startLaunch s port (newLaunch s port vf m k r none)
  else match (match (getPort s port).copySlot with
      | some i => some i
      | none => freeSlot s vf) with
    | none => s
    | some i =>
      let l := newLaunch s port vf m k r (some i)
      let s0 := modPort s port fun p => { p with copySlot := none }
      match devRange s 0 vf false l.recAddr 64 with
      | .memf va lvl malf =>
        reportFault (modPort s port fun p => { p with copySlot := some i }) (.copy port) (Config.openByte s.faultSeq 20).toNat vf
          none va lvl malf kindEngWrite 0xFF 0 0
      | .prot _ d => abortDevice (startLaunch s0 port l) l d
      | .ok => startLaunch ((deviceWrite s0 0 vf l.recAddr (leBytes 64 r.toNat)).getD s0) port l

/-- R154: whether the copy of a port's head record waits for an answer. -/
def copyWaits (s : State) (port : Nat) : Bool := s.faults.any fun f => f.owner == .copy port

/-- R194, R196: the head record of a port is checked, once its code object is resident. -/
def checkHead (s : State) (port vf : Nat) (q : QRec) : State :=
  match recIndex q.bits with
  | none => modPort s port fun p => { p with loadw := true }
  | some index => match findModule s vf index with
    | none => modPort s port fun p => { p with loadw := true }
    | some m =>
      if unloadHolds s vf index q.num then modPort s port fun p => { p with loadw := true }
      else match recordDetail s vf m q.dev port q.bits with
        | some d => endRecord (popHead s port) port q.bits 1 d
        | none => match kernelOf m q.bits with
          | none => s
          | some k => copyRecord (modPort s port fun p => { p with loadw := false }) port vf m k q.bits

/-- R194: the head record of a port is checked when it has reached the head. -/
def execRecordHeadCheck (port : Nat) (s : State) : Host.Outcome State Fault Refusal :=
  let p := getPort s port
  .next (match p.owner, p.queue with
    | some vf, q :: _ => if p.checked.isSome || copyWaits s port then s else checkHead s port vf q
    | _, _ => s)

/-- R197: the waits of a port's head launch are tested again, until its first block is dispatched. -/
def execWaitConditionTest (port : Nat) (s : State) : Host.Outcome State Fault Refusal :=
  .next (testWaits s port)

end Sys2Proof.Machine
end

