-- ==== Sys2Proof/Machine/Loader.lean ====
section
/-! DEFINITION. Code objects (R229 to R237): the registry, the checks of an image, binding of emulation routines, mapping and
relocation, unloading. -/

namespace Sys2Proof.Machine

/-- R248: the n bytes at an offset of a registry entry. -/
def registryField (s : State) (vf index off n : Nat) : Nat :=
  leNat ((List.range n).map fun k => mget 0 (getTenant s vf).registry (16 * index + off + k))

/-- R248: the host address of the image of a registry entry, none where the entry is not valid. -/
def imageAddr (s : State) (vf index : Nat) : Option Nat :=
  if index < 256 ∧ registryField s vf index 12 1 % 2 = 1 then some (registryField s vf index 0 8) else none

/-- The n bytes at an offset of an image at a host address (R140: a bus address of 50 bits). -/
def imageBytes (s : State) (a off n : Nat) : List Byte :=
  (List.range n).map fun k => mget memDefault s.hostMem ((a + off + k) % 2 ^ 50)

/-- The number in the n bytes at an offset of an image. -/
def imageNat (s : State) (a off n : Nat) : Nat := leNat (imageBytes s a off n)

/-- R229: the offset and size of a section. -/
def section_ (s : State) (a i : Nat) : Nat × Nat := (imageNat s a (80 + 8 * i) 4, imageNat s a (84 + 8 * i) 4)

/-- R229: the size of an image. -/
def imageSize (s : State) (a : Nat) : Nat := imageNat s a 8 4

/-- R229, R230: whether two sections overlap; one of size 0 takes no place. -/
def overlaps (x y : Nat × Nat) : Bool := x.2 != 0 && y.2 != 0 && decide (x.1 < y.1 + y.2) && decide (y.1 < x.1 + x.2)

/-- R229: the header of an image. -/
def imageHeaderOk (s : State) (a : Nat) : Bool :=
  imageNat s a 0 4 == 0x4C545242 && imageNat s a 4 2 == 1 && imageNat s a 6 2 == 0 && imageNat s a 144 16 == 0 &&
    (List.range 8).all fun i =>
      ((section_ s a i).2 == 0 || decide ((section_ s a i).1 + (section_ s a i).2 ≤ imageSize s a)) &&
        (List.range i).all fun j => !overlaps (section_ s a i) (section_ s a j)

/-- R233: the feature bits that the ZB4 has. -/
def hasFeature (b : Nat) : Bool := decide (b < 96)

/-- R234: the required features that the ZB4 lacks. -/
def missingFeatures (s : State) (a : Nat) : List Nat :=
  (List.range 512).filter fun b => !hasFeature b && imageNat s a (16 + b / 8) 1 / 2 ^ (b % 8) % 2 == 1

/-- R234: the emulation entries of an image, with .text at a base; one whose FEAT is no feature bit is bound to none. -/
def emuEntries (s : State) (a : Nat) (text : Addr) : List EmuEntry :=
  ((List.range (imageNat s a 14 2)).filter fun i => decide (imageNat s a ((section_ s a 5).1 + 32 * i) 2 < 512)).map fun i =>
    let o := (section_ s a 5).1 + 32 * i
    ⟨BitVec.ofNat 9 (imageNat s a o 2), text + BitVec.ofNat 72 (imageNat s a (o + 4) 4), BitVec.ofNat 64 (imageNat s a (o + 8) 8),
      BitVec.ofNat 64 (imageNat s a (o + 16) 8)⟩

/-- R234: the entries that are bound, none where a missing feature has no entry or more than 32 are bound. -/
def boundEntries (s : State) (a : Nat) (text : Addr) : Option (List EmuEntry) :=
  let es := emuEntries s a text
  let miss := missingFeatures s a
  let l := es.filter fun e => hasNat miss e.feat.toNat
  if (miss.all fun b => es.any fun e => e.feat.toNat == b) && decide (l.length ≤ 32) then some l else none

/-- R231: the kernel table. -/
def kernelTable (s : State) (a : Nat) : List Kernel :=
  (List.range (imageNat s a 12 2)).map fun i =>
    let o := (section_ s a 4).1 + 32 * i
    ⟨BitVec.ofNat 32 (imageNat s a o 4), BitVec.ofNat 32 (imageNat s a (o + 4) 4), BitVec.ofNat 32 (imageNat s a (o + 8) 4)⟩

/-- R230: where load number n places section i (log entry 14). -/
def sectionBase (n i : Nat) : Addr := BitVec.ofNat 72 ((Config.loadBase n i).toNat * 2 ^ 16)

/-- Bytes put over a list from a place on. -/
def patch (l : List Byte) (o : Nat) (bs : List Byte) : List Byte := l.take o ++ bs ++ l.drop (o + bs.length)

/-- R232: one relocation applied to the contents of the sections 0 to 3, none where it fails the load. -/
def relocate (s : State) (a n : Nat) (secs : List (List Byte)) (i : Nat) : Option (List (List Byte)) :=
  let o := (section_ s a 6).1 + 16 * i
  let place := imageNat s a o 4
  let sect := imageNat s a (o + 4) 1
  let tgt := imageNat s a (o + 5) 1
  let kind := imageNat s a (o + 6) 1
  let v := sectionBase n tgt + toAddr (sextN 64 (imageNat s a (o + 8) 8))
  let bs := if kind = 0 then leBytes 16 v.toNat else leBytes 8 (v.toNat % 2 ^ 64)
  let l := (secs[sect]?).getD []
  if kind ≤ 1 ∧ 1 ≤ sect ∧ sect ≤ 3 ∧ tgt ≤ 3 ∧ place + bs.length ≤ l.length then some (secs.set sect (patch l place bs))
  else none

/-- R232: the relocations in their order. -/
def relocateAll (s : State) (a n : Nat) : List Nat → List (List Byte) → Option (List (List Byte))
  | [], l => some l
  | i :: t, l => match relocate s a n l i with
    | none => none
    | some l' => relocateAll s a n t l'

/-- R230: the permissions of section i: R and X, R, R and W, R. -/
def sectionRWX (i : Nat) : Nat := ([5, 1, 3, 1][i]?).getD 0

/-- The number of 64 KiB pages of n bytes. -/
def pagesOf (n : Nat) : Nat := (n + 65535) / 65536

/-- R230, R150: the leaf of page j of section i in load number k. -/
def sectionLeaf (s : State) (vf k i j : Nat) : Nat :=
  let pg := (Config.loadPage k i j).toNat
  1 + 2 * sectionRWX i + 2 ^ 6 * (mget 0 s.place (pg % 2 ^ 22)).toNat + 2 ^ 16 * pg + 2 ^ 56 * (getFunc s vf).key.toNat

/-- R230, R150: the translations of section i of size n in load number k. -/
def sectionMaps (s : State) (vf k i n : Nat) : List TlbEntry :=
  (List.range (pagesOf n)).map fun j =>
    ⟨(getFunc s vf).asid.toNat, (sectionBase k i).toNat + 2 ^ 16 * j, 2 ^ 16, BitVec.ofNat 64 (sectionLeaf s vf k i j)⟩

/-- R236: the places in memory of the n bytes of section i in load number k, with their leaves. -/
def sectionPlaces (s : State) (vf k i n : Nat) : List (Nat × Nat) :=
  (List.range n).map fun x =>
    (homeIdx s.place ((Config.loadPage k i (x / 2 ^ 16)).toNat * 2 ^ 16 + x % 2 ^ 16), sectionLeaf s vf k i (x / 2 ^ 16))

/-- Whether a page holds the table of a level, as a walk of a die reads it, or one that this reaches, or is mapped by a leaf
there. -/
def tableMaps (s : State) (die pg : Nat) : Nat → Nat → Bool
  | 0, _ => false
  | lvl + 1, t => t / 2 ^ 16 == pg || (List.range (if lvl = 4 then 16 else 8192)).any fun i => match tableEntry s die t i with
    | none => false
    | some e => e % 2 == 1 &&
        (if lvl ≥ 2 ∨ (lvl = 1 ∧ entryRWX e = 0) then tableMaps s die pg lvl (entryPA e * 2 ^ 16)
         else decide (entryPA e ≤ pg) && decide (pg < entryPA e + 2 ^ (13 * lvl)))

/-- Whether a page is one that some TLB maps or to which the walk cache of a die points. -/
def pageCached (s : State) (pg : Nat) : Bool :=
  let maps := fun (e : TlbEntry) => decide (entryPA e.leaf.toNat ≤ pg) && decide (pg < entryPA e.leaf.toNat + e.size / 2 ^ 16)
  (s.cores.any fun e => e.2.tlb.any maps) || s.dies.any fun e => e.2.tlb.any maps || e.2.walks.any fun w => entryPA w.leaf.toNat == pg

/-- R236: whether the loader may take a physical page: nothing stands there, no module and no function maps it, no TLB has it
still, and no function that is enabled has a table there (log entry 14). -/
def pageFree (s : State) (pg : Nat) : Bool :=
  (s.mem.all fun c => paOfIdx s.place c.1 / 2 ^ 16 != pg) &&
    (s.modules.all fun m => m.maps.all fun e => entryPA e.leaf.toNat != pg) && !pageCached s pg &&
    s.funcs.all fun f => !f.2.en || (List.range 4).all fun die => !tableMaps s die pg 5 f.2.root.toNat

/-- R230: the first address and the length that section i of size n takes in load number k. -/
def sectionSpan (k i n : Nat) : Nat × Nat := ((sectionBase k i).toNat, 2 ^ 16 * pagesOf n)

/-- R236: whether nothing of a function's address space stands in a range: neither its tables nor any TLB translate an address of
it. -/
def unmappedRange (s : State) (vf base size : Nat) : Bool :=
  let f := getFunc s vf
  let tlbs := (s.cores.flatMap fun e => e.2.tlb) ++ s.dies.flatMap fun e => e.2.tlb
  (tlbs.all fun e => e.asid != f.asid.toNat || !overlaps (base, size) (e.base, e.size)) &&
    (List.range (pagesOf size)).all fun j => (List.range 4).all fun die =>
      match walkFrom s die f.asid.toNat (base + 65536 * j) 5 f.root.toNat with
      | .fault _ _ => true
      | .ok _ _ => false

/-- R230, R236: whether the loader's choices for load number k do: the sections lie in the address space, apart from each other,
from what the loader has mapped there and from what the function has, on physical pages that are free and differ (log entry
14). -/
def choicesFit (s : State) (vf a k : Nat) : Bool :=
  let spans := (List.range 4).map fun i => sectionSpan k i (section_ s a i).2
  let pages := (List.range 4).flatMap fun i => (List.range (pagesOf (section_ s a i).2)).map fun j => (Config.loadPage k i j).toNat
  (spans.all fun x => decide (x.1 + x.2 ≤ 2 ^ 72)) &&
    ((List.range 4).all fun i => (List.range i).all fun j => !overlaps ((spans[i]?).getD (0, 0)) ((spans[j]?).getD (0, 0))) &&
    (spans.all fun x => ((loadedMaps s vf).all fun e => !overlaps x (e.base, e.size)) && unmappedRange s vf x.1 x.2) &&
    pages.eraseDups.length == pages.length && pages.all (pageFree s)

/-- R236, R237: every instruction-cache line of some sectors goes, at every level on every die. -/
def dropCode (s : State) (secs : List Nat) : State :=
  { s with
    cores := s.cores.map fun e => (e.1, { e.2 with l1i := mdrop (hasNat secs) e.2.l1i })
    clusters := (s.clusters.map fun e => (e.1, mdrop (hasNat secs) e.2)).filter fun e => !e.2.isEmpty
    dies := s.dies.map fun e => (e.1, { e.2 with l3i := mdrop (hasNat secs) e.2.l3i }) }

/-- R236 steps 4 to 6: a code object made resident from the contents of its sections, each byte performed at its home. -/
def installModule (s : State) (vf index a k : Nat) (secs : List (List Byte)) (emu : List EmuEntry) : State :=
  let m : Module :=
    { vf := vf, index := index, text := sectionBase k 0, size := (section_ s a 0).2
      maps := (List.range 4).flatMap fun i => sectionMaps s vf k i (section_ s a i).2
      kernels := kernelTable s a, emu := emu }
  let s1 := (List.range 4).foldl (fun acc i =>
    let bs := (secs[i]?).getD []
    performBytes acc (sectionPlaces s vf k i bs.length) bs) s
  dropCode { s1 with modules := s.modules ++ [m], uidNext := s.uidNext + 1 }
    ((sectionPlaces s vf k 0 ((secs[0]?).getD []).length).map fun x => x.1 / 128)

/-- R230, R252: whether an image bears the signature that the key policy of a function asks for: none where it has no key; an
empty signature section is the signature of nothing (log entry 16). -/
def signatureOk (s : State) (vf a : Nat) : Bool :=
  let key := mget 0 s.signKeys vf
  let x := section_ s a 7
  key == 0 || x.2 != 0 && Config.lmsHolds (imageBytes s a 0 x.1) (imageBytes s a x.1 x.2) key

/-- R236: the load of a registry entry, none where it fails with status 4. Where the loader's choices do not fit it chooses
anew. -/
def loadModule (s : State) (vf index : Nat) : Option State :=
  match imageAddr s vf index with
  | none => none
  | some a =>
    if imageHeaderOk s a && signatureOk s vf a then
      match boundEntries s a (sectionBase s.uidNext 0) with
      | none => none
      | some emu =>
        let secs := (List.range 4).map fun i => imageBytes s a (section_ s a i).1 (section_ s a i).2
        (relocateAll s a s.uidNext (List.range ((section_ s a 6).2 / 16)) secs).map fun l =>
          if choicesFit s vf a s.uidNext then installModule s vf index a s.uidNext l emu
          else { s with uidNext := s.uidNext + 1 }
    else none

/-- Whether a record names a module. -/
def namesModule (index : Nat) (r : QRec) : Bool := recIndex r.bits == some index

/-- R236: every queued record of a port of the function that names the module completes with status 4. -/
def failPort (vf : Nat) (p : QRec → Bool) (s : State) (port : Nat) : State :=
  if (getPort s port).owner = some vf then
    ((uncheckedRecords (getPort s port)).filter p).foldl (fun acc r => endRecord acc port r.bits 4 0)
      (modPort s port (dropRecords p))
  else s

/-- R196, R236: a load that failed. -/
def failRecords (s : State) (vf : Nat) (p : QRec → Bool) : State := (List.range 64).foldl (failPort vf p) s

/-- R196, R236: the loader makes resident the code object that a port's head record waits for, or completes the records that
name it with status 4. An unload that was requested before the record was enqueued comes first (R237). -/
def execCodeObjectLoad (port : Nat) (s : State) : Host.Outcome State Fault Refusal :=
  let p := getPort s port
  .next (match p.owner, p.queue with
    | some vf, q :: _ =>
      if p.checked.isSome then s
      else match recIndex q.bits with
        | none => failRecords s vf fun r => recIndex r.bits == none
        | some index =>
          if (findModule s vf index).isSome ∨ unloadHolds s vf index q.num = true then s
          else (loadModule s vf index).getD (failRecords s vf (namesModule index))
    | _, _ => s)

/-- R237: an unload requested through UNLOAD, after those of the same module that are requested already. -/
def execModuleUnloadRequest (vf index : Nat) (s : State) : Host.Outcome State Fault Refusal :=
  .next (modTenant { s with uidNext := s.uidNext + 1 } vf fun t => { t with unload := t.unload ++ [(index, s.uidNext)] })

/-- R237: whether a launch, or a record enqueued before the request, still names a module. -/
def moduleNeeded (s : State) (vf index req : Nat) : Bool :=
  (s.launches.any fun l => l.vf == vf && recIndex l.record == some index) ||
    (List.range 64).any fun port => (getPort s port).owner == some vf &&
      (uncheckedRecords (getPort s port)).any fun r => namesModule index r && decide (r.num < req)

/-- R237: the cached translations of a module's sections. -/
def dropMaps (l : List TlbEntry) (c : List TlbEntry) : List TlbEntry :=
  c.filter fun e => !l.any fun m => m.asid == e.asid && decide (m.base < e.base + e.size) && decide (e.base < m.base + m.size)

/-- R237: a module's sections unmapped, its translations and its lines invalidated. -/
def removeModule (s : State) (m : Module) : State :=
  let secs := (m.maps.filter fun e => decide (m.text.toNat ≤ e.base) && decide (e.base < m.text.toNat + m.size)).flatMap fun e =>
    (List.range 512).map fun k => homeIdx s.place (entryPA e.leaf.toNat * 2 ^ 16 + 128 * k) / 128
  let s1 := { s with
    modules := s.modules.filter fun x => !(x.vf == m.vf && x.index == m.index)
    cores := s.cores.map fun e => (e.1, { e.2 with tlb := dropMaps m.maps e.2.tlb })
    dies := s.dies.map fun e => (e.1, { e.2 with tlb := dropMaps m.maps e.2.tlb }) }
  dropCode s1 secs

/-- R237: the first requested unload of a module ends once nothing needs it any more. -/
def execModuleUnload (vf index : Nat) (s : State) : Host.Outcome State Fault Refusal :=
  .next (match (getTenant s vf).unload.find? fun e => e.1 == index with
    | none => s
    | some e =>
      if moduleNeeded s vf index e.2 then s
      else
        let s1 := modTenant s vf fun t => { t with unload := t.unload.erase e }
        match findModule s vf index with
        | none => s1
        | some m => removeModule s1 m)

end Sys2Proof.Machine
end

