-- ==== Sys2Proof/Machine/SpecialRegs.lean ====
section
/-! DEFINITION. The special registers (R15, R16, R39 to R45) and SYSRD, SYSWR, SETFMT, SETGANG (R307 to R310). -/

namespace Sys2Proof.Machine

/-- R39: whether an index is listed. -/
def sysListed (i : Nat) : Bool :=
  decide (i ≤ 0x0C) || i == 0x0E || i == 0x0F || (decide (0x10 ≤ i) && decide (i ≤ 0x1B)) ||
    (decide (0x20 ≤ i) && decide (i ≤ 0x30))

/-- R39: whether a listed register may be written. -/
def sysWritable (i : Nat) : Bool :=
  i == 0x02 || i == 0x03 || i == 0x0B || i == 0x0E || (decide (0x20 ≤ i) && decide (i ≤ 0x30))

/-- R16 GROUPID. -/
def groupId (g : Group) : Nat := g.slot % 32 + g.part % 4 * 32 + (if g.fown then 128 else 0)

/-- R16: an extent as GRIDDIM gives it. -/
def satDim (x : Nat) : Nat := min x 0x1FFFFF

/-- R16 GRIDDIM. -/
def gridDim (b : Block) : Nat :=
  let x := b.grid.1
  let y := b.grid.2.1
  let z := b.grid.2.2
  satDim x + satDim y * 2 ^ 21 + satDim z * 2 ^ 42 +
    (if x > 0x1FFFFF ∨ y > 0x1FFFFF ∨ z > 0x1FFFFF then 2 ^ 63 else 0)

/-- R42 CLOCK as a core of a die reads it. -/
def clockRead (s : State) : Nat :=
  max s.g.lastClock (s.clock + (Config.clockSkew (dieOf s.blk.core)).val)

/-- R44 LSMODE. -/
def lsmodeRead (b : Block) : Nat :=
  ((List.range (min b.lstore 16)).map fun i => bankMode b i * 4 ^ i).foldl (· + ·) 0

/-- R43 FEATn. -/
def featRead (n : Nat) : Nat := if n = 0 then 2 ^ 64 - 1 else if n = 1 then 2 ^ 32 - 1 else 0

/-- R309: a counter as SYSRD returns it, its own ISSUE event included. -/
def pmcRead (g : Group) (i : Nat) : BitVec 64 := mget 0 (countEvt evIssue 1 g).pmc i

/-- R45: PMCSEL as it reads. -/
def pmcselRead (g : Group) : Nat := g.pmcSel.toNat + (mget 0 g.pmcProg g.pmcSel.toNat).toNat / 2 * 16 +
  (mget 0 g.pmcProg g.pmcSel.toNat).toNat % 2 * 2 ^ 12

/-- R39, R308: the value of the special register at an index, zero-extended. -/
def sysValue (s : State) (i : Nat) : SWord :=
  if i = 0x00 then s.ctx.exec.zeroExtend 64
  else if i = 0x01 then 0xFFFFFFFF
  else if i = 0x02 then s.ctx.fmt.zeroExtend 64
  else if i = 0x03 then s.ctx.gang
  else if i = 0x04 then BitVec.ofNat 64 (groupId s.g)
  else if i = 0x05 then s.blk.idx.1.zeroExtend 64
  else if i = 0x06 then s.blk.idx.2.1.zeroExtend 64
  else if i = 0x07 then s.blk.idx.2.2.zeroExtend 64
  else if i = 0x08 then BitVec.ofNat 64 (gridDim s.blk)
  else if i = 0x09 then BitVec.ofNat 64 (s.blk.spanPos.toNat + 4 * s.blk.spanCode.toNat)
  else if i = 0x0A then BitVec.ofNat 64 (s.blk.core % 256)
  else if i = 0x0B then s.ctx.status
  else if i = 0x0C then BitVec.ofNat 64 (clockRead s)
  else if i = 0x0E then BitVec.ofNat 64 (lsmodeRead s.blk)
  else if i = 0x0F then s.ctx.fstat
  else if 0x10 ≤ i ∧ i ≤ 0x17 then BitVec.ofNat 64 (featRead (i - 0x10))
  else if i = 0x18 then s.ctx.trapInfo
  else if i = 0x19 then s.ctx.trapPc
  else if i = 0x1A then s.ctx.trapVa
  else if i = 0x1B then s.ctx.trapVah
  else if 0x20 ≤ i ∧ i ≤ 0x2F then pmcRead s.g (i - 0x20)
  else if i = 0x30 then BitVec.ofNat 64 (pmcselRead s.g)
  else 0

/-- R308, R98, R116, R41, R44, R45: whether a value may be written to a writable register. -/
def sysLegal (s : State) (i : Nat) (x : SWord) : Bool :=
  if i = 0x02 then fmtLegal x
  else if i = 0x03 then gangLegal x
  else if i = 0x0B then statusLegal x
  else if i = 0x0E then lsmodeLegal s.blk.lstore x
  else if i = 0x30 then pmcselLegal x
  else true

/-- R44, R135, R136: LSMODE written: each bank whose mode differs takes its new one and starts a switch, after those already
requested for it. -/
def writeLsmode (b : Block) (x : SWord) : Block :=
  (List.range b.lstore).foldl (fun b i =>
    let m := BitVec.ofNat 2 (x.toNat / 4 ^ i)
    if m.toNat = bankMode b i then b
    else { b with lsmode := mset 1 b.lsmode i m, switches := b.switches ++ [(i, m)] }) b

/-- R135: the banks of the core that a write of LSMODE switches. -/
def switchedBanks (b : Block) (x : SWord) : List Nat :=
  (List.range b.lstore).filterMap fun i => if x.toNat / 4 ^ i % 4 = bankMode b i then none else b.banks[i]?

/-- R45: PMCSEL written: counter CTR is programmed. -/
def writePmcsel (g : Group) (x : SWord) : Group :=
  { g with
    pmcSel := BitVec.ofNat 4 x.toNat
    pmcProg := mset 0 g.pmcProg (x.toNat % 16) (BitVec.ofNat 9 (x.toNat / 16 % 256 * 2 + x.toNat / 2 ^ 12 % 2)) }

/-- R308: a legal write of a writable register. -/
def sysWrite (s : State) (i : Nat) (x : SWord) : State :=
  if i = 0x02 then modCtx s fun c => { c with fmt := x.truncate 32 }
  else if i = 0x03 then modCtx s fun c => { c with gang := x }
  else if i = 0x0B then modCtx s fun c => { c with status := x }
  else if i = 0x0E then
    modBlk (dropWays s s.blk.core (switchedBanks s.blk x)) fun b => writeLsmode b x
  else if i = 0x30 then modG s fun g => writePmcsel g x
  else modG s fun g => { g with pmc := mset 0 g.pmc (i - 0x20) x }

/-- R223: a written special register is poisoned no longer. -/
def cleanSpecial (i : Nat) (g : Group) : Group := { g with poisonS := g.poisonS.filter fun e => e.1 != specialKey i }

/-- R308: the body of a write: ILL where the register may not hold the value. -/
def sysWriteBody (i : Nat) (b : BitVec 6) (rc : Ctx) (s : State) : Except Halt State :=
  if sysLegal s i (rc.readS b.toNat) then .ok (modG (sysWrite s i (rc.readS b.toNat)) (cleanSpecial i))
  else .error .ill

/-- Whether a write is illegal whatever may be read early: an index that is not writable, or, with checking on, a value. -/
def sysWriteIll (s : State) (i : Nat) (b : BitVec 6) : Bool :=
  !sysWritable i || (statusChk s.ctx.status && !sysLegal s i (s.ctx.readS b.toNat))

/-- R308, R42, R223: the body of a read: CLOCK never goes back, and a poisoned register raises SOFTERR. -/
def sysrdBody (index : BitVec 8) (d : BitVec 6) (s : State) : Except Halt State :=
  if mget false s.g.poisonS (specialKey index.toNat) then .error (.trap ⟨12, 2, 0, 0, none⟩)
  else
    let s1 := if index = 0x0C then modG s fun g => { g with lastClock := clockRead s } else s
    .ok (modCtx s1 fun c => c.writeS d.toNat (sysValue s index.toNat))

/-- R308 SYSRD; a read of EXEC closes a window. -/
def execSysrd (index : BitVec 8) (d : BitVec 6) (s : State) : Host.Outcome State Fault Refusal :=
  issue (.sysrd index d)
    { size := 4, writes := [(.scalar, d.toNat)], furrow := 1, closes := index == 0, ill := !sysListed index.toNat }
    (fun _ s => sysrdBody index d s) s

/-- R308 SYSWR. -/
def execSyswr (index : BitVec 8) (b : BitVec 6) (s : State) : Host.Outcome State Fault Refusal :=
  issue (.syswr index b)
    { size := 4, reads := [(.scalar, b.toNat)], closes := true, ill := sysWriteIll s index.toNat b }
    (sysWriteBody index.toNat b) s

/-- R308 SETFMT: SYSWR to FMT; it issues in a window. -/
def execSetfmt (h : BitVec 6) (s : State) : Host.Outcome State Fault Refusal :=
  issue (.setfmt h) { size := 4, reads := [(.scalar, h.toNat)], ill := sysWriteIll s 2 h } (sysWriteBody 2 h) s

/-- R308 SETGANG: SYSWR to GANG. -/
def execSetgang (h : BitVec 6) (s : State) : Host.Outcome State Fault Refusal :=
  issue (.setgang h) { size := 4, reads := [(.scalar, h.toNat)], closes := true, ill := sysWriteIll s 3 h }
    (sysWriteBody 3 h) s

end Sys2Proof.Machine
end

