-- ==== Sys2Proof/Machine/Context.lean ====
section
/-! DEFINITION. The context areas of saved groups (R54, R55), blocks (R220) and furrows (R92), byte by byte, and what a restore reads
back from them (R221). They lie in device memory that no address space maps, under the tenant's key, so no access reaches them
(log entry 32). -/

namespace Sys2Proof.Machine

/-- R54: the handles that a group of a block has issued and that are live. -/
def liveHandles (b : Block) (slot : Nat) : List SWord :=
  (b.cmds.filter fun k => k.slot == slot).map fun k => handleOf b.spanPos k.kind k.gen k.num

/-- R54: the context area of a group of a block. -/
def groupArea (b : Block) (g : Group) : List (Nat × Byte) :=
  let c := g.ctx
  let head := 1 + b.regs / 8 * 2 ^ 8 + c.stack.length * 2 ^ 16 + (if c.handler then 2 ^ 32 else 0) + (if g.fown then 2 ^ 33 else 0)
  let hs := liveHandles b g.slot
  let m := areaPuts []
    [(0, leBytes 16 head), (0x10, slotBytes c.pc), (0x20, leBytes 4 c.exec.toNat), (0x24, leBytes 4 c.fmt.toNat),
      (0x28, leBytes 1 (bitsNat c.c)), (0x30, leBytes 8 c.status.toNat), (0x38, leBytes 8 c.gang.toNat),
      (0x40, leBytes 8 c.trapInfo.toNat), (0x48, leBytes 8 c.trapPc.toNat), (0x50, leBytes 8 c.trapVa.toNat),
      (0x58, leBytes 8 c.trapVah.toNat), (0x420, leBytes 32 (bitsNat c.released)), (0x440, leBytes 32 (bitsNat c.fillPend)),
      (0x460, leBytes 8 hs.length)]
  areaPuts m ((g.pmcProg.map fun e => (0x60 + 2 * e.1, leBytes 2 e.2.toNat)) ++
    (g.pmc.map fun e => (0x80 + 8 * e.1, leBytes 8 e.2.toNat)) ++
    (c.s.map fun e => (0x100 + 8 * e.1, leBytes 8 e.2.toNat)) ++ (c.a.map fun e => (0x300 + 16 * e.1, slotBytes e.2)) ++
    (c.p.map fun e => (0x400 + 4 * e.1, leBytes 4 e.2.toNat)) ++
    (hs.zipIdx.map fun x => (0x500 + 8 * x.2, leBytes 8 x.1.toNat)) ++
    (c.stack.reverse.zipIdx.map fun x => (0xD00 + 32 * x.2, entryBytes x.1)) ++
    ((c.v.filter fun e => !c.isReleased (e.1 / 32)).map fun e => (0x2D00 + 4 * e.1, leBytes 4 e.2.toNat)))

/-- R54: a stack of n entries as a restore finds it: the entries beyond the newest 16 have not left the area. -/
def stackFrom (m : List (Nat × Byte)) (n : Nat) (old : List StackEntry) : List StackEntry :=
  let deep := (old.drop 16).reverse
  ((List.range n).map fun i => (deep[i]?).getD (entryFrom m (0xD00 + 32 * i))).reverse

/-- R54, R55: a group as a restore reads it back; registers in the release mask are zero, and so without poison. -/
def groupFrom (m : List (Nat × Byte)) (regs : Nat) (g : Group) : Group :=
  { g with
    poisonV := g.poisonV.filter fun e => !mget false (natBits 256 (areaNat m 0x420 32)) (e.1 / 32)
    pmcProg := (areaWords m 0x60 2 16).map fun e => (e.1, BitVec.ofNat 9 e.2)
    pmc := (areaWords m 0x80 8 16).map fun e => (e.1, BitVec.ofNat 64 e.2)
    ctx := { g.ctx with
      pc := BitVec.ofNat 72 (areaNat m 0x10 9)
      exec := BitVec.ofNat 32 (areaNat m 0x20 4)
      fmt := BitVec.ofNat 32 (areaNat m 0x24 4)
      c := natBits 7 (areaNat m 0x28 1)
      status := BitVec.ofNat 64 (areaNat m 0x30 8)
      gang := BitVec.ofNat 64 (areaNat m 0x38 8)
      trapInfo := BitVec.ofNat 64 (areaNat m 0x40 8)
      trapPc := BitVec.ofNat 64 (areaNat m 0x48 8)
      trapVa := BitVec.ofNat 64 (areaNat m 0x50 8)
      trapVah := BitVec.ofNat 64 (areaNat m 0x58 8)
      handler := decide (areaNat m 0 16 / 2 ^ 32 % 2 = 1)
      released := natBits 256 (areaNat m 0x420 32)
      fillPend := natBits 256 (areaNat m 0x440 32)
      s := (areaWords m 0x100 8 64).map fun e => (e.1, BitVec.ofNat 64 e.2)
      a := (areaWords m 0x300 16 16).map fun e => (e.1, BitVec.ofNat 72 e.2)
      p := (areaWords m 0x400 4 7).map fun e => (e.1, BitVec.ofNat 32 e.2)
      stack := stackFrom m (areaNat m 0 16 / 2 ^ 16 % 2 ^ 9) g.ctx.stack
      v := (areaWords m 0x2D00 4 (32 * regs)).map fun e => (e.1, BitVec.ofNat 32 e.2) } }

/-- R184, R220: a command state as an engine record codes it. -/
def stateCode : CmdState → Nat
  | .pending => 0
  | .faultedRetry => 1
  | .done => 2
  | .cancelled => 3
  | .rejected => 4

/-- The same, read back. -/
def codeState (n : Nat) : CmdState :=
  if n = 0 then .pending else if n = 1 then .faultedRetry else if n = 2 then .done else if n = 3 then .cancelled else .rejected

/-- R220: the bytes of a command in its engine record: those read at issue, padded to 16; of SPILL, FILL and XPFD their encoding
and address. The 9 bytes of that address do not fit the 8 that the layout gives them; the model keeps the top byte beside (log
entry 32). -/
def cmdBytes (k : Cmd) : List Byte :=
  if 5 ≤ k.kind.toNat then leBytes 8 k.insn.toNat ++ leBytes 8 (k.addr.toNat % 2 ^ 64)
  else k.bytes ++ List.replicate ((16 - k.bytes.length % 16) % 16) 0

/-- R220: an engine record. -/
def cmdRecord (k : Cmd) : List Byte :=
  leBytes 8 (k.num + k.gen.toNat * 2 ^ 8 + k.kind.toNat * 2 ^ 24 + stateCode k.state * 2 ^ 27) ++ leBytes 8 k.stop ++ cmdBytes k

/-- R220, R221: a command as a restore reads it back from its record. -/
def cmdFrom (m : List (Nat × Byte)) (off : Nat) (k : Cmd) : Cmd :=
  { k with
    num := areaNat m off 1
    gen := BitVec.ofNat 16 (areaNat m (off + 1) 2)
    kind := BitVec.ofNat 3 (areaNat m (off + 3) 1)
    state := codeState (areaNat m (off + 3) 1 / 8 % 8)
    stop := areaNat m (off + 8) 8
    bytes := if 5 ≤ k.kind.toNat then k.bytes
      else (List.range k.bytes.length).map fun i => mget 0 m (off + 16 + i) }

/-- R220: the commands of a block as a restore reads them back, from an offset on. -/
def cmdsFrom (m : List (Nat × Byte)) : Nat → List Cmd → List Cmd
  | _, [] => []
  | off, k :: t => cmdFrom m off k :: cmdsFrom m (off + (cmdRecord k).length) t

/-- R220: where the accumulator rows, the local store and the engine records of a block stand. -/
def accBase : Nat := 0x15000

/-- The local store in the area of a block. -/
def lsBase (b : Block) : Nat := accBase + b.accrows * 512

/-- The engine records in the area of a block. -/
def engBase (b : Block) : Nat := lsBase b + b.lstore * 32768

/-- R220: the record of a latch entry: GANG and the LC encoding of the first arrival. -/
def firstBytes (x : Latch) : List Byte :=
  match x.first with
  | some r => leBytes 8 r.1.toNat ++ leBytes 8 (encode (.mcube r.2))
  | none => leBytes 16 0

/-- R220: the record of a latch entry read back. -/
def firstFrom (m : List (Nat × Byte)) (off : Nat) : Option (BitVec 64 × LcF) :=
  match decodeWord 8 (areaNat m (off + 8) 8) with
  | some (.mcube f) => some (BitVec.ofNat 64 (areaNat m off 8), f)
  | _ => none

/-- R220: the header of a block's area. -/
def blockHeader (b : Block) : Nat :=
  1 + b.groups * 2 ^ 8 + b.lstore * 2 ^ 16 + b.accrows / 16 * 2 ^ 20 + b.fpool / 128 * 2 ^ 24 + b.spanCode.toNat * 2 ^ 30 +
    b.spanPos.toNat * 2 ^ 32 + bitsNat (b.furrows.map fun e => (34 + e.1, true)) + b.pstart * 2 ^ 38

/-- R220: the fields of a block's area below 0x1000. `exited` are its groups that have exited, `span` the blocks of its span. -/
def blockFields (b : Block) (exited : Nat) (span : List Block) : List (Nat × List Byte) :=
  [(0, leBytes 8 (blockHeader b)), (0x8, leBytes 4 exited), (0xC, leBytes 4 b.cmds.length), (0x10, leBytes 8 (lsmodeRead b)),
    (0x18, leBytes 8 (match b.frame with
      | some i => i
      | none => 2 ^ 64 - 1))] ++
    (b.bar.map fun e => (0x20 + 4 * e.1, leBytes 4 e.2.toNat)) ++ (b.sbar.map fun e => (0x60 + 4 * e.1, leBytes 4 e.2.toNat)) ++
    (b.latch.map fun e => (0x80 + 32 * e.1, leBytes 4 e.2.arrived.toNat ++ leBytes 4 e.2.seq.toNat ++ firstBytes e.2)) ++
    (b.slatch.map fun e => (0x110 + 48 * e.1, leBytes 8 e.2.seq.toNat ++ firstBytes e.2)) ++
    (span.flatMap fun x => x.slatch.map fun e => (0x100 + 48 * e.1 + 4 * x.spanPos.toNat, leBytes 4 e.2.arrived.toNat)) ++
    (b.fifo.map fun e => (0x1C0 + 4 * e.1, leBytes 4 e.2.length)) ++ (b.gens.map fun e => (0x200 + 2 * e.1, leBytes 2 e.2.toNat))

/-- R220: the entries of a FIFO bank, head first. -/
def fifoFields (base : Nat) (l : List (List Lane)) : List (Nat × List Byte) :=
  l.zipIdx.flatMap fun x => x.1.zipIdx.map fun y => (base + 128 * x.2 + 4 * y.2, leBytes 4 y.1.toNat)

/-- R92, R94: the part of the area of a block that holds the contexts of the furrows kept with it; they were written there as
each was suspended. -/
def furrowBytes (b : Block) (m : List (Nat × Byte)) : List (Nat × Byte) :=
  m.filter fun e => b.furrows.any fun x => areaPart 32 e.1 == 1 + x.1

/-- R220: the context area of a block, which holds already what is in `old` of its furrows. -/
def blockArea (b : Block) (exited : Nat) (span : List Block) (old : List (Nat × Byte)) : List (Nat × Byte) :=
  areaPuts (furrowBytes b old) (blockFields b exited span ++
    (b.acc.map fun e => (accBase + 4 * e.1, leBytes 4 e.2.toNat)) ++ (b.scratch.map fun e => (lsBase b + e.1, [e.2])) ++
    (b.fifo.flatMap fun e => fifoFields (lsBase b + 32768 * e.1) e.2) ++ [(engBase b, b.cmds.flatMap cmdRecord)])

/-- R220: the entries of the FIFO bank i read back. -/
def fifoFrom (m : List (Nat × Byte)) (b : Block) (i n : Nat) : List (List Lane) :=
  (List.range n).map fun j => (List.range 32).map fun l =>
    BitVec.ofNat 32 (areaNat m (lsBase b + 32768 * i + 128 * j + 4 * l) 4)

/-- R220, R221: a block as a restore reads it back from its area and, for the arrivals of the span, from that of position 0. -/
def blockFrom (m m0 : List (Nat × Byte)) (b : Block) : Block :=
  let fifos := areaWords m 0x1C0 4 15
  { b with
    frame := if areaNat m 0x18 8 = 2 ^ 64 - 1 then none else some (areaNat m 0x18 8)
    pstart := areaNat m 0 8 / 2 ^ 38 % 4
    lsmode := (List.range b.lstore).foldl (fun l i => mset 1 l i (BitVec.ofNat 2 (areaNat m 0x10 8 / 4 ^ i))) []
    bar := (areaWords m 0x20 4 16).map fun e => (e.1, BitVec.ofNat 32 e.2)
    sbar := (areaWords m 0x60 4 4).map fun e => (e.1, BitVec.ofNat 32 e.2)
    latch := b.latch.map fun e => (e.1, ⟨BitVec.ofNat 32 (areaNat m (0x80 + 32 * e.1) 4),
      BitVec.ofNat 16 (areaNat m (0x84 + 32 * e.1) 2), firstFrom m (0x88 + 32 * e.1)⟩)
    slatch := b.slatch.map fun e => (e.1, ⟨BitVec.ofNat 32 (areaNat m0 (0x100 + 48 * e.1 + 4 * b.spanPos.toNat) 4),
      BitVec.ofNat 16 (areaNat m0 (0x110 + 48 * e.1) 2), firstFrom m (0x118 + 48 * e.1)⟩)
    gens := (areaWords m 0x200 2 256).map fun e => (e.1, BitVec.ofNat 16 e.2)
    fifo := fifos.map fun e => (e.1, fifoFrom m b e.1 e.2)
    acc := (areaWords m accBase 4 (128 * b.accrows)).map fun e => (e.1, BitVec.ofNat 32 e.2)
    scratch := ((m.filter fun e => decide (lsBase b ≤ e.1) && decide (e.1 < engBase b)).map fun e => (e.1 - lsBase b, e.2)).filter
      fun e => !fifos.any fun x => x.1 == e.1 / 32768
    cmds := cmdsFrom m (engBase b) b.cmds }

/-- R218 step 7, R55, R220: a block and its groups written to their context areas. -/
def storeAreas (s : State) (uid : Nat) : State :=
  let b := findBlk s uid
  let gs := groupsOf s uid
  let exited := bitsNat (gs.map fun g => (g.slot, g.run == .exited))
  let m := (areaKey uid 32, blockArea b exited (spanBlocks s b) (mget [] s.areas (areaKey uid 32))) ::
    gs.map fun g => (areaKey uid g.slot, groupArea b g)
  let s1 := { s with areas := m.foldl (fun l e => mput l e.1 e.2) s.areas }
  let s2 := gs.foldl (fun acc g => tagParts acc uid g.slot b.vf [0]) s1
  tagParts s2 uid 32 b.vf (0 :: ((List.range 4).filter fun p => !b.furrows.any fun x => x.1 == p).map (1 + ·))

/-- The areas of some blocks and their groups are free, but for the furrow regions whose furrows have not re-entered (R93). -/
def freeAreas (s : State) (us : List Nat) : State :=
  let kept := fun (uid part : Nat) => (findBlk s uid).furrows.any fun x => part == 1 + x.1
  { s with
    areas := (s.areas.map fun e =>
      if !hasNat us (e.1 / 33) then e
      else (e.1, if e.1 % 33 = 32 then furrowBytes (findBlk s (e.1 / 33)) e.2 else [])).filter fun e => !e.2.isEmpty
    areaTags := s.areaTags.filter fun e =>
      !hasNat us (e.1 / 264) || (e.1 / 8 % 33 == 32 && kept (e.1 / 264) (e.1 % 8)) }

/-- R217, R190: a command whose MEMF was answered while its block was saved: it goes on, or has ended as one that a PROT stops. -/
def answerCmd (uid : Nat) (s : State) (k : Cmd) : State :=
  if k.state ≠ .faultedRetry ∨ k.fault.isSome = true then s
  else if k.protVa.isSome then endCmd s uid k .cancelled
  else modCmd s uid k.num fun x => { x with state := .pending }

/-- R55, R221 step 2: a block and its groups read back from their areas; stack entries that belong into hardware come from
there. -/
def loadAreas (s : State) (uid : Nat) : State :=
  let b := findBlk s uid
  let size := fun (b : Block) => engBase b + sumOf (b.cmds.map fun k => (cmdRecord k).length)
  let m := areaView s uid 32 0 (size b)
  let m0 := match spanMember s b 0 with
    | some x => areaView s x.uid 32 0 (size x)
    | none => m
  let s1 := updBlk s uid (blockFrom m m0)
  let s2 := modGroups s1 fun g =>
    if g.uid = uid then placeDeep s1 (groupFrom (areaView s uid g.slot 0 0xC000) b.regs g) else g
  (findBlk s2 uid).cmds.foldl (answerCmd uid) s2

end Sys2Proof.Machine
end

