-- ==== Sys2Proof/Machine/Dispatcher.lean ====
section
/-! DEFINITION. The dispatcher: latching blocks (R19, R20, R23, R25, R199, R200, R207), admission (R21, R22), completion (R24, R31,
R206), pre-emption, save and restore (R203, R218 to R221), the power governor (R208). -/

namespace Sys2Proof.Machine

/-- R203: the priority class of what stands at a port's front. -/
def frontClass (s : State) (port : Nat) : Nat :=
  match frontOf s port with
  | .idle => 3
  | .latch u => (findBlk s u).cls.toNat
  | .restore us => ((us.head?.map (findBlk s)).getD Block.none).cls.toNat
  | .fresh key => match findLaunch s key with
    | none => 3
    | some l => recField l.record 29 1 % 4

/-- The cores that a choice takes. -/
def choiceCores (c : Choice) : List Nat :=
  match c with
  | .at l => l.map (·.1)
  | _ => []

/-- R199: the cores that a port's front would take now, none where it cannot be placed. -/
def wants (s : State) (port : Nat) : Option (List Nat) :=
  match frontOf s port with
  | .idle => none
  | .latch u => some [(findBlk s u).core]
  | _ => match frontDemand s port with
    | none => none
    | some d => match choosePlace s port d with
      | .at l => some (l.map (·.1))
      | _ => none

/-- R199: the ports that may be served: a block can be placed, on cores that take one in this cycle. -/
def readyPorts (s : State) (served taken : List Nat) : List Nat :=
  (List.range 64).filter fun p => !hasNat served p && match wants s p with
    | none => false
    | some cs => cs.all fun c => !hasNat taken c

/-- R199: the place of a port in the order of service: by class, then in the round-robin order of the class. -/
def servedKey (s : State) (port : Nat) : Nat :=
  64 * frontClass s port + (port + 64 - mget 0 s.nextPort (frontClass s port) % 64) % 64

/-- R199: of several ports, the one served first. -/
def servedFirst (s : State) : List Nat → Option Nat
  | [] => none
  | p :: t => match servedFirst s t with
    | none => some p
    | some q =>
      some (if servedKey s q < servedKey s p then q else p)

/-- R199: the dispatcher's cycle, started anew where no port can be served in the one under way. -/
def dispatchCycle (s : State) : State :=
  if (readyPorts s s.served s.taken).isEmpty then { s with served := [], taken := [] } else s

/-- R199: whether it is a port's turn in the cycle. -/
def hasTurn (s : State) (port : Nat) : Bool := servedFirst s (readyPorts s s.served s.taken) == some port

/-- R199: a port of a class served: the next of its class comes first in the round. -/
def markServed (s : State) (cls port : Nat) (cores : List Nat) : State :=
  { s with served := port :: s.served, taken := cores ++ s.taken, nextPort := mset 0 s.nextPort cls ((port + 1) % 64) }

/-- R16, R25: the block index of a linear index. -/
def blockIndex (g : Nat × Nat × Nat) (i : Nat) : BitVec 32 × BitVec 32 × BitVec 32 :=
  (BitVec.ofNat 32 (i % g.1), BitVec.ofNat 32 (i / g.1 % g.2.1), BitVec.ofNat 32 (i / (g.1 * g.2.1)))

/-- R193, R231: the block of a launch at a span position, on a core with its starting partition. DESIGN CHOICE: R17, R20 and R44
give the number of its banks and their order, not which of the free banks they are; the model takes those of the lowest numbers,
and the ways of these lose their sectors (log entry 46). -/
def newBlock (s : State) (l : Launch) (pos core pstart : Nat) : Block :=
  let r := l.record
  { Block.none with
    uid := s.uidNext + pos
    port := l.port
    launch := l.key
    lid := BitVec.ofNat 32 (recLid r)
    vf := l.vf
    core := core
    idx := blockIndex (recGrid r) (l.next + pos)
    grid := recGrid r
    groups := recField r 24 1
    regs := 8 * recField r 25 1
    lstore := recField r 26 1
    accrows := 16 * recField r 27 1
    fpool := 128 * recField r 28 1
    spanCode := BitVec.ofNat 2 (recField r 29 1 / 32)
    spanPos := BitVec.ofNat 2 pos
    span := s.uidNext
    pstart := pstart
    cls := BitVec.ofNat 2 (recField r 29 1)
    energy := BitVec.ofNat 3 (recField r 29 1 / 4)
    entry := l.text + BitVec.ofNat 72 l.kernel.entry.toNat
    trapEntry := if l.kernel.trape = 0xFFFFFFFF then none else some (l.text + BitVec.ofNat 72 l.kernel.trape.toNat)
    arg := BitVec.ofNat 72 (recField r 32 9)
    stack := l.kernel.stack.toNat
    phase := if pos = 0 then .latched else .reserved
    recAddr := l.recAddr
    banks := (freeBanks s core).take (recField r 26 1) }

/-- The blocks of a span, from a position on, on their cores. -/
def newBlocks (s : State) (l : Launch) : Nat → List (Nat × Nat) → List Block
  | _, [] => []
  | pos, (core, p) :: t => newBlock s l pos core p :: newBlocks s l (pos + 1) t

/-- R137: the banks that blocks take leave their cores' L1. -/
def takeBanks (s : State) (l : List Block) : State := l.foldl (fun acc b => dropWays acc b.core b.banks) s

/-- R23, R200: the next span of a launch latched: its first block, with the resources of every member reserved. The record leaves
the queue with its last block. -/
def latchSpan (s : State) (port : Nat) (l : Launch) (cores : List (Nat × Nat)) : State :=
  let n := cores.length
  let new := newBlocks s l 0 cores
  let s1 := takeBanks { s with blks := s.blks ++ new, uidNext := s.uidNext + n } new
  let s2 := updLaunch s1 l.key fun x => { x with next := x.next + n, dispatched := x.dispatched + n }
  let s3 := dropDeferral s2 port fun x => x == .fresh l.key
  if gridSize (recGrid l.record) ≤ l.next + n then popHead s3 port else s3

/-- R199, R207: a port's front latches at most one block, in its turn; a block that fits on no die's headroom is deferred. -/
def execDispatchLatch (port : Nat) (s : State) : Host.Outcome State Fault Refusal :=
  .next (let s0 := dispatchCycle s
    match frontOf s0 port with
    | .idle => s
    | .restore _ => s
    | .latch u =>
      if hasTurn s0 port then
        markServed (updBlk s0 u fun b => { b with phase := .latched }) (frontClass s0 port) port [(findBlk s0 u).core]
      else s
    | .fresh key => match findLaunch s0 key, frontDemand s0 port with
      | some l, some d => match choosePlace s0 port d with
        | .noRoom => s
        | .deferred => markDeferred s port
        | .at cores =>
          if hasTurn s0 port then markServed (latchSpan s0 port l cores) (frontClass s0 port) port (cores.map (·.1)) else s
      | _, _ => s)

/-- R207: a block deferred for 100 µs (150,000 counts of the reference time base) is eligible and takes a reservation. -/
def execDeferralEligibility (port : Nat) (s : State) : Host.Outcome State Fault Refusal :=
  .next (if s.deferred.any fun x => x.port == port && ripe s x then ripen s else s)

/-- R22: the lowest-numbered free stack frame of a function. -/
def freeFrame (s : State) (vf : Nat) : Option Nat :=
  (List.range (getFunc s vf).stkcount.toNat).find? fun i => !(allBlocks s).any fun b => b.vf == vf && b.frame == some i

/-- R22: the stack base of a group slot in a frame. -/
def stackBase (f : Func) (frame slot : Nat) : Addr :=
  f.stkbase + BitVec.ofNat 72 (32 * f.stkstride.toNat * frame + slot * f.stkstride.toNat)

/-- R22: what zeroing the stacks of a block meets, with the group slot, or nothing. DESIGN CHOICE: R22 does not say which counts
where a MEMF stands on one group's stack and a PROT on another's; the model waits for the MEMF first, and among several of a
kind it names the lowest slot (log entry 46). -/
def stackBlocked (s : State) (b : Block) (frame : Nat) : Option (Nat × DevAcc) :=
  let l := (List.range b.groups).map fun j => (j, devRange s b.core b.vf true (stackBase (getFunc s b.vf) frame j) b.stack)
  match l.find? (fun x => match x.2 with
    | .memf _ _ _ => true
    | _ => false) with
  | some x => some x
  | none => l.find? fun x => x.2 ≠ .ok

/-- R21, R22: zeros written over the stacks of a block. -/
def zeroStacks (s : State) (b : Block) (frame : Nat) : State :=
  (List.range b.groups).foldl (fun acc j =>
    (deviceWrite acc b.core b.vf (stackBase (getFunc s b.vf) frame j) (List.replicate b.stack 0)).getD acc) s

/-- R21: the start values of a group of a block. -/
def startGroup (s : State) (b : Block) (j : Nat) : Group :=
  { Group.none with
    uid := b.uid
    slot := j
    part := (b.pstart + j) % 4
    run := .ready
    ctx := { Ctx.start with
      pc := b.entry
      a := mset 0 (msetAll 0 [] 0 [b.arg, b.recAddr]) 15 (match b.frame with
        | some i => stackBase (getFunc s b.vf) i j + BitVec.ofNat 72 b.stack
        | none => 0) } }

/-- R89: a group parked where its partition runs a furrow. -/
def parkBeside (s : State) (core : Nat) (g : Group) : Group :=
  match (getPart s (partKey core g.part)).furrow with
  | some f => if f.suspended || g.isAt f.uid f.slot then g else { g with parked := true }
  | none => g

/-- R21: a group enters the active set of its partition where that has space, else the pending set. -/
def enterSets (core : Nat) (s : State) (g : Group) : State :=
  let k := partKey core g.part
  if (getPart s k).active.length < 8 then enterActive s k (g.uid, g.slot)
  else modPart s k fun p => { p with pending := p.pending ++ [(g.uid, g.slot)] }

/-- R21, R23: the blocks of a span start together once the last of them is admitted. -/
def startSpan (s : State) (b : Block) : State :=
  let l := spanBlocks s b
  if l.length = spanSize b ∧ (l.all fun x => x.phase == .admitted || x.phase == .resident || x.phase == .complete) = true then
    modBlks s fun x => if inSpan l x.uid && x.phase == .admitted then { x with phase := .resident } else x
  else s

/-- R21: a latched block whose stacks are zeroed: its groups stand, in slot order, and start with its span. Dispatch is an acquire
at device scope of every launch that its waits or its LAUNCH follow: what the core's L1 holds goes (R165, R170). -/
def admitBlock (s : State) (b : Block) : State :=
  let gs := (List.range b.groups).map fun j => parkBeside s b.core (startGroup s b j)
  let s1 := updBlk { s with groups := s.groups ++ gs } b.uid fun x => { x with phase := .admitted, admitted := s.clock }
  let s2 := gs.foldl (enterSets b.core) s1
  startSpan (dropL1 s2 b.core) b

/-- R154: whether a fault on the stacks of a block waits for its answer. -/
def stackWaits (s : State) (uid : Nat) : Bool :=
  s.faults.any fun f => match f.owner with
    | .stack u _ => u == uid
    | _ => false

/-- R22: the abort of a launch whose block meets a permission failure on the stack of a group (log entry 17). -/
def abortStack (s : State) (b : Block) (slot : Nat) (detail : BitVec 8) : State :=
  abortLaunch s b.launch b.vf b.core ((b.pstart + slot) % 4) slot (Config.openPc s.faultSeq) 5 detail.toNat 0

/-- R22: a latched block with its frame: a missing translation is recorded, a permission failure aborts the launch, else the
block is admitted. -/
def admitIn (s : State) (b : Block) (frame : Nat) : State :=
  match stackBlocked s b frame with
  | some (j, .memf va lvl malf) =>
    reportFault s (.stack b.uid j) b.core b.vf none va lvl malf kindEngWrite 0xFF 0 0
  | some (j, .prot _ d) => abortStack s b j d
  | _ => admitBlock (zeroStacks s b frame) b

/-- R21, R22: a latched block is admitted; one that needs a stack takes the lowest-numbered free frame. -/
def execBlockAdmission (uid : Nat) (s : State) : Host.Outcome State Fault Refusal :=
  let b := findBlk s uid
  .next (if b.phase = .latched ∧ stackWaits s uid = false then
      if b.stack = 0 then admitBlock s b
      else match (match b.frame with
        | some i => some i
        | none => freeFrame s b.vf) with
        | none => s
        | some i => admitIn (updBlk s uid fun x => { x with frame := some i }) { b with frame := some i } i
    else s)

/-- R31: the outstanding counters of a block: engine commands, XPFD apart (R182), accepted matrix operations, joined rendezvous.
-/
def blockQuiet (s : State) (b : Block) : Bool :=
  (b.cmds.all fun k => k.isFinal || k.kind == 7) && !((getCore s b.core).cubeQ.any fun j => j.uid == b.uid) && b.joined.isEmpty

/-- R136, R44: the owned banks of a block that are not in CACHE mode. -/
def windowBanks (b : Block) : List Nat :=
  (List.range b.lstore).filterMap fun i => if bankMode b i = 0 then none else b.banks[i]?

/-- R136: the banks of a block that are not in CACHE mode given back to the cache as empty ways. -/
def returnBanks (s : State) (b : Block) : State := dropWays s b.core (windowBanks b)

/-- R24: a span whose members are all complete gives its banks back and is gone. -/
def endSpan (s : State) (b : Block) : State :=
  let l := spanBlocks s b
  if l.length = spanSize b ∧ (l.all fun x => x.phase == .complete) = true then
    let us := l.map (·.uid)
    l.foldl returnBanks (discardBlocks s us)
  else s

/-- R182, R184: the live commands of a block, each an XPFD, are cancelled with its completion. -/
def cancelCmds (s : State) (b : Block) : State :=
  { s with faults := s.faults.filter fun f => match f.owner with
      | .engine u _ => u != b.uid
      | _ => true }

/-- R31: a block whose groups have all exited and whose counters read zero completes: slots, registers, pool, rows and stack
frame return; its banks stay with its span (R24), and span rendezvous that other blocks wait at break (R123). -/
def completeBlock (s : State) (b : Block) : State :=
  let s0 := cancelCmds (breakOnCompletion s b.uid) b
  let s1 := { s0 with
    g := if s0.g.uid = b.uid then Group.none else s0.g
    groups := s0.groups.filter fun g => g.uid != b.uid
    parts := s0.parts.map fun e => (e.1, e.2.without [b.uid]) }
  let s2 := updBlk s1 b.uid fun x => { x with phase := .complete, frame := none, acc := [], accPoison := [], cmds := [] }
  endSpan s2 b

/-- R31. -/
def execBlockCompletion (uid : Nat) (s : State) : Host.Outcome State Fault Refusal :=
  let b := findBlk s uid
  .next (if b.phase = .resident ∧ ((groupsOf s uid).all fun g => g.run == .exited) = true ∧ blockQuiet s b = true then
      completeBlock s b
    else s)

/-- R206: a launch whose last block has completed completes: done, or cancelled (R202). -/
def execLaunchCompletion (key : Nat) (s : State) : Host.Outcome State Fault Refusal :=
  .next (match findLaunch s key with
    | none => s
    | some l =>
      if (allBlocks s).any fun b => b.launch == key then s
      else if l.state = .cancelled then completeLaunch s l 2
      else if l.state = .active ∧ gridSize (recGrid l.record) ≤ l.next then completeLaunch s l 0
      else s)

/-- R203: the order in which victims are taken: highest class number, then most recently admitted. DESIGN CHOICE: R203 gives no
order among those of a class that were admitted at one time; the model takes them as `State.blks` lists them (log entry 37). -/
def victimBefore (x y : Block) : Bool :=
  decide (y.cls.toNat < x.cls.toNat) || (x.cls == y.cls && decide (y.admitted ≤ x.admitted))

/-- A victim put into an ordered list. -/
def insertVictim (x : Block) : List Block → List Block
  | [] => [x]
  | y :: t => if victimBefore x y then x :: y :: t else y :: insertVictim x t

/-- R203: the resident blocks of a list of lower priority than a class, in the order in which they are taken. -/
def victimsOf (bs : List Block) (cls : Nat) : List Block :=
  (bs.filter fun b => b.phase == .resident && decide (cls < b.cls.toNat)).foldr insertVictim []

/-- R24, R203: the members of the span of a victim that are resident or hold banks. -/
def wholeSpan (s : State) (b : Block) : List Nat :=
  ((spanBlocks s b).filter fun x => x.phase == .resident || x.phase == .complete).map (·.uid)

/-- The numbers of a list that another does not hold. -/
def addNew (l more : List Nat) : List Nat := l ++ more.filter fun n => !hasNat l n

/-- R203: the victims taken until a test holds, none where it never does. -/
def takeVictims (s : State) (fits : List Nat → Bool) : List Nat → List Block → Option (List Nat)
  | gone, [] => if fits gone then some gone else none
  | gone, b :: t => if fits gone then some gone else takeVictims s fits (addNew gone (wholeSpan s b)) t

/-- The blocks that are being stopped already: the room that they leave is counted as free (R203). -/
def stoppingNow (s : State) : List Nat :=
  ((allBlocks s).filter fun b => b.phase == .stopping || b.phase == .leaving).map (·.uid)

/-- R203: the victims that would make room in a cluster, or for a single block on one core of it, beside the blocks that are
being stopped already. -/
def victimsAt (s : State) (d : Demand) (cores : List Nat) : Option (List Nat) :=
  let bs := (allBlocks s).filter fun b => hasNat cores b.core
  let fits := fun gone =>
    if d.size = 1 then cores.any fun c => (placeMembers s gone d 0 [c]).isSome
    else (placeCluster s gone ((cores.headD 0) / 4) d).isSome
  (takeVictims s fits (stoppingNow s) (victimsOf bs d.cls.toNat)).map fun l => l.drop (stoppingNow s).length

/-- R203: the least number of victims over the candidates, the lowest-numbered among equals. -/
def leastVictims : List (List Nat) → Option (List Nat)
  | [] => none
  | x :: t => match leastVictims t with
    | none => some x
    | some y => some (if y.length < x.length then y else x)

/-- R203: the candidates: cores for a block, clusters for a span, in ascending order. -/
def candidates (size : Nat) : List (List Nat) :=
  if size = 1 then (List.range 256).map fun c => [c]
  else (List.range 64).map fun cl => (List.range 4).map fun i => 4 * cl + i

/-- R218 steps 1, 6: a group of a block being stopped: an open window undone, a request on a MEMF dropped, its PC at the
instruction that it has not retired. -/
def stopGroup (g : Group) : Group :=
  let g1 := undone g
  { g1 with
    run := match g1.run with
      | .faulted _ => .ready
      | .atFrwoff _ => .ready
      | r => r
    ibuf := []
    ctx := { g1.ctx with pc := startPc g1.ctx, prefixes := [], pend := landAll g1.ctx.pend } }

/-- R218 step 6: whether a fault stands on a request that a stop drops: of a group, of a suspended furrow. -/
def droppedFault (us : List Nat) (f : PendingFault) : Bool :=
  match f.owner with
  | .group u _ => hasNat us u
  | .stream _ _ u _ => hasNat us u
  | _ => false

/-- R218 step 3: a furrow of a block being stopped begins its suspend-drain. -/
def stopFurrow (us : List Nat) (p : Part) : Part :=
  { p with furrow := p.furrow.map fun f => if hasNat us f.uid && !f.suspended then { f with susp := true } else f }

/-- R218 step 5: every bank switch of a block ends. -/
def endSwitches (b : Block) : Block := b.switches.foldl (fun b x => endSwitch b x.1) b

/-- R73: the mismatches that the open windows of the groups of some blocks hold go into the log, for the windows are discarded. -/
def logStopped (s : State) (us : List Nat) : State :=
  ((allGroups s).filter fun g => hasNat us g.uid).foldl (fun acc g => logHeld acc (findBlk s g.uid) g (heldFallow g)) s

/-- R135: the banks that a block is switching are gleaned, with what engines have written there. -/
def gleanSwitches (s : State) (b : Block) : State := b.switches.foldl (fun acc x => dropLooseBank acc b.uid x.1) s

/-- R218: what stopping makes of a block: its bank switches end; a member that was complete has only its banks to leave (R24). -/
def stopBlock (no : Nat) (b : Block) : Block :=
  { endSwitches b with phase := if b.phase = .complete then .leaving else .stopping, saveNo := no }

/-- R218: blocks stopped: their groups, their bank switches; their furrows drain, their accepted matrix operations complete. -/
def stopBlocks (s : State) (us : List Nat) : State :=
  let l := (allBlocks s).filter fun b => hasNat us b.uid
  let s1 := modGroups (logStopped (l.foldl gleanSwitches s) us) fun g => if hasNat us g.uid then stopGroup g else g
  let s2 := modBlks s1 fun b => if hasNat us b.uid then stopBlock s.uidNext b else b
  let s3 := { s2 with
    uidNext := s2.uidNext + 1
    parts := s2.parts.map fun e => (e.1, stopFurrow us e.2)
    faults := s2.faults.filter fun f => !droppedFault us f }
  (l.map (·.core)).foldl drainCube s3

/-- R203, R218: where the front of a port finds no room, blocks of lower priority are stopped that make it. -/
def execPreemption (port : Nat) (s : State) : Host.Outcome State Fault Refusal :=
  .next (match frontDemand s port with
    | none => s
    | some d => match choosePlace s port d with
      | .noRoom => match leastVictims ((candidates d.size).filterMap (victimsAt s d)) with
        | none => s
        | some [] => s
        | some us => stopBlocks s us
      | _ => s)

/-- R220: the furrows of a block kept with it. -/
def saveFurrows (s : State) (b : Block) : State :=
  let l := (List.range 4).filterMap fun p => match (getPart s (partKey b.core p)).furrow with
    | some f => if f.uid = b.uid then some (p, f) else none
    | none => none
  let s1 := updBlk s b.uid fun x => { x with furrows := x.furrows ++ l }
  (List.range 4).foldl (fun acc p => modPart acc (partKey b.core p) fun q =>
    { q with furrow := q.furrow.filter fun f => f.uid != b.uid }) s1

/-- R92, R218: the furrows of a block drain on. -/
def drainFurrows (s : State) (b : Block) : State :=
  (List.range 4).foldl (fun acc p => match (getPart acc (partKey b.core p)).furrow with
    | some f => if f.uid = b.uid && !f.suspended then suspendDrain acc b.core p else acc
    | none => acc) s

/-- R218: whether a furrow of a block still drains. -/
def furrowRuns (s : State) (b : Block) : Bool :=
  (List.range 4).any fun p => match (getPart s (partKey b.core p)).furrow with
    | some f => f.uid == b.uid && !f.suspended
    | none => false

/-- R220: a stopped block leaves its core; its groups and its state are written to their context areas. Registers in the release
mask are not saved (R55). -/
def saveBlock (s : State) (b : Block) : State :=
  let s1 := saveFurrows s b
  let s2 := { s1 with parts := s1.parts.map fun e => (e.1, e.2.without [b.uid]) }
  let s3 := modGroups s2 fun g =>
    if g.uid = b.uid then { g with ctx := { g.ctx with v := g.ctx.v.filter fun e => !g.ctx.isReleased (e.1 / 32) } } else g
  let s4 := dropWays (dropLooseOf s3 b.uid) b.core b.banks
  dropDisplaced (unpark (updBlk (storeAreas s4 b.uid) b.uid fun x => { x with phase := .saved })) b.port

/-- R218: whether a block that is being stopped still has something to complete: a furrow that drains, a rendezvous of its span
to be accepted, an element whose acknowledgement is on its way, an XSIG, a trap to be taken (R219). -/
def stillStops (s : State) (b : Block) : Bool :=
  furrowRuns s b || ((spanBlocks s b).any fun x => !x.joined.isEmpty) ||
    (b.cmds.any fun k => k.ack || (k.kind == 4 && k.state == .pending)) ||
    (groupsOf s b.uid).any fun g => g.trapReq.isSome

/-- R218: the furrows of a block drain on, and the matrix operations that its span has accepted run to their end, for those of a
span write the STATUS of groups of all its members (R126). -/
def settleBlock (s : State) (b : Block) : State :=
  let l := spanBlocks s b
  l.foldl (fun acc x =>
    if (getCore acc x.core).cubeQ.any fun j => l.any fun y => y.uid == j.uid then drainCube acc x.core else acc) (drainFurrows s b)

/-- R218, R219, R220: a stopped block is saved once what has to complete is complete. -/
def execContextSave (uid : Nat) (s : State) : Host.Outcome State Fault Refusal :=
  let b := findBlk s uid
  .next (if b.phase = .stopping ∨ b.phase = .leaving then
      let s1 := settleBlock s b
      if stillStops s1 (findBlk s1 uid) then s1 else saveBlock s1 (findBlk s1 uid)
    else s)

/-- R221: a saved block put on a core: its groups stand ready in their sets, owners of a furrow parked until it re-enters. The L1
ways start empty. DESIGN CHOICE: it takes the free banks of the lowest numbers, as a new block does (log entry 46). -/
def restoreBlock (s : State) (uid core : Nat) : State :=
  let s0 := loadAreas s uid
  let s1 := updBlk s0 uid fun b =>
    { b with
      core := core, admitted := s.clock, banks := (freeBanks s core).take b.lstore
      phase := if (groupsOf s uid).isEmpty then .complete else .resident }
  let s2 := modGroups s1 fun g => if g.uid = uid then parkBeside s1 core { g with parked := g.fown } else g
  let s3 := ((groupsOf s2 uid).filter fun g => g.run != .exited).foldl (enterSets core) s2
  dropL1 s3 core

/-- The blocks of a list put on the cores of a choice. -/
def restoreAll (s : State) : List Nat → List (Nat × Nat) → State
  | u :: t, (c, _) :: l => restoreAll (restoreBlock s u c) t l
  | _, _ => s

/-- R221: the saved span of a block is restored, at the front of its port's queue, in that port's turn. DESIGN CHOICE: R25 and
R199 latch one block per turn, R221 has a span return whole; the model restores all its members in one turn (log entry 46). -/
def execBlockRestore (uid : Nat) (s : State) : Host.Outcome State Fault Refusal :=
  let port := (findBlk s uid).port
  .next (let s0 := dispatchCycle s
    match frontOf s0 port, frontDemand s0 port with
    | .restore us, some d =>
      if hasNat us uid && us.all fun u => (findBlk s0 u).phase == .saved then
        match choosePlace s0 port d with
        | .noRoom => s
        | .deferred => markDeferred s port
        | .at cores =>
          if hasTurn s0 port then
            markServed (dropDeferral (freeAreas (restoreAll s0 us cores) us) port fun x => x == .restore us)
              (frontClass s0 port) port (cores.map (·.1))
          else s
      else s
    | _, _ => s)

/-- R208: the power in milliwatts and the budget of a die compared: whether P > n/100 BUD. -/
def powerAbove (s : State) (die mw n : Nat) : Bool :=
  decide ((budScale s).1 * (getDie s die).bud * 1000 * n < mw * 100 * (budScale s).2)

/-- R208: whether P < 0.9 BUD. -/
def powerLow (s : State) (die mw : Nat) : Bool :=
  decide (mw * 100 * (budScale s).2 < (budScale s).1 * (getDie s die).bud * 1000 * 90)

/-- R208: a die's governor after a sample: `above` says P > 0.95 BUD, `full` P > BUD, `low` P < 0.9 BUD. DESIGN CHOICE: R208
does not say whether the sample that moves a die into CLOCKDOWN also steps its clock; the model steps it from the next sample on
(log entry 35). -/
def govern (d : Die) (above full low : Bool) : Die :=
  let o := if full then d.govOver + 1 else 0
  let u := if low then d.govUnder + 1 else 0
  let d1 := { d with govOver := o, govUnder := u }
  match d.gov with
  | .normal => if above then { d1 with gov := .tight, govUnder := 0 } else d1
  | .tight =>
    if 2 ≤ o then { d1 with gov := .throttle, govOver := 0, govUnder := 0 }
    else if 4 ≤ u then { d1 with gov := .normal, govUnder := 0 }
    else d1
  | .throttle =>
    if 4 ≤ o then { d1 with gov := .clockdown, govOver := 0, govUnder := 0 }
    else if 4 ≤ u then { d1 with gov := .tight, govUnder := 0 }
    else d1
  | .clockdown =>
    if full then { d1 with mhz := max 750 (d.mhz - 75) }
    else if low then
      (if d.mhz < 1500 then { d1 with mhz := min 1500 (d.mhz + 75) }
       else if 4 ≤ u then { d1 with gov := .throttle, govUnder := 0 } else d1)
    else d1

/-- R208, R254: a sample of the power of a die: new budget and base figures apply, then the governor moves. -/
def execGovernorSample (die mw : Nat) (s : State) : Host.Outcome State Fault Refusal :=
  .next (if 4 ≤ die then s
    else
      let s1 := modDie s die fun d => { d with bud := d.newBud, base := d.newBase, power := mw }
      modDie s1 die fun d => govern d (powerAbove s1 die mw 95) (powerAbove s1 die mw 100) (powerLow s1 die mw))

end Sys2Proof.Machine
end

