-- ==== Sys2Proof/Machine/Answers.lean ====
section
/-! DEFINITION. The answers of the host to fault records (R217, R248), results that land (R306, R331), the machine-check log (R228),
fatal errors and link errors (R222, R224). -/

namespace Sys2Proof.Machine

/-- R248: the fault record that an answer names. -/
def findFault (s : State) (vf seq : Nat) : Option PendingFault := s.faults.find? fun f => f.vf == vf && f.seq == seq

/-- An answered record is pending no more; FANSEQ holds its number. -/
def dropFault (s : State) (vf seq : Nat) : State :=
  modTenant { s with faults := s.faults.filter fun f => !(f.vf == vf && f.seq == seq) } vf fun t =>
    { t with fanseq := BitVec.ofNat 64 seq }

/-- The group that stands on a fault becomes ready. -/
def wake (seq : Nat) (g : Group) : Group := if g.run = .faulted seq then { g with run := .ready } else g

/-- The stall of a stage on a fault, set to another value (R85). -/
def stallTo (key seq v : Nat) (f : Furrow) : Furrow :=
  if mget 0 f.stalled key = seq + 2 then { f with stalled := mset 0 f.stalled key v } else f

/-- The same in the furrow of a partition. -/
def setStall (s : State) (k st rep seq v : Nat) : State :=
  modPart s k fun p => { p with furrow := p.furrow.map (stallTo (32 * st + rep) seq v) }

/-- R217: a fault answered resolved: the group issues again, the engine goes on, the stage makes its access again; a suspended
furrow re-enters (R94) and a device write is tried again by their own events. The command of a saved block goes on after its
restore (R190, R221). -/
def resolveFault (s : State) (f : PendingFault) : State :=
  match f.owner with
  | .group u k => updGroup s u k (wake f.seq)
  | .engine u n => modCmd s u n fun x =>
    { x with state := if (findBlk s u).phase = .saved then x.state else .pending, fault := none }
  | .stage core part st rep => setStall s (partKey core part) st rep f.seq 0
  | .stream _ _ _ _ => s
  | .stack _ _ => s
  | .copy _ => s

/-- R217: an answer resolved. One that names no pending record is ignored. -/
def execFaultResolved (vf seq : Nat) (s : State) : Host.Outcome State Fault Refusal :=
  .next (match findFault s vf seq with
    | none => s
    | some f => resolveFault (dropFault s vf seq) f)

/-- R193, R217: the copy of a port's head record is denied: its launch is aborted. -/
def denyCopy (s : State) (vf port : Nat) : State :=
  match (getPort s port).queue with
  | [] => s
  | q :: _ => match (recIndex q.bits).bind (findModule s vf) with
    | none => s
    | some m => match kernelOf m q.bits with
      | none => s
      | some k =>
        let l := newLaunch s port vf m k q.bits none
        abortDevice (startLaunch (dropCopy s port) port l) l 8

/-- R93, R217: the plan of a furrow saved with its block cannot be read: the furrow is abandoned, and its owner takes a trap, once
its partition runs no furrow of another group. -/
def abandonSaved (s : State) (uid slot : Nat) (t : TrapReq) : State :=
  unpark (updGroup (updBlk s uid fun b => { b with furrows := b.furrows.filter fun x => x.2.slot != slot }) uid slot fun g =>
    { g with run := .ready, fown := false, trapReq := some t, ctx := { g.ctx with fstat := fstatEnd g.ctx.fstat } })

/-- R45: a group that has made its access anew and is to take a trap there has issued that instruction again; a fetch is none. -/
def countReplay (kind : Nat) (g : Group) : Group := if kind = kindFetch then g else countEvt evIssue 1 g

/-- R217: the command on whose element a fault is denied stops as by a PROT; that of a saved block once it is restored (R221). -/
def denyCmd (s : State) (uid : Nat) (va : Addr) (k : Cmd) : State :=
  let s1 := modCmd s uid k.num fun x => { x with protVa := some va, fault := none }
  if (findBlk s uid).phase = .saved then s1 else endCmd s1 uid k .cancelled

/-- R217: a fault answered denied: PROT with detail 8 at the instruction, a PROT stop of the engine, an error token of the stage,
the end of the furrow, the abort of the launch. -/
def denyFault (s : State) (f : PendingFault) : State :=
  match f.owner with
  | .group u k => updGroup s u k fun g => { countReplay f.kind (wake f.seq g) with trapReq := some ⟨5, 8, 0, f.va, f.lane⟩ }
  | .engine u n => match (findBlk s u).cmds.find? fun k => k.num == n with
    | none => s
    | some k => denyCmd s u f.va k
  | .stage core part st rep => setStall s (partKey core part) st rep f.seq 1
  | .stream core part u j => match (getPart s (partKey core part)).furrow.filter fun x => x.uid == u && x.slot == j with
    | none => abandonSaved s u j ⟨5, 8, 0, f.va, none⟩
    | some x => endFurrow s (partKey core part) x ⟨5, 8, 0, f.va, none⟩
  | .stack u j => abortStack s (findBlk s u) j 8
  | .copy port => denyCopy s f.vf port

/-- R217: an answer denied. -/
def execFaultDenied (vf seq : Nat) (s : State) : Host.Outcome State Fault Refusal :=
  .next (match findFault s vf seq with
    | none => s
    | some f => denyFault (dropFault s vf seq) f)

/-- R248: a read of FSTS returns it and clears WFLT. -/
def execFstsRead (vf : Nat) (s : State) : Host.Outcome State Fault Refusal :=
  .next (clearFsts { s with hostData := fsts (getTenant s vf) } vf)

/-- R248: the records that wait in the device are written while the buffer has room. FBOVF goes with the last of them. -/
def writeWaiting (s : State) (vf : Nat) : State :=
  let l := (getTenant s vf).waiting
  let s1 := l.foldl (fun acc bs => putRecord acc 0 vf bs) (modTenant s vf fun t => { t with waiting := [] })
  modTenant s1 vf fun t => { t with fbovf := t.fbovf && !t.waiting.isEmpty }

/-- R248: a write of FBTAIL frees room in the fault buffer. -/
def execFbtailWrite (vf : Nat) (val : BitVec 64) (s : State) : Host.Outcome State Fault Refusal :=
  .next (writeWaiting (modTenant s vf fun t => { t with fbtail := val }) vf)

/-- R306: the divider of the partition in focus finishes its oldest division. -/
def execDivisionResult (s : State) : Host.Outcome State Fault Refusal :=
  .next (modPart s (myPart s) fun p => { p with divQueue := p.divQueue.tail })

/-- R331: the oldest special-function result of the partition in focus lands. -/
def execSpecialFunctionResult (s : State) : Host.Outcome State Fault Refusal :=
  .next (modPart s (myPart s) fun p => { p with sfQueue := p.sfQueue.tail })

/-- R228: MCPOP frees the n oldest entries of a die's log, or all of them. -/
def execMcpopWrite (die n : Nat) (s : State) : Host.Outcome State Fault Refusal :=
  .next (if 4 ≤ die then s
    else modDie s die fun d =>
      { d with mclog := d.mclog.drop n, mchead := (d.mchead + min n d.mclog.length) % 32 })

/-- R228: writing 1 to MCCLR clears OVF and LOST. -/
def execMcclrWrite (die : Nat) (val : BitVec 64) (s : State) : Host.Outcome State Fault Refusal :=
  .next (if 4 ≤ die ∨ val ≠ 1 then s else modDie s die fun d => { d with mclost := 0, mcovf := false })

/-- R222: a flit between two dies that fails its CRC is sent again and logged as kind 2; where it has been sent again 8 times to
no avail, the event is fatal. -/
def execDieLinkRetransmit (die other : Nat) (s : State) : Host.Outcome State Fault Refusal :=
  let n := mget 0 s.flits (4 * die + other)
  .next (if 4 ≤ die ∨ 4 ≤ other ∨ die = other then s
    else if 8 ≤ n then fatalEvent { s with flits := mdel s.flits (4 * die + other) } (mcSource die 6 other) 0
    else mcEvent { s with flits := mset 0 s.flits (4 * die + other) (n + 1) } die 6 other 2 0 0 0 0 0 0 0)

/-- R224: a fatal event. -/
def execFatalError (s : State) : Host.Outcome State Fault Refusal :=
  .next (fatalEvent s (Config.fatalSource s.freeCtr).toNat 0)

end Sys2Proof.Machine
end

