-- ==== Sys2Proof/Machine/Branch.lean ====
section
/-! DEFINITION. Control flow: relative and indirect branches (R279, R282), uniform branches (R63), BRV (R56 to R59), the rejoin
rule (R60), resolution and replay (R68). -/

namespace Sys2Proof.Machine

/-- R279: the target of a relative branch, counted from the branch word itself. -/
def branchTarget (rc : Ctx) (off : BitVec 20) : Addr := rc.pc + toAddr (2 * widen rc.prefixes 20 off.toNat)

/-- A write of the PC. -/
def jumpTo (s : State) (t : Addr) : State := modCtx s fun c => { c with pc := t }

/-- R279 BR. -/
def execBr (off : BitVec 20) (s : State) : Host.Outcome State Fault Refusal :=
  issue (.br off) { size := 4, accepts := true, furrow := 1, jumps := true }
    (fun rc s => .ok (jumpTo s (branchTarget rc off))) s

/-- R279 BRC. -/
def execBrc (c : BitVec 3) (neg : Bool) (off : BitVec 20) (s : State) : Host.Outcome State Fault Refusal :=
  issue (.brc c neg off)
    { size := 4, reads := [(.condition, c.toNat)], accepts := true, furrow := 1, jumps := true }
    (fun rc s => .ok (jumpTo s (if rc.readC c.toNat != neg then branchTarget rc off else rc.pc + 4))) s

/-- R279 CALL. -/
def execCall (off : BitVec 20) (s : State) : Host.Outcome State Fault Refusal :=
  issue (.call off)
    { size := 4, writes := [(.address, 14)], accepts := true, closes := true, jumps := true }
    (fun rc s => .ok (jumpTo (modCtx s fun c => c.writeA 14 (rc.pc + 4)) (branchTarget rc off))) s

/-- R282, R256: an indirect jump to t; an odd target raises ALIGN. -/
def jumpReg (s : State) (t : Addr) : Except Halt State :=
  if t.getLsbD 0 then .error (.trap (memTrap 2 0 none t)) else .ok (jumpTo s t)

/-- R282 RET. -/
def execRet (n : BitVec 4) (s : State) : Host.Outcome State Fault Refusal :=
  issue (.ret n) { size := 4, reads := [(.address, n.toNat)], closes := true, jumps := true }
    (fun rc s => jumpReg s (rc.readA n.toNat)) s

/-- R282 JMPA. -/
def execJmpa (n : BitVec 4) (s : State) : Host.Outcome State Fault Refusal :=
  issue (.jmpa n) { size := 4, reads := [(.address, n.toNat)], closes := true, jumps := true }
    (fun rc s => jumpReg s (rc.readA n.toNat)) s

/-- R282 CALLA: the target is read before a14 is written. -/
def execCalla (n : BitVec 4) (s : State) : Host.Outcome State Fault Refusal :=
  issue (.calla n)
    { size := 4, reads := [(.address, n.toNat)], writes := [(.address, 14)], closes := true, jumps := true }
    (fun rc s => jumpReg (modCtx s fun c => c.writeA 14 (rc.pc + 4)) (rc.readA n.toNat)) s

/-- R58, R63: the active lanes whose predicate, negated or not, is 1. -/
def predMask (rc : Ctx) (p : BitVec 3) (neg : Bool) : Mask :=
  rc.exec &&& (if neg then ~~~(rc.readP p.toNat) else rc.readP p.toNat)

/-- What issue needs of a uniform branch (R63, R59). -/
def uniformInfo (p : BitVec 3) : Info where
  size := 4
  reads := [(.predicate, p.toNat)]
  accepts := true
  closes := true
  interlocked := true
  jumps := true

/-- R63: a uniform branch. -/
def uniformBranch (take : Mask → Mask → Bool) (p : BitVec 3) (neg : Bool) (off : BitVec 20) (rc : Ctx) (s : State) :
    Except Halt State :=
  .ok (jumpTo s (if take (predMask rc p neg) rc.exec then branchTarget rc off else rc.pc + 4))

/-- R63 BRVA. -/
def execBrva (p : BitVec 3) (neg : Bool) (off : BitVec 20) (s : State) : Host.Outcome State Fault Refusal :=
  issue (.brva p neg off) (uniformInfo p) (uniformBranch (fun a _ => decide (a ≠ 0)) p neg off) s

/-- R63 BRVN. -/
def execBrvn (p : BitVec 3) (neg : Bool) (off : BitVec 20) (s : State) : Host.Outcome State Fault Refusal :=
  issue (.brvn p neg off) (uniformInfo p) (uniformBranch (fun a _ => decide (a = 0)) p neg off) s

/-- R63 BRVL. -/
def execBrvl (p : BitVec 3) (neg : Bool) (off : BitVec 20) (s : State) : Host.Outcome State Fault Refusal :=
  issue (.brvl p neg off) (uniformInfo p) (uniformBranch (fun a e => decide (a = e)) p neg off) s

/-- R65, R48: whether the predicate of a BRV has not landed when the BRV reaches issue. It has not where the counts do not
cover it and nothing has lengthened the gap: no other group of the partition has issued since, no fetch has missed, nothing has
been waited for. Where something has, it is a free choice (log entry 6), as it is for a predicate whose producer carries no stall
field or has been replayed (R47, R68). -/
def predicateOut (s : State) (p : BitVec 3) : Bool :=
  (hasReg s.g.arriving (.predicate, p.toNat) && Config.predicateLate s.freeCtr) ||
    match pendOf s.ctx (.predicate, p.toNat) with
    | some x => !x.landed && (!x.loose || Config.predicateLate s.freeCtr)
    | none => false

/-- R65: whether a BRV is predicted. -/
def predicted (s : State) (p : BitVec 3) : Bool :=
  !s.g.noPredict &&
    predicateOut s p &&
    decide (2 ≤ (coulterAt s s.ctx.pc).c.toNat) && (coulterAt s s.ctx.pc).vf == BitVec.ofNat 6 s.blk.vf &&
    decide (s.ctx.stack.length < 256)

/-- R58: the effect of a BRV with true taken mask t, rejoin PC and taken PC. -/
def brvPlain (t : Mask) (rejoin taken : Addr) (c : Ctx) : Ctx :=
  if t = 0 then { c with pc := c.pc + 8 }
  else if c.exec &&& ~~~t = 0 then
    { c with pc := taken, stack := ⟨rejoin, taken, 0, c.exec, c.fmt, 0⟩ :: c.stack }
  else
    { c with pc := c.pc + 8, exec := c.exec &&& ~~~t, stack := ⟨rejoin, taken, t, c.exec, c.fmt, 0⟩ :: c.stack }

/-- R67: the effect of a BRV predicted to take t', with the window it opens. -/
def brvGuess (pred : Nat) (t t' : Mask) (rejoin taken : Addr) (g : Group) : Group :=
  let c := g.ctx
  let f := c.exec &&& ~~~t'
  { g with
    window := some
      { brv := c.pc, taken := taken, rejoin := rejoin, snap := { c with pc := startPc c, prefixes := [] }, mask := c.exec
        pred := pred, truth := t, guess := t', count := 0
        left := ((pendOf c (.predicate, pred)).map fun x => x.need - 1).getD 0
        log := [], deferred := 0, deferredS := false, fallow := []
        poisonV := g.poisonV, poisonS := g.poisonS }
    ctx := if f = 0 then
        { c with pc := taken, exec := t', stack := ⟨rejoin, taken, 0, c.exec, c.fmt, 0⟩ :: c.stack }
      else { c with pc := c.pc + 8, exec := f, stack := ⟨rejoin, taken, t', c.exec, c.fmt, 0⟩ :: c.stack } }

/-- R58, R61, R65 BRV. -/
def brvBody (p : BitVec 3) (neg : Bool) (taken : BitVec 24) (rejoin : BitVec 23) (rc : Ctx) (s : State) :
    Except Halt State :=
  let t := predMask rc p neg
  let tk := rc.pc + toAddr (2 * widen rc.prefixes 24 taken.toNat)
  let rj := rc.pc + toAddr (2 * sextN 23 rejoin.toNat)
  if predicted s p then
    .ok (settleStack (modG s fun g =>
      countEvt evMaskPred 1 (brvGuess p.toNat t ((coulterAt s s.ctx.pc).m &&& s.ctx.exec) rj tk g)))
  else if t ≠ 0 ∧ 256 ≤ s.ctx.stack.length then .error (.trap ⟨11, 0, 0, 0, none⟩)
  else
    let s1 := coulterUpdate (awaitResults s { size := 8, reads := [(.predicate, p.toNat)] }) s.ctx.pc s.ctx.exec t
    .ok (settleStack (modG s1 fun g => { g with noPredict := false, ctx := brvPlain t rj tk g.ctx }))

/-- R58 BRV. -/
def execBrv (p : BitVec 3) (neg : Bool) (taken : BitVec 24) (rejoin : BitVec 23) (s : State) :
    Host.Outcome State Fault Refusal :=
  issue (.brv p neg taken rejoin)
    { size := 8, reads := [(.predicate, p.toNat)], accepts := true, closes := true, interlocked := true, jumps := true,
      eager := true }
    (brvBody p neg taken rejoin) s

/-- Whether the PC stands at the rejoin PC of the top entry, where R60 applies. -/
def atRejoin (s : State) : Bool :=
  s.ctx.prefixes.isEmpty && s.g.window.isNone && match s.ctx.stack with
    | [] => false
    | e :: _ => e.rejoin == s.ctx.pc

/-- R60: the switch to the taken path, or the pop. -/
def rejoinCtx (c : Ctx) : Ctx :=
  match c.stack with
  | [] => c
  | e :: t =>
    if e.pending = 0 then { c with exec := e.exec, fmt := e.fmt, stack := t }
    else { c with exec := e.pending, fmt := e.fmt, pc := e.taken, stack := { e with pending := 0 } :: t }

/-- Whether the top entry's taken path is still to run. -/
def topPending (c : Ctx) : Bool :=
  match c.stack with
  | [] => false
  | e :: _ => e.pending != 0

/-- R60, R54: the switch or the pop of the group in focus. -/
def rejoin (s : State) : State := settleStack (modCtx s rejoinCtx)

/-- R60: the switch to the taken path at the rejoin PC. -/
def execReconvergenceSwitch (s : State) : Host.Outcome State Fault Refusal :=
  .next (if atRejoin s && topPending s.ctx then rejoin s else s)

/-- R60: the pop at the rejoin PC. -/
def execReconvergencePop (s : State) : Host.Outcome State Fault Refusal :=
  .next (if atRejoin s && !topPending s.ctx then rejoin s else s)

/-- R68: resolution of the open window. -/
def execBrvResolution (s : State) : Host.Outcome State Fault Refusal := .next (resolveWindow s)

/-- R68: one replayed instruction. -/
def execLaneReplay (s : State) : Host.Outcome State Fault Refusal := .next (replayStep s)

end Sys2Proof.Machine
end

