-- ==== Sys2Proof/Machine/VectorInt.lean ====
section
/-! DEFINITION. The vector integer instructions (R314 to R326, R346 to R353), the packed forms (R319), and the form that every vector ALU
instruction takes. -/

namespace Sys2Proof.Machine

/-- R47: the latency of a vector ALU operation; 0 for the special functions, whose results are scoreboarded. -/
def laneLatency (op : LaneOp) : Nat :=
  match op with
  | .add | .sub | .addc | .and | .or | .xor | .not | .shl | .shr | .sra | .min | .max | .abs | .neg | .clz | .popc | .bfe
  | .bfi | .sel | .mov | .li | .cmp | .addp | .subp | .shlp | .shrp | .srap | .minp | .maxp | .pack | .unpk => 4
  | .special _ => 0
  | _ => 6

/-- The registers that a vector ALU instruction reads: the guard, then va, b, vc and the predicate source. -/
def laneReads (op : LaneOp) (f : LvF) : List (RegClass × Nat) :=
  [(.predicate, f.g.pg.toNat)] ++
    (if readsA op then [(.vector, f.a.reg.toNat)] else []) ++
    (match f.b with
      | .vec r => if readsB op then [(.vector, r.reg.toNat)] else []
      | .scal n => [(.scalar, n.toNat)]
      | .imm _ => []) ++
    (if readsC op then [(.vector, f.c.reg.toNat)] else []) ++
    (match predSrc op f with
      | some p => [(.predicate, p)]
      | none => [])

/-- The registers that a vector ALU instruction writes. -/
def laneWrites (op : LaneOp) (f : LvF) : List (RegClass × Nat) :=
  (if writesVec op then [(.vector, f.vd.toNat)] else []) ++
    (match predDst op f with
      | some p => [(.predicate, p)]
      | none => [])

/-- What issue needs of a vector ALU instruction; a C16 form carries no stall field, so its result is interlocked. -/
def laneInfo (op : LaneOp) (f : LvF) (size : Nat) : Info where
  size := size
  reads := laneReads op f
  marks := lvMarks op f
  writes := laneWrites op f
  stall := f.stall.toNat
  latency := if size = 2 then 0 else laneLatency op
  guard := some f.g
  fallow := true
  vec := true
  scal := bScalar f

/-- R314, R46: the body of a vector ALU instruction. A special-function result stands in the partition's queue until it is
used or its event comes (R331). -/
def laneBody (op : LaneOp) (f : LvF) (rc : Ctx) (s : State) : Except Halt State :=
  let sc := match bScalar f with
    | some n => rc.readS n
    | none => 0
  let s1 := modCtx s fun c => runLanes op f rc.fmt sc rc (rc.takePart f.g) c
  match op with
  | .special _ =>
    .ok (modPart s1 (myPart s1) fun p => { p with sfQueue := p.sfQueue ++ [(s1.g.uid, s1.g.slot, f.vd.toNat)] })
  | _ => .ok s1

/-- VADD (R317). -/
def execVadd (f : LvF) (s : State) : Host.Outcome State Fault Refusal :=
  issue (.vadd f) (laneInfo .add f 8) (laneBody .add f) s

/-- VSUB (R317). -/
def execVsub (f : LvF) (s : State) : Host.Outcome State Fault Refusal :=
  issue (.vsub f) (laneInfo .sub f 8) (laneBody .sub f) s

/-- VMUL (R347). -/
def execVmul (f : LvF) (s : State) : Host.Outcome State Fault Refusal :=
  issue (.vmul f) (laneInfo .mul f 8) (laneBody .mul f) s

/-- VMULH (R347). -/
def execVmulh (f : LvF) (s : State) : Host.Outcome State Fault Refusal :=
  issue (.vmulh f) (laneInfo .mulh f 8) (laneBody .mulh f) s

/-- VMAD (R347). -/
def execVmad (f : LvF) (s : State) : Host.Outcome State Fault Refusal :=
  issue (.vmad f) (laneInfo .mad f 8) (laneBody .mad f) s

/-- VADDC (R318). -/
def execVaddc (f : LvF) (s : State) : Host.Outcome State Fault Refusal :=
  issue (.vaddc f) (laneInfo .addc f 8) (laneBody .addc f) s

/-- VAND (R320). -/
def execVand (f : LvF) (s : State) : Host.Outcome State Fault Refusal :=
  issue (.vand f) (laneInfo .and f 8) (laneBody .and f) s

/-- VOR (R320). -/
def execVor (f : LvF) (s : State) : Host.Outcome State Fault Refusal :=
  issue (.vor f) (laneInfo .or f 8) (laneBody .or f) s

/-- VXOR (R320). -/
def execVxor (f : LvF) (s : State) : Host.Outcome State Fault Refusal :=
  issue (.vxor f) (laneInfo .xor f 8) (laneBody .xor f) s

/-- VNOT (R320). -/
def execVnot (f : LvF) (s : State) : Host.Outcome State Fault Refusal :=
  issue (.vnot f) (laneInfo .not f 8) (laneBody .not f) s

/-- VSHL (R353). -/
def execVshl (f : LvF) (s : State) : Host.Outcome State Fault Refusal :=
  issue (.vshl f) (laneInfo .shl f 8) (laneBody .shl f) s

/-- VSHR (R353). -/
def execVshr (f : LvF) (s : State) : Host.Outcome State Fault Refusal :=
  issue (.vshr f) (laneInfo .shr f 8) (laneBody .shr f) s

/-- VSRA (R353). -/
def execVsra (f : LvF) (s : State) : Host.Outcome State Fault Refusal :=
  issue (.vsra f) (laneInfo .sra f 8) (laneBody .sra f) s

/-- VMIN (R348). -/
def execVmin (f : LvF) (s : State) : Host.Outcome State Fault Refusal :=
  issue (.vmin f) (laneInfo .min f 8) (laneBody .min f) s

/-- VMAX (R348). -/
def execVmax (f : LvF) (s : State) : Host.Outcome State Fault Refusal :=
  issue (.vmax f) (laneInfo .max f 8) (laneBody .max f) s

/-- VABS (R316). -/
def execVabs (f : LvF) (s : State) : Host.Outcome State Fault Refusal :=
  issue (.vabs f) (laneInfo .abs f 8) (laneBody .abs f) s

/-- VNEG (R316). -/
def execVneg (f : LvF) (s : State) : Host.Outcome State Fault Refusal :=
  issue (.vneg f) (laneInfo .neg f 8) (laneBody .neg f) s

/-- VCLZ (R322). -/
def execVclz (f : LvF) (s : State) : Host.Outcome State Fault Refusal :=
  issue (.vclz f) (laneInfo .clz f 8) (laneBody .clz f) s

/-- VPOPC (R322). -/
def execVpopc (f : LvF) (s : State) : Host.Outcome State Fault Refusal :=
  issue (.vpopc f) (laneInfo .popc f 8) (laneBody .popc f) s

/-- VBFE (R321). -/
def execVbfe (f : LvF) (s : State) : Host.Outcome State Fault Refusal :=
  issue (.vbfe f) (laneInfo .bfe f 8) (laneBody .bfe f) s

/-- VBFI (R321). -/
def execVbfi (f : LvF) (s : State) : Host.Outcome State Fault Refusal :=
  issue (.vbfi f) (laneInfo .bfi f 8) (laneBody .bfi f) s

/-- VSEL (R352). -/
def execVsel (f : LvF) (s : State) : Host.Outcome State Fault Refusal :=
  issue (.vsel f) (laneInfo .sel f 8) (laneBody .sel f) s

/-- VMOV (R349). -/
def execVmov (f : LvF) (s : State) : Host.Outcome State Fault Refusal :=
  issue (.vmov f) (laneInfo .mov f 8) (laneBody .mov f) s

/-- VLI (R346). -/
def execVli (f : LvF) (s : State) : Host.Outcome State Fault Refusal :=
  issue (.vli f) (laneInfo .li f 8) (laneBody .li f) s

/-- VCMP (R323). -/
def execVcmp (f : LvF) (s : State) : Host.Outcome State Fault Refusal :=
  issue (.vcmp f) (laneInfo .cmp f 8) (laneBody .cmp f) s

/-- VADDP (R319). -/
def execVaddp (f : LvF) (s : State) : Host.Outcome State Fault Refusal :=
  issue (.vaddp f) (laneInfo .addp f 8) (laneBody .addp f) s

/-- VSUBP (R319). -/
def execVsubp (f : LvF) (s : State) : Host.Outcome State Fault Refusal :=
  issue (.vsubp f) (laneInfo .subp f 8) (laneBody .subp f) s

/-- VSHLP (R319). -/
def execVshlp (f : LvF) (s : State) : Host.Outcome State Fault Refusal :=
  issue (.vshlp f) (laneInfo .shlp f 8) (laneBody .shlp f) s

/-- VSHRP (R319). -/
def execVshrp (f : LvF) (s : State) : Host.Outcome State Fault Refusal :=
  issue (.vshrp f) (laneInfo .shrp f 8) (laneBody .shrp f) s

/-- VSRAP (R319). -/
def execVsrap (f : LvF) (s : State) : Host.Outcome State Fault Refusal :=
  issue (.vsrap f) (laneInfo .srap f 8) (laneBody .srap f) s

/-- VMINP (R319). -/
def execVminp (f : LvF) (s : State) : Host.Outcome State Fault Refusal :=
  issue (.vminp f) (laneInfo .minp f 8) (laneBody .minp f) s

/-- VMAXP (R319). -/
def execVmaxp (f : LvF) (s : State) : Host.Outcome State Fault Refusal :=
  issue (.vmaxp f) (laneInfo .maxp f 8) (laneBody .maxp f) s

/-- VDOT8 (R326). -/
def execVdot8 (f : LvF) (s : State) : Host.Outcome State Fault Refusal :=
  issue (.vdot8 f) (laneInfo .dot8 f 8) (laneBody .dot8 f) s

/-- VDOT4 (R326). -/
def execVdot4 (f : LvF) (s : State) : Host.Outcome State Fault Refusal :=
  issue (.vdot4 f) (laneInfo .dot4 f 8) (laneBody .dot4 f) s

end Sys2Proof.Machine
end

