-- ==== Sys2Proof/Machine/Compact.lean ====
section
/-! DEFINITION. The compact 16-bit forms (R262). -/

namespace Sys2Proof.Machine

/-- VMOV_C16 (R262). -/
def execVmovC16 (lr : Bool) (vs vd : BitVec 5) (s : State) : Host.Outcome State Fault Refusal :=
  issue (.vmovC16 lr vs vd) (laneInfo .mov (c16Fields lr vs vd) 2) (laneBody .mov (c16Fields lr vs vd)) s

/-- VADD_C16 (R262). -/
def execVaddC16 (lr : Bool) (vs vd : BitVec 5) (s : State) : Host.Outcome State Fault Refusal :=
  issue (.vaddC16 lr vs vd) (laneInfo .add (c16Fields lr vs vd) 2) (laneBody .add (c16Fields lr vs vd)) s

/-- VSUB_C16 (R262). -/
def execVsubC16 (lr : Bool) (vs vd : BitVec 5) (s : State) : Host.Outcome State Fault Refusal :=
  issue (.vsubC16 lr vs vd) (laneInfo .sub (c16Fields lr vs vd) 2) (laneBody .sub (c16Fields lr vs vd)) s

/-- VMUL_C16 (R262). -/
def execVmulC16 (lr : Bool) (vs vd : BitVec 5) (s : State) : Host.Outcome State Fault Refusal :=
  issue (.vmulC16 lr vs vd) (laneInfo .mul (c16Fields lr vs vd) 2) (laneBody .mul (c16Fields lr vs vd)) s

/-- VAND_C16 (R262). -/
def execVandC16 (lr : Bool) (vs vd : BitVec 5) (s : State) : Host.Outcome State Fault Refusal :=
  issue (.vandC16 lr vs vd) (laneInfo .and (c16Fields lr vs vd) 2) (laneBody .and (c16Fields lr vs vd)) s

/-- VOR_C16 (R262). -/
def execVorC16 (lr : Bool) (vs vd : BitVec 5) (s : State) : Host.Outcome State Fault Refusal :=
  issue (.vorC16 lr vs vd) (laneInfo .or (c16Fields lr vs vd) 2) (laneBody .or (c16Fields lr vs vd)) s

/-- VXOR_C16 (R262). -/
def execVxorC16 (lr : Bool) (vs vd : BitVec 5) (s : State) : Host.Outcome State Fault Refusal :=
  issue (.vxorC16 lr vs vd) (laneInfo .xor (c16Fields lr vs vd) 2) (laneBody .xor (c16Fields lr vs vd)) s

/-- VSHL_C16 (R262). -/
def execVshlC16 (lr : Bool) (vs vd : BitVec 5) (s : State) : Host.Outcome State Fault Refusal :=
  issue (.vshlC16 lr vs vd) (laneInfo .shl (c16Fields lr vs vd) 2) (laneBody .shl (c16Fields lr vs vd)) s

/-- VSHR_C16 (R262). -/
def execVshrC16 (lr : Bool) (vs vd : BitVec 5) (s : State) : Host.Outcome State Fault Refusal :=
  issue (.vshrC16 lr vs vd) (laneInfo .shr (c16Fields lr vs vd) 2) (laneBody .shr (c16Fields lr vs vd)) s

/-- VMIN_C16 (R262). -/
def execVminC16 (lr : Bool) (vs vd : BitVec 5) (s : State) : Host.Outcome State Fault Refusal :=
  issue (.vminC16 lr vs vd) (laneInfo .min (c16Fields lr vs vd) 2) (laneBody .min (c16Fields lr vs vd)) s

/-- VMAX_C16 (R262). -/
def execVmaxC16 (lr : Bool) (vs vd : BitVec 5) (s : State) : Host.Outcome State Fault Refusal :=
  issue (.vmaxC16 lr vs vd) (laneInfo .max (c16Fields lr vs vd) 2) (laneBody .max (c16Fields lr vs vd)) s

/-- VFADD_C16 (R262). -/
def execVfaddC16 (lr : Bool) (vs vd : BitVec 5) (s : State) : Host.Outcome State Fault Refusal :=
  issue (.vfaddC16 lr vs vd) (laneInfo .fadd (c16Fields lr vs vd) 2) (laneBody .fadd (c16Fields lr vs vd)) s

/-- VFSUB_C16 (R262). -/
def execVfsubC16 (lr : Bool) (vs vd : BitVec 5) (s : State) : Host.Outcome State Fault Refusal :=
  issue (.vfsubC16 lr vs vd) (laneInfo .fsub (c16Fields lr vs vd) 2) (laneBody .fsub (c16Fields lr vs vd)) s

/-- VFMUL_C16 (R262). -/
def execVfmulC16 (lr : Bool) (vs vd : BitVec 5) (s : State) : Host.Outcome State Fault Refusal :=
  issue (.vfmulC16 lr vs vd) (laneInfo .fmul (c16Fields lr vs vd) 2) (laneBody .fmul (c16Fields lr vs vd)) s

/-- VFMIN_C16 (R262). -/
def execVfminC16 (lr : Bool) (vs vd : BitVec 5) (s : State) : Host.Outcome State Fault Refusal :=
  issue (.vfminC16 lr vs vd) (laneInfo .fmin (c16Fields lr vs vd) 2) (laneBody .fmin (c16Fields lr vs vd)) s

/-- VFMAX_C16 (R262). -/
def execVfmaxC16 (lr : Bool) (vs vd : BitVec 5) (s : State) : Host.Outcome State Fault Refusal :=
  issue (.vfmaxC16 lr vs vd) (laneInfo .fmax (c16Fields lr vs vd) 2) (laneBody .fmax (c16Fields lr vs vd)) s

end Sys2Proof.Machine
end

