-- ==== Sys2Proof/Machine/CrossLane.lean ====
section
/-! DEFINITION. The cross-lane instructions (R337 to R342). -/

namespace Sys2Proof.Machine

/-- R337: what issue needs of a cross-lane instruction: its sources beside the guard, its destination. -/
def crossInfo (f : LvF) (reads : List (RegClass × Nat)) (marks : List Nat) (dst : RegClass × Nat) : Info where
  size := 8
  reads := (.predicate, f.g.pg.toNat) :: reads
  marks := marks
  writes := [dst]
  stall := f.stall.toNat
  latency := 8
  closes := true
  guard := some f.g
  whole := true

/-- The vector destination of LV. -/
def vecDst (f : LvF) : RegClass × Nat := (.vector, f.vd.toNat)

/-- R337: the scalar destination, s0 to s63 in [22:17]. -/
def scalDst (f : LvF) : RegClass × Nat := (.scalar, f.vd.toNat)

/-- The mark of va (R50). -/
def aMark (f : LvF) : List Nat := if f.a.lr then [f.a.reg.toNat] else []

/-- R338: the value of VLANE in lane L, for the lanes p that take part. -/
def vlaneWord (k : Nat) (p : Mask) (l : Nat) : Lane :=
  let below := p.toNat % 2 ^ l
  if k = 0 then BitVec.ofNat 32 l
  else if k = 1 then BitVec.ofNat 32 (popN 32 below)
  else if k = 2 then BitVec.ofNat 32 (popMask p)
  else BitVec.ofNat 32 below

/-- R338 VLANE. -/
def execVlane (f : LvF) (s : State) : Host.Outcome State Fault Refusal :=
  issue (.vlane f) (crossInfo f [] [] (vecDst f))
    (fun rc s => .ok (modCtx s fun c =>
      c.setV f.vd.toNat (rc.takePart f.g) (vlaneWord (f.ext.toNat % 4) (rc.takePart f.g)))) s

/-- R339: the source lane of lane L, whose b is given. -/
def shflLane (mode : Nat) (b : Lane) (l : Nat) : Nat :=
  let j : Int :=
    if mode = 0 then ((b.toNat % 32 : Nat) : Int)
    else if mode = 1 then (l : Int) - (b.toNat : Int)
    else if mode = 2 then (l : Int) + (b.toNat : Int)
    else ((Nat.xor l (b.toNat % 32) : Nat) : Int)
  if 0 ≤ j ∧ j ≤ 31 then j.toNat else l

/-- The scalar that source b delivers at issue. -/
def bScalarVal (f : LvF) (rc : Ctx) : SWord :=
  match bScalar f with
  | some n => rc.readS n
  | none => 0

/-- R339 VSHFL. -/
def vshflBody (f : LvF) (rc : Ctx) (s : State) : Except Halt State :=
  .ok (modCtx s fun c => c.setV f.vd.toNat (rc.takePart f.g) fun l =>
    rc.lane f.a.reg.toNat (shflLane (f.ext.toNat % 4) (bLane .mov f (bScalarVal f rc) rc l) l))

/-- R339 VSHFL. -/
def execVshfl (f : LvF) (s : State) : Host.Outcome State Fault Refusal :=
  issue (.vshfl f)
    (crossInfo f
      ((.vector, f.a.reg.toNat) :: (match f.b with
        | .vec r => [(.vector, r.reg.toNat)]
        | .scal n => [(.scalar, n.toNat)]
        | .imm _ => []))
      (aMark f ++ (match bVector f with
        | some r => if r.lr then [r.reg.toNat] else []
        | none => []))
      (vecDst f))
    (vshflBody f) s

/-- R340: the word that VRFL writes. -/
def vrflWord (sx : Bool) (p : Mask) (v : Nat → Lane) : SWord :=
  if p = 0 then 0
  else
    let x := v (ctzN 32 p.toNat)
    if sx then x.signExtend 64 else x.zeroExtend 64

/-- R340 VRFL. -/
def execVrfl (f : LvF) (s : State) : Host.Outcome State Fault Refusal :=
  issue (.vrfl f) (crossInfo f [(.vector, f.a.reg.toNat)] (aMark f) (scalDst f))
    (fun rc s => .ok (modCtx s fun c =>
      c.writeS f.vd.toNat (vrflWord (f.ext.getLsbD 0) (rc.takePart f.g) (rc.lane f.a.reg.toNat)))) s

/-- R341: the word that VVOTE writes, for the lanes p that take part and those v of them that vote. -/
def vvoteWord (k : Nat) (p v : Mask) : SWord :=
  if k = 0 then v.zeroExtend 64
  else if k = 1 then (if v ≠ 0 then 1 else 0)
  else if k = 2 then (if v = p then 1 else 0)
  else BitVec.ofNat 64 (popMask v)

/-- R341 VVOTE. -/
def execVvote (f : LvF) (s : State) : Host.Outcome State Fault Refusal :=
  issue (.vvote f) (crossInfo f [(.predicate, f.a.reg.toNat)] [] (scalDst f))
    (fun rc s => .ok (modCtx s fun c =>
      c.writeS f.vd.toNat (vvoteWord (f.ext.toNat % 4) (rc.takePart f.g)
        (rc.takePart f.g &&& rc.readP f.a.reg.toNat)))) s

/-- The fold of a list with a combination, from its first element on. -/
def foldAll {β : Type} (f : β → β → β) : List β → Option β
  | [] => none
  | x :: t => some (t.foldl f x)

/-- R342: the lesser or greater of two integers. -/
def pickI (least : Bool) (x y : Int) : Int := if least then min x y else max x y

/-- R342: the fold of 32-bit words as a signed or unsigned integer, before truncation; none for an empty fold or a
floating-point operation. -/
def foldInt (op : Nat) (l : List Lane) : Option Int :=
  let sg := l.map BitVec.toInt
  let un := l.map fun x => (x.toNat : Int)
  let bits := fun (f : Nat → Nat → Nat) => (foldAll f (l.map BitVec.toNat)).map fun x => (x : Int)
  if op = 0 then foldAll (· + ·) sg
  else if op = 1 then foldAll (· + ·) un
  else if op = 2 then foldAll (pickI true) sg
  else if op = 3 then foldAll (pickI false) sg
  else if op = 4 then foldAll (pickI true) un
  else if op = 5 then foldAll (pickI false) un
  else if op = 6 then bits Nat.land
  else if op = 7 then bits Nat.lor
  else if op = 8 then bits Nat.xor
  else none

/-- R342: the fold of FP32 values, decoded under FMT.FTZ and rounded once. -/
def foldFloat (op : Nat) (fmt : BitVec 32) (l : List Lane) : Option Nat :=
  let x := l.map (fp fmt)
  (if op = 9 then foldAll (addF (fmtRm fmt)) x
   else if op = 10 then foldAll (minMaxF true) x
   else foldAll (minMaxF false) x).map fun r => roundF fp32 (fmtRm fmt) (fmtFtz fmt) false r

/-- R342 VRED: the word written. -/
def vredWord (op : Nat) (fmt : BitVec 32) (l : List Lane) : SWord :=
  if op < 9 then BitVec.ofInt 64 ((foldInt op l).getD 0) else BitVec.ofNat 64 ((foldFloat op fmt l).getD 0)

/-- R342: the identity of a VSCAN. -/
def scanIdentity (op : Nat) : Lane :=
  if op = 2 then 0x7FFFFFFF
  else if op = 3 then 0x80000000
  else if op = 4 ∨ op = 6 then 0xFFFFFFFF
  else 0

/-- R342 VSCAN: the word of a fold. -/
def vscanWord (op : Nat) (fmt : BitVec 32) (l : List Lane) : Lane :=
  if op < 9 then
    match foldInt op l with
    | some x => BitVec.ofInt 32 x
    | none => scanIdentity op
  else match foldFloat op fmt l with
    | some x => BitVec.ofNat 32 x
    | none => scanIdentity op

/-- The words of the lanes of a mask, ascending. -/
def laneWords (c : Ctx) (r : Nat) (l : List Nat) : List Lane := l.map (c.lane r)

/-- R342 VRED. -/
def execVred (f : LvF) (s : State) : Host.Outcome State Fault Refusal :=
  issue (.vred f) (crossInfo f [(.vector, f.a.reg.toNat)] (aMark f) (scalDst f))
    (fun rc s => .ok (modCtx s fun c =>
      c.writeS f.vd.toNat (vredWord (f.ext.toNat % 16) rc.fmt
        (laneWords rc f.a.reg.toNat (lanesOf (rc.takePart f.g)))))) s

/-- R342: the lanes that the fold of lane L takes. -/
def scanLanes (excl : Bool) (p : Mask) (l : Nat) : List Nat :=
  (lanesOf p).filter fun j => if excl then decide (j < l) else decide (j ≤ l)

/-- R342 VSCAN. -/
def execVscan (f : LvF) (s : State) : Host.Outcome State Fault Refusal :=
  issue (.vscan f) (crossInfo f [(.vector, f.a.reg.toNat)] (aMark f) (vecDst f))
    (fun rc s => .ok (modCtx s fun c => c.setV f.vd.toNat (rc.takePart f.g) fun l =>
      vscanWord (f.ext.toNat % 16) rc.fmt
        (laneWords rc f.a.reg.toNat (scanLanes (f.ext.getLsbD 4) (rc.takePart f.g) l)))) s

end Sys2Proof.Machine
end

