-- ==== Sys2Proof/Machine/HostControl.lean ====
section
/-! DEFINITION. Device control by the host: register writes (R8, R245, R246, R248), the function table (R247), the placement table
(R141), invalidations (R250), the memory window (R245), budgets (R254), peers (R251), keys and attestation (R249, R252), firmware and
reset (R253), the link (R244). -/

namespace Sys2Proof.Machine

/-- An update of a function-table entry: a change to the address map (R252 index 2). -/
def modFunc (s : State) (vf : Nat) (f : Func → Func) : State :=
  let x := f (getFunc s vf)
  measuredWrite s { s with funcs := mset Func.reset s.funcs vf x } 2 (x != getFunc s vf)

/-- One 8-byte half of a pointer slot written: the low 64 bits, or bits 71 to 64. -/
def setHalf (x : Addr) (high : Bool) (v : BitVec 64) : Addr :=
  if high then BitVec.ofNat 72 (x.toNat % 2 ^ 64 + v.toNat % 2 ^ 8 * 2 ^ 64)
  else BitVec.ofNat 72 (x.toNat / 2 ^ 64 * 2 ^ 64 + v.toNat)

/-- R247: whether another enabled entry holds an ASID or a KEY. -/
def funcTaken (s : State) (vf : Nat) (asid : BitVec 16) (key : BitVec 8) : Bool :=
  s.funcs.any fun e => e.1 != vf && e.2.en && (e.2.asid == asid || e.2.key == key)

/-- R247: an FBBASE with which a function may be enabled. -/
def fbbaseOk (x : Addr) : Bool := x != 0 && x.toNat % 4096 == 0

/-- R247: a write of CTL. -/
def writeCtl (s : State) (vf : Nat) (v : BitVec 64) : State :=
  let f := getFunc s vf
  let asid := if f.en then f.asid else BitVec.ofNat 16 (v.toNat / 2 ^ 8)
  let key := if f.en then f.key else BitVec.ofNat 8 (v.toNat / 2 ^ 24)
  let en := v.getLsbD 0 && (f.en || (!funcTaken s vf asid key && key != 0 && fbbaseOk f.fbbase))
  modFunc s vf fun f => { f with en := en, asid := asid, key := key }

/-- R247: whether a block of a function holds a stack frame. -/
def holdsFrame (s : State) (vf : Nat) : Bool := (allBlocks s).any fun b => b.vf == vf && b.frame.isSome

/-- R247: whether a launch of a function holds a record slot, or its head record does while its copy waits (R193). -/
def holdsSlot (s : State) (vf : Nat) : Bool :=
  (s.launches.any fun l => l.vf == vf && l.recSlot.isSome) ||
    s.ports.any fun e => e.2.owner == some vf && e.2.copySlot.isSome

/-- R247: one 64-bit word of GRANT written. -/
def setGrant (x : BitVec 256) (i : Nat) (v : BitVec 64) : BitVec 256 :=
  BitVec.ofNat 256 (x.toNat - x.toNat / 2 ^ (64 * i) % 2 ^ 64 * 2 ^ (64 * i) + v.toNat * 2 ^ (64 * i))

/-- R247: a write of FBBASE. -/
def writeFbbase (s : State) (vf : Nat) (high : Bool) (v : BitVec 64) : State :=
  let x := setHalf (getFunc s vf).fbbase high v
  if (getFunc s vf).en ∧ fbbaseOk x = false then s else modFunc s vf fun f => { f with fbbase := x }

/-- R247, R252: the 8 bytes at an offset of a function-table entry written; unused bytes keep nothing. -/
def execFunctionTableWrite (vf off : Nat) (val : BitVec 64) (s : State) : Host.Outcome State Fault Refusal :=
  .next (if 64 ≤ vf then s
    else if off = 0 then writeCtl s vf val
    else if off = 16 then modFunc s vf fun f => { f with root := BitVec.ofNat 52 val.toNat }
    else if off = 32 ∨ off = 40 then modFunc s vf fun f => { f with ecbase := setHalf f.ecbase (off == 40) val }
    else if off = 48 ∨ off = 56 then writeFbbase s vf (off == 56) val
    else if off = 64 ∨ off = 72 then modFunc s vf fun f => { f with apbase := setHalf f.apbase (off == 72) val }
    else if 80 ≤ off ∧ off < 112 ∧ off % 8 = 0 then
      (let g := setGrant (getFunc s vf).grant ((off - 80) / 8) val
       policyWrite s (modFunc s vf fun f => { f with grant := g }) 4 (g != (getFunc s vf).grant))
    else if off = 112 ∨ off = 120 then
      (if holdsFrame s vf then s else modFunc s vf fun f => { f with stkbase := setHalf f.stkbase (off == 120) val })
    else if off = 128 then
      (if holdsFrame s vf then s
       else modFunc s vf fun f =>
        { f with stkstride := BitVec.ofNat 32 val.toNat, stkcount := BitVec.ofNat 32 (val.toNat / 2 ^ 32) })
    else if off = 136 then
      (if holdsSlot s vf then s else modFunc s vf fun f => { f with reccount := BitVec.ofNat 32 val.toNat })
    else if off = 144 ∨ off = 152 then
      (if holdsSlot s vf then s else modFunc s vf fun f => { f with recbase := setHalf f.recbase (off == 152) val })
    else s)

/-- R141: 32 entries of the placement table written; one written with 2 or 3 stays. -/
def execPlacementTableWrite (first : Nat) (val : BitVec 64) (s : State) : Host.Outcome State Fault Refusal :=
  let place := (List.range 32).foldl (fun m i =>
    let v := val.toNat / 4 ^ i % 4
    if v ≤ 1 ∧ first + i < 2 ^ 22 then mset 0 m (first + i) (BitVec.ofNat 2 v) else m) s.place
  .next (measuredWrite s { s with place := place } 2
    ((List.range 32).any fun i => mget 0 place (first + i) != mget 0 s.place (first + i)))

/-- R250: whether a cached translation belongs to a page of an address space. -/
def coversPage (asid va : Nat) (e : TlbEntry) : Bool :=
  e.asid == asid && decide (e.base ≤ va) && decide (va < e.base + e.size)

/-- R250: the translations of which p holds dropped, from every TLB and walk cache. -/
def dropTlbs (s : State) (p : TlbEntry → Bool) : State :=
  { s with
    cores := s.cores.map fun e => (e.1, { e.2 with tlb := e.2.tlb.filter fun x => !p x })
    dies := s.dies.map fun e =>
      (e.1, { e.2 with tlb := e.2.tlb.filter (fun x => !p x), walks := e.2.walks.filter fun x => !p x }) }

/-- The sectors that some L1, L2, writeback buffer or directory holds. -/
def cachedSectors (s : State) : List Nat :=
  ((s.cores.flatMap fun e => e.2.l1.map fun x => x.sector) ++
    s.dies.flatMap fun e => (e.2.l2.map fun x => x.sector) ++ (e.2.wb.map fun x => x.sector) ++
      e.2.dir.flatMap fun x => (List.range 8).map fun j => 8 * x.line + j).eraseDups

/-- R142, R209: the HBM4E stack of a sector, over the device. -/
def stackOf (sector : Nat) : Nat := pseudoChannel sector / 64

/-- Whether some die still has to write a sector back. -/
def dirtySector (s : State) (sector : Nat) : Bool :=
  s.dies.any fun e => (e.2.l2.any fun x => x.sector == sector && (x.st == .M || x.st == .O)) || e.2.wb.any fun x => x.sector == sector

/-- R209: whether the write-back of a sector waits for a stack in self-refresh. -/
def frozenSector (s : State) (sector : Nat) : Bool := mget false s.hot (stackOf sector) && dirtySector s sector

/-- R250: sectors written back and dropped on every die, by the protocol; those that a frozen stack would take stay for now
(R209). -/
def flushSectors (s : State) (l : List Nat) : State := recallSectors s (l.filter fun x => !frozenSector s x)

/-- R141: whether a sector lies in the quad of a PA. -/
def inQuad (pa sector : Nat) : Bool := sector * 128 % 2 ^ 38 / 2 ^ 16 == pa % 2 ^ 38 / 2 ^ 16

/-- R249, R250: whether a sector is cached under a key: some L1, L2 or writeback buffer holds it under that key (log entry 19). -/
def inKey (s : State) (key sector : Nat) : Bool :=
  let under := fun (t : Nat) => t != 0 && (t - 1) % 256 == key
  (s.cores.any fun e => e.2.l1.any fun x => x.sector == sector && under x.tag) ||
    s.dies.any fun e => (e.2.l2 ++ e.2.wb).any fun x => x.sector == sector && under x.tag

/-- R250: the cached sectors of which an invalidation command makes every die write back and drop its copy. -/
def invalSectors (s : State) (r : Inval) : List Nat :=
  if r.kind = 2 then (cachedSectors s).filter (inQuad r.addr.toNat)
  else if r.kind = 3 then (cachedSectors s).filter (inKey s r.key.toNat)
  else []

/-- R250: what an invalidation command does, by its kind. -/
def invalidate (s : State) (r : Inval) : State :=
  if r.kind = 0 then dropTlbs s fun e => e.asid == r.asid.toNat
  else if r.kind = 1 then dropTlbs s (coversPage r.asid.toNat (r.addr.toNat % 2 ^ 72))
  else flushSectors s (invalSectors s r)

/-- R250: a command runs: GO reads 1. -/
def runInval (s : State) (r : Inval) : State :=
  invalidate { s with inval := { s.inval with go := true }, invalRun := some r } r

/-- R250: the registers of the command block written with GO: the command runs, or waits until the one that runs has completed. -/
def startInval (s : State) (r : Inval) : State :=
  let s1 := { s with inval := { r with go := s.inval.go } }
  if s.invalRun.isSome then { s1 with invalQ := s1.invalQ ++ [r] } else runInval s1 r

/-- R250 kind 0: the TLBs and walk caches of an address space. -/
def execInvalidateAsid (asid : Nat) (s : State) : Host.Outcome State Fault Refusal :=
  .next (startInval s { s.inval with asid := BitVec.ofNat 16 asid, kind := 0 })

/-- R250 kind 1: one page of an address space. -/
def execInvalidatePage (asid : Nat) (va : Addr) (s : State) : Host.Outcome State Fault Refusal :=
  .next (startInval s { s.inval with addr := va.zeroExtend 128, asid := BitVec.ofNat 16 asid, kind := 1 })

/-- R250 kind 2: every cached sector of a quad. -/
def execFlushQuad (pa : Nat) (s : State) : Host.Outcome State Fault Refusal :=
  .next (startInval s { s.inval with addr := BitVec.ofNat 128 pa, kind := 2 })

/-- R250 kind 3: every cached sector of a key. -/
def execFlushKey (key : Nat) (s : State) : Host.Outcome State Fault Refusal :=
  .next (startInval s { s.inval with key := BitVec.ofNat 8 key, kind := 3 })

/-- R152, R250: the command that runs completes: GO reads 0, and the next that waits runs. -/
def execInvalidationComplete (s : State) : Host.Outcome State Fault Refusal :=
  .next (match s.invalRun with
    | none => s
    | some r =>
      let s1 := { s with
        inval := { s.inval with go := false }
        invalRun := none
        flushed := if r.kind = 3 then mset false s.flushed r.key.toNat true else s.flushed }
      match s1.invalQ with
      | [] => s1
      | q :: t => runInval { s1 with invalQ := t } q)

/-- R245: the place of one byte of the memory window with its leaf, none where the access meets MEMF or PROT. -/
def windowPlace (s : State) (vf : Nat) (va : Addr) (write : Bool) : Option (Nat × Nat) :=
  match translate s 0 vf va with
  | .fault _ _ => none
  | .ok pa leaf => match protDetail s vf false write false false pa leaf with
    | some _ => none
    | none => some (accIdx s 0 leaf pa, leaf)

/-- R245: the places of n bytes of the window from an offset, none where one of them is not reached. -/
def windowPlaces (s : State) (vf off n : Nat) (write : Bool) : Option (List (Nat × Nat)) :=
  let l := (List.range n).filterMap fun k =>
    windowPlace s vf ((getFunc s vf).apbase + BitVec.ofNat 72 (off + k)) write
  if l.length = n then some l else none

/-- R245: byte k of a read through the window; of a poisoned granule the spec states none (log entry 17). -/
def windowByte (s : State) (k : Nat) (x : Nat × Nat) : Byte :=
  if poisonedAt s x.1 1 then Config.openByte s.freeCtr k else pageByte s x.2 x.1

/-- R245: a host access through the memory window; `off` counts from the window's start, 16 GiB into BAR2, and the window is 16
GiB long. It is uncached: a write is performed at its home. -/
def execHostWindowAccess (vf off : Nat) (size : BitVec 2) (data : Option (BitVec 64)) (s : State) :
    Host.Outcome State Fault Refusal :=
  let n := 2 ^ size.toNat
  let flt := modTenant s vf fun t => { t with wflt := true }
  .next (if 2 ^ 34 < off + n then s
    else match data with
    | none => match windowPlaces s vf off n false with
      | none => { flt with hostData := BitVec.ofNat 64 (2 ^ (8 * n) - 1) }
      | some l => { s with hostData := BitVec.ofNat 64 (leNat ((List.range n).zip l |>.map fun x => windowByte s x.1 x.2)) }
    | some v => match windowPlaces s vf off n true with
      | none => flt
      | some l => performBytes s l (leBytes n v.toNat))

/-- R254: BUD of 100 to 1,000 W, BASE of 0 to BUD; a write outside its range is ignored. It applies at the next sample. -/
def execBudgetWrite (die : Nat) (base : Bool) (watts : Nat) (s : State) : Host.Outcome State Fault Refusal :=
  .next (if 4 ≤ die then s
    else if base then
      (if watts ≤ (getDie s die).newBud then modDie s die fun d => { d with newBase := watts } else s)
    else if 100 ≤ watts ∧ watts ≤ 1000 then modDie s die fun d => { d with newBud := watts }
    else s)

/-- R251: the port mask of a peer without the ports that have failed. -/
def livePorts (s : State) (p : Peer) : Peer := { p with mask := p.mask &&& ~~~s.portsDown }

/-- R251, R252: a port that fails is dropped from every mask, which changes the peer table. -/
def execStrelfelPortFailure (port : Nat) (s : State) : Host.Outcome State Fault Refusal :=
  .next (if 24 ≤ port then s
    else
      let s1 := { s with portsDown := s.portsDown ||| BitVec.ofNat 24 (2 ^ port) }
      let s2 : State := { s1 with peers := s1.peers.map fun e => (e.1, livePorts s1 e.2) }
      if s2.peers = s.peers then s2 else staleReading s2 2)

/-- R251: the bytes of an incoming operation. -/
def peerBytesOf (op : AtomReq) : Nat := if op.aop = 31 then min 16 (2 ^ op.size.toNat) else atomBytes op.w64

/-- R251: an incoming write of a peer, or a reduction, which goes to the atomic unit of the home stack; both under key 0. It is
refused where its entry is not valid or it lies above the limit. -/
def execPeerIncomingAccess (peer : Nat) (op : AtomReq) (s : State) : Host.Outcome State Fault Refusal :=
  let p := mget Peer.reset s.peers peer
  let n := peerBytesOf op
  let i := homeIdx s.place op.pa.toNat
  .next (if p.valid && decide (op.pa.toNat + n ≤ p.limit.toNat) && isLocal op.pa.toNat && op.pa.toNat % n == 0 then
      (if op.aop = 31 then
        performBytes s ((List.range n).map fun k => (i + k, 0)) (leBytes n (op.b.toNat + op.c.toNat * 2 ^ 64))
       else if poisonedAt s i n then s
       else { s with unitOps := s.unitOps ++ [op] })
    else s)

/-- R252: what a measurement index measures: the firmware image, the address map, the repair tables, the key policy. -/
def measured (s : State) (index : Nat) : List Nat :=
  let cells := fun (l : List Host.Cell) => l.flatMap fun c => [c.1, c.2.toNat]
  if index = 1 then cells s.image
  else if index = 2 then
    (((List.range 64).flatMap fun f => funcBytes (getFunc s f)) ++ ((List.range 64).map fun p => assignByte (getPort s p)) ++
      (List.range 1024).flatMap fun k => peerBytes (mget Peer.reset s.peers k)).map (fun b => b.toNat) ++
      s.place.flatMap fun e => [e.1, e.2.toNat]
  else if index = 3 then [s.repair]
  else ((List.range 64).map fun f => (getFunc s f).grant.toNat) ++ s.signKeys.flatMap fun e => [e.1, e.2]

/-- R252: a measurement read in a session. -/
def execSpdmMeasurementRead (index : Nat) (s : State) : Host.Outcome State Fault Refusal :=
  .next (if s.session && decide (1 ≤ index) && decide (index ≤ 4) then
      { s with
        sessionRead := mset false s.sessionRead index true
        hostData := Config.measurement index (measured s index) }
    else s)

/-- R252: a secured session starts and is in use; it has read nothing. -/
def execSecuredSession (s : State) : Host.Outcome State Fault Refusal :=
  let s1 := parkSession s
  .next { s1 with session := true, sessionNo := s1.sessions.length + 1, sessionRead := [] }

/-- R252, R249: a tenant key installed in a session that has read indices 2, 3 and 4 since their last change. -/
def execKeyInstall (key : Nat) (s : State) : Host.Outcome State Fault Refusal :=
  .next (if s.session && decide (1 ≤ key) && decide (key ≤ 255) && mget false s.sessionRead 2 &&
      mget false s.sessionRead 3 && mget false s.sessionRead 4 then
      { s with
        keys := mset false s.keys key true
        keyGen := mset 0 s.keyGen key (mget 0 s.keyGen key + 1)
        flushed := mset false s.flushed key false }
    else s)

/-- R249, R252: a key cleared in a session, after a flush of the key has completed. -/
def execKeyClear (key : Nat) (s : State) : Host.Outcome State Fault Refusal :=
  .next (if s.session && mget false s.flushed key then { s with keys := mset false s.keys key false } else s)

/-- R253: the device after a reset: what lies outside it stays; local memory is open (log entry 18), for key 0 is drawn anew
(R249). The firmware image is checked before any core runs: without a good one the device comes up in recovery. -/
def resetDevice (s : State) : State :=
  { State.reset with
    mem := writeCells [] ((Config.memAfterReset s.freeCtr).filter fun c => decide (c.1 < 2 ^ 40))
    hostMem := s.hostMem
    peerMem := s.peerMem
    firmware := s.firmware
    image := s.image
    recovery := !s.firmware
    repair := s.repair
    signKeys := s.signKeys
    temps := s.temps
    freeCtr := s.freeCtr
    env := s.env
    agenda := s.agenda }

/-- R253: a device reset. -/
def execDeviceReset (s : State) : Host.Outcome State Fault Refusal := .next (resetDevice s)

/-- R253: whether what the host has written through the identity block is a good image. -/
def imageOk (s : State) : Bool := s.bar != [] && Config.imageHolds s.bar

/-- R253: the image that the host has written through the identity block is verified: a good one replaces the old, one that fails
leaves it; a reset during replacement brings the device up in recovery. An event that names the other outcome than the one
that the bytes have does not happen. -/
def execFirmwareUpdate (good interrupted : Bool) (s : State) : Host.Outcome State Fault Refusal :=
  let s1 := { s with bar := [] }
  .next (if good != imageOk s then s
    else if good then
      (if interrupted then resetDevice { s1 with firmware := false, image := [] }
       else measuredWrite { s1 with firmware := true, recovery := false }
         { s1 with firmware := true, recovery := false, image := s.bar } 1 (s.bar != s.image))
    else s1)

/-- R244: the link trains at a rate of PCI Express generation 1 to 6 and a width of 1 to 16 lanes. -/
def execLinkTraining (rate width : Nat) (s : State) : Host.Outcome State Fault Refusal :=
  .next (if 1 ≤ rate ∧ rate ≤ 6 ∧ 1 ≤ width ∧ width ≤ 16 then { s with link := some (rate, width) } else s)

/-- R192, R245: a write of 8 bytes to a port window; the windows of ports of other functions ignore it. The bytes of RECORD are
staged; CRBASE is 4 KiB aligned; CRTAIL counts modulo 2^32. DESIGN CHOICE: R192 does not say what a write of an unaligned CRBASE
does; the model keeps the value rounded down to 4 KiB (log entry 20). -/
def writeWindow (s : State) (port off : Nat) (val : BitVec 64) : State :=
  if portOpen s port = false then s
  else if off + 8 ≤ 56 then stageBytes s port off (leBytes 8 val.toNat)
  else if off = 0x50 then
    modPort s port fun p => { p with crbase := setHalf p.crbase false (BitVec.ofNat 64 (val.toNat / 4096 * 4096)) }
  else if off = 0x58 then modPort s port fun p => { p with crbase := setHalf p.crbase true val }
  else if off = 0x68 then modPort s port fun p => { p with crtail := BitVec.ofNat 32 val.toNat }
  else s

/-- R246: a byte of the port assignment: {valid, function}. -/
def portOwner (b : Nat) : Option Nat := if 128 ≤ b then some (b % 64) else none

/-- R246: a byte of the port assignment written; bit 6 is reserved. -/
def assignPort (s : State) (port b : Nat) : State :=
  let p := getPort s port
  measuredWrite s (modPort s port fun p => { p with owner := portOwner b, fn := BitVec.ofNat 6 b }) 2
    (p.owner != portOwner b || p.fn != BitVec.ofNat 6 b)

/-- R251: one half of a peer-table entry written: mask, valid and the limit's low 4 bytes, or its high 4 bytes; the rest is
zero. -/
def writePeer (s : State) (off : Nat) (val : BitVec 64) : State :=
  let k := off / 16
  let p := mget Peer.reset s.peers k
  let lim := p.limit.toNat
  let p1 := if off % 16 < 8 then
      { p with
        mask := BitVec.ofNat 24 val.toNat, valid := val.getLsbD 31
        limit := BitVec.ofNat 64 (lim / 2 ^ 32 * 2 ^ 32 + val.toNat / 2 ^ 32) }
    else { p with limit := BitVec.ofNat 64 (lim % 2 ^ 32 + val.toNat % 2 ^ 32 * 2 ^ 32) }
  measuredWrite s { s with peers := mset Peer.reset s.peers k (livePorts s p1) } 2 (livePorts s p1 != p)

/-- R254: the critical temperatures of 8 stacks written, each of 70 to 110. -/
def writeCrit (s : State) (first : Nat) (val : BitVec 64) : State :=
  coolFrom s { s with crit := (List.range 8).foldl (fun m i =>
      let v := val.toNat / 256 ^ i % 256
      if 70 ≤ v ∧ v ≤ 110 then mset 110 m (first + i) v else m) s.crit }

/-- R246, R253: a write of 8 bytes to the identity block: reset control resets the device; any other write is one of the bytes of
an image, and changes no register of the block (R8; log entry 20). -/
def writeIdentity (s : State) (off : Nat) (val : BitVec 64) : State :=
  if (off, val) = Config.resetControl then resetDevice s
  else { s with bar := writeCells s.bar (cellsAt off (leBytes 8 val.toNat)) }

/-- R246: a write of 8 bytes to the physical function's BAR0. -/
def writeControl (s : State) (off : Nat) (val : BitVec 64) : State :=
  if off < 0x10000 then writeIdentity s off val
  else if 0x20000 ≤ off ∧ off < 0x20040 then
    (List.range 8).foldl (fun s i => assignPort s (off - 0x20000 + i) (val.toNat / 256 ^ i % 256)) s
  else if off = 0x30000 then
    { s with inval := { s.inval with addr := BitVec.ofNat 128 (s.inval.addr.toNat / 2 ^ 64 * 2 ^ 64 + val.toNat) } }
  else if off = 0x30008 then
    { s with inval := { s.inval with addr := BitVec.ofNat 128 (s.inval.addr.toNat % 2 ^ 64 + val.toNat * 2 ^ 64) } }
  else if off = 0x30010 then
    { s with inval := { s.inval with
        asid := BitVec.ofNat 16 val.toNat, kind := BitVec.ofNat 8 (val.toNat / 2 ^ 16), key := BitVec.ofNat 8 (val.toNat / 2 ^ 24) } }
  else if 0x40000 ≤ off ∧ off < 0x44000 then writePeer s (off - 0x40000) val
  else if off = 0x300020 ∨ off = 0x300028 then writeCrit s (off - 0x300020) val
  else s

/-- R248: a write of 8 bytes to a virtual function's BAR0: FANSEQ and the registry. DESIGN CHOICE: R248 lists bit 0 of the valid
word of a registry entry and leaves bits 31 to 1 unnamed; the model keeps them as written and reads them back (log entry 20). -/
def writeTenant (s : State) (vf off : Nat) (val : BitVec 64) : State :=
  if off = 0x10 then modTenant s vf fun t => { t with fanseq := val }
  else if 0x1000 ≤ off ∧ off < 0x2000 then
    modTenant s vf fun t => { t with registry := msetAll 0 t.registry (off - 0x1000) (leBytes 8 val.toNat) }
  else s

/-- R8, R245, R246, R248: 8 bytes written to a register whose write does nothing else. In BAR2 `off` counts through the port
windows; in BAR0 it counts through the physical function's 64 MiB and then the 64 KiB of each virtual function (log entry 20). A
write that is not aligned, or to a register with an event of its own, changes nothing here. -/
def execRegisterWrite (bar2 : Bool) (off : Nat) (val : BitVec 64) (s : State) : Host.Outcome State Fault Refusal :=
  .next (if off % 8 ≠ 0 then s
    else if bar2 then (if off < 0x40000 then writeWindow s (off / 0x1000) (off % 0x1000) val else s)
    else if off < 0x4000000 then writeControl s off val
    else if off < 0x4400000 then writeTenant s ((off - 0x4000000) / 0x10000) (off % 0x10000) val
    else s)

end Sys2Proof.Machine
end

