-- ==== Sys2Proof/Machine/Freeze.lean ====
section
/-! DEFINITION. Stack freeze and resume (R209, R219), and which events may happen while the device is frozen, stopped by a fatal
event (R224) or in recovery (R253). -/

namespace Sys2Proof.Machine

/-- The events that a freeze holds back until the device resumes (R209, R219): a fault denied aborts, and writes to memory, as a
cancel does (log entry 35). -/
def heldEvent : Instr → Bool
  | .recordEnqueue _ _ => true
  | .hostCancel _ _ => true
  | .hostCancelKill _ _ => true
  | .preemption _ => true
  | .faultDenied _ _ => true
  | _ => false

/-- The events of the host, of management and of the links, which go on while the cores stand still. -/
def hostEvent : Instr → Bool
  | .qstatRead _ => true
  | .faultResolved _ _ => true
  | .faultDenied _ _ => true
  | .fstsRead _ => true
  | .moduleUnloadRequest _ _ => true
  | .functionTableWrite _ _ _ => true
  | .placementTableWrite _ _ => true
  | .invalidateAsid _ => true
  | .invalidatePage _ _ => true
  | .flushQuad _ => true
  | .flushKey _ => true
  | .invalidationComplete => true
  | .mcpopWrite _ _ => true
  | .mcclrWrite _ _ => true
  | .dieLinkRetransmit _ _ => true
  | .fatalError => true
  | .budgetWrite _ _ _ => true
  | .strelfelPortFailure _ => true
  | .spdmMeasurementRead _ => true
  | .keyInstall _ => true
  | .keyClear _ => true
  | .firmwareUpdate _ _ => true
  | .deviceReset => true
  | .registerWrite _ _ _ => true
  | .linkTraining _ _ => true
  | .securedSession => true
  | .fbtailWrite _ _ => true
  | .governorSample _ _ => true
  | .stackFreeze _ => true
  | .stackResume => true
  | _ => false

/-- The requests of the host and of peers to memory, which wait where their stack is frozen (R209). -/
def hostRequest : Instr → Bool
  | .hostWindowAccess _ _ _ _ => true
  | .peerIncomingAccess _ _ => true
  | _ => false

/-- The sector that an access of a core finds at an address. -/
def sectorAt (s : State) (core vf : Nat) (va : Addr) : List Nat :=
  match translate s core vf va with
  | .ok pa leaf => [accIdx s core leaf pa / 128]
  | .fault _ _ => []

/-- The sectors of the fault buffer of a function to which the records that wait in the device go. -/
def ringSectors (s : State) (vf : Nat) : List Nat :=
  let t := getTenant s vf
  (List.range t.waiting.length).flatMap fun k =>
    sectorAt s 0 vf ((getFunc s vf).fbbase + BitVec.ofNat 72 (32 * ((t.fbhead.toNat + k) % 128)))

/-- R209: the memory stacks, over the device, that a request which an event moves on goes to; none for an event of another kind.
-/
def requestStacks (s : State) (e : Instr) : Option (List Nat) :=
  let at_ := fun (l : List Nat) => some (l.map stackOf)
  let f := getFunc s s.blk.vf
  match e with
  | .loadDataReturn va => at_ (sectorAt s s.blk.core s.blk.vf va)
  | .instructionFetchFill va => at_ (sectorAt s s.blk.core s.blk.vf va)
  | .missQueueRelease channel => some [channel / 64]
  | .pageWalk va =>
    at_ ((walkPath s (dieOf s.blk.core) f.asid.toNat va.toNat 5 f.root.toNat).map fun x =>
      walkIdx s (dieOf s.blk.core) x.2.2 / 128)
  | .l1SectorExpiry sector => at_ [sector]
  | .invalidationComplete => at_ (match s.invalRun with
    | some r => (invalSectors s r).filter (frozenSector s)
    | none => [])
  | .atomicUnitOperation op => at_ [homeIdx s.place op.pa.toNat / 128]
  | .hostWindowAccess vf off size _ =>
    let va := (getFunc s vf).apbase + BitVec.ofNat 72 off
    at_ (sectorAt s 0 vf va ++ sectorAt s 0 vf (va + BitVec.ofNat 72 (2 ^ size.toNat - 1)))
  | .peerIncomingAccess _ op => at_ [homeIdx s.place op.pa.toNat / 128]
  | .fbtailWrite vf _ => at_ (ringSectors s vf)
  | .rds _ sector => at_ [sector]
  | .rdx _ sector => at_ [sector]
  | .upg _ sector => at_ [sector]
  | .wbk _ sector => at_ [sector]
  | .evc _ sector => at_ [sector]
  | .sfw _ sector => at_ [sector]
  | .sfx _ sector => at_ [sector]
  | .sin _ sector => at_ [sector]
  | .dat _ sector => at_ [sector]
  | .ack _ sector => at_ [sector]
  | .cmp _ sector => at_ [sector]
  | _ => none

/-- Whether an event may happen: in recovery only a new image, written and verified, or a reset (R253), after a fatal event only
what the host does (R224), during a freeze that and the requests to stacks that run (R209). -/
def mayHappen (s : State) (e : Instr) : Bool :=
  if s.recovery then (match e with
    | .firmwareUpdate _ _ => true
    | .deviceReset => true
    | .registerWrite bar2 off _ => !bar2 && decide (off < 0x10000)
    | _ => false)
  else if s.halted then hostEvent e || hostRequest e
  else if s.frozen then
    match requestStacks s e with
    | some l => l.all fun x => !mget false s.hot x
    | none => hostEvent e && !heldEvent e
  else true

/-- R209: an action that a freeze holds back, as it stands when it arrives. -/
def heldAct (s : State) (e : Instr) : HeldAct where
  op := e
  record := match e with
    | .recordEnqueue port last => stagedWith (getPort s port) last
    | _ => 0
  via := s.via

/-- What becomes of an event that may not happen now: a freeze keeps launches, cancels, pre-emptions, denials and the requests
of the host and of peers for later; FBTAIL takes its value, and the records that wait are written later. -/
def heldBack (s : State) (e : Instr) : State :=
  if s.frozen && !s.halted && !s.recovery then
    match e with
    | .fbtailWrite vf val => { modTenant s vf fun t => { t with fbtail := val } with held := s.held ++ [heldAct s e] }
    | _ => if heldEvent e || hostRequest e then { s with held := s.held ++ [heldAct s e] } else s
  else s

/-- R209: a stack reaches its critical temperature. -/
def execStackFreeze (stack : Nat) (s : State) : Host.Outcome State Fault Refusal :=
  .next (measure s stack (max (tempOf s stack) (critOf s stack)))

/-- The state after an outcome that is a next state. -/
def nextOr (s : State) (o : Host.Outcome State Fault Refusal) : State :=
  match o with
  | .next t => t
  | _ => s

/-- R209: an action that a freeze has held back takes effect. -/
def replayAct (s : State) (a : HeldAct) : State :=
  let s1 := { s with via := a.via }
  match a.op with
  | .recordEnqueue port _ => if portOpen s1 port then enqueueRecord s1 port false a.record else s1
  | .hostCancel port lid => nextOr s1 (execHostCancel port lid s1)
  | .hostCancelKill port lid => nextOr s1 (execHostCancelKill port lid s1)
  | .preemption port => nextOr s1 (execPreemption port s1)
  | .hostWindowAccess vf off size data => nextOr s1 (execHostWindowAccess vf off size data s1)
  | .peerIncomingAccess peer op => nextOr s1 (execPeerIncomingAccess peer op s1)
  | .faultDenied vf seq => nextOr s1 (execFaultDenied vf seq s1)
  | .fbtailWrite vf _ => writeWaiting s1 vf
  | _ => s1

/-- R209: 1 ms in counts of the reference time base. -/
def coolCounts : Nat := 1500000

/-- R209, R250: the write-backs of the invalidation command that runs, which waited for a frozen stack. -/
def resumeInval (s : State) : State :=
  match s.invalRun with
  | some r => flushSectors s (invalSectors s r)
  | none => s

/-- R209: once every stack has stood 5 °C below critical for 1 ms without a break the device resumes, and what arrived during the
freeze takes effect in its order. -/
def execStackResume (s : State) : Host.Outcome State Fault Refusal :=
  .next (if s.frozen && allCool s && decide (s.cooled + coolCounts ≤ s.clock) then
      s.held.foldl replayAct (resumeInval { s with frozen := false, hot := [], held := [] })
    else s)

end Sys2Proof.Machine
end

