-- ==== Sys2Proof/Machine/Matrix.lean ====
section
/-! DEFINITION. The matrix instructions: MCUBE, MLDF, MZERO, MSTZ, MRDZ, MWRZ, MSCL (R118 to R131, R296, R297). -/

namespace Sys2Proof.Machine

/-- R112: whether a tile lies outside the block's rows or the columns. -/
def tileOut (b : Block) (arow : BitVec 7) (mc : BitVec 3) (acol : BitVec 3) (nc : BitVec 2) : Bool :=
  decide (b.accrows < arow.toNat + rowsOf mc) || decide (128 < 16 * acol.toNat + colsOf nc)

/-- The registers as reads of the vector class. -/
def vecReads (l : List Nat) : List (RegClass × Nat) := l.map fun r => (.vector, r)

/-- R119: the plane registers of an MCUBE of the group in focus. -/
def mcubeRegs (s : State) (f : LcF) : List Nat :=
  memberRegs f s.ctx.gang s.g.slot (spanOp s.blk f) (s.blk.spanPos == 0)

/-- R118, R119, R297: what issue needs of an MCUBE: the composition check comes before the wait for the planes. DESIGN CHOICE:
poison in a lane of a plane's register that holds no row (lanes 8 to 31 where the plane has one row, R114) raises SOFTERR as
that of any lane does, since R119 and R223 have the instruction read whole registers (log entry 26). -/
def mcubeInfo (s : State) (f : LcF) : Info where
  size := 8
  reads := vecReads (mcubeRegs s f)
  closes := true
  lands := mcubeRegs s f
  jumps := true
  ill := tileOut s.blk f.arow f.mc f.acol f.nc
  first :=
    if composed f s.ctx.gang s.g.slot s.blk.groups (spanOp s.blk f) (s.blk.spanPos == 0) then none else some (gangTrap 4)

/-- R119 MCUBE: the arrival; the members retire when the rendezvous is accepted. -/
def mcubeBody (f : LcF) (s : State) : Except Halt State := .error (.stay (arrive s f))

/-- R119 MCUBE. -/
def execMcube (f : LcF) (s : State) : Host.Outcome State Fault Refusal :=
  issue (.mcube f) (mcubeInfo s f) (fun _ s => mcubeBody f s) s

/-- R113, R119, R123: a rendezvous of the block in focus that has completed enters cube order when there is room. -/
def execCubeAccept (s : State) : Host.Outcome State Fault Refusal := .next (acceptJoin s s.blk)

/-- R127: the rows of an MLDF. -/
def mldfRows (f : LfF) : Nat := if f.rows = 0 then 1 else 8 * 2 ^ f.rows.toNat

/-- R127: the words of lane L, by number. -/
def mldfWords (q l : Nat) : List Nat := (List.range (8 * q)).filter fun w => w % 32 == l

/-- R127: the scratch offsets that word w is read from, exact: one at or above 2^32 lies outside every window. -/
def mldfOffsets (f : LfF) (off pitch w : Nat) : List Nat :=
  let e := efWidth f.ef / 8
  if f.t then (List.range (4 / e)).map fun i => off + (w % 8 * (4 / e) + i) * pitch + w / 8 * e
  else [off + w / 8 * pitch + 4 * (w % 8)]

/-- R127: the bytes of each read of an MLDF. -/
def mldfSize (f : LfF) : Nat := if f.t then efWidth f.ef / 8 else 4

/-- R127: the word that the reads give. -/
def mldfWord (s : State) (f : LfF) (off pitch w : Nat) : Lane :=
  BitVec.ofNat 32 (leNat ((mldfOffsets f off pitch w).flatMap fun o => scratchRead s s.blk o (mldfSize f)))

/-- R161: the scratch offsets that the lanes of an MLDF read at. -/
def mldfOffs (f : LfF) (off pitch : Nat) (m : Mask) : List Nat :=
  (lanesOf m).flatMap fun l => (mldfWords (mldfRows f) l).flatMap fun w =>
    mldfOffsets f off pitch w

/-- R213: TRAPVA of a misaligned MLDF. -/
def mldfAlign (off pitch : Nat) : Option Addr :=
  if off % 16 ≠ 0 then some (BitVec.ofNat 72 off)
  else if pitch % 16 ≠ 0 then some (BitVec.ofNat 72 (off + pitch))
  else none

/-- R127, R113 MLDF: accepted when the cube queue has room. -/
def mldfBody (f : LfF) (rc : Ctx) (s : State) : Except Halt State :=
  let off := (rc.readS f.off.toNat).toNat % 2 ^ 32
  let pitch := (rc.readS f.pitch.toNat).toNat % 2 ^ 32
  let q := mldfRows f
  let m := rc.takePart f.g
  if !cubeRoom s s.blk.core then .error (.wait (.cube s.blk.core))
  else match mldfAlign off pitch with
  | some va => .error (.trap (memTrap 2 0 none va))
  | none =>
    match checkScratch s.blk (mldfSize f) true ((lanesOf m).flatMap fun l =>
        (mldfWords q l).flatMap fun w => (mldfOffsets f off pitch w).map fun o => (some (BitVec.ofNat 5 l), o)) with
    | .error h => .error h
    | .ok _ =>
      .ok (modCtx (looseRead s s.blk.uid (mldfSize f) (mldfOffs f off pitch m)) fun c =>
        (List.range (if q = 1 then 1 else q / 4)).foldl (fun c r =>
        c.setV (f.base.toNat + r) (if q = 1 then m &&& 0xFF else m) fun l =>
          mldfWord s f off pitch (32 * r + l)) c)

/-- R127 MLDF. -/
def execMldf (f : LfF) (s : State) : Host.Outcome State Fault Refusal :=
  issue (.mldf f)
    { size := 8
      reads := [(.predicate, f.g.pg.toNat), (.scalar, f.off.toNat), (.scalar, f.pitch.toNat)]
      writes := vecReads (rowRegs f.base.toNat (mldfRows f))
      closes := true
      guard := some f.g
      writeLanes := if f.rows = 0 then some 0xFF else none }
    (mldfBody f) s

/-- R129, R297: the registers of a tile in MRDZ and MWRZ. -/
def tileRegs (f : LzF) : List Nat := regRange f.base.toNat (rowsOf f.mc * colsOf f.nc / 32)

/-- An operation of the block in focus accepted into cube order, after waiting for room (R113). -/
def acceptOwn (s : State) (op : CubeOp) : Except Halt State :=
  if cubeRoom s s.blk.core then .ok (acceptJob s s.blk.core ⟨s.blk.uid, op, []⟩) else .error (.wait (.cube s.blk.core))

/-- R129 MZERO. -/
def execMzero (f : LzF) (s : State) : Host.Outcome State Fault Refusal :=
  issue (.mzero f) { size := 8, closes := true, ill := tileOut s.blk f.arow f.mc f.acol f.nc }
    (fun _ s => acceptOwn s (.zero f)) s

/-- R129: the words of a tile whose lanes take part. -/
def tileWords (f : LzF) (m : Mask) : List Nat :=
  (List.range (rowsOf f.mc * colsOf f.nc)).filter fun w => laneOn m (w % 32)

/-- R129: the element of word w of a tile. -/
def wordElem (f : LzF) (w : Nat) : Nat × Nat :=
  (f.arow.toNat + w / colsOf f.nc, 16 * f.acol.toNat + w % colsOf f.nc)

/-- R129, R223 MRDZ: after every operation ahead of it in cube order. -/
def mrdzBody (f : LzF) (rc : Ctx) (s : State) : Except Halt State :=
  let s1 := drainCube s s.blk.core
  let m := rc.takePart f.g
  if (tileWords f m).any fun w => mget false s1.blk.accPoison (accKey (wordElem f w).1 (wordElem f w).2) then
    .error (.stay (takeTrap (issued s1) ⟨12, 4, 0, 0, none⟩ (fullLen s1.ctx 8) none))
  else .ok (modCtx s1 fun c => (List.range (rowsOf f.mc * colsOf f.nc / 32)).foldl (fun c r =>
    c.setV (f.base.toNat + r) m fun l =>
      accAt s1.blk (wordElem f (32 * r + l)).1 (wordElem f (32 * r + l)).2) c)

/-- R129 MRDZ. -/
def execMrdz (f : LzF) (s : State) : Host.Outcome State Fault Refusal :=
  issue (.mrdz f)
    { size := 8, reads := [(.predicate, f.g.pg.toNat)], writes := vecReads (tileRegs f), closes := true
      guard := some f.g, ill := tileOut s.blk f.arow f.mc f.acol f.nc }
    (mrdzBody f) s

/-- R129 MWRZ. -/
def mwrzBody (f : LzF) (rc : Ctx) (s : State) : Except Halt State :=
  acceptOwn s (.write f ((tileWords f (rc.takePart f.g)).map fun w => (w, rc.lane (f.base.toNat + w / 32) (w % 32))))

/-- R129 MWRZ. -/
def execMwrz (f : LzF) (s : State) : Host.Outcome State Fault Refusal :=
  issue (.mwrz f)
    { size := 8, reads := (.predicate, f.g.pg.toNat) :: vecReads (tileRegs f), closes := true, lands := tileRegs f
      guard := some f.g, ill := tileOut s.blk f.arow f.mc f.acol f.nc }
    (mwrzBody f) s

/-- R129: how many scales MSCL reads. -/
def scaleCount (f : LzF) : Nat := if f.hi = 1 then colsOf f.nc else rowsOf f.mc

/-- R129 MSCL. -/
def msclBody (f : LzF) (rc : Ctx) (s : State) : Except Halt State :=
  acceptOwn s (.scale f (putWords [] ((List.range (scaleCount f)).map fun i =>
    (i, rc.lane (f.base.toNat + i / 32) (i % 32)))))

/-- R129 MSCL. -/
def execMscl (f : LzF) (s : State) : Host.Outcome State Fault Refusal :=
  issue (.mscl f)
    { size := 8, reads := vecReads (regRange f.base.toNat ((scaleCount f + 31) / 32)), closes := true
      lands := regRange f.base.toNat ((scaleCount f + 31) / 32)
      readLanes := if scaleCount f = 16 then some 0xFFFF else none
      ill := tileOut s.blk f.arow f.mc f.acol f.nc }
    (msclBody f) s

/-- R130: the bytes of an element of a format. -/
def mstzSize (fmt : BitVec 3) : Nat :=
  if fmt = 0 then 4 else if fmt = 1 then 2 else if fmt = 2 then 2 else if fmt = 5 then 4 else 1

/-- R130: the value stored, and whether it clamps. -/
def mstzValue (f : LzF) (d : Lane) : Nat × Bool :=
  let x := decodeF fp32 false d.toNat
  if f.fmt = 0 ∨ f.fmt = 5 then (d.toNat, false)
  else if f.fmt = 1 then (roundF bf16 .rne false f.sat x, false)
  else if f.fmt = 2 then (roundF fp16 .rne false f.sat x, false)
  else if f.fmt = 3 then (roundF f8a .rne false f.sat x, false)
  else if f.fmt = 4 then (roundF f8b .rne false f.sat x, false)
  else if f.sat then (truncI (satS d.toInt 8).1 8, (satS d.toInt 8).2)
  else (d.toNat % 256, false)

/-- R130: the start of row m, in scratch or in the global space. -/
def mstzRow (f : LzF) (rc : Ctx) (m : Nat) : Addr :=
  let off := rc.readS (f.base.toNat % 64)
  let pitch := rc.readS f.hi.toNat
  if f.n = 0 then BitVec.ofNat 72 (off.toNat % 2 ^ 32 + m * (pitch.toNat % 2 ^ 32))
  else toAddr (((rc.readA f.n.toNat).toNat : Int) + off.toInt + (m : Int) * pitch.toInt)

/-- R130: the address of element (m, n). -/
def mstzAddr (f : LzF) (rc : Ctx) (e : Nat × Nat) : Addr :=
  mstzRow f rc e.1 + BitVec.ofNat 72 (e.2 * mstzSize f.fmt)

/-- R130: the bytes of element (m, n) of the tile. -/
def mstzBytes (f : LzF) (b : Block) (e : Nat × Nat) : List Byte :=
  leBytes (mstzSize f.fmt) (mstzValue f (accAt b (f.arow.toNat + e.1) (16 * f.acol.toNat + e.2))).1

/-- R223: the elements before the first poisoned one, and whether there is one. -/
def untilPoison (f : LzF) (b : Block) : List (Nat × Nat) → List (Nat × Nat) × Bool
  | [] => ([], false)
  | e :: t =>
    if mget false b.accPoison (accKey (f.arow.toNat + e.1) (16 * f.acol.toNat + e.2)) then ([], true)
    else ((e :: (untilPoison f b t).1), (untilPoison f b t).2)

/-- R130: elements stored to the block's scratch or, at the places of their accesses, to memory. -/
def mstzStore (f : LzF) (rc : Ctx) (es : List (Nat × Nat)) (accs : List Acc) (s : State) : State :=
  if f.n = 0 then storeScratch s s.blk.uid (es.flatMap fun e => cellsAt (mstzAddr f rc e).toNat (mstzBytes f s.blk e))
  else storeGroup s (accs.take es.length) ((accs.zip es).flatMap fun x => cellsAt x.1.idx (mstzBytes f s.blk x.2))

/-- R130: the accesses of a tile's elements, after every check. -/
def mstzPlaces (f : LzF) (rc : Ctx) (s : State) (es : List (Nat × Nat)) : Except Halt (List Acc) :=
  match (List.range (rowsOf f.mc)).find? fun m => (mstzRow f rc m).toNat % 16 != 0 with
  | some m => .error (.trap (memTrap 2 0 none (mstzRow f rc m)))
  | none =>
    if f.n = 0 then
      match checkScratch s.blk (mstzSize f.fmt) false (es.map fun e => (none, (mstzAddr f rc e).toNat)) with
      | .error h => .error h
      | .ok _ => .ok []
    else
      checkGlobal s kindWrite (mstzSize f.fmt) (es.map fun e => (none, mstzAddr f rc e))

/-- R130, R223 MSTZ. -/
def mstzBody (f : LzF) (rc : Ctx) (s : State) : Except Halt State :=
  let s1 := drainCube s s.blk.core
  let es := tileOf (rowsOf f.mc) (colsOf f.nc)
  match mstzPlaces f rc s1 es with
  | .error h => .error h
  | .ok accs =>
    let cut := untilPoison f s1.blk es
    let s2 := mstzStore f rc cut.1 accs s1
    if cut.2 then .error (.stay (takeTrap (issued s2) ⟨12, 4, 0, 0, none⟩ (fullLen s2.ctx 8) none))
    else .ok (modCtx s2 fun c => { c with
      status := setSatf c.status (es.any fun e =>
        (mstzValue f (accAt s1.blk (f.arow.toNat + e.1) (16 * f.acol.toNat + e.2))).2) })

/-- R130 MSTZ. -/
def execMstz (f : LzF) (s : State) : Host.Outcome State Fault Refusal :=
  issue (.mstz f)
    { size := 8
      reads := (if f.n = 0 then [] else [(.address, f.n.toNat)]) ++ [(.scalar, f.base.toNat % 64), (.scalar, f.hi.toNat)]
      closes := true
      ill := tileOut s.blk f.arow f.mc f.acol f.nc }
    (mstzBody f) s

end Sys2Proof.Machine
end

