-- ==== Sys2Proof/Machine/Scalar.lean ====
section
/-! DEFINITION. The scalar and address instructions: NOP and IMX (R257, R298), scalar arithmetic (R302 to R306, R311 to R313),
comparisons (R305), address arithmetic (R272). -/

namespace Sys2Proof.Machine

/-- A WR instruction with two scalar sources and a fixed latency. -/
def wrInfo (w : BitVec 3) (latency : Nat) (d a b : BitVec 6) : Info where
  size := 4
  reads := [(.scalar, a.toNat), (.scalar, b.toNat)]
  writes := [(.scalar, d.toNat)]
  stall := w.toNat
  latency := latency
  furrow := 1

/-- A WR instruction with one scalar source. -/
def wr1Info (w : BitVec 3) (d a : BitVec 6) : Info where
  size := 4
  reads := [(.scalar, a.toNat)]
  writes := [(.scalar, d.toNat)]
  stall := w.toNat
  latency := 2
  furrow := 1

/-- A WI instruction. -/
def wiInfo (d a : BitVec 6) : Info where
  size := 4
  reads := [(.scalar, a.toNat)]
  writes := [(.scalar, d.toNat)]
  accepts := true
  furrow := 1

/-- R302, R312: a scalar result of two scalar operands. -/
def scalarRR (op : SWord → SWord → SWord) (d a b : BitVec 6) (rc : Ctx) (s : State) : Except Halt State :=
  .ok (modCtx s fun c => c.writeS d.toNat (op (rc.readS a.toNat) (rc.readS b.toNat)))

/-- R302: a scalar result of a scalar and an immediate. -/
def scalarRI (op : SWord → SWord → SWord) (d a : BitVec 6) (imm : BitVec 12) (rc : Ctx) (s : State) : Except Halt State :=
  .ok (modCtx s fun c => c.writeS d.toNat (op (rc.readS a.toNat) (BitVec.ofInt 64 (widen rc.prefixes 12 imm.toNat))))

/-- R304: a scalar result of one scalar operand. -/
def scalarR (op : SWord → Nat) (d a : BitVec 6) (rc : Ctx) (s : State) : Except Halt State :=
  .ok (modCtx s fun c => c.writeS d.toNat (BitVec.ofNat 64 (op (rc.readS a.toNat))))

/-- R306, R107: a division; its result stands in the divider's queue until it is used or its event comes. -/
def scalarDiv (signed rem : Bool) (d a b : BitVec 6) (rc : Ctx) (s : State) : Except Halt State :=
  let q := divRem signed (rc.readS a.toNat) (rc.readS b.toNat)
  let s1 := modCtx s fun c => c.writeS d.toNat (if rem then q.2 else q.1)
  .ok (modPart s1 (myPart s1) fun p => { p with divQueue := p.divQueue ++ [(s1.g.uid, s1.g.slot, d.toNat)] })

/-- R108 left shift of 64 bits. -/
def shl64 (a k : SWord) : SWord := BitVec.ofNat 64 (shlN 64 a.toNat k.toNat)

/-- R108 logical right shift of 64 bits. -/
def shr64 (a k : SWord) : SWord := BitVec.ofNat 64 (shrN 64 a.toNat k.toNat)

/-- R108 arithmetic right shift of 64 bits. -/
def sra64 (a k : SWord) : SWord := BitVec.ofNat 64 (sraN 64 a.toNat k.toNat)

/-- R312: the high half of a signed product. -/
def mulHighS (a b : SWord) : SWord := BitVec.ofInt 64 (Int.fdiv (a.toInt * b.toInt) ((2 ^ 64 : Nat) : Int))

/-- R312: the high half of an unsigned product. -/
def mulHighU (a b : SWord) : SWord := BitVec.ofNat 64 (a.toNat * b.toNat / 2 ^ 64)

/-- R298 NOP. -/
def execNop (s : State) : Host.Outcome State Fault Refusal :=
  issue .nop { size := 4, furrow := 1 } (fun _ s => .ok s) s

/-- R257 IMX: its bits wait for the instruction that follows, with which a furrow owner's prefix is judged (R90); a third in a
row is illegal (R258). -/
def execImx (imm : BitVec 24) (s : State) : Host.Outcome State Fault Refusal :=
  issue (.imx imm) { size := 4, furrow := 2, accepts := decide (s.ctx.prefixes.length < 2), imx := some imm }
    (fun _ s => .ok s) s

/-- R302 SADD. -/
def execSadd (w : BitVec 3) (d a b : BitVec 6) (s : State) : Host.Outcome State Fault Refusal :=
  issue (.sadd w d a b) (wrInfo w 2 d a b) (scalarRR (fun x y => x + y) d a b) s

/-- R302 SSUB. -/
def execSsub (w : BitVec 3) (d a b : BitVec 6) (s : State) : Host.Outcome State Fault Refusal :=
  issue (.ssub w d a b) (wrInfo w 2 d a b) (scalarRR (fun x y => x - y) d a b) s

/-- R302 SAND. -/
def execSand (w : BitVec 3) (d a b : BitVec 6) (s : State) : Host.Outcome State Fault Refusal :=
  issue (.sand w d a b) (wrInfo w 2 d a b) (scalarRR (fun x y => x &&& y) d a b) s

/-- R302 SOR. -/
def execSor (w : BitVec 3) (d a b : BitVec 6) (s : State) : Host.Outcome State Fault Refusal :=
  issue (.sor w d a b) (wrInfo w 2 d a b) (scalarRR (fun x y => x ||| y) d a b) s

/-- R302 SXOR. -/
def execSxor (w : BitVec 3) (d a b : BitVec 6) (s : State) : Host.Outcome State Fault Refusal :=
  issue (.sxor w d a b) (wrInfo w 2 d a b) (scalarRR (fun x y => x ^^^ y) d a b) s

/-- R302 SSHL. -/
def execSshl (w : BitVec 3) (d a b : BitVec 6) (s : State) : Host.Outcome State Fault Refusal :=
  issue (.sshl w d a b) (wrInfo w 2 d a b) (scalarRR (shl64) d a b) s

/-- R302 SSHR. -/
def execSshr (w : BitVec 3) (d a b : BitVec 6) (s : State) : Host.Outcome State Fault Refusal :=
  issue (.sshr w d a b) (wrInfo w 2 d a b) (scalarRR (shr64) d a b) s

/-- R302 SSRA. -/
def execSsra (w : BitVec 3) (d a b : BitVec 6) (s : State) : Host.Outcome State Fault Refusal :=
  issue (.ssra w d a b) (wrInfo w 2 d a b) (scalarRR (sra64) d a b) s

/-- R312 SMUL. -/
def execSmul (w : BitVec 3) (d a b : BitVec 6) (s : State) : Host.Outcome State Fault Refusal :=
  issue (.smul w d a b) (wrInfo w 4 d a b) (scalarRR (fun x y => x * y) d a b) s

/-- R312 SMULHS. -/
def execSmulhs (w : BitVec 3) (d a b : BitVec 6) (s : State) : Host.Outcome State Fault Refusal :=
  issue (.smulhs w d a b) (wrInfo w 4 d a b) (scalarRR (mulHighS) d a b) s

/-- R312 SMULHU. -/
def execSmulhu (w : BitVec 3) (d a b : BitVec 6) (s : State) : Host.Outcome State Fault Refusal :=
  issue (.smulhu w d a b) (wrInfo w 4 d a b) (scalarRR (mulHighU) d a b) s

/-- R312 SMINS. -/
def execSmins (w : BitVec 3) (d a b : BitVec 6) (s : State) : Host.Outcome State Fault Refusal :=
  issue (.smins w d a b) (wrInfo w 2 d a b) (scalarRR (fun x y => if x.toInt ≤ y.toInt then x else y) d a b) s

/-- R312 SMAXS. -/
def execSmaxs (w : BitVec 3) (d a b : BitVec 6) (s : State) : Host.Outcome State Fault Refusal :=
  issue (.smaxs w d a b) (wrInfo w 2 d a b) (scalarRR (fun x y => if x.toInt ≤ y.toInt then y else x) d a b) s

/-- R312 SMINU. -/
def execSminu (w : BitVec 3) (d a b : BitVec 6) (s : State) : Host.Outcome State Fault Refusal :=
  issue (.sminu w d a b) (wrInfo w 2 d a b) (scalarRR (fun x y => if x.toNat ≤ y.toNat then x else y) d a b) s

/-- R312 SMAXU. -/
def execSmaxu (w : BitVec 3) (d a b : BitVec 6) (s : State) : Host.Outcome State Fault Refusal :=
  issue (.smaxu w d a b) (wrInfo w 2 d a b) (scalarRR (fun x y => if x.toNat ≤ y.toNat then y else x) d a b) s

/-- R306 SDIVS. -/
def execSdivs (w : BitVec 3) (d a b : BitVec 6) (s : State) : Host.Outcome State Fault Refusal :=
  issue (.sdivs w d a b) (wrInfo w 0 d a b) (scalarDiv true false d a b) s

/-- R306 SDIVU. -/
def execSdivu (w : BitVec 3) (d a b : BitVec 6) (s : State) : Host.Outcome State Fault Refusal :=
  issue (.sdivu w d a b) (wrInfo w 0 d a b) (scalarDiv false false d a b) s

/-- R306 SREMS. -/
def execSrems (w : BitVec 3) (d a b : BitVec 6) (s : State) : Host.Outcome State Fault Refusal :=
  issue (.srems w d a b) (wrInfo w 0 d a b) (scalarDiv true true d a b) s

/-- R306 SREMU. -/
def execSremu (w : BitVec 3) (d a b : BitVec 6) (s : State) : Host.Outcome State Fault Refusal :=
  issue (.sremu w d a b) (wrInfo w 0 d a b) (scalarDiv false true d a b) s

/-- R304 SCLZ. -/
def execSclz (w : BitVec 3) (d a : BitVec 6) (s : State) : Host.Outcome State Fault Refusal :=
  issue (.sclz w d a) (wr1Info w d a) (scalarR (fun x => clzN 64 x.toNat) d a) s

/-- R304 SCTZ. -/
def execSctz (w : BitVec 3) (d a : BitVec 6) (s : State) : Host.Outcome State Fault Refusal :=
  issue (.sctz w d a) (wr1Info w d a) (scalarR (fun x => ctzN 64 x.toNat) d a) s

/-- R304 SPOPC. -/
def execSpopc (w : BitVec 3) (d a : BitVec 6) (s : State) : Host.Outcome State Fault Refusal :=
  issue (.spopc w d a) (wr1Info w d a) (scalarR (fun x => popN 64 x.toNat) d a) s

/-- R313 SSEL; its condition is always interlocked. -/
def execSsel (w c : BitVec 3) (d a b : BitVec 6) (s : State) : Host.Outcome State Fault Refusal :=
  issue (.ssel w c d a b)
    { wrInfo w 2 d a b with reads := [(.condition, c.toNat), (.scalar, a.toNat), (.scalar, b.toNat)] }
    (fun rc s => .ok (modCtx s fun x =>
      x.writeS d.toNat (if rc.readC c.toNat then rc.readS a.toNat else rc.readS b.toNat))) s

/-- R302 SADDI. -/
def execSaddi (d a : BitVec 6) (imm : BitVec 12) (s : State) : Host.Outcome State Fault Refusal :=
  issue (.saddi d a imm) (wiInfo d a) (scalarRI (fun x y => x + y) d a imm) s

/-- R302 SANDI. -/
def execSandi (d a : BitVec 6) (imm : BitVec 12) (s : State) : Host.Outcome State Fault Refusal :=
  issue (.sandi d a imm) (wiInfo d a) (scalarRI (fun x y => x &&& y) d a imm) s

/-- R302 SORI. -/
def execSori (d a : BitVec 6) (imm : BitVec 12) (s : State) : Host.Outcome State Fault Refusal :=
  issue (.sori d a imm) (wiInfo d a) (scalarRI (fun x y => x ||| y) d a imm) s

/-- R302 SXORI. -/
def execSxori (d a : BitVec 6) (imm : BitVec 12) (s : State) : Host.Outcome State Fault Refusal :=
  issue (.sxori d a imm) (wiInfo d a) (scalarRI (fun x y => x ^^^ y) d a imm) s

/-- R302 SSHLI. -/
def execSshli (d a : BitVec 6) (imm : BitVec 12) (s : State) : Host.Outcome State Fault Refusal :=
  issue (.sshli d a imm) (wiInfo d a) (scalarRI (shl64) d a imm) s

/-- R302 SSHRI. -/
def execSshri (d a : BitVec 6) (imm : BitVec 12) (s : State) : Host.Outcome State Fault Refusal :=
  issue (.sshri d a imm) (wiInfo d a) (scalarRI (shr64) d a imm) s

/-- R302 SSRAI. -/
def execSsrai (d a : BitVec 6) (imm : BitVec 12) (s : State) : Host.Outcome State Fault Refusal :=
  issue (.ssrai d a imm) (wiInfo d a) (scalarRI (sra64) d a imm) s

/-- R311 SLI. -/
def execSli (d : BitVec 6) (imm : BitVec 18) (s : State) : Host.Outcome State Fault Refusal :=
  issue (.sli d imm) { size := 4, writes := [(.scalar, d.toNat)], accepts := true, furrow := 1 }
    (fun rc s => .ok (modCtx s fun c => c.writeS d.toNat (BitVec.ofInt 64 (widen rc.prefixes 18 imm.toNat)))) s

/-- R305 SCMP. -/
def execScmp (c : BitVec 3) (k : BitVec 4) (a b : BitVec 6) (s : State) : Host.Outcome State Fault Refusal :=
  issue (.scmp c k a b)
    { size := 4, reads := [(.scalar, a.toNat), (.scalar, b.toNat)], writes := [(.condition, c.toNat)], furrow := 1 }
    (fun rc s => .ok (modCtx s fun x =>
      x.writeC c.toNat (condHolds 64 k.toNat (rc.readS a.toNat).toNat (rc.readS b.toNat).toNat))) s

/-- R305 SCMPI. -/
def execScmpi (c : BitVec 3) (k : BitVec 4) (a : BitVec 6) (imm : BitVec 11) (s : State) :
    Host.Outcome State Fault Refusal :=
  issue (.scmpi c k a imm)
    { size := 4, reads := [(.scalar, a.toNat)], writes := [(.condition, c.toNat)], accepts := true, furrow := 1 }
    (fun rc s => .ok (modCtx s fun x =>
      x.writeC c.toNat (condHolds 64 k.toNat (rc.readS a.toNat).toNat
        (BitVec.ofInt 64 (widen rc.prefixes 11 imm.toNat)).toNat))) s

/-- R272 AADD. -/
def execAadd (d a : BitVec 4) (b : BitVec 6) (s : State) : Host.Outcome State Fault Refusal :=
  issue (.aadd d a b)
    { size := 4, reads := [(.address, a.toNat), (.scalar, b.toNat)], writes := [(.address, d.toNat)], furrow := 1 }
    (fun rc s => .ok (modCtx s fun c => c.writeA d.toNat (rc.readA a.toNat + sextAddr (rc.readS b.toNat)))) s

/-- R272 AADDI. -/
def execAaddi (d a : BitVec 4) (imm : BitVec 16) (s : State) : Host.Outcome State Fault Refusal :=
  issue (.aaddi d a imm)
    { size := 4, reads := [(.address, a.toNat)], writes := [(.address, d.toNat)], accepts := true, furrow := 1 }
    (fun rc s => .ok (modCtx s fun c =>
      c.writeA d.toNat (rc.readA a.toNat + toAddr (widen rc.prefixes 16 imm.toNat)))) s

/-- R272 AMOV. -/
def execAmov (d : BitVec 4) (b : BitVec 6) (s : State) : Host.Outcome State Fault Refusal :=
  issue (.amov d b) { size := 4, reads := [(.scalar, b.toNat)], writes := [(.address, d.toNat)], furrow := 1 }
    (fun rc s => .ok (modCtx s fun c => c.writeA d.toNat (sextAddr (rc.readS b.toNat)))) s

/-- R272 AGET. -/
def execAget (d : BitVec 6) (a : BitVec 4) (s : State) : Host.Outcome State Fault Refusal :=
  issue (.aget d a) { size := 4, reads := [(.address, a.toNat)], writes := [(.scalar, d.toNat)], furrow := 1 }
    (fun rc s => .ok (modCtx s fun c => c.writeS d.toNat ((rc.readA a.toNat).truncate 64))) s

/-- R272 ASUB. -/
def execAsub (d : BitVec 6) (a b : BitVec 4) (s : State) : Host.Outcome State Fault Refusal :=
  issue (.asub d a b)
    { size := 4, reads := [(.address, a.toNat), (.address, b.toNat)], writes := [(.scalar, d.toNat)], furrow := 1 }
    (fun rc s => .ok (modCtx s fun c =>
      c.writeS d.toNat ((rc.readA a.toNat - rc.readA b.toNat).truncate 64))) s

end Sys2Proof.Machine
end

