-- ==== Sys2Proof/Machine/VectorFloat.lean ====
section
/-! DEFINITION. The vector floating-point instructions and conversions (R324 to R336, R351). -/

namespace Sys2Proof.Machine

/-- VPACK (R351). -/
def execVpack (f : LvF) (s : State) : Host.Outcome State Fault Refusal :=
  issue (.vpack f) (laneInfo .pack f 8) (laneBody .pack f) s

/-- VUNPK (R351). -/
def execVunpk (f : LvF) (s : State) : Host.Outcome State Fault Refusal :=
  issue (.vunpk f) (laneInfo .unpk f 8) (laneBody .unpk f) s

/-- VFADD (R327). -/
def execVfadd (f : LvF) (s : State) : Host.Outcome State Fault Refusal :=
  issue (.vfadd f) (laneInfo .fadd f 8) (laneBody .fadd f) s

/-- VFSUB (R327). -/
def execVfsub (f : LvF) (s : State) : Host.Outcome State Fault Refusal :=
  issue (.vfsub f) (laneInfo .fsub f 8) (laneBody .fsub f) s

/-- VFMUL (R327). -/
def execVfmul (f : LvF) (s : State) : Host.Outcome State Fault Refusal :=
  issue (.vfmul f) (laneInfo .fmul f 8) (laneBody .fmul f) s

/-- VFMA (R332). -/
def execVfma (f : LvF) (s : State) : Host.Outcome State Fault Refusal :=
  issue (.vfma f) (laneInfo .fma f 8) (laneBody .fma f) s

/-- VFMIN (R333). -/
def execVfmin (f : LvF) (s : State) : Host.Outcome State Fault Refusal :=
  issue (.vfmin f) (laneInfo .fmin f 8) (laneBody .fmin f) s

/-- VFMAX (R333). -/
def execVfmax (f : LvF) (s : State) : Host.Outcome State Fault Refusal :=
  issue (.vfmax f) (laneInfo .fmax f 8) (laneBody .fmax f) s

/-- VFCMP (R329). -/
def execVfcmp (f : LvF) (s : State) : Host.Outcome State Fault Refusal :=
  issue (.vfcmp f) (laneInfo .fcmp f 8) (laneBody .fcmp f) s

/-- VFRCP (R330). -/
def execVfrcp (f : LvF) (s : State) : Host.Outcome State Fault Refusal :=
  issue (.vfrcp f) (laneInfo (.special .rcp) f 8) (laneBody (.special .rcp) f) s

/-- VFRSQ (R330). -/
def execVfrsq (f : LvF) (s : State) : Host.Outcome State Fault Refusal :=
  issue (.vfrsq f) (laneInfo (.special .rsq) f 8) (laneBody (.special .rsq) f) s

/-- VFSQRT (R330). -/
def execVfsqrt (f : LvF) (s : State) : Host.Outcome State Fault Refusal :=
  issue (.vfsqrt f) (laneInfo (.special .sqrt) f 8) (laneBody (.special .sqrt) f) s

/-- VFEXP2 (R330). -/
def execVfexp2 (f : LvF) (s : State) : Host.Outcome State Fault Refusal :=
  issue (.vfexp2 f) (laneInfo (.special .exp2) f 8) (laneBody (.special .exp2) f) s

/-- VFLOG2 (R330). -/
def execVflog2 (f : LvF) (s : State) : Host.Outcome State Fault Refusal :=
  issue (.vflog2 f) (laneInfo (.special .log2) f 8) (laneBody (.special .log2) f) s

/-- VFSIN (R330). -/
def execVfsin (f : LvF) (s : State) : Host.Outcome State Fault Refusal :=
  issue (.vfsin f) (laneInfo (.special .sin) f 8) (laneBody (.special .sin) f) s

/-- VFCOS (R330). -/
def execVfcos (f : LvF) (s : State) : Host.Outcome State Fault Refusal :=
  issue (.vfcos f) (laneInfo (.special .cos) f 8) (laneBody (.special .cos) f) s

/-- VFRND (R334). -/
def execVfrnd (f : LvF) (s : State) : Host.Outcome State Fault Refusal :=
  issue (.vfrnd f) (laneInfo .frnd f 8) (laneBody .frnd f) s

/-- VFCLS (R328). -/
def execVfcls (f : LvF) (s : State) : Host.Outcome State Fault Refusal :=
  issue (.vfcls f) (laneInfo .fcls f 8) (laneBody .fcls f) s

/-- VHFMA (R336). -/
def execVhfma (f : LvF) (s : State) : Host.Outcome State Fault Refusal :=
  issue (.vhfma f) (laneInfo .hfma f 8) (laneBody .hfma f) s

/-- VHADD (R336). -/
def execVhadd (f : LvF) (s : State) : Host.Outcome State Fault Refusal :=
  issue (.vhadd f) (laneInfo .hadd f 8) (laneBody .hadd f) s

/-- VHMUL (R336). -/
def execVhmul (f : LvF) (s : State) : Host.Outcome State Fault Refusal :=
  issue (.vhmul f) (laneInfo .hmul f 8) (laneBody .hmul f) s

/-- VCVT (R324). -/
def execVcvt (f : LvF) (s : State) : Host.Outcome State Fault Refusal :=
  issue (.vcvt f) (laneInfo .cvt f 8) (laneBody .cvt f) s

end Sys2Proof.Machine
end

