-- ==== Sys2Proof/Machine/Dispatch.lean ====
section
/-! DEFINITION. The meaning of every instruction and event, one direct call an arm. -/

namespace Sys2Proof.Machine

/-- One arm a row of spec/opcode_table.json. -/
def exec (i : Instr) (s : State) : Host.Outcome State Fault Refusal :=
  match i with
  | .vmovC16 lr vs vd => Sys2Proof.Machine.execVmovC16 lr vs vd s
  | .vaddC16 lr vs vd => Sys2Proof.Machine.execVaddC16 lr vs vd s
  | .vsubC16 lr vs vd => Sys2Proof.Machine.execVsubC16 lr vs vd s
  | .vmulC16 lr vs vd => Sys2Proof.Machine.execVmulC16 lr vs vd s
  | .vandC16 lr vs vd => Sys2Proof.Machine.execVandC16 lr vs vd s
  | .vorC16 lr vs vd => Sys2Proof.Machine.execVorC16 lr vs vd s
  | .vxorC16 lr vs vd => Sys2Proof.Machine.execVxorC16 lr vs vd s
  | .vshlC16 lr vs vd => Sys2Proof.Machine.execVshlC16 lr vs vd s
  | .vshrC16 lr vs vd => Sys2Proof.Machine.execVshrC16 lr vs vd s
  | .vminC16 lr vs vd => Sys2Proof.Machine.execVminC16 lr vs vd s
  | .vmaxC16 lr vs vd => Sys2Proof.Machine.execVmaxC16 lr vs vd s
  | .vfaddC16 lr vs vd => Sys2Proof.Machine.execVfaddC16 lr vs vd s
  | .vfsubC16 lr vs vd => Sys2Proof.Machine.execVfsubC16 lr vs vd s
  | .vfmulC16 lr vs vd => Sys2Proof.Machine.execVfmulC16 lr vs vd s
  | .vfminC16 lr vs vd => Sys2Proof.Machine.execVfminC16 lr vs vd s
  | .vfmaxC16 lr vs vd => Sys2Proof.Machine.execVfmaxC16 lr vs vd s
  | .nop => Sys2Proof.Machine.execNop s
  | .imx imm => Sys2Proof.Machine.execImx imm s
  | .sadd w d a b => Sys2Proof.Machine.execSadd w d a b s
  | .ssub w d a b => Sys2Proof.Machine.execSsub w d a b s
  | .sand w d a b => Sys2Proof.Machine.execSand w d a b s
  | .sor w d a b => Sys2Proof.Machine.execSor w d a b s
  | .sxor w d a b => Sys2Proof.Machine.execSxor w d a b s
  | .sshl w d a b => Sys2Proof.Machine.execSshl w d a b s
  | .sshr w d a b => Sys2Proof.Machine.execSshr w d a b s
  | .ssra w d a b => Sys2Proof.Machine.execSsra w d a b s
  | .smul w d a b => Sys2Proof.Machine.execSmul w d a b s
  | .smulhs w d a b => Sys2Proof.Machine.execSmulhs w d a b s
  | .smulhu w d a b => Sys2Proof.Machine.execSmulhu w d a b s
  | .smins w d a b => Sys2Proof.Machine.execSmins w d a b s
  | .smaxs w d a b => Sys2Proof.Machine.execSmaxs w d a b s
  | .sminu w d a b => Sys2Proof.Machine.execSminu w d a b s
  | .smaxu w d a b => Sys2Proof.Machine.execSmaxu w d a b s
  | .sdivs w d a b => Sys2Proof.Machine.execSdivs w d a b s
  | .sdivu w d a b => Sys2Proof.Machine.execSdivu w d a b s
  | .srems w d a b => Sys2Proof.Machine.execSrems w d a b s
  | .sremu w d a b => Sys2Proof.Machine.execSremu w d a b s
  | .sclz w d a => Sys2Proof.Machine.execSclz w d a s
  | .sctz w d a => Sys2Proof.Machine.execSctz w d a s
  | .spopc w d a => Sys2Proof.Machine.execSpopc w d a s
  | .ssel w c d a b => Sys2Proof.Machine.execSsel w c d a b s
  | .saddi d a imm => Sys2Proof.Machine.execSaddi d a imm s
  | .sandi d a imm => Sys2Proof.Machine.execSandi d a imm s
  | .sori d a imm => Sys2Proof.Machine.execSori d a imm s
  | .sxori d a imm => Sys2Proof.Machine.execSxori d a imm s
  | .sshli d a imm => Sys2Proof.Machine.execSshli d a imm s
  | .sshri d a imm => Sys2Proof.Machine.execSshri d a imm s
  | .ssrai d a imm => Sys2Proof.Machine.execSsrai d a imm s
  | .sli d imm => Sys2Proof.Machine.execSli d imm s
  | .scmp c k a b => Sys2Proof.Machine.execScmp c k a b s
  | .scmpi c k a imm => Sys2Proof.Machine.execScmpi c k a imm s
  | .aadd d a b => Sys2Proof.Machine.execAadd d a b s
  | .aaddi d a imm => Sys2Proof.Machine.execAaddi d a imm s
  | .amov d b => Sys2Proof.Machine.execAmov d b s
  | .aget d a => Sys2Proof.Machine.execAget d a s
  | .asub d a b => Sys2Proof.Machine.execAsub d a b s
  | .sld f => Sys2Proof.Machine.execSld f s
  | .sst f => Sys2Proof.Machine.execSst f s
  | .ald f => Sys2Proof.Machine.execAld f s
  | .ast f => Sys2Proof.Machine.execAst f s
  | .br off => Sys2Proof.Machine.execBr off s
  | .brc c neg off => Sys2Proof.Machine.execBrc c neg off s
  | .call off => Sys2Proof.Machine.execCall off s
  | .ret n => Sys2Proof.Machine.execRet n s
  | .jmpa n => Sys2Proof.Machine.execJmpa n s
  | .calla n => Sys2Proof.Machine.execCalla n s
  | .brva p neg off => Sys2Proof.Machine.execBrva p neg off s
  | .brvn p neg off => Sys2Proof.Machine.execBrvn p neg off s
  | .brvl p neg off => Sys2Proof.Machine.execBrvl p neg off s
  | .exit => Sys2Proof.Machine.execExit s
  | .trap code => Sys2Proof.Machine.execTrap code s
  | .bkpt code => Sys2Proof.Machine.execBkpt code s
  | .waith h => Sys2Proof.Machine.execWaith h s
  | .testh c mask h => Sys2Proof.Machine.execTesth c mask h s
  | .canch h => Sys2Proof.Machine.execCanch h s
  | .setfmt h => Sys2Proof.Machine.execSetfmt h s
  | .sysrd index d => Sys2Proof.Machine.execSysrd index d s
  | .syswr index b => Sys2Proof.Machine.execSyswr index b s
  | .setgang h => Sys2Proof.Machine.execSetgang h s
  | .bar n => Sys2Proof.Machine.execBar n s
  | .bars n => Sys2Proof.Machine.execBars n s
  | .fence kind scope => Sys2Proof.Machine.execFence kind scope s
  | .fetchb => Sys2Proof.Machine.execFetchb s
  | .ipf level n b => Sys2Proof.Machine.execIpf level n b s
  | .eret mode => Sys2Proof.Machine.execEret mode s
  | .yield => Sys2Proof.Machine.execYield s
  | .frwon n => Sys2Proof.Machine.execFrwon n s
  | .frwoff d => Sys2Proof.Machine.execFrwoff d s
  | .frwkill => Sys2Proof.Machine.execFrwkill s
  | .frwdep c q a => Sys2Proof.Machine.execFrwdep c q a s
  | .launch d a => Sys2Proof.Machine.execLaunch d a s
  | .lcancel c kill h => Sys2Proof.Machine.execLcancel c kill h s
  | .vadd f => Sys2Proof.Machine.execVadd f s
  | .vsub f => Sys2Proof.Machine.execVsub f s
  | .vmul f => Sys2Proof.Machine.execVmul f s
  | .vmulh f => Sys2Proof.Machine.execVmulh f s
  | .vmad f => Sys2Proof.Machine.execVmad f s
  | .vaddc f => Sys2Proof.Machine.execVaddc f s
  | .vand f => Sys2Proof.Machine.execVand f s
  | .vor f => Sys2Proof.Machine.execVor f s
  | .vxor f => Sys2Proof.Machine.execVxor f s
  | .vnot f => Sys2Proof.Machine.execVnot f s
  | .vshl f => Sys2Proof.Machine.execVshl f s
  | .vshr f => Sys2Proof.Machine.execVshr f s
  | .vsra f => Sys2Proof.Machine.execVsra f s
  | .vmin f => Sys2Proof.Machine.execVmin f s
  | .vmax f => Sys2Proof.Machine.execVmax f s
  | .vabs f => Sys2Proof.Machine.execVabs f s
  | .vneg f => Sys2Proof.Machine.execVneg f s
  | .vclz f => Sys2Proof.Machine.execVclz f s
  | .vpopc f => Sys2Proof.Machine.execVpopc f s
  | .vbfe f => Sys2Proof.Machine.execVbfe f s
  | .vbfi f => Sys2Proof.Machine.execVbfi f s
  | .vsel f => Sys2Proof.Machine.execVsel f s
  | .vmov f => Sys2Proof.Machine.execVmov f s
  | .vli f => Sys2Proof.Machine.execVli f s
  | .vcmp f => Sys2Proof.Machine.execVcmp f s
  | .vlane f => Sys2Proof.Machine.execVlane f s
  | .vaddp f => Sys2Proof.Machine.execVaddp f s
  | .vsubp f => Sys2Proof.Machine.execVsubp f s
  | .vshlp f => Sys2Proof.Machine.execVshlp f s
  | .vshrp f => Sys2Proof.Machine.execVshrp f s
  | .vsrap f => Sys2Proof.Machine.execVsrap f s
  | .vminp f => Sys2Proof.Machine.execVminp f s
  | .vmaxp f => Sys2Proof.Machine.execVmaxp f s
  | .vdot8 f => Sys2Proof.Machine.execVdot8 f s
  | .vdot4 f => Sys2Proof.Machine.execVdot4 f s
  | .vpack f => Sys2Proof.Machine.execVpack f s
  | .vunpk f => Sys2Proof.Machine.execVunpk f s
  | .vfadd f => Sys2Proof.Machine.execVfadd f s
  | .vfsub f => Sys2Proof.Machine.execVfsub f s
  | .vfmul f => Sys2Proof.Machine.execVfmul f s
  | .vfma f => Sys2Proof.Machine.execVfma f s
  | .vfmin f => Sys2Proof.Machine.execVfmin f s
  | .vfmax f => Sys2Proof.Machine.execVfmax f s
  | .vfcmp f => Sys2Proof.Machine.execVfcmp f s
  | .vfrcp f => Sys2Proof.Machine.execVfrcp f s
  | .vfrsq f => Sys2Proof.Machine.execVfrsq f s
  | .vfsqrt f => Sys2Proof.Machine.execVfsqrt f s
  | .vfexp2 f => Sys2Proof.Machine.execVfexp2 f s
  | .vflog2 f => Sys2Proof.Machine.execVflog2 f s
  | .vfsin f => Sys2Proof.Machine.execVfsin f s
  | .vfcos f => Sys2Proof.Machine.execVfcos f s
  | .vfrnd f => Sys2Proof.Machine.execVfrnd f s
  | .vfcls f => Sys2Proof.Machine.execVfcls f s
  | .vhfma f => Sys2Proof.Machine.execVhfma f s
  | .vhadd f => Sys2Proof.Machine.execVhadd f s
  | .vhmul f => Sys2Proof.Machine.execVhmul f s
  | .vcvt f => Sys2Proof.Machine.execVcvt f s
  | .vshfl f => Sys2Proof.Machine.execVshfl f s
  | .vrfl f => Sys2Proof.Machine.execVrfl f s
  | .vvote f => Sys2Proof.Machine.execVvote f s
  | .vred f => Sys2Proof.Machine.execVred f s
  | .vscan f => Sys2Proof.Machine.execVscan f s
  | .brv p neg taken rejoin => Sys2Proof.Machine.execBrv p neg taken rejoin s
  | .vld f => Sys2Proof.Machine.execVld f s
  | .vst f => Sys2Proof.Machine.execVst f s
  | .vlds f => Sys2Proof.Machine.execVlds f s
  | .vsts f => Sys2Proof.Machine.execVsts f s
  | .ldl f => Sys2Proof.Machine.execLdl f s
  | .stl f => Sys2Proof.Machine.execStl f s
  | .ldr f => Sys2Proof.Machine.execLdr f s
  | .str f => Sys2Proof.Machine.execStr f s
  | .vatom f => Sys2Proof.Machine.execVatom f s
  | .vcas f => Sys2Proof.Machine.execVcas f s
  | .latom f => Sys2Proof.Machine.execLatom f s
  | .matom f => Sys2Proof.Machine.execMatom f s
  | .satom f => Sys2Proof.Machine.execSatom f s
  | .qpush f => Sys2Proof.Machine.execQpush f s
  | .qpop f => Sys2Proof.Machine.execQpop f s
  | .mcube f => Sys2Proof.Machine.execMcube f s
  | .mldf f => Sys2Proof.Machine.execMldf f s
  | .mzero f => Sys2Proof.Machine.execMzero f s
  | .mstz f => Sys2Proof.Machine.execMstz f s
  | .mrdz f => Sys2Proof.Machine.execMrdz f s
  | .mwrz f => Sys2Proof.Machine.execMwrz f s
  | .mscl f => Sys2Proof.Machine.execMscl f s
  | .xcpy f => Sys2Proof.Machine.execXcpy f s
  | .xgath f => Sys2Proof.Machine.execXgath f s
  | .xscat f => Sys2Proof.Machine.execXscat f s
  | .xred f => Sys2Proof.Machine.execXred f s
  | .xsig f => Sys2Proof.Machine.execXsig f s
  | .spill f first count => Sys2Proof.Machine.execSpill f first count s
  | .fill f first count => Sys2Proof.Machine.execFill f first count s
  | .xpfd f len => Sys2Proof.Machine.execXpfd f len s
  | .fsnk stage rep => Sys2Proof.Machine.execFsnk stage rep s
  | .steer stage rep => Sys2Proof.Machine.execSteer stage rep s
  | .merge stage rep => Sys2Proof.Machine.execMerge stage rep s
  | .stageFire stage rep => Sys2Proof.Machine.execStageFire stage rep s
  | .sourceStep => Sys2Proof.Machine.execSourceStep s
  | .drainStep stage rep => Sys2Proof.Machine.execDrainStep stage rep s
  | .furrowDrained => Sys2Proof.Machine.execFurrowDrained s
  | .furrowDeadlock => Sys2Proof.Machine.execFurrowDeadlock s
  | .streamFaultSuspend stream rep => Sys2Proof.Machine.execStreamFaultSuspend stream rep s
  | .furrowReentry => Sys2Proof.Machine.execFurrowReentry s
  | .reconvergenceSwitch => Sys2Proof.Machine.execReconvergenceSwitch s
  | .reconvergencePop => Sys2Proof.Machine.execReconvergencePop s
  | .brvResolution => Sys2Proof.Machine.execBrvResolution s
  | .laneReplay => Sys2Proof.Machine.execLaneReplay s
  | .cubeAccept => Sys2Proof.Machine.execCubeAccept s
  | .cubePass => Sys2Proof.Machine.execCubePass s
  | .groupSwapOut => Sys2Proof.Machine.execGroupSwapOut s
  | .issueBoost => Sys2Proof.Machine.execIssueBoost s
  | .pendingStarvationSwap => Sys2Proof.Machine.execPendingStarvationSwap s
  | .trapEntry => Sys2Proof.Machine.execTrapEntry s
  | .launchAbort => Sys2Proof.Machine.execLaunchAbort s
  | .recordEnqueue port last => Sys2Proof.Machine.execRecordEnqueue port last s
  | .qstatRead port => Sys2Proof.Machine.execQstatRead port s
  | .hostCancel port lid => Sys2Proof.Machine.execHostCancel port lid s
  | .hostCancelKill port lid => Sys2Proof.Machine.execHostCancelKill port lid s
  | .recordHeadCheck port => Sys2Proof.Machine.execRecordHeadCheck port s
  | .codeObjectLoad port => Sys2Proof.Machine.execCodeObjectLoad port s
  | .waitConditionTest port => Sys2Proof.Machine.execWaitConditionTest port s
  | .dispatchLatch port => Sys2Proof.Machine.execDispatchLatch port s
  | .deferralEligibility port => Sys2Proof.Machine.execDeferralEligibility port s
  | .blockAdmission uid => Sys2Proof.Machine.execBlockAdmission uid s
  | .blockCompletion uid => Sys2Proof.Machine.execBlockCompletion uid s
  | .launchCompletion key => Sys2Proof.Machine.execLaunchCompletion key s
  | .preemption port => Sys2Proof.Machine.execPreemption port s
  | .contextSave uid => Sys2Proof.Machine.execContextSave uid s
  | .blockRestore uid => Sys2Proof.Machine.execBlockRestore uid s
  | .governorSample die mw => Sys2Proof.Machine.execGovernorSample die mw s
  | .stackFreeze stack => Sys2Proof.Machine.execStackFreeze stack s
  | .stackResume => Sys2Proof.Machine.execStackResume s
  | .bankSwitch bank => Sys2Proof.Machine.execBankSwitch bank s
  | .loadDataReturn va => Sys2Proof.Machine.execLoadDataReturn va s
  | .missQueueRelease channel => Sys2Proof.Machine.execMissQueueRelease channel s
  | .l1SectorExpiry sector => Sys2Proof.Machine.execL1SectorExpiry sector s
  | .atomicUnitOperation op => Sys2Proof.Machine.execAtomicUnitOperation op s
  | .pageWalk va => Sys2Proof.Machine.execPageWalk va s
  | .instructionFetchFill va => Sys2Proof.Machine.execInstructionFetchFill va s
  | .rds die sector => Sys2Proof.Machine.execRds die sector s
  | .rdx die sector => Sys2Proof.Machine.execRdx die sector s
  | .upg die sector => Sys2Proof.Machine.execUpg die sector s
  | .wbk die sector => Sys2Proof.Machine.execWbk die sector s
  | .evc die sector => Sys2Proof.Machine.execEvc die sector s
  | .sfw die sector => Sys2Proof.Machine.execSfw die sector s
  | .sfx die sector => Sys2Proof.Machine.execSfx die sector s
  | .sin die sector => Sys2Proof.Machine.execSin die sector s
  | .dat die sector => Sys2Proof.Machine.execDat die sector s
  | .ack die sector => Sys2Proof.Machine.execAck die sector s
  | .cmp die sector => Sys2Proof.Machine.execCmp die sector s
  | .engineStart num => Sys2Proof.Machine.execEngineStart num s
  | .engineElement num => Sys2Proof.Machine.execEngineElement num s
  | .engineCompletion num => Sys2Proof.Machine.execEngineCompletion num s
  | .engineCancelStop num => Sys2Proof.Machine.execEngineCancelStop num s
  | .faultResolved vf seq => Sys2Proof.Machine.execFaultResolved vf seq s
  | .faultDenied vf seq => Sys2Proof.Machine.execFaultDenied vf seq s
  | .fstsRead vf => Sys2Proof.Machine.execFstsRead vf s
  | .moduleUnloadRequest vf index => Sys2Proof.Machine.execModuleUnloadRequest vf index s
  | .moduleUnload vf index => Sys2Proof.Machine.execModuleUnload vf index s
  | .functionTableWrite vf off val => Sys2Proof.Machine.execFunctionTableWrite vf off val s
  | .placementTableWrite first val => Sys2Proof.Machine.execPlacementTableWrite first val s
  | .invalidateAsid asid => Sys2Proof.Machine.execInvalidateAsid asid s
  | .invalidatePage asid va => Sys2Proof.Machine.execInvalidatePage asid va s
  | .flushQuad pa => Sys2Proof.Machine.execFlushQuad pa s
  | .flushKey key => Sys2Proof.Machine.execFlushKey key s
  | .invalidationComplete => Sys2Proof.Machine.execInvalidationComplete s
  | .hostWindowAccess vf off size data => Sys2Proof.Machine.execHostWindowAccess vf off size data s
  | .mcpopWrite die n => Sys2Proof.Machine.execMcpopWrite die n s
  | .mcclrWrite die val => Sys2Proof.Machine.execMcclrWrite die val s
  | .dieLinkRetransmit die other => Sys2Proof.Machine.execDieLinkRetransmit die other s
  | .fatalError => Sys2Proof.Machine.execFatalError s
  | .budgetWrite die base watts => Sys2Proof.Machine.execBudgetWrite die base watts s
  | .strelfelPortFailure port => Sys2Proof.Machine.execStrelfelPortFailure port s
  | .peerIncomingAccess peer op => Sys2Proof.Machine.execPeerIncomingAccess peer op s
  | .spdmMeasurementRead index => Sys2Proof.Machine.execSpdmMeasurementRead index s
  | .keyInstall key => Sys2Proof.Machine.execKeyInstall key s
  | .keyClear key => Sys2Proof.Machine.execKeyClear key s
  | .firmwareUpdate good interrupted => Sys2Proof.Machine.execFirmwareUpdate good interrupted s
  | .deviceReset => Sys2Proof.Machine.execDeviceReset s
  | .registerWrite bar2 off val => Sys2Proof.Machine.execRegisterWrite bar2 off val s
  | .fbtailWrite vf val => Sys2Proof.Machine.execFbtailWrite vf val s
  | .peerAcknowledgement num => Sys2Proof.Machine.execPeerAcknowledgement num s
  | .specialFunctionResult => Sys2Proof.Machine.execSpecialFunctionResult s
  | .divisionResult => Sys2Proof.Machine.execDivisionResult s
  | .linkTraining rate width => Sys2Proof.Machine.execLinkTraining rate width s
  | .securedSession => Sys2Proof.Machine.execSecuredSession s

end Sys2Proof.Machine
end

