-- ==== Sys2Proof/Machine/Step.lean ====
section
/-! DEFINITION. One step of the device: an item of the agenda, or the group in focus. -/

namespace Sys2Proof.Machine

/-- The group that its partition has chosen issues, or does what R60, R68 or R94 put before its next instruction. -/
def issueChosen (s : State) : Host.Outcome State Fault Refusal :=
  if mayIssue s then
    match beforeNext s with
    | .trap => exec .trapEntry (chosen s)
    | .replay => exec .laneReplay (chosen s)
    | .resolve => exec .brvResolution (chosen s)
    | .switch => exec .reconvergenceSwitch (chosen s)
    | .pop => exec .reconvergencePop (chosen s)
    | .fetch =>
      match peek (chosen s) with
      | .error e => fetchFails (chosen s) e
      | .ok (n, w) =>
        match decodeWord n w with
        | some i => exec i (chosen s)
        | none => illegal (chosen s) n w
  else .next s

/-- The scheduler of the partition in focus does what is due (R205), and then the group in focus issues where it is chosen. -/
def issueStep (s : State) : Host.Outcome State Fault Refusal := issueChosen (scheduled s)

/-- One step: time passes, then the head of the agenda happens; with an empty agenda the group in focus issues. A run in which an
element has been seen that no command then wrote is none of the device, and ends (R166; log entry 44). -/
def step (s : State) : Host.Outcome State Fault Refusal :=
  if s.broken then .fault .promiseBroken
  else match s.agenda with
  | [] => if s.halted then .fault .fatalStop else issueStep (tick s)
  | it :: rest =>
    let s1 := { tick s with agenda := rest }
    let s2 := match it.focus with
      | some (u, k) => refocus s1 u k
      | none => s1
    match it.op with
    | none => issueStep s2
    | some e =>
      if isEvent e then (if mayHappen s2 e then exec e s2 else .next (heldBack s2 e)) else .next s2

/-- The state with an instruction of nbits bits, zeros above them, stored where `step` fetches next. -/
def State.withFetchWord (s : State) (nbits w : Nat) : State := placeWord s nbits w

end Sys2Proof.Machine
end

