-- ==== Sys2Proof/Safety.lean ====
section
/-! DEFINITION. The terms in which claims are stated: memories in canonical form, when nothing stands in the way of an
instruction of the group in focus, and what a retired instruction leaves as it was. -/

namespace Sys2Proof.Machine

/-- The local, host and peer memories are in canonical form: addresses strictly rising, no byte listed that reads as an
unlisted one does. -/
def State.wf (s : State) : Bool := mwf memDefault s.mem && mwf memDefault s.hostMem && mwf memDefault s.peerMem

/-- Nothing of the state stands in the way of the next instruction of the group in focus: it owns no furrow (R90) and has no
open window (R67), every result on its way has landed (R47 to R49), no FILL or SPILL holds a register (R191), nothing is
poisoned (R223) or upset (R72), no instruction is to be checked again (R73), every scoreboarded result has arrived (R47), and no
read of a released register could trap (R51). -/
structure Quiet (s : State) : Prop where
  notOwner : s.g.fown = false
  noWindow : s.g.window = none
  covered : s.ctx.pend = []
  filled : s.ctx.fillPend = []
  noSpill : ∀ k ∈ s.blk.cmds, k.kind ≠ 5
  cleanV : s.g.poisonV = []
  cleanS : s.g.poisonS = []
  divided : (getPart s (myPart s)).divQueue = []
  settled : (getPart s (myPart s)).sfQueue = []
  sound : s.g.upset = 0
  unsuspected : s.g.suspects = []
  arrived : s.g.arriving = []
  live : statusChk s.ctx.status = false ∨ s.ctx.released = []

/-- The device outside the group in focus is as before, and so is everything of the group but its context and its performance
counters. -/
def OnlyCtx (s t : State) : Prop := t = { s with g := { s.g with ctx := t.g.ctx, pmc := t.g.pmc, arriving := t.g.arriving } }

/-- R54: the entries of a reconvergence stack of the group in focus, newest first, stand where they belong: the newest 16 in
hardware, the others in the group's area, under the key that its function has now. -/
def StackStands (s : State) (l : List StackEntry) : Prop :=
  ∀ (i : Nat) (e : StackEntry), l[i]? = some e → e.tag = if i < 16 then 0 else areaTag s (findBlk s s.g.uid).vf

/-- R54: the newest 16 entries of a reconvergence stack stand in hardware and the others in an area, under whatever key. -/
def StackPlaced (l : List StackEntry) : Prop := ∀ (i : Nat) (e : StackEntry), l[i]? = some e → (e.tag = 0 ↔ i < 16)

/-- What the entries of a stack say, wherever they stand. -/
def shown (l : List StackEntry) : List StackEntry := l.map fun e => { e with tag := 0 }

/-- An instruction ends with a context of its group, and changes nothing else but performance counters. -/
def Completes (s : State) (o : Host.Outcome State Fault Refusal) (c : Ctx) : Prop :=
  ∃ t, o = .next t ∧ t.ctx = c ∧ OnlyCtx s t

/-- R48, R49: what stands as not covered after an instruction that writes a register with a latency and a stall count, where
every earlier result has landed. -/
def uncovered (c : Ctx) (latency stall : Nat) (r : RegClass × Nat) : List Pend :=
  if latency > 1 + stall ∧ discards r = false then [pendFor c (latency - (1 + stall)) r] else []

/-- As `OnlyCtx`, and the result of an iterative unit stands in a queue of the partition (R306, R331). -/
def OnlyCtxAndPart (s t : State) : Prop :=
  t = { s with g := { s.g with ctx := t.g.ctx, pmc := t.g.pmc, arriving := t.g.arriving }, parts := t.parts }

/-- The places of n bytes from a place. -/
def placesFrom (i n : Nat) : List Nat := (List.range n).map fun k => i + k

/-- Every byte of the local memory but those of a list of places is what another state has there, under the same key (R249). -/
def MemoryAs (s t : State) (l : List Nat) : Prop :=
  ∀ a, a ∉ l →
    mget memDefault t.mem a = mget memDefault s.mem a ∧ mget 0 t.memKey (a / 128) = mget 0 s.memKey (a / 128)

/-- Every byte of the local memory but those of a list of places reads as before. R249: a sector that holds some of these places
may come under other keys, under which its other bytes read as they did; where it was under no key, or stays under its own, they
are the bytes of before. -/
def MemoryBut (s t : State) (l : List Nat) : Prop :=
  ∃ tags : List (Nat × Nat), (∀ x ∈ tags, ∃ a ∈ l, a / 128 = x.1) ∧
    MemoryAs (tags.foldl (fun u x => reseal u x.1 x.2) s) t l

/-- As `MemoryBut`, for n bytes from a place that lie in one sector: it comes under one key. -/
def MemoryButAt (s t : State) (i n : Nat) : Prop := ∃ key, MemoryAs (reseal s (i / 128) key) t (placesFrom i n)

/-- A global access of the group in focus at an address is of local memory, at a place and a PA, through a leaf: it is aligned, it
translates, and its page permits it (R153). -/
structure Reaches (s : State) (va : Addr) (write : Bool) (n : Nat) (a : Acc) : Prop where
  aligned : va.toNat % n = 0
  found : translate s s.blk.core s.blk.vf va = .ok a.pa a.leaf
  allowed : protDetail s s.blk.vf s.g.ctx.handler write false false a.pa a.leaf = none
  place : a.idx = accIdx s s.blk.core a.leaf a.pa

/-- R257: the context after an instruction of n bytes, its prefixes used up, with what it leaves uncovered. -/
def stepped (n : Nat) (pend : List Pend) (old c : Ctx) : Ctx :=
  { c with pc := old.pc + BitVec.ofNat 72 n, pend := pend, prefixes := [] }

/-- A scalar result of a WR form: sD holds it (s0 discards it, R36), the PC goes on by 4. -/
def scalarResult (s : State) (w : BitVec 3) (latency : Nat) (d : BitVec 6) (v : SWord) : Ctx :=
  stepped 4 (uncovered s.ctx latency w.toNat (.scalar, d.toNat)) s.ctx (s.ctx.writeS d.toNat v)

/-- R107: the quotient and remainder of 64-bit patterns: by zero all ones and the dividend; −2^63 by −1 is −2^63 and 0; else
signed division truncates toward zero and the remainder takes the sign of the dividend. -/
def quotient (signed : Bool) (x y : SWord) : SWord × SWord :=
  if y = 0 then (BitVec.allOnes 64, x)
  else if signed then (x.sdiv y, x.srem y)
  else (x / y, x % y)

/-- R257: the value of a field of w bits with the prefixes that stand before it, as a sign-extended pattern of n bits. -/
def widened (n w : Nat) (prefixes : List (BitVec 24)) (f : BitVec w) : BitVec n :=
  match prefixes with
  | [] => f.signExtend n
  | [x] => (x ++ f).signExtend n
  | x :: y :: _ => (x ++ y ++ f).signExtend n

/-- R259: the relation of a comparison code between two 64-bit patterns. -/
def related (k : Nat) (x y : SWord) : Bool :=
  match k with
  | 0 => x == y
  | 1 => x != y
  | 2 => x.slt y
  | 3 => x.sle y
  | 4 => y.slt x
  | 5 => y.sle x
  | 6 => x.ult y
  | 7 => x.ule y
  | 8 => y.ult x
  | _ => y.ule x

/-- An integer clamped to a range. -/
def clampTo (lo hi x : Int) : Int := max lo (min hi x)

/-- R100: a lane word clamped to a range, and whether it was clamped. -/
def clamped (lo hi x : Int) : LaneOut := ⟨BitVec.ofInt 32 (clampTo lo hi x), false, decide (x < lo ∨ hi < x)⟩

/-- R351: an integer as a narrow element of n bits, signed or unsigned, and whether it was clamped. -/
def narrowed (n : Nat) (signed : Bool) (x : Int) : BitVec n × Bool :=
  let lo : Int := if signed then -(2 ^ (n - 1)) else 0
  let hi : Int := if signed then 2 ^ (n - 1) - 1 else 2 ^ n - 1
  (BitVec.ofInt n (clampTo lo hi x), decide (x < lo ∨ hi < x))

/-- R97: packed element i of w bits of a lane word. -/
def elemAt (w : Nat) (x : Lane) (i : Nat) : BitVec w := x.extractLsb' (w * i) w

/-- R101 ROUND_rm: n is u / 2^k rounded to an integer under a mode. -/
def RoundsTo (rm : RMode) (u : Int) (k : Nat) (n : Int) : Prop :=
  let d : Int := 2 ^ k
  match rm with
  | .rne => 2 * (u - n * d).natAbs ≤ d.natAbs ∧ (2 * (u - n * d).natAbs = d.natAbs → n % 2 = 0)
  | .rtz => 0 ≤ n * u ∧ (n * d).natAbs ≤ u.natAbs ∧ u.natAbs < (n * d).natAbs + d.natAbs
  | .rdn => n * d ≤ u ∧ u < (n + 1) * d
  | .rup => (n - 1) * d < u ∧ u ≤ n * d

/-- A finite value as a multiple of 2^e, where it is one. -/
def FVal.scaled (e : Int) : FVal → Option Int
  | .fin neg m ex =>
    if m = 0 then some 0
    else if e ≤ ex then some ((if neg then -1 else 1) * ((m * 2 ^ (ex - e).toNat : Nat) : Int))
    else none
  | _ => none

/-- R342: one bit of a bitwise fold of words. -/
def foldedBit (op : Nat) (l : List Lane) (i : Nat) : Bool :=
  let bits := l.map fun x => x.getLsbD i
  if op = 6 then !bits.isEmpty && bits.all id else if op = 7 then bits.any id else bits.foldl (· != ·) false

/-- R14, R63: the active lanes whose predicate, negated or not, is 1. -/
def voting (c : Ctx) (p : BitVec 3) (neg : Bool) (l : Nat) : Bool := laneOn c.exec l && (laneOn (c.readP p.toNat) l != neg)

/-- R14: whether lane L takes part in an instruction with a guard. -/
def takesPart (c : Ctx) (g : Guard) (l : Nat) : Bool := laneOn c.exec l && (laneOn (c.readP g.pg.toNat) l != g.pn)

/-- R37: the vector registers of a vector ALU instruction lie below the allocation. -/
def LaneRegsFit (s : State) (op : LaneOp) (f : LvF) : Prop :=
  (writesVec op = true → f.vd.toNat < s.blk.regs) ∧ (readsA op = true → f.a.reg.toNat < s.blk.regs) ∧
    (∀ r, bVector f = some r → readsB op = true → r.reg.toNat < s.blk.regs) ∧
    (readsC op = true → f.c.reg.toNat < s.blk.regs)

/-- What lane L of a vector ALU instruction computes on the registers as they stand (R46, R314). -/
def laneResult (op : LaneOp) (f : LvF) (s : State) (l : Nat) : LaneOut :=
  laneOf op f s.ctx.fmt (match bScalar f with
    | some n => s.ctx.readS n
    | none => 0) s.ctx l

/-- As `OnlyCtx`, but for the L1 of the group's core. -/
def OnlyCtxAndL1 (s t : State) : Prop :=
  t = { s with g := { s.g with ctx := t.g.ctx, pmc := t.g.pmc, arriving := t.g.arriving }, cores := t.cores }

/-- As `OnlyCtx`, but for the caches, the miss slots and the coherence protocol, which a load asks (R137, R138, R146, R174), and
for a swap that a miss makes due (R205). -/
def OnlyCtxAndCaches (s t : State) : Prop :=
  t = { s with
    g := { s.g with ctx := t.g.ctx, pmc := t.g.pmc, arriving := t.g.arriving, swapDue := t.g.swapDue }
    cores := t.cores
    dies := t.dies
    msgs := t.msgs
    chan := t.chan }

/-- As `OnlyCtxAndCaches`, but for the local memory, its poison and its keys, and for what instruction fetches still see of it. -/
def OnlyStored (s t : State) : Prop :=
  t = { s with
    g := { s.g with ctx := t.g.ctx, pmc := t.g.pmc, arriving := t.g.arriving, swapDue := t.g.swapDue }
    cores := t.cores
    dies := t.dies
    msgs := t.msgs
    chan := t.chan
    mem := t.mem
    memPoison := t.memPoison
    memKey := t.memKey
    torn := t.torn }

/-- As `OnlyCtxAndL1`, but that engine writes to scratch may have been seen (R161, R166). -/
def OnlyScratchRead (s t : State) : Prop :=
  t = { s with
    g := { s.g with ctx := t.g.ctx, pmc := t.g.pmc, arriving := t.g.arriving }, cores := t.cores, loose := t.loose
    broken := t.broken } ∧
    t.loose.map (fun x => { x with known := [] }) = s.loose.map (fun x => { x with known := [] }) ∧
    (s.loose = [] → t.broken = s.broken)

/-- The engine writes to scratch are the same but for what the group in focus has seen of them or has written over (R161, R166).
-/
def SameElements (s t : State) : Prop :=
  t.loose.map (fun x => { x with old := [], known := [] }) = s.loose.map (fun x => { x with old := [], known := [] }) ∧
    t.early.map (fun x => { x with past := false }) = s.early.map (fun x => { x with past := false }) ∧
    (s.loose = [] → s.early = [] → t.broken = s.broken)

/-- As `OnlyCtx`, but for the scratch bytes of a block, their poison, and what an engine's element there hides still. -/
def OnlyScratch (s t : State) : Prop :=
  t = { s with
    g := { s.g with ctx := t.g.ctx, pmc := t.g.pmc, arriving := t.g.arriving }, blk := t.blk, blks := t.blks
    loose := t.loose, early := t.early, broken := t.broken } ∧
    t.blk = { s.blk with scratch := t.blk.scratch, scratchPoison := t.blk.scratchPoison } ∧ SameElements s t

/-- As `OnlyCtx`, but for the fields of the group, its block and its partition that a control instruction writes. -/
def OnlyNear (s t : State) : Prop := t = { s with g := t.g, blk := t.blk, parts := t.parts }

/-- R13: the context of a control instruction of 4 bytes that writes no register. -/
def passed (s : State) : Ctx := stepped 4 [] s.ctx s.ctx

/-- R45: what one issued instruction adds to performance counter i of a group. -/
def issueCounts (g : Group) (i : Nat) : SWord := if mget 0 g.pmcProg i = 3 ∧ i < 16 then 1 else 0

/-- R139, R137: the n bytes that a load of the group in focus reads by an access: of its core's L1 where that may serve it, else
of memory, through its page's key (R249). -/
def loaded (s : State) (acq : Bool) (a : Acc) (n : Nat) : List Byte := loadBytes s s.blk.core acq a n

/-- R139, R170: a load that no L1 serves, since it acquires, or its memory is not NORMAL, or the core's L1 holds nothing of it,
reads what its page shows of memory: the bytes of memory themselves, where they are held under the key of the page (R249). -/
def LoadsMemory (s : State) (acq : Bool) (a : Acc) (n : Nat) : Prop :=
  (acq = true ∨ entryMT a.leaf ≠ 0 ∨ l1Find s s.blk.core a.pa = none → loaded s acq a n = pageBytes s a.leaf a.idx n) ∧
    ((∀ k < n, mget 0 s.memKey ((a.idx + k) / 128) = 0 ∨ mget 0 s.memKey ((a.idx + k) / 128) = viewTag s a.leaf (a.idx + k)) →
      pageBytes s a.leaf a.idx n = bytesAt s.mem a.idx n)

/-- R274: bytes as a scalar, zero-extended or sign-extended. -/
def extended (signed : Bool) (n : Nat) (bs : List Byte) : SWord :=
  if signed then (BitVec.ofNat (8 * n) (leNat bs)).signExtend 64 else BitVec.ofNat 64 (leNat bs)

/-- R293: the word of data register k that a lane loads. -/
def laneWord (f : LmF) (bs : List Byte) (k : Nat) : Lane :=
  if f.size.toNat < 2 ∧ f.sign = true then (BitVec.ofNat (8 * sizeBytes f.size) (leNat bs)).signExtend 32
  else BitVec.ofNat 32 (leNat ((bs.drop (4 * k)).take 4))

/-- R293: byte k of what lane L of a store writes. -/
def laneByte (f : LmF) (c : Ctx) (l k : Nat) : Byte := (c.lane (f.vd.toNat + k / 4) l).extractLsb' (8 * (k % 4)) 8

/-- R37: the registers that an LM access names lie below the allocation. -/
def LmFits (s : State) (f : LmF) (strided : Bool) : Prop :=
  f.size.toNat ≤ 4 ∧ f.vd.toNat + lmCount f.size ≤ s.blk.regs ∧
    (strided = false → f.os = false → f.vo.toNat < s.blk.regs)

/-- R13, R293: an LM load ends as the rules say, where lane L loads the bytes `bs L`: the data registers of the lanes that take
part hold them, a released offset register holds zeros, and the PC goes on by 8. -/
def LoadsLanes (s : State) (f : LmF) (bs : Nat → List Byte) (t : State) : Prop :=
  t.ctx = { s.ctx with pc := s.ctx.pc + 8, prefixes := [], pend := [], v := t.ctx.v, released := t.ctx.released } ∧
    ∀ r l, l < 32 → t.ctx.lane r l =
      if f.vd.toNat ≤ r ∧ r < f.vd.toNat + lmCount f.size then
        (if takesPart s.ctx f.g l = true then laneWord f (bs l) (r - f.vd.toNat) else s.ctx.lane r l)
      else if f.lro = true ∧ r = f.vo.toNat then 0 else s.ctx.lane r l

/-- R13, R293, R50: the context after an LM store: its marks release, and nothing else of it changes but the PC. -/
def StoresLanes (s : State) (f : LmF) (t : State) : Prop :=
  t.ctx = { s.ctx with pc := s.ctx.pc + 8, prefixes := [], pend := [], v := t.ctx.v, released := t.ctx.released } ∧
    ∀ r l, l < 32 → t.ctx.lane r l =
      if (f.lrd = true ∧ f.vd.toNat ≤ r ∧ r < f.vd.toNat + lmCount f.size) ∨ (f.lro = true ∧ r = f.vo.toNat) then 0
      else s.ctx.lane r l

/-- R344: what the lanes of a store leave at the places `at L`: byte k of lane L, unless a higher lane writes there too. -/
def lanesStored (s : State) (f : LmF) (place : Nat → Nat) (mem : Nat → Byte) : Prop :=
  ∀ l k, l < 32 → takesPart s.ctx f.g l = true → k < sizeBytes f.size →
    (∀ l', l < l' → l' < 32 → takesPart s.ctx f.g l' = true → place l + k ∉ placesFrom (place l') (sizeBytes f.size)) →
    mem (place l + k) = laneByte f s.ctx l k

/-- The places that the lanes of a store write. -/
def laneStorePlaces (s : State) (f : LmF) (place : Nat → Nat) : List Nat :=
  ((List.range 32).filter fun l => takesPart s.ctx f.g l).flatMap fun l => placesFrom (place l) (sizeBytes f.size)

/-- R133, R135, R153: an access of n bytes to the scratch window of a block at an offset passes its checks. -/
def InScratch (b : Block) (n off : Nat) : Prop :=
  off % n = 0 ∧ windowBusy b off n = false ∧ inWindow b off n = true

/-- R37: the vector registers that an atomic names lie below the allocation. -/
def AtomFits (s : State) (f : LaF) (cas : Bool) : Prop :=
  let n := if f.w64 then 2 else 1
  f.va.toNat < s.blk.regs ∧ f.vb.toNat + n ≤ s.blk.regs ∧ f.vd.toNat + n ≤ s.blk.regs ∧
    (cas = true → f.vc.toNat + n ≤ s.blk.regs)

/-- The element of n bytes at a place of memory. -/
def elementAt (m : List Host.Cell) (i n : Nat) : Nat := leNat (bytesAt m i n)

/-- The element of n bytes that an access finds in memory through its page (R249). -/
def elementOf (s : State) (a : Acc) (n : Nat) : Nat := leNat (pageBytes s a.leaf a.idx n)

/-- R249: some accesses see the sectors that they share under one key, the one under which an L2 holds a sector where one does. -/
def OneView (s : State) (part : Nat → Prop) (at_ : Nat → Acc) : Prop :=
  (∀ l, part l → viewTag s (at_ l).leaf (at_ l).idx = keyTag s (at_ l).leaf (at_ l).idx) ∧
    ∀ l k, part l → part k → (at_ l).idx / 128 = (at_ k).idx / 128 →
      keyTag s (at_ l).leaf (at_ l).idx = keyTag s (at_ k).leaf (at_ k).idx

/-- R291: the context after a vector atomic: the lanes that take part hold the old values `old L`, split over a pair with W64. -/
def OldValues (s : State) (f : LaF) (old : Nat → Nat) (t : State) : Prop :=
  t.ctx = { s.ctx with pc := s.ctx.pc + 8, v := t.ctx.v, released := t.ctx.released } ∧
    ∀ r l, l < 32 → t.ctx.lane r l =
      if takesPart s.ctx f.g l = true ∧ f.w64 = true ∧ r = f.vd.toNat + 1 then BitVec.ofNat 32 (old l / 2 ^ 32)
      else if takesPart s.ctx f.g l = true ∧ r = f.vd.toNat then BitVec.ofNat 32 (old l)
      else s.ctx.lane r l

/-- The lanes of a group that take part in an atomic, below lane L. -/
def lanesBelow (s : State) (f : LaF) (l : Nat) : List Nat := (List.range (min l 32)).filter fun k => takesPart s.ctx f.g k

/-- R112: whether an element of a block's accumulators lies in a tile. -/
def inTile (arow : BitVec 7) (acol : BitVec 3) (mc : BitVec 3) (nc : BitVec 2) (row col : Nat) : Bool :=
  decide (arow.toNat ≤ row) && decide (row < arow.toNat + rowsOf mc) && decide (16 * acol.toNat ≤ col) &&
    decide (col < 16 * acol.toNat + colsOf nc)

/-- R130: element e comes after element e' in the order in which MSTZ stores. -/
def laterElem (e e' : Nat × Nat) : Prop := e'.1 < e.1 ∨ (e'.1 = e.1 ∧ e'.2 < e.2)

/-- R130: what MSTZ leaves at the places of a tile's elements: the bytes of each, unless a later element writes there too. -/
def tileStored (f : LzF) (b : Block) (place : Nat × Nat → Nat) (mem : Nat → Byte) : Prop :=
  ∀ e k, e.1 < rowsOf f.mc → e.2 < colsOf f.nc → k < mstzSize f.fmt →
    (∀ e', e'.1 < rowsOf f.mc → e'.2 < colsOf f.nc → laterElem e' e → place e + k ∉ placesFrom (place e') (mstzSize f.fmt)) →
    mem (place e + k) =
      BitVec.ofNat 8 ((mstzValue f (accAt b (f.arow.toNat + e.1) (16 * f.acol.toNat + e.2))).1 / 256 ^ k)

/-- The places that the elements of a tile are stored to. -/
def tileStorePlaces (f : LzF) (place : Nat × Nat → Nat) : List Nat :=
  (tileOf (rowsOf f.mc) (colsOf f.nc)).flatMap fun e => placesFrom (place e) (mstzSize f.fmt)

/-- R182, R184: what issue makes of an engine instruction: a live command at the end of the block's list. -/
def newCmd (s : State) (f : LxF) (kind : BitVec 3) (bytes : List Byte) (addr : Addr) (first count : Nat) (insn : BitVec 64) :
    Cmd where
  num := freeNum s.blk
  gen := nextGen (mget 0 s.blk.gens (freeNum s.blk))
  kind := kind
  state := .pending
  started := false
  bytes := bytes
  stop := 0
  slot := s.g.slot
  acq := f.acq
  rel := f.rel
  scope := f.scope
  addr := addr
  first := first
  count := count
  cancelReq := false
  ack := false
  protVa := none
  poisonVa := none
  fault := none
  issued := s.clock
  insn := insn

/-- R182, R185: the group in focus has issued an engine command: the command is live, its handle stands in sD, and nothing else
changes but the number's generation, the registers that await a FILL, what the read of a command block asks for, and, where it has
written elements ahead of its issue (R166), that these are its own now. -/
def Issued (s : State) (f : LxF) (k : Cmd) (t : State) : Prop :=
  t = { s with
    g := { s.g with ctx := t.g.ctx, pmc := t.g.pmc, arriving := t.g.arriving, swapDue := t.g.swapDue }
    blk := { s.blk with cmds := t.blk.cmds, gens := t.blk.gens }
    cores := t.cores
    dies := t.dies
    msgs := t.msgs
    chan := t.chan
    early := t.early
    broken := t.broken } ∧
  t.early.map (fun e => { e with cmd := none, skip := 0 }) = s.early.map (fun e => { e with cmd := none, skip := 0 }) ∧
  (s.early = [] → t.broken = s.broken) ∧
  t.ctx = { s.ctx.writeS f.sd.toNat (handleOf s.blk.spanPos k.kind k.gen k.num) with
    pc := s.ctx.pc + 8, fillPend := t.ctx.fillPend } ∧
  t.blk.cmds = s.blk.cmds ++ [k] ∧ mget 0 t.blk.gens k.num = k.gen ∧
  ∀ r, mget false t.ctx.fillPend r = (k.kind == 6 && decide (k.first ≤ r) && decide (r < k.first + k.count))

/-- R189, R190: the engine may perform the element at the stop index of a command of the block in focus: it runs, and nothing
asks it to stop. -/
structure EngineAt (s : State) (num : BitVec 8) (k : Cmd) : Prop where
  resident : s.blk.phase = .resident
  found : s.blk.cmds.find? (fun y => y.num == num.toNat) = some k
  pending : k.state = .pending
  started : k.started = true
  wanted : k.cancelReq = false
  acked : k.ack = false
  left : k.stop < cmdTotal k

/-- R190, R354: the command with a number has performed its element; one whose element went to a peer awaits its
acknowledgement. -/
def EngineMoves (s t : State) (num : BitVec 8) (k : Cmd) (peer : Bool) : Prop :=
  t.blk.cmds = s.blk.cmds.map fun y =>
    if y.num ≠ num.toNat then y else if peer then { y with ack := true } else { y with stop := k.stop + 1 }

/-- The bytes that stand at a place of an element. -/
def PlaceHolds (t : State) (q : Place) (bs : List Byte) : Prop :=
  match q with
  | .local a => bytesAt t.mem a.idx bs.length = bs
  | .host i => bytesAt t.hostMem i bs.length = bs
  | .peer i => bytesAt t.peerMem i bs.length = bs
  | .scratch uid off => scratchBytes (findBlk t uid) off bs.length = bs

/-- Of the memories of the device, its host and its peers, and of every block's scratch, only the n bytes of a place change. -/
def OnlyPlace (s t : State) (q : Place) (n : Nat) : Prop :=
  (match q with
    | .local a => MemoryBut s t (placesFrom a.idx n)
    | _ => t.mem = s.mem) ∧
  (∀ i, (∀ h, q = .host h → i ∉ placesFrom h n) → mget memDefault t.hostMem i = mget memDefault s.hostMem i) ∧
  (∀ i, (∀ h, q = .peer h → i ∉ placesFrom h n) → mget memDefault t.peerMem i = mget memDefault s.peerMem i) ∧
  ∀ u o, (∀ off, q = .scratch u off → o ∉ placesFrom off n) →
    mget 0 (findBlk t u).scratch o = mget 0 (findBlk s u).scratch o

/-- Whether a place is a peer's. -/
def isPeer (q : Place) : Bool :=
  match q with
  | .peer _ => true
  | _ => false

/-- The first access to global memory of the element at a command's stop index, and whether it is a write: the source of a copy,
the location of a signal, the address of a SPILL or FILL. -/
def FirstAccess (k : Cmd) (va : Addr) (write : Bool) : Prop :=
  (k.kind = 0 ∧ cmdU k 48 1 % 4 = 0 ∧ va = toAddr ((cmdU k 16 9 : Int) + cmdDisp k 72 k.stop) ∧ write = false) ∨
    (k.kind = 4 ∧ cmdU k 32 1 % 4 = 0 ∧ va = toAddr (cmdU k 16 9 : Int) ∧ write = true) ∨
    (k.kind = 5 ∧ va = k.addr + BitVec.ofNat 72 (128 * k.stop) ∧ write = true) ∨
    (k.kind = 6 ∧ va = k.addr + BitVec.ofNat 72 (128 * k.stop) ∧ write = false)

/-- R195, R206: whether a port's completion ring has room. -/
def ringRoom (p : Port) : Bool := (p.crhead - p.crtail).toNat != 256

/-- R195: an entry of a completion ring. -/
def completionEntry (lid : Nat) (status detail : Byte) (blocks : Nat) : List Byte :=
  leBytes 4 lid ++ [status, detail, 0, 0] ++ leBytes 8 blocks

/-- R195: the places of the entry that a port's ring takes next, of each of its 16 bytes that the device can write. -/
def entryPlaces (s : State) (port : Nat) : List Nat :=
  let p := getPort s port
  let at_ := p.crbase + BitVec.ofNat 72 (16 * (p.crhead.toNat % 256))
  (List.range 16).filterMap fun k => (devicePlace s 0 (p.owner.getD 0) (at_ + BitVec.ofNat 72 k)).map (·.1)

/-- R195: an entry stands where a port's ring takes its next, in every byte of it, where the device can write all of them. -/
def EntryStands (s t : State) (port : Nat) (bs : List Byte) : Prop :=
  (entryPlaces s port).length = 16 → (entryPlaces s port).Nodup → ∀ (k i : Nat) (b : Byte),
    (entryPlaces s port)[k]? = some i → bs[k]? = some b → mget memDefault t.mem i = b

/-- R172, R175: the entry of a line at a home, for a request of a die about a sector, stands in `u` as it did in `c`, but for the
sector's state and owner, and for the die in MASK where it is remote. -/
def EntryBecomes (c u : Coh) (die sector : Nat) (x : SecState × Nat) : Prop :=
  ∀ e, c.line (homeDie sector) (sector / 8) = some e → ∃ e', u.line (homeDie sector) (sector / 8) = some e' ∧
    e'.st = e.st.set (sector % 8) x ∧ e'.evict = e.evict ∧
    e'.mask = if die = homeDie sector then e.mask else e.mask ||| BitVec.ofNat 4 (2 ^ die)

/-- R174, R175: a request of a die about a sector has arrived at its home, which serves nothing else of the sector and no request
that came before it, and whose entry of the line is not being evicted. -/
structure Arrives (s : State) (kind : MsgKind) (die sector : Nat) (m : Msg) : Prop where
  waits : waitingReq s kind die sector = some m
  free : (cohOf s).inService sector = false
  first : (cohOf s).before m = false
  stands : ∀ e, (cohOf s).line (homeDie sector) (sector / 8) = some e → e.evict = false

/-- The messages of a list with a request taken into service, in the state by which the home knows who supplies the data. -/
def served_ (l : List Msg) (m : Msg) (st : SecState) : List Msg := l.map fun x => if x = m then { m with st := st } else x

/-- The keys of a map are distinct and below a bound. -/
def KeysBelow {β : Type} (n : Nat) (l : List (Nat × β)) : Prop := (l.map (·.1)).Nodup ∧ ∀ e ∈ l, e.1 < n

/-- R54: what a group holds lies within what its context area has room for. -/
structure GroupFits (b : Block) (g : Group) : Prop where
  regs : b.regs ≤ 256
  stack : g.ctx.stack.length ≤ 256
  handles : (liveHandles b g.slot).length ≤ 256
  counters : KeysBelow 16 g.pmcProg ∧ KeysBelow 16 g.pmc
  scalars : KeysBelow 64 g.ctx.s
  pointers : KeysBelow 16 g.ctx.a
  predicates : KeysBelow 7 g.ctx.p
  conditions : KeysBelow 7 g.ctx.c
  masks : KeysBelow 256 g.ctx.released ∧ KeysBelow 256 g.ctx.fillPend
  vectors : (g.ctx.v.map (·.1)).Nodup

/-- R220: what a block holds lies within what its context area has room for, beside the blocks of its span. -/
structure BlockFits (b : Block) (span : List Block) : Prop where
  barriers : KeysBelow 16 b.bar ∧ KeysBelow 4 b.sbar
  latches : KeysBelow 4 b.latch ∧ ∀ x ∈ b :: span, KeysBelow 4 x.slatch
  fifos : KeysBelow 15 b.fifo ∧ ∀ e ∈ b.fifo, e.2.length ≤ 256 ∧ ∀ x ∈ e.2, x.length = 32
  rows : KeysBelow (128 * b.accrows) b.acc
  store : KeysBelow (32768 * b.lstore) b.scratch ∧ b.lstore ≤ 15
  generations : KeysBelow 256 b.gens

/-- R192, R201: no record of a port that is still to start bears a launch id. -/
def NoneQueued (s : State) (port lid : Nat) : Prop := ∀ r ∈ uncheckedRecords (getPort s port), recLid r.bits ≠ lid

/-- As `Quiet`, for the owner of a running furrow. -/
def QuietOwner (s : State) : Prop := s.g.fown = true ∧ Quiet { s with g := { s.g with fown := false } }

/-- A replica of a stage of a furrow may fire, and it has no gate. -/
def StageFree (f : Furrow) (i r : Nat) : Prop := mayFire f i r = true ∧ stageGate (planStage f.plan i) = []

/-- A firing changes nothing but the furrow of the partition in focus, which it leaves as `g`, active now. -/
def FurrowBecomes (s t : State) (g : Furrow) : Prop :=
  t = { s with parts := t.parts } ∧ (getPart t (myPart s)).furrow = some { g with idle := 0 } ∧
    ∀ k, k ≠ myPart s → getPart t k = getPart s k

/-- No cached translation of a state has a property: neither in a core's TLB nor in a die's TLB or walk cache (R152). -/
def NoTranslation (s : State) (p : TlbEntry → Bool) : Prop :=
  (∀ e ∈ s.cores, ∀ x ∈ e.2.tlb, p x = false) ∧
    ∀ e ∈ s.dies, (∀ x ∈ e.2.tlb, p x = false) ∧ ∀ x ∈ e.2.walks, p x = false

/-- The places of the bytes of a list of bytes through a list of places: byte k stands at place k. -/
def BytesStand (m : List Host.Cell) (l : List Nat) (bs : List Byte) : Prop :=
  ∀ (k i : Nat) (b : Byte), l[k]? = some i → bs[k]? = some b → mget memDefault m i = b

/-- R209: nothing of a state but the freeze itself and the temperature that caused it. -/
def OnlyFreeze (s t : State) : Prop :=
  t = { s with frozen := t.frozen, freezes := t.freezes, hot := t.hot, intr := t.intr, temps := t.temps, cooled := t.cooled }

/-- R120, R123: the blocks whose arrivals stand on the entry at which the group in focus arrives with an MCUBE. -/
def arrivalBlocks (s : State) (f : LcF) : List Block := latchBlocks s s.blk (spanOp s.blk f)

/-- R120: a block's part of that entry with the arrival on it; a first arrival leaves its GANG and fields as the record. -/
def arrivalPart (s : State) (f : LcF) (x : Block) : Latch :=
  let e := latchOf x (spanOp s.blk f) (gangId s.ctx.gang)
  if x.uid = s.blk.uid then
    ⟨e.arrived ||| BitVec.ofNat 32 (2 ^ s.g.slot), e.seq, some (e.first.getD (s.ctx.gang, f))⟩
  else e

/-- The record of a block on that entry. -/
def arrivalRecord (s : State) (f : LcF) (x : Block) : BitVec 64 × LcF := (arrivalPart s f x).first.getD (0, f)

/-- The MCUBE with which a member stands at that entry. -/
def arrivalField (s : State) (f : LcF) (uid slot : Nat) : LcF :=
  if uid = s.g.uid ∧ slot = s.g.slot then f else latchField (findGroup s uid slot)

/-- R117: the composition check of a member that has arrived. -/
def arrivalComposed (s : State) (f : LcF) (x : Block) (slot : Nat) : Prop :=
  composed (arrivalRecord s f x).2 (arrivalRecord s f x).1 slot x.groups (spanOp s.blk f) (x.spanPos == 0) = true

/-- R121 detail 2: the arriving member's GANG is not its block's record, or the record does not list it. -/
def ArrivalClashes (s : State) (f : LcF) : Prop :=
  let e := latchOf s.blk (spanOp s.blk f) (gangId s.ctx.gang)
  ∃ r, e.first = some r ∧ (r.1 ≠ s.ctx.gang ∨ s.g.slot ∉ listed r.1 e.arrived)

/-- R121 detail 3, R123: a listed group, or on a span entry a group of a block of the span, has exited, or such a block is
complete. -/
def ArrivalLost (s : State) (f : LcF) : Prop :=
  ∃ x ∈ arrivalBlocks s f, x.phase = .complete ∨
    if spanOp s.blk f = true then ∃ g ∈ groupsOf s x.uid, g.run = .exited
    else ∃ k ∈ listed (arrivalRecord s f x).1 (arrivalPart s f x).arrived, (findGroup s x.uid k).run = .exited

/-- R120: every block has a record on the entry, and every group listed in each record has arrived. -/
def ArrivalFull (s : State) (f : LcF) : Prop :=
  (arrivalBlocks s f).length = (if spanOp s.blk f = true then spanSize s.blk else 1) ∧
  ∀ x ∈ arrivalBlocks s f, (arrivalPart s f x).first ≠ none ∧
    ∀ k ∈ listed (arrivalRecord s f x).1 (arrivalPart s f x).arrived, laneOn (arrivalPart s f x).arrived k = true

/-- R121 detail 1: the members of each block agree with its record, and the records of the blocks with one another. -/
def ArrivalAgrees (s : State) (f : LcF) : Prop :=
  let like := fun (x y : LcF) => x.mc = y.mc ∧ x.nc = y.nc ∧ x.ef = y.ef ∧ x.pm = y.pm ∧ x.ovw = y.ovw ∧ x.span = y.span
  (∀ x ∈ arrivalBlocks s f, ∀ k, laneOn (arrivalPart s f x).arrived k = true →
    let m := arrivalField s f x.uid k
    let r := (arrivalRecord s f x).2
    like m r ∧ m.arow = r.arow ∧ m.acol = r.acol) ∧
  ∀ x ∈ arrivalBlocks s f, ∀ y ∈ arrivalBlocks s f, like (arrivalRecord s f x).2 (arrivalRecord s f y).2

/-- R121: what a GANG trap at the latch leaves: the arrivals cleared with the sequence as it was, and the trap raised in every
member that had arrived, which stands at its MCUBE with its context as it was. -/
def ArrivalTraps (s : State) (f : LcF) (detail : Nat) (t : State) : Prop :=
  t.mem = s.mem ∧ t.cores = s.cores ∧ ∀ x ∈ arrivalBlocks s f,
    latchOf (findBlk t x.uid) (spanOp s.blk f) (gangId s.ctx.gang) = ⟨0, (arrivalPart s f x).seq, none⟩ ∧
    ∀ k, laneOn (arrivalPart s f x).arrived k = true → (findGroup s x.uid k).isAt x.uid k = true →
      (findGroup t x.uid k).run = .ready ∧ (findGroup t x.uid k).trapReq = some (gangTrap detail) ∧
      (findGroup t x.uid k).ctx = (findGroup s x.uid k).ctx

/-- R114, R115, R119: words hold a plane as the arrived members of a block supply it in their registers. -/
def Supplied (s : State) (f : LcF) (x : Block) (plane : Nat) (words : List (Nat × Lane)) : Prop :=
  let r := arrivalRecord s f x
  let l := validEntries r.1
  ∀ k, laneOn (arrivalPart s f x).arrived k = true →
    let lane := (findGroup s x.uid k).ctx.lane
    let m := arrivalField s f x.uid k
    if isLone r.1 k = true then (∀ i, laneOn (arrivalPart s f x).arrived i = true → i = k) →
      ∀ w < 8 * planeRows r.2 plane, mget 0 words w = lane (loneBase m plane + w / 32) (w % 32)
    else ∀ en ∈ l, en.slot = k → en.plane = plane → ∀ w < 8 * entryRows r.2 l en,
      mget 0 words (if en.half = true then 8 * entryRows r.2 l en + w else w) = lane (m.base.toNat + w / 32) (w % 32)

/-- R113, R119, R120, R123: what the last arrival leaves where every queue has room: the entry cleared and its sequence one up,
one pass behind the others in the queue of each block's core, with planes A and, but in RG, C of the leader and its own B and C,
and every member past its MCUBE. -/
def ArrivalAccepted (s : State) (f : LcF) (t : State) : Prop :=
  t.mem = s.mem ∧ ∃ members : List (Nat × Nat),
    (∀ u k, (u, k) ∈ members ↔ ∃ x ∈ arrivalBlocks s f, x.uid = u ∧ laneOn (arrivalPart s f x).arrived k = true) ∧
    ∀ x ∈ arrivalBlocks s f,
      let r := (arrivalRecord s f x).2
      latchOf (findBlk t x.uid) (spanOp s.blk f) (gangId s.ctx.gang) = ⟨0, (arrivalPart s f x).seq + 1, none⟩ ∧
      (findBlk t x.uid).joined = [] ∧
      (∃ a b c, (getCore t x.core).cubeQ = (getCore s x.core).cubeQ ++ [⟨x.uid, .pass r a b c, members⟩] ∧
        Supplied s f x 1 b ∧ (r.pm = 2 → Supplied s f x 2 c) ∧
        ∀ y ∈ arrivalBlocks s f, (spanOp s.blk f = true → y.spanPos = 0) →
          Supplied s f y 0 a ∧ (r.pm ≠ 0 → r.pm ≠ 2 → Supplied s f y 2 c)) ∧
      ∀ k, laneOn (arrivalPart s f x).arrived k = true → (findGroup s x.uid k).isAt x.uid k = true →
        (findGroup t x.uid k).run = .ready ∧ (findGroup t x.uid k).ctx.pc = (findGroup s x.uid k).ctx.pc + 8

end Sys2Proof.Machine
end

