-- ==== Sys2Proof/Certificates/Slice0/Obligations.lean ====
section
/-! DEFINITION. The statements for the provers. Each docstring names the rule of spec/ that it formalises. -/

section

open Sys2Proof Sys2Proof.Machine

/-- R64, R141, R228, R42, R208, R247: what a device reset leaves, and the state from which the model starts: every
placement entry FIXED, every coulter entry zero, every error counter zero, no function enabled, no group, no launch;
every governor NORMAL. That no function is enabled and no port is owned then, that CLOCK starts at 0 and that
nothing is resident is the model's choice (log entries 1 and 2). -/
def Obligations.ResetState : Prop :=
  ∀ t : State, (t = State.reset ∨ ∃ s, exec .deviceReset s = .next t) →
    (∀ q, mget 0 t.place q = 0) ∧ (∀ k i, mget ⟨0, 0, 0⟩ (getPart t k).coulter i = ⟨0, 0, 0⟩) ∧
    (∀ k, mget 0 t.mcCE k = 0 ∧ mget 0 t.mcUE k = 0) ∧ (∀ vf, (getFunc t vf).en = false) ∧ t.clock = 0 ∧
    allGroups t = [] ∧ allBlocks t = [] ∧ t.launches = [] ∧ t.halted = false ∧ t.frozen = false ∧
    (∀ port, (getPort t port).owner = none) ∧ ∀ die, (getDie t die).gov = .normal ∧ (getDie t die).mhz = 1500

/-- Every memory of the state after reset is in canonical form, and reads as unlisted bytes do (the byte is log entry
3's choice). -/
def Obligations.StartsCanonical : Prop :=
  State.reset.wf = true ∧ ∀ i, mget memDefault State.reset.mem i = memDefault

/-- The invariant of the model: a step that goes on keeps the local, host and peer memories in canonical form, whatever
the instruction or event, so that equal memories are equal data. The list form of memory is the model's own (log
entry 3). -/
def Obligations.StepKeepsMemoryCanonical : Prop :=
  ∀ s t : State, s.wf = true → step s = .next t → t.wf = true

/-- R255, R262 to R271: decoding the encoding of any well-formed instruction gives it back, with every operand, and with
its length, whatever bytes follow. -/
def Obligations.DecodeEncode : Prop :=
  ∀ (i : Instr) (rest : List Byte), wellFormed i = true → isEvent i = false →
    decodeWord (byteLen i) (encode i) = some i ∧ decodeBytes (encodeBytes i ++ rest) = .ok (i, byteLen i)

/-- R262, R264, R270, R271: the words that the spec's examples write out decode to the instructions that they name; a
NOP with another bit set, and a cube operation with a size code of 4, are no instructions. -/
def Obligations.DecodeWords : Prop :=
  let g : Guard := ⟨false, 7⟩
  decodeWord 2 0x9462 = some (.vaddC16 true 5 3) ∧ decodeWord 4 0x00000105 = some (.imx 1) ∧
  decodeWord 4 0x3880C319 = some (.saddi 3 3 0x388) ∧ decodeWord 4 0x000000A5 = some .exit ∧
  decodeWord 4 0x0000C0CD = some (.bar 3) ∧ decodeWord 4 0x000307C1 = some (.sysrd 0x0C 7) ∧
  decodeWord 4 0x000000F1 = some .frwkill ∧ decodeWord 4 0x000000D9 = some .fetchb ∧
  decodeWord 4 0x00000001 = some .nop ∧ decodeWord 4 0x10018511 = some (.sclz 0 5 6) ∧
  decodeWord 8 0x00002400001C0563 = some (.brv 1 false 14 18) ∧
  decodeWord 8 0x0004000C06061C03 = some (.vadd ⟨g, 0, 3, ⟨3, false⟩, .vec ⟨6, true⟩, ⟨0, false⟩, 0⟩) ∧
  decodeWord 8 0x1000004406101D9B = some (.ldr ⟨g, 16, 0, 0, false, false, false, 0, false, false, 2, 2, 3, 8⟩) ∧
  decodeWord 8 0x5004000A08181DAF = some (.matom ⟨g, false, 2, 4, 0, 2, 0, 5, 4, 12⟩) ∧
  decodeWord 8 0x0000004200141DB7 = some (.qpush ⟨g, 0, 0, 0, false, false, false, 0, false, false, 2, 1, 0, 10⟩) ∧
  decodeWord 8 0x00000A0800501E03 = some (.mcube ⟨false, 0, true, false, 2, 0, 1, 0, 0, 40⟩) ∧
  decodeWord 8 0x0000010288501E07 = some (.mldf ⟨g, 40, 4, 5, 0, 1, false⟩) ∧
  decodeWord 8 0x0002930800081E0F = some (.mstz ⟨g, 4, 0, 0, 1, 0, 3, 1, 5, false⟩) ∧
  decodeWord 8 0x0002800002121E43 = some (.xcpy ⟨9, 4, 4, false, true⟩) ∧
  decodeWord 8 0x0000007907941E57 = some (.spill ⟨10, 15, 0, false, false⟩ 32 15) ∧
  decodeWord 4 0x00000101 = none ∧ decodeWord 8 0x0000000400001E0B = none

/-- R13, R256, R8, R271: a step with nothing on the agenda, for a group in focus that its partition has chosen and that has no
trap, replay, resolution of a window that is due (R67, R68) or rejoin before it: the bytes at its PC decode to an instruction,
and the step is `exec` of it, after time has passed and the scheduler has done what is due, which leaves its registers and the
memory as they are. Bytes that decode to none are illegal. An event at the head of the agenda that may happen is the step. The
agenda, what surrounds the device, and that a run in which an engine's element was foretold in vain ends, are the model's own
(log entries 5, 45 and 44). -/
def Obligations.StepRunsDecoded : Prop :=
  ∀ (s : State), s.halted = false → s.broken = false →
    (s.env.headD [] = [] →
      let v := scheduled (tick s)
      let u := chosen v
      u.ctx = { s.ctx with pend := u.ctx.pend } ∧ (s.ctx.pend = [] → u.ctx.pend = []) ∧ u.mem = s.mem ∧
      ∀ (i : Instr) (n : Nat) (bs : List Byte), s.agenda = [] → mayIssue v = true → s.g.trapReq = none →
        s.g.replay = [] → (∀ w, s.g.window = some w → w.left ≠ 0) → (s.ctx.prefixes ≠ [] ∨ ∀ e ∈ s.ctx.stack.head?, e.rejoin ≠ s.ctx.pc) →
        fetchBytes u s.ctx.pc n = .ok bs →
        (decodeBytes bs = .ok (i, n) → step s = exec i u) ∧
        (decodeBytes bs = .error (.illegal n) → step s = illegal u n (leNat bs))) ∧
    (∀ (e : Instr) (rest : List AgItem), s.agenda = ⟨none, some e⟩ :: rest → isEvent e = true →
      mayHappen { tick s with agenda := rest } e = true → step s = exec e { tick s with agenda := rest })

/-- R302, R312, R108: the register forms of scalar arithmetic, logic, shifts, multiplication, minimum and maximum:
nothing but sD, the PC and the counters change. -/
def Obligations.ScalarArithmetic : Prop :=
  (∀ (s : State) (w : BitVec 3) (d a b : BitVec 6), Quiet s → s.ctx.prefixes = [] →
    let x := s.ctx.readS a.toNat
    let y := s.ctx.readS b.toNat
    Completes s (exec (.sadd w d a b) s) (scalarResult s w 2 d (x + y)) ∧
    Completes s (exec (.ssub w d a b) s) (scalarResult s w 2 d (x - y)) ∧
    Completes s (exec (.sand w d a b) s) (scalarResult s w 2 d (x &&& y)) ∧
    Completes s (exec (.sor w d a b) s) (scalarResult s w 2 d (x ||| y)) ∧
    Completes s (exec (.sxor w d a b) s) (scalarResult s w 2 d (x ^^^ y)) ∧
    Completes s (exec (.sshl w d a b) s) (scalarResult s w 2 d (x <<< y.toNat)) ∧
    Completes s (exec (.sshr w d a b) s) (scalarResult s w 2 d (x >>> y.toNat)) ∧
    Completes s (exec (.ssra w d a b) s) (scalarResult s w 2 d (x.sshiftRight y.toNat))) ∧
  (∀ (s : State) (w : BitVec 3) (d a b : BitVec 6), Quiet s → s.ctx.prefixes = [] →
    let x := s.ctx.readS a.toNat
    let y := s.ctx.readS b.toNat
    Completes s (exec (.smul w d a b) s) (scalarResult s w 4 d (x * y)) ∧
    Completes s (exec (.smulhs w d a b) s)
      (scalarResult s w 4 d ((x.signExtend 128 * y.signExtend 128).extractLsb' 64 64)) ∧
    Completes s (exec (.smulhu w d a b) s)
      (scalarResult s w 4 d ((x.zeroExtend 128 * y.zeroExtend 128).extractLsb' 64 64)) ∧
    Completes s (exec (.smins w d a b) s) (scalarResult s w 2 d (if x.sle y then x else y)) ∧
    Completes s (exec (.smaxs w d a b) s) (scalarResult s w 2 d (if x.sle y then y else x)) ∧
    Completes s (exec (.sminu w d a b) s) (scalarResult s w 2 d (if x ≤ y then x else y)) ∧
    Completes s (exec (.smaxu w d a b) s) (scalarResult s w 2 d (if x ≤ y then y else x)))

/-- R107: division and remainder, by its cases. The result stands in sD, and until its event in the divider's queue of
the partition; STATUS does not change. That the result stands in sD at once, its event behind it in that queue, is the model's
form of a scoreboarded result (log entries 40 and 41). -/
def Obligations.ScalarDivision : Prop :=
  (∀ (s : State) (w : BitVec 3) (d a b : BitVec 6), Quiet s → s.ctx.prefixes = [] →
    let x := s.ctx.readS a.toNat
    let y := s.ctx.readS b.toNat
    let done := fun (o : Host.Outcome State Fault Refusal) (v : SWord) =>
      ∃ t, o = .next t ∧ t.ctx = scalarResult s w 0 d v ∧ OnlyCtxAndPart s t ∧ t.ctx.status = s.ctx.status ∧
        (getPart t (myPart t)).divQueue = [(s.g.uid, s.g.slot, d.toNat)]
    done (exec (.sdivs w d a b) s) (quotient true x y).1 ∧ done (exec (.sdivu w d a b) s) (quotient false x y).1 ∧
      done (exec (.srems w d a b) s) (quotient true x y).2 ∧ done (exec (.sremu w d a b) s) (quotient false x y).2) ∧
  ∀ (x y : SWord),
    (y = 0 → quotient true x y = (0xFFFFFFFFFFFFFFFF, x) ∧ quotient false x y = (0xFFFFFFFFFFFFFFFF, x)) ∧
    (x = 0x8000000000000000 → y = 0xFFFFFFFFFFFFFFFF → quotient true x y = (0x8000000000000000, 0)) ∧
    (y ≠ 0 → ¬(x = 0x8000000000000000 ∧ y = 0xFFFFFFFFFFFFFFFF) →
      (quotient true x y).1.toInt = x.toInt.tdiv y.toInt ∧
      (quotient true x y).2.toInt = x.toInt - x.toInt.tdiv y.toInt * y.toInt) ∧
    (y ≠ 0 → (quotient false x y).1.toNat = x.toNat / y.toNat ∧
      (quotient false x y).2.toNat = x.toNat - x.toNat / y.toNat * y.toNat)

/-- R304: the bit counts, said by the bits themselves: SCLZ gives the number n of leading zeros, SCTZ of trailing zeros, SPOPC
of ones, with a latency of 2; their codes, and that a word with sb not zero is none of them. R313: SSEL writes s[sA] where c[cN]
is 1 and s[sB] otherwise; with c7 it selects s[sA]. -/
def Obligations.BitCountsAndSelect : Prop :=
  (∀ (s : State) (w : BitVec 3) (d a : BitVec 6), Quiet s → s.ctx.prefixes = [] →
    let x := s.ctx.readS a.toNat
    (∃ n ≤ 64, Completes s (exec (.sclz w d a) s) (scalarResult s w 2 d (BitVec.ofNat 64 n)) ∧
      (∀ k < n, x.getMsbD k = false) ∧ (n < 64 → x.getMsbD n = true)) ∧
    (∃ n ≤ 64, Completes s (exec (.sctz w d a) s) (scalarResult s w 2 d (BitVec.ofNat 64 n)) ∧
      (∀ k < n, x.getLsbD k = false) ∧ (n < 64 → x.getLsbD n = true)) ∧
    Completes s (exec (.spopc w d a) s)
      (scalarResult s w 2 d (BitVec.ofNat 64 (((List.range 64).filter fun k => x.getLsbD k).length)))) ∧
  (∀ (w : BitVec 3) (d a sb : BitVec 6), sb ≠ 0 →
    let coded := fun (i : Instr) (sub : Nat) => encode i % 256 = 0x11 ∧ encode i / 2 ^ 26 % 8 = sub ∧
      decodeWord 4 (encode i) = some i ∧ decodeWord 4 (encode i + sb.toNat * 2 ^ 20) = none
    coded (.sclz w d a) 4 ∧ coded (.sctz w d a) 5 ∧ coded (.spopc w d a) 6) ∧
  (∀ (s : State) (w c : BitVec 3) (d a b : BitVec 6), Quiet s → s.ctx.prefixes = [] →
    Completes s (exec (.ssel w c d a b) s) (scalarResult s w 2 d
      (if s.ctx.readC c.toNat then s.ctx.readS a.toNat else s.ctx.readS b.toNat)) ∧ s.ctx.readC 7 = true)

/-- R302, R311: the immediate forms, with up to two prefixes (R257). R305: SCMP and SCMPI write their condition
register; c7 discards the write. -/
def Obligations.ImmediatesAndCompares : Prop :=
  (∀ (s : State) (d a : BitVec 6) (imm : BitVec 12) (imm18 : BitVec 18), Quiet s → s.ctx.prefixes.length ≤ 2 →
    let x := s.ctx.readS a.toNat
    let y := widened 64 12 s.ctx.prefixes imm
    let r := fun v => stepped 4 [] s.ctx (s.ctx.writeS d.toNat v)
    Completes s (exec (.saddi d a imm) s) (r (x + y)) ∧ Completes s (exec (.sandi d a imm) s) (r (x &&& y)) ∧
      Completes s (exec (.sori d a imm) s) (r (x ||| y)) ∧ Completes s (exec (.sxori d a imm) s) (r (x ^^^ y)) ∧
      Completes s (exec (.sshli d a imm) s) (r (x <<< y.toNat)) ∧
      Completes s (exec (.sshri d a imm) s) (r (x >>> y.toNat)) ∧
      Completes s (exec (.ssrai d a imm) s) (r (x.sshiftRight y.toNat)) ∧
      Completes s (exec (.sli d imm18) s) (r (widened 64 18 s.ctx.prefixes imm18))) ∧
  (∀ (s : State) (c : BitVec 3) (k : BitVec 4) (a b : BitVec 6) (imm : BitVec 11), Quiet s →
    (s.ctx.prefixes = [] → Completes s (exec (.scmp c k a b) s)
      (stepped 4 [] s.ctx (s.ctx.writeC c.toNat (related k.toNat (s.ctx.readS a.toNat) (s.ctx.readS b.toNat))))) ∧
    (s.ctx.prefixes.length ≤ 2 → Completes s (exec (.scmpi c k a imm) s)
      (stepped 4 [] s.ctx (s.ctx.writeC c.toNat
        (related k.toNat (s.ctx.readS a.toNat) (widened 64 11 s.ctx.prefixes imm))))))

/-- R272, R38: address arithmetic modulo 2^72. R298, R257: NOP changes nothing but the PC and the counters; IMX adds its
bits to the prefixes, of which two may stand before an instruction. -/
def Obligations.AddressesAndPrefixes : Prop :=
  (∀ (s : State) (d a e : BitVec 4) (x : BitVec 6) (imm : BitVec 16), Quiet s →
    (s.ctx.prefixes.length ≤ 2 → Completes s (exec (.aaddi d a imm) s)
      (stepped 4 [] s.ctx (s.ctx.writeA d.toNat (s.ctx.readA a.toNat + widened 72 16 s.ctx.prefixes imm)))) ∧
    (s.ctx.prefixes = [] →
      Completes s (exec (.aadd d a x) s)
        (stepped 4 [] s.ctx (s.ctx.writeA d.toNat (s.ctx.readA a.toNat + (s.ctx.readS x.toNat).signExtend 72))) ∧
      Completes s (exec (.amov d x) s) (stepped 4 [] s.ctx (s.ctx.writeA d.toNat ((s.ctx.readS x.toNat).signExtend 72))) ∧
      Completes s (exec (.aget x a) s) (stepped 4 [] s.ctx (s.ctx.writeS x.toNat ((s.ctx.readA a.toNat).truncate 64))) ∧
      Completes s (exec (.asub x a e) s)
        (stepped 4 [] s.ctx (s.ctx.writeS x.toNat ((s.ctx.readA a.toNat - s.ctx.readA e.toNat).truncate 64))))) ∧
  (∀ (s : State) (imm : BitVec 24), Quiet s →
    (s.ctx.prefixes = [] → Completes s (exec .nop s) (stepped 4 [] s.ctx s.ctx)) ∧
    (s.ctx.prefixes.length < 2 → Completes s (exec (.imx imm) s)
      { s.ctx with pc := s.ctx.pc + 4, prefixes := s.ctx.prefixes ++ [imm] }))

/-- R36: s0 reads zero, p7 all ones and c7 one, whatever is written; any other register reads what was written to it. -/
def Obligations.HardwiredRegisters : Prop :=
  ∀ (c : Ctx) (n k : Nat) (x : SWord) (m y : Mask) (z : Bool),
    (c.writeS n x).readS 0 = 0 ∧ (c.writeP n m y).readP 7 = BitVec.allOnes 32 ∧ (c.writeC n z).readC 7 = true ∧
    c.writeS 0 x = c ∧ c.writeP 7 m y = c ∧ c.writeC 7 z = c ∧
    (n ≠ 0 → (c.writeS n x).readS n = x) ∧ (k ≠ n → (c.writeS n x).readS k = c.readS k) ∧
    (n ≠ 7 → (c.writeP n m y).readP n = (c.readP n &&& ~~~m) ||| (y &&& m)) ∧
    (k ≠ n → (c.writeP n m y).readP k = c.readP k) ∧
    (n ≠ 7 → (c.writeC n z).readC n = z) ∧ (k ≠ n → (c.writeC n z).readC k = c.readC k)

/-- R279, R282: the branches, calls and indirect jumps, to an even target. R63: the uniform branches go to their target
where any, none or all of the active lanes vote, else on. -/
def Obligations.Branches : Prop :=
  (∀ (s : State) (off : BitVec 20) (c : BitVec 3) (neg : Bool) (n : BitVec 4), Quiet s →
    let target := s.ctx.pc + (widened 72 20 s.ctx.prefixes off <<< 1)
    let go := fun (c : Ctx) (t : Addr) => { c with pc := t, prefixes := [] }
    (s.ctx.prefixes.length ≤ 2 →
      Completes s (exec (.br off) s) (go s.ctx target) ∧
      Completes s (exec (.brc c neg off) s) (go s.ctx (if s.ctx.readC c.toNat != neg then target else s.ctx.pc + 4)) ∧
      Completes s (exec (.call off) s) (go (s.ctx.writeA 14 (s.ctx.pc + 4)) target)) ∧
    (s.ctx.prefixes = [] → (s.ctx.readA n.toNat).getLsbD 0 = false →
      Completes s (exec (.ret n) s) (go s.ctx (s.ctx.readA n.toNat)) ∧
      Completes s (exec (.jmpa n) s) (go s.ctx (s.ctx.readA n.toNat)) ∧
      Completes s (exec (.calla n) s) (go (s.ctx.writeA 14 (s.ctx.pc + 4)) (s.ctx.readA n.toNat)))) ∧
  (∀ (s : State) (p : BitVec 3) (neg : Bool) (off : BitVec 20), Quiet s → s.ctx.prefixes.length ≤ 2 →
    let target := s.ctx.pc + (widened 72 20 s.ctx.prefixes off <<< 1)
    let go := fun b : Bool => { s.ctx with pc := if b then target else s.ctx.pc + 4, prefixes := [] }
    Completes s (exec (.brva p neg off) s) (go ((List.range 32).any fun l => voting s.ctx p neg l)) ∧
    Completes s (exec (.brvn p neg off) s) (go (!(List.range 32).any fun l => voting s.ctx p neg l)) ∧
    Completes s (exec (.brvl p neg off) s)
      (go ((List.range 32).all fun l => !laneOn s.ctx.exec l || voting s.ctx p neg l)))

/-- R14, R314, R46, R50: a vector ALU instruction, in its LV or its C16 form. The lanes that take part get what the
instruction computes, a marked source is released, SATF is sticky; the result of a special function stands in the queue of the
partition (R331), of which nothing else changes. -/
def Obligations.VectorLanes : Prop :=
  ∀ (s : State) (i : Instr) (op : LaneOp) (f : LvF), laneInstr i = some (op, f) → Quiet s → s.ctx.prefixes = [] →
    LaneRegsFit s op f →
    ∃ t, exec i s = .next t ∧ OnlyCtxAndPart s t ∧
      t.ctx = { s.ctx with
        pc := s.ctx.pc + BitVec.ofNat 72 (byteLen i)
        v := t.ctx.v
        p := t.ctx.p
        released := t.ctx.released
        pend := t.ctx.pend
        status := setSatf s.ctx.status ((List.range 32).any fun l => takesPart s.ctx f.g l && (laneResult op f s l).sat) } ∧
      (∀ r l, l < 32 → t.ctx.lane r l =
        if writesVec op = true ∧ r = f.vd.toNat then
          (if takesPart s.ctx f.g l = true then (laneResult op f s l).val else s.ctx.lane r l)
        else if r ∈ lvMarks op f then 0 else s.ctx.lane r l) ∧
      (∀ p l, l < 32 → laneOn (t.ctx.readP p) l =
        if predDst op f = some p ∧ p ≠ 7 ∧ takesPart s.ctx f.g l = true then (laneResult op f s l).pred
        else laneOn (s.ctx.readP p) l) ∧
      (∀ k, k ≠ myPart s → getPart t k = getPart s k) ∧
      getPart t (myPart s) = { getPart s (myPart s) with
        sfQueue := match op with
          | .special _ => [(s.g.uid, s.g.slot, f.vd.toNat)]
          | _ => [] }

/-- R317, R318, R320, R348, R352, R353, R347, R349 and, below, R316, R319, R321 to R323, R326, R109, R346, R351: what a lane of
the integer instructions computes. R327, R332, R333, R336, R329: what a lane of the floating-point ones computes, by the exact
sum, product and comparison of R102 and the rounding of R101, which gives a value that FP32 holds back as it stands. R328: the
class that VFCLS gives each pattern. R104, R105, R330: the exact and the special results of the special functions, and VFSQRT
correctly rounded; none but VFSQRT depends on FMT.RM. R334: VFRND rounds to an integer. R103, R324: VCVT by the kinds of its
formats; whether F8B to FP16 flushes is left open (log entry 42). Of R324, R325, R332, R334, R336 and R351 the values that their
examples work out too. -/
def Obligations.LaneValues : Prop :=
  (∀ (ext : BitVec 8) (fmt : BitVec 32) (a b c : Lane) (p : Bool),
    let v := fun (op : LaneOp) => laneEval op ext fmt a b c p
    let pick := fun (x y : Int) => if ext.toNat % 4 = 1 then clamped (-(2 ^ 31)) (2 ^ 31 - 1) x else clamped 0 (2 ^ 32 - 1) y
    let mn : Lane := 0x80000000
    let pos := b.toNat % 256
    let len := min (b.toNat / 256 % 256) 32
    let k := ext.toNat % 16
    (ext.toNat % 4 = 0 → v .add = word (a + b) ∧ v .sub = word (a - b)) ∧
    (ext.toNat % 4 = 1 ∨ ext.toNat % 4 = 2 → v .add = pick (a.toInt + b.toInt) (a.toNat + b.toNat) ∧
      v .sub = pick (a.toInt - b.toInt) (a.toNat - b.toNat)) ∧
    v .mul = word (a * b) ∧ v .mad = word (a * b + c) ∧
    v .mulh = word (((if ext.toNat % 2 = 0 then a.signExtend 64 else a.zeroExtend 64) *
      (if ext.toNat % 4 = 0 ∨ ext.toNat % 4 = 3 then b.signExtend 64 else b.zeroExtend 64)).extractLsb' 32 32) ∧
    v .addc =
      ⟨a + b + (if p then 1 else 0), decide (2 ^ 32 ≤ a.toNat + b.toNat + (if p then 1 else 0)), false⟩ ∧
    v .and = word (a &&& b) ∧ v .or = word (a ||| b) ∧ v .xor = word (a ^^^ b) ∧ v .not = word (~~~a) ∧
    v .shl = word (a <<< b.toNat) ∧ v .shr = word (a >>> b.toNat) ∧ v .sra = word (a.sshiftRight b.toNat) ∧
    v .sel = word (if p then a else b) ∧ v .mov = word b ∧ v .li = word b ∧
    (ext.getLsbD 0 = false → v .min = word (if a.sle b then a else b) ∧ v .max = word (if a.sle b then b else a) ∧
      v .abs = word (if a.slt 0 then -a else a) ∧ v .neg = word (-a)) ∧
    (ext.getLsbD 0 = true → v .min = word (if a ≤ b then a else b) ∧ v .max = word (if a ≤ b then b else a) ∧
      (a = mn → v .abs = ⟨0x7FFFFFFF, false, true⟩ ∧ v .neg = ⟨0x7FFFFFFF, false, true⟩) ∧
      (a ≠ mn → v .abs = word (if a.slt 0 then -a else a) ∧ v .neg = word (-a))) ∧
    (∃ n ≤ 32, v .clz = word (BitVec.ofNat 32 n) ∧ (∀ i < n, a.getMsbD i = false) ∧ (n < 32 → a.getMsbD n = true)) ∧
    v .popc = word (BitVec.ofNat 32 (((List.range 32).filter fun i => a.getLsbD i).length)) ∧
    (∀ i < 32, (v .bfe).val.getLsbD i =
      if ext.getLsbD 0 then decide (0 < len) && (a.sshiftRight pos).getLsbD (min i (len - 1))
      else decide (i < len) && a.getLsbD (i + pos)) ∧
    (∀ i < 32, (v .bfi).val.getLsbD i = if pos ≤ i ∧ i < pos + len then a.getLsbD (i - pos) else c.getLsbD i) ∧
    (k ≤ 9 → v .cmp = ⟨0, if k ≤ 5 then related k (a.signExtend 64) (b.signExtend 64)
      else related k (a.zeroExtend 64) (b.zeroExtend 64), false⟩) ∧
    (let w := if ext.getLsbD 0 then 16 else 8
     ∀ i < 32 / w,
      let x := elemAt w a i
      let y := elemAt w b i
      let e := fun (op : LaneOp) => elemAt w (v op).val i
      let le := if ext.getLsbD 1 then x.sle y else decide (x ≤ y)
      e .addp = x + y ∧ e .subp = x - y ∧ e .shlp = x <<< y.toNat ∧ e .shrp = x >>> y.toNat ∧
      e .srap = x.sshiftRight y.toNat ∧ e .minp = (if le then x else y) ∧ e .maxp = (if le then y else x)) ∧
    (let el := fun (w : Nat) (sg : Bool) (x : Lane) i => if sg then (elemAt w x i).toInt else ((elemAt w x i).toNat : Int)
     let sum := fun n w => c.toInt +
      ((List.range n).map fun i => el w (ext.getLsbD 0) a i * el w (ext.getLsbD 1) b i).sum
     let out := fun x => if ext.getLsbD 2 then clamped (-(2 ^ 31)) (2 ^ 31 - 1) x else word (BitVec.ofInt 32 x)
     v .dot8 = out (sum 4 8) ∧ v .dot4 = out (sum 8 4)) ∧
    (let q := fun (x : Lane) => narrowed 16 (ext.toNat % 8 == 1) x.toInt
     let h := fun (x : Lane) i => narrowed 8 (ext.toNat % 8 == 4) (elemAt 16 x i).toInt
     (ext.toNat % 8 = 1 ∨ ext.toNat % 8 = 2 → v .pack = ⟨(q b).1 ++ (q a).1, false, (q a).2 || (q b).2⟩) ∧
     (ext.toNat % 8 = 4 ∨ ext.toNat % 8 = 5 → v .pack = ⟨(h b 1).1 ++ (h b 0).1 ++ (h a 1).1 ++ (h a 0).1, false,
      (h a 0).2 || (h a 1).2 || (h b 0).2 || (h b 1).2⟩)) ∧
    (let hi := if ext.getLsbD 3 then 1 else 0
     (ext.toNat % 8 = 1 → v .unpk = word ((elemAt 16 a hi).signExtend 32)) ∧
     (ext.toNat % 8 = 2 → v .unpk = word ((elemAt 16 a hi).zeroExtend 32)) ∧
     (ext.toNat % 8 = 4 → v .unpk =
      word ((elemAt 8 a (2 * hi + 1)).signExtend 16 ++ (elemAt 8 a (2 * hi)).signExtend 16)) ∧
     (ext.toNat % 8 = 5 → v .unpk =
      word ((elemAt 8 a (2 * hi + 1)).zeroExtend 16 ++ (elemAt 8 a (2 * hi)).zeroExtend 16)))) ∧
  (∀ (ext : BitVec 8) (fmt : BitVec 32) (a b c : Lane),
    let v := fun (op : LaneOp) => laneEval op ext fmt a b c false
    let rm := fmtRm fmt
    let f := fun (x : Lane) => decodeF fp32 (fmtFtz fmt) x.toNat
    let out := fun (x : FVal) => word (BitVec.ofNat 32 (roundF fp32 rm (fmtFtz fmt) false x))
    let h := fmtHalf fmt
    let g := fun (x : Lane) i => decodeF h (fmtFtz fmt) (elemAt 16 x i).toNat
    let half := fun (op : LaneOp) (x : Nat → FVal) =>
      ∀ i < 2, elemAt 16 (v op).val i = BitVec.ofNat 16 (roundF h rm (fmtFtz fmt) (fmtSat fmt) (x i))
    v .fadd = out (addF rm (f a) (f b)) ∧ v .fsub = out (addF rm (f a) (negF (f b))) ∧ v .fmul = out (mulF (f a) (f b)) ∧
    v .fma = out (addF rm (mulF (f a) (f b)) (f c)) ∧ v .fmin = out (minMaxF true (f a) (f b)) ∧
    v .fmax = out (minMaxF false (f a) (f b)) ∧ v .fcmp = ⟨0, fcondHolds (ext.toNat % 16) (f a) (f b), false⟩ ∧
    (half .hadd fun i => addF rm (g a i) (g b i)) ∧ (half .hmul fun i => mulF (g a i) (g b i)) ∧
    half .hfma fun i => addF rm (mulF (g a i) (g b i)) (g c i)) ∧
  (∀ (ext : BitVec 8) (fmt : BitVec 32) (a b c : Lane) (p : Bool),
    let v := fun (op : LaneOp) => laneEval op ext fmt a b c p
    let sp := fun (op : SpecialOp) => (v (.special op)).val
    let x := decodeF fp32 (fmtFtz fmt) a.toNat
    let ex := a.toNat / 2 ^ 23 % 2 ^ 8
    let fr := a.toNat % 2 ^ 23
    let sg := a.msb
    v .fcls = word (if ex = 255 then (if fr ≠ 0 then 0x100 else if sg then 0x001 else 0x080)
      else if ex = 0 ∧ (fr = 0 ∨ fmtFtz fmt = true) then (if sg then 0x008 else 0x010)
      else if ex = 0 then (if sg then 0x004 else 0x020) else if sg then 0x002 else 0x040) ∧
    (∀ op, v (.special op) = word (sp op)) ∧
    (∀ op fmt', op ≠ .sqrt → fmtFtz fmt' = fmtFtz fmt → laneEval (.special op) ext fmt' a b c p = v (.special op)) ∧
    (x = .nan → ∀ op, sp op = 0x7FC00000) ∧
    (x.scaled 0 = some 0 → sp .rcp = (if sg then 0xFF800000 else 0x7F800000) ∧
      sp .rsq = (if sg then 0xFF800000 else 0x7F800000) ∧ sp .sqrt = (if sg then 0x80000000 else 0) ∧
      sp .exp2 = 0x3F800000 ∧ sp .log2 = 0xFF800000) ∧
    (x = .inf false → sp .rcp = 0 ∧ sp .rsq = 0 ∧ sp .sqrt = 0x7F800000 ∧ sp .exp2 = 0x7F800000 ∧ sp .log2 = 0x7F800000 ∧
      sp .sin = 0x7FC00000 ∧ sp .cos = 0x7FC00000) ∧
    (x = .inf true → sp .rcp = 0x80000000 ∧ sp .rsq = 0x7FC00000 ∧ sp .sqrt = 0x7FC00000 ∧ sp .exp2 = 0 ∧
      sp .log2 = 0x7FC00000 ∧ sp .sin = 0x7FC00000 ∧ sp .cos = 0x7FC00000) ∧
    (∀ m e, x = .fin true m e → m ≠ 0 → sp .rsq = 0x7FC00000 ∧ sp .sqrt = 0x7FC00000 ∧ sp .log2 = 0x7FC00000) ∧
    (a = 0x3F800000 → sp .rcp = 0x3F800000 ∧ sp .rsq = 0x3F800000) ∧
    (∀ k : Int, x.scaled (-149) = some (k * 2 ^ 149) → (-126 ≤ k → k ≤ 127 → sp .exp2 = BitVec.ofInt 32 ((k + 127) * 2 ^ 23)) ∧
      (128 ≤ k → sp .exp2 = 0x7F800000) ∧ sp .sin = (if sg then 0x80000000 else 0) ∧
      sp .cos = if k % 2 = 0 then 0x3F800000 else 0xBF800000) ∧
    (∀ k : Int, x.scaled (-149) = some (k * 2 ^ 148) → k % 2 = 1 → sp .sin = (if k % 4 = 1 then 0x3F800000 else 0xBF800000) ∧ sp .cos = 0) ∧
    (∀ i : Int, x.scaled (-149) = some (2 ^ (i + 149).toNat) → -149 ≤ i →
      sp .log2 = BitVec.ofNat 32 (roundF fp32 .rne false false (.fin (decide (i < 0)) i.natAbs 0))) ∧
    (∀ m e, x = .fin false m e → m ≠ 0 → ∃ (n : Nat) (q : Int), decodeF fp32 false (sp .sqrt).toNat = .fin false n q ∧
      2 ^ 23 ≤ n ∧ n < 2 ^ 24 ∧
      let square := m * 2 ^ (e + 400).toNat
      let half := fun k => k ^ 2 * 2 ^ (2 * q + 398).toNat
      match fmtRm fmt with
      | .rne => half (2 * n - 1) ≤ square ∧ square ≤ half (2 * n + 1)
      | .rup => half (2 * n - 2) < square ∧ square ≤ half (2 * n)
      | _ => half (2 * n) ≤ square ∧ square < half (2 * n + 2)) ∧
    (let m := if ext.getLsbD 2 then RMode.ofCode (ext.toNat % 4) else fmtRm fmt
     (x = .nan → v .frnd = word 0x7FC00000) ∧ (∀ sg, x = .inf sg → v .frnd = word a) ∧
     ∀ (k : Nat) (u : Int), x.scaled (-(k : Int)) = some u → ∃ n : Int, RoundsTo m u k n ∧ v .frnd = word (v .frnd).val ∧
       (n = 0 → v .frnd = word (if sg then 0x80000000 else 0)) ∧
       (n ≠ 0 → (decodeF fp32 false (v .frnd).val.toNat).scaled (-149) = some (n * 2 ^ 149)))) ∧
  (∀ (ext : BitVec 8) (fmt : BitVec 32) (a b c : Lane) (p : Bool), ext.toNat % 16 < 11 → ext.toNat / 16 < 11 →
    let r := laneEval .cvt ext fmt a b c p
    let src := ext.toNat % 16
    let dst := ext.toNat / 16
    let width := fun (k : Nat) => [32, 16, 16, 8, 8, 32, 32, 16, 16, 8, 8].getD k 0
    let signed := fun (k : Nat) => k = 5 ∨ k = 7 ∨ k = 9
    let float := fun (k : Nat) => [fp32, fp16, bf16, f8a, f8b].getD k fp32
    let bits : Nat := a.toNat % 2 ^ width src
    let i : Int := if signed src ∧ 2 ^ (width src - 1) ≤ bits then (bits : Int) - 2 ^ width src else bits
    let x := decodeF (float src) (fmtFtz fmt) bits
    let fits := fun (flush : Bool) (y : FVal) =>
      r = word (BitVec.ofNat 32 (roundF (float dst) (fmtRm fmt) flush (fmtSat fmt) y))
    let into := if signed dst then clamped (-(2 ^ (width dst - 1))) (2 ^ (width dst - 1) - 1) else clamped 0 (2 ^ width dst - 1)
    (src < 5 → dst < 5 → ¬ (src = 4 ∧ dst = 1) → fits (fmtFtz fmt) x) ∧
    (src = 4 → dst = 1 → fits (fmtFtz fmt) x ∨ fits false x) ∧
    (5 ≤ src → dst < 5 → fits (fmtFtz fmt) (.fin (decide (i < 0)) i.natAbs 0)) ∧
    (5 ≤ src → 5 ≤ dst → r = into i) ∧
    (src < 5 → 5 ≤ dst → (x = .nan → r = ⟨0, false, true⟩) ∧ (x = .inf false → r = into (2 ^ width dst)) ∧
      (x = .inf true → r = into (-(2 ^ width dst))) ∧
      ∀ (k : Nat) (u : Int), x.scaled (-(k : Int)) = some u → ∃ n : Int, RoundsTo (fmtRm fmt) u k n ∧ r = into n)) ∧
  (∀ (rm : RMode) (x y : FVal) (e : Int) (u w : Int), x.scaled e = some u → y.scaled e = some w →
    (addF rm x y).scaled e = some (u + w) ∧ (mulF x y).scaled (e + e) = some (u * w) ∧
    fcondHolds 0 x y = decide (u = w) ∧ fcondHolds 1 x y = decide (u ≠ w) ∧ fcondHolds 2 x y = decide (u < w) ∧
    fcondHolds 3 x y = decide (u ≤ w) ∧ fcondHolds 4 x y = decide (w < u) ∧ fcondHolds 5 x y = decide (w ≤ u) ∧
    fcondHolds 6 x y = false ∧ fcondHolds 7 x y = true ∧
    (u < w → minMaxF true x y = x ∧ minMaxF false x y = y) ∧ (w < u → minMaxF true x y = y ∧ minMaxF false x y = x)) ∧
  (∀ (rm : RMode) (x : FVal) (sg s' : Bool) (e : Int), addF rm .nan x = .nan ∧ addF rm x .nan = .nan ∧ mulF .nan x = .nan ∧
    mulF x .nan = .nan ∧ addF rm (.inf sg) (.inf (!sg)) = .nan ∧ addF rm (.inf sg) (.inf sg) = .inf sg ∧
    mulF (.fin sg 0 e) (.inf s') = .nan ∧ mulF (.inf s') (.fin sg 0 e) = .nan ∧ mulF (.inf sg) (.inf s') = .inf (sg != s') ∧
    (minMaxF true (.fin sg 0 e) (.fin (!sg) 0 e)).isNeg = true ∧ (minMaxF false (.fin sg 0 e) (.fin (!sg) 0 e)).isNeg = false ∧
    minMaxF sg .nan x = x ∧ minMaxF sg x .nan = x ∧ (∀ k ∈ [1, 6], fcondHolds k .nan x = true ∧ fcondHolds k x .nan = true) ∧
    ∀ k ∈ [0, 2, 3, 4, 5, 7], fcondHolds k .nan x = false ∧ fcondHolds k x .nan = false) ∧
  (∀ (rm : RMode) (b : Lane), roundF fp32 rm false false .nan = 0x7FC00000 ∧
    (decodeF fp32 false b.toNat ≠ .nan → roundF fp32 rm false false (decodeF fp32 false b.toNat) = b.toNat)) ∧
  let v := fun (op : LaneOp) (ext : BitVec 8) (fmt : BitVec 32) (a b c : Lane) => (laneEval op ext fmt a b c false).val
  v .fma 0 0 0x3F800800 0x3F800800 0xBF801000 = 0x33800000 ∧ v .fmul 0 0 0x3F800800 0x3F800800 0 = 0x3F801000 ∧
  v .fadd 0 0 0x3F801000 0xBF801000 0 = 0 ∧
  v .cvt 0x90 0 0xC06CCCCD 0 0 = 0xFFFFFFFC ∧ v .cvt 0x90 1 0xC06CCCCD 0 0 = 0xFFFFFFFD ∧
  v .cvt 0xA0 0 0x43964000 0 0 = 0xFF ∧ v .cvt 0x50 0 0x7FC00000 0 0 = 0 ∧ v .cvt 0x18 0 0xFFFF 0 0 = 0x7C00 ∧
  v .cvt 0x18 0x200 0xFFFF 0 0 = 0x7BFF ∧ v .cvt 0x25 0 0x01000001 0 0 = 0x4B80 ∧ v .cvt 0x25 3 0x01000001 0 0 = 0x4B81 ∧
  v .cvt 0xA9 0 0xFFFFFF80 0 0 = 0 ∧ v .cvt 0x14 0 0x7F 0 0 = 0x7B00 ∧
  v .frnd 4 0 0x40200000 0 0 = 0x40000000 ∧ v .frnd 7 0 0x40200000 0 0 = 0x40400000 ∧
  v .frnd 4 0 0xBF000000 0 0 = 0x80000000 ∧ v .frnd 6 0 0xBF000000 0 0 = 0xBF800000 ∧ v .frnd 0 2 0xC0200000 0 0 = 0xC0400000 ∧
  v .hfma 0 0 0x3C017BFF 0x3C014000 0xBC000000 = 0x18007C00 ∧ v .hfma 0 0x200 0x3C017BFF 0x3C014000 0xBC000000 = 0x18007BFF ∧
  v .hfma 0 1 0x3C017BFF 0x3C014000 0xBC000000 = 0x18007BFF ∧ v .hfma 0 3 0x3C017BFF 0x3C014000 0xBC000000 = 0x18017C00 ∧
  v .pack 0 0 0x3F800000 0x477FF000 0 = 0x7C003C00 ∧ v .pack 0 0x200 0x3F800000 0x477FF000 0 = 0x7BFF3C00 ∧
  v .unpk 8 0 0x7BFF3C00 0 0 = 0x477FE000

/-- R58: the effect of an unpredicted BRV on its group, for the mask T of the active lanes that vote: nothing is pushed for an
empty T; else an entry is, and the fall-through lanes run first where there are any; a stack of 256 entries raises STACKOVF at
the BRV. The lanes that run are lanes that were active, and some are where some were. R54: the entries beyond the newest 16
stand in the group's area. -/
def Obligations.DivergentBranch : Prop :=
  ∀ (s : State) (p : BitVec 3) (neg : Bool) (taken : BitVec 24) (rejoin : BitVec 23) (t : Mask), Quiet s →
    s.ctx.prefixes.length ≤ 2 → (∀ l < 32, laneOn t l = voting s.ctx p neg l) →
    let tk := s.ctx.pc + (widened 72 24 s.ctx.prefixes taken <<< 1)
    let rj := s.ctx.pc + (rejoin.signExtend 72 <<< 1)
    let f := s.ctx.exec &&& ~~~t
    (t = 0 ∨ s.ctx.stack.length < 256 → StackPlaced s.ctx.stack →
      ∃ u, exec (.brv p neg taken rejoin) s = .next u ∧
        u = { s with g := { s.g with ctx := u.g.ctx, pmc := u.g.pmc, noPredict := false }, parts := u.parts } ∧
        (let c := { s.ctx with prefixes := [], stack := u.ctx.stack }
         u.ctx = if t = 0 then { c with pc := s.ctx.pc + 8 }
          else if f = 0 then { c with pc := tk }
          else { c with pc := s.ctx.pc + 8, exec := f }) ∧
        shown u.ctx.stack = (if t = 0 then [] else [⟨rj, tk, if f = 0 then 0 else t, s.ctx.exec, s.ctx.fmt, 0⟩]) ++
          shown s.ctx.stack ∧ StackPlaced u.ctx.stack ∧ (StackStands s s.ctx.stack → StackStands u u.ctx.stack) ∧
        u.ctx.exec &&& s.ctx.exec = u.ctx.exec ∧ (s.ctx.exec ≠ 0 → u.ctx.exec ≠ 0)) ∧
    (t ≠ 0 → 256 ≤ s.ctx.stack.length → exec (.brv p neg taken rejoin) s =
      .next (takeTrap (issued s) ⟨11, 0, 0, 0, none⟩ (8 + 4 * s.ctx.prefixes.length) none))

/-- R60: before the group in focus issues anything at its PC, the rejoin rule applies. At the rejoin PC of the top entry
it does not fetch: in a step of its own it switches to the pending lanes, or it pops; FMT comes from the entry both
times, and the rule applies again at the new PC. Anywhere else, and with an empty stack, it fetches. In a window the
resolution comes first (R67). That it comes as soon as the counts of R65 have the predicate landed is the model's reading
(log entry 6). R54: an entry beyond the newest 16 comes back from the group's area. -/
def Obligations.RejoinRule : Prop :=
  ∀ (s : State), s.g.trapReq = none → s.g.replay = [] → s.ctx.prefixes = [] →
    (∀ w, s.g.window = some w → w.left = 0 → beforeNext s = .resolve) ∧
    (s.ctx.stack = [] → (∀ w, s.g.window = some w → w.left ≠ 0) → beforeNext s = .fetch) ∧
    (∀ (e : StackEntry) (rest : List StackEntry), s.ctx.stack = e :: rest → StackPlaced s.ctx.stack →
      (s.ctx.pc ≠ e.rejoin → (∀ w, s.g.window = some w → w.left ≠ 0) → beforeNext s = .fetch) ∧
      (s.ctx.pc = e.rejoin → s.g.window ≠ none → beforeNext s = .resolve) ∧
      (s.ctx.pc = e.rejoin → s.g.window = none → e.pending ≠ 0 → beforeNext s = .switch ∧
        exec .reconvergenceSwitch s = .next (s.withCtx { s.ctx with
          exec := e.pending, fmt := e.fmt, pc := e.taken, stack := { e with pending := 0 } :: rest })) ∧
      (s.ctx.pc = e.rejoin → s.g.window = none → e.pending = 0 → beforeNext s = .pop ∧
        ∃ t, exec .reconvergencePop s = .next t ∧
          t = s.withCtx { s.ctx with exec := e.exec, fmt := e.fmt, stack := t.ctx.stack } ∧ StackPlaced t.ctx.stack ∧
          (StackStands s s.ctx.stack → shown t.ctx.stack = shown rest ∧ StackStands t t.ctx.stack))) ∧
    (s.agenda = [] → s.halted = false → s.broken = false → s.env.headD [] = [] → mayIssue (scheduled (tick s)) = true →
      (beforeNext s = .switch → step s = exec .reconvergenceSwitch (chosen (scheduled (tick s)))) ∧
      (beforeNext s = .pop → step s = exec .reconvergencePop (chosen (scheduled (tick s)))))

/-- R68: the resolution of a window in its four cases. D: no lane was taken to fall through and none does, and nothing of the
state changes. B, C: the path run was wrong; the group goes back to the state before its BRV and runs it under the true mask, with
no entry pushed where no lane is taken. A: the path run was right; the entry holds the lanes that are taken, or goes, and where
lanes fall through that were left out, the vector writes of the window go and its log stands to be replayed. One step of a replay
executes the oldest logged instruction again, for the lanes still to run, with the scalar of its first issue. That the whole
path's lanes are replayed, of which only those left out issue anew, is the model's form (log entry 33). -/
def Obligations.WindowResolution : Prop :=
  (∀ (s : State) (w : Window), s.g.window = some w → w.deferred = 0 → w.deferredS = false → w.fallow = [] →
    StackPlaced s.ctx.stack → StackPlaced w.snap.stack →
    let f := w.mask &&& ~~~w.truth
    (w.mask &&& ~~~w.guess = 0 → f = 0 →
      ∃ t, exec .brvResolution s = .next t ∧ t.g.window = none ∧ t.mem = s.mem ∧
        t.ctx = { s.ctx with pend := landPred w s.ctx.pend }) ∧
    (w.mask &&& ~~~w.guess ≠ 0 → f = 0 → w.truth ≠ 0 →
      ∃ t, exec .brvResolution s = .next t ∧ t.g.window = none ∧ t.mem = s.mem ∧ t.ctx = { w.snap with
        pend := landPred w (agePend (loosen w.snap.pend)), prefixes := [], exec := w.truth, pc := w.taken
        stack := t.ctx.stack } ∧
        shown t.ctx.stack = ⟨w.rejoin, w.taken, 0, w.mask, w.snap.fmt, 0⟩ :: shown w.snap.stack) ∧
    (w.mask &&& ~~~w.guess = 0 → f ≠ 0 → w.truth ≠ 0 →
      ∃ t, exec .brvResolution s = .next t ∧ t.g.window = none ∧ t.mem = s.mem ∧ t.ctx = { w.snap with
        pend := landPred w (agePend (loosen w.snap.pend)), prefixes := [], exec := f, pc := w.brv + 8
        stack := t.ctx.stack } ∧
        shown t.ctx.stack = ⟨w.rejoin, w.taken, w.truth, w.mask, w.snap.fmt, 0⟩ :: shown w.snap.stack) ∧
    (w.mask &&& ~~~w.guess = 0 → f ≠ 0 → w.truth = 0 →
      ∃ t, exec .brvResolution s = .next t ∧ t.g.window = none ∧ t.mem = s.mem ∧ t.ctx = { w.snap with
        pend := landPred w (agePend (loosen w.snap.pend)), prefixes := [], exec := f, pc := w.brv + 8 }) ∧
    (w.mask &&& ~~~w.guess ≠ 0 → f ≠ 0 →
      let fresh := f &&& ~~~(w.mask &&& ~~~w.guess)
      ∃ t, exec .brvResolution s = .next t ∧ t.g.window = none ∧ t.mem = s.mem ∧ t.ctx.exec = f ∧ t.ctx.pc = s.ctx.pc ∧
        t.ctx.s = s.ctx.s ∧ t.ctx.a = s.ctx.a ∧
        (w.truth ≠ 0 ∨ StackStands s s.ctx.stack → shown t.ctx.stack = (match shown s.ctx.stack with
          | [] => []
          | e :: rest => if w.truth = 0 then rest else { e with pending := w.truth } :: rest)) ∧
        (fresh ≠ 0 → w.log ≠ [] → t.g.replay = w.log ∧ t.g.replayMask = f ∧ t.g.replayNew = fresh ∧ t.ctx.v = w.snap.v ∧
          t.ctx.p = w.snap.p ∧ t.ctx.released = w.snap.released) ∧
        (fresh = 0 → t.g.replay = []))) ∧
  (∀ (s : State) (rec : WinRec) (rest : List WinRec) (op : LaneOp) (f : LvF), s.g.replay = rec :: rest →
    laneInstr rec.instr = some (op, f) → lvMarks op f = [] → s.g.upset = 0 → s.g.poisonV = [] → rec.olds = [] →
    ∃ t, exec .laneReplay s = .next t ∧ t.g.replay = rest ∧ t.mem = s.mem ∧ t.ctx.pc = s.ctx.pc ∧
      ∀ r l, l < 32 → t.ctx.lane r l =
        if writesVec op = true ∧ r = f.vd.toNat ∧ laneOn s.g.replayMask l = true ∧
          (laneOn (s.ctx.readP f.g.pg.toNat) l != f.g.pn) = true then
          (laneOf op f rec.fmt rec.scalar s.ctx l).val
        else s.ctx.lane r l)

/-- R337 to R342: the cross-lane instructions, by what they write: VLANE and VSHFL lanes, VRFL, VVOTE and VRED a scalar,
VSCAN lanes. Nothing but the destination, the release of a marked source, the PC and the counters changes. Below, the values
that these words, source lanes and folds have. -/
def Obligations.CrossLane : Prop :=
  (∀ (s : State) (f : LvF), Quiet s → s.ctx.prefixes = [] → f.a.lr = false → (∀ r, bVector f = some r → r.lr = false) →
    f.vd.toNat < s.blk.regs → f.a.reg.toNat < s.blk.regs → (∀ r, bVector f = some r → r.reg.toNat < s.blk.regs) →
    let p := maskOf (takesPart s.ctx f.g)
    let vec := fun (i : Instr) (x : Nat → Lane) => ∃ t, exec i s = .next t ∧ OnlyCtx s t ∧
      t.ctx = { s.ctx with pc := s.ctx.pc + 8, v := t.ctx.v, released := t.ctx.released, pend := t.ctx.pend } ∧
      ∀ r l, l < 32 → t.ctx.lane r l = if r = f.vd.toNat ∧ laneOn p l = true then x l else s.ctx.lane r l
    let scal := fun (i : Instr) (x : SWord) => ∃ t, exec i s = .next t ∧ OnlyCtx s t ∧
      t.ctx = { s.ctx.writeS f.vd.toNat x with pc := s.ctx.pc + 8, pend := t.ctx.pend }
    let a := s.ctx.lane f.a.reg.toNat
    vec (.vlane f) (vlaneWord (f.ext.toNat % 4) p) ∧
    vec (.vshfl f) (fun l => a (shflLane (f.ext.toNat % 4) (bLane .mov f (bScalarVal f s.ctx) s.ctx l) l)) ∧
    (p = 0 → scal (.vrfl f) 0) ∧
    (∀ j < 32, laneOn p j = true → (∀ i < j, laneOn p i = false) →
      scal (.vrfl f) (if f.ext.getLsbD 0 then (a j).signExtend 64 else (a j).zeroExtend 64)) ∧
    scal (.vvote f) (vvoteWord (f.ext.toNat % 4) p (p &&& s.ctx.readP f.a.reg.toNat)) ∧
    scal (.vred f) (vredWord (f.ext.toNat % 16) s.ctx.fmt ((lanesOf p).map a)) ∧
    vec (.vscan f) (fun l => vscanWord (f.ext.toNat % 16) s.ctx.fmt ((scanLanes (f.ext.getLsbD 4) p l).map a))) ∧
  (∀ (p v : Mask) (b : Lane) (l : Nat), l < 32 →
    let count := fun (n : Nat) (m : Mask) => ((List.range n).filter fun j => laneOn m j).length
    vlaneWord 0 p l = BitVec.ofNat 32 l ∧ vlaneWord 1 p l = BitVec.ofNat 32 (count l p) ∧
    vlaneWord 2 p l = BitVec.ofNat 32 (count 32 p) ∧ (∀ j, (vlaneWord 3 p l).getLsbD j = (decide (j < l) && laneOn p j)) ∧
    vvoteWord 0 p v = v.zeroExtend 64 ∧ vvoteWord 1 p v = (if v = 0 then 0 else 1) ∧ vvoteWord 2 p v = (if v = p then 1 else 0) ∧
    vvoteWord 3 p v = BitVec.ofNat 64 (count 32 v) ∧
    shflLane 0 b l = b.toNat % 32 ∧ shflLane 1 b l = (if b.toNat ≤ l then l - b.toNat else l) ∧
    shflLane 2 b l = (if l + b.toNat < 32 then l + b.toNat else l) ∧ shflLane 3 b l = l ^^^ (b.toNat % 32) ∧
    ∀ excl : Bool, (lanesOf p).Pairwise (· < ·) ∧ (scanLanes excl p l).Pairwise (· < ·) ∧ ∀ j,
      (j ∈ lanesOf p ↔ j < 32 ∧ laneOn p j = true) ∧
      (j ∈ scanLanes excl p l ↔ j < 32 ∧ laneOn p j = true ∧ j ≤ l ∧ (excl = true → j ≠ l))) ∧
  ∀ (fmt : BitVec 32) (l : List Lane),
    let red := fun (op : Nat) => vredWord op fmt l
    let least := fun (op : Nat) (le : Lane → Lane → Bool) (ext : Lane → SWord) => ∃ x ∈ l, red op = ext x ∧ ∀ y ∈ l, le x y = true
    let f := fun (x : Lane) => decodeF fp32 (fmtFtz fmt) x.toNat
    let out := fun (x : FVal) => BitVec.ofNat 64 (roundF fp32 (fmtRm fmt) (fmtFtz fmt) false x)
    let best := fun (op : Nat) (below : FVal → FVal → Bool) => ∃ x ∈ l, red op = out (f x) ∧
      ((∃ y ∈ l, f y ≠ .nan) → f x ≠ .nan ∧ ∀ y ∈ l, f y ≠ .nan → below (f y) (f x) = false)
    red 0 = BitVec.ofInt 64 (l.map BitVec.toInt).sum ∧ red 1 = BitVec.ofNat 64 (l.map BitVec.toNat).sum ∧
    (∀ op ∈ [6, 7, 8], ∀ i < 64, (red op).getLsbD i = foldedBit op l i) ∧
    (l = [] → ∀ op, red op = 0) ∧
    (l ≠ [] → least 2 (fun x y => x.sle y) (fun x => x.signExtend 64) ∧ least 3 (fun x y => y.sle x) (fun x => x.signExtend 64) ∧
      least 4 (fun x y => x.ule y) (fun x => x.zeroExtend 64) ∧ least 5 (fun x y => y.ule x) (fun x => x.zeroExtend 64) ∧
      best 10 (fcondHolds 2) ∧ best 11 (fcondHolds 4) ∧ (∀ op, vscanWord op fmt l = (red op).truncate 32) ∧
      ((∃ x ∈ l, f x = .nan) → red 9 = 0x7FC00000) ∧
      ∀ (e : Int) (us : List Int), l.map (fun x => (f x).scaled e) = us.map some → ∃ v, v.scaled e = some us.sum ∧ red 9 = out v) ∧
    vscanWord 0 fmt [] = 0 ∧ vscanWord 2 fmt [] = 0x7FFFFFFF ∧ vscanWord 3 fmt [] = 0x80000000 ∧
    vscanWord 4 fmt [] = 0xFFFFFFFF ∧ vscanWord 5 fmt [] = 0 ∧ vscanWord 6 fmt [] = 0xFFFFFFFF ∧ vscanWord 7 fmt [] = 0 ∧
    vscanWord 8 fmt [] = 0 ∧ vscanWord 9 fmt [] = 0

/-- R308, R39 to R45, R16: the value that SYSRD gives for every listed index. Only a read of CLOCK keeps what it read.
How far CLOCK has advanced is a free value (log entry 7). -/
def Obligations.SystemRegisterReads : Prop :=
  ∀ (s : State) (d : BitVec 6), Quiet s → s.ctx.prefixes = [] →
    let reads := fun (i : BitVec 8) (x : SWord) =>
      Completes s (exec (.sysrd i d) s) (stepped 4 [] s.ctx (s.ctx.writeS d.toNat x))
    reads 0x00 (s.ctx.exec.zeroExtend 64) ∧ reads 0x01 0xFFFFFFFF ∧ reads 0x02 (s.ctx.fmt.zeroExtend 64) ∧
    reads 0x03 s.ctx.gang ∧ reads 0x04 (BitVec.ofNat 64 (s.g.slot % 32 + s.g.part % 4 * 32)) ∧
    reads 0x05 (s.blk.idx.1.zeroExtend 64) ∧ reads 0x06 (s.blk.idx.2.1.zeroExtend 64) ∧
    reads 0x07 (s.blk.idx.2.2.zeroExtend 64) ∧ reads 0x08 (BitVec.ofNat 64 (gridDim s.blk)) ∧
    reads 0x09 (s.blk.spanPos.zeroExtend 64 ||| (s.blk.spanCode.zeroExtend 64 <<< 2)) ∧
    reads 0x0A (BitVec.ofNat 64 (s.blk.core % 256)) ∧ reads 0x0B s.ctx.status ∧
    reads 0x0E (BitVec.ofNat 64 (lsmodeRead s.blk)) ∧ reads 0x0F s.ctx.fstat ∧
    reads 0x10 (BitVec.allOnes 64) ∧ reads 0x11 0xFFFFFFFF ∧
    (∀ i : BitVec 8, 0x12 ≤ i ∧ i ≤ 0x17 → reads i 0) ∧
    reads 0x18 s.ctx.trapInfo ∧ reads 0x19 s.ctx.trapPc ∧ reads 0x1A s.ctx.trapVa ∧ reads 0x1B s.ctx.trapVah ∧
    (∀ i : BitVec 8, 0x20 ≤ i ∧ i ≤ 0x2F →
      reads i (mget 0 s.g.pmc (i.toNat - 0x20) + issueCounts s.g (i.toNat - 0x20))) ∧
    reads 0x30 (BitVec.ofNat 64 (pmcselRead s.g)) ∧
    ∃ t, exec (.sysrd 0x0C d) s = .next t ∧
      t = { s with g := { s.g with ctx := t.g.ctx, pmc := t.g.pmc, arriving := t.g.arriving, lastClock := clockRead s } } ∧
      t.ctx = stepped 4 [] s.ctx (s.ctx.writeS d.toNat (BitVec.ofNat 64 (clockRead s)))

/-- R308, R98, R116, R41, R44, R45: SYSWR, SETFMT and SETGANG write what the register may hold. -/
def Obligations.SystemRegisterWrites : Prop :=
  ∀ (s : State) (b : BitVec 6), Quiet s → s.ctx.prefixes = [] →
    let x := s.ctx.readS b.toNat
    (fmtLegal x = true →
      Completes s (exec (.syswr 0x02 b) s) { passed s with fmt := x.truncate 32 } ∧
      Completes s (exec (.setfmt b) s) { passed s with fmt := x.truncate 32 }) ∧
    (gangLegal x = true →
      Completes s (exec (.syswr 0x03 b) s) { passed s with gang := x } ∧
      Completes s (exec (.setgang b) s) { passed s with gang := x }) ∧
    (x &&& 0x303 = x → Completes s (exec (.syswr 0x0B b) s) { passed s with status := x }) ∧
    (∀ i : BitVec 8, 0x20 ≤ i ∧ i ≤ 0x2F → ∃ t, exec (.syswr i b) s = .next t ∧ OnlyCtx s t ∧ t.ctx = passed s ∧
      mget 0 t.g.pmc (i.toNat - 0x20) = x + issueCounts s.g (i.toNat - 0x20)) ∧
    (pmcselLegal x = true → ∃ t, exec (.syswr 0x30 b) s = .next t ∧ t.ctx = passed s ∧
      t = { s with
        g := { s.g with
          ctx := t.g.ctx, pmc := t.g.pmc, arriving := t.g.arriving, pmcSel := t.g.pmcSel, pmcProg := t.g.pmcProg } } ∧
      t.g.pmcSel = x.truncate 4 ∧ (mget 0 t.g.pmcProg (x.toNat % 16)).toNat = x.toNat / 16 % 256 * 2 + x.toNat / 4096 % 2 ∧
      ∀ k, k ≠ x.toNat % 16 → mget 0 t.g.pmcProg k = mget 0 s.g.pmcProg k) ∧
    (lsmodeLegal s.blk.lstore x = true → ∃ t, exec (.syswr 0x0E b) s = .next t ∧ t.ctx = passed s ∧
      t = { s with
        g := { s.g with ctx := t.g.ctx, pmc := t.g.pmc, arriving := t.g.arriving }
        cores := t.cores
        blk := { s.blk with lsmode := t.blk.lsmode, switches := t.blk.switches } } ∧
      (∀ k, k ≠ s.blk.core → getCore t k = getCore s k) ∧ (∀ x ∈ (getCore t s.blk.core).l1, x ∈ (getCore s s.blk.core).l1) ∧
      (∀ k < s.blk.lstore, k < 16 → bankMode t.blk k = x.toNat / 4 ^ k % 4))

/-- R287, R170, R168, R239: FENCE drops its core's L1 where it acquires at span scope or wider, FETCHB drops what the
group has prefetched, IPF fills instruction caches; none of them changes a register. After an IPF of bytes of one sector that
the group may fetch, the L1I of its core, or with level 1 the L2I of its cluster, holds the sector; with level 2 and no way
reserved nothing is filled. What fills the caches is the model's choice (log entry 40). -/
def Obligations.FenceAndFetch : Prop :=
  ∀ (s : State) (kind : BitVec 2) (scope level : BitVec 3) (n : BitVec 4) (b : BitVec 6), Quiet s → s.ctx.prefixes = [] →
    (∃ t, exec (.fence kind scope) s = .next t ∧ t.ctx = passed s ∧ OnlyCtxAndL1 s t ∧
      (getCore t s.blk.core).l1 = if kind ≠ 1 ∧ 2 ≤ scope.toNat then [] else (getCore s s.blk.core).l1) ∧
    (∃ t, exec .fetchb s = .next t ∧ t.ctx = passed s ∧
      t = { s with g := { s.g with ctx := t.g.ctx, pmc := t.g.pmc, arriving := t.g.arriving, ibuf := [] } }) ∧
    (level.toNat < 3 → ∃ t, exec (.ipf level n b) s = .next t ∧ t.ctx = passed s ∧
      t = { s with
        g := { s.g with ctx := t.g.ctx, pmc := t.g.pmc, arriving := t.g.arriving }
        cores := t.cores, clusters := t.clusters, dies := t.dies, msgs := t.msgs, chan := t.chan } ∧
      (∀ c, (getCore t c).l1 = (getCore s c).l1) ∧
      (let a := s.ctx.readA n.toNat
       let bytes := (s.ctx.readS b.toNat).toNat
       let core := s.blk.core
       (level = 2 → (getDie s (dieOf core)).l3iWays = 0 → t = { s with g := t.g }) ∧
       ∀ pa leaf, 1 ≤ bytes → a.toNat % 128 + bytes ≤ 128 →
        translate s core s.blk.vf (a - BitVec.ofNat 72 (a.toNat % 128)) = .ok pa leaf →
        protDetail s s.blk.vf s.ctx.handler false true false pa leaf = none →
        let sector := accIdx s core leaf pa / 128
        poisonedAt s (128 * sector) 128 = false →
        (level = 0 → mhas (getCore t core).l1i sector = true) ∧
        (level = 1 → mhas (getCluster t (clusterOf core)) sector = true)))

/-- R359, R205, R32: a YIELD changes no architectural state. Where no pending group is ready the group stands aside for 16
contended cycles; else it goes to the pending set and the oldest ready pending group becomes active. A swap-out of a group that
is due for one, a boost of a group that has waited 256 cycles, and the swap of a group that has been pending for 4,096 move
groups between and within the two sets. A partition issues a ready active group, and where none is boosted and none stands
aside, the oldest. What a vacancy is filled with where no pending group is ready is the model's reading of R205 (log entry 22). -/
def Obligations.GroupScheduling : Prop :=
  (∀ (s : State), Quiet s → s.ctx.prefixes = [] →
    let me := (s.g.uid, s.g.slot)
    let p := getPart s (myPart s)
    (readyOf s p.pending = [] → ∃ t, exec .yield s = .next t ∧ OnlyCtxAndPart s t ∧ t.ctx = passed s ∧
      getPart t (myPart s) = { p with
        yielded := (p.yielded.filter fun x => !(x.1 == me.1 && x.2.1 == me.2)) ++ [(s.g.uid, s.g.slot, 16)] }) ∧
    (∀ x, p.active.length ≤ 8 → me ∈ p.active → oldest s (readyOf s (dropPair p.pending me.1 me.2)) = some x →
      ∃ t, exec .yield s = .next t ∧ t.ctx = passed s ∧ t.mem = s.mem ∧
      (getPart t (myPart s)).active = dropPair p.active me.1 me.2 ++ [x] ∧
      (getPart t (myPart s)).pending = dropPair (p.pending ++ [me]) x.1 x.2)) ∧
  (∀ (s : State) (x : Nat × Nat),
    let me := (s.g.uid, s.g.slot)
    let p := getPart s (myPart s)
    (me ∈ p.active → s.g.window = none → s.g.parked = false → swapWanted s.g = true → p.active.length ≤ 8 →
      oldest s (readyOf s (dropPair p.pending me.1 me.2)) = some x → ∃ t, exec .groupSwapOut s = .next t ∧ t.mem = s.mem ∧
      t.ctx = { s.ctx with pend := landAll s.ctx.pend } ∧ (getPart t (myPart s)).active = dropPair p.active me.1 me.2 ++ [x] ∧
      (getPart t (myPart s)).pending = dropPair (p.pending ++ [me]) x.1 x.2) ∧
    (isReady s s.g = true → 256 ≤ s.g.waited → me ∈ p.active → ∃ t, exec .issueBoost s = .next t ∧
      t = { s with parts := t.parts } ∧ getPart t (myPart s) = { p with active := boostFront s p.active me } ∧
      ((∀ y ∈ boostedOf s (dropPair p.active me.1 me.2), older s y me = false) →
        (getPart t (myPart s)).active = me :: dropPair p.active me.1 me.2)) ∧
    (isReady s s.g = true → 4096 ≤ s.g.waited → me ∈ p.pending →
      longest s (p.active.filter fun y => maySwap s (myPart s) y.1 y.2) = some x →
      ∃ t, exec .pendingStarvationSwap s = .next t ∧ t.mem = s.mem ∧
      (getPart t (myPart s)).active = dropPair p.active x.1 x.2 ++ [me] ∧
      (getPart t (myPart s)).pending = dropPair (p.pending ++ [x]) me.1 me.2)) ∧
  ∀ (s : State) (k : Nat) (x : Nat × Nat), nextIssue s k = some x →
    x ∈ (getPart s k).active ∧ isReady s (findGroup s x.1 x.2) = true ∧
    (boostedOf s (readyOf s (getPart s k).active) = [] → (getPart s k).yielded = [] →
      ∀ y ∈ (getPart s k).active, isReady s (findGroup s y.1 y.2) = true → older s x y = true)

/-- R277, R28: BAR records the arrival and the group waits, unless it is the last of its block to arrive: then the
barrier is free again, and every group that waited at it is ready. A barrier's arrivals are held as a mask of slots. -/
def Obligations.BlockBarrier : Prop :=
  ∀ (s : State) (n : BitVec 4), Quiet s → s.ctx.prefixes = [] → s.g.uid = s.blk.uid → s.g.slot < 32 →
    let m := mget 0 s.blk.bar n.toNat ||| BitVec.ofNat 32 (2 ^ s.g.slot)
    let last := s.groups.all fun g => g.uid != s.blk.uid || g.run == .absent || g.run == .exited || laneOn m g.slot
    ∃ t, exec (.bar n) s = .next t ∧ t.ctx = passed s ∧
      t = { s with
        g := { s.g with ctx := t.g.ctx, pmc := t.g.pmc, arriving := t.g.arriving, run := t.g.run }
        groups := t.groups, blk := { s.blk with bar := t.blk.bar }, blks := t.blks } ∧
      (∀ k, k ≠ n.toNat → mget 0 t.blk.bar k = mget 0 s.blk.bar k) ∧
      (last = false → t.g.run = .atBar n.toNat ∧ mget 0 t.blk.bar n.toNat = m ∧ t.groups = s.groups) ∧
      (last = true → t.g.run = .ready ∧ mget 0 t.blk.bar n.toNat = 0 ∧
        t.groups = s.groups.map fun g =>
          if g.uid = s.blk.uid ∧ g.run = .atBar n.toNat then { g with run := .ready } else g)

/-- R277, R28, R164: BARS, by what its group does: it waits while some group of the span has not arrived; the last
arrival makes it ready and drops the L1 of its core, where no engine write into span scratch is left to perform.
Which engine writes R164 means is the model's reading (log entry 28). -/
def Obligations.SpanBarrier : Prop :=
  ∀ (s : State) (n : BitVec 2), Quiet s → s.ctx.prefixes = [] → s.g.uid = s.blk.uid → s.g.slot < 32 →
    s.blk.phase ≠ .none → (∀ b ∈ s.blks, b.uid ≠ s.blk.uid) →
    let m := mget 0 s.blk.sbar n.toNat ||| BitVec.ofNat 32 (2 ^ s.g.slot)
    let arrived := fun (g : Group) (b : Block) => g.uid != b.uid || g.run == .absent || g.run == .exited ||
      laneOn (if b.uid = s.blk.uid then m else mget 0 b.sbar n.toNat) g.slot
    let last := (spanBlocks s s.blk).all fun b =>
      arrived { s.g with run := .atSpanBar n.toNat } b && s.groups.all fun g => arrived g b
    ∃ t, exec (.bars n) s = .next t ∧ t.ctx = passed s ∧ t.mem = s.mem ∧ t.dies = s.dies ∧ t.parts = s.parts ∧
      (last = false → t.g.run = .atSpanBar n.toNat ∧ t.cores = s.cores ∧ t.groups = s.groups ∧
        mget 0 t.blk.sbar n.toNat = m) ∧
      (last = true → (spanBlocks s s.blk).any spanWritePending = false →
        t.g.run = .ready ∧ (getCore t s.blk.core).l1 = [] ∧ mget 0 t.blk.sbar n.toNat = 0)

/-- R30, R284: after EXIT the group has ended: its stack is empty and it stands in neither set of its partition; memory
and its registers are as before. -/
def Obligations.ExitEndsTheGroup : Prop :=
  ∀ (s : State), Quiet s → s.ctx.prefixes = [] → s.g.uid = s.blk.uid → s.blk.latch = [] → s.blk.slatch = [] →
    (∀ b ∈ s.blks, b.uid ≠ s.blk.uid) →
    ∃ t, exec .exit s = .next t ∧ t.g.run = .exited ∧ t.ctx = { passed s with stack := [] } ∧ t.mem = s.mem ∧
      hasPair (getPart t (myPart s)).active s.g.uid s.g.slot = false ∧
      hasPair (getPart t (myPart s)).pending s.g.uid s.g.slot = false

/-- R212 to R214: what taking a trap outside a handler does: the trap registers say which trap, where and on what
address, the handler flag is set, the PC is at the entry, and nothing else changes. -/
def Obligations.TrapEntryState : Prop :=
  ∀ (s : State) (t : TrapReq) (len : Nat) (target : Addr), s.blk.trapEntry = some target → s.ctx.handler = false →
    t.cls ≠ 13 → t.cls ≠ 12 → len < 32 →
    let at_ := s.ctx.pc - BitVec.ofNat 72 (4 * s.ctx.prefixes.length)
    let u := takeTrap s t len none
    u = s.withCtx { s.ctx with
      trapInfo := u.ctx.trapInfo, trapPc := at_.truncate 64, trapVa := t.va.truncate 64, trapVah := u.ctx.trapVah
      handler := true, pc := target, prefixes := [], pend := landAll s.ctx.pend } ∧
    u.ctx.trapInfo.extractLsb' 0 8 = t.cls ∧ u.ctx.trapInfo.extractLsb' 8 8 = t.detail ∧
    u.ctx.trapInfo.extractLsb' 16 5 = t.lane.getD 0 ∧ u.ctx.trapInfo.getLsbD 21 = t.lane.isSome ∧
    u.ctx.trapInfo.extractLsb' 24 5 = BitVec.ofNat 5 len ∧ u.ctx.trapInfo.getLsbD 29 = trapPast t.cls t.detail ∧
    u.ctx.trapInfo.extractLsb' 32 9 = t.arg ∧
    u.ctx.trapVah.extractLsb' 0 8 = t.va.extractLsb' 64 8 ∧ u.ctx.trapVah.extractLsb' 8 8 = at_.extractLsb' 64 8

/-- R215: TRAP and BKPT take their traps, with the code in TRAPINFO.ARG; ERET leaves the handler for the saved PC, past
the instruction or not as its mode says, and is illegal outside a handler. R216: a trap that was deferred is taken
before the group's next instruction; in a handler, or without a trap entry, it aborts the launch: none of its blocks
is left. TRAPINFO.LEN of a trap where nothing could be fetched is a free value (log entry 10). -/
def Obligations.TrapsAndReturn : Prop :=
  (∀ (s : State) (code : BitVec 8) (mode : BitVec 2), Quiet s → s.ctx.prefixes = [] →
    exec (.trap code) s = .next (takeTrap (issued s) ⟨14, 0, code.zeroExtend 9, 0, none⟩ 4 none) ∧
    exec (.bkpt code) s = .next (takeTrap (issued s) ⟨15, 0, code.zeroExtend 9, 0, none⟩ 4 none) ∧
    (s.ctx.handler = true → mode ≠ 3 →
      let past := mode = 2 ∨ (mode = 0 ∧ s.ctx.trapInfo.getLsbD 29 = true)
      Completes s (exec (.eret mode) s) { s.ctx with
        pc := (s.ctx.trapVah.extractLsb' 8 8 ++ s.ctx.trapPc) +
          (if past then (s.ctx.trapInfo.extractLsb' 24 5).zeroExtend 72 else 0)
        handler := false, prefixes := [] }) ∧
    (s.ctx.handler = false → (∀ n w, emuMatch s n w = none) →
      exec (.eret mode) s = .next (takeTrap (issued s) ⟨1, 0, 0, 0, none⟩ 4 none))) ∧
  ∀ (s : State) (t : TrapReq), s.g.trapReq = some t →
    (s.g.window = none → s.g.undo = none →
      exec .trapEntry s = .next (takeTrap (countWaiting t { s with g := { s.g with trapReq := none } }) t
        (deferredLen s) none)) ∧
    (s.ctx.handler = true ∨ s.blk.trapEntry = none → ∃ u, exec .launchAbort s = .next u ∧
      (∀ b ∈ allBlocks u, b.launch ≠ s.blk.launch) ∧ findLaunch u s.blk.launch = none)

/-- R274, R275: SLD loads 1 to 8 bytes, zero-extended or sign-extended, ALD a pointer of 16 bytes; SST stores the low
bytes of a scalar, AST a pointer slot, at the place of their address and nowhere else, under the key of its page. A plain load
reads the L1 where an event has filled it, which is the model's choice (log entry 40); any other reads what its page shows of
memory (R139, R170). -/
def Obligations.ScalarMemory : Prop :=
  (∀ (s : State) (f : WmF) (a : Acc), Quiet s → s.ctx.prefixes.length ≤ 2 →
    let ea := wmEA f s.ctx
    let ends := fun (o : Host.Outcome State Fault Refusal) (c : Ctx) => ∃ t, o = .next t ∧ OnlyCtxAndCaches s t ∧
      t.ctx = stepped 4 [] s.ctx c ∧ (f.ord = true → 2 ≤ f.scope.toNat → (getCore t s.blk.core).l1 = [])
    (f.size.toNat ≤ 3 → Reaches s ea false (sizeBytes f.size) a → poisonedAt s a.idx (sizeBytes f.size) = false →
      ends (exec (.sld f) s) (s.ctx.writeS f.r.toNat
        (extended f.signed (sizeBytes f.size) (loaded s f.ord a (sizeBytes f.size))))) ∧
    (Reaches s ea false 16 a → poisonedAt s a.idx 16 = false → leNat (loaded s f.ord a 16) < 2 ^ 72 →
      ends (exec (.ald f) s) (s.ctx.writeA f.r.toNat (BitVec.ofNat 72 (leNat (loaded s f.ord a 16)))))) ∧
  (∀ (s : State) (f : WmF) (a : Acc), Quiet s → s.ctx.prefixes.length ≤ 2 →
    let ea := wmEA f s.ctx
    let ends := fun (o : Host.Outcome State Fault Refusal) (bs : List Byte) => ∃ t, o = .next t ∧ OnlyStored s t ∧
      t.ctx = passed s ∧ MemoryButAt s t a.idx bs.length ∧ bytesAt t.mem a.idx bs.length = bs ∧
      pageBytes t a.leaf a.idx bs.length = bs
    (f.size.toNat ≤ 3 → Reaches s ea true (sizeBytes f.size) a →
      ends (exec (.sst f) s) (leBytes (sizeBytes f.size) (s.ctx.readS f.r.toNat).toNat)) ∧
    (Reaches s ea true 16 a → ends (exec (.ast f) s) (leBytes 16 (s.ctx.readA f.r.toNat).toNat))) ∧
  ∀ (s : State) (acq : Bool) (a : Acc) (n : Nat), LoadsMemory s acq a n

/-- R293, R343, R344: VLD and VLDS load the element of every lane that takes part; VST and VSTS store it; where lanes
meet, the highest stands, and every other byte of memory stays. A plain load reads the L1 where an event has filled it, which is
the model's choice (log entry 40); any other reads what its page shows of memory (R139, R170). -/
def Obligations.VectorMemory : Prop :=
  (∀ (s : State) (f : LmF) (at_ : Nat → Acc), Quiet s → s.ctx.prefixes.length ≤ 2 →
    let n := sizeBytes f.size
    let load := fun (i : Instr) (ea : Nat → Addr) =>
      (∀ l < 32, takesPart s.ctx f.g l = true → Reaches s (ea l) false n (at_ l) ∧ poisonedAt s (at_ l).idx n = false) →
      (∀ l, LoadsMemory s f.ord (at_ l) n) ∧
      ∃ t, exec i s = .next t ∧ OnlyCtxAndCaches s t ∧ LoadsLanes s f (fun l => loaded s f.ord (at_ l) n) t
    (LmFits s f false → load (.vld f) (vldEA f s.ctx)) ∧ (LmFits s f true → load (.vlds f) (vldsEA f s.ctx))) ∧
  (∀ (s : State) (f : LmF) (at_ : Nat → Acc), Quiet s → s.ctx.prefixes.length ≤ 2 →
    let place := fun l => (at_ l).idx
    let store := fun (i : Instr) (ea : Nat → Addr) =>
      (∀ l < 32, takesPart s.ctx f.g l = true → Reaches s (ea l) true (sizeBytes f.size) (at_ l)) →
      ∃ t, exec i s = .next t ∧ OnlyStored s t ∧ StoresLanes s f t ∧ MemoryBut s t (laneStorePlaces s f place) ∧
        lanesStored s f place (mget memDefault t.mem)
    (LmFits s f false → store (.vst f) (vldEA f s.ctx)) ∧ (LmFits s f true → store (.vsts f) (vldsEA f s.ctx)))

/-- R294, R295: LDL and STL reach the block's own scratch window, LDR and STR that of a span position; every other
scratch byte, every other block's scratch and memory stay. A load reads what stands there, but for engine writes that
nothing orders before it (R166), which it may see or not. R300, R301: QPUSH puts the lanes that take part, zeros
elsewhere, behind the entries of an owned FIFO bank; QPOP takes the oldest entry. Neither changes memory or another
bank. Which of the open reads see an engine's write is a free value (log entry 44). -/
def Obligations.ScratchAndFifo : Prop :=
  (∀ (s : State) (f : LmF) (b : Block), Quiet s → s.ctx.prefixes.length ≤ 2 → LmFits s f false →
    let n := sizeBytes f.size
    let off := scratchOff f s.ctx
    let load := fun (i : Instr) (b : Block) =>
      (∀ l < 32, takesPart s.ctx f.g l = true → InScratch b n (off l) ∧ scratchPoisoned b (off l) n = false) →
      ∃ t, exec i s = .next t ∧ OnlyScratchRead s t ∧ LoadsLanes s f (fun l => scratchRead s b (off l) n) t
    load (.ldl f) s.blk ∧ (spanTarget s f.n.toNat = some b → load (.ldr f) b)) ∧
  (∀ (s : State) (b : Block) (o n : Nat), (∀ x ∈ s.loose, x.uid ≠ b.uid) → scratchRead s b o n = scratchBytes b o n) ∧
  (∀ (s : State) (f : LmF) (b : Block), Quiet s → s.ctx.prefixes.length ≤ 2 → LmFits s f false →
    let off := scratchOff f s.ctx
    let store := fun (i : Instr) (b : Block) =>
      (∀ l < 32, takesPart s.ctx f.g l = true → InScratch b (sizeBytes f.size) (off l)) →
      ∃ t, exec i s = .next t ∧ OnlyScratch s t ∧ StoresLanes s f t ∧
        lanesStored s f off (mget 0 (findBlk t b.uid).scratch) ∧
        (∀ a, a ∉ laneStorePlaces s f off → mget 0 (findBlk t b.uid).scratch a = mget 0 b.scratch a) ∧
        (∀ u, u ≠ b.uid → findBlk t u = findBlk s u)
    store (.stl f) s.blk ∧ (spanTarget s f.n.toNat = some b → findBlk s b.uid = b → store (.str f) b)) ∧
  ∀ (s : State) (f : LmF), Quiet s → s.ctx.prefixes = [] → f.vd.toNat < s.blk.regs →
    let bank := f.n.toNat
    bank < s.blk.lstore → bankMode s.blk bank = 2 → bankBusy s.blk bank = false →
    ((fifoOf s.blk bank).length < 256 → ∃ t, exec (.qpush f) s = .next t ∧
      t = { s with
        g := { s.g with ctx := t.g.ctx, pmc := t.g.pmc, arriving := t.g.arriving }
        blk := { s.blk with fifo := t.blk.fifo, scratchPoison := t.blk.scratchPoison } } ∧
      (∀ k, mget false t.blk.scratchPoison k =
        if k / 4096 = bank ∧ k % 4096 / 16 = (fifoOf s.blk bank).length then false else mget false s.blk.scratchPoison k) ∧
      t.ctx = { s.ctx with pc := s.ctx.pc + 8, v := t.ctx.v, released := t.ctx.released } ∧
      (∀ r l, l < 32 → t.ctx.lane r l = if f.lrd = true ∧ r = f.vd.toNat then 0 else s.ctx.lane r l) ∧
      (∀ k, k ≠ bank → fifoOf t.blk k = fifoOf s.blk k) ∧
      fifoOf t.blk bank = fifoOf s.blk bank ++
        [(List.range 32).map fun l => if takesPart s.ctx f.g l then s.ctx.lane f.vd.toNat l else 0]) ∧
    (256 ≤ (fifoOf s.blk bank).length → exec (.qpush f) s = .next (waitFor s (.room bank))) ∧
    (fifoOf s.blk bank = [] → exec (.qpop f) s = .next (waitFor s (.entry bank))) ∧
    (∀ e rest, fifoOf s.blk bank = e :: rest → s.blk.scratchPoison = [] → ∃ t, exec (.qpop f) s = .next t ∧
      t = { s with g := { s.g with ctx := t.g.ctx, pmc := t.g.pmc, arriving := t.g.arriving }, blk := { s.blk with fifo := t.blk.fifo } } ∧
      t.ctx = { s.ctx with pc := s.ctx.pc + 8, v := t.ctx.v, released := t.ctx.released } ∧
      (∀ r l, l < 32 → t.ctx.lane r l =
        if r = f.vd.toNat ∧ takesPart s.ctx f.g l = true then (e[l]?).getD 0 else s.ctx.lane r l) ∧
      (∀ k, k ≠ bank → fifoOf t.blk k = fifoOf s.blk k) ∧ fifoOf t.blk bank = rest)

/-- R153, R154, R210: a misaligned access traps ALIGN with its address; one that does not translate parks the
group with a fault record, its PC at the instruction; a forbidden one traps PROT. Of a vector access the lowest lane that fails
the first check that any lane fails decides, and is named. The bytes of the fault record that
the spec leaves open are free values (log entry 17). -/
def Obligations.RefusedAccesses : Prop :=
  (∀ (s : State) (f : WmF), Quiet s → s.ctx.prefixes = [] → f.size.toNat ≤ 3 →
    let ea := wmEA f s.ctx
    let n := sizeBytes f.size
    (ea.toNat % n ≠ 0 → exec (.sld f) s = .next (takeTrap (issued s) (memTrap 2 0 none ea) 4 none) ∧
      exec (.sst f) s = .next (takeTrap (issued s) (memTrap 2 0 none ea) 4 none)) ∧
    (∀ lvl malf, ea.toNat % n = 0 → translate s s.blk.core s.blk.vf ea = .fault lvl malf →
      exec (.sld f) s = .next (parkMemf (issued s) none ea lvl malf 0) ∧
      exec (.sst f) s = .next (parkMemf (issued s) none ea lvl malf 1) ∧
      (parkMemf (issued s) none ea lvl malf 0).g.run = .faulted s.faultSeq ∧
      (parkMemf (issued s) none ea lvl malf 0).g.ctx = s.ctx) ∧
    (∀ pa leaf d, ea.toNat % n = 0 → translate s s.blk.core s.blk.vf ea = .ok pa leaf →
      (protDetail s s.blk.vf s.ctx.handler true false false pa leaf = some d →
        exec (.sst f) s = .next (takeTrap (issued s) ⟨5, d, 0, ea, none⟩ 4 none)) ∧
      (protDetail s s.blk.vf s.ctx.handler false false false pa leaf = some d →
        exec (.sld f) s = .next (takeTrap (issued s) ⟨5, d, 0, ea, none⟩ 4 none)))) ∧
  ∀ (s : State) (f : LmF), Quiet s → s.ctx.prefixes = [] →
    let n := sizeBytes f.size
    let part := fun l => l < 32 ∧ takesPart s.ctx f.g l = true
    let finds := translate s s.blk.core s.blk.vf
    let refused := fun (load store : Instr) (ea : Nat → Addr) => ∀ l, part l →
      let lane := some (BitVec.ofNat 5 l)
      let found := fun k => ∃ pa leaf, finds (ea k) = .ok pa leaf
      let bars := fun (write : Bool) (k : Nat) (d : BitVec 8) => ∃ pa leaf, finds (ea k) = .ok pa leaf ∧
        protDetail s s.blk.vf s.ctx.handler write false false pa leaf = some d
      ((ea l).toNat % n ≠ 0 → (∀ k < l, part k → (ea k).toNat % n = 0) →
        exec load s = .next (takeTrap (issued s) (memTrap 2 0 lane (ea l)) 8 none) ∧
        exec store s = .next (takeTrap (issued s) (memTrap 2 0 lane (ea l)) 8 none)) ∧
      ((∀ k, part k → (ea k).toNat % n = 0) →
        (∀ lvl malf, finds (ea l) = .fault lvl malf → (∀ k < l, part k → found k) →
          exec load s = .next (parkMemf (issued s) lane (ea l) lvl malf 0) ∧
          exec store s = .next (parkMemf (issued s) lane (ea l) lvl malf 1)) ∧
        ∀ write d, (∀ k, part k → found k) → bars write l d → (∀ k < l, part k → ∀ e, ¬ bars write k e) →
          exec (if write then store else load) s = .next (takeTrap (issued s) ⟨5, d, 0, ea l, lane⟩ 8 none))
    (LmFits s f false → refused (.vld f) (.vst f) (vldEA f s.ctx)) ∧ (LmFits s f true → refused (.vlds f) (.vsts f) (vldsEA f s.ctx))

/-- R291, R261: the operations of the atomics but add in FP32, on elements of 32 and 64 bits. -/
def Obligations.AtomicValues : Prop :=
  (∀ x y z : BitVec 32,
    atomNew 0 32 x.toNat y.toNat z.toNat = (x + y).toNat ∧
    atomNew 2 32 x.toNat y.toNat z.toNat = (if x.sle y then x else y).toNat ∧
    atomNew 3 32 x.toNat y.toNat z.toNat = (if x.sle y then y else x).toNat ∧
    atomNew 4 32 x.toNat y.toNat z.toNat = (if x ≤ y then x else y).toNat ∧
    atomNew 5 32 x.toNat y.toNat z.toNat = (if x ≤ y then y else x).toNat ∧
    atomNew 6 32 x.toNat y.toNat z.toNat = (x &&& y).toNat ∧ atomNew 7 32 x.toNat y.toNat z.toNat = (x ||| y).toNat ∧
    atomNew 8 32 x.toNat y.toNat z.toNat = (x ^^^ y).toNat ∧ atomNew 9 32 x.toNat y.toNat z.toNat = y.toNat ∧
    atomNew 10 32 x.toNat y.toNat z.toNat = (if x = z then y else x).toNat) ∧
  ∀ x y z : BitVec 64,
    atomNew 0 64 x.toNat y.toNat z.toNat = (x + y).toNat ∧
    atomNew 2 64 x.toNat y.toNat z.toNat = (if x.sle y then x else y).toNat ∧
    atomNew 3 64 x.toNat y.toNat z.toNat = (if x.sle y then y else x).toNat ∧
    atomNew 4 64 x.toNat y.toNat z.toNat = (if x ≤ y then x else y).toNat ∧
    atomNew 5 64 x.toNat y.toNat z.toNat = (if x ≤ y then y else x).toNat ∧
    atomNew 6 64 x.toNat y.toNat z.toNat = (x &&& y).toNat ∧ atomNew 7 64 x.toNat y.toNat z.toNat = (x ||| y).toNat ∧
    atomNew 8 64 x.toNat y.toNat z.toNat = (x ^^^ y).toNat ∧ atomNew 9 64 x.toNat y.toNat z.toNat = y.toNat ∧
    atomNew 10 64 x.toNat y.toNat z.toNat = (if x = z then y else x).toNat

/-- R290, R291: VATOM, VCAS and MATOM where no two lanes meet: every lane that takes part reads the old value of its element and
writes the new one; the rest of memory stays. Accesses that share a sector see it under one key (R249), and at the home stack's
unit no operation waits on their sectors (R148). R291: lanes that meet on one element act one after another, in ascending order:
a VATOM add of lane L reads the sum of what was there and the operands of the lower lanes. -/
def Obligations.AtomicsOfLanes : Prop :=
  (∀ (s : State) (f : LaF) (at_ : Nat → Acc), Quiet s → s.ctx.prefixes = [] →
    let n := atomBytes f.w64
    let place := fun l => (at_ l).idx
    let part := fun l => l < 32 ∧ takesPart s.ctx f.g l = true
    (∀ l, part l → Reaches s (atomEA f s.ctx l) true n (at_ l) ∧ poisonedAt s (place l) n = false) →
    (∀ l k, part l → part k → l ≠ k → place l + n ≤ place k ∨ place k + n ≤ place l) → OneView s part at_ →
    let runs := fun (i : Instr) (aop : Nat) => ∃ t, exec i s = .next t ∧ OnlyStored s t ∧
      OldValues s f (fun l => elementOf s (at_ l) n) t ∧
      (∀ l, part l → elementAt t.mem (place l) n =
        atomNew aop (8 * n) (elementOf s (at_ l) n) (atomOperand s.ctx f.vb f.w64 l) (atomOperand s.ctx f.vc f.w64 l)) ∧
      MemoryBut s t (((List.range 32).filter fun l => takesPart s.ctx f.g l).flatMap fun l => placesFrom (place l) n)
    (AtomFits s f false → runs (.vatom f) f.aop.toNat) ∧ (AtomFits s f true → runs (.vcas f) 10) ∧
      (AtomFits s f (f.aop.toNat == 10) → (∀ op ∈ s.unitOps, ∀ l, part l → unitOpAt s (place l / 128) op = false) →
        runs (.matom f) f.aop.toNat)) ∧
  ∀ (s : State) (f : LaF) (a : Acc), Quiet s → s.ctx.prefixes = [] → AtomFits s f false → f.aop = 0 →
    let n := atomBytes f.w64
    (∀ l < 32, takesPart s.ctx f.g l = true → Reaches s (atomEA f s.ctx l) true n a) → poisonedAt s a.idx n = false →
    (∃ l < 32, takesPart s.ctx f.g l = true) →
    let upTo := fun l => (elementOf s a n +
      ((lanesBelow s f l).map fun k => atomOperand s.ctx f.vb f.w64 k).foldl (· + ·) 0) % 2 ^ (8 * n)
    ∃ t, exec (.vatom f) s = .next t ∧ OnlyStored s t ∧ OldValues s f upTo t ∧ elementAt t.mem a.idx n = upTo 32 ∧
      MemoryButAt s t a.idx n

/-- R290, R291: SATOM acts once for the group, on scalars; its old value goes to sD, zero-extended. R292: LATOM acts on the
block's scratch window, where no two lanes meet. R148: an atomic unit performs an operation that waits for it, the first that
has arrived on its sector: its element gets the new value, no L1 keeps its sector, the rest of memory stays. R251: of a peer
whose entry is valid below its limit a write is performed at its place and nowhere else, and a reduction goes to the atomic
unit; of any other peer nothing is. That both work under key 0 is the model's reading (log entry 43). -/
def Obligations.ScalarScratchUnitAtomics : Prop :=
  (∀ (s : State) (f : LaF) (a : Acc), Quiet s → s.ctx.prefixes = [] →
    let n := atomBytes f.w64
    let ea := s.ctx.readA f.n.toNat + (s.ctx.readS f.va.toNat).signExtend 72
    Reaches s ea true n a → poisonedAt s a.idx n = false →
    ∃ t, exec (.satom f) s = .next t ∧ OnlyStored s t ∧
      t.ctx = { s.ctx.writeS f.vd.toNat (BitVec.ofNat 64 (elementOf s a n)) with pc := s.ctx.pc + 8 } ∧
      elementAt t.mem a.idx n = atomNew f.aop.toNat (8 * n) (elementOf s a n)
        ((s.ctx.readS f.vb.toNat).toNat % 2 ^ (8 * n)) ((s.ctx.readS f.vc.toNat).toNat % 2 ^ (8 * n)) ∧
      MemoryButAt s t a.idx n) ∧
  (∀ (s : State) (f : LaF), Quiet s → s.ctx.prefixes = [] → AtomFits s f (f.aop.toNat == 10) →
    let n := atomBytes f.w64
    let off := fun l => (s.ctx.lane f.va.toNat l).toNat
    let part := fun l => l < 32 ∧ takesPart s.ctx f.g l = true
    let at_ := fun (b : Block) l => leNat (scratchBytes b (off l) n)
    (∀ l, part l → InScratch s.blk n (off l) ∧ scratchPoisoned s.blk (off l) n = false) →
    (∀ l k, part l → part k → l ≠ k → off l + n ≤ off k ∨ off k + n ≤ off l) →
    ∃ t, exec (.latom f) s = .next t ∧ OldValues s f (at_ s.blk) t ∧
      t = { s with
        g := { s.g with ctx := t.g.ctx, pmc := t.g.pmc, arriving := t.g.arriving }, cores := t.cores, loose := t.loose
        early := t.early, broken := t.broken
        blk := { s.blk with scratch := t.blk.scratch, scratchPoison := t.blk.scratchPoison } } ∧ SameElements s t ∧
      (∀ l, part l → at_ t.blk l =
        atomNew f.aop.toNat (8 * n) (at_ s.blk l) (atomOperand s.ctx f.vb f.w64 l) (atomOperand s.ctx f.vc f.w64 l)) ∧
      ∀ a, (∀ l, part l → a < off l ∨ off l + n ≤ a) → mget 0 t.blk.scratch a = mget 0 s.blk.scratch a) ∧
  (∀ (s : State) (op : AtomReq),
    let n := atomBytes op.w64
    let i := homeIdx s.place op.pa.toNat
    (s.unitOps.find? (unitOpAt s (i / 128)) ≠ some op → exec (.atomicUnitOperation op) s = .next s) ∧
    (s.unitOps.find? (unitOpAt s (i / 128)) = some op → isLocal op.pa.toNat = true → op.pa.toNat % n = 0 →
      poisonedAt s i n = false → ∃ t, exec (.atomicUnitOperation op) s = .next t ∧ MemoryButAt s t i n ∧
      elementAt t.mem i n = atomNew op.aop.toNat (8 * n) (elementOf s ⟨none, 0, op.pa.toNat, i, 0⟩ n)
        (op.b.toNat % 2 ^ (8 * n)) (op.c.toNat % 2 ^ (8 * n)) ∧
      t.unitOps = s.unitOps.erase op ∧ (∀ e ∈ t.cores, ∀ x ∈ e.2.l1, x.sector ≠ i / 128) ∧ t.g = s.g ∧ t.blk = s.blk)) ∧
  ∀ (s : State) (peer : Nat) (op : AtomReq),
    let p := mget Peer.reset s.peers peer
    let n := peerBytesOf op
    let i := homeIdx s.place op.pa.toNat
    (p.valid = true → op.pa.toNat + n ≤ p.limit.toNat → isLocal op.pa.toNat = true → op.pa.toNat % n = 0 →
      (op.aop = 31 → ∃ t, exec (.peerIncomingAccess peer op) s = .next t ∧ MemoryButAt s t i n ∧
        bytesAt t.mem i n = leBytes n (op.b.toNat + op.c.toNat * 2 ^ 64) ∧ t.g = s.g ∧ t.blk = s.blk) ∧
      (op.aop ≠ 31 → poisonedAt s i n = false →
        exec (.peerIncomingAccess peer op) s = .next { s with unitOps := s.unitOps ++ [op] })) ∧
    (p.valid = false ∨ p.limit.toNat < op.pa.toNat + n → exec (.peerIncomingAccess peer op) s = .next s)

/-- R127, R128: MLDF reads the planes of the lanes that take part from the block's scratch, in rows of a pitch, plain or
transposed; the offsets do not wrap. R113: it waits while the core's cube queue is full. -/
def Obligations.PlaneLoads : Prop :=
  ∀ (s : State) (f : LfF), Quiet s → s.ctx.prefixes = [] → f.rows.toNat ≤ 4 → f.ef.toNat < 6 →
    let q := mldfRows f
    let count := if q = 1 then 1 else q / 4
    let off := (s.ctx.readS f.off.toNat).toNat % 2 ^ 32
    let pitch := (s.ctx.readS f.pitch.toNat).toNat % 2 ^ 32
    let e := efWidth f.ef / 8
    let byte := fun o n => leNat (scratchRead s s.blk o n)
    f.base.toNat + count ≤ s.blk.regs →
    ((getCore s s.blk.core).cubeQ.length < 4 → off % 16 = 0 → pitch % 16 = 0 →
      (∀ l < 32, takesPart s.ctx f.g l = true → ∀ w ∈ mldfWords q l, ∀ o ∈ mldfOffsets f off pitch w,
        InScratch s.blk (mldfSize f) o ∧ scratchPoisoned s.blk o (mldfSize f) = false) →
      ∃ t, exec (.mldf f) s = .next t ∧ OnlyScratchRead s t ∧
        t.ctx = { s.ctx with pc := s.ctx.pc + 8, v := t.ctx.v, released := t.ctx.released } ∧ ∀ r l, l < 32 →
        let w := 32 * (r - f.base.toNat) + l
        let part := f.base.toNat ≤ r ∧ r < f.base.toNat + count ∧ takesPart s.ctx f.g l = true ∧ (q = 1 → l < 8)
        (¬ part → t.ctx.lane r l = s.ctx.lane r l) ∧
        (part → f.t = false → (t.ctx.lane r l).toNat = byte (off + w / 8 * pitch + 4 * (w % 8)) 4) ∧
        (part → f.t = true → ∀ i < 4 / e, elemN (t.ctx.lane r l).toNat (8 * e) i =
          byte (off + (w % 8 * (4 / e) + i) * pitch + w / 8 * e) e)) ∧
    (4 ≤ (getCore s s.blk.core).cubeQ.length → exec (.mldf f) s = .next (waitFor s (.cube s.blk.core)))

/-- R113, R129: MZERO, MWRZ and MSCL are accepted at the end of the cube queue of the core, with the words that their
registers hold now; no accumulator changes yet. R113, R119: a gang that has joined while the queue was full is
accepted as one pass once there is room, and its members go on. -/
def Obligations.CubeAccepts : Prop :=
  (∀ (s : State) (f : LzF), Quiet s → s.ctx.prefixes = [] → tileOut s.blk f.arow f.mc f.acol f.nc = false →
    (getCore s s.blk.core).cubeQ.length < 4 →
    let accepted := fun (i : Instr) (op : CubeOp → Prop) => ∃ t o, exec i s = .next t ∧ op o ∧
      t = { s with g := { s.g with ctx := t.g.ctx, pmc := t.g.pmc, arriving := t.g.arriving }, cores := t.cores } ∧
      t.ctx = { s.ctx with pc := s.ctx.pc + 8 } ∧
      getCore t s.blk.core = { getCore s s.blk.core with
        cubeQ := (getCore s s.blk.core).cubeQ ++ [⟨s.blk.uid, o, []⟩] } ∧
      ∀ k, k ≠ s.blk.core → getCore t k = getCore s k
    accepted (.mzero f) (fun o => o = .zero f) ∧
    (f.base.toNat + rowsOf f.mc * colsOf f.nc / 32 ≤ s.blk.regs →
      accepted (.mwrz f) (fun o => ∃ words, o = .write f words ∧ ∀ w x, (w, x) ∈ words ↔
        w < rowsOf f.mc * colsOf f.nc ∧ takesPart s.ctx f.g (w % 32) = true ∧
          x = s.ctx.lane (f.base.toNat + w / 32) (w % 32))) ∧
    (f.base.toNat + (scaleCount f + 31) / 32 ≤ s.blk.regs →
      accepted (.mscl f) (fun o => ∃ scales, o = .scale f scales ∧ ∀ i < scaleCount f,
        mget 0 scales i = s.ctx.lane (f.base.toNat + i / 32) (i % 32)))) ∧
  ∀ (s : State) (j : Join) (rest : List Join), s.blk.joined = j :: rest → j.span = false → (∀ b ∈ s.blks, b.uid ≠ s.blk.uid) →
    ((getCore s s.blk.core).cubeQ.length < 4 → ∃ t, exec .cubeAccept s = .next t ∧ t.mem = s.mem ∧ t.blks = s.blks ∧
      t.blk = { s.blk with joined := rest } ∧
      (getCore t s.blk.core).cubeQ = (getCore s s.blk.core).cubeQ ++ [joinJob s s.blk j none (joinMembers s.blk.uid j)] ∧
      (∀ g ∈ t.g :: t.groups, g.uid = s.blk.uid → laneOn j.members g.slot = true → g.run = .ready)) ∧
    (4 ≤ (getCore s s.blk.core).cubeQ.length → (∀ y ∈ rest, y.span = false) → exec .cubeAccept s = .next s)

/-- R113, R124, R126, R129: the cube executes the operation at the head of its queue on the tile of its block: every
element of the tile gets its new value, no other element changes. R126: where an element clamps, SATF is set in every
member that has not exited, and nothing else changes in a group. R124, R110: a float element is the old value, unless it is
overwritten, plus the sum of its products of two or three inputs, each truncated toward zero to 47 bits below the largest, with
the zeros, infinities and NaNs of R124. R125: an integer element is the old value, unless it is overwritten, plus the exact sum
of the products, clamped to 32 bits. -/
def Obligations.CubeExecutes : Prop :=
  (∀ (s : State) (op : CubeOp) (members : List (Nat × Nat)) (rest : List CubeJob),
    (getCore s s.blk.core).cubeQ = ⟨s.blk.uid, op, members⟩ :: rest →
    let runs := fun (tile : Nat → Nat → Bool) (new : Nat → Nat → Lane) => ∃ t, exec .cubePass s = .next t ∧
      (getCore t s.blk.core).cubeQ = rest ∧ t.mem = s.mem ∧
      t.blk = { s.blk with acc := t.blk.acc, accPoison := t.blk.accPoison } ∧
      ∀ row col, col < 128 → accAt t.blk row col = if tile row col then new row col else accAt s.blk row col
    (∀ f a b c, op = .pass f a b c → tileOut s.blk f.arow f.mc f.acol f.nc = false →
      runs (inTile f.arow f.acol f.mc f.nc) fun row col =>
        (cubeElem f a b c (row - f.arow.toNat) (col - 16 * f.acol.toNat) (accAt s.blk row col)).1) ∧
    (∀ f, op = .zero f → tileOut s.blk f.arow f.mc f.acol f.nc = false →
      runs (inTile f.arow f.acol f.mc f.nc) fun _ _ => 0) ∧
    (∀ f scales, op = .scale f scales → tileOut s.blk f.arow f.mc f.acol f.nc = false →
      runs (inTile f.arow f.acol f.mc f.nc) fun row col =>
        BitVec.ofNat 32 (roundF fp32 .rne false false (mulF (decodeF fp32 false (accAt s.blk row col).toNat)
          (decodeF fp32 false (mget 0 scales (if f.hi = 1 then col - 16 * f.acol.toNat else row - f.arow.toNat)).toNat)))) ∧
    (∀ f words, op = .write f words → (words.map (·.1)).Nodup → (∀ w ∈ words, w.1 < rowsOf f.mc * colsOf f.nc) →
      tileOut s.blk f.arow f.mc f.acol f.nc = false →
      runs (fun row col => inTile f.arow f.acol f.mc f.nc row col &&
        words.any fun x => x.1 == (row - f.arow.toNat) * colsOf f.nc + (col - 16 * f.acol.toNat))
        fun row col =>
          ((words.find? fun x => x.1 == (row - f.arow.toNat) * colsOf f.nc + (col - 16 * f.acol.toNat)).map (·.2)).getD 0)) ∧
  (∀ (s : State) (f : LcF) (a b c : List (Nat × Lane)) (members : List (Nat × Nat)) (rest : List CubeJob),
    (getCore s s.blk.core).cubeQ = ⟨s.blk.uid, .pass f a b c, members⟩ :: rest →
    tileOut s.blk f.arow f.mc f.acol f.nc = false →
    let clamps := ∃ i < rowsOf f.mc, ∃ j < colsOf f.nc,
      (cubeElem f a b c i j (accAt s.blk (f.arow.toNat + i) (16 * f.acol.toNat + j))).2 = true
    ∃ t, exec .cubePass s = .next t ∧ ∀ u k, (findGroup s u k).isAt u k = true →
      ((u, k) ∈ members → (findGroup s u k).run ≠ .exited → clamps →
        (findGroup t u k).ctx.status = (findGroup s u k).ctx.status ||| 0x100) ∧
      (¬ clamps ∨ (u, k) ∉ members ∨ (findGroup s u k).run = .exited → findGroup t u k = findGroup s u k)) ∧
  (∀ (f : LcF) (a b c : List (Nat × Lane)) (m n : Nat) (d : Lane), f.ef.toNat < 4 →
    let v := fun (q : List (Nat × Lane)) (row k : Nat) =>
      decodeF ([bf16, fp16, f8a, f8b].getD f.ef.toNat bf16) false (planeElem f.ef q row k)
    let p := fun k => if f.pm = 0 then mulF (v a m k) (v b n k)
      else mulF (mulF (v a m k) (v b n k)) (v c (if f.pm = 1 then m else if f.pm = 2 then n else 0) k)
    let ks := List.range (efK f.ef)
    ∃ sum, cubeElem f a b c m n d = (BitVec.ofNat 32 (roundF fp32 .rne false false
        (if f.ovw = true then sum else addF .rne (decodeF fp32 false d.toNat) sum)), false) ∧
      ((∃ k ∈ ks, p k = .nan) ∨ ((∃ k ∈ ks, p k = .inf false) ∧ ∃ k ∈ ks, p k = .inf true) → sum = .nan) ∧
      (∀ sg, (∀ k ∈ ks, p k ≠ .nan ∧ p k ≠ .inf (!sg)) → (∃ k ∈ ks, p k = .inf sg) → sum = .inf sg) ∧
      ((∀ k ∈ ks, (p k).scaled 0 = some 0) →
        sum.scaled 0 = some 0 ∧ (sum.isNeg = true ↔ ∀ k ∈ ks, (p k).isNeg = true)) ∧
      ∀ (e : Int) (t : Nat → Int),
        (∀ k ∈ ks, ∃ (j : Nat) (u : Int), (p k).scaled (e - 47 - j) = some u ∧ u.natAbs < 2 ^ (48 + j) ∧ RoundsTo .rtz u j (t k)) →
        (∃ k ∈ ks, ∃ (j : Nat) (u : Int), (p k).scaled (e - 47 - j) = some u ∧ 2 ^ (47 + j) ≤ u.natAbs) →
        sum.scaled (e - 47) = some (ks.map t).sum ∧ ((ks.map t).sum = 0 → sum.isNeg = false)) ∧
  (∀ (f : LcF) (a b c : List (Nat × Lane)) (m n : Nat) (d : Lane), 4 ≤ f.ef.toNat →
    let v := fun (q : List (Nat × Lane)) (row k : Nat) => intElem f.ef (planeElem f.ef q row k)
    let sum := ((List.range (efK f.ef)).map fun k => v a m k * v b n k *
      (if f.pm = 0 then 1 else v c (if f.pm = 1 then m else if f.pm = 2 then n else 0) k)).sum
    let x := (if f.ovw = true then 0 else d.toInt) + sum
    let r := cubeElem f a b c m n d
    (-(2 ^ 31) ≤ x ∧ x < 2 ^ 31 → r.1.toInt = x ∧ r.2 = false) ∧ (x < -(2 ^ 31) → r.1 = 0x80000000 ∧ r.2 = true) ∧
      (2 ^ 31 ≤ x → r.1 = 0x7FFFFFFF ∧ r.2 = true))

/-- R117, R119, R120, R115: a lone gang arrives, completes and is accepted at once where the cube queue has room: one
pass joins the queue with the planes that its registers hold, its registers are released with .lr, and the group
goes on. R117, R120, R121, R123: any arrival, of a gang of several members or of a span: a member whose GANG does not fit its
MCUBE raises GANG with detail 4 and latches nothing; a clash with the record, a lost member and members that disagree break the
entry with details 2, 3 and 1; an arrival that is not the last stands at the latch; the last one counts the sequence up, and where
every queue has room the pass is accepted on every block's core and every member retires. -/
def Obligations.LoneGangMultiplies : Prop :=
  (∀ (s : State) (f : LcF), Quiet s → s.ctx.prefixes = [] → s.g.run = .ready → s.g.uid = s.blk.uid → s.g.slot < 32 →
    (∀ b ∈ s.blks, b.uid ≠ s.blk.uid) → (∀ g ∈ s.groups, g.isAt s.g.uid s.g.slot = false) →
    s.blk.phase ≠ .complete → s.blk.joined = [] → isLone s.ctx.gang s.g.slot = true → spanOp s.blk f = false →
    latchOf s.blk false (gangId s.ctx.gang) = ⟨0, (latchOf s.blk false (gangId s.ctx.gang)).seq, none⟩ →
    tileOut s.blk f.arow f.mc f.acol f.nc = false → (getCore s s.blk.core).cubeQ.length < 4 →
    let regs := [0, 1] ++ if f.pm = 0 then [] else [2]
    (∀ p ∈ regs, ∀ r ∈ rowRegs (loneBase f p) (planeRows f p), r < s.blk.regs) →
    ∃ t a b c, exec (.mcube f) s = .next t ∧
      t = { s with
        g := { s.g with ctx := t.g.ctx, pmc := t.g.pmc, arriving := t.g.arriving }, cores := t.cores
        blk := { s.blk with latch := t.blk.latch } } ∧
      (getCore t s.blk.core).cubeQ = (getCore s s.blk.core).cubeQ ++
        [⟨s.blk.uid, .pass f a b c, [(s.g.uid, s.g.slot)]⟩] ∧
      (∀ w < 8 * rowsOf f.mc, mget 0 a w = s.ctx.lane (f.base.toNat + w / 32) (w % 32)) ∧
      (∀ w < 8 * colsOf f.nc, mget 0 b w = s.ctx.lane (f.base.toNat + rowsOf f.mc / 4 + w / 32) (w % 32)) ∧
      (f.pm ≠ 0 → ∀ w < 8 * planeRows f 2, mget 0 c w = s.ctx.lane (loneBase f 2 + w / 32) (w % 32)) ∧
      t.ctx = { s.ctx with pc := s.ctx.pc + 8, v := t.ctx.v, released := t.ctx.released } ∧
      ∀ r l, l < 32 → t.ctx.lane r l =
        if f.lr = true ∧ (∃ p ∈ regs, r ∈ rowRegs (loneBase f p) (planeRows f p)) then 0 else s.ctx.lane r l) ∧
  ∀ (s : State) (f : LcF), Quiet s → s.ctx.prefixes = [] → s.g.run = .ready → s.g.uid = s.blk.uid → s.g.slot < 32 →
    s.blk.phase ≠ .none → ((s.blk :: s.blks).map (·.uid)).Nodup → (∀ g ∈ s.groups, g.isAt s.g.uid s.g.slot = false) →
    tileOut s.blk f.arow f.mc f.acol f.nc = false → (∀ r ∈ mcubeRegs s f, r < s.blk.regs) →
    let span := spanOp s.blk f
    let gid := gangId s.ctx.gang
    let made := composed f s.ctx.gang s.g.slot s.blk.groups span (s.blk.spanPos == 0)
    let ends := fun (p : State → Prop) => ∃ t, exec (.mcube f) s = .next t ∧ p t
    let here := fun x => latchOf (findBlk s x) span gid
    (made = false → exec (.mcube f) s = .next (takeTrap (issued s) (gangTrap 4) 8 none)) ∧
    (made = true → ArrivalClashes s f → ends (ArrivalTraps s f 2)) ∧
    (made = true → ¬ ArrivalClashes s f → ArrivalLost s f → ends (ArrivalTraps s f 3)) ∧
    (made = true → ¬ ArrivalClashes s f → ¬ ArrivalLost s f → ArrivalFull s f → ¬ ArrivalAgrees s f →
      ends (ArrivalTraps s f 1)) ∧
    (made = true → ¬ ArrivalClashes s f → ¬ ArrivalLost s f → ¬ ArrivalFull s f → ends fun t =>
      t = { s with
        g := { s.g with run := .atLatch gid span f }, blk := { s.blk with latch := t.blk.latch, slatch := t.blk.slatch } } ∧
      latchOf t.blk span gid = ⟨(here s.blk.uid).arrived ||| BitVec.ofNat 32 (2 ^ s.g.slot), (here s.blk.uid).seq,
        some ((here s.blk.uid).first.getD (s.ctx.gang, f))⟩ ∧
      ∀ sp i, sp ≠ span ∨ i ≠ gid → latchOf t.blk sp i = latchOf s.blk sp i) ∧
    (made = true → ¬ ArrivalClashes s f → ¬ ArrivalLost s f → ArrivalFull s f → ArrivalAgrees s f →
      (ends fun t => ∀ x ∈ arrivalBlocks s f, latchOf (findBlk t x.uid) span gid = ⟨0, (here x.uid).seq + 1, none⟩) ∧
      ((∀ x ∈ arrivalBlocks s f, x.joined = [] ∧ (getCore s x.core).cubeQ.length < 4 ∧
          ∀ k, laneOn (arrivalPart s f x).arrived k = true → arrivalComposed s f x k) →
        ((arrivalBlocks s f).map (·.core)).Nodup →
        (span = true → ∀ x ∈ arrivalBlocks s f, ∀ y ∈ arrivalBlocks s f, x.spanPos = 0 → y.spanPos = 0 → x = y) →
        ends (ArrivalAccepted s f)))

/-- R113, R129: MRDZ reads the accumulators after every operation ahead of it in the queue has run; that MRDZ and MSTZ run those
operations in their own step is the model's reading (log entry 26). R223: an element that it
reads and that is poisoned makes it trap. R130, R131: MSTZ stores the tile, to scratch where its address register is number 0
and to memory otherwise; SATF is set where a value clamps. -/
def Obligations.AccumulatorTransfers : Prop :=
  (∀ (s : State) (f : LzF), Quiet s → s.ctx.prefixes = [] → tileOut s.blk f.arow f.mc f.acol f.nc = false →
    let d := drainCube s s.blk.core
    let count := rowsOf f.mc * colsOf f.nc / 32
    let poisoned := fun w => mget false d.blk.accPoison
      (accKey (f.arow.toNat + w / colsOf f.nc) (16 * f.acol.toNat + w % colsOf f.nc))
    let reads := fun w => w < rowsOf f.mc * colsOf f.nc ∧ takesPart s.ctx f.g (w % 32) = true
    f.base.toNat + count ≤ s.blk.regs →
    ((∀ w, reads w → poisoned w = false) →
      ∃ t, exec (.mrdz f) s = .next t ∧ t = { d with g := { d.g with ctx := t.g.ctx, pmc := t.g.pmc, arriving := t.g.arriving } } ∧
      t.ctx = { d.ctx with pc := s.ctx.pc + 8, pend := [], v := t.ctx.v, released := t.ctx.released } ∧
      ∀ r l, l < 32 → t.ctx.lane r l =
        let w := 32 * (r - f.base.toNat) + l
        if f.base.toNat ≤ r ∧ r < f.base.toNat + count ∧ takesPart s.ctx f.g l = true then
          accAt d.blk (f.arow.toNat + w / colsOf f.nc) (16 * f.acol.toNat + w % colsOf f.nc)
        else d.ctx.lane r l) ∧
    ((∃ w, reads w ∧ poisoned w = true) →
      exec (.mrdz f) s = .next (takeTrap (issued d) ⟨12, 4, 0, 0, none⟩ 8 none))) ∧
  (∀ (s : State) (f : LzF) (at_ : Nat × Nat → Acc), Quiet s → s.ctx.prefixes = [] →
    tileOut s.blk f.arow f.mc f.acol f.nc = false →
    let d := drainCube s s.blk.core
    let inT := fun e : Nat × Nat => e.1 < rowsOf f.mc ∧ e.2 < colsOf f.nc
    let n := mstzSize f.fmt
    let clamps := (tileOf (rowsOf f.mc) (colsOf f.nc)).any fun e =>
      (mstzValue f (accAt d.blk (f.arow.toNat + e.1) (16 * f.acol.toNat + e.2))).2
    let c := { d.ctx with pc := s.ctx.pc + 8, pend := [], status := setSatf d.ctx.status clamps }
    let place := fun e => (at_ e).idx
    (∀ e, inT e → mget false d.blk.accPoison (accKey (f.arow.toNat + e.1) (16 * f.acol.toNat + e.2)) = false) →
    (∀ m < rowsOf f.mc, (mstzRow f s.ctx m).toNat % 16 = 0) →
    (f.n = 0 → (∀ e, inT e → InScratch d.blk n (mstzAddr f s.ctx e).toNat) →
      let off := fun e => (mstzAddr f s.ctx e).toNat
      ∃ t, exec (.mstz f) s = .next t ∧ t.ctx = c ∧ OnlyScratch d t ∧
        tileStored f d.blk off (mget 0 t.blk.scratch) ∧
        ∀ a, a ∉ tileStorePlaces f off → mget 0 t.blk.scratch a = mget 0 s.blk.scratch a) ∧
    (f.n ≠ 0 → (∀ e, inT e → Reaches d (mstzAddr f s.ctx e) true n (at_ e)) →
      ∃ t, exec (.mstz f) s = .next t ∧ t.ctx = c ∧ OnlyStored d t ∧ MemoryBut s t (tileStorePlaces f place) ∧
        tileStored f d.blk place (mget memDefault t.mem)))

/-- R182, R183, R185: XCPY, XGATH, XSCAT, XRED and XSIG, with a command block that can be read, SPILL, FILL and XPFD
issue a command under a number that no live handle of the block has, of the next generation. The read of a command block
asks for its sectors as a load does (R137); the other three change no cache. That SPILL reads its registers at issue is the
model's reading (log entry 24). -/
def Obligations.EngineIssue : Prop :=
  ∀ (s : State) (f : LxF) (first count : BitVec 8) (len : BitVec 6) (bs : List Byte), Quiet s → s.ctx.prefixes = [] →
    handleRoom s = true →
    let a := s.ctx.readA f.n.toNat
    let issues := fun (i : Instr) (k : Cmd) => ∃ t, exec i s = .next t ∧ Issued s f k t
    let alone := fun (i : Instr) (k : Cmd) => ∃ t, exec i s = .next t ∧ Issued s f k t ∧ t.cores = s.cores ∧ t.dies = s.dies ∧
      t.msgs = s.msgs ∧ t.chan = s.chan ∧ t.g.swapDue = s.g.swapDue
    freeNum s.blk < 256 ∧ (∀ k ∈ s.blk.cmds, k.num ≠ freeNum s.blk) ∧
    (a.toNat % 16 = 0 → readCommand s a = .ok bs →
      issues (.xcpy f) (newCmd s f 0 bs a 0 0 0) ∧ issues (.xgath f) (newCmd s f 1 bs a 0 0 0) ∧
      issues (.xscat f) (newCmd s f 2 bs a 0 0 0) ∧ issues (.xred f) (newCmd s f 3 bs a 0 0 0) ∧
      issues (.xsig f) (newCmd s f 4 bs a 0 0 0)) ∧
    (a.toNat % 128 = 0 → first.toNat + count.toNat < s.blk.regs →
      alone (.spill f first count)
        (newCmd s f 5 (regBytes s.ctx (regRange first.toNat (count.toNat + 1))) a first.toNat (count.toNat + 1)
          (BitVec.ofNat 64 (encode (.spill f first count)))) ∧
      alone (.fill f first count) (newCmd s f 6 [] a first.toNat (count.toNat + 1)
        (BitVec.ofNat 64 (encode (.fill f first count))))) ∧
    alone (.xpfd f len) (newCmd s f 7 [] a 0 (s.ctx.readS len.toNat).toNat (BitVec.ofNat 64 (encode (.xpfd f len))))

/-- R185, R186, R283: WAITH retires on a stale handle and on a final one, whose number is free where the group issued
it, and waits on any other; TESTH never waits and puts the bit of the state into its condition; CANCH asks a pending
command to stop. -/
def Obligations.HandleInstructions : Prop :=
  ∀ (s : State) (h mask : BitVec 6) (c : BitVec 3) (b : Block) (k : Cmd), Quiet s → s.ctx.prefixes = [] → h ≠ 0 →
    let x := s.ctx.readS h.toNat
    badHandle (spanSize s.blk) x = false →
    let bit := stateBit k.state
    let ends := fun (o : Host.Outcome State Fault Refusal) (ctx : Ctx) (cmds : List Cmd) (dropped : Bool) =>
      ∃ t, o = .next t ∧ t.ctx = stepped 4 [] s.ctx ctx ∧ t.mem = s.mem ∧ t.dies = s.dies ∧ t.parts = s.parts ∧
        t.blk = { s.blk with cmds := cmds } ∧ (dropped = true → (getCore t s.blk.core).l1 = []) ∧
        (dropped = false → t.cores = s.cores)
    (handleCmd s x = none →
      ends (exec (.waith h) s) s.ctx s.blk.cmds true ∧
      ends (exec (.testh c mask h) s) (s.ctx.writeC c.toNat (mask.getLsbD 5)) s.blk.cmds true ∧
      ends (exec (.canch h) s) s.ctx s.blk.cmds false) ∧
    (handleCmd s x = some (b, k) →
      (k.isFinal = false →
        exec (.waith h) s = .next (waitFor s (.handle b.uid k.num k.gen)) ∧
        ends (exec (.testh c mask h) s) (s.ctx.writeC c.toNat (mask.getLsbD bit)) s.blk.cmds false) ∧
      (k.isFinal = true →
        let left := if b.uid = s.blk.uid ∧ k.slot = s.g.slot then s.blk.cmds.filter fun y => y.num != k.num else s.blk.cmds
        (waithTrap k = none → ends (exec (.waith h) s) s.ctx left true) ∧
        (∀ t, waithTrap k = some t → exec (.waith h) s = .next (takeTrap (issued (observe s b k)) t 4 none)) ∧
        ends (exec (.testh c mask h) s) (s.ctx.writeC c.toNat (mask.getLsbD bit)) left true ∧
        ends (exec (.canch h) s) s.ctx s.blk.cmds false) ∧
      (k.state = .pending → b.uid = s.blk.uid →
        ends (exec (.canch h) s) s.ctx
          (s.blk.cmds.map fun y => if y.num = k.num then { y with cancelReq := true } else y) false))

/-- R187, R184, R186, R190: how the engine takes a command of the block in focus from start to end: it starts it or rejects it,
is done with it after its last element, stops it where asked to; a peer's acknowledgement performs an element. R189, R356 to
R358, R191: one element of an XCPY without conversion, an XGATH, an XSCAT, an XRED, an XSIG, a SPILL, a FILL and an XPFD,
between places in any space: what it writes where, and that no other byte changes. R190: a MEMF on its first access makes the
handle faulted-retry with a fault record, a PROT there cancels it, and nothing is written. That a command is rejected as it
starts and not at issue, and the order of elements, are the model's readings (log entry 25); where a miss register is wanting
the element waits (log entry 28). -/
def Obligations.EngineProgress : Prop :=
  (∀ (s : State) (num : BitVec 8) (k : Cmd), s.blk.phase = .resident →
    s.blk.cmds.find? (fun k => k.num == num.toNat) = some k →
    let ends := fun (i : Instr) (st : CmdState) => ∃ t, exec i s = .next t ∧ t.mem = s.mem ∧
      ∀ y ∈ t.blk.cmds, y.num = num.toNat → y.state = st
    let becomes := fun (i : Instr) (f : Cmd → Cmd) => ∃ t, exec i s = .next t ∧ t.mem = s.mem ∧
      t.blk = { s.blk with cmds := s.blk.cmds.map fun y => if y.num = num.toNat then f y else y }
    (k.state = .pending → k.started = false → k.cancelReq = false → earlierWaits s s.blk k = false →
      (commandOk s s.blk k = false → ends (.engineStart num) .rejected) ∧
      (commandOk s s.blk k = true → cmdTotal k = 0 → ends (.engineStart num) .done) ∧
      (commandOk s s.blk k = true → cmdTotal k ≠ 0 → becomes (.engineStart num) fun y => { y with started := true })) ∧
    (k.state = .pending → k.started = true → k.ack = false → k.stop = cmdTotal k → ends (.engineCompletion num) .done) ∧
    (k.state = .pending → k.started = true → k.ack = false → k.stop < cmdTotal k → k.cancelReq = true →
      ends (.engineCancelStop num) .cancelled) ∧
    (k.ack = true → becomes (.peerAcknowledgement num) fun y => { y with ack := false, stop := k.stop + 1 })) ∧
  (∀ (s : State) (num : BitVec 8) (k : Cmd) (r p q : Place), EngineAt s num k → s.early = [] →
    let b := s.blk
    let reads := fun (u : State) (p : Place) (n : Nat) => refused u p = false ∧ placePoisoned u p n = false
    let moves := fun (q : Place) (bs : List Byte) => ∃ t, exec (.engineElement num) s = .next t ∧ PlaceHolds t q bs ∧
      OnlyPlace s t q bs.length ∧ EngineMoves s t num k (isPeer q) ∧ t.g = s.g
    let alone := fun (u : State) (q : Place) => ∀ a, q = .local a → ∀ op ∈ u.unitOps, unitOpAt u (a.idx / 128) op = false
    let src := (cmdU k 16 9 : Int)
    let dst := (cmdU k 32 9 : Int)
    (let n := srcBytes k
     let s1 := placeAsks s b p
     elemPlace s b k (cmdU k 48 1) (src + cmdDisp k 72 k.stop) n false true = .ok p → reads s p n →
     elemPlace s1 b k (cmdU k 49 1) (dst + cmdDisp k 104 k.stop) (dstBytes k) true true = .ok q → refused s1 q = false →
      (k.kind = 0 → cmdU k 51 1 % 2 = 0 → moves q (placeBytes s p n)) ∧
      (k.kind = 3 → (∀ i, q ≠ .host i) → placePoisoned s1 q n = false → alone s1 q →
        moves q (leBytes n (atomNew (cmdU k 51 1) (8 * n) (leNat (placeBytes s1 q n)) (leNat (placeBytes s p n)) 0)))) ∧
    (let n := gathBytes k
     let iw := 2 ^ cmdU k 68 1
     let s1 := placeAsks s b r
     let s2 := placeAsks s1 b p
     let x := leNat (placeBytes s r iw)
     let o := (if cmdU k 70 1 = 1 then (x : Int) else sextN (8 * iw) x) * ((2 ^ cmdU k 69 1 : Nat) : Int)
     let c := (k.stop : Int) * cmdI k 80 8
     let from_ := if k.kind = 1 then src + o else src + c
     let into := if k.kind = 1 then dst + c else dst + o
     (k.kind = 1 ∨ k.kind = 2) → (if k.kind = 1 then from_ else into) % (n : Int) = 0 →
     elemPlace s b k (cmdU k 66 1) ((cmdU k 48 9 : Int) + ((k.stop * iw : Nat) : Int)) iw false false = .ok r → reads s r iw →
     elemPlace s1 b k (cmdU k 64 1) from_ n false false = .ok p → reads s1 p n →
     elemPlace s2 b k (cmdU k 65 1) into n true false = .ok q → refused s2 q = false → moves q (placeBytes s1 p n)) ∧
    (k.kind = 4 → let n := sigBytes k
      elemPlace s b k (cmdU k 32 1) src n true true = .ok q → (∀ i, q ≠ .host i) → reads s q n → alone s q →
      moves q (leBytes n (atomNew (cmdU k 33 1) (8 * n) (leNat (placeBytes s q n)) (cmdU k 40 8) 0))) ∧
    (let va := k.addr + BitVec.ofNat 72 (128 * k.stop)
     (k.kind = 5 → globalPlace s b k va true false = .ok q → refused s q = false → 128 * (k.stop + 1) ≤ k.bytes.length →
      moves q ((k.bytes.drop (128 * k.stop)).take 128)) ∧
     (k.kind = 6 → globalPlace s b k va false false = .ok p → reads s p 128 → s.g.isAt b.uid k.slot = true →
      ∃ t, exec (.engineElement num) s = .next t ∧ t.mem = s.mem ∧ EngineMoves s t num k false ∧
        let v := k.first + k.stop
        (∀ x l, l < 32 → t.ctx.lane x l =
          if x = v then BitVec.ofNat 32 (leNat (((placeBytes s p 128).drop (4 * l)).take 4)) else s.ctx.lane x l) ∧
        (∀ x, mget false t.ctx.fillPend x = if x = v then false else mget false s.ctx.fillPend x) ∧
        mget false t.ctx.released v = false ∧ ∀ l < 32, mget false t.g.poisonV (32 * v + l) = false) ∧
     (k.kind = 7 → (∀ pa leaf, translate s b.core b.vf (va - BitVec.ofNat 72 (k.addr.toNat % 128)) = .ok pa leaf →
        engineQueues s b k leaf (accIdx s b.core leaf pa) false = false) →
      ∃ t, exec (.engineElement num) s = .next t ∧ t.mem = s.mem ∧ t.hostMem = s.hostMem ∧ t.peerMem = s.peerMem ∧ t.g = s.g ∧
        t.groups = s.groups ∧ t.faults = s.faults ∧ EngineMoves s t num k false))) ∧
  ∀ (s : State) (num : BitVec 8) (k : Cmd) (va : Addr) (write : Bool), EngineAt s num k → FirstAccess k va write →
    (∀ lvl malf, translate s s.blk.core s.blk.vf va = .fault lvl malf → ∃ t, exec (.engineElement num) s = .next t ∧ t.g = s.g ∧
      t.blk = { s.blk with cmds := s.blk.cmds.map fun y =>
        if y.num = num.toNat then { y with state := .faultedRetry, fault := some s.faultSeq } else y } ∧
      ⟨s.faultSeq, s.blk.vf, .engine s.blk.uid k.num, va, none, if write then kindEngWrite else kindEngRead⟩ ∈ t.faults) ∧
    (∀ pa leaf d, translate s s.blk.core s.blk.vf va = .ok pa leaf →
      protDetail s s.blk.vf (findGroup s s.blk.uid k.slot).ctx.handler write false true pa leaf = some d →
      ∃ t, exec (.engineElement num) s = .next t ∧ t.mem = s.mem ∧ ∀ y ∈ t.blk.cmds, y.num = num.toNat →
        y.state = .cancelled ∧ y.protVa = some va ∧ ∃ x ∈ s.blk.cmds, x.num = num.toNat ∧ y.stop = x.stop)

/-- R198: LAUNCH puts the record that it reads behind those of a port of its own function, and gives a handle with the
port and the launch id; a port of another function raises PROT, a full queue makes it wait. -/
def Obligations.LaunchFromAKernel : Prop :=
  ∀ (s : State) (d : BitVec 6) (a : BitVec 4) (r : BitVec 512), Quiet s → s.ctx.prefixes = [] →
    let va := s.ctx.readA a.toNat
    let port := recField r 31 1 % 64
    va.toNat % 64 = 0 → readRecord s va = .ok r →
    ((getPort s port).owner = some s.blk.vf → (getPort s port).queue.length < 256 →
      ∃ t, exec (.launch d a) s = .next t ∧
        t = { s with
          g := { s.g with ctx := t.g.ctx, pmc := t.g.pmc, arriving := t.g.arriving, swapDue := t.g.swapDue }
          ports := t.ports, uidNext := s.uidNext + 1, cores := t.cores, dies := t.dies, msgs := t.msgs, chan := t.chan } ∧
        t.ctx = stepped 4 [] s.ctx (s.ctx.writeS d.toNat
          (0x8000000000000000 ||| (BitVec.ofNat 64 port <<< 32) ||| BitVec.ofNat 64 (recLid r))) ∧
        getPort t port = { getPort s port with queue := (getPort s port).queue ++ [⟨s.uidNext, true, r⟩] } ∧
        ∀ k, k ≠ port → getPort t k = getPort s k) ∧
    ((getPort s port).owner ≠ some s.blk.vf →
      exec (.launch d a) s = .next (takeTrap (issued s) ⟨5, 9, 0, va, none⟩ 4 none)) ∧
    ((getPort s port).owner = some s.blk.vf → 256 ≤ (getPort s port).queue.length →
      exec (.launch d a) s = .next (waitFor s (.port port)))

/-- R198, R201: LCANCEL of a launch id that no launch under way bears takes its queued records out of the port; its condition
says whether there were any, and its scalar gets the number of dispatched blocks, which is 0. The host's cancels do the same
through a port's own function, and nothing otherwise (R245). A cancel with KILL of a launch with blocks dispatched discards
every block of it, and the launch is gone (R202); without KILL it stands cancelled and its blocks stay. -/
def Obligations.Cancels : Prop :=
  (∀ (s : State) (c : BitVec 3) (kill : Bool) (h : BitVec 6) (port : Nat) (lid : BitVec 32), port < 64 →
    namedLaunches s port lid.toNat = [] →
    (Quiet s → s.ctx.prefixes = [] →
      s.ctx.readS h.toNat = 0x8000000000000000 ||| (BitVec.ofNat 64 port <<< 32) ||| lid.zeroExtend 64 →
      ∃ t, exec (.lcancel c kill h) s = .next t ∧ NoneQueued t port lid.toNat ∧ t.blk = s.blk ∧ t.groups = s.groups ∧
        t.ctx = stepped 4 [] s.ctx ((s.ctx.writeC c.toNat
          ((uncheckedRecords (getPort s port)).any fun r => recLid r.bits == lid.toNat)).writeS h.toNat 0)) ∧
    (portOpen s port = true →
      (∃ t, exec (.hostCancel port lid) s = .next t ∧ NoneQueued t port lid.toNat ∧ t.g = s.g ∧ t.blk = s.blk) ∧
      ∃ t, exec (.hostCancelKill port lid) s = .next t ∧ NoneQueued t port lid.toNat ∧ t.g = s.g ∧ t.blk = s.blk) ∧
    (portOpen s port = false → exec (.hostCancel port lid) s = .next s ∧ exec (.hostCancelKill port lid) s = .next s)) ∧
  (∀ (s : State) (port : Nat) (lid : BitVec 32) (l : Launch), namedLaunches s port lid.toNat = [l] → l.dispatched ≠ 0 →
    (∀ x ∈ s.launches, x.key = l.key → x = l) → NoneQueued s port lid.toNat → portOpen s port = true →
    (∃ t, exec (.hostCancelKill port lid) s = .next t ∧ (∀ b ∈ allBlocks t, b.launch ≠ l.key) ∧
      findLaunch t l.key = none) ∧
    (∃ t, exec (.hostCancel port lid) s = .next t ∧ allBlocks t = allBlocks s ∧ t.g = s.g ∧
      ∃ x, findLaunch t l.key = some x ∧ (l.state ≠ .killed → x.state = .cancelled)))

/-- R192: the write of the last 8 bytes of a record puts the staged 64 bytes behind the port's records, or sets OVF
where 256 wait already. R8, R245: a port that is reached through no function of its own ignores it, and reads as zero. The
layout of QSTAT, and that a read of it clears OVF and CROVF and nothing else of the port. -/
def Obligations.IngressPorts : Prop :=
  (∀ (s : State) (port : Nat) (last : BitVec 64), portOpen s port = true →
    ((getPort s port).queue.length < 256 → ∃ t r, exec (.recordEnqueue port last) s = .next t ∧
      (getPort t port).queue = (getPort s port).queue ++ [⟨s.uidNext, false, r⟩] ∧
      r.extractLsb' 448 64 = last ∧
      (∀ k < 56, r.extractLsb' (8 * k) 8 = mget 0 (getPort s port).staged k) ∧
      t = { s with ports := t.ports, uidNext := s.uidNext + 1 } ∧ ∀ k, k ≠ port → getPort t k = getPort s k) ∧
    (256 ≤ (getPort s port).queue.length → ∃ t, exec (.recordEnqueue port last) s = .next t ∧
      (getPort t port).queue = (getPort s port).queue ∧ (getPort t port).ovf = true ∧ t = { s with ports := t.ports })) ∧
  (∀ (s : State) (port : Nat) (last : BitVec 64), portOpen s port = false →
    exec (.recordEnqueue port last) s = .next s ∧ exec (.qstatRead port) s = .next { s with hostData := 0 }) ∧
  (∀ (s : State) (port : Nat), portOpen s port = true → (getPort s port).queue.length ≤ 256 →
    ∃ t, exec (.qstatRead port) s = .next t ∧ t = { s with ports := t.ports, hostData := t.hostData } ∧
      getPort t port = { getPort s port with ovf := false, crovf := false } ∧
      t.hostData.getLsbD 45 = (getPort s port).crovf ∧ t.hostData.getLsbD 44 = (getPort s port).ovf ∧
      t.hostData.getLsbD 43 = (getPort s port).loadw ∧ t.hostData.getLsbD 42 = (getPort s port).waitw ∧
      t.hostData.getLsbD 41 = (getPort s port).pwrw ∧
      t.hostData.extractLsb' 32 9 = BitVec.ofNat 9 (256 - (getPort s port).queue.length) ∧
      t.hostData.extractLsb' 0 32 = (match (getPort s port).queue with
        | r :: _ => r.bits.extractLsb' 480 32
        | [] => 0))

/-- R194, R195, R196: the check of a head record: it waits with LOADW for its code object, it is rejected with status 1 in its
completion entry and leaves the queue, or its launch stands at the port; no block starts yet. That CRHEAD advances where the
entry cannot be written, and what becomes of the records of a load that fails, are the model's readings (log entries 34 and 36).
R197, R207: the test of a port's waits sets WAITW by them; a block deferred for 150,000 counts is eligible. R236: the load of
the code object that a head record waits for makes it resident with its kernels and its emulation routines, where its image
passes the checks; a registry entry without an image completes the records that name it. Where the loader places a section, and
whether a signature holds, are free values (log entries 14 and 16); where its choice does not fit it chooses anew. -/
def Obligations.HeadRecords : Prop :=
  (∀ (s : State) (port vf : Nat) (q : QRec) (rest : List QRec) (m : Module) (k : Kernel) (index d : Nat),
    (getPort s port).owner = some vf → (getPort s port).queue = q :: rest → (getPort s port).checked = none →
    copyWaits s port = false →
    let after := fun (p : State → Prop) => ∃ t, exec (.recordHeadCheck port) s = .next t ∧ p t ∧
      t.g = s.g ∧ t.blk = s.blk ∧ t.blks = s.blks ∧ t.groups = s.groups
    (recIndex q.bits = none → after fun t => (getPort t port).loadw = true ∧ (getPort t port).queue = q :: rest) ∧
    (recIndex q.bits = some index → findModule s vf index = none →
      after fun t => (getPort t port).loadw = true ∧ (getPort t port).queue = q :: rest) ∧
    (recIndex q.bits = some index → findModule s vf index = some m → unloadHolds s vf index q.num = false →
      (recordDetail s vf m q.dev port q.bits = some d →
        after fun t => (getPort t port).queue = rest ∧ t.launches = s.launches ∧
          (ringRoom (getPort s port) = true → (getPort t port).crhead = (getPort s port).crhead + 1 ∧
            EntryStands s t port (completionEntry (recLid q.bits) 1 (BitVec.ofNat 8 d) 0)) ∧
          (ringRoom (getPort s port) = false → (getPort t port).crovf = true)) ∧
      (recordDetail s vf m q.dev port q.bits = none → kernelOf m q.bits = some k → (getFunc s vf).reccount = 0 →
        after fun t => ∃ l, t.launches = s.launches ++ [l] ∧ (getPort t port).checked = some l.key ∧ l.record = q.bits ∧
          l.vf = vf ∧ l.kernel = k ∧ l.dispatched = 0 ∧ (getPort t port).queue = q :: rest ∧
          (getPort t port).waitw = !recordWaits s vf q.bits))) ∧
  (∀ (s : State) (port key : Nat) (l : Launch), (getPort s port).checked = some key → findLaunch s key = some l →
    l.dispatched = 0 →
    (∃ t, exec (.waitConditionTest port) s = .next t ∧ t = { s with ports := t.ports } ∧
      getPort t port = { getPort s port with waitw := !recordWaits s l.vf l.record }) ∧
    (∀ x ∈ s.deferred, x.port = port → x.eligible = false → 150000 ≤ liveClock s - x.since →
      ∃ t, exec (.deferralEligibility port) s = .next t ∧ { x with eligible := true } ∈ t.deferred ∧
        t = { s with deferred := t.deferred, dies := t.dies })) ∧
  ∀ (s : State) (port vf index a : Nat) (q : QRec) (rest : List QRec) (emu : List EmuEntry) (secs : List (List Byte)), port < 64 →
    (getPort s port).owner = some vf → (getPort s port).queue = q :: rest → (getPort s port).checked = none →
    recIndex q.bits = some index → findModule s vf index = none →
    unloadHolds s vf index q.num = false →
    (imageAddr s vf index = none → ∃ t, exec (.codeObjectLoad port) s = .next t ∧ t.modules = s.modules ∧ t.g = s.g ∧
      ∀ r ∈ (getPort t port).queue, recIndex r.bits ≠ some index) ∧
    (imageAddr s vf index = some a → imageHeaderOk s a = true →
      signatureOk s vf a = true → choicesFit s vf a s.uidNext = true →
      boundEntries s a (sectionBase s.uidNext 0) = some emu →
      relocateAll s a s.uidNext (List.range ((section_ s a 6).2 / 16))
        ((List.range 4).map fun i => imageBytes s a (section_ s a i).1 (section_ s a i).2) = some secs →
      ∃ t m, exec (.codeObjectLoad port) s = .next t ∧ findModule t vf index = some m ∧ m.kernels = kernelTable s a ∧
        m.emu = emu ∧ m.text = sectionBase s.uidNext 0 ∧ m.size = (section_ s a 0).2 ∧ t.g = s.g ∧ t.blk = s.blk ∧
        t.ports = s.ports)

/-- R25, R199, R200: a port's turn to latch: the next span of its launch takes the cores that were chosen, its blocks
with the next indices of the grid, and the launch has dispatched them. R21: the admission of a latched block without
a stack: each of its groups stands ready at the kernel's entry, with the argument pointer in a0 and the record's
copy in a1, in the partition that its slot gives. The cycle of the dispatcher is the model's reading of R199 (log
entry 39). -/
def Obligations.LatchingAndAdmission : Prop :=
  (∀ (s : State) (port key : Nat) (l : Launch) (d : Demand) (cores : List (Nat × Nat)),
    let s0 := dispatchCycle s
    frontOf s0 port = .fresh key → findLaunch s0 key = some l → frontDemand s0 port = some d →
    choosePlace s0 port d = .at cores → hasTurn s0 port = true →
    ∃ t new, exec (.dispatchLatch port) s = .next t ∧ t.blks = s.blks ++ new ∧ new.length = cores.length ∧
      t.groups = s.groups ∧ t.g = s.g ∧ t.mem = s.mem ∧ hasNat t.served port = true ∧
      ∀ i b, new[i]? = some b → b.launch = l.key ∧ b.vf = l.vf ∧ some b.core = (cores[i]?).map (·.1) ∧
        b.idx = blockIndex (recGrid l.record) (l.next + i) ∧ b.phase = (if i = 0 then .latched else .reserved) ∧
        b.groups = recField l.record 24 1 ∧ b.regs = 8 * recField l.record 25 1 ∧ b.uid = s.uidNext + i) ∧
  (∀ (s : State) (uid : Nat), (findBlk s uid).phase = .latched → stackWaits s uid = false → (findBlk s uid).stack = 0 →
    (∀ g ∈ s.g :: s.groups, g.uid ≠ uid) →
    let b := findBlk s uid
    ∃ t, exec (.blockAdmission uid) s = .next t ∧ t.mem = s.mem ∧ t.g = s.g ∧
      ((findBlk t uid).phase = .admitted ∨ (findBlk t uid).phase = .resident) ∧
      ∀ j < b.groups, ∃ g ∈ t.groups, g.uid = uid ∧ g.slot = j ∧ g.run = .ready ∧ g.part = (b.pstart + j) % 4 ∧
        g.ctx.pc = b.entry ∧ g.ctx.readA 0 = b.arg ∧ g.ctx.readA 1 = b.recAddr ∧ g.ctx.exec = BitVec.allOnes 32 ∧
        g.ctx.stack = [])

/-- R31, R24, R195, R206: a block all of whose groups have exited and whose commands are final completes: its groups are gone
and it holds no room of its core (log entry 46); a launch whose last block has completed is gone, with its completion entry
written where the ring has room and the entry can be written, and CROVF set where it has none. That CRHEAD advances whatever
becomes of the write is the model's reading (log entry 34). -/
def Obligations.Completion : Prop :=
  ∀ (s : State) (uid key : Nat) (l : Launch),
    ((findBlk s uid).phase = .resident → (∀ g ∈ groupsOf s uid, g.run = .exited) → blockQuiet s (findBlk s uid) = true →
      ∃ t, exec (.blockCompletion uid) s = .next t ∧ groupsOf t uid = [] ∧ holdsRoom (findBlk t uid) = false ∧
        t.mem = s.mem) ∧
    (findLaunch s key = some l → (∀ b ∈ allBlocks s, b.launch ≠ key) → l.state = .active →
      gridSize (recGrid l.record) ≤ l.next → ∃ t, exec (.launchCompletion key) s = .next t ∧ findLaunch t key = none ∧
        t.g = s.g ∧ t.blks = s.blks ∧
        (ringRoom (getPort s l.port) = true → (getPort t l.port).crhead = (getPort s l.port).crhead + 1 ∧
          (recField l.record 30 1 / 4 % 2 = 0 → EntryStands s t l.port (completionEntry (recLid l.record) 0 0 l.dispatched))) ∧
        (ringRoom (getPort s l.port) = false → (getPort t l.port).crovf = true))

/-- R203, R218, R220, R221: victims of a pre-emption stop at instructions that they have not retired; a stopped block without a
furrow is saved and leaves its core; a saved block is restored to the core that was chosen. R54, R55, R220, R221: a save writes
the context areas of the block and its groups, a restore reads them back under the key of the save; what is read back of an area
is what a group or a block held when it was written: registers, masks, stack, counters, accumulators and scratch, of a released
register zeros without poison; the regions of its furrows stay as they are. R190, R217: a command whose MEMF was answered while
its block was saved goes on or has ended. What a pre-emption keeps of faults, and the order in which spans are restored, are the
model's readings (log entry 37); where an area lies is the model's too (log entry 32). -/
def Obligations.PreemptionSaveRestore : Prop :=
  (∀ (s : State) (port uid : Nat) (d : Demand) (us : List Nat) (cores : List (Nat × Nat)),
    (frontDemand s port = some d → choosePlace s port d = .noRoom →
      leastVictims ((candidates d.size).filterMap (victimsAt s d)) = some us → us ≠ [] →
      ∃ t, exec (.preemption port) s = .next t ∧ t.mem = s.mem ∧
        (∀ b ∈ t.blk :: t.blks, b.uid ∈ us → b.phase = .stopping ∨ b.phase = .leaving) ∧
        (s.g.uid ∈ us → s.g.window = none → s.g.undo = none → t.g.ctx.pc = startPc s.ctx ∧ t.g.ctx.prefixes = [])) ∧
    ((findBlk s uid).phase = .stopping → (∀ x ∈ spanBlocks s (findBlk s uid), x.joined = []) →
      (∀ k ∈ (findBlk s uid).cmds, k.ack = false ∧ ¬(k.kind = 4 ∧ k.state = .pending)) →
      (∀ g ∈ groupsOf s uid, g.trapReq = none) → (∀ p, (getPart s (partKey (findBlk s uid).core p)).furrow = none) →
      ∃ t, exec (.contextSave uid) s = .next t ∧ (findBlk t uid).phase = .saved ∧ t.mem = s.mem ∧
        (∀ k slot, hasPair (getPart t k).active uid slot = false ∧ hasPair (getPart t k).pending uid slot = false) ∧
        (((groupsOf s uid).map (·.slot)).Nodup → (∀ g ∈ groupsOf s uid, g.slot < 32) →
          (∀ g ∈ groupsOf t uid, mget [] t.areas (areaKey uid g.slot) = groupArea (findBlk t uid) g) ∧
          ∃ exited span, mget [] t.areas (areaKey uid 32) =
            blockArea (findBlk t uid) exited span (mget [] s.areas (areaKey uid 32)))) ∧
    (let s0 := dispatchCycle s
     frontOf s0 (findBlk s uid).port = .restore [uid] → frontDemand s0 (findBlk s uid).port = some d →
      (findBlk s uid).phase = .saved → choosePlace s0 (findBlk s uid).port d = .at cores → cores.length = 1 →
      hasTurn s0 (findBlk s uid).port = true →
      ∃ t, exec (.blockRestore uid) s = .next t ∧ t.mem = s.mem ∧ some (findBlk t uid).core = cores.head?.map (·.1) ∧
        ((findBlk t uid).phase = .resident ∨ (findBlk t uid).phase = .complete) ∧
        (∀ y ∈ (findBlk t uid).cmds, y.state = .faultedRetry → y.fault.isSome = true) ∧
        (let v := areaTag s (findBlk s uid).vf
         let b := blockFrom (mget [] s.areas (areaKey uid 32)) [] (findBlk s uid)
         mget 0 s.areaTags (areaPartKey uid 32 0) = v → (∀ g ∈ groupsOf s uid, mget 0 s.areaTags (areaPartKey uid g.slot 0) = v) →
          (findBlk t uid).acc = b.acc ∧ (findBlk t uid).scratch = b.scratch ∧ (findBlk t uid).fifo = b.fifo ∧
          (findBlk t uid).furrows = (findBlk s uid).furrows ∧
          ((∀ k ∈ b.cmds, k.state = .faultedRetry → k.fault.isSome = true) →
            ∀ g ∈ groupsOf t uid, ∃ g0 ∈ groupsOf s uid, g0.slot = g.slot ∧
              let c := (groupFrom (mget [] s.areas (areaKey uid g.slot)) (findBlk s uid).regs g0).ctx
              { g.ctx with stack := c.stack } = c ∧
              ((∀ i e, g0.ctx.stack[i]? = some e → 16 ≤ i → e.tag = v) → shown g.ctx.stack = shown c.stack))))) ∧
  (∀ (b : Block) (g g0 : Group), GroupFits b g →
    let h := groupFrom (groupArea b g) b.regs g0
    let c := h.ctx
    let d := g.ctx
    c.pc = d.pc ∧ c.exec = d.exec ∧ c.fmt = d.fmt ∧ c.status = d.status ∧ c.gang = d.gang ∧ c.handler = d.handler ∧
    c.trapInfo = d.trapInfo ∧ c.trapPc = d.trapPc ∧ c.trapVa = d.trapVa ∧ c.trapVah = d.trapVah ∧
    (g0.ctx.stack = d.stack ∨ g0.ctx.stack.length ≤ 16 → shown c.stack = shown d.stack) ∧
    (∀ k < 64, c.readS k = d.readS k) ∧ (∀ k < 16, c.readA k = d.readA k) ∧
    (∀ k < 8, c.readP k = d.readP k ∧ c.readC k = d.readC k) ∧ (∀ k < 16, mget 0 h.pmc k = mget 0 g.pmc k) ∧
    (∀ r < 256, c.isReleased r = d.isReleased r ∧ mget false c.fillPend r = mget false d.fillPend r) ∧
    (∀ r < 256, ∀ l < 32, d.isReleased r = true → mget false h.poisonV (32 * r + l) = false) ∧
    ∀ r < b.regs, ∀ l < 32, c.lane r l = if d.isReleased r then 0 else d.lane r l) ∧
  ∀ (b : Block) (exited : Nat) (span : List Block) (old m0 : List (Nat × Byte)), BlockFits b span → mwf 0 old = true →
    let c := blockFrom (blockArea b exited span old) m0 b
    (∀ p o, (∃ f, (p, f) ∈ b.furrows) → p < 4 → furrowBase p ≤ o → o < furrowBase (p + 1) →
      mget 0 (blockArea b exited span old) o = mget 0 old o) ∧
    (∀ k < 128 * b.accrows, mget 0 c.acc k = mget 0 b.acc k) ∧ (∀ k < b.lstore, fifoOf c k = fifoOf b k) ∧
    ∀ a < 32768 * b.lstore, fifoOf b (a / 32768) = [] → mget 0 c.scratch a = mget 0 b.scratch a

/-- R87, R88, R89, R91, R289: FRWON loads a plan that passes its checks, parks the other groups of its partition and
makes its group the owner; FRWOFF ends a furrow whose sinks are drained and gives its counts, FRWKILL ends it at
once, FRWDEP records a depth that the pool allows. -/
def Obligations.FurrowInstructions : Prop :=
  (∀ (s : State) (n : BitVec 4) (p : Plan), Quiet s → s.ctx.prefixes = [] → (s.ctx.readA n.toNat).toNat % 16 = 0 →
    validPlan s (s.ctx.readA n.toNat) s.ctx = .ok p →
    (furrowHeld s s.blk.core s.g.part = false → ∃ t f, exec (.frwon n) s = .next t ∧ t.g.fown = true ∧
      t.ctx = { passed s with fstat := 0x1000000000 } ∧ t.mem = s.mem ∧ t.blk = s.blk ∧
      (getPart t (myPart s)).furrow = some f ∧ f.uid = s.g.uid ∧ f.slot = s.g.slot ∧ f.plan = p ∧ f.fmt = s.ctx.fmt ∧
      f.step = 0 ∧ f.suspended = false ∧ f.drained = [] ∧
      (∀ g ∈ t.groups, g.uid = s.blk.uid → s.blk.phase = .resident → g.part = s.g.part → g.isAt s.g.uid s.g.slot = false →
        g.run ≠ .absent → g.parked = true)) ∧
    (furrowHeld s s.blk.core s.g.part = true → exec (.frwon n) s = .next (waitFor s .furrow)) ∧
    ((getPart s (myPart s)).furrow.isSome = true → furrowHeld s s.blk.core s.g.part = true)) ∧
  (∀ (s : State) (d a q : BitVec 6) (c : BitVec 3) (f : Furrow), QuietOwner s → s.ctx.prefixes = [] →
    (getPart s (myPart s)).furrow = some f → f.uid = s.g.uid → f.slot = s.g.slot → f.suspended = false →
    let counts := BitVec.ofNat 64 (s.ctx.fstat.toNat % 2 ^ 32)
    let rest := s.ctx.fstat &&& ~~~(0x1000000000 : BitVec 64)
    (sinksDrained f = true → counts = 0 ∨ f.plan.flags.getLsbD 0 = false →
      ∃ t, exec (.frwoff d) s = .next t ∧ t.g.fown = false ∧ t.mem = s.mem ∧ (getPart t (myPart s)).furrow = none ∧
        t.ctx = { s.ctx.writeS d.toNat counts with
          pc := s.ctx.pc + 4, fstat := rest, status := setErrf s.ctx.status (counts != 0) }) ∧
    (sinksDrained f = false → ∃ t, exec (.frwoff d) s = .next t ∧ t.g.run = .atFrwoff d.toNat ∧ t.ctx = s.ctx ∧
      t.parts = s.parts) ∧
    (∃ t, exec .frwkill s = .next t ∧ t.g.fown = false ∧ t.mem = s.mem ∧ (getPart t (myPart s)).furrow = none ∧
      t.ctx = { passed s with fstat := rest }) ∧
    (let depth := (s.ctx.readS a.toNat).toNat
     let allowed := decide (1 ≤ depth) && decide (depth ≤ 64) && decide (q.toNat < f.plan.nq) && !isConst f.plan q.toNat &&
       decide (poolWith f q.toNat depth ≤ s.blk.fpool)
     ∃ t, exec (.frwdep c q a) s = .next t ∧ t.ctx = { (passed s).writeC c.toNat allowed with prefixes := [] } ∧
       t.mem = s.mem ∧ (allowed = false → t.parts = s.parts) ∧
       (allowed = true → (getPart t (myPart s)).furrow = some (recordDepth f q.toNat depth))))

/-- R81, R84, R286: firings of a stage replica without a gate and without error tokens: STEER by its predicate, MERGE
from the queue that its predicate names, whatever the other input holds, a sink into its element, another stage with what it
computes into its one output queue. A queue named in two fields gives one token (R81). -/
def Obligations.StageFirings : Prop :=
  ∀ (s : State) (f : Furrow) (i r : Nat) (x p : Lane), (getPart s (myPart s)).furrow = some f → StageFree f i r →
    let st := planStage f.plan i
    let gives := fun (g : Furrow) (q : Nat) (v : Lane) => setTokens g q r (tokensOf g q r ++
      [⟨if queuePred (planQueue f.plan q) then v &&& 1 else v, false, false, passBy (planQueue f.plan q)⟩])
    (stageOp8 st = 0xA2 → sidesReady f i r = true → operandOf f i r 1 = some (x, false) → operandOf f i r 2 = some (p, false) →
      let q := if p.getLsbD 0 then stageField st 0 else stageField st 3
      hasRoom f r q = true → ∃ t, exec (.steer i r) s = .next t ∧
        FurrowBecomes s t (gives (consumeAll f r i (stageIns st)) q x)) ∧
    (stageOp8 st = 0xA3 → operandOf f i r 3 = some (p, false) →
      let k := if p.getLsbD 0 then 1 else 2
      operandOf f i r k = some (x, false) → hasRoom f r (stageField st 0) = true →
      ∃ t, exec (.merge i r) s = .next t ∧
        FurrowBecomes s t (gives (consumeAll f r i [stageField st 3, stageField st k]) (stageField st 0) x)) ∧
    (∀ q y z, stageOp8 st < 0xA0 → sidesReady f i r = true → isVldStage st = false → stageOuts st = [q] →
      operandOf f i r 1 = some (x, false) →
      operandOf f i r 2 = some (y, false) → operandOf f i r 3 = some (z, false) → hasRoom f r q = true →
      mget 0 f.stalled (32 * i + r) = 0 → (stageCompute f i x y z).sat = false → writesPredQueue st = false →
      ∃ t g, exec (.stageFire i r) s = .next t ∧ FurrowBecomes s t (gives g q (stageCompute f i x y z).val) ∧
        g = consumeAll { f with stalled := mset 0 f.stalled (32 * i + r) 0 } r i (stageIns st)) ∧
    (∀ a, stageOp8 st = 0xA1 → sidesReady f i r = true → operandOf f i r 1 = some (x, false) →
      let n := stageExt st
      let m := streamBytes (planStream f.plan n)
      cursorOf f n r < (planStream f.plan n).cnt.toNat →
      furrowAccess s s.blk.core f (elemAddr f n r (cursorOf f n r)) true = .ok a →
      ∃ t, exec (.fsnk i r) s = .next t ∧ bytesAt t.mem a.idx m = leBytes m x.toNat ∧ MemoryBut s t (placesFrom a.idx m) ∧
        t.g = s.g ∧ t.blk = s.blk ∧
        (getPart t (myPart s)).furrow = some { advance (consumeAll f r i (stageIns st)) n r with idle := 0 })

/-- R81, R83, R91 to R94: the other steps of a furrow: a source step emits an element of every source that has one; a stage
whose inputs all head with DRAIN drains; a furrow whose sinks are drained ends at its owner's FRWOFF; one idle for 65,536 cycles
ends with DLK; a drained one that is asked to suspend is stored in its region of the block's context area (R220), and enters
again from there when its group runs. What a suspended furrow holds until its re-entry is the model's reading (log entry 29). -/
def Obligations.FurrowLife : Prop :=
  ∀ (s : State) (f g : Furrow) (i r d : Nat) (p : Plan), (getPart s (myPart s)).furrow = some f →
    let srcs := replicas f (sources f.plan)
    (f.suspended = false → f.susp = false → (∃ x ∈ srcs, isDrained f x.1 x.2 = false) →
      (∀ x ∈ srcs, isDrained f x.1 x.2 = false → hasRoom f x.2 (stageField (planStage f.plan x.1) 0) = true) →
      stepBlocked s s.blk.core f f.step = none → emitStep s s.blk.core f.step srcs f = .ok g →
      ∃ t, exec .sourceStep s = .next t ∧
        t = { s with parts := t.parts, cores := t.cores, dies := t.dies, msgs := t.msgs, chan := t.chan } ∧
        (∀ k, k ≠ myPart s → getPart t k = getPart s k) ∧
        (getPart t (myPart s)).furrow = some { g with
          step := if srcs.any fun x => decide (f.step ≤ countOf f x.1) then f.step + 1 else f.step, idle := 0 }) ∧
    (f.suspended = false → i < f.plan.ns → r < f.plan.repl → isDrained f i r = false → mget 0 f.stalled (32 * i + r) ≤ 1 →
      drainInputs f.plan i ≠ [] → (∀ q ∈ drainInputs f.plan i, headDrain f r i q = true) →
      (∀ q ∈ stageOuts (planStage f.plan i), drainRoom f i r q = true) →
      ∃ t h, exec (.drainStep i r) s = .next t ∧ FurrowBecomes s t h ∧ isDrained h i r = true) ∧
    (s.g.isAt f.uid f.slot = true → s.g.run = .atFrwoff d → sinksDrained f = true → f.susp = false →
      s.ctx.fstat.toNat % 2 ^ 32 = 0 → s.ctx.pend = [] →
      ∃ t, exec .furrowDrained s = .next t ∧ t.g.fown = false ∧ t.g.run = .ready ∧ t.mem = s.mem ∧
        (getPart t (myPart s)).furrow = none ∧ t.ctx = { s.ctx.writeS d 0 with
          pc := s.ctx.pc + 4, prefixes := [], fstat := s.ctx.fstat &&& ~~~(0x1000000000 : BitVec 64) }) ∧
    (s.g.isAt f.uid f.slot = true → 65536 ≤ f.idle → sinksDrained f = false → f.suspended = false →
      f.stalled = [] → ∃ t, exec .furrowDeadlock s = .next t ∧ t.g.fown = false ∧ t.mem = s.mem ∧
        (getPart t (myPart s)).furrow = none ∧ t.g.trapReq = some ⟨8, 2, 0, 0, none⟩ ∧ t.ctx.fstat.getLsbD 38 = true) ∧
    (s.g.isAt f.uid f.slot = true → f.suspended = false → f.susp = true → sinksDrained f = true →
      stagesDrained f = true → f.stalled = [] →
      ∃ t h, exec (.streamFaultSuspend i r) s = .next t ∧ (getPart t (myPart s)).furrow = some h ∧ h.suspended = true ∧
        h.step = f.step ∧ h.cursors = f.cursors ∧ h.drained = [] ∧ t.ctx.fstat.getLsbD 37 = true ∧ t.mem = s.mem ∧
        (storedFurrow t s.g.part h).planAddr = f.planAddr ∧ (f.step < 2 ^ 32 → (storedFurrow t s.g.part h).step = f.step)) ∧
    (let old := storedFurrow s s.g.part f
     s.g.isAt f.uid f.slot = true → s.g.fown = true → s.blk.phase = .resident → answeredFault s s.g = true →
      f.suspended = true → validPlan s old.planAddr s.ctx = .ok p →
      ∃ t h, exec .furrowReentry s = .next t ∧ (getPart t (myPart s)).furrow = some h ∧ h.suspended = false ∧ h.plan = p ∧
        h.step = old.step ∧ h.cursors = f.cursors ∧ h.queues = old.queues ∧ h.depth = old.depth ∧ h.fmt = f.fmt ∧
        t.g.run = .ready ∧ t.g.parked = false ∧ t.mem = s.mem)

/-- R135, R137, R145, R146, R147, R151, R152, R170, R238: what fills and empties the caches of the core in focus. No byte of
memory changes. In which way of its set a sector stands is the model's choice (log entry 13); when a cache is filled is the
agenda's (log entry 5). -/
def Obligations.CacheEvents : Prop :=
  ∀ (s : State) (va : Addr) (pa leaf sector channel bank : Nat) (mode : BitVec 2) (rest : List (Nat × BitVec 2)) (x : MissReq)
    (l : List ChanReq) (w : Walk),
    let core := s.blk.core
    let die := dieOf core
    let c := getCore s core
    let f := getFunc s s.blk.vf
    (translate s core s.blk.vf va = .ok pa leaf → sector = accIdx s core leaf pa / 128 →
      ((c.missSlots.any fun y => y.1 == sector) = true → chanServed s.chan die sector = some l →
        ∃ t, exec (.loadDataReturn va) s = .next t ∧ t = { s with cores := t.cores, dies := t.dies, chan := l } ∧
          (∀ y ∈ (getCore t core).missSlots, y.1 ≠ sector) ∧
          (entryMT leaf = 0 → isLocal pa = true → poisonedAt s (128 * sector) 128 = false →
            ∃ y ∈ (getCore t core).l1, y.pa = pa / 128 ∧ y.sector = sector ∧ y.age = 0 ∧
              y.bytes = pageBytes s leaf (128 * sector) 128)) ∧
      (protDetail s s.blk.vf s.ctx.handler false true false pa leaf = none → poisonedAt s (128 * sector) 128 = false →
        ∃ t, exec (.instructionFetchFill va) s = .next t ∧ mhas (getCore t core).l1i sector = true ∧
          (∀ k < 128, mhas t.g.ibuf (va.toNat - va.toNat % 128 + k) = true) ∧
          t = { s with
            g := { s.g with ibuf := t.g.ibuf }
            cores := t.cores, clusters := t.clusters, dies := t.dies, msgs := t.msgs, chan := t.chan })) ∧
    (queueHead c channel = some x → slotRoom c (getDie s die) x = true → olderWaits s core x = false → x.slot = false →
      ∃ t, exec (.missQueueRelease channel) s = .next t ∧
        t = { s with cores := t.cores, dies := t.dies, msgs := t.msgs, chan := t.chan } ∧
        (getCore t core).missSlots = c.missSlots ∧ ∀ y ∈ (getCore t core).missQ, y.sector ≠ x.sector) ∧
    (queueHead c channel = some x → slotRoom c (getDie s die) x = true → olderWaits s core x = false → x.slot = true →
      ∃ t, exec (.missQueueRelease channel) s = .next t ∧
        t = { s with cores := t.cores, dies := t.dies, chan := t.chan } ∧
        (getCore t core).missSlots = c.missSlots ++ [(x.sector, x.owners.headD 0)] ∧
        ∀ y ∈ (getCore t core).missQ, y.sector ≠ x.sector) ∧
    (∃ t, exec (.l1SectorExpiry sector) s = .next t ∧ t = { s with cores := t.cores } ∧
      ∀ y, y ∈ (getCore t core).l1 ↔ y ∈ c.l1 ∧ y.sector ≠ sector) ∧
    (s.blk.switches = (bank, mode) :: rest → (∀ b ∈ s.blks, b.uid ≠ s.blk.uid) →
      ∃ t, exec (.bankSwitch bank) s = .next t ∧ t.blk.switches = rest ∧
      t = { s with blk := t.blk, loose := t.loose, early := t.early, broken := t.broken } ∧ fifoOf t.blk bank = [] ∧
      (s.early = [] → t.broken = s.broken) ∧
      (∀ y ∈ t.loose, y ∈ s.loose ∧ ¬(y.uid = s.blk.uid ∧ y.off / 32768 = bank)) ∧
      (∀ y ∈ t.early, y ∈ s.early ∧ ¬(y.uid = s.blk.uid ∧ y.off / 32768 = bank)) ∧
      (∀ a, a / 32768 = bank → mget 0 t.blk.scratch a = 0) ∧
      ∀ a, a / 32768 ≠ bank → mget 0 t.blk.scratch a = mget 0 s.blk.scratch a) ∧
    (((getDie s die).walking.take 64).find? (fun y => y.asid == f.asid.toNat && y.page == va.toNat / 2 ^ 16) = some w →
      hasNat w.cores core = true → walkFrom s die f.asid.toNat va.toNat 5 f.root.toNat = .ok pa leaf →
      (isLocal pa = true → placeOf s.place pa = entryPlace leaf) →
      ∃ t, exec (.pageWalk va) s = .next t ∧
        t = { s with cores := t.cores, dies := t.dies, msgs := t.msgs, chan := t.chan } ∧
        ∃ e ∈ (getCore t core).tlb, e.asid = f.asid.toNat ∧ e.base ≤ va.toNat ∧ va.toNat < e.base + e.size ∧
          (entryC leaf = false → e.leaf = BitVec.ofNat 64 leaf ∧ (e.size = 2 ^ 16 ∨ e.size = 2 ^ 29)) ∧
          (entryC leaf = true → e.size = 2 ^ 21 ∨ e.size = 2 ^ 34))

/-- R173, R174, R175: a die that holds nothing of a sector asks its home with RDS or RDX, one that shares it with UPG, one whose
copy is dirty gives it back with WBK and keeps it in its writeback buffer, one with clean copies alone tells of their eviction
with EVC. R176: none asks for a sector of DIRECT memory. Which request a die makes of itself, and when, is the agenda's choice
(log entry 5). R174, R175, R365: what the home does with each request that it takes up, by the sector's state and owner before:
RDS is granted E or S, or forwarded; RDX is granted M at once, or after the snoops that it sends to every holder but the
requester; UPG is done at once or after its snoops, and is an RDX where its die holds the sector no longer; WBK leaves I or S,
and is answered by CMP; EVC clears the MASK bit of its die, and what that held in E is I. An entry that the line lacks is
allocated first (R177). -/
def Obligations.CoherenceRequests : Prop :=
  (∀ (s : State) (die sector : Nat), die < 4 → asking s die sector = false → (∀ m ∈ s.msgs, m.sector = sector → m.src ≠ die) →
    let held := heldState s die sector
    let home := homeDie sector
    let sends := fun (i : Instr) (kind : MsgKind) (tag : Nat) => ∃ t, exec i s = .next t ∧
      t.msgs = s.msgs ++ [⟨kind, sector, die, home, die, .I, if kind = .wbk then some (sectorData s.mem sector) else none, tag⟩] ∧
      t = { s with msgs := t.msgs, dies := t.dies } ∧
      (kind = .rds ∨ kind = .rdx ∨ kind = .upg → t.dies = s.dies) ∧
      (kind = .wbk → heldState t die sector = .I ∧ inBuffer t die sector = true) ∧
      (kind = .evc → ∀ x ∈ lineSectors sector, heldState t die x = .I)
    (held = .I → inBuffer s die sector = false → directMapped s sector = false →
      mappedAs s (dieTlbs s die) (fun mt => decide (mt < 2)) sector = true →
      sends (.rds die sector) .rds (askTag s die sector) ∧ sends (.rdx die sector) .rdx (askTag s die sector)) ∧
    (directMapped s sector = true ∨ mappedAs s (dieTlbs s die) (fun mt => decide (mt < 2)) sector = false →
      exec (.rds die sector) s = .next s ∧ exec (.rdx die sector) s = .next s) ∧
    (held = .S ∨ held = .O → sends (.upg die sector) .upg ((cohOf s).tagAt die sector)) ∧
    (held = .M ∨ held = .O → sends (.wbk die sector) .wbk ((cohOf s).tagAt die sector)) ∧
    (die ≠ home → (∀ x ∈ lineSectors sector, heldState s die x ≠ .M ∧ heldState s die x ≠ .O ∧
      inBuffer s die x = false ∧ asking s die x = false) → sends (.evc die sector) .evc 0)) ∧
  ∀ (s : State) (die sector own : Nat) (st : SecState) (m : Msg) (c : Coh), die < 4 →
    let home := homeDie sector
    let bytes := some (sectorData s.mem sector)
    let left := s.msgs.erase m
    let does := fun (i : Instr) (l : List Msg) (p : State → Prop) => ∃ t, exec i s = .next t ∧ t.msgs = l ∧ p t ∧
      t = { s with msgs := t.msgs, dies := t.dies, chan := t.chan }
    let becomes := fun (x : SecState × Nat) (t : State) => EntryBecomes c (cohOf t) die sector x
    let grants := fun (i : Instr) (st : SecState) => does i (left ++ [⟨.dat, sector, home, die, die, st, bytes, m.tag⟩])
    let sins := fun (l : List Nat) => l.map fun d => (⟨.sin, sector, home, d, die, .I, none, 0⟩ : Msg)
    let exclusive := fun (i : Instr) =>
      let owned := st ≠ .I ∧ st ≠ .S ∧ own ≠ die
      let others := (c.holders sector).filter fun d => d != die && !(decide owned && d == own)
      (st = .I ∨ (¬owned ∧ others = []) → grants i .M (becomes (.M, die))) ∧
      (st = .S → others ≠ [] → does i (served_ s.msgs m .S ++ sins others) (becomes (st, own))) ∧
      (st ≠ .I → st ≠ .S → own = die → others ≠ [] → does i (served_ s.msgs m .S ++ sins others) (becomes (st, own))) ∧
      (owned → does i (served_ s.msgs m .O ++ sins others ++ [⟨.sfx, sector, home, own, die, .I, none, 0⟩]) (becomes (st, own)))
    ((cohOf s).entryFor die sector = .ready c → c.dirState sector = (st, own) →
      (Arrives s .rds die sector m →
        (st = .I ∨ (st ≠ .S ∧ own = die) → grants (.rds die sector) .E (becomes (.E, die))) ∧
        (st = .S → grants (.rds die sector) .S (becomes (.S, 0))) ∧
        (st ≠ .I → st ≠ .S → own ≠ die → does (.rds die sector)
          (served_ s.msgs m .O ++ [⟨.sfw, sector, home, own, die, .I, none, 0⟩]) (becomes (st, own)))) ∧
      (Arrives s .rdx die sector m → exclusive (.rdx die sector)) ∧
      (Arrives s .upg die sector m →
        let others := (c.holders sector).filter fun d => d != die
        (c.stillHolds die sector = true → others = [] →
          does (.upg die sector) (left ++ [⟨.cmp, sector, home, die, die, .M, none, 0⟩]) (becomes (.M, die))) ∧
        (c.stillHolds die sector = true → others ≠ [] → ∃ t, exec (.upg die sector) s = .next t ∧
          t.msgs = served_ s.msgs m .E ++ sins others ∧ t = { s with msgs := t.msgs, dies := t.dies, chan := t.chan }) ∧
        (c.stillHolds die sector = false → exclusive (.upg die sector)))) ∧
    (c = cohOf s → c.dirState sector = (st, own) → Arrives s .wbk die sector m →
      does (.wbk die sector) (left ++ [⟨.cmp, sector, home, die, die, .I, none, 0⟩]) fun t =>
        (own = die → st = .M ∨ st = .E → becomes (.I, 0) t) ∧ (own = die → st = .O → becomes (.S, 0) t) ∧
        (own ≠ die ∨ st = .S ∨ st = .I → t.dies = s.dies)) ∧
    (Arrives s .evc die sector m → (cohOf s).lineInService (sector / 8) = false →
      (((getDie s home).dir).map (·.line)).Nodup → does (.evc die sector) left fun t =>
        ∀ e, (cohOf s).line home (sector / 8) = some e →
          let mask := e.mask &&& ~~~(BitVec.ofNat 4 (2 ^ die))
          (mask = 0 → (cohOf t).line home (sector / 8) = none) ∧
          (mask ≠ 0 → (cohOf t).line home (sector / 8) =
            some { e with mask := mask, st := e.st.map fun y => if y.1 = .E ∧ y.2 = die then (.I, 0) else y }))

/-- R174, R175, R365: what the receiver of a message does with it: an owner forwards its data to the requester and keeps a
shared copy (SFW) or none (SFX), a holder drops its copy (SIN), each with an acknowledgement that says what it held; the
requester holds what the home granted (DAT, CMP), in a set that has room (R138); the last acknowledgement ends the request that
the home serves: what state the sector comes to, and who sends the data where the owner held none any more. One for an atomic
unit or an eviction answers no request (R176, R177). R148, R176: the recall of a sector whose holders the home knows, with no
message on its way, leaves no copy of it at any die. -/
def Obligations.CoherenceAnswers : Prop :=
  (∀ (s : State) (die sector : Nat) (m : Msg), die < 4 →
    let held := snoopState s die sector
    let home := homeDie sector
    let only := fun (t : State) => t = { s with msgs := t.msgs, dies := t.dies, chan := t.chan }
    let bytes := sectorData s.mem sector
    let tag := (cohOf s).tagAt die sector
    let left := s.msgs.erase m
    (findMsg s .sfw sector die false = some m → (held = .M ∨ held = .O ∨ held = .E) →
      ∃ t, exec (.sfw die sector) s = .next t ∧ only t ∧
        t.msgs = left ++
          [⟨.ack, sector, die, home, m.req, held, none, tag⟩, ⟨.dat, sector, die, m.req, m.req, .S, some bytes, tag⟩] ∧
        (heldState s die sector ≠ .I → heldState t die sector = if held = .E then .S else .O)) ∧
    (findMsg s .sfx sector die false = some m → (held = .M ∨ held = .O ∨ held = .E) →
      ∃ t, exec (.sfx die sector) s = .next t ∧ only t ∧
        t.msgs = left ++
          [⟨.ack, sector, die, home, m.req, held, none, tag⟩, ⟨.dat, sector, die, m.req, m.req, .M, some bytes, tag⟩] ∧
        heldState t die sector = .I) ∧
    (findMsg s .sin sector die false = some m →
      ∃ t, exec (.sin die sector) s = .next t ∧ only t ∧ heldState t die sector = .I ∧
        t.msgs = left ++
          [⟨.ack, sector, die, home, m.req, held, if held = .M ∨ held = .O then some bytes else none, tag⟩]) ∧
    (findMsg s .dat sector die false = some m → (cohOf s).canHold die sector = true →
      (∀ x ∈ (getDie s die).l2, x.sector = sector → x.st ≠ .I) →
      ∃ t more, exec (.dat die sector) s = .next t ∧ only t ∧ t.msgs = left ++ more ∧ heldState t die sector = m.st) ∧
    (findMsg s .cmp sector die false = some m →
      ∃ t more, exec (.cmp die sector) s = .next t ∧ only t ∧ t.msgs = left ++ more ∧
        (m.st = .M → heldState s die sector ≠ .I → heldState t die sector = .M) ∧
        (m.st ≠ .M → inBuffer t die sector = false))) ∧
  (∀ (s : State) (die sector own : Nat) (st : SecState) (a r : Msg), die < 4 → findMsg s .ack sector die true = some a →
    let c := cohOf s
    let home := homeDie sector
    let bytes := some (sectorData s.mem sector)
    let left := s.msgs.erase a
    let request := left.find? fun m => m.sector == a.sector && m.src == a.req && m.st != .I &&
      (m.kind == .rds || m.kind == .rdx || m.kind == .upg)
    let does := fun (l : List Msg) (p : State → Prop) => ∃ t, exec (.ack die sector) s = .next t ∧ t.msgs = l ∧ p t ∧
      t = { s with msgs := t.msgs, dies := t.dies, chan := t.chan }
    let data := fun (st : SecState) => (⟨.dat, sector, home, r.src, r.src, st, bytes, r.tag⟩ : Msg)
    let becomes := fun (x : SecState × Nat) (t : State) => EntryBecomes c (cohOf t) r.src sector x
    (request = none → does left fun t => t.dies = s.dies) ∧
    (request = some r → c.dirState sector = (st, own) →
      (r.kind = .rds →
        (a.st = .I ∨ a.st = .S → does (left.erase r ++ [data .E]) (becomes (.E, r.src))) ∧
        (a.st = .E → does (left.erase r) (becomes (.S, 0))) ∧
        (a.st = .M ∨ a.st = .O → does (left.erase r) (becomes (.O, own)))) ∧
      (r.kind ≠ .rds →
        let lost := r.st = .O ∧ own = die ∧ a.st = .I
        let r1 : Msg := if lost then { r with st := .S } else r
        let now := served_ left r r1.st
        let more := now.any fun m => m.sector == sector && (m.kind == .sin || m.kind == .sfx || m.kind == .sfw || m.kind == .ack)
        (more = true → does now fun t => t.dies = s.dies) ∧
        (more = false → does (now.erase r1 ++
          if r.kind = .upg ∧ r1.st = .E then [⟨.cmp, sector, home, r.src, r.src, .M, none, 0⟩]
          else if r1.st = .S then [data .M]
          else []) (becomes (.M, r.src)))))) ∧
  ∀ (c : Coh) (sector : Nat), c.msgs = [] → (∀ d, c.held d sector = .I ∨ c.buffered d sector = .I) →
    (∀ d < 4, c.snoopState d sector ≠ .I → hasNat (c.holders sector) d = true) →
    ∀ d < 4, (c.recall sector).held d sector = .I ∧ (c.recall sector).buffered d sector = .I

/-- R141, R247, R250, R245, R252: the function table, the placement table, the invalidations and the memory window of the host.
A command of the invalidation block runs, or waits behind the one that runs; it drops the translations it names, or drops the
sectors it names from every L1 and recalls them from the L2s. A read through the window gives what its pages show; one that does
not reach its bytes gives all ones and sets WFLT. A write of GRANT is ignored while any key is installed (R252). Which sectors
belong to a key, and the offsets of the window, are the model's readings (log entries 19 and 20). -/
def Obligations.HostMemoryControl : Prop :=
  ∀ (s : State) (vf off first asid key pa n : Nat) (val : BitVec 64) (va : Addr) (size : BitVec 2) (l : List (Nat × Nat))
    (r q : Inval) (rest : List Inval),
    let f := getFunc s vf
    let table := fun (i : Instr) (g : Func) => ∃ t, exec i s = .next t ∧ getFunc t vf = g ∧
      (∀ k, k ≠ vf → getFunc t k = getFunc s k) ∧
      t = { s with funcs := t.funcs, sessionRead := t.sessionRead, sessions := t.sessions }
    (vf < 64 → table (.functionTableWrite vf 16 val) { f with root := val.truncate 52 } ∧
      table (.functionTableWrite vf 32 val) { f with ecbase := f.ecbase.extractLsb' 64 8 ++ val } ∧
      (f.en = false → val.getLsbD 0 = true → val.extractLsb' 24 8 ≠ 0 → fbbaseOk f.fbbase = true →
        funcTaken s vf (val.extractLsb' 8 16) (val.extractLsb' 24 8) = false →
        table (.functionTableWrite vf 0 val) { f with en := true, asid := val.extractLsb' 8 16, key := val.extractLsb' 24 8 }) ∧
      (f.en = false → funcTaken s vf (val.extractLsb' 8 16) (val.extractLsb' 24 8) = true →
        table (.functionTableWrite vf 0 val) { f with asid := val.extractLsb' 8 16, key := val.extractLsb' 24 8 }) ∧
      (anyKey s = true → exec (.functionTableWrite vf 80 val) s = .next s)) ∧
    (∃ t, exec (.placementTableWrite first val) s = .next t ∧
      t = { s with place := t.place, sessionRead := t.sessionRead, sessions := t.sessions } ∧
      (∀ i < 32, first + i < 2 ^ 22 → (mget 0 t.place (first + i)).toNat =
        if val.toNat / 4 ^ i % 4 ≤ 1 then val.toNat / 4 ^ i % 4 else (mget 0 s.place (first + i)).toNat) ∧
      ∀ k, k < first ∨ first + 32 ≤ k → mget 0 t.place k = mget 0 s.place k) ∧
    (s.invalRun = none →
      let runs := fun (i : Instr) (p : State → Prop) => ∃ t, exec i s = .next t ∧ t.inval.go = true ∧ t.invalRun.isSome = true ∧
        p t ∧
        t = { s with inval := t.inval, invalRun := t.invalRun, cores := t.cores, dies := t.dies, msgs := t.msgs, chan := t.chan }
      let flushes := fun (i : Instr) (p : Nat → Bool) => runs i fun t =>
        (s.hot = [] → (∀ e ∈ t.cores, ∀ x ∈ e.2.l1, p x.sector = false) ∧
          cohOf t = cohOf (recallSectors s ((cachedSectors s).filter p))) ∧
        cohOf t = cohOf (recallSectors s (((cachedSectors s).filter p).filter fun x => !frozenSector s x))
      runs (.invalidateAsid asid) (fun t => NoTranslation t fun e => e.asid == asid % 2 ^ 16) ∧
      runs (.invalidatePage asid va) (fun t => NoTranslation t (coversPage (asid % 2 ^ 16) va.toNat)) ∧
      flushes (.flushQuad pa) (inQuad pa) ∧ flushes (.flushKey key) (inKey s (key % 2 ^ 8)) ∧
      exec .invalidationComplete s = .next s) ∧
    (s.invalRun = some r →
      (∀ i ∈ [Instr.invalidateAsid asid, .invalidatePage asid va, .flushQuad pa, .flushKey key], ∃ t x, exec i s = .next t ∧
        t.invalQ = s.invalQ ++ [x] ∧ t.inval.go = s.inval.go ∧ t = { s with inval := t.inval, invalQ := t.invalQ }) ∧
      (s.invalQ = [] → ∃ t, exec .invalidationComplete s = .next t ∧ t.inval = { s.inval with go := false } ∧ t.invalRun = none ∧
        t = { s with inval := t.inval, invalRun := t.invalRun, flushed := t.flushed } ∧
        (r.kind = 3 → mget false t.flushed r.key.toNat = true)) ∧
      (s.invalQ = q :: rest → ∃ t, exec .invalidationComplete s = .next t ∧ t.invalRun = some q ∧ t.invalQ = rest ∧
        t.inval.go = true ∧ t.mem = s.mem)) ∧
    (n = 2 ^ size.toNat → off + n ≤ 2 ^ 34 →
      (windowPlaces s vf off n true = some l → (l.map (·.1)).Nodup →
        ∃ t, exec (.hostWindowAccess vf off size (some val)) s = .next t ∧
        t = { s with
          mem := t.mem, memPoison := t.memPoison, memKey := t.memKey, torn := t.torn, dies := t.dies, msgs := t.msgs
          chan := t.chan } ∧
        BytesStand t.mem (l.map (·.1)) (leBytes n val.toNat) ∧ MemoryBut s t (l.map (·.1))) ∧
      (windowPlaces s vf off n false = some l → (∀ x ∈ l, poisonedAt s x.1 1 = false) →
        exec (.hostWindowAccess vf off size none) s =
          .next { s with hostData := BitVec.ofNat 64 (leNat (l.map fun x => pageByte s x.2 x.1)) }) ∧
      (windowPlaces s vf off n false = none → ∃ t, exec (.hostWindowAccess vf off size none) s = .next t ∧
        t = { s with hostData := BitVec.ofNat 64 (2 ^ (8 * n) - 1), tenants := t.tenants } ∧ (getTenant t vf).wflt = true) ∧
      (windowPlaces s vf off n true = none → ∃ t, exec (.hostWindowAccess vf off size (some val)) s = .next t ∧
        t = { s with tenants := t.tenants } ∧ (getTenant t vf).wflt = true))

/-- R249, R252, R253, R254, R251, R244, R246, R248: keys, attestation, firmware, reset, budgets, ports and the link, as
the host controls them. The offsets of registers of a virtual function in BAR0 are the model's choice (log entry
20); what local memory holds after a device reset is a free value (log entry 18); the counter and the agenda are the
model's own (log entries 4 and 5). Whether an image is good is a free
value of its bytes (log entry 38). A link rate as a generation from 1 to 6, recovery after a reset without an image, and an
accepted update that leaves recovery at once are the model's readings (log entry 38), and so is it that an update whose event
names another outcome than the bytes have does not happen. -/
def Obligations.DeviceControl : Prop :=
  ∀ (s : State) (die watts port index key rate width vf : Nat) (val : BitVec 64),
    (die < 4 →
      (100 ≤ watts → watts ≤ 1000 → exec (.budgetWrite die false watts) s =
        .next (modDie s die fun d => { d with newBud := watts })) ∧
      (watts ≤ (getDie s die).newBud → exec (.budgetWrite die true watts) s =
        .next (modDie s die fun d => { d with newBase := watts })) ∧
      (watts < 100 ∨ 1000 < watts → exec (.budgetWrite die false watts) s = .next s)) ∧
    (port < 24 → ∃ t, exec (.strelfelPortFailure port) s = .next t ∧
      t = { s with portsDown := t.portsDown, peers := t.peers, sessionRead := t.sessionRead, sessions := t.sessions } ∧
      t.portsDown.getLsbD port = true ∧ (∀ e ∈ t.peers, e.2.mask.getLsbD port = false) ∧
      (t.peers ≠ s.peers → mget false t.sessionRead 2 = false)) ∧
    (∃ t, exec .securedSession s = .next t ∧
      t = { s with session := true, sessionNo := t.sessionNo, sessions := t.sessions, sessionRead := [] } ∧
      (s.session = true → (s.sessionNo, s.sessionRead) ∈ t.sessions)) ∧
    (s.session = true → 1 ≤ index → index ≤ 4 → ∃ t, exec (.spdmMeasurementRead index) s = .next t ∧
      t = { s with sessionRead := t.sessionRead, hostData := t.hostData } ∧ mget false t.sessionRead index = true) ∧
    (s.session = true → 1 ≤ key → key ≤ 255 → (∀ k ∈ [2, 3, 4], mget false s.sessionRead k = true) →
      ∃ t, exec (.keyInstall key) s = .next t ∧ t = { s with keys := t.keys, keyGen := t.keyGen, flushed := t.flushed } ∧
        mget 0 t.keyGen key = mget 0 s.keyGen key + 1 ∧ mget false t.keys key = true ∧ mget false t.flushed key = false) ∧
    (s.session = true → mget false s.flushed key = true → ∃ t, exec (.keyClear key) s = .next t ∧
      t = { s with keys := t.keys } ∧ mget false t.keys key = false) ∧
    ((s.session = false ∨ mget false s.sessionRead 3 = false) → exec (.keyInstall key) s = .next s) ∧
    (∃ t, exec (.firmwareUpdate (imageOk s) false) s = .next t ∧
      if imageOk s = true then t.firmware = true ∧ t.recovery = false ∧ t.image = s.bar ∧
        t = { s with
          bar := [], firmware := t.firmware, recovery := t.recovery, image := t.image, sessionRead := t.sessionRead
          sessions := t.sessions }
      else t = { s with bar := [] }) ∧
    exec (.firmwareUpdate (!imageOk s) false) s = .next s ∧ exec (.firmwareUpdate (!imageOk s) true) s = .next s ∧
    (∃ t, exec (.firmwareUpdate (imageOk s) true) s = .next t ∧
      if imageOk s = true then t.firmware = false ∧ t.recovery = true ∧ t.image = [] else t = { s with bar := [] }) ∧
    (∃ t, exec .deviceReset s = .next t ∧ mwf memDefault t.mem = true ∧
      t = { State.reset with
        mem := t.mem, hostMem := s.hostMem, peerMem := s.peerMem, firmware := s.firmware, image := s.image, recovery := !s.firmware
        repair := s.repair, signKeys := s.signKeys, temps := s.temps, freeCtr := s.freeCtr, env := s.env
        agenda := s.agenda }) ∧
    (1 ≤ rate → rate ≤ 6 → 1 ≤ width → width ≤ 16 →
      exec (.linkTraining rate width) s = .next { s with link := some (rate, width) }) ∧
    (vf < 64 → exec (.registerWrite false (0x4000010 + 0x10000 * vf) val) s =
      .next (modTenant s vf fun t => { t with fanseq := val })) ∧
    (portOpen s port = true → exec (.registerWrite true (0x1000 * port + 0x68) val) s =
      .next (modPort s port fun p => { p with crtail := val.truncate 32 })) ∧
    (port < 64 → portOpen s port = false → exec (.registerWrite true (0x1000 * port + 0x68) val) s = .next s)

/-- R217, R248, R306, R331, R228, R222, R224, R237: the answers to fault records, results that land, and what the host
reads and frees of the error records. The source of a fatal event is a free value (log entry 17). -/
def Obligations.AnswersAndErrors : Prop :=
  ∀ (s : State) (vf seq u k die n other index kind : Nat) (va : Addr) (lane : Option (BitVec 5)) (val : BitVec 64),
    (findFault s vf seq = some ⟨seq, vf, .group u k, va, lane, kind⟩ → s.g.isAt u k = true → s.g.run = .faulted seq →
      let ends := fun (i : Instr) (trap : Option TrapReq) (counts : Bool) => ∃ t, exec i s = .next t ∧ t.mem = s.mem ∧
        t.g = { s.g with run := .ready, trapReq := trap, pmc := t.g.pmc } ∧
        (∀ j, mget 0 t.g.pmc j = mget 0 s.g.pmc j + if counts then issueCounts s.g j else 0) ∧
        findFault t vf seq = none ∧ (getTenant t vf).fanseq.toNat = seq % 2 ^ 64
      ends (.faultResolved vf seq) s.g.trapReq false ∧
        ends (.faultDenied vf seq) (some ⟨5, 8, 0, va, lane⟩) (kind != kindFetch)) ∧
    (findFault s vf seq = none → exec (.faultResolved vf seq) s = .next s ∧ exec (.faultDenied vf seq) s = .next s) ∧
    (∃ t, exec (.fstsRead vf) s = .next t ∧ t.hostData.getLsbD 0 = (getTenant s vf).wflt ∧
      t.hostData.getLsbD 1 = (getTenant s vf).fbovf ∧ getTenant t vf = { getTenant s vf with wflt := false } ∧
      t = { s with hostData := t.hostData, tenants := t.tenants }) ∧
    ((getTenant s vf).waiting = [] → ∃ t, exec (.fbtailWrite vf val) s = .next t ∧
      getTenant t vf = { getTenant s vf with fbtail := val, fbovf := false } ∧ t = { s with tenants := t.tenants }) ∧
    (∃ t, exec .divisionResult s = .next t ∧ t = { s with parts := t.parts } ∧
      getPart t (myPart s) = { getPart s (myPart s) with divQueue := (getPart s (myPart s)).divQueue.tail }) ∧
    (∃ t, exec .specialFunctionResult s = .next t ∧ t = { s with parts := t.parts } ∧
      getPart t (myPart s) = { getPart s (myPart s) with sfQueue := (getPart s (myPart s)).sfQueue.tail }) ∧
    (die < 4 →
      (∃ t, exec (.mcpopWrite die n) s = .next t ∧ t = { s with dies := t.dies } ∧
        (getDie t die).mclog = (getDie s die).mclog.drop n) ∧
      (∃ t, exec (.mcclrWrite die 1) s = .next t ∧ t = { s with dies := t.dies } ∧
        getDie t die = { getDie s die with mclost := 0, mcovf := false }) ∧
      (other < 4 → die ≠ other → 8 ≤ mget 0 s.flits (4 * die + other) →
        ∃ t, exec (.dieLinkRetransmit die other) s = .next t ∧ t.halted = true ∧ .fatal ∈ t.intr) ∧
      (other < 4 → die ≠ other → (getDie s die).mclog.length < 32 → mget 0 s.flits (4 * die + other) < 8 →
        ∃ t e, exec (.dieLinkRetransmit die other) s = .next t ∧ (getDie t die).mclog = (getDie s die).mclog ++ [e] ∧
          e.kind = 2 ∧ e.seq = s.mcSeq ∧ t.mem = s.mem ∧ t.g = s.g)) ∧
    (∃ t, exec .fatalError s = .next t ∧ t.halted = true ∧ .fatal ∈ t.intr) ∧
    (∃ t, exec (.moduleUnloadRequest vf index) s = .next t ∧
      (getTenant t vf).unload = (getTenant s vf).unload ++ [(index, s.uidNext)] ∧
      t = { s with tenants := t.tenants, uidNext := s.uidNext + 1 }) ∧
    ((getTenant s vf).unload = [(index, n)] → moduleNeeded s vf index n = false →
      ∃ t, exec (.moduleUnload vf index) s = .next t ∧ (getTenant t vf).unload = [] ∧ findModule t vf index = none ∧
        t.mem = s.mem ∧ t.g = s.g)

/-- R208, R209, R254: a sample of a die's governor takes the new figures and moves its state; a stack that reaches its critical
temperature freezes the device, which resumes, with what arrived meanwhile in its order, once every stack has stood 5 °C below
for 1 ms, and not before. The counters of samples, and one freeze counted for
each freeze of the device, are the model's readings (log entry 35). -/
def Obligations.GovernorAndFreeze : Prop :=
  ∀ (s : State) (die mw stack : Nat),
    (die < 4 → ∃ t, exec (.governorSample die mw) s = .next t ∧ t = { s with dies := t.dies } ∧
      let d := getDie s die
      let e := getDie t die
      let s1 := modDie s die fun d => { d with bud := d.newBud, base := d.newBase, power := mw }
      e.bud = d.newBud ∧ e.base = d.newBase ∧ e.power = mw ∧
      (d.gov = .normal → e.gov = if powerAbove s1 die mw 95 then .tight else .normal) ∧
      (d.gov = .tight → powerAbove s1 die mw 100 = true → 1 ≤ d.govOver → e.gov = .throttle) ∧
      (d.gov = .throttle → powerAbove s1 die mw 100 = true → 3 ≤ d.govOver → e.gov = .clockdown) ∧
      (d.gov = .clockdown → powerAbove s1 die mw 100 = true → e.mhz = max 750 (d.mhz - 75)) ∧
      (d.gov = .throttle → powerAbove s1 die mw 100 = false → powerLow s1 die mw = true → 3 ≤ d.govUnder → e.gov = .tight) ∧
      (d.gov = .tight → powerAbove s1 die mw 100 = false → powerLow s1 die mw = true → 3 ≤ d.govUnder → e.gov = .normal)) ∧
    (stack < 16 → ∃ t, exec (.stackFreeze stack) s = .next t ∧ OnlyFreeze s t ∧ t.frozen = true ∧
      critOf s stack ≤ tempOf t stack ∧ mget false t.hot stack = true ∧
      (s.frozen = false → t.intr = s.intr ++ [.freeze] ∧ t.freezes = s.freezes + 1)) ∧
    (s.frozen = true → allCool s = true → s.cooled + 1500000 ≤ s.clock →
      let u := { s with frozen := false, hot := [], held := [] }
      exec .stackResume s = .next (s.held.foldl replayAct (match s.invalRun with
        | none => u
        | some r => flushSectors u (invalSectors u r)))) ∧
    (s.frozen = false ∨ allCool s = false ∨ s.clock < s.cooled + 1500000 → exec .stackResume s = .next s)

end
end

