-- ==== Sys2Proof/Laws/SMap.lean ====
section
/-! SUPPORT. Laws of sparse data: reading after a write, and the canonical form that every write keeps. -/

namespace Sys2Proof.Machine

variable {β : Type}

theorem mget_mput_self (d : β) (m : List (Nat × β)) (k : Nat) (v : β) : mget d (mput m k v) k = v := by
  induction m with
  | nil => simp [mput, mget]
  | cons e t ih =>
    simp only [mput]
    split
    · simp [mget]
    · split
      · simp [mget]
      · rename_i h1 h2
        simp [mget, Ne.symm h2, ih]

theorem mget_mput_ne (d : β) (m : List (Nat × β)) {k j : Nat} (v : β) (h : j ≠ k) : mget d (mput m k v) j = mget d m j := by
  induction m with
  | nil => simp [mput, mget, Ne.symm h]
  | cons e t ih =>
    simp only [mput]
    split
    · simp [mget, Ne.symm h]
    · split
      · rename_i h1 h2
        subst h2
        simp [mget, Ne.symm h]
      · simp [mget, ih]

theorem mget_mdel_self (d : β) (m : List (Nat × β)) (k : Nat) : mget d (mdel m k) k = d := by
  induction m with
  | nil => rfl
  | cons e t ih =>
    simp only [mdel]
    split
    · exact ih
    · rename_i h
      simp [mget, h, ih]

theorem mget_mdel_ne (d : β) (m : List (Nat × β)) {k j : Nat} (h : j ≠ k) : mget d (mdel m k) j = mget d m j := by
  induction m with
  | nil => rfl
  | cons e t ih =>
    simp only [mdel]
    split
    · rename_i h1
      rw [ih]
      simp [mget, h1, Ne.symm h]
    · simp [mget, ih]

theorem mem_mdel {m : List (Nat × β)} {k : Nat} {e : Nat × β} (h : e ∈ mdel m k) : e ∈ m := by
  induction m with
  | nil => simp [mdel] at h
  | cons x t ih =>
    simp only [mdel] at h
    split at h
    · exact List.mem_cons_of_mem _ (ih h)
    · rcases List.mem_cons.mp h with h | h
      · rw [h]; exact List.mem_cons_self
      · exact List.mem_cons_of_mem _ (ih h)

theorem mem_mput {m : List (Nat × β)} {k : Nat} {v : β} {e : Nat × β} (h : e ∈ mput m k v) : e = (k, v) ∨ e ∈ m := by
  induction m with
  | nil => simpa [mput] using h
  | cons x t ih =>
    simp only [mput] at h
    split at h
    · simpa using h
    · split at h
      · rcases List.mem_cons.mp h with h | h
        · exact .inl h
        · exact .inr (List.mem_cons_of_mem _ h)
      · rcases List.mem_cons.mp h with h | h
        · exact .inr (h ▸ List.mem_cons_self)
        · exact (ih h).imp_right (List.mem_cons_of_mem _)

/-- The canonical lists with a head: nothing in the tail reads at the head's key. -/
theorem mget_of_lt (d : β) {m : List (Nat × β)} {k : Nat} (h : ∀ e ∈ m, k < e.1) : mget d m k = d := by
  induction m with
  | nil => rfl
  | cons e t ih =>
    have : k < e.1 := h e List.mem_cons_self
    simp only [mget]
    rw [if_neg (by omega), ih fun x hx => h x (List.mem_cons_of_mem _ hx)]

variable [DecidableEq β]

/-- A read of the key just written gives the value written. -/
@[simp] theorem mget_mset_self (d : β) (m : List (Nat × β)) (k : Nat) (v : β) : mget d (mset d m k v) k = v := by
  unfold mset
  split
  · rename_i h
    rw [h, mget_mdel_self]
  · exact mget_mput_self d m k v

/-- A write leaves every other key alone. -/
theorem mget_mset_ne (d : β) (m : List (Nat × β)) {k j : Nat} (v : β) (h : j ≠ k) : mget d (mset d m k v) j = mget d m j := by
  unfold mset
  split
  · exact mget_mdel_ne d m h
  · exact mget_mput_ne d m v h

/-- A read after a write. -/
theorem mget_mset (d : β) (m : List (Nat × β)) (k j : Nat) (v : β) :
    mget d (mset d m k v) j = if j = k then v else mget d m j := by
  split
  · rename_i h
    rw [h, mget_mset_self]
  · exact mget_mset_ne d m v ‹_›

theorem mwf_cons (d : β) (k : Nat) (v : β) (t : List (Nat × β)) :
    mwf d ((k, v) :: t) = true ↔ v ≠ d ∧ (∀ e ∈ t, k < e.1) ∧ mwf d t = true := by
  simp [mwf, and_assoc]

/-- Removal keeps the canonical form. -/
theorem mwf_mdel (d : β) (m : List (Nat × β)) (k : Nat) (h : mwf d m = true) : mwf d (mdel m k) = true := by
  induction m with
  | nil => rfl
  | cons e t ih =>
    obtain ⟨h1, h2, h3⟩ := (mwf_cons d e.1 e.2 t).mp h
    simp only [mdel]
    split
    · exact ih h3
    · exact (mwf_cons d _ _ _).mpr ⟨h1, fun x hx => h2 x (mem_mdel hx), ih h3⟩

/-- Insertion of a value other than the default keeps the canonical form. -/
theorem mwf_mput (d : β) (m : List (Nat × β)) (k : Nat) (v : β) (hv : v ≠ d) (h : mwf d m = true) :
    mwf d (mput m k v) = true := by
  induction m with
  | nil => simp [mput, mwf, hv]
  | cons e t ih =>
    obtain ⟨h1, h2, h3⟩ := (mwf_cons d e.1 e.2 t).mp h
    simp only [mput]
    split
    · rename_i hk
      exact (mwf_cons d _ _ _).mpr ⟨hv, fun x hx => by
        rcases List.mem_cons.mp hx with hx | hx
        · rw [hx]; exact hk
        · exact Nat.lt_trans hk (h2 x hx), h⟩
    · split
      · rename_i hk
        exact (mwf_cons d _ _ _).mpr ⟨hv, fun x hx => hk ▸ h2 x hx, h3⟩
      · refine (mwf_cons d _ _ _).mpr ⟨h1, fun x hx => ?_, ih h3⟩
        rcases mem_mput hx with hx | hx
        · rw [hx]; show e.1 < k; omega
        · exact h2 x hx

/-- A write keeps the canonical form. -/
theorem mwf_mset (d : β) (m : List (Nat × β)) (k : Nat) (v : β) (h : mwf d m = true) : mwf d (mset d m k v) = true := by
  unfold mset
  split
  · exact mwf_mdel d m k h
  · exact mwf_mput d m k v ‹_› h

/-- Two canonical lists that read alike are one list. -/
theorem mwf_ext (d : β) {m n : List (Nat × β)} (hm : mwf d m = true) (hn : mwf d n = true)
    (h : ∀ k, mget d m k = mget d n k) : m = n := by
  induction m generalizing n with
  | nil =>
    cases n with
    | nil => rfl
    | cons e t =>
      have := (mwf_cons d e.1 e.2 t).mp hn
      have hk := h e.1
      simp [mget] at hk
      exact absurd hk.symm this.1
  | cons a s ih =>
    obtain ⟨a1, a2, a3⟩ := (mwf_cons d a.1 a.2 s).mp hm
    cases n with
    | nil =>
      have hk := h a.1
      simp [mget] at hk
      exact absurd hk a1
    | cons b t =>
      obtain ⟨b1, b2, b3⟩ := (mwf_cons d b.1 b.2 t).mp hn
      have key : a.1 = b.1 := by
        rcases Nat.lt_trichotomy a.1 b.1 with hl | hl | hl
        · have hk := h a.1
          have : mget d (b :: t) a.1 = d := mget_of_lt d fun e he => by
            rcases List.mem_cons.mp he with he | he
            · rw [he]; exact hl
            · exact Nat.lt_trans hl (b2 e he)
          rw [this] at hk
          simp [mget] at hk
          exact absurd hk a1
        · exact hl
        · have hk := h b.1
          have : mget d (a :: s) b.1 = d := mget_of_lt d fun e he => by
            rcases List.mem_cons.mp he with he | he
            · rw [he]; exact hl
            · exact Nat.lt_trans hl (a2 e he)
          rw [this] at hk
          simp [mget] at hk
          exact absurd hk.symm b1
      have val : a.2 = b.2 := by
        have hk := h a.1
        simpa [mget, key] using hk
      have : s = t := ih a3 b3 fun k => by
        by_cases hk : k = a.1
        · rw [hk, mget_of_lt d a2, key, mget_of_lt d b2]
        · have := h k
          simpa [mget, Ne.symm hk, key ▸ Ne.symm hk] using this
      rw [this, show a = b from Prod.ext key val]

/-- Writes of cells keep the canonical form of a memory. -/
theorem mwf_writeCells (m : List Host.Cell) (l : List (Nat × Byte)) (h : mwf memDefault m = true) :
    mwf memDefault (writeCells m l) = true := by
  induction l generalizing m with
  | nil => exact h
  | cons e t ih => exact ih _ (mwf_mset memDefault m e.1 e.2 h)

/-- Writes of cells leave every other place alone. -/
theorem mget_writeCells_ne (m : List Host.Cell) (l : List (Nat × Byte)) (a : Nat) (h : ∀ e ∈ l, e.1 ≠ a) :
    mget memDefault (writeCells m l) a = mget memDefault m a := by
  induction l generalizing m with
  | nil => rfl
  | cons e t ih =>
    show mget memDefault (writeCells (mset memDefault m e.1 e.2) t) a = _
    rw [ih _ fun x hx => h x (List.mem_cons_of_mem _ hx)]
    exact mget_mset_ne memDefault m e.2 (Ne.symm (h e List.mem_cons_self))

/-- Writes of scratch cells leave every other byte alone. -/
theorem mget_scratchCells_ne (m : List (Nat × Byte)) (l : List (Nat × Byte)) (a : Nat) (h : ∀ e ∈ l, e.1 ≠ a) :
    mget 0 (scratchCells m l) a = mget 0 m a := by
  induction l generalizing m with
  | nil => rfl
  | cons e t ih =>
    show mget 0 (scratchCells (mset 0 m e.1 e.2) t) a = _
    rw [ih _ fun x hx => h x (List.mem_cons_of_mem _ hx)]
    exact mget_mset_ne 0 m e.2 (Ne.symm (h e List.mem_cons_self))

/-- Cells written from one place on leave every place outside them alone. -/
theorem mget_cellsAt_ne (m : List Host.Cell) (i : Nat) (bs : List Byte) (a : Nat) (h : a < i ∨ i + bs.length ≤ a) :
    mget memDefault (writeCells m (cellsAt i bs)) a = mget memDefault m a := by
  apply mget_writeCells_ne
  intro e he
  simp only [cellsAt, List.mem_map] at he
  obtain ⟨x, hx, rfl⟩ := he
  have := (List.of_mem_zip hx).1
  simp at this
  show i + x.1 ≠ a
  omega

end Sys2Proof.Machine
end

