-- ==== Sys2Proof/Laws/State.lean ====
section
/-! SUPPORT. One lemma per field and update of the state, of a group and of a context, so that no proof unfolds a record update. -/

namespace Sys2Proof.Machine

@[simp] theorem withCtx_groups (s : State) (c : Ctx) : (s.withCtx c).groups = s.groups := rfl
@[simp] theorem withCtx_blk (s : State) (c : Ctx) : (s.withCtx c).blk = s.blk := rfl
@[simp] theorem withCtx_blks (s : State) (c : Ctx) : (s.withCtx c).blks = s.blks := rfl
@[simp] theorem withCtx_parts (s : State) (c : Ctx) : (s.withCtx c).parts = s.parts := rfl
@[simp] theorem withCtx_cores (s : State) (c : Ctx) : (s.withCtx c).cores = s.cores := rfl
@[simp] theorem withCtx_clusters (s : State) (c : Ctx) : (s.withCtx c).clusters = s.clusters := rfl
@[simp] theorem withCtx_dies (s : State) (c : Ctx) : (s.withCtx c).dies = s.dies := rfl
@[simp] theorem withCtx_mem (s : State) (c : Ctx) : (s.withCtx c).mem = s.mem := rfl
@[simp] theorem withCtx_memPoison (s : State) (c : Ctx) : (s.withCtx c).memPoison = s.memPoison := rfl
@[simp] theorem withCtx_memKey (s : State) (c : Ctx) : (s.withCtx c).memKey = s.memKey := rfl
@[simp] theorem withCtx_hostMem (s : State) (c : Ctx) : (s.withCtx c).hostMem = s.hostMem := rfl
@[simp] theorem withCtx_peerMem (s : State) (c : Ctx) : (s.withCtx c).peerMem = s.peerMem := rfl
@[simp] theorem withCtx_place (s : State) (c : Ctx) : (s.withCtx c).place = s.place := rfl
@[simp] theorem withCtx_funcs (s : State) (c : Ctx) : (s.withCtx c).funcs = s.funcs := rfl
@[simp] theorem withCtx_tenants (s : State) (c : Ctx) : (s.withCtx c).tenants = s.tenants := rfl
@[simp] theorem withCtx_ports (s : State) (c : Ctx) : (s.withCtx c).ports = s.ports := rfl
@[simp] theorem withCtx_launches (s : State) (c : Ctx) : (s.withCtx c).launches = s.launches := rfl
@[simp] theorem withCtx_modules (s : State) (c : Ctx) : (s.withCtx c).modules = s.modules := rfl
@[simp] theorem withCtx_nextPort (s : State) (c : Ctx) : (s.withCtx c).nextPort = s.nextPort := rfl
@[simp] theorem withCtx_served (s : State) (c : Ctx) : (s.withCtx c).served = s.served := rfl
@[simp] theorem withCtx_taken (s : State) (c : Ctx) : (s.withCtx c).taken = s.taken := rfl
@[simp] theorem withCtx_deferred (s : State) (c : Ctx) : (s.withCtx c).deferred = s.deferred := rfl
@[simp] theorem withCtx_msgs (s : State) (c : Ctx) : (s.withCtx c).msgs = s.msgs := rfl
@[simp] theorem withCtx_chan (s : State) (c : Ctx) : (s.withCtx c).chan = s.chan := rfl
@[simp] theorem withCtx_unitOps (s : State) (c : Ctx) : (s.withCtx c).unitOps = s.unitOps := rfl
@[simp] theorem withCtx_loose (s : State) (c : Ctx) : (s.withCtx c).loose = s.loose := rfl
@[simp] theorem withCtx_early (s : State) (c : Ctx) : (s.withCtx c).early = s.early := rfl
@[simp] theorem withCtx_broken (s : State) (c : Ctx) : (s.withCtx c).broken = s.broken := rfl
@[simp] theorem withCtx_torn (s : State) (c : Ctx) : (s.withCtx c).torn = s.torn := rfl
@[simp] theorem withCtx_faults (s : State) (c : Ctx) : (s.withCtx c).faults = s.faults := rfl
@[simp] theorem withCtx_faultSeq (s : State) (c : Ctx) : (s.withCtx c).faultSeq = s.faultSeq := rfl
@[simp] theorem withCtx_mcSeq (s : State) (c : Ctx) : (s.withCtx c).mcSeq = s.mcSeq := rfl
@[simp] theorem withCtx_mcCE (s : State) (c : Ctx) : (s.withCtx c).mcCE = s.mcCE := rfl
@[simp] theorem withCtx_mcUE (s : State) (c : Ctx) : (s.withCtx c).mcUE = s.mcUE := rfl
@[simp] theorem withCtx_inval (s : State) (c : Ctx) : (s.withCtx c).inval = s.inval := rfl
@[simp] theorem withCtx_invalRun (s : State) (c : Ctx) : (s.withCtx c).invalRun = s.invalRun := rfl
@[simp] theorem withCtx_invalQ (s : State) (c : Ctx) : (s.withCtx c).invalQ = s.invalQ := rfl
@[simp] theorem withCtx_keys (s : State) (c : Ctx) : (s.withCtx c).keys = s.keys := rfl
@[simp] theorem withCtx_keyGen (s : State) (c : Ctx) : (s.withCtx c).keyGen = s.keyGen := rfl
@[simp] theorem withCtx_flushed (s : State) (c : Ctx) : (s.withCtx c).flushed = s.flushed := rfl
@[simp] theorem withCtx_session (s : State) (c : Ctx) : (s.withCtx c).session = s.session := rfl
@[simp] theorem withCtx_sessionRead (s : State) (c : Ctx) : (s.withCtx c).sessionRead = s.sessionRead := rfl
@[simp] theorem withCtx_sessionNo (s : State) (c : Ctx) : (s.withCtx c).sessionNo = s.sessionNo := rfl
@[simp] theorem withCtx_sessions (s : State) (c : Ctx) : (s.withCtx c).sessions = s.sessions := rfl
@[simp] theorem withCtx_repair (s : State) (c : Ctx) : (s.withCtx c).repair = s.repair := rfl
@[simp] theorem withCtx_signKeys (s : State) (c : Ctx) : (s.withCtx c).signKeys = s.signKeys := rfl
@[simp] theorem withCtx_firmware (s : State) (c : Ctx) : (s.withCtx c).firmware = s.firmware := rfl
@[simp] theorem withCtx_image (s : State) (c : Ctx) : (s.withCtx c).image = s.image := rfl
@[simp] theorem withCtx_recovery (s : State) (c : Ctx) : (s.withCtx c).recovery = s.recovery := rfl
@[simp] theorem withCtx_peers (s : State) (c : Ctx) : (s.withCtx c).peers = s.peers := rfl
@[simp] theorem withCtx_portsDown (s : State) (c : Ctx) : (s.withCtx c).portsDown = s.portsDown := rfl
@[simp] theorem withCtx_bar (s : State) (c : Ctx) : (s.withCtx c).bar = s.bar := rfl
@[simp] theorem withCtx_hot (s : State) (c : Ctx) : (s.withCtx c).hot = s.hot := rfl
@[simp] theorem withCtx_crit (s : State) (c : Ctx) : (s.withCtx c).crit = s.crit := rfl
@[simp] theorem withCtx_temps (s : State) (c : Ctx) : (s.withCtx c).temps = s.temps := rfl
@[simp] theorem withCtx_cooled (s : State) (c : Ctx) : (s.withCtx c).cooled = s.cooled := rfl
@[simp] theorem withCtx_freezes (s : State) (c : Ctx) : (s.withCtx c).freezes = s.freezes := rfl
@[simp] theorem withCtx_frozen (s : State) (c : Ctx) : (s.withCtx c).frozen = s.frozen := rfl
@[simp] theorem withCtx_frozenTime (s : State) (c : Ctx) : (s.withCtx c).frozenTime = s.frozenTime := rfl
@[simp] theorem withCtx_held (s : State) (c : Ctx) : (s.withCtx c).held = s.held := rfl
@[simp] theorem withCtx_areas (s : State) (c : Ctx) : (s.withCtx c).areas = s.areas := rfl
@[simp] theorem withCtx_areaTags (s : State) (c : Ctx) : (s.withCtx c).areaTags = s.areaTags := rfl
@[simp] theorem withCtx_halted (s : State) (c : Ctx) : (s.withCtx c).halted = s.halted := rfl
@[simp] theorem withCtx_link (s : State) (c : Ctx) : (s.withCtx c).link = s.link := rfl
@[simp] theorem withCtx_flits (s : State) (c : Ctx) : (s.withCtx c).flits = s.flits := rfl
@[simp] theorem withCtx_env (s : State) (c : Ctx) : (s.withCtx c).env = s.env := rfl
@[simp] theorem withCtx_via (s : State) (c : Ctx) : (s.withCtx c).via = s.via := rfl
@[simp] theorem withCtx_intr (s : State) (c : Ctx) : (s.withCtx c).intr = s.intr := rfl
@[simp] theorem withCtx_hostData (s : State) (c : Ctx) : (s.withCtx c).hostData = s.hostData := rfl
@[simp] theorem withCtx_clock (s : State) (c : Ctx) : (s.withCtx c).clock = s.clock := rfl
@[simp] theorem withCtx_uidNext (s : State) (c : Ctx) : (s.withCtx c).uidNext = s.uidNext := rfl
@[simp] theorem withCtx_freeCtr (s : State) (c : Ctx) : (s.withCtx c).freeCtr = s.freeCtr := rfl
@[simp] theorem withCtx_agenda (s : State) (c : Ctx) : (s.withCtx c).agenda = s.agenda := rfl

@[simp] theorem modCtx_groups (s : State) (f : Ctx → Ctx) : (modCtx s f).groups = s.groups := rfl
@[simp] theorem modCtx_blk (s : State) (f : Ctx → Ctx) : (modCtx s f).blk = s.blk := rfl
@[simp] theorem modCtx_blks (s : State) (f : Ctx → Ctx) : (modCtx s f).blks = s.blks := rfl
@[simp] theorem modCtx_parts (s : State) (f : Ctx → Ctx) : (modCtx s f).parts = s.parts := rfl
@[simp] theorem modCtx_cores (s : State) (f : Ctx → Ctx) : (modCtx s f).cores = s.cores := rfl
@[simp] theorem modCtx_clusters (s : State) (f : Ctx → Ctx) : (modCtx s f).clusters = s.clusters := rfl
@[simp] theorem modCtx_dies (s : State) (f : Ctx → Ctx) : (modCtx s f).dies = s.dies := rfl
@[simp] theorem modCtx_mem (s : State) (f : Ctx → Ctx) : (modCtx s f).mem = s.mem := rfl
@[simp] theorem modCtx_memPoison (s : State) (f : Ctx → Ctx) : (modCtx s f).memPoison = s.memPoison := rfl
@[simp] theorem modCtx_memKey (s : State) (f : Ctx → Ctx) : (modCtx s f).memKey = s.memKey := rfl
@[simp] theorem modCtx_hostMem (s : State) (f : Ctx → Ctx) : (modCtx s f).hostMem = s.hostMem := rfl
@[simp] theorem modCtx_peerMem (s : State) (f : Ctx → Ctx) : (modCtx s f).peerMem = s.peerMem := rfl
@[simp] theorem modCtx_place (s : State) (f : Ctx → Ctx) : (modCtx s f).place = s.place := rfl
@[simp] theorem modCtx_funcs (s : State) (f : Ctx → Ctx) : (modCtx s f).funcs = s.funcs := rfl
@[simp] theorem modCtx_tenants (s : State) (f : Ctx → Ctx) : (modCtx s f).tenants = s.tenants := rfl
@[simp] theorem modCtx_ports (s : State) (f : Ctx → Ctx) : (modCtx s f).ports = s.ports := rfl
@[simp] theorem modCtx_launches (s : State) (f : Ctx → Ctx) : (modCtx s f).launches = s.launches := rfl
@[simp] theorem modCtx_modules (s : State) (f : Ctx → Ctx) : (modCtx s f).modules = s.modules := rfl
@[simp] theorem modCtx_nextPort (s : State) (f : Ctx → Ctx) : (modCtx s f).nextPort = s.nextPort := rfl
@[simp] theorem modCtx_served (s : State) (f : Ctx → Ctx) : (modCtx s f).served = s.served := rfl
@[simp] theorem modCtx_taken (s : State) (f : Ctx → Ctx) : (modCtx s f).taken = s.taken := rfl
@[simp] theorem modCtx_deferred (s : State) (f : Ctx → Ctx) : (modCtx s f).deferred = s.deferred := rfl
@[simp] theorem modCtx_msgs (s : State) (f : Ctx → Ctx) : (modCtx s f).msgs = s.msgs := rfl
@[simp] theorem modCtx_chan (s : State) (f : Ctx → Ctx) : (modCtx s f).chan = s.chan := rfl
@[simp] theorem modCtx_unitOps (s : State) (f : Ctx → Ctx) : (modCtx s f).unitOps = s.unitOps := rfl
@[simp] theorem modCtx_loose (s : State) (f : Ctx → Ctx) : (modCtx s f).loose = s.loose := rfl
@[simp] theorem modCtx_early (s : State) (f : Ctx → Ctx) : (modCtx s f).early = s.early := rfl
@[simp] theorem modCtx_broken (s : State) (f : Ctx → Ctx) : (modCtx s f).broken = s.broken := rfl
@[simp] theorem modCtx_torn (s : State) (f : Ctx → Ctx) : (modCtx s f).torn = s.torn := rfl
@[simp] theorem modCtx_faults (s : State) (f : Ctx → Ctx) : (modCtx s f).faults = s.faults := rfl
@[simp] theorem modCtx_faultSeq (s : State) (f : Ctx → Ctx) : (modCtx s f).faultSeq = s.faultSeq := rfl
@[simp] theorem modCtx_mcSeq (s : State) (f : Ctx → Ctx) : (modCtx s f).mcSeq = s.mcSeq := rfl
@[simp] theorem modCtx_mcCE (s : State) (f : Ctx → Ctx) : (modCtx s f).mcCE = s.mcCE := rfl
@[simp] theorem modCtx_mcUE (s : State) (f : Ctx → Ctx) : (modCtx s f).mcUE = s.mcUE := rfl
@[simp] theorem modCtx_inval (s : State) (f : Ctx → Ctx) : (modCtx s f).inval = s.inval := rfl
@[simp] theorem modCtx_invalRun (s : State) (f : Ctx → Ctx) : (modCtx s f).invalRun = s.invalRun := rfl
@[simp] theorem modCtx_invalQ (s : State) (f : Ctx → Ctx) : (modCtx s f).invalQ = s.invalQ := rfl
@[simp] theorem modCtx_keys (s : State) (f : Ctx → Ctx) : (modCtx s f).keys = s.keys := rfl
@[simp] theorem modCtx_keyGen (s : State) (f : Ctx → Ctx) : (modCtx s f).keyGen = s.keyGen := rfl
@[simp] theorem modCtx_flushed (s : State) (f : Ctx → Ctx) : (modCtx s f).flushed = s.flushed := rfl
@[simp] theorem modCtx_session (s : State) (f : Ctx → Ctx) : (modCtx s f).session = s.session := rfl
@[simp] theorem modCtx_sessionRead (s : State) (f : Ctx → Ctx) : (modCtx s f).sessionRead = s.sessionRead := rfl
@[simp] theorem modCtx_sessionNo (s : State) (f : Ctx → Ctx) : (modCtx s f).sessionNo = s.sessionNo := rfl
@[simp] theorem modCtx_sessions (s : State) (f : Ctx → Ctx) : (modCtx s f).sessions = s.sessions := rfl
@[simp] theorem modCtx_repair (s : State) (f : Ctx → Ctx) : (modCtx s f).repair = s.repair := rfl
@[simp] theorem modCtx_signKeys (s : State) (f : Ctx → Ctx) : (modCtx s f).signKeys = s.signKeys := rfl
@[simp] theorem modCtx_firmware (s : State) (f : Ctx → Ctx) : (modCtx s f).firmware = s.firmware := rfl
@[simp] theorem modCtx_image (s : State) (f : Ctx → Ctx) : (modCtx s f).image = s.image := rfl
@[simp] theorem modCtx_recovery (s : State) (f : Ctx → Ctx) : (modCtx s f).recovery = s.recovery := rfl
@[simp] theorem modCtx_peers (s : State) (f : Ctx → Ctx) : (modCtx s f).peers = s.peers := rfl
@[simp] theorem modCtx_portsDown (s : State) (f : Ctx → Ctx) : (modCtx s f).portsDown = s.portsDown := rfl
@[simp] theorem modCtx_bar (s : State) (f : Ctx → Ctx) : (modCtx s f).bar = s.bar := rfl
@[simp] theorem modCtx_hot (s : State) (f : Ctx → Ctx) : (modCtx s f).hot = s.hot := rfl
@[simp] theorem modCtx_crit (s : State) (f : Ctx → Ctx) : (modCtx s f).crit = s.crit := rfl
@[simp] theorem modCtx_temps (s : State) (f : Ctx → Ctx) : (modCtx s f).temps = s.temps := rfl
@[simp] theorem modCtx_cooled (s : State) (f : Ctx → Ctx) : (modCtx s f).cooled = s.cooled := rfl
@[simp] theorem modCtx_freezes (s : State) (f : Ctx → Ctx) : (modCtx s f).freezes = s.freezes := rfl
@[simp] theorem modCtx_frozen (s : State) (f : Ctx → Ctx) : (modCtx s f).frozen = s.frozen := rfl
@[simp] theorem modCtx_frozenTime (s : State) (f : Ctx → Ctx) : (modCtx s f).frozenTime = s.frozenTime := rfl
@[simp] theorem modCtx_held (s : State) (f : Ctx → Ctx) : (modCtx s f).held = s.held := rfl
@[simp] theorem modCtx_areas (s : State) (f : Ctx → Ctx) : (modCtx s f).areas = s.areas := rfl
@[simp] theorem modCtx_areaTags (s : State) (f : Ctx → Ctx) : (modCtx s f).areaTags = s.areaTags := rfl
@[simp] theorem modCtx_halted (s : State) (f : Ctx → Ctx) : (modCtx s f).halted = s.halted := rfl
@[simp] theorem modCtx_link (s : State) (f : Ctx → Ctx) : (modCtx s f).link = s.link := rfl
@[simp] theorem modCtx_flits (s : State) (f : Ctx → Ctx) : (modCtx s f).flits = s.flits := rfl
@[simp] theorem modCtx_env (s : State) (f : Ctx → Ctx) : (modCtx s f).env = s.env := rfl
@[simp] theorem modCtx_via (s : State) (f : Ctx → Ctx) : (modCtx s f).via = s.via := rfl
@[simp] theorem modCtx_intr (s : State) (f : Ctx → Ctx) : (modCtx s f).intr = s.intr := rfl
@[simp] theorem modCtx_hostData (s : State) (f : Ctx → Ctx) : (modCtx s f).hostData = s.hostData := rfl
@[simp] theorem modCtx_clock (s : State) (f : Ctx → Ctx) : (modCtx s f).clock = s.clock := rfl
@[simp] theorem modCtx_uidNext (s : State) (f : Ctx → Ctx) : (modCtx s f).uidNext = s.uidNext := rfl
@[simp] theorem modCtx_freeCtr (s : State) (f : Ctx → Ctx) : (modCtx s f).freeCtr = s.freeCtr := rfl
@[simp] theorem modCtx_agenda (s : State) (f : Ctx → Ctx) : (modCtx s f).agenda = s.agenda := rfl

@[simp] theorem modG_groups (s : State) (f : Group → Group) : (modG s f).groups = s.groups := rfl
@[simp] theorem modG_blk (s : State) (f : Group → Group) : (modG s f).blk = s.blk := rfl
@[simp] theorem modG_blks (s : State) (f : Group → Group) : (modG s f).blks = s.blks := rfl
@[simp] theorem modG_parts (s : State) (f : Group → Group) : (modG s f).parts = s.parts := rfl
@[simp] theorem modG_cores (s : State) (f : Group → Group) : (modG s f).cores = s.cores := rfl
@[simp] theorem modG_clusters (s : State) (f : Group → Group) : (modG s f).clusters = s.clusters := rfl
@[simp] theorem modG_dies (s : State) (f : Group → Group) : (modG s f).dies = s.dies := rfl
@[simp] theorem modG_mem (s : State) (f : Group → Group) : (modG s f).mem = s.mem := rfl
@[simp] theorem modG_memPoison (s : State) (f : Group → Group) : (modG s f).memPoison = s.memPoison := rfl
@[simp] theorem modG_memKey (s : State) (f : Group → Group) : (modG s f).memKey = s.memKey := rfl
@[simp] theorem modG_hostMem (s : State) (f : Group → Group) : (modG s f).hostMem = s.hostMem := rfl
@[simp] theorem modG_peerMem (s : State) (f : Group → Group) : (modG s f).peerMem = s.peerMem := rfl
@[simp] theorem modG_place (s : State) (f : Group → Group) : (modG s f).place = s.place := rfl
@[simp] theorem modG_funcs (s : State) (f : Group → Group) : (modG s f).funcs = s.funcs := rfl
@[simp] theorem modG_tenants (s : State) (f : Group → Group) : (modG s f).tenants = s.tenants := rfl
@[simp] theorem modG_ports (s : State) (f : Group → Group) : (modG s f).ports = s.ports := rfl
@[simp] theorem modG_launches (s : State) (f : Group → Group) : (modG s f).launches = s.launches := rfl
@[simp] theorem modG_modules (s : State) (f : Group → Group) : (modG s f).modules = s.modules := rfl
@[simp] theorem modG_nextPort (s : State) (f : Group → Group) : (modG s f).nextPort = s.nextPort := rfl
@[simp] theorem modG_served (s : State) (f : Group → Group) : (modG s f).served = s.served := rfl
@[simp] theorem modG_taken (s : State) (f : Group → Group) : (modG s f).taken = s.taken := rfl
@[simp] theorem modG_deferred (s : State) (f : Group → Group) : (modG s f).deferred = s.deferred := rfl
@[simp] theorem modG_msgs (s : State) (f : Group → Group) : (modG s f).msgs = s.msgs := rfl
@[simp] theorem modG_chan (s : State) (f : Group → Group) : (modG s f).chan = s.chan := rfl
@[simp] theorem modG_unitOps (s : State) (f : Group → Group) : (modG s f).unitOps = s.unitOps := rfl
@[simp] theorem modG_loose (s : State) (f : Group → Group) : (modG s f).loose = s.loose := rfl
@[simp] theorem modG_early (s : State) (f : Group → Group) : (modG s f).early = s.early := rfl
@[simp] theorem modG_broken (s : State) (f : Group → Group) : (modG s f).broken = s.broken := rfl
@[simp] theorem modG_torn (s : State) (f : Group → Group) : (modG s f).torn = s.torn := rfl
@[simp] theorem modG_faults (s : State) (f : Group → Group) : (modG s f).faults = s.faults := rfl
@[simp] theorem modG_faultSeq (s : State) (f : Group → Group) : (modG s f).faultSeq = s.faultSeq := rfl
@[simp] theorem modG_mcSeq (s : State) (f : Group → Group) : (modG s f).mcSeq = s.mcSeq := rfl
@[simp] theorem modG_mcCE (s : State) (f : Group → Group) : (modG s f).mcCE = s.mcCE := rfl
@[simp] theorem modG_mcUE (s : State) (f : Group → Group) : (modG s f).mcUE = s.mcUE := rfl
@[simp] theorem modG_inval (s : State) (f : Group → Group) : (modG s f).inval = s.inval := rfl
@[simp] theorem modG_invalRun (s : State) (f : Group → Group) : (modG s f).invalRun = s.invalRun := rfl
@[simp] theorem modG_invalQ (s : State) (f : Group → Group) : (modG s f).invalQ = s.invalQ := rfl
@[simp] theorem modG_keys (s : State) (f : Group → Group) : (modG s f).keys = s.keys := rfl
@[simp] theorem modG_keyGen (s : State) (f : Group → Group) : (modG s f).keyGen = s.keyGen := rfl
@[simp] theorem modG_flushed (s : State) (f : Group → Group) : (modG s f).flushed = s.flushed := rfl
@[simp] theorem modG_session (s : State) (f : Group → Group) : (modG s f).session = s.session := rfl
@[simp] theorem modG_sessionRead (s : State) (f : Group → Group) : (modG s f).sessionRead = s.sessionRead := rfl
@[simp] theorem modG_sessionNo (s : State) (f : Group → Group) : (modG s f).sessionNo = s.sessionNo := rfl
@[simp] theorem modG_sessions (s : State) (f : Group → Group) : (modG s f).sessions = s.sessions := rfl
@[simp] theorem modG_repair (s : State) (f : Group → Group) : (modG s f).repair = s.repair := rfl
@[simp] theorem modG_signKeys (s : State) (f : Group → Group) : (modG s f).signKeys = s.signKeys := rfl
@[simp] theorem modG_firmware (s : State) (f : Group → Group) : (modG s f).firmware = s.firmware := rfl
@[simp] theorem modG_image (s : State) (f : Group → Group) : (modG s f).image = s.image := rfl
@[simp] theorem modG_recovery (s : State) (f : Group → Group) : (modG s f).recovery = s.recovery := rfl
@[simp] theorem modG_peers (s : State) (f : Group → Group) : (modG s f).peers = s.peers := rfl
@[simp] theorem modG_portsDown (s : State) (f : Group → Group) : (modG s f).portsDown = s.portsDown := rfl
@[simp] theorem modG_bar (s : State) (f : Group → Group) : (modG s f).bar = s.bar := rfl
@[simp] theorem modG_hot (s : State) (f : Group → Group) : (modG s f).hot = s.hot := rfl
@[simp] theorem modG_crit (s : State) (f : Group → Group) : (modG s f).crit = s.crit := rfl
@[simp] theorem modG_temps (s : State) (f : Group → Group) : (modG s f).temps = s.temps := rfl
@[simp] theorem modG_cooled (s : State) (f : Group → Group) : (modG s f).cooled = s.cooled := rfl
@[simp] theorem modG_freezes (s : State) (f : Group → Group) : (modG s f).freezes = s.freezes := rfl
@[simp] theorem modG_frozen (s : State) (f : Group → Group) : (modG s f).frozen = s.frozen := rfl
@[simp] theorem modG_frozenTime (s : State) (f : Group → Group) : (modG s f).frozenTime = s.frozenTime := rfl
@[simp] theorem modG_held (s : State) (f : Group → Group) : (modG s f).held = s.held := rfl
@[simp] theorem modG_areas (s : State) (f : Group → Group) : (modG s f).areas = s.areas := rfl
@[simp] theorem modG_areaTags (s : State) (f : Group → Group) : (modG s f).areaTags = s.areaTags := rfl
@[simp] theorem modG_halted (s : State) (f : Group → Group) : (modG s f).halted = s.halted := rfl
@[simp] theorem modG_link (s : State) (f : Group → Group) : (modG s f).link = s.link := rfl
@[simp] theorem modG_flits (s : State) (f : Group → Group) : (modG s f).flits = s.flits := rfl
@[simp] theorem modG_env (s : State) (f : Group → Group) : (modG s f).env = s.env := rfl
@[simp] theorem modG_via (s : State) (f : Group → Group) : (modG s f).via = s.via := rfl
@[simp] theorem modG_intr (s : State) (f : Group → Group) : (modG s f).intr = s.intr := rfl
@[simp] theorem modG_hostData (s : State) (f : Group → Group) : (modG s f).hostData = s.hostData := rfl
@[simp] theorem modG_clock (s : State) (f : Group → Group) : (modG s f).clock = s.clock := rfl
@[simp] theorem modG_uidNext (s : State) (f : Group → Group) : (modG s f).uidNext = s.uidNext := rfl
@[simp] theorem modG_freeCtr (s : State) (f : Group → Group) : (modG s f).freeCtr = s.freeCtr := rfl
@[simp] theorem modG_agenda (s : State) (f : Group → Group) : (modG s f).agenda = s.agenda := rfl

@[simp] theorem modBlk_g (s : State) (f : Block → Block) : (modBlk s f).g = s.g := rfl
@[simp] theorem modBlk_groups (s : State) (f : Block → Block) : (modBlk s f).groups = s.groups := rfl
@[simp] theorem modBlk_blks (s : State) (f : Block → Block) : (modBlk s f).blks = s.blks := rfl
@[simp] theorem modBlk_parts (s : State) (f : Block → Block) : (modBlk s f).parts = s.parts := rfl
@[simp] theorem modBlk_cores (s : State) (f : Block → Block) : (modBlk s f).cores = s.cores := rfl
@[simp] theorem modBlk_clusters (s : State) (f : Block → Block) : (modBlk s f).clusters = s.clusters := rfl
@[simp] theorem modBlk_dies (s : State) (f : Block → Block) : (modBlk s f).dies = s.dies := rfl
@[simp] theorem modBlk_mem (s : State) (f : Block → Block) : (modBlk s f).mem = s.mem := rfl
@[simp] theorem modBlk_memPoison (s : State) (f : Block → Block) : (modBlk s f).memPoison = s.memPoison := rfl
@[simp] theorem modBlk_memKey (s : State) (f : Block → Block) : (modBlk s f).memKey = s.memKey := rfl
@[simp] theorem modBlk_hostMem (s : State) (f : Block → Block) : (modBlk s f).hostMem = s.hostMem := rfl
@[simp] theorem modBlk_peerMem (s : State) (f : Block → Block) : (modBlk s f).peerMem = s.peerMem := rfl
@[simp] theorem modBlk_place (s : State) (f : Block → Block) : (modBlk s f).place = s.place := rfl
@[simp] theorem modBlk_funcs (s : State) (f : Block → Block) : (modBlk s f).funcs = s.funcs := rfl
@[simp] theorem modBlk_tenants (s : State) (f : Block → Block) : (modBlk s f).tenants = s.tenants := rfl
@[simp] theorem modBlk_ports (s : State) (f : Block → Block) : (modBlk s f).ports = s.ports := rfl
@[simp] theorem modBlk_launches (s : State) (f : Block → Block) : (modBlk s f).launches = s.launches := rfl
@[simp] theorem modBlk_modules (s : State) (f : Block → Block) : (modBlk s f).modules = s.modules := rfl
@[simp] theorem modBlk_nextPort (s : State) (f : Block → Block) : (modBlk s f).nextPort = s.nextPort := rfl
@[simp] theorem modBlk_served (s : State) (f : Block → Block) : (modBlk s f).served = s.served := rfl
@[simp] theorem modBlk_taken (s : State) (f : Block → Block) : (modBlk s f).taken = s.taken := rfl
@[simp] theorem modBlk_deferred (s : State) (f : Block → Block) : (modBlk s f).deferred = s.deferred := rfl
@[simp] theorem modBlk_msgs (s : State) (f : Block → Block) : (modBlk s f).msgs = s.msgs := rfl
@[simp] theorem modBlk_chan (s : State) (f : Block → Block) : (modBlk s f).chan = s.chan := rfl
@[simp] theorem modBlk_unitOps (s : State) (f : Block → Block) : (modBlk s f).unitOps = s.unitOps := rfl
@[simp] theorem modBlk_loose (s : State) (f : Block → Block) : (modBlk s f).loose = s.loose := rfl
@[simp] theorem modBlk_early (s : State) (f : Block → Block) : (modBlk s f).early = s.early := rfl
@[simp] theorem modBlk_broken (s : State) (f : Block → Block) : (modBlk s f).broken = s.broken := rfl
@[simp] theorem modBlk_torn (s : State) (f : Block → Block) : (modBlk s f).torn = s.torn := rfl
@[simp] theorem modBlk_faults (s : State) (f : Block → Block) : (modBlk s f).faults = s.faults := rfl
@[simp] theorem modBlk_faultSeq (s : State) (f : Block → Block) : (modBlk s f).faultSeq = s.faultSeq := rfl
@[simp] theorem modBlk_mcSeq (s : State) (f : Block → Block) : (modBlk s f).mcSeq = s.mcSeq := rfl
@[simp] theorem modBlk_mcCE (s : State) (f : Block → Block) : (modBlk s f).mcCE = s.mcCE := rfl
@[simp] theorem modBlk_mcUE (s : State) (f : Block → Block) : (modBlk s f).mcUE = s.mcUE := rfl
@[simp] theorem modBlk_inval (s : State) (f : Block → Block) : (modBlk s f).inval = s.inval := rfl
@[simp] theorem modBlk_invalRun (s : State) (f : Block → Block) : (modBlk s f).invalRun = s.invalRun := rfl
@[simp] theorem modBlk_invalQ (s : State) (f : Block → Block) : (modBlk s f).invalQ = s.invalQ := rfl
@[simp] theorem modBlk_keys (s : State) (f : Block → Block) : (modBlk s f).keys = s.keys := rfl
@[simp] theorem modBlk_keyGen (s : State) (f : Block → Block) : (modBlk s f).keyGen = s.keyGen := rfl
@[simp] theorem modBlk_flushed (s : State) (f : Block → Block) : (modBlk s f).flushed = s.flushed := rfl
@[simp] theorem modBlk_session (s : State) (f : Block → Block) : (modBlk s f).session = s.session := rfl
@[simp] theorem modBlk_sessionRead (s : State) (f : Block → Block) : (modBlk s f).sessionRead = s.sessionRead := rfl
@[simp] theorem modBlk_sessionNo (s : State) (f : Block → Block) : (modBlk s f).sessionNo = s.sessionNo := rfl
@[simp] theorem modBlk_sessions (s : State) (f : Block → Block) : (modBlk s f).sessions = s.sessions := rfl
@[simp] theorem modBlk_repair (s : State) (f : Block → Block) : (modBlk s f).repair = s.repair := rfl
@[simp] theorem modBlk_signKeys (s : State) (f : Block → Block) : (modBlk s f).signKeys = s.signKeys := rfl
@[simp] theorem modBlk_firmware (s : State) (f : Block → Block) : (modBlk s f).firmware = s.firmware := rfl
@[simp] theorem modBlk_image (s : State) (f : Block → Block) : (modBlk s f).image = s.image := rfl
@[simp] theorem modBlk_recovery (s : State) (f : Block → Block) : (modBlk s f).recovery = s.recovery := rfl
@[simp] theorem modBlk_peers (s : State) (f : Block → Block) : (modBlk s f).peers = s.peers := rfl
@[simp] theorem modBlk_portsDown (s : State) (f : Block → Block) : (modBlk s f).portsDown = s.portsDown := rfl
@[simp] theorem modBlk_bar (s : State) (f : Block → Block) : (modBlk s f).bar = s.bar := rfl
@[simp] theorem modBlk_hot (s : State) (f : Block → Block) : (modBlk s f).hot = s.hot := rfl
@[simp] theorem modBlk_crit (s : State) (f : Block → Block) : (modBlk s f).crit = s.crit := rfl
@[simp] theorem modBlk_temps (s : State) (f : Block → Block) : (modBlk s f).temps = s.temps := rfl
@[simp] theorem modBlk_cooled (s : State) (f : Block → Block) : (modBlk s f).cooled = s.cooled := rfl
@[simp] theorem modBlk_freezes (s : State) (f : Block → Block) : (modBlk s f).freezes = s.freezes := rfl
@[simp] theorem modBlk_frozen (s : State) (f : Block → Block) : (modBlk s f).frozen = s.frozen := rfl
@[simp] theorem modBlk_frozenTime (s : State) (f : Block → Block) : (modBlk s f).frozenTime = s.frozenTime := rfl
@[simp] theorem modBlk_held (s : State) (f : Block → Block) : (modBlk s f).held = s.held := rfl
@[simp] theorem modBlk_areas (s : State) (f : Block → Block) : (modBlk s f).areas = s.areas := rfl
@[simp] theorem modBlk_areaTags (s : State) (f : Block → Block) : (modBlk s f).areaTags = s.areaTags := rfl
@[simp] theorem modBlk_halted (s : State) (f : Block → Block) : (modBlk s f).halted = s.halted := rfl
@[simp] theorem modBlk_link (s : State) (f : Block → Block) : (modBlk s f).link = s.link := rfl
@[simp] theorem modBlk_flits (s : State) (f : Block → Block) : (modBlk s f).flits = s.flits := rfl
@[simp] theorem modBlk_env (s : State) (f : Block → Block) : (modBlk s f).env = s.env := rfl
@[simp] theorem modBlk_via (s : State) (f : Block → Block) : (modBlk s f).via = s.via := rfl
@[simp] theorem modBlk_intr (s : State) (f : Block → Block) : (modBlk s f).intr = s.intr := rfl
@[simp] theorem modBlk_hostData (s : State) (f : Block → Block) : (modBlk s f).hostData = s.hostData := rfl
@[simp] theorem modBlk_clock (s : State) (f : Block → Block) : (modBlk s f).clock = s.clock := rfl
@[simp] theorem modBlk_uidNext (s : State) (f : Block → Block) : (modBlk s f).uidNext = s.uidNext := rfl
@[simp] theorem modBlk_freeCtr (s : State) (f : Block → Block) : (modBlk s f).freeCtr = s.freeCtr := rfl
@[simp] theorem modBlk_agenda (s : State) (f : Block → Block) : (modBlk s f).agenda = s.agenda := rfl

@[simp] theorem modGroups_blk (s : State) (f : Group → Group) : (modGroups s f).blk = s.blk := rfl
@[simp] theorem modGroups_blks (s : State) (f : Group → Group) : (modGroups s f).blks = s.blks := rfl
@[simp] theorem modGroups_parts (s : State) (f : Group → Group) : (modGroups s f).parts = s.parts := rfl
@[simp] theorem modGroups_cores (s : State) (f : Group → Group) : (modGroups s f).cores = s.cores := rfl
@[simp] theorem modGroups_clusters (s : State) (f : Group → Group) : (modGroups s f).clusters = s.clusters := rfl
@[simp] theorem modGroups_dies (s : State) (f : Group → Group) : (modGroups s f).dies = s.dies := rfl
@[simp] theorem modGroups_mem (s : State) (f : Group → Group) : (modGroups s f).mem = s.mem := rfl
@[simp] theorem modGroups_memPoison (s : State) (f : Group → Group) : (modGroups s f).memPoison = s.memPoison := rfl
@[simp] theorem modGroups_memKey (s : State) (f : Group → Group) : (modGroups s f).memKey = s.memKey := rfl
@[simp] theorem modGroups_hostMem (s : State) (f : Group → Group) : (modGroups s f).hostMem = s.hostMem := rfl
@[simp] theorem modGroups_peerMem (s : State) (f : Group → Group) : (modGroups s f).peerMem = s.peerMem := rfl
@[simp] theorem modGroups_place (s : State) (f : Group → Group) : (modGroups s f).place = s.place := rfl
@[simp] theorem modGroups_funcs (s : State) (f : Group → Group) : (modGroups s f).funcs = s.funcs := rfl
@[simp] theorem modGroups_tenants (s : State) (f : Group → Group) : (modGroups s f).tenants = s.tenants := rfl
@[simp] theorem modGroups_ports (s : State) (f : Group → Group) : (modGroups s f).ports = s.ports := rfl
@[simp] theorem modGroups_launches (s : State) (f : Group → Group) : (modGroups s f).launches = s.launches := rfl
@[simp] theorem modGroups_modules (s : State) (f : Group → Group) : (modGroups s f).modules = s.modules := rfl
@[simp] theorem modGroups_nextPort (s : State) (f : Group → Group) : (modGroups s f).nextPort = s.nextPort := rfl
@[simp] theorem modGroups_served (s : State) (f : Group → Group) : (modGroups s f).served = s.served := rfl
@[simp] theorem modGroups_taken (s : State) (f : Group → Group) : (modGroups s f).taken = s.taken := rfl
@[simp] theorem modGroups_deferred (s : State) (f : Group → Group) : (modGroups s f).deferred = s.deferred := rfl
@[simp] theorem modGroups_msgs (s : State) (f : Group → Group) : (modGroups s f).msgs = s.msgs := rfl
@[simp] theorem modGroups_chan (s : State) (f : Group → Group) : (modGroups s f).chan = s.chan := rfl
@[simp] theorem modGroups_unitOps (s : State) (f : Group → Group) : (modGroups s f).unitOps = s.unitOps := rfl
@[simp] theorem modGroups_loose (s : State) (f : Group → Group) : (modGroups s f).loose = s.loose := rfl
@[simp] theorem modGroups_early (s : State) (f : Group → Group) : (modGroups s f).early = s.early := rfl
@[simp] theorem modGroups_broken (s : State) (f : Group → Group) : (modGroups s f).broken = s.broken := rfl
@[simp] theorem modGroups_torn (s : State) (f : Group → Group) : (modGroups s f).torn = s.torn := rfl
@[simp] theorem modGroups_faults (s : State) (f : Group → Group) : (modGroups s f).faults = s.faults := rfl
@[simp] theorem modGroups_faultSeq (s : State) (f : Group → Group) : (modGroups s f).faultSeq = s.faultSeq := rfl
@[simp] theorem modGroups_mcSeq (s : State) (f : Group → Group) : (modGroups s f).mcSeq = s.mcSeq := rfl
@[simp] theorem modGroups_mcCE (s : State) (f : Group → Group) : (modGroups s f).mcCE = s.mcCE := rfl
@[simp] theorem modGroups_mcUE (s : State) (f : Group → Group) : (modGroups s f).mcUE = s.mcUE := rfl
@[simp] theorem modGroups_inval (s : State) (f : Group → Group) : (modGroups s f).inval = s.inval := rfl
@[simp] theorem modGroups_invalRun (s : State) (f : Group → Group) : (modGroups s f).invalRun = s.invalRun := rfl
@[simp] theorem modGroups_invalQ (s : State) (f : Group → Group) : (modGroups s f).invalQ = s.invalQ := rfl
@[simp] theorem modGroups_keys (s : State) (f : Group → Group) : (modGroups s f).keys = s.keys := rfl
@[simp] theorem modGroups_keyGen (s : State) (f : Group → Group) : (modGroups s f).keyGen = s.keyGen := rfl
@[simp] theorem modGroups_flushed (s : State) (f : Group → Group) : (modGroups s f).flushed = s.flushed := rfl
@[simp] theorem modGroups_session (s : State) (f : Group → Group) : (modGroups s f).session = s.session := rfl
@[simp] theorem modGroups_sessionRead (s : State) (f : Group → Group) : (modGroups s f).sessionRead = s.sessionRead := rfl
@[simp] theorem modGroups_sessionNo (s : State) (f : Group → Group) : (modGroups s f).sessionNo = s.sessionNo := rfl
@[simp] theorem modGroups_sessions (s : State) (f : Group → Group) : (modGroups s f).sessions = s.sessions := rfl
@[simp] theorem modGroups_repair (s : State) (f : Group → Group) : (modGroups s f).repair = s.repair := rfl
@[simp] theorem modGroups_signKeys (s : State) (f : Group → Group) : (modGroups s f).signKeys = s.signKeys := rfl
@[simp] theorem modGroups_firmware (s : State) (f : Group → Group) : (modGroups s f).firmware = s.firmware := rfl
@[simp] theorem modGroups_image (s : State) (f : Group → Group) : (modGroups s f).image = s.image := rfl
@[simp] theorem modGroups_recovery (s : State) (f : Group → Group) : (modGroups s f).recovery = s.recovery := rfl
@[simp] theorem modGroups_peers (s : State) (f : Group → Group) : (modGroups s f).peers = s.peers := rfl
@[simp] theorem modGroups_portsDown (s : State) (f : Group → Group) : (modGroups s f).portsDown = s.portsDown := rfl
@[simp] theorem modGroups_bar (s : State) (f : Group → Group) : (modGroups s f).bar = s.bar := rfl
@[simp] theorem modGroups_hot (s : State) (f : Group → Group) : (modGroups s f).hot = s.hot := rfl
@[simp] theorem modGroups_crit (s : State) (f : Group → Group) : (modGroups s f).crit = s.crit := rfl
@[simp] theorem modGroups_temps (s : State) (f : Group → Group) : (modGroups s f).temps = s.temps := rfl
@[simp] theorem modGroups_cooled (s : State) (f : Group → Group) : (modGroups s f).cooled = s.cooled := rfl
@[simp] theorem modGroups_freezes (s : State) (f : Group → Group) : (modGroups s f).freezes = s.freezes := rfl
@[simp] theorem modGroups_frozen (s : State) (f : Group → Group) : (modGroups s f).frozen = s.frozen := rfl
@[simp] theorem modGroups_frozenTime (s : State) (f : Group → Group) : (modGroups s f).frozenTime = s.frozenTime := rfl
@[simp] theorem modGroups_held (s : State) (f : Group → Group) : (modGroups s f).held = s.held := rfl
@[simp] theorem modGroups_areas (s : State) (f : Group → Group) : (modGroups s f).areas = s.areas := rfl
@[simp] theorem modGroups_areaTags (s : State) (f : Group → Group) : (modGroups s f).areaTags = s.areaTags := rfl
@[simp] theorem modGroups_halted (s : State) (f : Group → Group) : (modGroups s f).halted = s.halted := rfl
@[simp] theorem modGroups_link (s : State) (f : Group → Group) : (modGroups s f).link = s.link := rfl
@[simp] theorem modGroups_flits (s : State) (f : Group → Group) : (modGroups s f).flits = s.flits := rfl
@[simp] theorem modGroups_env (s : State) (f : Group → Group) : (modGroups s f).env = s.env := rfl
@[simp] theorem modGroups_via (s : State) (f : Group → Group) : (modGroups s f).via = s.via := rfl
@[simp] theorem modGroups_intr (s : State) (f : Group → Group) : (modGroups s f).intr = s.intr := rfl
@[simp] theorem modGroups_hostData (s : State) (f : Group → Group) : (modGroups s f).hostData = s.hostData := rfl
@[simp] theorem modGroups_clock (s : State) (f : Group → Group) : (modGroups s f).clock = s.clock := rfl
@[simp] theorem modGroups_uidNext (s : State) (f : Group → Group) : (modGroups s f).uidNext = s.uidNext := rfl
@[simp] theorem modGroups_freeCtr (s : State) (f : Group → Group) : (modGroups s f).freeCtr = s.freeCtr := rfl
@[simp] theorem modGroups_agenda (s : State) (f : Group → Group) : (modGroups s f).agenda = s.agenda := rfl

@[simp] theorem modBlks_g (s : State) (f : Block → Block) : (modBlks s f).g = s.g := rfl
@[simp] theorem modBlks_groups (s : State) (f : Block → Block) : (modBlks s f).groups = s.groups := rfl
@[simp] theorem modBlks_parts (s : State) (f : Block → Block) : (modBlks s f).parts = s.parts := rfl
@[simp] theorem modBlks_cores (s : State) (f : Block → Block) : (modBlks s f).cores = s.cores := rfl
@[simp] theorem modBlks_clusters (s : State) (f : Block → Block) : (modBlks s f).clusters = s.clusters := rfl
@[simp] theorem modBlks_dies (s : State) (f : Block → Block) : (modBlks s f).dies = s.dies := rfl
@[simp] theorem modBlks_mem (s : State) (f : Block → Block) : (modBlks s f).mem = s.mem := rfl
@[simp] theorem modBlks_memPoison (s : State) (f : Block → Block) : (modBlks s f).memPoison = s.memPoison := rfl
@[simp] theorem modBlks_memKey (s : State) (f : Block → Block) : (modBlks s f).memKey = s.memKey := rfl
@[simp] theorem modBlks_hostMem (s : State) (f : Block → Block) : (modBlks s f).hostMem = s.hostMem := rfl
@[simp] theorem modBlks_peerMem (s : State) (f : Block → Block) : (modBlks s f).peerMem = s.peerMem := rfl
@[simp] theorem modBlks_place (s : State) (f : Block → Block) : (modBlks s f).place = s.place := rfl
@[simp] theorem modBlks_funcs (s : State) (f : Block → Block) : (modBlks s f).funcs = s.funcs := rfl
@[simp] theorem modBlks_tenants (s : State) (f : Block → Block) : (modBlks s f).tenants = s.tenants := rfl
@[simp] theorem modBlks_ports (s : State) (f : Block → Block) : (modBlks s f).ports = s.ports := rfl
@[simp] theorem modBlks_launches (s : State) (f : Block → Block) : (modBlks s f).launches = s.launches := rfl
@[simp] theorem modBlks_modules (s : State) (f : Block → Block) : (modBlks s f).modules = s.modules := rfl
@[simp] theorem modBlks_nextPort (s : State) (f : Block → Block) : (modBlks s f).nextPort = s.nextPort := rfl
@[simp] theorem modBlks_served (s : State) (f : Block → Block) : (modBlks s f).served = s.served := rfl
@[simp] theorem modBlks_taken (s : State) (f : Block → Block) : (modBlks s f).taken = s.taken := rfl
@[simp] theorem modBlks_deferred (s : State) (f : Block → Block) : (modBlks s f).deferred = s.deferred := rfl
@[simp] theorem modBlks_msgs (s : State) (f : Block → Block) : (modBlks s f).msgs = s.msgs := rfl
@[simp] theorem modBlks_chan (s : State) (f : Block → Block) : (modBlks s f).chan = s.chan := rfl
@[simp] theorem modBlks_unitOps (s : State) (f : Block → Block) : (modBlks s f).unitOps = s.unitOps := rfl
@[simp] theorem modBlks_loose (s : State) (f : Block → Block) : (modBlks s f).loose = s.loose := rfl
@[simp] theorem modBlks_early (s : State) (f : Block → Block) : (modBlks s f).early = s.early := rfl
@[simp] theorem modBlks_broken (s : State) (f : Block → Block) : (modBlks s f).broken = s.broken := rfl
@[simp] theorem modBlks_torn (s : State) (f : Block → Block) : (modBlks s f).torn = s.torn := rfl
@[simp] theorem modBlks_faults (s : State) (f : Block → Block) : (modBlks s f).faults = s.faults := rfl
@[simp] theorem modBlks_faultSeq (s : State) (f : Block → Block) : (modBlks s f).faultSeq = s.faultSeq := rfl
@[simp] theorem modBlks_mcSeq (s : State) (f : Block → Block) : (modBlks s f).mcSeq = s.mcSeq := rfl
@[simp] theorem modBlks_mcCE (s : State) (f : Block → Block) : (modBlks s f).mcCE = s.mcCE := rfl
@[simp] theorem modBlks_mcUE (s : State) (f : Block → Block) : (modBlks s f).mcUE = s.mcUE := rfl
@[simp] theorem modBlks_inval (s : State) (f : Block → Block) : (modBlks s f).inval = s.inval := rfl
@[simp] theorem modBlks_invalRun (s : State) (f : Block → Block) : (modBlks s f).invalRun = s.invalRun := rfl
@[simp] theorem modBlks_invalQ (s : State) (f : Block → Block) : (modBlks s f).invalQ = s.invalQ := rfl
@[simp] theorem modBlks_keys (s : State) (f : Block → Block) : (modBlks s f).keys = s.keys := rfl
@[simp] theorem modBlks_keyGen (s : State) (f : Block → Block) : (modBlks s f).keyGen = s.keyGen := rfl
@[simp] theorem modBlks_flushed (s : State) (f : Block → Block) : (modBlks s f).flushed = s.flushed := rfl
@[simp] theorem modBlks_session (s : State) (f : Block → Block) : (modBlks s f).session = s.session := rfl
@[simp] theorem modBlks_sessionRead (s : State) (f : Block → Block) : (modBlks s f).sessionRead = s.sessionRead := rfl
@[simp] theorem modBlks_sessionNo (s : State) (f : Block → Block) : (modBlks s f).sessionNo = s.sessionNo := rfl
@[simp] theorem modBlks_sessions (s : State) (f : Block → Block) : (modBlks s f).sessions = s.sessions := rfl
@[simp] theorem modBlks_repair (s : State) (f : Block → Block) : (modBlks s f).repair = s.repair := rfl
@[simp] theorem modBlks_signKeys (s : State) (f : Block → Block) : (modBlks s f).signKeys = s.signKeys := rfl
@[simp] theorem modBlks_firmware (s : State) (f : Block → Block) : (modBlks s f).firmware = s.firmware := rfl
@[simp] theorem modBlks_image (s : State) (f : Block → Block) : (modBlks s f).image = s.image := rfl
@[simp] theorem modBlks_recovery (s : State) (f : Block → Block) : (modBlks s f).recovery = s.recovery := rfl
@[simp] theorem modBlks_peers (s : State) (f : Block → Block) : (modBlks s f).peers = s.peers := rfl
@[simp] theorem modBlks_portsDown (s : State) (f : Block → Block) : (modBlks s f).portsDown = s.portsDown := rfl
@[simp] theorem modBlks_bar (s : State) (f : Block → Block) : (modBlks s f).bar = s.bar := rfl
@[simp] theorem modBlks_hot (s : State) (f : Block → Block) : (modBlks s f).hot = s.hot := rfl
@[simp] theorem modBlks_crit (s : State) (f : Block → Block) : (modBlks s f).crit = s.crit := rfl
@[simp] theorem modBlks_temps (s : State) (f : Block → Block) : (modBlks s f).temps = s.temps := rfl
@[simp] theorem modBlks_cooled (s : State) (f : Block → Block) : (modBlks s f).cooled = s.cooled := rfl
@[simp] theorem modBlks_freezes (s : State) (f : Block → Block) : (modBlks s f).freezes = s.freezes := rfl
@[simp] theorem modBlks_frozen (s : State) (f : Block → Block) : (modBlks s f).frozen = s.frozen := rfl
@[simp] theorem modBlks_frozenTime (s : State) (f : Block → Block) : (modBlks s f).frozenTime = s.frozenTime := rfl
@[simp] theorem modBlks_held (s : State) (f : Block → Block) : (modBlks s f).held = s.held := rfl
@[simp] theorem modBlks_areas (s : State) (f : Block → Block) : (modBlks s f).areas = s.areas := rfl
@[simp] theorem modBlks_areaTags (s : State) (f : Block → Block) : (modBlks s f).areaTags = s.areaTags := rfl
@[simp] theorem modBlks_halted (s : State) (f : Block → Block) : (modBlks s f).halted = s.halted := rfl
@[simp] theorem modBlks_link (s : State) (f : Block → Block) : (modBlks s f).link = s.link := rfl
@[simp] theorem modBlks_flits (s : State) (f : Block → Block) : (modBlks s f).flits = s.flits := rfl
@[simp] theorem modBlks_env (s : State) (f : Block → Block) : (modBlks s f).env = s.env := rfl
@[simp] theorem modBlks_via (s : State) (f : Block → Block) : (modBlks s f).via = s.via := rfl
@[simp] theorem modBlks_intr (s : State) (f : Block → Block) : (modBlks s f).intr = s.intr := rfl
@[simp] theorem modBlks_hostData (s : State) (f : Block → Block) : (modBlks s f).hostData = s.hostData := rfl
@[simp] theorem modBlks_clock (s : State) (f : Block → Block) : (modBlks s f).clock = s.clock := rfl
@[simp] theorem modBlks_uidNext (s : State) (f : Block → Block) : (modBlks s f).uidNext = s.uidNext := rfl
@[simp] theorem modBlks_freeCtr (s : State) (f : Block → Block) : (modBlks s f).freeCtr = s.freeCtr := rfl
@[simp] theorem modBlks_agenda (s : State) (f : Block → Block) : (modBlks s f).agenda = s.agenda := rfl

@[simp] theorem updGroup_blk (s : State) (u k : Nat) (f : Group → Group) : (updGroup s u k f).blk = s.blk := rfl
@[simp] theorem updGroup_blks (s : State) (u k : Nat) (f : Group → Group) : (updGroup s u k f).blks = s.blks := rfl
@[simp] theorem updGroup_parts (s : State) (u k : Nat) (f : Group → Group) : (updGroup s u k f).parts = s.parts := rfl
@[simp] theorem updGroup_cores (s : State) (u k : Nat) (f : Group → Group) : (updGroup s u k f).cores = s.cores := rfl
@[simp] theorem updGroup_clusters (s : State) (u k : Nat) (f : Group → Group) : (updGroup s u k f).clusters = s.clusters := rfl
@[simp] theorem updGroup_dies (s : State) (u k : Nat) (f : Group → Group) : (updGroup s u k f).dies = s.dies := rfl
@[simp] theorem updGroup_mem (s : State) (u k : Nat) (f : Group → Group) : (updGroup s u k f).mem = s.mem := rfl
@[simp] theorem updGroup_memPoison (s : State) (u k : Nat) (f : Group → Group) : (updGroup s u k f).memPoison = s.memPoison := rfl
@[simp] theorem updGroup_memKey (s : State) (u k : Nat) (f : Group → Group) : (updGroup s u k f).memKey = s.memKey := rfl
@[simp] theorem updGroup_hostMem (s : State) (u k : Nat) (f : Group → Group) : (updGroup s u k f).hostMem = s.hostMem := rfl
@[simp] theorem updGroup_peerMem (s : State) (u k : Nat) (f : Group → Group) : (updGroup s u k f).peerMem = s.peerMem := rfl
@[simp] theorem updGroup_place (s : State) (u k : Nat) (f : Group → Group) : (updGroup s u k f).place = s.place := rfl
@[simp] theorem updGroup_funcs (s : State) (u k : Nat) (f : Group → Group) : (updGroup s u k f).funcs = s.funcs := rfl
@[simp] theorem updGroup_tenants (s : State) (u k : Nat) (f : Group → Group) : (updGroup s u k f).tenants = s.tenants := rfl
@[simp] theorem updGroup_ports (s : State) (u k : Nat) (f : Group → Group) : (updGroup s u k f).ports = s.ports := rfl
@[simp] theorem updGroup_launches (s : State) (u k : Nat) (f : Group → Group) : (updGroup s u k f).launches = s.launches := rfl
@[simp] theorem updGroup_modules (s : State) (u k : Nat) (f : Group → Group) : (updGroup s u k f).modules = s.modules := rfl
@[simp] theorem updGroup_nextPort (s : State) (u k : Nat) (f : Group → Group) : (updGroup s u k f).nextPort = s.nextPort := rfl
@[simp] theorem updGroup_served (s : State) (u k : Nat) (f : Group → Group) : (updGroup s u k f).served = s.served := rfl
@[simp] theorem updGroup_taken (s : State) (u k : Nat) (f : Group → Group) : (updGroup s u k f).taken = s.taken := rfl
@[simp] theorem updGroup_deferred (s : State) (u k : Nat) (f : Group → Group) : (updGroup s u k f).deferred = s.deferred := rfl
@[simp] theorem updGroup_msgs (s : State) (u k : Nat) (f : Group → Group) : (updGroup s u k f).msgs = s.msgs := rfl
@[simp] theorem updGroup_chan (s : State) (u k : Nat) (f : Group → Group) : (updGroup s u k f).chan = s.chan := rfl
@[simp] theorem updGroup_unitOps (s : State) (u k : Nat) (f : Group → Group) : (updGroup s u k f).unitOps = s.unitOps := rfl
@[simp] theorem updGroup_loose (s : State) (u k : Nat) (f : Group → Group) : (updGroup s u k f).loose = s.loose := rfl
@[simp] theorem updGroup_early (s : State) (u k : Nat) (f : Group → Group) : (updGroup s u k f).early = s.early := rfl
@[simp] theorem updGroup_broken (s : State) (u k : Nat) (f : Group → Group) : (updGroup s u k f).broken = s.broken := rfl
@[simp] theorem updGroup_torn (s : State) (u k : Nat) (f : Group → Group) : (updGroup s u k f).torn = s.torn := rfl
@[simp] theorem updGroup_faults (s : State) (u k : Nat) (f : Group → Group) : (updGroup s u k f).faults = s.faults := rfl
@[simp] theorem updGroup_faultSeq (s : State) (u k : Nat) (f : Group → Group) : (updGroup s u k f).faultSeq = s.faultSeq := rfl
@[simp] theorem updGroup_mcSeq (s : State) (u k : Nat) (f : Group → Group) : (updGroup s u k f).mcSeq = s.mcSeq := rfl
@[simp] theorem updGroup_mcCE (s : State) (u k : Nat) (f : Group → Group) : (updGroup s u k f).mcCE = s.mcCE := rfl
@[simp] theorem updGroup_mcUE (s : State) (u k : Nat) (f : Group → Group) : (updGroup s u k f).mcUE = s.mcUE := rfl
@[simp] theorem updGroup_inval (s : State) (u k : Nat) (f : Group → Group) : (updGroup s u k f).inval = s.inval := rfl
@[simp] theorem updGroup_invalRun (s : State) (u k : Nat) (f : Group → Group) : (updGroup s u k f).invalRun = s.invalRun := rfl
@[simp] theorem updGroup_invalQ (s : State) (u k : Nat) (f : Group → Group) : (updGroup s u k f).invalQ = s.invalQ := rfl
@[simp] theorem updGroup_keys (s : State) (u k : Nat) (f : Group → Group) : (updGroup s u k f).keys = s.keys := rfl
@[simp] theorem updGroup_keyGen (s : State) (u k : Nat) (f : Group → Group) : (updGroup s u k f).keyGen = s.keyGen := rfl
@[simp] theorem updGroup_flushed (s : State) (u k : Nat) (f : Group → Group) : (updGroup s u k f).flushed = s.flushed := rfl
@[simp] theorem updGroup_session (s : State) (u k : Nat) (f : Group → Group) : (updGroup s u k f).session = s.session := rfl
@[simp] theorem updGroup_sessionRead (s : State) (u k : Nat) (f : Group → Group) : (updGroup s u k f).sessionRead = s.sessionRead := rfl
@[simp] theorem updGroup_sessionNo (s : State) (u k : Nat) (f : Group → Group) : (updGroup s u k f).sessionNo = s.sessionNo := rfl
@[simp] theorem updGroup_sessions (s : State) (u k : Nat) (f : Group → Group) : (updGroup s u k f).sessions = s.sessions := rfl
@[simp] theorem updGroup_repair (s : State) (u k : Nat) (f : Group → Group) : (updGroup s u k f).repair = s.repair := rfl
@[simp] theorem updGroup_signKeys (s : State) (u k : Nat) (f : Group → Group) : (updGroup s u k f).signKeys = s.signKeys := rfl
@[simp] theorem updGroup_firmware (s : State) (u k : Nat) (f : Group → Group) : (updGroup s u k f).firmware = s.firmware := rfl
@[simp] theorem updGroup_image (s : State) (u k : Nat) (f : Group → Group) : (updGroup s u k f).image = s.image := rfl
@[simp] theorem updGroup_recovery (s : State) (u k : Nat) (f : Group → Group) : (updGroup s u k f).recovery = s.recovery := rfl
@[simp] theorem updGroup_peers (s : State) (u k : Nat) (f : Group → Group) : (updGroup s u k f).peers = s.peers := rfl
@[simp] theorem updGroup_portsDown (s : State) (u k : Nat) (f : Group → Group) : (updGroup s u k f).portsDown = s.portsDown := rfl
@[simp] theorem updGroup_bar (s : State) (u k : Nat) (f : Group → Group) : (updGroup s u k f).bar = s.bar := rfl
@[simp] theorem updGroup_hot (s : State) (u k : Nat) (f : Group → Group) : (updGroup s u k f).hot = s.hot := rfl
@[simp] theorem updGroup_crit (s : State) (u k : Nat) (f : Group → Group) : (updGroup s u k f).crit = s.crit := rfl
@[simp] theorem updGroup_temps (s : State) (u k : Nat) (f : Group → Group) : (updGroup s u k f).temps = s.temps := rfl
@[simp] theorem updGroup_cooled (s : State) (u k : Nat) (f : Group → Group) : (updGroup s u k f).cooled = s.cooled := rfl
@[simp] theorem updGroup_freezes (s : State) (u k : Nat) (f : Group → Group) : (updGroup s u k f).freezes = s.freezes := rfl
@[simp] theorem updGroup_frozen (s : State) (u k : Nat) (f : Group → Group) : (updGroup s u k f).frozen = s.frozen := rfl
@[simp] theorem updGroup_frozenTime (s : State) (u k : Nat) (f : Group → Group) : (updGroup s u k f).frozenTime = s.frozenTime := rfl
@[simp] theorem updGroup_held (s : State) (u k : Nat) (f : Group → Group) : (updGroup s u k f).held = s.held := rfl
@[simp] theorem updGroup_areas (s : State) (u k : Nat) (f : Group → Group) : (updGroup s u k f).areas = s.areas := rfl
@[simp] theorem updGroup_areaTags (s : State) (u k : Nat) (f : Group → Group) : (updGroup s u k f).areaTags = s.areaTags := rfl
@[simp] theorem updGroup_halted (s : State) (u k : Nat) (f : Group → Group) : (updGroup s u k f).halted = s.halted := rfl
@[simp] theorem updGroup_link (s : State) (u k : Nat) (f : Group → Group) : (updGroup s u k f).link = s.link := rfl
@[simp] theorem updGroup_flits (s : State) (u k : Nat) (f : Group → Group) : (updGroup s u k f).flits = s.flits := rfl
@[simp] theorem updGroup_env (s : State) (u k : Nat) (f : Group → Group) : (updGroup s u k f).env = s.env := rfl
@[simp] theorem updGroup_via (s : State) (u k : Nat) (f : Group → Group) : (updGroup s u k f).via = s.via := rfl
@[simp] theorem updGroup_intr (s : State) (u k : Nat) (f : Group → Group) : (updGroup s u k f).intr = s.intr := rfl
@[simp] theorem updGroup_hostData (s : State) (u k : Nat) (f : Group → Group) : (updGroup s u k f).hostData = s.hostData := rfl
@[simp] theorem updGroup_clock (s : State) (u k : Nat) (f : Group → Group) : (updGroup s u k f).clock = s.clock := rfl
@[simp] theorem updGroup_uidNext (s : State) (u k : Nat) (f : Group → Group) : (updGroup s u k f).uidNext = s.uidNext := rfl
@[simp] theorem updGroup_freeCtr (s : State) (u k : Nat) (f : Group → Group) : (updGroup s u k f).freeCtr = s.freeCtr := rfl
@[simp] theorem updGroup_agenda (s : State) (u k : Nat) (f : Group → Group) : (updGroup s u k f).agenda = s.agenda := rfl

@[simp] theorem updBlk_g (s : State) (u : Nat) (f : Block → Block) : (updBlk s u f).g = s.g := rfl
@[simp] theorem updBlk_groups (s : State) (u : Nat) (f : Block → Block) : (updBlk s u f).groups = s.groups := rfl
@[simp] theorem updBlk_parts (s : State) (u : Nat) (f : Block → Block) : (updBlk s u f).parts = s.parts := rfl
@[simp] theorem updBlk_cores (s : State) (u : Nat) (f : Block → Block) : (updBlk s u f).cores = s.cores := rfl
@[simp] theorem updBlk_clusters (s : State) (u : Nat) (f : Block → Block) : (updBlk s u f).clusters = s.clusters := rfl
@[simp] theorem updBlk_dies (s : State) (u : Nat) (f : Block → Block) : (updBlk s u f).dies = s.dies := rfl
@[simp] theorem updBlk_mem (s : State) (u : Nat) (f : Block → Block) : (updBlk s u f).mem = s.mem := rfl
@[simp] theorem updBlk_memPoison (s : State) (u : Nat) (f : Block → Block) : (updBlk s u f).memPoison = s.memPoison := rfl
@[simp] theorem updBlk_memKey (s : State) (u : Nat) (f : Block → Block) : (updBlk s u f).memKey = s.memKey := rfl
@[simp] theorem updBlk_hostMem (s : State) (u : Nat) (f : Block → Block) : (updBlk s u f).hostMem = s.hostMem := rfl
@[simp] theorem updBlk_peerMem (s : State) (u : Nat) (f : Block → Block) : (updBlk s u f).peerMem = s.peerMem := rfl
@[simp] theorem updBlk_place (s : State) (u : Nat) (f : Block → Block) : (updBlk s u f).place = s.place := rfl
@[simp] theorem updBlk_funcs (s : State) (u : Nat) (f : Block → Block) : (updBlk s u f).funcs = s.funcs := rfl
@[simp] theorem updBlk_tenants (s : State) (u : Nat) (f : Block → Block) : (updBlk s u f).tenants = s.tenants := rfl
@[simp] theorem updBlk_ports (s : State) (u : Nat) (f : Block → Block) : (updBlk s u f).ports = s.ports := rfl
@[simp] theorem updBlk_launches (s : State) (u : Nat) (f : Block → Block) : (updBlk s u f).launches = s.launches := rfl
@[simp] theorem updBlk_modules (s : State) (u : Nat) (f : Block → Block) : (updBlk s u f).modules = s.modules := rfl
@[simp] theorem updBlk_nextPort (s : State) (u : Nat) (f : Block → Block) : (updBlk s u f).nextPort = s.nextPort := rfl
@[simp] theorem updBlk_served (s : State) (u : Nat) (f : Block → Block) : (updBlk s u f).served = s.served := rfl
@[simp] theorem updBlk_taken (s : State) (u : Nat) (f : Block → Block) : (updBlk s u f).taken = s.taken := rfl
@[simp] theorem updBlk_deferred (s : State) (u : Nat) (f : Block → Block) : (updBlk s u f).deferred = s.deferred := rfl
@[simp] theorem updBlk_msgs (s : State) (u : Nat) (f : Block → Block) : (updBlk s u f).msgs = s.msgs := rfl
@[simp] theorem updBlk_chan (s : State) (u : Nat) (f : Block → Block) : (updBlk s u f).chan = s.chan := rfl
@[simp] theorem updBlk_unitOps (s : State) (u : Nat) (f : Block → Block) : (updBlk s u f).unitOps = s.unitOps := rfl
@[simp] theorem updBlk_loose (s : State) (u : Nat) (f : Block → Block) : (updBlk s u f).loose = s.loose := rfl
@[simp] theorem updBlk_early (s : State) (u : Nat) (f : Block → Block) : (updBlk s u f).early = s.early := rfl
@[simp] theorem updBlk_broken (s : State) (u : Nat) (f : Block → Block) : (updBlk s u f).broken = s.broken := rfl
@[simp] theorem updBlk_torn (s : State) (u : Nat) (f : Block → Block) : (updBlk s u f).torn = s.torn := rfl
@[simp] theorem updBlk_faults (s : State) (u : Nat) (f : Block → Block) : (updBlk s u f).faults = s.faults := rfl
@[simp] theorem updBlk_faultSeq (s : State) (u : Nat) (f : Block → Block) : (updBlk s u f).faultSeq = s.faultSeq := rfl
@[simp] theorem updBlk_mcSeq (s : State) (u : Nat) (f : Block → Block) : (updBlk s u f).mcSeq = s.mcSeq := rfl
@[simp] theorem updBlk_mcCE (s : State) (u : Nat) (f : Block → Block) : (updBlk s u f).mcCE = s.mcCE := rfl
@[simp] theorem updBlk_mcUE (s : State) (u : Nat) (f : Block → Block) : (updBlk s u f).mcUE = s.mcUE := rfl
@[simp] theorem updBlk_inval (s : State) (u : Nat) (f : Block → Block) : (updBlk s u f).inval = s.inval := rfl
@[simp] theorem updBlk_invalRun (s : State) (u : Nat) (f : Block → Block) : (updBlk s u f).invalRun = s.invalRun := rfl
@[simp] theorem updBlk_invalQ (s : State) (u : Nat) (f : Block → Block) : (updBlk s u f).invalQ = s.invalQ := rfl
@[simp] theorem updBlk_keys (s : State) (u : Nat) (f : Block → Block) : (updBlk s u f).keys = s.keys := rfl
@[simp] theorem updBlk_keyGen (s : State) (u : Nat) (f : Block → Block) : (updBlk s u f).keyGen = s.keyGen := rfl
@[simp] theorem updBlk_flushed (s : State) (u : Nat) (f : Block → Block) : (updBlk s u f).flushed = s.flushed := rfl
@[simp] theorem updBlk_session (s : State) (u : Nat) (f : Block → Block) : (updBlk s u f).session = s.session := rfl
@[simp] theorem updBlk_sessionRead (s : State) (u : Nat) (f : Block → Block) : (updBlk s u f).sessionRead = s.sessionRead := rfl
@[simp] theorem updBlk_sessionNo (s : State) (u : Nat) (f : Block → Block) : (updBlk s u f).sessionNo = s.sessionNo := rfl
@[simp] theorem updBlk_sessions (s : State) (u : Nat) (f : Block → Block) : (updBlk s u f).sessions = s.sessions := rfl
@[simp] theorem updBlk_repair (s : State) (u : Nat) (f : Block → Block) : (updBlk s u f).repair = s.repair := rfl
@[simp] theorem updBlk_signKeys (s : State) (u : Nat) (f : Block → Block) : (updBlk s u f).signKeys = s.signKeys := rfl
@[simp] theorem updBlk_firmware (s : State) (u : Nat) (f : Block → Block) : (updBlk s u f).firmware = s.firmware := rfl
@[simp] theorem updBlk_image (s : State) (u : Nat) (f : Block → Block) : (updBlk s u f).image = s.image := rfl
@[simp] theorem updBlk_recovery (s : State) (u : Nat) (f : Block → Block) : (updBlk s u f).recovery = s.recovery := rfl
@[simp] theorem updBlk_peers (s : State) (u : Nat) (f : Block → Block) : (updBlk s u f).peers = s.peers := rfl
@[simp] theorem updBlk_portsDown (s : State) (u : Nat) (f : Block → Block) : (updBlk s u f).portsDown = s.portsDown := rfl
@[simp] theorem updBlk_bar (s : State) (u : Nat) (f : Block → Block) : (updBlk s u f).bar = s.bar := rfl
@[simp] theorem updBlk_hot (s : State) (u : Nat) (f : Block → Block) : (updBlk s u f).hot = s.hot := rfl
@[simp] theorem updBlk_crit (s : State) (u : Nat) (f : Block → Block) : (updBlk s u f).crit = s.crit := rfl
@[simp] theorem updBlk_temps (s : State) (u : Nat) (f : Block → Block) : (updBlk s u f).temps = s.temps := rfl
@[simp] theorem updBlk_cooled (s : State) (u : Nat) (f : Block → Block) : (updBlk s u f).cooled = s.cooled := rfl
@[simp] theorem updBlk_freezes (s : State) (u : Nat) (f : Block → Block) : (updBlk s u f).freezes = s.freezes := rfl
@[simp] theorem updBlk_frozen (s : State) (u : Nat) (f : Block → Block) : (updBlk s u f).frozen = s.frozen := rfl
@[simp] theorem updBlk_frozenTime (s : State) (u : Nat) (f : Block → Block) : (updBlk s u f).frozenTime = s.frozenTime := rfl
@[simp] theorem updBlk_held (s : State) (u : Nat) (f : Block → Block) : (updBlk s u f).held = s.held := rfl
@[simp] theorem updBlk_areas (s : State) (u : Nat) (f : Block → Block) : (updBlk s u f).areas = s.areas := rfl
@[simp] theorem updBlk_areaTags (s : State) (u : Nat) (f : Block → Block) : (updBlk s u f).areaTags = s.areaTags := rfl
@[simp] theorem updBlk_halted (s : State) (u : Nat) (f : Block → Block) : (updBlk s u f).halted = s.halted := rfl
@[simp] theorem updBlk_link (s : State) (u : Nat) (f : Block → Block) : (updBlk s u f).link = s.link := rfl
@[simp] theorem updBlk_flits (s : State) (u : Nat) (f : Block → Block) : (updBlk s u f).flits = s.flits := rfl
@[simp] theorem updBlk_env (s : State) (u : Nat) (f : Block → Block) : (updBlk s u f).env = s.env := rfl
@[simp] theorem updBlk_via (s : State) (u : Nat) (f : Block → Block) : (updBlk s u f).via = s.via := rfl
@[simp] theorem updBlk_intr (s : State) (u : Nat) (f : Block → Block) : (updBlk s u f).intr = s.intr := rfl
@[simp] theorem updBlk_hostData (s : State) (u : Nat) (f : Block → Block) : (updBlk s u f).hostData = s.hostData := rfl
@[simp] theorem updBlk_clock (s : State) (u : Nat) (f : Block → Block) : (updBlk s u f).clock = s.clock := rfl
@[simp] theorem updBlk_uidNext (s : State) (u : Nat) (f : Block → Block) : (updBlk s u f).uidNext = s.uidNext := rfl
@[simp] theorem updBlk_freeCtr (s : State) (u : Nat) (f : Block → Block) : (updBlk s u f).freeCtr = s.freeCtr := rfl
@[simp] theorem updBlk_agenda (s : State) (u : Nat) (f : Block → Block) : (updBlk s u f).agenda = s.agenda := rfl

@[simp] theorem modPart_g (s : State) (k : Nat) (f : Part → Part) : (modPart s k f).g = s.g := rfl
@[simp] theorem modPart_groups (s : State) (k : Nat) (f : Part → Part) : (modPart s k f).groups = s.groups := rfl
@[simp] theorem modPart_blk (s : State) (k : Nat) (f : Part → Part) : (modPart s k f).blk = s.blk := rfl
@[simp] theorem modPart_blks (s : State) (k : Nat) (f : Part → Part) : (modPart s k f).blks = s.blks := rfl
@[simp] theorem modPart_cores (s : State) (k : Nat) (f : Part → Part) : (modPart s k f).cores = s.cores := rfl
@[simp] theorem modPart_clusters (s : State) (k : Nat) (f : Part → Part) : (modPart s k f).clusters = s.clusters := rfl
@[simp] theorem modPart_dies (s : State) (k : Nat) (f : Part → Part) : (modPart s k f).dies = s.dies := rfl
@[simp] theorem modPart_mem (s : State) (k : Nat) (f : Part → Part) : (modPart s k f).mem = s.mem := rfl
@[simp] theorem modPart_memPoison (s : State) (k : Nat) (f : Part → Part) : (modPart s k f).memPoison = s.memPoison := rfl
@[simp] theorem modPart_memKey (s : State) (k : Nat) (f : Part → Part) : (modPart s k f).memKey = s.memKey := rfl
@[simp] theorem modPart_hostMem (s : State) (k : Nat) (f : Part → Part) : (modPart s k f).hostMem = s.hostMem := rfl
@[simp] theorem modPart_peerMem (s : State) (k : Nat) (f : Part → Part) : (modPart s k f).peerMem = s.peerMem := rfl
@[simp] theorem modPart_place (s : State) (k : Nat) (f : Part → Part) : (modPart s k f).place = s.place := rfl
@[simp] theorem modPart_funcs (s : State) (k : Nat) (f : Part → Part) : (modPart s k f).funcs = s.funcs := rfl
@[simp] theorem modPart_tenants (s : State) (k : Nat) (f : Part → Part) : (modPart s k f).tenants = s.tenants := rfl
@[simp] theorem modPart_ports (s : State) (k : Nat) (f : Part → Part) : (modPart s k f).ports = s.ports := rfl
@[simp] theorem modPart_launches (s : State) (k : Nat) (f : Part → Part) : (modPart s k f).launches = s.launches := rfl
@[simp] theorem modPart_modules (s : State) (k : Nat) (f : Part → Part) : (modPart s k f).modules = s.modules := rfl
@[simp] theorem modPart_nextPort (s : State) (k : Nat) (f : Part → Part) : (modPart s k f).nextPort = s.nextPort := rfl
@[simp] theorem modPart_served (s : State) (k : Nat) (f : Part → Part) : (modPart s k f).served = s.served := rfl
@[simp] theorem modPart_taken (s : State) (k : Nat) (f : Part → Part) : (modPart s k f).taken = s.taken := rfl
@[simp] theorem modPart_deferred (s : State) (k : Nat) (f : Part → Part) : (modPart s k f).deferred = s.deferred := rfl
@[simp] theorem modPart_msgs (s : State) (k : Nat) (f : Part → Part) : (modPart s k f).msgs = s.msgs := rfl
@[simp] theorem modPart_chan (s : State) (k : Nat) (f : Part → Part) : (modPart s k f).chan = s.chan := rfl
@[simp] theorem modPart_unitOps (s : State) (k : Nat) (f : Part → Part) : (modPart s k f).unitOps = s.unitOps := rfl
@[simp] theorem modPart_loose (s : State) (k : Nat) (f : Part → Part) : (modPart s k f).loose = s.loose := rfl
@[simp] theorem modPart_early (s : State) (k : Nat) (f : Part → Part) : (modPart s k f).early = s.early := rfl
@[simp] theorem modPart_broken (s : State) (k : Nat) (f : Part → Part) : (modPart s k f).broken = s.broken := rfl
@[simp] theorem modPart_torn (s : State) (k : Nat) (f : Part → Part) : (modPart s k f).torn = s.torn := rfl
@[simp] theorem modPart_faults (s : State) (k : Nat) (f : Part → Part) : (modPart s k f).faults = s.faults := rfl
@[simp] theorem modPart_faultSeq (s : State) (k : Nat) (f : Part → Part) : (modPart s k f).faultSeq = s.faultSeq := rfl
@[simp] theorem modPart_mcSeq (s : State) (k : Nat) (f : Part → Part) : (modPart s k f).mcSeq = s.mcSeq := rfl
@[simp] theorem modPart_mcCE (s : State) (k : Nat) (f : Part → Part) : (modPart s k f).mcCE = s.mcCE := rfl
@[simp] theorem modPart_mcUE (s : State) (k : Nat) (f : Part → Part) : (modPart s k f).mcUE = s.mcUE := rfl
@[simp] theorem modPart_inval (s : State) (k : Nat) (f : Part → Part) : (modPart s k f).inval = s.inval := rfl
@[simp] theorem modPart_invalRun (s : State) (k : Nat) (f : Part → Part) : (modPart s k f).invalRun = s.invalRun := rfl
@[simp] theorem modPart_invalQ (s : State) (k : Nat) (f : Part → Part) : (modPart s k f).invalQ = s.invalQ := rfl
@[simp] theorem modPart_keys (s : State) (k : Nat) (f : Part → Part) : (modPart s k f).keys = s.keys := rfl
@[simp] theorem modPart_keyGen (s : State) (k : Nat) (f : Part → Part) : (modPart s k f).keyGen = s.keyGen := rfl
@[simp] theorem modPart_flushed (s : State) (k : Nat) (f : Part → Part) : (modPart s k f).flushed = s.flushed := rfl
@[simp] theorem modPart_session (s : State) (k : Nat) (f : Part → Part) : (modPart s k f).session = s.session := rfl
@[simp] theorem modPart_sessionRead (s : State) (k : Nat) (f : Part → Part) : (modPart s k f).sessionRead = s.sessionRead := rfl
@[simp] theorem modPart_sessionNo (s : State) (k : Nat) (f : Part → Part) : (modPart s k f).sessionNo = s.sessionNo := rfl
@[simp] theorem modPart_sessions (s : State) (k : Nat) (f : Part → Part) : (modPart s k f).sessions = s.sessions := rfl
@[simp] theorem modPart_repair (s : State) (k : Nat) (f : Part → Part) : (modPart s k f).repair = s.repair := rfl
@[simp] theorem modPart_signKeys (s : State) (k : Nat) (f : Part → Part) : (modPart s k f).signKeys = s.signKeys := rfl
@[simp] theorem modPart_firmware (s : State) (k : Nat) (f : Part → Part) : (modPart s k f).firmware = s.firmware := rfl
@[simp] theorem modPart_image (s : State) (k : Nat) (f : Part → Part) : (modPart s k f).image = s.image := rfl
@[simp] theorem modPart_recovery (s : State) (k : Nat) (f : Part → Part) : (modPart s k f).recovery = s.recovery := rfl
@[simp] theorem modPart_peers (s : State) (k : Nat) (f : Part → Part) : (modPart s k f).peers = s.peers := rfl
@[simp] theorem modPart_portsDown (s : State) (k : Nat) (f : Part → Part) : (modPart s k f).portsDown = s.portsDown := rfl
@[simp] theorem modPart_bar (s : State) (k : Nat) (f : Part → Part) : (modPart s k f).bar = s.bar := rfl
@[simp] theorem modPart_hot (s : State) (k : Nat) (f : Part → Part) : (modPart s k f).hot = s.hot := rfl
@[simp] theorem modPart_crit (s : State) (k : Nat) (f : Part → Part) : (modPart s k f).crit = s.crit := rfl
@[simp] theorem modPart_temps (s : State) (k : Nat) (f : Part → Part) : (modPart s k f).temps = s.temps := rfl
@[simp] theorem modPart_cooled (s : State) (k : Nat) (f : Part → Part) : (modPart s k f).cooled = s.cooled := rfl
@[simp] theorem modPart_freezes (s : State) (k : Nat) (f : Part → Part) : (modPart s k f).freezes = s.freezes := rfl
@[simp] theorem modPart_frozen (s : State) (k : Nat) (f : Part → Part) : (modPart s k f).frozen = s.frozen := rfl
@[simp] theorem modPart_frozenTime (s : State) (k : Nat) (f : Part → Part) : (modPart s k f).frozenTime = s.frozenTime := rfl
@[simp] theorem modPart_held (s : State) (k : Nat) (f : Part → Part) : (modPart s k f).held = s.held := rfl
@[simp] theorem modPart_areas (s : State) (k : Nat) (f : Part → Part) : (modPart s k f).areas = s.areas := rfl
@[simp] theorem modPart_areaTags (s : State) (k : Nat) (f : Part → Part) : (modPart s k f).areaTags = s.areaTags := rfl
@[simp] theorem modPart_halted (s : State) (k : Nat) (f : Part → Part) : (modPart s k f).halted = s.halted := rfl
@[simp] theorem modPart_link (s : State) (k : Nat) (f : Part → Part) : (modPart s k f).link = s.link := rfl
@[simp] theorem modPart_flits (s : State) (k : Nat) (f : Part → Part) : (modPart s k f).flits = s.flits := rfl
@[simp] theorem modPart_env (s : State) (k : Nat) (f : Part → Part) : (modPart s k f).env = s.env := rfl
@[simp] theorem modPart_via (s : State) (k : Nat) (f : Part → Part) : (modPart s k f).via = s.via := rfl
@[simp] theorem modPart_intr (s : State) (k : Nat) (f : Part → Part) : (modPart s k f).intr = s.intr := rfl
@[simp] theorem modPart_hostData (s : State) (k : Nat) (f : Part → Part) : (modPart s k f).hostData = s.hostData := rfl
@[simp] theorem modPart_clock (s : State) (k : Nat) (f : Part → Part) : (modPart s k f).clock = s.clock := rfl
@[simp] theorem modPart_uidNext (s : State) (k : Nat) (f : Part → Part) : (modPart s k f).uidNext = s.uidNext := rfl
@[simp] theorem modPart_freeCtr (s : State) (k : Nat) (f : Part → Part) : (modPart s k f).freeCtr = s.freeCtr := rfl
@[simp] theorem modPart_agenda (s : State) (k : Nat) (f : Part → Part) : (modPart s k f).agenda = s.agenda := rfl

@[simp] theorem modCore_g (s : State) (k : Nat) (f : Core → Core) : (modCore s k f).g = s.g := rfl
@[simp] theorem modCore_groups (s : State) (k : Nat) (f : Core → Core) : (modCore s k f).groups = s.groups := rfl
@[simp] theorem modCore_blk (s : State) (k : Nat) (f : Core → Core) : (modCore s k f).blk = s.blk := rfl
@[simp] theorem modCore_blks (s : State) (k : Nat) (f : Core → Core) : (modCore s k f).blks = s.blks := rfl
@[simp] theorem modCore_parts (s : State) (k : Nat) (f : Core → Core) : (modCore s k f).parts = s.parts := rfl
@[simp] theorem modCore_clusters (s : State) (k : Nat) (f : Core → Core) : (modCore s k f).clusters = s.clusters := rfl
@[simp] theorem modCore_dies (s : State) (k : Nat) (f : Core → Core) : (modCore s k f).dies = s.dies := rfl
@[simp] theorem modCore_mem (s : State) (k : Nat) (f : Core → Core) : (modCore s k f).mem = s.mem := rfl
@[simp] theorem modCore_memPoison (s : State) (k : Nat) (f : Core → Core) : (modCore s k f).memPoison = s.memPoison := rfl
@[simp] theorem modCore_memKey (s : State) (k : Nat) (f : Core → Core) : (modCore s k f).memKey = s.memKey := rfl
@[simp] theorem modCore_hostMem (s : State) (k : Nat) (f : Core → Core) : (modCore s k f).hostMem = s.hostMem := rfl
@[simp] theorem modCore_peerMem (s : State) (k : Nat) (f : Core → Core) : (modCore s k f).peerMem = s.peerMem := rfl
@[simp] theorem modCore_place (s : State) (k : Nat) (f : Core → Core) : (modCore s k f).place = s.place := rfl
@[simp] theorem modCore_funcs (s : State) (k : Nat) (f : Core → Core) : (modCore s k f).funcs = s.funcs := rfl
@[simp] theorem modCore_tenants (s : State) (k : Nat) (f : Core → Core) : (modCore s k f).tenants = s.tenants := rfl
@[simp] theorem modCore_ports (s : State) (k : Nat) (f : Core → Core) : (modCore s k f).ports = s.ports := rfl
@[simp] theorem modCore_launches (s : State) (k : Nat) (f : Core → Core) : (modCore s k f).launches = s.launches := rfl
@[simp] theorem modCore_modules (s : State) (k : Nat) (f : Core → Core) : (modCore s k f).modules = s.modules := rfl
@[simp] theorem modCore_nextPort (s : State) (k : Nat) (f : Core → Core) : (modCore s k f).nextPort = s.nextPort := rfl
@[simp] theorem modCore_served (s : State) (k : Nat) (f : Core → Core) : (modCore s k f).served = s.served := rfl
@[simp] theorem modCore_taken (s : State) (k : Nat) (f : Core → Core) : (modCore s k f).taken = s.taken := rfl
@[simp] theorem modCore_deferred (s : State) (k : Nat) (f : Core → Core) : (modCore s k f).deferred = s.deferred := rfl
@[simp] theorem modCore_msgs (s : State) (k : Nat) (f : Core → Core) : (modCore s k f).msgs = s.msgs := rfl
@[simp] theorem modCore_chan (s : State) (k : Nat) (f : Core → Core) : (modCore s k f).chan = s.chan := rfl
@[simp] theorem modCore_unitOps (s : State) (k : Nat) (f : Core → Core) : (modCore s k f).unitOps = s.unitOps := rfl
@[simp] theorem modCore_loose (s : State) (k : Nat) (f : Core → Core) : (modCore s k f).loose = s.loose := rfl
@[simp] theorem modCore_early (s : State) (k : Nat) (f : Core → Core) : (modCore s k f).early = s.early := rfl
@[simp] theorem modCore_broken (s : State) (k : Nat) (f : Core → Core) : (modCore s k f).broken = s.broken := rfl
@[simp] theorem modCore_torn (s : State) (k : Nat) (f : Core → Core) : (modCore s k f).torn = s.torn := rfl
@[simp] theorem modCore_faults (s : State) (k : Nat) (f : Core → Core) : (modCore s k f).faults = s.faults := rfl
@[simp] theorem modCore_faultSeq (s : State) (k : Nat) (f : Core → Core) : (modCore s k f).faultSeq = s.faultSeq := rfl
@[simp] theorem modCore_mcSeq (s : State) (k : Nat) (f : Core → Core) : (modCore s k f).mcSeq = s.mcSeq := rfl
@[simp] theorem modCore_mcCE (s : State) (k : Nat) (f : Core → Core) : (modCore s k f).mcCE = s.mcCE := rfl
@[simp] theorem modCore_mcUE (s : State) (k : Nat) (f : Core → Core) : (modCore s k f).mcUE = s.mcUE := rfl
@[simp] theorem modCore_inval (s : State) (k : Nat) (f : Core → Core) : (modCore s k f).inval = s.inval := rfl
@[simp] theorem modCore_invalRun (s : State) (k : Nat) (f : Core → Core) : (modCore s k f).invalRun = s.invalRun := rfl
@[simp] theorem modCore_invalQ (s : State) (k : Nat) (f : Core → Core) : (modCore s k f).invalQ = s.invalQ := rfl
@[simp] theorem modCore_keys (s : State) (k : Nat) (f : Core → Core) : (modCore s k f).keys = s.keys := rfl
@[simp] theorem modCore_keyGen (s : State) (k : Nat) (f : Core → Core) : (modCore s k f).keyGen = s.keyGen := rfl
@[simp] theorem modCore_flushed (s : State) (k : Nat) (f : Core → Core) : (modCore s k f).flushed = s.flushed := rfl
@[simp] theorem modCore_session (s : State) (k : Nat) (f : Core → Core) : (modCore s k f).session = s.session := rfl
@[simp] theorem modCore_sessionRead (s : State) (k : Nat) (f : Core → Core) : (modCore s k f).sessionRead = s.sessionRead := rfl
@[simp] theorem modCore_sessionNo (s : State) (k : Nat) (f : Core → Core) : (modCore s k f).sessionNo = s.sessionNo := rfl
@[simp] theorem modCore_sessions (s : State) (k : Nat) (f : Core → Core) : (modCore s k f).sessions = s.sessions := rfl
@[simp] theorem modCore_repair (s : State) (k : Nat) (f : Core → Core) : (modCore s k f).repair = s.repair := rfl
@[simp] theorem modCore_signKeys (s : State) (k : Nat) (f : Core → Core) : (modCore s k f).signKeys = s.signKeys := rfl
@[simp] theorem modCore_firmware (s : State) (k : Nat) (f : Core → Core) : (modCore s k f).firmware = s.firmware := rfl
@[simp] theorem modCore_image (s : State) (k : Nat) (f : Core → Core) : (modCore s k f).image = s.image := rfl
@[simp] theorem modCore_recovery (s : State) (k : Nat) (f : Core → Core) : (modCore s k f).recovery = s.recovery := rfl
@[simp] theorem modCore_peers (s : State) (k : Nat) (f : Core → Core) : (modCore s k f).peers = s.peers := rfl
@[simp] theorem modCore_portsDown (s : State) (k : Nat) (f : Core → Core) : (modCore s k f).portsDown = s.portsDown := rfl
@[simp] theorem modCore_bar (s : State) (k : Nat) (f : Core → Core) : (modCore s k f).bar = s.bar := rfl
@[simp] theorem modCore_hot (s : State) (k : Nat) (f : Core → Core) : (modCore s k f).hot = s.hot := rfl
@[simp] theorem modCore_crit (s : State) (k : Nat) (f : Core → Core) : (modCore s k f).crit = s.crit := rfl
@[simp] theorem modCore_temps (s : State) (k : Nat) (f : Core → Core) : (modCore s k f).temps = s.temps := rfl
@[simp] theorem modCore_cooled (s : State) (k : Nat) (f : Core → Core) : (modCore s k f).cooled = s.cooled := rfl
@[simp] theorem modCore_freezes (s : State) (k : Nat) (f : Core → Core) : (modCore s k f).freezes = s.freezes := rfl
@[simp] theorem modCore_frozen (s : State) (k : Nat) (f : Core → Core) : (modCore s k f).frozen = s.frozen := rfl
@[simp] theorem modCore_frozenTime (s : State) (k : Nat) (f : Core → Core) : (modCore s k f).frozenTime = s.frozenTime := rfl
@[simp] theorem modCore_held (s : State) (k : Nat) (f : Core → Core) : (modCore s k f).held = s.held := rfl
@[simp] theorem modCore_areas (s : State) (k : Nat) (f : Core → Core) : (modCore s k f).areas = s.areas := rfl
@[simp] theorem modCore_areaTags (s : State) (k : Nat) (f : Core → Core) : (modCore s k f).areaTags = s.areaTags := rfl
@[simp] theorem modCore_halted (s : State) (k : Nat) (f : Core → Core) : (modCore s k f).halted = s.halted := rfl
@[simp] theorem modCore_link (s : State) (k : Nat) (f : Core → Core) : (modCore s k f).link = s.link := rfl
@[simp] theorem modCore_flits (s : State) (k : Nat) (f : Core → Core) : (modCore s k f).flits = s.flits := rfl
@[simp] theorem modCore_env (s : State) (k : Nat) (f : Core → Core) : (modCore s k f).env = s.env := rfl
@[simp] theorem modCore_via (s : State) (k : Nat) (f : Core → Core) : (modCore s k f).via = s.via := rfl
@[simp] theorem modCore_intr (s : State) (k : Nat) (f : Core → Core) : (modCore s k f).intr = s.intr := rfl
@[simp] theorem modCore_hostData (s : State) (k : Nat) (f : Core → Core) : (modCore s k f).hostData = s.hostData := rfl
@[simp] theorem modCore_clock (s : State) (k : Nat) (f : Core → Core) : (modCore s k f).clock = s.clock := rfl
@[simp] theorem modCore_uidNext (s : State) (k : Nat) (f : Core → Core) : (modCore s k f).uidNext = s.uidNext := rfl
@[simp] theorem modCore_freeCtr (s : State) (k : Nat) (f : Core → Core) : (modCore s k f).freeCtr = s.freeCtr := rfl
@[simp] theorem modCore_agenda (s : State) (k : Nat) (f : Core → Core) : (modCore s k f).agenda = s.agenda := rfl

@[simp] theorem modDie_g (s : State) (k : Nat) (f : Die → Die) : (modDie s k f).g = s.g := rfl
@[simp] theorem modDie_groups (s : State) (k : Nat) (f : Die → Die) : (modDie s k f).groups = s.groups := rfl
@[simp] theorem modDie_blk (s : State) (k : Nat) (f : Die → Die) : (modDie s k f).blk = s.blk := rfl
@[simp] theorem modDie_blks (s : State) (k : Nat) (f : Die → Die) : (modDie s k f).blks = s.blks := rfl
@[simp] theorem modDie_parts (s : State) (k : Nat) (f : Die → Die) : (modDie s k f).parts = s.parts := rfl
@[simp] theorem modDie_cores (s : State) (k : Nat) (f : Die → Die) : (modDie s k f).cores = s.cores := rfl
@[simp] theorem modDie_clusters (s : State) (k : Nat) (f : Die → Die) : (modDie s k f).clusters = s.clusters := rfl
@[simp] theorem modDie_mem (s : State) (k : Nat) (f : Die → Die) : (modDie s k f).mem = s.mem := rfl
@[simp] theorem modDie_memPoison (s : State) (k : Nat) (f : Die → Die) : (modDie s k f).memPoison = s.memPoison := rfl
@[simp] theorem modDie_memKey (s : State) (k : Nat) (f : Die → Die) : (modDie s k f).memKey = s.memKey := rfl
@[simp] theorem modDie_hostMem (s : State) (k : Nat) (f : Die → Die) : (modDie s k f).hostMem = s.hostMem := rfl
@[simp] theorem modDie_peerMem (s : State) (k : Nat) (f : Die → Die) : (modDie s k f).peerMem = s.peerMem := rfl
@[simp] theorem modDie_place (s : State) (k : Nat) (f : Die → Die) : (modDie s k f).place = s.place := rfl
@[simp] theorem modDie_funcs (s : State) (k : Nat) (f : Die → Die) : (modDie s k f).funcs = s.funcs := rfl
@[simp] theorem modDie_tenants (s : State) (k : Nat) (f : Die → Die) : (modDie s k f).tenants = s.tenants := rfl
@[simp] theorem modDie_ports (s : State) (k : Nat) (f : Die → Die) : (modDie s k f).ports = s.ports := rfl
@[simp] theorem modDie_launches (s : State) (k : Nat) (f : Die → Die) : (modDie s k f).launches = s.launches := rfl
@[simp] theorem modDie_modules (s : State) (k : Nat) (f : Die → Die) : (modDie s k f).modules = s.modules := rfl
@[simp] theorem modDie_nextPort (s : State) (k : Nat) (f : Die → Die) : (modDie s k f).nextPort = s.nextPort := rfl
@[simp] theorem modDie_served (s : State) (k : Nat) (f : Die → Die) : (modDie s k f).served = s.served := rfl
@[simp] theorem modDie_taken (s : State) (k : Nat) (f : Die → Die) : (modDie s k f).taken = s.taken := rfl
@[simp] theorem modDie_deferred (s : State) (k : Nat) (f : Die → Die) : (modDie s k f).deferred = s.deferred := rfl
@[simp] theorem modDie_msgs (s : State) (k : Nat) (f : Die → Die) : (modDie s k f).msgs = s.msgs := rfl
@[simp] theorem modDie_chan (s : State) (k : Nat) (f : Die → Die) : (modDie s k f).chan = s.chan := rfl
@[simp] theorem modDie_unitOps (s : State) (k : Nat) (f : Die → Die) : (modDie s k f).unitOps = s.unitOps := rfl
@[simp] theorem modDie_loose (s : State) (k : Nat) (f : Die → Die) : (modDie s k f).loose = s.loose := rfl
@[simp] theorem modDie_early (s : State) (k : Nat) (f : Die → Die) : (modDie s k f).early = s.early := rfl
@[simp] theorem modDie_broken (s : State) (k : Nat) (f : Die → Die) : (modDie s k f).broken = s.broken := rfl
@[simp] theorem modDie_torn (s : State) (k : Nat) (f : Die → Die) : (modDie s k f).torn = s.torn := rfl
@[simp] theorem modDie_faults (s : State) (k : Nat) (f : Die → Die) : (modDie s k f).faults = s.faults := rfl
@[simp] theorem modDie_faultSeq (s : State) (k : Nat) (f : Die → Die) : (modDie s k f).faultSeq = s.faultSeq := rfl
@[simp] theorem modDie_mcSeq (s : State) (k : Nat) (f : Die → Die) : (modDie s k f).mcSeq = s.mcSeq := rfl
@[simp] theorem modDie_mcCE (s : State) (k : Nat) (f : Die → Die) : (modDie s k f).mcCE = s.mcCE := rfl
@[simp] theorem modDie_mcUE (s : State) (k : Nat) (f : Die → Die) : (modDie s k f).mcUE = s.mcUE := rfl
@[simp] theorem modDie_inval (s : State) (k : Nat) (f : Die → Die) : (modDie s k f).inval = s.inval := rfl
@[simp] theorem modDie_invalRun (s : State) (k : Nat) (f : Die → Die) : (modDie s k f).invalRun = s.invalRun := rfl
@[simp] theorem modDie_invalQ (s : State) (k : Nat) (f : Die → Die) : (modDie s k f).invalQ = s.invalQ := rfl
@[simp] theorem modDie_keys (s : State) (k : Nat) (f : Die → Die) : (modDie s k f).keys = s.keys := rfl
@[simp] theorem modDie_keyGen (s : State) (k : Nat) (f : Die → Die) : (modDie s k f).keyGen = s.keyGen := rfl
@[simp] theorem modDie_flushed (s : State) (k : Nat) (f : Die → Die) : (modDie s k f).flushed = s.flushed := rfl
@[simp] theorem modDie_session (s : State) (k : Nat) (f : Die → Die) : (modDie s k f).session = s.session := rfl
@[simp] theorem modDie_sessionRead (s : State) (k : Nat) (f : Die → Die) : (modDie s k f).sessionRead = s.sessionRead := rfl
@[simp] theorem modDie_sessionNo (s : State) (k : Nat) (f : Die → Die) : (modDie s k f).sessionNo = s.sessionNo := rfl
@[simp] theorem modDie_sessions (s : State) (k : Nat) (f : Die → Die) : (modDie s k f).sessions = s.sessions := rfl
@[simp] theorem modDie_repair (s : State) (k : Nat) (f : Die → Die) : (modDie s k f).repair = s.repair := rfl
@[simp] theorem modDie_signKeys (s : State) (k : Nat) (f : Die → Die) : (modDie s k f).signKeys = s.signKeys := rfl
@[simp] theorem modDie_firmware (s : State) (k : Nat) (f : Die → Die) : (modDie s k f).firmware = s.firmware := rfl
@[simp] theorem modDie_image (s : State) (k : Nat) (f : Die → Die) : (modDie s k f).image = s.image := rfl
@[simp] theorem modDie_recovery (s : State) (k : Nat) (f : Die → Die) : (modDie s k f).recovery = s.recovery := rfl
@[simp] theorem modDie_peers (s : State) (k : Nat) (f : Die → Die) : (modDie s k f).peers = s.peers := rfl
@[simp] theorem modDie_portsDown (s : State) (k : Nat) (f : Die → Die) : (modDie s k f).portsDown = s.portsDown := rfl
@[simp] theorem modDie_bar (s : State) (k : Nat) (f : Die → Die) : (modDie s k f).bar = s.bar := rfl
@[simp] theorem modDie_hot (s : State) (k : Nat) (f : Die → Die) : (modDie s k f).hot = s.hot := rfl
@[simp] theorem modDie_crit (s : State) (k : Nat) (f : Die → Die) : (modDie s k f).crit = s.crit := rfl
@[simp] theorem modDie_temps (s : State) (k : Nat) (f : Die → Die) : (modDie s k f).temps = s.temps := rfl
@[simp] theorem modDie_cooled (s : State) (k : Nat) (f : Die → Die) : (modDie s k f).cooled = s.cooled := rfl
@[simp] theorem modDie_freezes (s : State) (k : Nat) (f : Die → Die) : (modDie s k f).freezes = s.freezes := rfl
@[simp] theorem modDie_frozen (s : State) (k : Nat) (f : Die → Die) : (modDie s k f).frozen = s.frozen := rfl
@[simp] theorem modDie_frozenTime (s : State) (k : Nat) (f : Die → Die) : (modDie s k f).frozenTime = s.frozenTime := rfl
@[simp] theorem modDie_held (s : State) (k : Nat) (f : Die → Die) : (modDie s k f).held = s.held := rfl
@[simp] theorem modDie_areas (s : State) (k : Nat) (f : Die → Die) : (modDie s k f).areas = s.areas := rfl
@[simp] theorem modDie_areaTags (s : State) (k : Nat) (f : Die → Die) : (modDie s k f).areaTags = s.areaTags := rfl
@[simp] theorem modDie_halted (s : State) (k : Nat) (f : Die → Die) : (modDie s k f).halted = s.halted := rfl
@[simp] theorem modDie_link (s : State) (k : Nat) (f : Die → Die) : (modDie s k f).link = s.link := rfl
@[simp] theorem modDie_flits (s : State) (k : Nat) (f : Die → Die) : (modDie s k f).flits = s.flits := rfl
@[simp] theorem modDie_env (s : State) (k : Nat) (f : Die → Die) : (modDie s k f).env = s.env := rfl
@[simp] theorem modDie_via (s : State) (k : Nat) (f : Die → Die) : (modDie s k f).via = s.via := rfl
@[simp] theorem modDie_intr (s : State) (k : Nat) (f : Die → Die) : (modDie s k f).intr = s.intr := rfl
@[simp] theorem modDie_hostData (s : State) (k : Nat) (f : Die → Die) : (modDie s k f).hostData = s.hostData := rfl
@[simp] theorem modDie_clock (s : State) (k : Nat) (f : Die → Die) : (modDie s k f).clock = s.clock := rfl
@[simp] theorem modDie_uidNext (s : State) (k : Nat) (f : Die → Die) : (modDie s k f).uidNext = s.uidNext := rfl
@[simp] theorem modDie_freeCtr (s : State) (k : Nat) (f : Die → Die) : (modDie s k f).freeCtr = s.freeCtr := rfl
@[simp] theorem modDie_agenda (s : State) (k : Nat) (f : Die → Die) : (modDie s k f).agenda = s.agenda := rfl

@[simp] theorem modTenant_g (s : State) (k : Nat) (f : Tenant → Tenant) : (modTenant s k f).g = s.g := rfl
@[simp] theorem modTenant_groups (s : State) (k : Nat) (f : Tenant → Tenant) : (modTenant s k f).groups = s.groups := rfl
@[simp] theorem modTenant_blk (s : State) (k : Nat) (f : Tenant → Tenant) : (modTenant s k f).blk = s.blk := rfl
@[simp] theorem modTenant_blks (s : State) (k : Nat) (f : Tenant → Tenant) : (modTenant s k f).blks = s.blks := rfl
@[simp] theorem modTenant_parts (s : State) (k : Nat) (f : Tenant → Tenant) : (modTenant s k f).parts = s.parts := rfl
@[simp] theorem modTenant_cores (s : State) (k : Nat) (f : Tenant → Tenant) : (modTenant s k f).cores = s.cores := rfl
@[simp] theorem modTenant_clusters (s : State) (k : Nat) (f : Tenant → Tenant) : (modTenant s k f).clusters = s.clusters := rfl
@[simp] theorem modTenant_dies (s : State) (k : Nat) (f : Tenant → Tenant) : (modTenant s k f).dies = s.dies := rfl
@[simp] theorem modTenant_mem (s : State) (k : Nat) (f : Tenant → Tenant) : (modTenant s k f).mem = s.mem := rfl
@[simp] theorem modTenant_memPoison (s : State) (k : Nat) (f : Tenant → Tenant) : (modTenant s k f).memPoison = s.memPoison := rfl
@[simp] theorem modTenant_memKey (s : State) (k : Nat) (f : Tenant → Tenant) : (modTenant s k f).memKey = s.memKey := rfl
@[simp] theorem modTenant_hostMem (s : State) (k : Nat) (f : Tenant → Tenant) : (modTenant s k f).hostMem = s.hostMem := rfl
@[simp] theorem modTenant_peerMem (s : State) (k : Nat) (f : Tenant → Tenant) : (modTenant s k f).peerMem = s.peerMem := rfl
@[simp] theorem modTenant_place (s : State) (k : Nat) (f : Tenant → Tenant) : (modTenant s k f).place = s.place := rfl
@[simp] theorem modTenant_funcs (s : State) (k : Nat) (f : Tenant → Tenant) : (modTenant s k f).funcs = s.funcs := rfl
@[simp] theorem modTenant_ports (s : State) (k : Nat) (f : Tenant → Tenant) : (modTenant s k f).ports = s.ports := rfl
@[simp] theorem modTenant_launches (s : State) (k : Nat) (f : Tenant → Tenant) : (modTenant s k f).launches = s.launches := rfl
@[simp] theorem modTenant_modules (s : State) (k : Nat) (f : Tenant → Tenant) : (modTenant s k f).modules = s.modules := rfl
@[simp] theorem modTenant_nextPort (s : State) (k : Nat) (f : Tenant → Tenant) : (modTenant s k f).nextPort = s.nextPort := rfl
@[simp] theorem modTenant_served (s : State) (k : Nat) (f : Tenant → Tenant) : (modTenant s k f).served = s.served := rfl
@[simp] theorem modTenant_taken (s : State) (k : Nat) (f : Tenant → Tenant) : (modTenant s k f).taken = s.taken := rfl
@[simp] theorem modTenant_deferred (s : State) (k : Nat) (f : Tenant → Tenant) : (modTenant s k f).deferred = s.deferred := rfl
@[simp] theorem modTenant_msgs (s : State) (k : Nat) (f : Tenant → Tenant) : (modTenant s k f).msgs = s.msgs := rfl
@[simp] theorem modTenant_chan (s : State) (k : Nat) (f : Tenant → Tenant) : (modTenant s k f).chan = s.chan := rfl
@[simp] theorem modTenant_unitOps (s : State) (k : Nat) (f : Tenant → Tenant) : (modTenant s k f).unitOps = s.unitOps := rfl
@[simp] theorem modTenant_loose (s : State) (k : Nat) (f : Tenant → Tenant) : (modTenant s k f).loose = s.loose := rfl
@[simp] theorem modTenant_early (s : State) (k : Nat) (f : Tenant → Tenant) : (modTenant s k f).early = s.early := rfl
@[simp] theorem modTenant_broken (s : State) (k : Nat) (f : Tenant → Tenant) : (modTenant s k f).broken = s.broken := rfl
@[simp] theorem modTenant_torn (s : State) (k : Nat) (f : Tenant → Tenant) : (modTenant s k f).torn = s.torn := rfl
@[simp] theorem modTenant_faults (s : State) (k : Nat) (f : Tenant → Tenant) : (modTenant s k f).faults = s.faults := rfl
@[simp] theorem modTenant_faultSeq (s : State) (k : Nat) (f : Tenant → Tenant) : (modTenant s k f).faultSeq = s.faultSeq := rfl
@[simp] theorem modTenant_mcSeq (s : State) (k : Nat) (f : Tenant → Tenant) : (modTenant s k f).mcSeq = s.mcSeq := rfl
@[simp] theorem modTenant_mcCE (s : State) (k : Nat) (f : Tenant → Tenant) : (modTenant s k f).mcCE = s.mcCE := rfl
@[simp] theorem modTenant_mcUE (s : State) (k : Nat) (f : Tenant → Tenant) : (modTenant s k f).mcUE = s.mcUE := rfl
@[simp] theorem modTenant_inval (s : State) (k : Nat) (f : Tenant → Tenant) : (modTenant s k f).inval = s.inval := rfl
@[simp] theorem modTenant_invalRun (s : State) (k : Nat) (f : Tenant → Tenant) : (modTenant s k f).invalRun = s.invalRun := rfl
@[simp] theorem modTenant_invalQ (s : State) (k : Nat) (f : Tenant → Tenant) : (modTenant s k f).invalQ = s.invalQ := rfl
@[simp] theorem modTenant_keys (s : State) (k : Nat) (f : Tenant → Tenant) : (modTenant s k f).keys = s.keys := rfl
@[simp] theorem modTenant_keyGen (s : State) (k : Nat) (f : Tenant → Tenant) : (modTenant s k f).keyGen = s.keyGen := rfl
@[simp] theorem modTenant_flushed (s : State) (k : Nat) (f : Tenant → Tenant) : (modTenant s k f).flushed = s.flushed := rfl
@[simp] theorem modTenant_session (s : State) (k : Nat) (f : Tenant → Tenant) : (modTenant s k f).session = s.session := rfl
@[simp] theorem modTenant_sessionRead (s : State) (k : Nat) (f : Tenant → Tenant) : (modTenant s k f).sessionRead = s.sessionRead := rfl
@[simp] theorem modTenant_sessionNo (s : State) (k : Nat) (f : Tenant → Tenant) : (modTenant s k f).sessionNo = s.sessionNo := rfl
@[simp] theorem modTenant_sessions (s : State) (k : Nat) (f : Tenant → Tenant) : (modTenant s k f).sessions = s.sessions := rfl
@[simp] theorem modTenant_repair (s : State) (k : Nat) (f : Tenant → Tenant) : (modTenant s k f).repair = s.repair := rfl
@[simp] theorem modTenant_signKeys (s : State) (k : Nat) (f : Tenant → Tenant) : (modTenant s k f).signKeys = s.signKeys := rfl
@[simp] theorem modTenant_firmware (s : State) (k : Nat) (f : Tenant → Tenant) : (modTenant s k f).firmware = s.firmware := rfl
@[simp] theorem modTenant_image (s : State) (k : Nat) (f : Tenant → Tenant) : (modTenant s k f).image = s.image := rfl
@[simp] theorem modTenant_recovery (s : State) (k : Nat) (f : Tenant → Tenant) : (modTenant s k f).recovery = s.recovery := rfl
@[simp] theorem modTenant_peers (s : State) (k : Nat) (f : Tenant → Tenant) : (modTenant s k f).peers = s.peers := rfl
@[simp] theorem modTenant_portsDown (s : State) (k : Nat) (f : Tenant → Tenant) : (modTenant s k f).portsDown = s.portsDown := rfl
@[simp] theorem modTenant_bar (s : State) (k : Nat) (f : Tenant → Tenant) : (modTenant s k f).bar = s.bar := rfl
@[simp] theorem modTenant_hot (s : State) (k : Nat) (f : Tenant → Tenant) : (modTenant s k f).hot = s.hot := rfl
@[simp] theorem modTenant_crit (s : State) (k : Nat) (f : Tenant → Tenant) : (modTenant s k f).crit = s.crit := rfl
@[simp] theorem modTenant_temps (s : State) (k : Nat) (f : Tenant → Tenant) : (modTenant s k f).temps = s.temps := rfl
@[simp] theorem modTenant_cooled (s : State) (k : Nat) (f : Tenant → Tenant) : (modTenant s k f).cooled = s.cooled := rfl
@[simp] theorem modTenant_freezes (s : State) (k : Nat) (f : Tenant → Tenant) : (modTenant s k f).freezes = s.freezes := rfl
@[simp] theorem modTenant_frozen (s : State) (k : Nat) (f : Tenant → Tenant) : (modTenant s k f).frozen = s.frozen := rfl
@[simp] theorem modTenant_frozenTime (s : State) (k : Nat) (f : Tenant → Tenant) : (modTenant s k f).frozenTime = s.frozenTime := rfl
@[simp] theorem modTenant_held (s : State) (k : Nat) (f : Tenant → Tenant) : (modTenant s k f).held = s.held := rfl
@[simp] theorem modTenant_areas (s : State) (k : Nat) (f : Tenant → Tenant) : (modTenant s k f).areas = s.areas := rfl
@[simp] theorem modTenant_areaTags (s : State) (k : Nat) (f : Tenant → Tenant) : (modTenant s k f).areaTags = s.areaTags := rfl
@[simp] theorem modTenant_halted (s : State) (k : Nat) (f : Tenant → Tenant) : (modTenant s k f).halted = s.halted := rfl
@[simp] theorem modTenant_link (s : State) (k : Nat) (f : Tenant → Tenant) : (modTenant s k f).link = s.link := rfl
@[simp] theorem modTenant_flits (s : State) (k : Nat) (f : Tenant → Tenant) : (modTenant s k f).flits = s.flits := rfl
@[simp] theorem modTenant_env (s : State) (k : Nat) (f : Tenant → Tenant) : (modTenant s k f).env = s.env := rfl
@[simp] theorem modTenant_via (s : State) (k : Nat) (f : Tenant → Tenant) : (modTenant s k f).via = s.via := rfl
@[simp] theorem modTenant_intr (s : State) (k : Nat) (f : Tenant → Tenant) : (modTenant s k f).intr = s.intr := rfl
@[simp] theorem modTenant_hostData (s : State) (k : Nat) (f : Tenant → Tenant) : (modTenant s k f).hostData = s.hostData := rfl
@[simp] theorem modTenant_clock (s : State) (k : Nat) (f : Tenant → Tenant) : (modTenant s k f).clock = s.clock := rfl
@[simp] theorem modTenant_uidNext (s : State) (k : Nat) (f : Tenant → Tenant) : (modTenant s k f).uidNext = s.uidNext := rfl
@[simp] theorem modTenant_freeCtr (s : State) (k : Nat) (f : Tenant → Tenant) : (modTenant s k f).freeCtr = s.freeCtr := rfl
@[simp] theorem modTenant_agenda (s : State) (k : Nat) (f : Tenant → Tenant) : (modTenant s k f).agenda = s.agenda := rfl

@[simp] theorem modPort_g (s : State) (k : Nat) (f : Port → Port) : (modPort s k f).g = s.g := rfl
@[simp] theorem modPort_groups (s : State) (k : Nat) (f : Port → Port) : (modPort s k f).groups = s.groups := rfl
@[simp] theorem modPort_blk (s : State) (k : Nat) (f : Port → Port) : (modPort s k f).blk = s.blk := rfl
@[simp] theorem modPort_blks (s : State) (k : Nat) (f : Port → Port) : (modPort s k f).blks = s.blks := rfl
@[simp] theorem modPort_parts (s : State) (k : Nat) (f : Port → Port) : (modPort s k f).parts = s.parts := rfl
@[simp] theorem modPort_cores (s : State) (k : Nat) (f : Port → Port) : (modPort s k f).cores = s.cores := rfl
@[simp] theorem modPort_clusters (s : State) (k : Nat) (f : Port → Port) : (modPort s k f).clusters = s.clusters := rfl
@[simp] theorem modPort_dies (s : State) (k : Nat) (f : Port → Port) : (modPort s k f).dies = s.dies := rfl
@[simp] theorem modPort_mem (s : State) (k : Nat) (f : Port → Port) : (modPort s k f).mem = s.mem := rfl
@[simp] theorem modPort_memPoison (s : State) (k : Nat) (f : Port → Port) : (modPort s k f).memPoison = s.memPoison := rfl
@[simp] theorem modPort_memKey (s : State) (k : Nat) (f : Port → Port) : (modPort s k f).memKey = s.memKey := rfl
@[simp] theorem modPort_hostMem (s : State) (k : Nat) (f : Port → Port) : (modPort s k f).hostMem = s.hostMem := rfl
@[simp] theorem modPort_peerMem (s : State) (k : Nat) (f : Port → Port) : (modPort s k f).peerMem = s.peerMem := rfl
@[simp] theorem modPort_place (s : State) (k : Nat) (f : Port → Port) : (modPort s k f).place = s.place := rfl
@[simp] theorem modPort_funcs (s : State) (k : Nat) (f : Port → Port) : (modPort s k f).funcs = s.funcs := rfl
@[simp] theorem modPort_tenants (s : State) (k : Nat) (f : Port → Port) : (modPort s k f).tenants = s.tenants := rfl
@[simp] theorem modPort_launches (s : State) (k : Nat) (f : Port → Port) : (modPort s k f).launches = s.launches := rfl
@[simp] theorem modPort_modules (s : State) (k : Nat) (f : Port → Port) : (modPort s k f).modules = s.modules := rfl
@[simp] theorem modPort_nextPort (s : State) (k : Nat) (f : Port → Port) : (modPort s k f).nextPort = s.nextPort := rfl
@[simp] theorem modPort_served (s : State) (k : Nat) (f : Port → Port) : (modPort s k f).served = s.served := rfl
@[simp] theorem modPort_taken (s : State) (k : Nat) (f : Port → Port) : (modPort s k f).taken = s.taken := rfl
@[simp] theorem modPort_deferred (s : State) (k : Nat) (f : Port → Port) : (modPort s k f).deferred = s.deferred := rfl
@[simp] theorem modPort_msgs (s : State) (k : Nat) (f : Port → Port) : (modPort s k f).msgs = s.msgs := rfl
@[simp] theorem modPort_chan (s : State) (k : Nat) (f : Port → Port) : (modPort s k f).chan = s.chan := rfl
@[simp] theorem modPort_unitOps (s : State) (k : Nat) (f : Port → Port) : (modPort s k f).unitOps = s.unitOps := rfl
@[simp] theorem modPort_loose (s : State) (k : Nat) (f : Port → Port) : (modPort s k f).loose = s.loose := rfl
@[simp] theorem modPort_early (s : State) (k : Nat) (f : Port → Port) : (modPort s k f).early = s.early := rfl
@[simp] theorem modPort_broken (s : State) (k : Nat) (f : Port → Port) : (modPort s k f).broken = s.broken := rfl
@[simp] theorem modPort_torn (s : State) (k : Nat) (f : Port → Port) : (modPort s k f).torn = s.torn := rfl
@[simp] theorem modPort_faults (s : State) (k : Nat) (f : Port → Port) : (modPort s k f).faults = s.faults := rfl
@[simp] theorem modPort_faultSeq (s : State) (k : Nat) (f : Port → Port) : (modPort s k f).faultSeq = s.faultSeq := rfl
@[simp] theorem modPort_mcSeq (s : State) (k : Nat) (f : Port → Port) : (modPort s k f).mcSeq = s.mcSeq := rfl
@[simp] theorem modPort_mcCE (s : State) (k : Nat) (f : Port → Port) : (modPort s k f).mcCE = s.mcCE := rfl
@[simp] theorem modPort_mcUE (s : State) (k : Nat) (f : Port → Port) : (modPort s k f).mcUE = s.mcUE := rfl
@[simp] theorem modPort_inval (s : State) (k : Nat) (f : Port → Port) : (modPort s k f).inval = s.inval := rfl
@[simp] theorem modPort_invalRun (s : State) (k : Nat) (f : Port → Port) : (modPort s k f).invalRun = s.invalRun := rfl
@[simp] theorem modPort_invalQ (s : State) (k : Nat) (f : Port → Port) : (modPort s k f).invalQ = s.invalQ := rfl
@[simp] theorem modPort_keys (s : State) (k : Nat) (f : Port → Port) : (modPort s k f).keys = s.keys := rfl
@[simp] theorem modPort_keyGen (s : State) (k : Nat) (f : Port → Port) : (modPort s k f).keyGen = s.keyGen := rfl
@[simp] theorem modPort_flushed (s : State) (k : Nat) (f : Port → Port) : (modPort s k f).flushed = s.flushed := rfl
@[simp] theorem modPort_session (s : State) (k : Nat) (f : Port → Port) : (modPort s k f).session = s.session := rfl
@[simp] theorem modPort_sessionRead (s : State) (k : Nat) (f : Port → Port) : (modPort s k f).sessionRead = s.sessionRead := rfl
@[simp] theorem modPort_sessionNo (s : State) (k : Nat) (f : Port → Port) : (modPort s k f).sessionNo = s.sessionNo := rfl
@[simp] theorem modPort_sessions (s : State) (k : Nat) (f : Port → Port) : (modPort s k f).sessions = s.sessions := rfl
@[simp] theorem modPort_repair (s : State) (k : Nat) (f : Port → Port) : (modPort s k f).repair = s.repair := rfl
@[simp] theorem modPort_signKeys (s : State) (k : Nat) (f : Port → Port) : (modPort s k f).signKeys = s.signKeys := rfl
@[simp] theorem modPort_firmware (s : State) (k : Nat) (f : Port → Port) : (modPort s k f).firmware = s.firmware := rfl
@[simp] theorem modPort_image (s : State) (k : Nat) (f : Port → Port) : (modPort s k f).image = s.image := rfl
@[simp] theorem modPort_recovery (s : State) (k : Nat) (f : Port → Port) : (modPort s k f).recovery = s.recovery := rfl
@[simp] theorem modPort_peers (s : State) (k : Nat) (f : Port → Port) : (modPort s k f).peers = s.peers := rfl
@[simp] theorem modPort_portsDown (s : State) (k : Nat) (f : Port → Port) : (modPort s k f).portsDown = s.portsDown := rfl
@[simp] theorem modPort_bar (s : State) (k : Nat) (f : Port → Port) : (modPort s k f).bar = s.bar := rfl
@[simp] theorem modPort_hot (s : State) (k : Nat) (f : Port → Port) : (modPort s k f).hot = s.hot := rfl
@[simp] theorem modPort_crit (s : State) (k : Nat) (f : Port → Port) : (modPort s k f).crit = s.crit := rfl
@[simp] theorem modPort_temps (s : State) (k : Nat) (f : Port → Port) : (modPort s k f).temps = s.temps := rfl
@[simp] theorem modPort_cooled (s : State) (k : Nat) (f : Port → Port) : (modPort s k f).cooled = s.cooled := rfl
@[simp] theorem modPort_freezes (s : State) (k : Nat) (f : Port → Port) : (modPort s k f).freezes = s.freezes := rfl
@[simp] theorem modPort_frozen (s : State) (k : Nat) (f : Port → Port) : (modPort s k f).frozen = s.frozen := rfl
@[simp] theorem modPort_frozenTime (s : State) (k : Nat) (f : Port → Port) : (modPort s k f).frozenTime = s.frozenTime := rfl
@[simp] theorem modPort_held (s : State) (k : Nat) (f : Port → Port) : (modPort s k f).held = s.held := rfl
@[simp] theorem modPort_areas (s : State) (k : Nat) (f : Port → Port) : (modPort s k f).areas = s.areas := rfl
@[simp] theorem modPort_areaTags (s : State) (k : Nat) (f : Port → Port) : (modPort s k f).areaTags = s.areaTags := rfl
@[simp] theorem modPort_halted (s : State) (k : Nat) (f : Port → Port) : (modPort s k f).halted = s.halted := rfl
@[simp] theorem modPort_link (s : State) (k : Nat) (f : Port → Port) : (modPort s k f).link = s.link := rfl
@[simp] theorem modPort_flits (s : State) (k : Nat) (f : Port → Port) : (modPort s k f).flits = s.flits := rfl
@[simp] theorem modPort_env (s : State) (k : Nat) (f : Port → Port) : (modPort s k f).env = s.env := rfl
@[simp] theorem modPort_via (s : State) (k : Nat) (f : Port → Port) : (modPort s k f).via = s.via := rfl
@[simp] theorem modPort_intr (s : State) (k : Nat) (f : Port → Port) : (modPort s k f).intr = s.intr := rfl
@[simp] theorem modPort_hostData (s : State) (k : Nat) (f : Port → Port) : (modPort s k f).hostData = s.hostData := rfl
@[simp] theorem modPort_clock (s : State) (k : Nat) (f : Port → Port) : (modPort s k f).clock = s.clock := rfl
@[simp] theorem modPort_uidNext (s : State) (k : Nat) (f : Port → Port) : (modPort s k f).uidNext = s.uidNext := rfl
@[simp] theorem modPort_freeCtr (s : State) (k : Nat) (f : Port → Port) : (modPort s k f).freeCtr = s.freeCtr := rfl
@[simp] theorem modPort_agenda (s : State) (k : Nat) (f : Port → Port) : (modPort s k f).agenda = s.agenda := rfl

@[simp] theorem updLaunch_g (s : State) (k : Nat) (f : Launch → Launch) : (updLaunch s k f).g = s.g := rfl
@[simp] theorem updLaunch_groups (s : State) (k : Nat) (f : Launch → Launch) : (updLaunch s k f).groups = s.groups := rfl
@[simp] theorem updLaunch_blk (s : State) (k : Nat) (f : Launch → Launch) : (updLaunch s k f).blk = s.blk := rfl
@[simp] theorem updLaunch_blks (s : State) (k : Nat) (f : Launch → Launch) : (updLaunch s k f).blks = s.blks := rfl
@[simp] theorem updLaunch_parts (s : State) (k : Nat) (f : Launch → Launch) : (updLaunch s k f).parts = s.parts := rfl
@[simp] theorem updLaunch_cores (s : State) (k : Nat) (f : Launch → Launch) : (updLaunch s k f).cores = s.cores := rfl
@[simp] theorem updLaunch_clusters (s : State) (k : Nat) (f : Launch → Launch) : (updLaunch s k f).clusters = s.clusters := rfl
@[simp] theorem updLaunch_dies (s : State) (k : Nat) (f : Launch → Launch) : (updLaunch s k f).dies = s.dies := rfl
@[simp] theorem updLaunch_mem (s : State) (k : Nat) (f : Launch → Launch) : (updLaunch s k f).mem = s.mem := rfl
@[simp] theorem updLaunch_memPoison (s : State) (k : Nat) (f : Launch → Launch) : (updLaunch s k f).memPoison = s.memPoison := rfl
@[simp] theorem updLaunch_memKey (s : State) (k : Nat) (f : Launch → Launch) : (updLaunch s k f).memKey = s.memKey := rfl
@[simp] theorem updLaunch_hostMem (s : State) (k : Nat) (f : Launch → Launch) : (updLaunch s k f).hostMem = s.hostMem := rfl
@[simp] theorem updLaunch_peerMem (s : State) (k : Nat) (f : Launch → Launch) : (updLaunch s k f).peerMem = s.peerMem := rfl
@[simp] theorem updLaunch_place (s : State) (k : Nat) (f : Launch → Launch) : (updLaunch s k f).place = s.place := rfl
@[simp] theorem updLaunch_funcs (s : State) (k : Nat) (f : Launch → Launch) : (updLaunch s k f).funcs = s.funcs := rfl
@[simp] theorem updLaunch_tenants (s : State) (k : Nat) (f : Launch → Launch) : (updLaunch s k f).tenants = s.tenants := rfl
@[simp] theorem updLaunch_ports (s : State) (k : Nat) (f : Launch → Launch) : (updLaunch s k f).ports = s.ports := rfl
@[simp] theorem updLaunch_modules (s : State) (k : Nat) (f : Launch → Launch) : (updLaunch s k f).modules = s.modules := rfl
@[simp] theorem updLaunch_nextPort (s : State) (k : Nat) (f : Launch → Launch) : (updLaunch s k f).nextPort = s.nextPort := rfl
@[simp] theorem updLaunch_served (s : State) (k : Nat) (f : Launch → Launch) : (updLaunch s k f).served = s.served := rfl
@[simp] theorem updLaunch_taken (s : State) (k : Nat) (f : Launch → Launch) : (updLaunch s k f).taken = s.taken := rfl
@[simp] theorem updLaunch_deferred (s : State) (k : Nat) (f : Launch → Launch) : (updLaunch s k f).deferred = s.deferred := rfl
@[simp] theorem updLaunch_msgs (s : State) (k : Nat) (f : Launch → Launch) : (updLaunch s k f).msgs = s.msgs := rfl
@[simp] theorem updLaunch_chan (s : State) (k : Nat) (f : Launch → Launch) : (updLaunch s k f).chan = s.chan := rfl
@[simp] theorem updLaunch_unitOps (s : State) (k : Nat) (f : Launch → Launch) : (updLaunch s k f).unitOps = s.unitOps := rfl
@[simp] theorem updLaunch_loose (s : State) (k : Nat) (f : Launch → Launch) : (updLaunch s k f).loose = s.loose := rfl
@[simp] theorem updLaunch_early (s : State) (k : Nat) (f : Launch → Launch) : (updLaunch s k f).early = s.early := rfl
@[simp] theorem updLaunch_broken (s : State) (k : Nat) (f : Launch → Launch) : (updLaunch s k f).broken = s.broken := rfl
@[simp] theorem updLaunch_torn (s : State) (k : Nat) (f : Launch → Launch) : (updLaunch s k f).torn = s.torn := rfl
@[simp] theorem updLaunch_faults (s : State) (k : Nat) (f : Launch → Launch) : (updLaunch s k f).faults = s.faults := rfl
@[simp] theorem updLaunch_faultSeq (s : State) (k : Nat) (f : Launch → Launch) : (updLaunch s k f).faultSeq = s.faultSeq := rfl
@[simp] theorem updLaunch_mcSeq (s : State) (k : Nat) (f : Launch → Launch) : (updLaunch s k f).mcSeq = s.mcSeq := rfl
@[simp] theorem updLaunch_mcCE (s : State) (k : Nat) (f : Launch → Launch) : (updLaunch s k f).mcCE = s.mcCE := rfl
@[simp] theorem updLaunch_mcUE (s : State) (k : Nat) (f : Launch → Launch) : (updLaunch s k f).mcUE = s.mcUE := rfl
@[simp] theorem updLaunch_inval (s : State) (k : Nat) (f : Launch → Launch) : (updLaunch s k f).inval = s.inval := rfl
@[simp] theorem updLaunch_invalRun (s : State) (k : Nat) (f : Launch → Launch) : (updLaunch s k f).invalRun = s.invalRun := rfl
@[simp] theorem updLaunch_invalQ (s : State) (k : Nat) (f : Launch → Launch) : (updLaunch s k f).invalQ = s.invalQ := rfl
@[simp] theorem updLaunch_keys (s : State) (k : Nat) (f : Launch → Launch) : (updLaunch s k f).keys = s.keys := rfl
@[simp] theorem updLaunch_keyGen (s : State) (k : Nat) (f : Launch → Launch) : (updLaunch s k f).keyGen = s.keyGen := rfl
@[simp] theorem updLaunch_flushed (s : State) (k : Nat) (f : Launch → Launch) : (updLaunch s k f).flushed = s.flushed := rfl
@[simp] theorem updLaunch_session (s : State) (k : Nat) (f : Launch → Launch) : (updLaunch s k f).session = s.session := rfl
@[simp] theorem updLaunch_sessionRead (s : State) (k : Nat) (f : Launch → Launch) : (updLaunch s k f).sessionRead = s.sessionRead := rfl
@[simp] theorem updLaunch_sessionNo (s : State) (k : Nat) (f : Launch → Launch) : (updLaunch s k f).sessionNo = s.sessionNo := rfl
@[simp] theorem updLaunch_sessions (s : State) (k : Nat) (f : Launch → Launch) : (updLaunch s k f).sessions = s.sessions := rfl
@[simp] theorem updLaunch_repair (s : State) (k : Nat) (f : Launch → Launch) : (updLaunch s k f).repair = s.repair := rfl
@[simp] theorem updLaunch_signKeys (s : State) (k : Nat) (f : Launch → Launch) : (updLaunch s k f).signKeys = s.signKeys := rfl
@[simp] theorem updLaunch_firmware (s : State) (k : Nat) (f : Launch → Launch) : (updLaunch s k f).firmware = s.firmware := rfl
@[simp] theorem updLaunch_image (s : State) (k : Nat) (f : Launch → Launch) : (updLaunch s k f).image = s.image := rfl
@[simp] theorem updLaunch_recovery (s : State) (k : Nat) (f : Launch → Launch) : (updLaunch s k f).recovery = s.recovery := rfl
@[simp] theorem updLaunch_peers (s : State) (k : Nat) (f : Launch → Launch) : (updLaunch s k f).peers = s.peers := rfl
@[simp] theorem updLaunch_portsDown (s : State) (k : Nat) (f : Launch → Launch) : (updLaunch s k f).portsDown = s.portsDown := rfl
@[simp] theorem updLaunch_bar (s : State) (k : Nat) (f : Launch → Launch) : (updLaunch s k f).bar = s.bar := rfl
@[simp] theorem updLaunch_hot (s : State) (k : Nat) (f : Launch → Launch) : (updLaunch s k f).hot = s.hot := rfl
@[simp] theorem updLaunch_crit (s : State) (k : Nat) (f : Launch → Launch) : (updLaunch s k f).crit = s.crit := rfl
@[simp] theorem updLaunch_temps (s : State) (k : Nat) (f : Launch → Launch) : (updLaunch s k f).temps = s.temps := rfl
@[simp] theorem updLaunch_cooled (s : State) (k : Nat) (f : Launch → Launch) : (updLaunch s k f).cooled = s.cooled := rfl
@[simp] theorem updLaunch_freezes (s : State) (k : Nat) (f : Launch → Launch) : (updLaunch s k f).freezes = s.freezes := rfl
@[simp] theorem updLaunch_frozen (s : State) (k : Nat) (f : Launch → Launch) : (updLaunch s k f).frozen = s.frozen := rfl
@[simp] theorem updLaunch_frozenTime (s : State) (k : Nat) (f : Launch → Launch) : (updLaunch s k f).frozenTime = s.frozenTime := rfl
@[simp] theorem updLaunch_held (s : State) (k : Nat) (f : Launch → Launch) : (updLaunch s k f).held = s.held := rfl
@[simp] theorem updLaunch_areas (s : State) (k : Nat) (f : Launch → Launch) : (updLaunch s k f).areas = s.areas := rfl
@[simp] theorem updLaunch_areaTags (s : State) (k : Nat) (f : Launch → Launch) : (updLaunch s k f).areaTags = s.areaTags := rfl
@[simp] theorem updLaunch_halted (s : State) (k : Nat) (f : Launch → Launch) : (updLaunch s k f).halted = s.halted := rfl
@[simp] theorem updLaunch_link (s : State) (k : Nat) (f : Launch → Launch) : (updLaunch s k f).link = s.link := rfl
@[simp] theorem updLaunch_flits (s : State) (k : Nat) (f : Launch → Launch) : (updLaunch s k f).flits = s.flits := rfl
@[simp] theorem updLaunch_env (s : State) (k : Nat) (f : Launch → Launch) : (updLaunch s k f).env = s.env := rfl
@[simp] theorem updLaunch_via (s : State) (k : Nat) (f : Launch → Launch) : (updLaunch s k f).via = s.via := rfl
@[simp] theorem updLaunch_intr (s : State) (k : Nat) (f : Launch → Launch) : (updLaunch s k f).intr = s.intr := rfl
@[simp] theorem updLaunch_hostData (s : State) (k : Nat) (f : Launch → Launch) : (updLaunch s k f).hostData = s.hostData := rfl
@[simp] theorem updLaunch_clock (s : State) (k : Nat) (f : Launch → Launch) : (updLaunch s k f).clock = s.clock := rfl
@[simp] theorem updLaunch_uidNext (s : State) (k : Nat) (f : Launch → Launch) : (updLaunch s k f).uidNext = s.uidNext := rfl
@[simp] theorem updLaunch_freeCtr (s : State) (k : Nat) (f : Launch → Launch) : (updLaunch s k f).freeCtr = s.freeCtr := rfl
@[simp] theorem updLaunch_agenda (s : State) (k : Nat) (f : Launch → Launch) : (updLaunch s k f).agenda = s.agenda := rfl

@[simp] theorem interrupt_g (s : State) (i : Intr) : (interrupt s i).g = s.g := rfl
@[simp] theorem interrupt_groups (s : State) (i : Intr) : (interrupt s i).groups = s.groups := rfl
@[simp] theorem interrupt_blk (s : State) (i : Intr) : (interrupt s i).blk = s.blk := rfl
@[simp] theorem interrupt_blks (s : State) (i : Intr) : (interrupt s i).blks = s.blks := rfl
@[simp] theorem interrupt_parts (s : State) (i : Intr) : (interrupt s i).parts = s.parts := rfl
@[simp] theorem interrupt_cores (s : State) (i : Intr) : (interrupt s i).cores = s.cores := rfl
@[simp] theorem interrupt_clusters (s : State) (i : Intr) : (interrupt s i).clusters = s.clusters := rfl
@[simp] theorem interrupt_dies (s : State) (i : Intr) : (interrupt s i).dies = s.dies := rfl
@[simp] theorem interrupt_mem (s : State) (i : Intr) : (interrupt s i).mem = s.mem := rfl
@[simp] theorem interrupt_memPoison (s : State) (i : Intr) : (interrupt s i).memPoison = s.memPoison := rfl
@[simp] theorem interrupt_memKey (s : State) (i : Intr) : (interrupt s i).memKey = s.memKey := rfl
@[simp] theorem interrupt_hostMem (s : State) (i : Intr) : (interrupt s i).hostMem = s.hostMem := rfl
@[simp] theorem interrupt_peerMem (s : State) (i : Intr) : (interrupt s i).peerMem = s.peerMem := rfl
@[simp] theorem interrupt_place (s : State) (i : Intr) : (interrupt s i).place = s.place := rfl
@[simp] theorem interrupt_funcs (s : State) (i : Intr) : (interrupt s i).funcs = s.funcs := rfl
@[simp] theorem interrupt_tenants (s : State) (i : Intr) : (interrupt s i).tenants = s.tenants := rfl
@[simp] theorem interrupt_ports (s : State) (i : Intr) : (interrupt s i).ports = s.ports := rfl
@[simp] theorem interrupt_launches (s : State) (i : Intr) : (interrupt s i).launches = s.launches := rfl
@[simp] theorem interrupt_modules (s : State) (i : Intr) : (interrupt s i).modules = s.modules := rfl
@[simp] theorem interrupt_nextPort (s : State) (i : Intr) : (interrupt s i).nextPort = s.nextPort := rfl
@[simp] theorem interrupt_served (s : State) (i : Intr) : (interrupt s i).served = s.served := rfl
@[simp] theorem interrupt_taken (s : State) (i : Intr) : (interrupt s i).taken = s.taken := rfl
@[simp] theorem interrupt_deferred (s : State) (i : Intr) : (interrupt s i).deferred = s.deferred := rfl
@[simp] theorem interrupt_msgs (s : State) (i : Intr) : (interrupt s i).msgs = s.msgs := rfl
@[simp] theorem interrupt_chan (s : State) (i : Intr) : (interrupt s i).chan = s.chan := rfl
@[simp] theorem interrupt_unitOps (s : State) (i : Intr) : (interrupt s i).unitOps = s.unitOps := rfl
@[simp] theorem interrupt_loose (s : State) (i : Intr) : (interrupt s i).loose = s.loose := rfl
@[simp] theorem interrupt_early (s : State) (i : Intr) : (interrupt s i).early = s.early := rfl
@[simp] theorem interrupt_broken (s : State) (i : Intr) : (interrupt s i).broken = s.broken := rfl
@[simp] theorem interrupt_torn (s : State) (i : Intr) : (interrupt s i).torn = s.torn := rfl
@[simp] theorem interrupt_faults (s : State) (i : Intr) : (interrupt s i).faults = s.faults := rfl
@[simp] theorem interrupt_faultSeq (s : State) (i : Intr) : (interrupt s i).faultSeq = s.faultSeq := rfl
@[simp] theorem interrupt_mcSeq (s : State) (i : Intr) : (interrupt s i).mcSeq = s.mcSeq := rfl
@[simp] theorem interrupt_mcCE (s : State) (i : Intr) : (interrupt s i).mcCE = s.mcCE := rfl
@[simp] theorem interrupt_mcUE (s : State) (i : Intr) : (interrupt s i).mcUE = s.mcUE := rfl
@[simp] theorem interrupt_inval (s : State) (i : Intr) : (interrupt s i).inval = s.inval := rfl
@[simp] theorem interrupt_invalRun (s : State) (i : Intr) : (interrupt s i).invalRun = s.invalRun := rfl
@[simp] theorem interrupt_invalQ (s : State) (i : Intr) : (interrupt s i).invalQ = s.invalQ := rfl
@[simp] theorem interrupt_keys (s : State) (i : Intr) : (interrupt s i).keys = s.keys := rfl
@[simp] theorem interrupt_keyGen (s : State) (i : Intr) : (interrupt s i).keyGen = s.keyGen := rfl
@[simp] theorem interrupt_flushed (s : State) (i : Intr) : (interrupt s i).flushed = s.flushed := rfl
@[simp] theorem interrupt_session (s : State) (i : Intr) : (interrupt s i).session = s.session := rfl
@[simp] theorem interrupt_sessionRead (s : State) (i : Intr) : (interrupt s i).sessionRead = s.sessionRead := rfl
@[simp] theorem interrupt_sessionNo (s : State) (i : Intr) : (interrupt s i).sessionNo = s.sessionNo := rfl
@[simp] theorem interrupt_sessions (s : State) (i : Intr) : (interrupt s i).sessions = s.sessions := rfl
@[simp] theorem interrupt_repair (s : State) (i : Intr) : (interrupt s i).repair = s.repair := rfl
@[simp] theorem interrupt_signKeys (s : State) (i : Intr) : (interrupt s i).signKeys = s.signKeys := rfl
@[simp] theorem interrupt_firmware (s : State) (i : Intr) : (interrupt s i).firmware = s.firmware := rfl
@[simp] theorem interrupt_image (s : State) (i : Intr) : (interrupt s i).image = s.image := rfl
@[simp] theorem interrupt_recovery (s : State) (i : Intr) : (interrupt s i).recovery = s.recovery := rfl
@[simp] theorem interrupt_peers (s : State) (i : Intr) : (interrupt s i).peers = s.peers := rfl
@[simp] theorem interrupt_portsDown (s : State) (i : Intr) : (interrupt s i).portsDown = s.portsDown := rfl
@[simp] theorem interrupt_bar (s : State) (i : Intr) : (interrupt s i).bar = s.bar := rfl
@[simp] theorem interrupt_hot (s : State) (i : Intr) : (interrupt s i).hot = s.hot := rfl
@[simp] theorem interrupt_crit (s : State) (i : Intr) : (interrupt s i).crit = s.crit := rfl
@[simp] theorem interrupt_temps (s : State) (i : Intr) : (interrupt s i).temps = s.temps := rfl
@[simp] theorem interrupt_cooled (s : State) (i : Intr) : (interrupt s i).cooled = s.cooled := rfl
@[simp] theorem interrupt_freezes (s : State) (i : Intr) : (interrupt s i).freezes = s.freezes := rfl
@[simp] theorem interrupt_frozen (s : State) (i : Intr) : (interrupt s i).frozen = s.frozen := rfl
@[simp] theorem interrupt_frozenTime (s : State) (i : Intr) : (interrupt s i).frozenTime = s.frozenTime := rfl
@[simp] theorem interrupt_held (s : State) (i : Intr) : (interrupt s i).held = s.held := rfl
@[simp] theorem interrupt_areas (s : State) (i : Intr) : (interrupt s i).areas = s.areas := rfl
@[simp] theorem interrupt_areaTags (s : State) (i : Intr) : (interrupt s i).areaTags = s.areaTags := rfl
@[simp] theorem interrupt_halted (s : State) (i : Intr) : (interrupt s i).halted = s.halted := rfl
@[simp] theorem interrupt_link (s : State) (i : Intr) : (interrupt s i).link = s.link := rfl
@[simp] theorem interrupt_flits (s : State) (i : Intr) : (interrupt s i).flits = s.flits := rfl
@[simp] theorem interrupt_env (s : State) (i : Intr) : (interrupt s i).env = s.env := rfl
@[simp] theorem interrupt_via (s : State) (i : Intr) : (interrupt s i).via = s.via := rfl
@[simp] theorem interrupt_hostData (s : State) (i : Intr) : (interrupt s i).hostData = s.hostData := rfl
@[simp] theorem interrupt_clock (s : State) (i : Intr) : (interrupt s i).clock = s.clock := rfl
@[simp] theorem interrupt_uidNext (s : State) (i : Intr) : (interrupt s i).uidNext = s.uidNext := rfl
@[simp] theorem interrupt_freeCtr (s : State) (i : Intr) : (interrupt s i).freeCtr = s.freeCtr := rfl
@[simp] theorem interrupt_agenda (s : State) (i : Intr) : (interrupt s i).agenda = s.agenda := rfl

@[simp] theorem withCtx_ctx (s : State) (c : Ctx) : (s.withCtx c).ctx = c := rfl
@[simp] theorem withCtx_g (s : State) (c : Ctx) : (s.withCtx c).g = { s.g with ctx := c } := rfl
@[simp] theorem modCtx_ctx (s : State) (f : Ctx → Ctx) : (modCtx s f).ctx = f s.ctx := rfl
@[simp] theorem modCtx_g (s : State) (f : Ctx → Ctx) : (modCtx s f).g = { s.g with ctx := f s.ctx } := rfl
@[simp] theorem modG_g (s : State) (f : Group → Group) : (modG s f).g = f s.g := rfl
@[simp] theorem modG_ctx (s : State) (f : Group → Group) : (modG s f).ctx = (f s.g).ctx := rfl
@[simp] theorem modBlk_blk (s : State) (f : Block → Block) : (modBlk s f).blk = f s.blk := rfl
@[simp] theorem modGroups_g (s : State) (f : Group → Group) : (modGroups s f).g = f s.g := rfl
@[simp] theorem modGroups_groups (s : State) (f : Group → Group) : (modGroups s f).groups = s.groups.map f := rfl
@[simp] theorem modBlks_blk (s : State) (f : Block → Block) : (modBlks s f).blk = f s.blk := rfl
@[simp] theorem modBlks_blks (s : State) (f : Block → Block) : (modBlks s f).blks = s.blks.map f := rfl
@[simp] theorem interrupt_intr (s : State) (i : Intr) : (interrupt s i).intr = s.intr ++ [i] := rfl
@[simp] theorem countEvt_ctx (e n : Nat) (g : Group) : (countEvt e n g).ctx = g.ctx := by simp only [countEvt]
@[simp] theorem countEvt_uid (e n : Nat) (g : Group) : (countEvt e n g).uid = g.uid := by simp only [countEvt]
@[simp] theorem countEvt_slot (e n : Nat) (g : Group) : (countEvt e n g).slot = g.slot := by simp only [countEvt]
@[simp] theorem countEvt_part (e n : Nat) (g : Group) : (countEvt e n g).part = g.part := by simp only [countEvt]
@[simp] theorem countEvt_fown (e n : Nat) (g : Group) : (countEvt e n g).fown = g.fown := by simp only [countEvt]
@[simp] theorem countEvt_run (e n : Nat) (g : Group) : (countEvt e n g).run = g.run := by simp only [countEvt]
@[simp] theorem countEvt_parked (e n : Nat) (g : Group) : (countEvt e n g).parked = g.parked := by simp only [countEvt]
@[simp] theorem countEvt_window (e n : Nat) (g : Group) : (countEvt e n g).window = g.window := by simp only [countEvt]
@[simp] theorem countEvt_replay (e n : Nat) (g : Group) : (countEvt e n g).replay = g.replay := by simp only [countEvt]
@[simp] theorem countEvt_replayMask (e n : Nat) (g : Group) : (countEvt e n g).replayMask = g.replayMask := by simp only [countEvt]
@[simp] theorem countEvt_replayNew (e n : Nat) (g : Group) : (countEvt e n g).replayNew = g.replayNew := by simp only [countEvt]
@[simp] theorem countEvt_undo (e n : Nat) (g : Group) : (countEvt e n g).undo = g.undo := by simp only [countEvt]
@[simp] theorem countEvt_replayOld (e n : Nat) (g : Group) : (countEvt e n g).replayOld = g.replayOld := by simp only [countEvt]
@[simp] theorem countEvt_suspects (e n : Nat) (g : Group) : (countEvt e n g).suspects = g.suspects := by simp only [countEvt]
@[simp] theorem countEvt_noPredict (e n : Nat) (g : Group) : (countEvt e n g).noPredict = g.noPredict := by simp only [countEvt]
@[simp] theorem countEvt_ibuf (e n : Nat) (g : Group) : (countEvt e n g).ibuf = g.ibuf := by simp only [countEvt]
@[simp] theorem countEvt_trapReq (e n : Nat) (g : Group) : (countEvt e n g).trapReq = g.trapReq := by simp only [countEvt]
@[simp] theorem countEvt_pmcProg (e n : Nat) (g : Group) : (countEvt e n g).pmcProg = g.pmcProg := by simp only [countEvt]
@[simp] theorem countEvt_pmcSel (e n : Nat) (g : Group) : (countEvt e n g).pmcSel = g.pmcSel := by simp only [countEvt]
@[simp] theorem countEvt_poisonV (e n : Nat) (g : Group) : (countEvt e n g).poisonV = g.poisonV := by simp only [countEvt]
@[simp] theorem countEvt_poisonS (e n : Nat) (g : Group) : (countEvt e n g).poisonS = g.poisonS := by simp only [countEvt]
@[simp] theorem countEvt_upset (e n : Nat) (g : Group) : (countEvt e n g).upset = g.upset := by simp only [countEvt]
@[simp] theorem countEvt_waitOn (e n : Nat) (g : Group) : (countEvt e n g).waitOn = g.waitOn := by simp only [countEvt]
@[simp] theorem countEvt_swapDue (e n : Nat) (g : Group) : (countEvt e n g).swapDue = g.swapDue := by simp only [countEvt]
@[simp] theorem countEvt_arriving (e n : Nat) (g : Group) : (countEvt e n g).arriving = g.arriving := by simp only [countEvt]
@[simp] theorem countEvt_waited (e n : Nat) (g : Group) : (countEvt e n g).waited = g.waited := by simp only [countEvt]
@[simp] theorem countEvt_since (e n : Nat) (g : Group) : (countEvt e n g).since = g.since := by simp only [countEvt]
@[simp] theorem countEvt_lastClock (e n : Nat) (g : Group) : (countEvt e n g).lastClock = g.lastClock := by simp only [countEvt]

theorem Ctx.release_eq (c : Ctx) (r : Nat) :
    c.release r = { c with
      v := setLanes c.v r (fun _ => 0) (List.range 32), released := mset false c.released r true } := by rw [Ctx.release]

@[simp] theorem Ctx.writeA_pc (c : Ctx) (n : Nat) (x : Addr) : (c.writeA n x).pc = c.pc := rfl
@[simp] theorem Ctx.writeA_exec (c : Ctx) (n : Nat) (x : Addr) : (c.writeA n x).exec = c.exec := rfl
@[simp] theorem Ctx.writeA_fmt (c : Ctx) (n : Nat) (x : Addr) : (c.writeA n x).fmt = c.fmt := rfl
@[simp] theorem Ctx.writeA_status (c : Ctx) (n : Nat) (x : Addr) : (c.writeA n x).status = c.status := rfl
@[simp] theorem Ctx.writeA_gang (c : Ctx) (n : Nat) (x : Addr) : (c.writeA n x).gang = c.gang := rfl
@[simp] theorem Ctx.writeA_v (c : Ctx) (n : Nat) (x : Addr) : (c.writeA n x).v = c.v := rfl
@[simp] theorem Ctx.writeA_s (c : Ctx) (n : Nat) (x : Addr) : (c.writeA n x).s = c.s := rfl
@[simp] theorem Ctx.writeA_p (c : Ctx) (n : Nat) (x : Addr) : (c.writeA n x).p = c.p := rfl
@[simp] theorem Ctx.writeA_c (c : Ctx) (n : Nat) (x : Addr) : (c.writeA n x).c = c.c := rfl
@[simp] theorem Ctx.writeA_released (c : Ctx) (n : Nat) (x : Addr) : (c.writeA n x).released = c.released := rfl
@[simp] theorem Ctx.writeA_fillPend (c : Ctx) (n : Nat) (x : Addr) : (c.writeA n x).fillPend = c.fillPend := rfl
@[simp] theorem Ctx.writeA_trapInfo (c : Ctx) (n : Nat) (x : Addr) : (c.writeA n x).trapInfo = c.trapInfo := rfl
@[simp] theorem Ctx.writeA_trapPc (c : Ctx) (n : Nat) (x : Addr) : (c.writeA n x).trapPc = c.trapPc := rfl
@[simp] theorem Ctx.writeA_trapVa (c : Ctx) (n : Nat) (x : Addr) : (c.writeA n x).trapVa = c.trapVa := rfl
@[simp] theorem Ctx.writeA_trapVah (c : Ctx) (n : Nat) (x : Addr) : (c.writeA n x).trapVah = c.trapVah := rfl
@[simp] theorem Ctx.writeA_handler (c : Ctx) (n : Nat) (x : Addr) : (c.writeA n x).handler = c.handler := rfl
@[simp] theorem Ctx.writeA_stack (c : Ctx) (n : Nat) (x : Addr) : (c.writeA n x).stack = c.stack := rfl
@[simp] theorem Ctx.writeA_pend (c : Ctx) (n : Nat) (x : Addr) : (c.writeA n x).pend = c.pend := rfl
@[simp] theorem Ctx.writeA_prefixes (c : Ctx) (n : Nat) (x : Addr) : (c.writeA n x).prefixes = c.prefixes := rfl
@[simp] theorem Ctx.writeA_fstat (c : Ctx) (n : Nat) (x : Addr) : (c.writeA n x).fstat = c.fstat := rfl

@[simp] theorem Ctx.setV_pc (c : Ctx) (r : Nat) (m : Mask) (f : Nat → Lane) : (c.setV r m f).pc = c.pc := rfl
@[simp] theorem Ctx.setV_exec (c : Ctx) (r : Nat) (m : Mask) (f : Nat → Lane) : (c.setV r m f).exec = c.exec := rfl
@[simp] theorem Ctx.setV_fmt (c : Ctx) (r : Nat) (m : Mask) (f : Nat → Lane) : (c.setV r m f).fmt = c.fmt := rfl
@[simp] theorem Ctx.setV_status (c : Ctx) (r : Nat) (m : Mask) (f : Nat → Lane) : (c.setV r m f).status = c.status := rfl
@[simp] theorem Ctx.setV_gang (c : Ctx) (r : Nat) (m : Mask) (f : Nat → Lane) : (c.setV r m f).gang = c.gang := rfl
@[simp] theorem Ctx.setV_s (c : Ctx) (r : Nat) (m : Mask) (f : Nat → Lane) : (c.setV r m f).s = c.s := rfl
@[simp] theorem Ctx.setV_a (c : Ctx) (r : Nat) (m : Mask) (f : Nat → Lane) : (c.setV r m f).a = c.a := rfl
@[simp] theorem Ctx.setV_p (c : Ctx) (r : Nat) (m : Mask) (f : Nat → Lane) : (c.setV r m f).p = c.p := rfl
@[simp] theorem Ctx.setV_c (c : Ctx) (r : Nat) (m : Mask) (f : Nat → Lane) : (c.setV r m f).c = c.c := rfl
@[simp] theorem Ctx.setV_fillPend (c : Ctx) (r : Nat) (m : Mask) (f : Nat → Lane) : (c.setV r m f).fillPend = c.fillPend := rfl
@[simp] theorem Ctx.setV_trapInfo (c : Ctx) (r : Nat) (m : Mask) (f : Nat → Lane) : (c.setV r m f).trapInfo = c.trapInfo := rfl
@[simp] theorem Ctx.setV_trapPc (c : Ctx) (r : Nat) (m : Mask) (f : Nat → Lane) : (c.setV r m f).trapPc = c.trapPc := rfl
@[simp] theorem Ctx.setV_trapVa (c : Ctx) (r : Nat) (m : Mask) (f : Nat → Lane) : (c.setV r m f).trapVa = c.trapVa := rfl
@[simp] theorem Ctx.setV_trapVah (c : Ctx) (r : Nat) (m : Mask) (f : Nat → Lane) : (c.setV r m f).trapVah = c.trapVah := rfl
@[simp] theorem Ctx.setV_handler (c : Ctx) (r : Nat) (m : Mask) (f : Nat → Lane) : (c.setV r m f).handler = c.handler := rfl
@[simp] theorem Ctx.setV_stack (c : Ctx) (r : Nat) (m : Mask) (f : Nat → Lane) : (c.setV r m f).stack = c.stack := rfl
@[simp] theorem Ctx.setV_pend (c : Ctx) (r : Nat) (m : Mask) (f : Nat → Lane) : (c.setV r m f).pend = c.pend := rfl
@[simp] theorem Ctx.setV_prefixes (c : Ctx) (r : Nat) (m : Mask) (f : Nat → Lane) : (c.setV r m f).prefixes = c.prefixes := rfl
@[simp] theorem Ctx.setV_fstat (c : Ctx) (r : Nat) (m : Mask) (f : Nat → Lane) : (c.setV r m f).fstat = c.fstat := rfl

@[simp] theorem Ctx.release_pc (c : Ctx) (r : Nat) : (c.release r).pc = c.pc := by rw [Ctx.release_eq]
@[simp] theorem Ctx.release_exec (c : Ctx) (r : Nat) : (c.release r).exec = c.exec := by rw [Ctx.release_eq]
@[simp] theorem Ctx.release_fmt (c : Ctx) (r : Nat) : (c.release r).fmt = c.fmt := by rw [Ctx.release_eq]
@[simp] theorem Ctx.release_status (c : Ctx) (r : Nat) : (c.release r).status = c.status := by rw [Ctx.release_eq]
@[simp] theorem Ctx.release_gang (c : Ctx) (r : Nat) : (c.release r).gang = c.gang := by rw [Ctx.release_eq]
@[simp] theorem Ctx.release_s (c : Ctx) (r : Nat) : (c.release r).s = c.s := by rw [Ctx.release_eq]
@[simp] theorem Ctx.release_a (c : Ctx) (r : Nat) : (c.release r).a = c.a := by rw [Ctx.release_eq]
@[simp] theorem Ctx.release_p (c : Ctx) (r : Nat) : (c.release r).p = c.p := by rw [Ctx.release_eq]
@[simp] theorem Ctx.release_c (c : Ctx) (r : Nat) : (c.release r).c = c.c := by rw [Ctx.release_eq]
@[simp] theorem Ctx.release_fillPend (c : Ctx) (r : Nat) : (c.release r).fillPend = c.fillPend := by rw [Ctx.release_eq]
@[simp] theorem Ctx.release_trapInfo (c : Ctx) (r : Nat) : (c.release r).trapInfo = c.trapInfo := by rw [Ctx.release_eq]
@[simp] theorem Ctx.release_trapPc (c : Ctx) (r : Nat) : (c.release r).trapPc = c.trapPc := by rw [Ctx.release_eq]
@[simp] theorem Ctx.release_trapVa (c : Ctx) (r : Nat) : (c.release r).trapVa = c.trapVa := by rw [Ctx.release_eq]
@[simp] theorem Ctx.release_trapVah (c : Ctx) (r : Nat) : (c.release r).trapVah = c.trapVah := by rw [Ctx.release_eq]
@[simp] theorem Ctx.release_handler (c : Ctx) (r : Nat) : (c.release r).handler = c.handler := by rw [Ctx.release_eq]
@[simp] theorem Ctx.release_stack (c : Ctx) (r : Nat) : (c.release r).stack = c.stack := by rw [Ctx.release_eq]
@[simp] theorem Ctx.release_pend (c : Ctx) (r : Nat) : (c.release r).pend = c.pend := by rw [Ctx.release_eq]
@[simp] theorem Ctx.release_prefixes (c : Ctx) (r : Nat) : (c.release r).prefixes = c.prefixes := by rw [Ctx.release_eq]
@[simp] theorem Ctx.release_fstat (c : Ctx) (r : Nat) : (c.release r).fstat = c.fstat := by rw [Ctx.release_eq]

@[simp] theorem Ctx.writeS_pc (c : Ctx) (n : Nat) (x : SWord) : (c.writeS n x).pc = c.pc := by
  unfold Ctx.writeS; split <;> rfl
@[simp] theorem Ctx.writeS_exec (c : Ctx) (n : Nat) (x : SWord) : (c.writeS n x).exec = c.exec := by
  unfold Ctx.writeS; split <;> rfl
@[simp] theorem Ctx.writeS_fmt (c : Ctx) (n : Nat) (x : SWord) : (c.writeS n x).fmt = c.fmt := by
  unfold Ctx.writeS; split <;> rfl
@[simp] theorem Ctx.writeS_status (c : Ctx) (n : Nat) (x : SWord) : (c.writeS n x).status = c.status := by
  unfold Ctx.writeS; split <;> rfl
@[simp] theorem Ctx.writeS_gang (c : Ctx) (n : Nat) (x : SWord) : (c.writeS n x).gang = c.gang := by
  unfold Ctx.writeS; split <;> rfl
@[simp] theorem Ctx.writeS_v (c : Ctx) (n : Nat) (x : SWord) : (c.writeS n x).v = c.v := by
  unfold Ctx.writeS; split <;> rfl
@[simp] theorem Ctx.writeS_a (c : Ctx) (n : Nat) (x : SWord) : (c.writeS n x).a = c.a := by
  unfold Ctx.writeS; split <;> rfl
@[simp] theorem Ctx.writeS_p (c : Ctx) (n : Nat) (x : SWord) : (c.writeS n x).p = c.p := by
  unfold Ctx.writeS; split <;> rfl
@[simp] theorem Ctx.writeS_c (c : Ctx) (n : Nat) (x : SWord) : (c.writeS n x).c = c.c := by
  unfold Ctx.writeS; split <;> rfl
@[simp] theorem Ctx.writeS_released (c : Ctx) (n : Nat) (x : SWord) : (c.writeS n x).released = c.released := by
  unfold Ctx.writeS; split <;> rfl
@[simp] theorem Ctx.writeS_fillPend (c : Ctx) (n : Nat) (x : SWord) : (c.writeS n x).fillPend = c.fillPend := by
  unfold Ctx.writeS; split <;> rfl
@[simp] theorem Ctx.writeS_trapInfo (c : Ctx) (n : Nat) (x : SWord) : (c.writeS n x).trapInfo = c.trapInfo := by
  unfold Ctx.writeS; split <;> rfl
@[simp] theorem Ctx.writeS_trapPc (c : Ctx) (n : Nat) (x : SWord) : (c.writeS n x).trapPc = c.trapPc := by
  unfold Ctx.writeS; split <;> rfl
@[simp] theorem Ctx.writeS_trapVa (c : Ctx) (n : Nat) (x : SWord) : (c.writeS n x).trapVa = c.trapVa := by
  unfold Ctx.writeS; split <;> rfl
@[simp] theorem Ctx.writeS_trapVah (c : Ctx) (n : Nat) (x : SWord) : (c.writeS n x).trapVah = c.trapVah := by
  unfold Ctx.writeS; split <;> rfl
@[simp] theorem Ctx.writeS_handler (c : Ctx) (n : Nat) (x : SWord) : (c.writeS n x).handler = c.handler := by
  unfold Ctx.writeS; split <;> rfl
@[simp] theorem Ctx.writeS_stack (c : Ctx) (n : Nat) (x : SWord) : (c.writeS n x).stack = c.stack := by
  unfold Ctx.writeS; split <;> rfl
@[simp] theorem Ctx.writeS_pend (c : Ctx) (n : Nat) (x : SWord) : (c.writeS n x).pend = c.pend := by
  unfold Ctx.writeS; split <;> rfl
@[simp] theorem Ctx.writeS_prefixes (c : Ctx) (n : Nat) (x : SWord) : (c.writeS n x).prefixes = c.prefixes := by
  unfold Ctx.writeS; split <;> rfl
@[simp] theorem Ctx.writeS_fstat (c : Ctx) (n : Nat) (x : SWord) : (c.writeS n x).fstat = c.fstat := by
  unfold Ctx.writeS; split <;> rfl

@[simp] theorem Ctx.writeP_pc (c : Ctx) (n : Nat) (m x : Mask) : (c.writeP n m x).pc = c.pc := by
  unfold Ctx.writeP; split <;> rfl
@[simp] theorem Ctx.writeP_exec (c : Ctx) (n : Nat) (m x : Mask) : (c.writeP n m x).exec = c.exec := by
  unfold Ctx.writeP; split <;> rfl
@[simp] theorem Ctx.writeP_fmt (c : Ctx) (n : Nat) (m x : Mask) : (c.writeP n m x).fmt = c.fmt := by
  unfold Ctx.writeP; split <;> rfl
@[simp] theorem Ctx.writeP_status (c : Ctx) (n : Nat) (m x : Mask) : (c.writeP n m x).status = c.status := by
  unfold Ctx.writeP; split <;> rfl
@[simp] theorem Ctx.writeP_gang (c : Ctx) (n : Nat) (m x : Mask) : (c.writeP n m x).gang = c.gang := by
  unfold Ctx.writeP; split <;> rfl
@[simp] theorem Ctx.writeP_v (c : Ctx) (n : Nat) (m x : Mask) : (c.writeP n m x).v = c.v := by
  unfold Ctx.writeP; split <;> rfl
@[simp] theorem Ctx.writeP_s (c : Ctx) (n : Nat) (m x : Mask) : (c.writeP n m x).s = c.s := by
  unfold Ctx.writeP; split <;> rfl
@[simp] theorem Ctx.writeP_a (c : Ctx) (n : Nat) (m x : Mask) : (c.writeP n m x).a = c.a := by
  unfold Ctx.writeP; split <;> rfl
@[simp] theorem Ctx.writeP_c (c : Ctx) (n : Nat) (m x : Mask) : (c.writeP n m x).c = c.c := by
  unfold Ctx.writeP; split <;> rfl
@[simp] theorem Ctx.writeP_released (c : Ctx) (n : Nat) (m x : Mask) : (c.writeP n m x).released = c.released := by
  unfold Ctx.writeP; split <;> rfl
@[simp] theorem Ctx.writeP_fillPend (c : Ctx) (n : Nat) (m x : Mask) : (c.writeP n m x).fillPend = c.fillPend := by
  unfold Ctx.writeP; split <;> rfl
@[simp] theorem Ctx.writeP_trapInfo (c : Ctx) (n : Nat) (m x : Mask) : (c.writeP n m x).trapInfo = c.trapInfo := by
  unfold Ctx.writeP; split <;> rfl
@[simp] theorem Ctx.writeP_trapPc (c : Ctx) (n : Nat) (m x : Mask) : (c.writeP n m x).trapPc = c.trapPc := by
  unfold Ctx.writeP; split <;> rfl
@[simp] theorem Ctx.writeP_trapVa (c : Ctx) (n : Nat) (m x : Mask) : (c.writeP n m x).trapVa = c.trapVa := by
  unfold Ctx.writeP; split <;> rfl
@[simp] theorem Ctx.writeP_trapVah (c : Ctx) (n : Nat) (m x : Mask) : (c.writeP n m x).trapVah = c.trapVah := by
  unfold Ctx.writeP; split <;> rfl
@[simp] theorem Ctx.writeP_handler (c : Ctx) (n : Nat) (m x : Mask) : (c.writeP n m x).handler = c.handler := by
  unfold Ctx.writeP; split <;> rfl
@[simp] theorem Ctx.writeP_stack (c : Ctx) (n : Nat) (m x : Mask) : (c.writeP n m x).stack = c.stack := by
  unfold Ctx.writeP; split <;> rfl
@[simp] theorem Ctx.writeP_pend (c : Ctx) (n : Nat) (m x : Mask) : (c.writeP n m x).pend = c.pend := by
  unfold Ctx.writeP; split <;> rfl
@[simp] theorem Ctx.writeP_prefixes (c : Ctx) (n : Nat) (m x : Mask) : (c.writeP n m x).prefixes = c.prefixes := by
  unfold Ctx.writeP; split <;> rfl
@[simp] theorem Ctx.writeP_fstat (c : Ctx) (n : Nat) (m x : Mask) : (c.writeP n m x).fstat = c.fstat := by
  unfold Ctx.writeP; split <;> rfl

@[simp] theorem Ctx.writeC_pc (c : Ctx) (n : Nat) (x : Bool) : (c.writeC n x).pc = c.pc := by
  unfold Ctx.writeC; split <;> rfl
@[simp] theorem Ctx.writeC_exec (c : Ctx) (n : Nat) (x : Bool) : (c.writeC n x).exec = c.exec := by
  unfold Ctx.writeC; split <;> rfl
@[simp] theorem Ctx.writeC_fmt (c : Ctx) (n : Nat) (x : Bool) : (c.writeC n x).fmt = c.fmt := by
  unfold Ctx.writeC; split <;> rfl
@[simp] theorem Ctx.writeC_status (c : Ctx) (n : Nat) (x : Bool) : (c.writeC n x).status = c.status := by
  unfold Ctx.writeC; split <;> rfl
@[simp] theorem Ctx.writeC_gang (c : Ctx) (n : Nat) (x : Bool) : (c.writeC n x).gang = c.gang := by
  unfold Ctx.writeC; split <;> rfl
@[simp] theorem Ctx.writeC_v (c : Ctx) (n : Nat) (x : Bool) : (c.writeC n x).v = c.v := by
  unfold Ctx.writeC; split <;> rfl
@[simp] theorem Ctx.writeC_s (c : Ctx) (n : Nat) (x : Bool) : (c.writeC n x).s = c.s := by
  unfold Ctx.writeC; split <;> rfl
@[simp] theorem Ctx.writeC_a (c : Ctx) (n : Nat) (x : Bool) : (c.writeC n x).a = c.a := by
  unfold Ctx.writeC; split <;> rfl
@[simp] theorem Ctx.writeC_p (c : Ctx) (n : Nat) (x : Bool) : (c.writeC n x).p = c.p := by
  unfold Ctx.writeC; split <;> rfl
@[simp] theorem Ctx.writeC_released (c : Ctx) (n : Nat) (x : Bool) : (c.writeC n x).released = c.released := by
  unfold Ctx.writeC; split <;> rfl
@[simp] theorem Ctx.writeC_fillPend (c : Ctx) (n : Nat) (x : Bool) : (c.writeC n x).fillPend = c.fillPend := by
  unfold Ctx.writeC; split <;> rfl
@[simp] theorem Ctx.writeC_trapInfo (c : Ctx) (n : Nat) (x : Bool) : (c.writeC n x).trapInfo = c.trapInfo := by
  unfold Ctx.writeC; split <;> rfl
@[simp] theorem Ctx.writeC_trapPc (c : Ctx) (n : Nat) (x : Bool) : (c.writeC n x).trapPc = c.trapPc := by
  unfold Ctx.writeC; split <;> rfl
@[simp] theorem Ctx.writeC_trapVa (c : Ctx) (n : Nat) (x : Bool) : (c.writeC n x).trapVa = c.trapVa := by
  unfold Ctx.writeC; split <;> rfl
@[simp] theorem Ctx.writeC_trapVah (c : Ctx) (n : Nat) (x : Bool) : (c.writeC n x).trapVah = c.trapVah := by
  unfold Ctx.writeC; split <;> rfl
@[simp] theorem Ctx.writeC_handler (c : Ctx) (n : Nat) (x : Bool) : (c.writeC n x).handler = c.handler := by
  unfold Ctx.writeC; split <;> rfl
@[simp] theorem Ctx.writeC_stack (c : Ctx) (n : Nat) (x : Bool) : (c.writeC n x).stack = c.stack := by
  unfold Ctx.writeC; split <;> rfl
@[simp] theorem Ctx.writeC_pend (c : Ctx) (n : Nat) (x : Bool) : (c.writeC n x).pend = c.pend := by
  unfold Ctx.writeC; split <;> rfl
@[simp] theorem Ctx.writeC_prefixes (c : Ctx) (n : Nat) (x : Bool) : (c.writeC n x).prefixes = c.prefixes := by
  unfold Ctx.writeC; split <;> rfl
@[simp] theorem Ctx.writeC_fstat (c : Ctx) (n : Nat) (x : Bool) : (c.writeC n x).fstat = c.fstat := by
  unfold Ctx.writeC; split <;> rfl

end Sys2Proof.Machine
end

