-- ==== Sys2Proof/Laws/Issue.lean ====
section
/-! SUPPORT. What issue and retirement do, said once: an instruction that nothing stands in the way of runs its body and
retires. -/

namespace Sys2Proof.Machine

theorem landThrough_nil (u k : Nat) (l : List Nat) : landThrough u k l [] = [] := rfl

theorem namesArriving_quiet {s : State} (h : Quiet s) (inf : Info) : namesArriving s.g inf = false := by
  simp [namesArriving, h.arrived, hasReg]

/-- With both queues empty and every result arrived none is awaited. -/
theorem awaitResults_quiet {s : State} (h : Quiet s) (inf : Info) : awaitResults s inf = s := by
  simp only [awaitResults, h.divided, h.settled, landThrough_nil, namesArriving_quiet h]
  simp

/-- With every result landed an instruction reads the context as it stands. -/
theorem viewOf_covered {s : State} (h : s.ctx.pend = []) (inf : Info) : viewOf s inf = s.ctx := by
  have hp : ∀ r, pendOf s.ctx r = none := by
    intro r
    simp [pendOf, h]
  have ho : oldReads s inf = [] := by
    simp only [oldReads, hp]
    split
    · rfl
    · exact List.filterMap_eq_nil_iff.mpr fun _ _ => rfl
  rw [viewOf, ho]
  rfl

theorem stallRead_covered {c : Ctx} (h : c.pend = []) (inf : Info) : stallRead c inf = none := by
  simp [stallRead, pendOf, h]

theorem poisonRead_clean {s : State} (hv : s.g.poisonV = []) (hs : s.g.poisonS = []) (inf : Info) (m : Mask) :
    poisonRead s inf m = false := by
  simp only [poisonRead, hv, hs, mget, List.any_eq_false]
  intro r _
  split <;> simp

theorem fillWaits_quiet {s : State} (h : Quiet s) (inf : Info) : fillWaits s inf = false := by
  simp only [fillWaits, enginesHold, spillReads, h.filled, mget, Bool.or_eq_false_iff]
  constructor
  · simp
  · rw [List.any_eq_false]
    intro k hk
    have hk5 : (k.kind == 5) = false := beq_eq_false_iff_ne.mpr (h.noSpill k hk)
    simp only [hk5, Bool.false_and, Bool.false_eq_true, not_false_eq_true]

theorem relRead_quiet {s : State} (h : Quiet s) (inf : Info) :
    (if statusChk s.ctx.status then relRead s.ctx inf else none) = none := by
  rcases h.live with h | h
  · simp [h]
  · simp [relRead, Ctx.isReleased, h, mget]

theorem unpoison_clean {g : Group} (hv : g.poisonV = []) (hs : g.poisonS = []) (inf : Info) (m : Mask) :
    unpoison g inf m = g := by
  cases g
  simp only at hv hs
  subst hv hs
  rfl

theorem ownerBarred_quiet {s : State} (h : Quiet s) (inf : Info) : ownerBarred s inf = false := by
  simp [ownerBarred, ownerMay, h.notOwner]

/-- R258: no prefix of an instruction is refused where it takes one or has none. -/
theorem refusedPrefix_none {c : Ctx} {inf : Info} (h : inf.accepts = true ∨ c.prefixes = []) : refusedPrefix c inf = none := by
  unfold refusedPrefix
  split
  · rename_i hx ha
    rcases h with h | h
    · rw [ha] at h; cases h
    · rw [hx] at h; cases h
  · rfl

/-- R211: an instruction that nothing stands in the way of runs its body on the context as it stands. -/
theorem issue_body {s : State} (h : Quiet s) (i : Instr) (inf : Info) (body : Ctx → State → Except Halt State)
    (hp : inf.accepts = true ∨ s.ctx.prefixes = []) (hl : inf.ill = false) (hr : regsOk s inf = true)
    (hf : inf.first = none) :
    issue i inf body s = match body s.ctx s with
      | .error e => halted s i inf e
      | .ok s2 => finish i inf s.ctx s s2 := by
  unfold issue
  simp only [ownerBarred_quiet h, h.noWindow, Option.isSome_none, Bool.false_and, Bool.not_true, Bool.false_eq_true, if_false,
    refusedPrefix_none hp, hl, hr, hf, Bool.or_self, relRead_quiet h, stallRead_covered h.covered, ite_self,
    fillWaits_quiet h, longOperand, namesArriving_quiet h, poisonRead_clean h.cleanV h.cleanS, awaitResults_quiet h,
    viewOf_covered h.covered]
  all_goals cases body s.ctx s <;> rfl

theorem settle_clean {s : State} (h : s.g.suspects = []) (pc : Addr) (bad : Mask) (retired : Bool) :
    settle s pc bad retired = s := by
  simp [settle, h]

theorem cleanReleased_clean {g : Group} (hv : g.poisonV = []) (marks written : List Nat) : cleanReleased g marks written = g := by
  cases g
  simp only at hv
  subst hv
  rfl

theorem retire_suspects (i : Instr) (inf : Info) (rc : Ctx) (s0 s : State) :
    (retire i inf rc s0 s).g.suspects = s.g.suspects := by
  unfold retire
  split
  · simp [unpoison, clearWritten, cleanReleased]
  · rfl

/-- R13: the end of an instruction of a group without upset and held mismatch. -/
theorem finish_quiet {s s2 : State} (h : Quiet s) (i : Instr) (inf : Info) (hs : s2.g.suspects = []) :
    finish i inf s.ctx s s2 =
      .next (modG (retire i inf s.ctx s s2) (countEvt evFallow (popMask (fallowOf s.ctx inf)))) := by
  have hr : (modG (retire i inf s.ctx s s2) (countEvt evFallow (popMask (fallowOf s.ctx inf)))).g.suspects = [] := by
    simp [retire_suspects, hs]
  simp [finish, h.sound, settle_clean hr]

/-- R211, R13: as `issue_body`, for a body that ends well. -/
theorem issue_next {s s2 : State} (h : Quiet s) (i : Instr) (inf : Info) (body : Ctx → State → Except Halt State)
    (hp : inf.accepts = true ∨ s.ctx.prefixes = []) (hl : inf.ill = false) (hr : regsOk s inf = true)
    (hf : inf.first = none) (hs : s2.g.suspects = []) (hb : body s.ctx s = .ok s2) :
    issue i inf body s = .next (modG (retire i inf s.ctx s s2) (countEvt evFallow (popMask (fallowOf s.ctx inf)))) := by
  rw [issue_body h i inf body hp hl hr hf, hb]
  exact finish_quiet h i inf hs

theorem window_none {g : Group} (h : g.window = none) (f : Window → Window) :
    { g with window := g.window.map f } = g := by
  cases g
  simp only at h
  subst h
  rfl

/-- What retirement leaves of a state that still has the group in focus, without a window and poison. -/
theorem retire_quiet {s s2 : State} (i : Instr) (inf : Info) (hu : s2.g.uid = s.g.uid)
    (hw : s2.g.window = none) (hv : s2.g.poisonV = []) (hs : s2.g.poisonS = []) :
    retire i inf s.ctx s s2 =
      modG s2 fun g =>
        countEvt evIssue 1 { g with ctx := retireCtx inf s.ctx g.ctx, arriving := arrivingAfter inf g.arriving } := by
  unfold retire modG
  rw [if_pos hu]
  congr 1
  dsimp only
  rw [unpoison_clean, cleanReleased_clean]
  · exact window_none
      (g := countEvt evIssue 1 { s2.g with ctx := retireCtx inf s.ctx s2.g.ctx, arriving := arrivingAfter inf s2.g.arriving })
      hw _
  · exact hv
  · exact hv
  · exact hs

/-- R13: an instruction that changes nothing but the context of its group. -/
theorem issue_ctx {s : State} (h : Quiet s) (i : Instr) (inf : Info) (body : Ctx → State → Except Halt State) (c : Ctx)
    (hp : inf.accepts = true ∨ s.ctx.prefixes = []) (hl : inf.ill = false) (hr : regsOk s inf = true)
    (hf : inf.first = none) (hb : body s.ctx s = .ok (s.withCtx c)) :
    ∃ t, issue i inf body s = .next t ∧ t.ctx = retireCtx inf s.ctx c ∧ OnlyCtx s t := by
  refine ⟨_, issue_next (s2 := s.withCtx c) h i inf body hp hl hr hf h.unsuspected hb, ?_, ?_⟩
  · rw [retire_quiet (s := s) (s2 := s.withCtx c) i inf rfl h.noWindow h.cleanV h.cleanS]
    simp
  · rw [retire_quiet (s := s) (s2 := s.withCtx c) i inf rfl h.noWindow h.cleanV h.cleanS]
    rfl

end Sys2Proof.Machine
end

