-- ==== Sys2Proof/Laws/Registers.lean ====
section
/-! SUPPORT. Laws of the registers: what a read gives after a write, and what a release mark does. -/

namespace Sys2Proof.Machine

theorem readS_writeS (c : Ctx) (n k : Nat) (x : SWord) :
    (c.writeS n x).readS k = if k = n ∧ n ≠ 0 then x else c.readS k := by
  unfold Ctx.readS Ctx.writeS
  by_cases hn : n = 0
  · simp [hn]
  · by_cases hk : k = n
    · subst hk; simp [hn]
    · by_cases h0 : k = 0
      · simp [h0, hn, Ne.symm hn]
      · simp [hn, hk, h0, mget_mset_ne]

theorem readA_writeA (c : Ctx) (n k : Nat) (x : Addr) : (c.writeA n x).readA k = if k = n then x else c.readA k := by
  unfold Ctx.readA Ctx.writeA
  exact mget_mset 0 c.a n k x

theorem readC_writeC (c : Ctx) (n k : Nat) (x : Bool) :
    (c.writeC n x).readC k = if k = n ∧ n ≠ 7 then x else c.readC k := by
  unfold Ctx.readC Ctx.writeC
  by_cases hn : n = 7
  · simp [hn]
  · by_cases hk : k = n
    · subst hk; simp [hn]
    · by_cases h0 : k = 7
      · simp [h0, hn, Ne.symm hn]
      · simp [hn, hk, h0, mget_mset_ne]

theorem readP_writeP (c : Ctx) (n k : Nat) (m x : Mask) :
    (c.writeP n m x).readP k = if k = n ∧ n ≠ 7 then (c.readP n &&& ~~~m) ||| (x &&& m) else c.readP k := by
  unfold Ctx.writeP
  by_cases hn : n = 7
  · simp [hn]
  · by_cases hk : k = n
    · subst hk; simp [Ctx.readP, hn]
    · by_cases h0 : k = 7
      · simp [h0, hn, Ne.symm hn, Ctx.readP]
      · simp [hn, hk, h0, mget_mset_ne, Ctx.readP]

theorem mem_lanesOf (m : Mask) (l : Nat) : l ∈ lanesOf m ↔ l < 32 ∧ laneOn m l = true := by
  simp [lanesOf]

theorem mget_setLanes (v : List (Nat × Lane)) (r : Nat) (f : Nat → Lane) (ls : List Nat) (h : ∀ l ∈ ls, l < 32)
    (r' l' : Nat) (hl : l' < 32) :
    mget 0 (setLanes v r f ls) (32 * r' + l') = if r' = r ∧ l' ∈ ls then f l' else mget 0 v (32 * r' + l') := by
  induction ls generalizing v with
  | nil => simp [setLanes]
  | cons x t ih =>
    have hx := h x List.mem_cons_self
    rw [setLanes, ih _ fun l hl => h l (List.mem_cons_of_mem _ hl), mget_mset]
    by_cases ht : r' = r ∧ l' ∈ t
    · simp [ht]
    · rw [if_neg ht]
      by_cases hk : r' = r ∧ l' = x
      · obtain ⟨rfl, rfl⟩ := hk
        simp
      · have : 32 * r' + l' ≠ 32 * r + x := by omega
        rw [if_neg this, if_neg]
        rintro ⟨h1, h2⟩
        rcases List.mem_cons.mp h2 with h2 | h2
        · exact hk ⟨h1, h2⟩
        · exact ht ⟨h1, h2⟩

/-- A write of the lanes of a mask. -/
theorem lane_setV (c : Ctx) (r : Nat) (m : Mask) (f : Nat → Lane) (r' l : Nat) (hl : l < 32) :
    (c.setV r m f).lane r' l = if r' = r ∧ laneOn m l = true then f l else c.lane r' l := by
  show mget 0 (setLanes c.v r f (lanesOf m)) (32 * r' + l) = _
  rw [mget_setLanes _ _ _ _ (fun x hx => ((mem_lanesOf m x).mp hx).1) r' l hl]
  simp [mem_lanesOf, hl, Ctx.lane]

/-- A released register reads zeros. -/
theorem lane_release (c : Ctx) (r r' l : Nat) (hl : l < 32) :
    (c.release r).lane r' l = if r' = r then 0 else c.lane r' l := by
  unfold Ctx.lane
  rw [Ctx.release_eq]
  dsimp only
  rw [mget_setLanes _ _ _ _ (fun x hx => List.mem_range.mp hx) r' l hl]
  simp only [List.mem_range, hl, and_true]

/-- The lanes after release marks: those of marked registers that the instruction does not write are zero. -/
theorem lane_releaseMarks (c : Ctx) (marks written : List Nat) (r l : Nat) (hl : l < 32) :
    (releaseMarks c marks written).lane r l = if r ∈ marks ∧ r ∉ written then 0 else c.lane r l := by
  induction marks generalizing c with
  | nil => simp [releaseMarks]
  | cons x t ih =>
    rw [releaseMarks, ih]
    have hw : hasNat written x = true ↔ x ∈ written := by simp [hasNat]
    by_cases hx : x ∈ written
    · rw [if_pos (hw.mpr hx)]
      by_cases hr : r = x
      · subst hr; simp [hx]
      · simp [hr]
    · rw [if_neg (fun h => hx (hw.mp h)), lane_release _ _ _ _ hl]
      by_cases hr : r = x
      · subst hr; simp [hx]
      · simp [hr]

/-- Release marks change nothing but vector registers and the release mask. -/
theorem releaseMarks_frame (c : Ctx) (marks written : List Nat) :
    releaseMarks c marks written =
      { c with v := (releaseMarks c marks written).v, released := (releaseMarks c marks written).released } := by
  induction marks generalizing c with
  | nil => rfl
  | cons x t ih =>
    rw [releaseMarks, ih]
    split
    · rfl
    · rw [Ctx.release_eq]

theorem releaseMarks_nil (c : Ctx) (w : List Nat) : releaseMarks c [] w = c := rfl

end Sys2Proof.Machine
end

