-- ==== Sys2Proof/Laws/Scalar.lean ====
section
/-! SUPPORT. What the shared operations of the scalar instructions come to when nothing stands in their way, and that the
model's integer helpers are the operations of bit vectors. -/

namespace Sys2Proof.Machine

/-- An instruction whose body changes the context alone ends with what retirement makes of that context. -/
theorem completes_issue {s : State} (h : Quiet s) (i : Instr) (inf : Info) (body : Ctx → State → Except Halt State)
    (c c' : Ctx) (hp : inf.accepts = true ∨ s.ctx.prefixes = []) (hl : inf.ill = false) (hr : regsOk s inf = true)
    (hf : inf.first = none) (hb : body s.ctx s = .ok (s.withCtx c)) (hc : retireCtx inf s.ctx c = c') :
    Completes s (issue i inf body s) c' := by
  obtain ⟨t, h1, h2, h3⟩ := issue_ctx h i inf body c hp hl hr hf hb
  exact ⟨t, h1, h2.trans hc, h3⟩

/-- R48: what an instruction with one destination leaves uncovered, where every earlier result has landed. -/
theorem pendAfter_one {c : Ctx} (h : c.pend = []) (inf : Info) (r : RegClass × Nat) (hw : inf.writes = [r]) :
    pendAfter c inf = uncovered c inf.latency inf.stall r := by
  unfold pendAfter uncovered
  rw [h, hw]
  by_cases hd : discards r = true <;> by_cases hl : inf.latency > 1 + inf.stall <;> simp [hd, hl]

/-- R48: an instruction without a fixed latency leaves nothing uncovered. -/
theorem pendAfter_none {c : Ctx} (h : c.pend = []) (inf : Info) (hl : inf.latency = 0) : pendAfter c inf = [] := by
  unfold pendAfter
  rw [h, hl]
  simp

/-- R13: retirement of an instruction that neither jumps nor releases nor prefixes, and whose body leaves coverage alone. -/
theorem retireCtx_plain {inf : Info} {c0 c : Ctx} (hm : inf.marks = []) (hj : inf.jumps = false) (hx : inf.imx = none)
    (hc : c.pc = c0.pc) (hp : c.pend = c0.pend) :
    retireCtx inf c0 c = { c with pc := c0.pc + BitVec.ofNat 72 inf.size, pend := pendAfter c0 inf, prefixes := [] } := by
  simp only [retireCtx, hm, releaseMarks_nil, hj, hx, hc, hp, Bool.false_eq_true, if_false]

/-- R302, R312: a register form. -/
theorem scalarRR_completes {s : State} (h : Quiet s) (hp : s.ctx.prefixes = []) (i : Instr) (op : SWord → SWord → SWord)
    (w : BitVec 3) (lat : Nat) (d a b : BitVec 6) :
    Completes s (issue i (wrInfo w lat d a b) (scalarRR op d a b) s)
      (scalarResult s w lat d (op (s.ctx.readS a.toNat) (s.ctx.readS b.toNat))) := by
  refine completes_issue h i _ _ (s.ctx.writeS d.toNat (op (s.ctx.readS a.toNat) (s.ctx.readS b.toNat))) _ (.inr hp) rfl
    rfl rfl rfl ?_
  rw [retireCtx_plain rfl rfl rfl (Ctx.writeS_pc _ _ _) (Ctx.writeS_pend _ _ _), pendAfter_one h.covered _ _ rfl]
  rfl

/-- R304: a form with one source. -/
theorem scalarR_completes {s : State} (h : Quiet s) (hp : s.ctx.prefixes = []) (i : Instr) (op : SWord → Nat)
    (w : BitVec 3) (d a : BitVec 6) :
    Completes s (issue i (wr1Info w d a) (scalarR op d a) s)
      (scalarResult s w 2 d (BitVec.ofNat 64 (op (s.ctx.readS a.toNat)))) := by
  refine completes_issue h i _ _ (s.ctx.writeS d.toNat (BitVec.ofNat 64 (op (s.ctx.readS a.toNat)))) _ (.inr hp) rfl
    rfl rfl rfl ?_
  rw [retireCtx_plain rfl rfl rfl (Ctx.writeS_pc _ _ _) (Ctx.writeS_pend _ _ _), pendAfter_one h.covered _ _ rfl]
  rfl

/-- R302: an immediate form. -/
theorem scalarRI_completes {s : State} (h : Quiet s) (i : Instr) (op : SWord → SWord → SWord) (d a : BitVec 6)
    (imm : BitVec 12) :
    Completes s (issue i (wiInfo d a) (scalarRI op d a imm) s)
      (stepped 4 [] s.ctx (s.ctx.writeS d.toNat
        (op (s.ctx.readS a.toNat) (BitVec.ofInt 64 (widen s.ctx.prefixes 12 imm.toNat))))) := by
  refine completes_issue h i _ _
    (s.ctx.writeS d.toNat (op (s.ctx.readS a.toNat) (BitVec.ofInt 64 (widen s.ctx.prefixes 12 imm.toNat)))) _ (.inl rfl)
    rfl rfl rfl rfl ?_
  rw [retireCtx_plain rfl rfl rfl (Ctx.writeS_pc _ _ _) (Ctx.writeS_pend _ _ _), pendAfter_none h.covered _ rfl]
  rfl

theorem shl64_eq (x y : SWord) : shl64 x y = x <<< y.toNat := by
  unfold shl64 shlN
  apply BitVec.eq_of_toNat_eq
  split
  · simp [Nat.shiftLeft_eq]
  · rename_i h
    obtain ⟨k, hk⟩ : ∃ k, y.toNat = 64 + k := ⟨y.toNat - 64, by omega⟩
    simp only [BitVec.toNat_ofNat, BitVec.toNat_shiftLeft, Nat.shiftLeft_eq]
    rw [hk, Nat.pow_add, show x.toNat * (2 ^ 64 * 2 ^ k) = 2 ^ 64 * (x.toNat * 2 ^ k) by ring]
    simp

theorem shr64_eq (x y : SWord) : shr64 x y = x >>> y.toNat := by
  unfold shr64 shrN
  apply BitVec.eq_of_toNat_eq
  have hx := x.isLt
  split
  · simp only [BitVec.toNat_ofNat, BitVec.toNat_ushiftRight, Nat.shiftRight_eq_div_pow]
    rw [Nat.mod_eq_of_lt hx, Nat.mod_eq_of_lt (Nat.lt_of_le_of_lt (Nat.div_le_self _ _) hx)]
  · rename_i h
    simp only [BitVec.toNat_ofNat, BitVec.toNat_ushiftRight, Nat.shiftRight_eq_div_pow]
    rw [Nat.div_eq_of_lt (Nat.lt_of_lt_of_le hx (Nat.pow_le_pow_right (by omega) (by omega)))]

theorem sextN_toInt {n : Nat} (hn : 0 < n) (x : BitVec n) : sextN n x.toNat = x.toInt := by
  unfold sextN
  rw [BitVec.toInt_eq_toNat_cond, Nat.mod_eq_of_lt x.isLt]
  have hp : 2 ^ n = 2 * 2 ^ (n - 1) := by
    rw [← Nat.pow_succ']
    congr 1
    omega
  by_cases h : x.toNat < 2 ^ (n - 1)
  · rw [if_pos h, if_pos (by omega)]
  · rw [if_neg h, if_neg (by omega)]

theorem truncI_toInt {n : Nat} (x : Int) : BitVec.ofNat n (truncI x n) = BitVec.ofInt n x := by
  unfold truncI
  apply BitVec.eq_of_toNat_eq
  simp only [BitVec.toNat_ofNat, BitVec.toNat_ofInt]
  have h1 := Int.emod_nonneg x (b := ((2 ^ n : Nat) : Int)) (by positivity)
  have h2 := Int.emod_lt_of_pos x (b := ((2 ^ n : Nat) : Int)) (by positivity)
  rw [Nat.mod_eq_of_lt (by omega)]

theorem sra64_eq (x y : SWord) : sra64 x y = x.sshiftRight y.toNat := by
  unfold sra64 sraN
  rw [sextN_toInt (by omega)]
  have hlo := BitVec.le_toInt x
  have hhi := BitVec.toInt_lt (x := x)
  norm_num at hlo hhi
  apply BitVec.eq_of_toInt_eq
  rw [BitVec.toInt_sshiftRight, Int.shiftRight_eq_div_pow]
  split
  · rw [truncI_toInt, Int.fdiv_eq_ediv_of_nonneg _ (by positivity), BitVec.toInt_ofInt]
    have hp : (1 : Int) ≤ ((2 ^ y.toNat : Nat) : Int) := by exact_mod_cast Nat.one_le_two_pow
    generalize ((2 ^ y.toNat : Nat) : Int) = q at hp
    have h1 : -9223372036854775808 ≤ x.toInt / q := Int.le_ediv_of_mul_le (by omega) (by nlinarith)
    have h2 : x.toInt / q < 9223372036854775808 := Int.ediv_lt_of_lt_mul (by omega) (by nlinarith)
    rw [Int.bmod_def]
    norm_num
    split <;> omega
  · rename_i hk
    have hq : (2 ^ 64 : Int) ≤ ((2 ^ y.toNat : Nat) : Int) := by
      exact_mod_cast Nat.pow_le_pow_right (by omega) (by omega)
    generalize ((2 ^ y.toNat : Nat) : Int) = q at hq
    norm_num at hq
    split
    · rename_i hn
      rw [show x.toInt / q = -1 from by
        apply Int.le_antisymm
        · exact Int.lt_add_one_iff.mp (Int.ediv_lt_of_lt_mul (by omega) (by omega))
        · exact Int.le_ediv_of_mul_le (by omega) (by omega)]
      decide
    · rw [Int.ediv_eq_zero_of_lt (by omega) (by omega)]
      decide

end Sys2Proof.Machine
end

