-- ==== Sys2Proof/Tests/Slice0.lean ====
section
/-! SUPPORT. Tests of the model, each about one check, one word or one step, with results from the spec's own examples; and for
each statement that has hypotheses a state and operands that meet them. -/

namespace Sys2Proof.Tests

open Sys2Proof Sys2Proof.Machine

set_option Elab.async false

/-! ## Ill-formed instructions -/

/-- The guard p7, not negated. -/
def always : Guard := ⟨false, 7⟩

/-- A vector instruction of registers 1, 2 and 3. -/
def lv (ext : BitVec 8) : LvF := ⟨always, 0, 1, ⟨2, false⟩, .vec ⟨3, false⟩, ⟨0, false⟩, ext⟩

/-- One with a single source. -/
def lv1 (ext : BitVec 8) : LvF := { lv ext with b := .vec ⟨0, false⟩ }

/-- A load or store of four bytes. -/
def lm : LmF := ⟨always, 0, 0, 0, false, false, false, 0, false, false, 2, 0, 3, 8⟩

/-- An atomic add of four bytes. -/
def la : LaF := ⟨always, false, 0, 0, 0, 0, 0, 5, 4, 12⟩

/-- A scalar access of eight bytes. -/
def wm : WmF := ⟨0, 0, false, false, 3, 2, 1⟩

/-- An accumulator operation on the first 16 rows and columns. -/
def lz : LzF := ⟨always, 0, 0, 0, 0, 0, 0, 0, 0, false⟩

/-- An engine instruction. -/
def lx : LxF := ⟨1, 2, 0, false, false⟩

/-- Whether every instruction of a list is refused. -/
def allRefused (l : List Instr) : Bool := l.all fun i => !wellFormed i

/-- R259: comparison codes; R156, R158: scopes; R239, R215: levels and return modes. -/
theorem test_refused_codes : allRefused [.scmp 0 10 1 2, .scmpi 0 15 1 0, .fence 0 6, .ipf 3 0 0, .eret 3] = true := by decide

/-- R274: sizes, signs, scopes and registers of the scalar accesses. -/
theorem test_refused_scalar_access : allRefused [.sld { wm with size := 4 }, .sld { wm with signed := true },
    .sst { wm with signed := true, size := 0 }, .sld { wm with scope := 1 }, .sld { wm with ord := true, scope := 6 },
    .ald { wm with size := 3 }, .ast { wm with size := 4, r := 16 }] = true := by decide

/-- R267, R268: source forms, unused fields, destinations and ext8. -/
theorem test_refused_vector : allRefused [.vadd (lv 3), .vadd { lv 0 with c := ⟨1, false⟩ },
    .vadd { lv 0 with c := ⟨0, true⟩ }, .vnot (lv 0), .vmad { lv 0 with b := .imm 1 }, .vcmp { lv 0 with vd := 8 },
    .vcmp (lv 10), .vrfl { lv1 0 with vd := 64 }, .vvote { lv1 0 with a := ⟨8, false⟩ }, .vvote { lv1 0 with a := ⟨1, true⟩ },
    .vli { lv 0 with b := .vec ⟨3, true⟩ }, .vfrnd (lv1 1), .vcvt (lv1 11), .vred (lv1 12), .vscan (lv1 1),
    .vunpk (lv1 6), .vmov (lv 0)] = true := by decide

/-- R269, R343, R294, R299: fields of the vector accesses. -/
theorem test_refused_vector_access : allRefused [.vld { lm with stride := 1 }, .vlds { lm with vo := 1 },
    .vld { lm with lrd := true }, .vst { lm with sign := true }, .vld { lm with size := 5 },
    .vld { lm with os := true, vo := 64 }, .vld { lm with scope := 1 }, .ldl { lm with n := 1 }, .ldr { lm with n := 4 },
    .qpush lm, .qpush { lm with vo := 0, n := 15 }, .qpop { lm with vo := 0, lrd := true }] = true := by decide

/-- R261, R269, R290: operations, widths and registers of the atomics. -/
theorem test_refused_atomics : allRefused [.vatom { la with aop := 10 }, .vatom { la with aop := 1, w64 := true },
    .vcas { la with aop := 1 }, .vatom { la with vc := 1 }, .latom { la with n := 1 }, .matom { la with aop := 11 },
    .satom { la with vd := 64 }, .vatom { la with scope := 1 }] = true := by decide

/-- R118, R127, R128, R181: fields of the cube and engine instructions. -/
theorem test_refused_cube_and_engines : allRefused [.mcube ⟨false, 0, false, false, 0, 0, 0, 4, 0, 0⟩,
    .mldf ⟨always, 0, 0, 0, 0, 5, false⟩, .mldf ⟨always, 0, 0, 0, 6, 0, true⟩, .mzero { lz with base := 1 },
    .mzero { lz with g := ⟨true, 7⟩ }, .mstz { lz with fmt := 7 }, .mstz { lz with base := 64 }, .mrdz { lz with n := 1 },
    .mwrz { lz with sat := true }, .mscl { lz with hi := 2 }, .xcpy { lx with scope := 1 },
    .xpfd { lx with acq := true } 0] = true := by decide

/-! ## Words of the spec's examples -/

/-- R262. -/
theorem test_decode_c16 : decodeWord 2 0x08F6 = some (.vfaddC16 false 2 7) ∧ decodeWord 2 0x0000 = some (.vmovC16 false 0 0) := by
  decide

/-- R303, R306: the example of SADD to SDIVU. -/
theorem test_decode_scalar : decodeWord 4 0xFFFE4335 = some (.sli 3 0x3FFF9) ∧ decodeWord 4 0x00200419 = some (.saddi 4 0 2) ∧
    decodeWord 4 0x0040C511 = some (.sdivs 0 5 3 4) ∧ decodeWord 4 0x0840C611 = some (.srems 0 6 3 4) ∧
    decodeWord 4 0x1C40C809 = some (.ssra 0 8 3 4) ∧ decodeWord 4 0x6840CC0D = some (.smulhu 3 12 3 4) ∧
    decodeWord 4 0x0840CA15 = some (.ssel 0 2 10 3 4) ∧ decodeWord 4 0x00819139 = some (.scmp 1 2 3 4) ∧
    decodeWord 4 0x0C82CA3D = some (.scmpi 2 9 5 100) := by decide

/-- R272, R274. -/
theorem test_decode_addresses : decodeWord 4 0x00500341 = some (.aadd 3 0 5) ∧ decodeWord 4 0x00202245 = some (.aaddi 2 2 32) ∧
    decodeWord 4 0x00700549 = some (.amov 5 7) ∧ decodeWord 4 0x0040204D = some (.aget 4 2) ∧
    decodeWord 4 0x00632051 = some (.asub 6 2 3) ∧
    decodeWord 4 0x0A688555 = some (.sld ⟨2, 4, true, true, 2, 2, 5⟩) ∧
    decodeWord 4 0x0810465D = some (.ald ⟨2, 0, false, false, 4, 1, 6⟩) := by decide

/-- R279, R282, R63, R215, R277. -/
theorem test_decode_control : decodeWord 4 0x00006081 = some (.br 6) ∧ decodeWord 4 0xFFFF6A85 = some (.brc 2 true 0xFFFF6) ∧
    decodeWord 4 0x00100089 = some (.call 0x100) ∧ decodeWord 4 0x00000E8D = some (.ret 14) ∧
    decodeWord 4 0xFFFF4199 = some (.brva 1 false 0xFFFF4) ∧ decodeWord 4 0x000140A9 = some (.trap 5) ∧
    decodeWord 4 0x000040D1 = some (.bars 1) ∧ decodeWord 4 0x004080D5 = some (.fence 2 1) := by decide

/-- R307, R91, R198, R239. -/
theorem test_decode_system : decodeWord 4 0x000002BD = some (.setfmt 2) ∧ decodeWord 4 0x0002C3C5 = some (.syswr 0x0B 3) ∧
    decodeWord 4 0x004148F5 = some (.frwdep 1 5 8) ∧ decodeWord 4 0x000004E9 = some (.frwon 4) ∧
    decodeWord 4 0x00C050F9 = some (.launch 12 5) ∧ decodeWord 4 0x00058ADD = some (.ipf 1 6 10) := by decide

/-- R266, R267. -/
theorem test_decode_vector :
    decodeWord 8 0x0002140A0814C8CF =
      some (.vfma ⟨⟨false, 2⟩, 3, 10, ⟨4, true⟩, .vec ⟨5, false⟩, ⟨10, false⟩, 0⟩) ∧
    decodeWord 8 0x008000060C0A1CD7 = some (.vfmax ⟨always, 0, 5, ⟨6, false⟩, .scal 3, ⟨0, false⟩, 0⟩) ∧
    decodeWord 8 0x024000C808061C63 = some (.vcmp ⟨always, 0, 3, ⟨4, false⟩, .imm 100, ⟨0, false⟩, 2⟩) ∧
    decodeWord 8 0x0340000208121D43 = some (.vshfl ⟨always, 0, 9, ⟨4, false⟩, .imm 1, ⟨0, false⟩, 3⟩) ∧
    decodeWord 8 0x90000000080C1D0F = some (.vcvt ⟨always, 0, 6, ⟨4, false⟩, .vec ⟨0, false⟩, ⟨0, false⟩, 0x90⟩) := by decide

/-- R269, R343, R181. -/
theorem test_decode_access_and_engines :
    decodeWord 8 0x0002204406121D87 = some (.vst { lm with vd := 9, n := 2, lrd := true, scale := 2 }) ∧
    decodeWord 8 0x0028004400101D8B = some (.vlds { lm with vo := 0, n := 2, stride := 5 }) ∧
    decodeWord 8 0x0000000021061E5F = some (.xpfd ⟨3, 2, 0, false, false⟩ 4) ∧
    decodeWord 8 0x0000004920001E0B = some (.mzero ⟨always, 0, 16, 1, 1, 2, 0, 0, 0, false⟩) := by decide

/-! ## One step -/

/-- A group that is to run the instruction of a word, its context changed. -/
def start (bits w : Nat) (c : Ctx → Ctx) : State := modCtx (State.reset.withFetchWord bits w) c

/-- The state after one step. -/
def after (s : State) : State :=
  match step s with
  | .next t => t
  | _ => s

/-- The context after one step of the instruction of a word. -/
def ran (bits w : Nat) (c : Ctx → Ctx) : Ctx := (after (start bits w c)).ctx

/-- s3 and s4 of the example of SADD to SDIVU: −7 and 2. -/
def minus7 (c : Ctx) : Ctx := (c.writeS 3 0xFFFFFFFFFFFFFFF9).writeS 4 2

theorem test_sli : (ran 32 0xFFFE4335 id).readS 3 = 0xFFFFFFFFFFFFFFF9 ∧ (ran 32 0xFFFE4335 id).pc = 0x10004 := by decide +kernel

theorem test_sdivs : (ran 32 0x0040C511 minus7).readS 5 = 0xFFFFFFFFFFFFFFFD := by decide +kernel

theorem test_srems : (ran 32 0x0840C611 minus7).readS 6 = 0xFFFFFFFFFFFFFFFF := by decide +kernel

theorem test_ssra : (ran 32 0x1C40C809 minus7).readS 8 = 0xFFFFFFFFFFFFFFFE := by decide +kernel

/-- A shift by 64 or more gives 0 (R108). -/
theorem test_sshri_far : (ran 32 0xFFF0CA2D minus7).readS 10 = 0 := by decide +kernel

theorem test_sclz : (ran 32 0x10018511 (·.writeS 6 0x10000)).readS 5 = 47 := by decide +kernel

theorem test_aaddi_wraps : (ran 32 0x00202245 (·.writeA 2 0xFFFFFFFFFFFFFFFFF0)).readA 2 = 0x10 := by decide +kernel

theorem test_asub_drops : (ran 32 0x00632051 fun c => (c.writeA 2 0x10).writeA 3 0x010000000000000000).readS 6 = 0x10 := by
  decide +kernel

/-- A state with a trap entry at 0x10080, whose group is to run the instruction of a word. -/
def guarded (w : Nat) (c : Ctx → Ctx) : State := modBlk (start 32 w c) fun b => { b with trapEntry := some 0x10080 }

/-- R282: a return to an odd address traps ALIGN with the address. -/
theorem test_ret_odd_traps : (after (guarded 0x00000E8D (·.writeA 14 3))).ctx.trapInfo.extractLsb' 0 8 = 2 ∧
    (after (guarded 0x00000E8D (·.writeA 14 3))).ctx.trapVa = 3 ∧ (after (guarded 0x00000E8D (·.writeA 14 3))).ctx.pc = 0x10080 := by
  decide +kernel

/-- TRAPINFO of the example of R215: ARG 5, SKIP 1, LEN 4, CLASS 14. -/
theorem test_trap : (after (guarded 0x000140A9 id)).ctx.trapInfo = 0x000000052400000E := by decide +kernel

/-- A lane set in every lane of a register. -/
def lanes (r : Nat) (x : Lane) (c : Ctx) : Ctx := c.setV r 0xFFFFFFFF fun _ => x

/-- The example of VBFE: bits 19 to 8, sign-extended. -/
theorem test_vbfe : (ran 64 0x01401810080E1C4F (lanes 4 0x00ABCD00)).lane 7 31 = 0xFFFFFBCD := by decide +kernel

theorem test_vclz : (ran 64 0x000000000C0A1C47 (lanes 6 0x00010000)).lane 5 0 = 15 := by decide +kernel

theorem test_vfcls : (ran 64 0x000000000C0A1CFF (lanes 6 0x80000001)).lane 5 7 = 4 := by decide +kernel

/-- The example of VADDP: 8-bit elements. -/
theorem test_vaddp : (laneEval .addp 0 0 0x7F80FF01 0x01010101 0 false).val = 0x80810002 := by decide +kernel

theorem test_vli : (ran 64 0x3F01800000061C5F id).lane 3 0 = 0x3FC00000 := by decide +kernel

/-- The example of VFMA: fused, with one rounding. -/
theorem test_vfma : (laneEval .fma 0 0 0x3F800800 0x3F800800 0xBF801000 false).val = 0x33800000 := by decide +kernel

/-- R351: a normal value of F8B below the normal range of FP16 is widened as it stands, with FTZ 0. -/
theorem test_vunpk_exact : (laneEval .unpk 3 0x40 0x04 0 0 false).val = 0x0200 := by decide +kernel

/-- R105: a finite result that overflows is +inf. -/
theorem test_vfrcp_overflow : (laneEval (.special .rcp) 0 0 0x80100000 0 0 false).val = 0x7F800000 := by decide +kernel

theorem test_vmulh_su : (laneEval .mulh 2 0 0xFFFFFFFF 0xFFFFFFFF 0 false).val = 0xFFFFFFFF := by decide +kernel

theorem test_divergent_brv : (ran 64 0x00002400001C0563 fun c => c.writeP 1 0xFFFFFFFF 0xF).stack.length = 1 ∧
    (ran 64 0x00002400001C0563 fun c => c.writeP 1 0xFFFFFFFF 0xF).exec = 0xFFFFFFF0 := by decide +kernel

theorem test_sysrd_exec : (ran 32 0x00000FC1 fun c => { c with exec := 0xFF }).readS 15 = 0xFF := by decide +kernel

/-- R271: a word that is no instruction traps ILL. -/
theorem test_illegal_word : (after (guarded 0x101 id)).ctx.trapInfo.extractLsb' 0 8 = 1 := by decide +kernel

theorem test_withFetchWord_runs : (after (State.reset.withFetchWord 32 1)).ctx.pc = 0x10004 := by decide +kernel

/-! ## Witnesses: states and operands that meet the hypotheses of the statements -/

/-- A group that is to run a NOP, on core 0, its page mapped from PA 0x200000 on. -/
def base : State := State.reset.withFetchWord 32 1

/-- The same with its context changed. -/
def based (f : Ctx → Ctx) : State := modCtx base f

/-- The same with its block changed. -/
def blocked (f : Block → Block) : State := modBlk base f

theorem base_quiet : Quiet base := by constructor <;> decide

/-- ResetState, StartsCanonical. -/
theorem witness_reset : ∃ t, exec .deviceReset base = .next t := ⟨_, rfl⟩

/-- Whether an outcome goes on. -/
def goesOn : Host.Outcome State Fault Refusal → Bool
  | .next _ => true
  | _ => false

/-- StepKeepsMemoryCanonical. -/
theorem witness_step : base.wf = true ∧ goesOn (step base) = true := by decide +kernel

/-- DecodeEncode, at the largest operands. -/
theorem witness_encode : wellFormed (.sadd 7 63 63 63) = true ∧ isEvent (.sadd 7 63 63 63) = false ∧
    wellFormed (.vli ⟨⟨true, 7⟩, 7, 255, ⟨255, false⟩, .vec ⟨255, false⟩, ⟨255, false⟩, 255⟩) = true := by decide

/-- StepRunsDecoded: a NOP, an illegal word, an event; no window is open, and one that is open is not yet due. -/
theorem witness_step_runs : base.halted = false ∧ base.broken = false ∧ base.g.window = none ∧ base.env.headD [] = [] ∧ base.agenda = [] ∧
    mayIssue (scheduled (tick base)) = true ∧ base.g.trapReq = none ∧ base.g.replay = [] ∧ base.ctx.stack = [] ∧
    fetchBytes (chosen (scheduled (tick base))) base.ctx.pc 4 = .ok [1, 0, 0, 0] ∧ decodeBytes [1, 0, 0, 0] = .ok (.nop, 4) ∧
    fetchBytes (chosen (scheduled (tick (State.reset.withFetchWord 32 0x101)))) base.ctx.pc 4 = .ok [1, 1, 0, 0] ∧
    decodeBytes [1, 1, 0, 0] = .error (.illegal 4) ∧ isEvent .stackResume = true ∧
    mayHappen { tick base with agenda := [] } .stackResume = true := by decide +kernel

/-- ScalarArithmetic, ScalarDivision, BitCountsAndSelect, SystemRegisterReads, EngineIssue's XPFD, AddressesAndPrefixes. -/
theorem witness_quiet : Quiet base ∧ base.ctx.prefixes = [] := ⟨base_quiet, by decide⟩

/-- ImmediatesAndCompares, Branches: two prefixes; AddressesAndPrefixes: one. -/
theorem witness_prefixes : Quiet (based fun c => { c with prefixes := [1, 2] }) ∧
    (based fun c => { c with prefixes := [1, 2] }).ctx.prefixes.length ≤ 2 ∧
    Quiet (based fun c => { c with prefixes := [1] }) ∧ (based fun c => { c with prefixes := [1] }).ctx.prefixes.length < 2 := by
  refine ⟨?_, by decide, ?_, by decide⟩ <;> constructor <;> decide

/-- Branches: an even target. HardwiredRegisters: register numbers. -/
theorem witness_branches : (base.ctx.readA 14).getLsbD 0 = false ∧ (1 : Nat) ≠ 0 ∧ (6 : Nat) ≠ 7 ∧ (2 : Nat) ≠ 1 := by decide

/-- LaneValues: an input of each kind that the special functions, VFRND and VFCLS tell apart, and the formats of conversions. -/
theorem witness_special_values : decodeF fp32 false 0x7FC00000 = .nan ∧ (decodeF fp32 true 0x00000001).scaled 0 = some 0 ∧
    decodeF fp32 false 0x7F800000 = .inf false ∧ decodeF fp32 false 0xFF800000 = .inf true ∧
    decodeF fp32 false 0xBF800000 = .fin true (2 ^ 23) (-23) ∧ decodeF fp32 false 0x40000000 = .fin false (2 ^ 23) (-22) ∧
    (decodeF fp32 false 0xC2FC0000).scaled (-149) = some (-126 * 2 ^ 149) ∧
    (decodeF fp32 false 0x43000000).scaled (-149) = some (128 * 2 ^ 149) ∧
    (decodeF fp32 false 0x3FC00000).scaled (-149) = some (3 * 2 ^ 148) ∧
    (decodeF fp32 false 0x00000001).scaled (-149) = some (2 ^ (-149 + 149 : Int).toNat) ∧
    (decodeF fp32 false 0xC0200000).scaled (-1) = none ∧ (decodeF fp32 false 0xC0200000).scaled (-(22 : Nat)) = some (-10485760) ∧
    ([0x41, 0x14, 0x16, 0x65, 0xA0] : List (BitVec 8)).all (fun e => decide (e.toNat % 16 < 11 ∧ e.toNat / 16 < 11)) = true := by
  decide +kernel

/-- VectorLanes, at the highest register of the block. LaneValues: ext8 without
saturation; a finite value, as a multiple of 2^-23, and a pattern that is no NaN. -/
theorem witness_vector : laneInstr (.vadd { lv 0 with vd := 255 }) = some (.add, { lv 0 with vd := 255 }) ∧
    LaneRegsFit base .add { lv 0 with vd := 255 } ∧ (4 : BitVec 8).toNat % 4 = 0 ∧
    (decodeF fp32 false 0x3FC00000).scaled (-23) = some 12582912 ∧ decodeF fp32 false 0x3FC00000 ≠ .nan := by
  refine ⟨by decide, ⟨by decide, by decide, ?_, by decide⟩, by decide, by decide +kernel⟩
  intro r h _
  cases h
  decide

/-- A stack entry whose rejoin point is the PC. -/
def entry (pending : Mask) : StackEntry := ⟨0x10000, 0x10040, pending, 0xFFFFFFFF, 0, 0⟩

/-- A state whose stack holds n entries, the newest 16 of them in hardware. -/
def deep (n : Nat) (pending : Mask) : State := based fun c => { c with
  stack := (List.range n).map fun i => { entry pending with tag := if i < 16 then 0 else areaTag base 0 } }

/-- What `StackStands` asks of each entry. -/
theorem stands_of {s : State} {l : List StackEntry}
    (h : ∀ i < l.length, (l[i]?).map (·.tag) = some (if i < 16 then 0 else areaTag s (findBlk s s.g.uid).vf)) :
    StackStands s l := by
  intro i e he
  have hi : i < l.length := (List.getElem?_eq_some_iff.mp he).1
  have := h i hi
  rw [he] at this
  exact Option.some.inj this

/-- What `StackPlaced` asks of each entry. -/
theorem placed_of {l : List StackEntry} (h : ∀ i < l.length, (l[i]?).all (fun e => (e.tag == 0) == decide (i < 16)) = true) :
    StackPlaced l := by
  intro i e he
  have hi : i < l.length := (List.getElem?_eq_some_iff.mp he).1
  have := h i hi
  rw [he] at this
  by_cases k : i < 16 <;> simpa [k] using this

/-- DivergentBranch: no lane votes; every lane does and the stack has room for one entry more; it has none. -/
theorem witness_divergent : (∀ l < 32, laneOn (0 : Mask) l = voting base.ctx 1 false l) ∧
    (∀ l < 32, laneOn (0xFFFFFFFF : Mask) l = voting base.ctx 7 false l) ∧ Quiet (deep 255 0) ∧
    (deep 255 0).ctx.stack.length < 256 ∧ StackPlaced (deep 255 0).ctx.stack ∧ StackStands (deep 255 0) (deep 255 0).ctx.stack ∧ Quiet (deep 256 0) ∧
    256 ≤ (deep 256 0).ctx.stack.length := by
  refine ⟨by decide, by decide, ?_, by decide +kernel, placed_of (by decide +kernel), stands_of (by decide +kernel), ?_, by decide +kernel⟩ <;>
    constructor <;> decide

/-- RejoinRule: lanes pending, and none. -/
theorem witness_rejoin : (deep 1 3).g.trapReq = none ∧ (deep 1 3).g.replay = [] ∧ (deep 1 3).g.window = none ∧
    (deep 1 3).ctx.prefixes = [] ∧ (deep 1 3).ctx.stack = [entry 3] ∧ (deep 1 3).ctx.pc = (entry 3).rejoin ∧
    (entry 3).pending ≠ 0 ∧ (deep 1 0).ctx.stack = [entry 0] ∧ (entry 0).pending = 0 ∧ base.ctx.stack = [] ∧
    base.ctx.pc ≠ (0x10004 : Addr) ∧ (deep 1 3).agenda = [] ∧ (deep 1 3).halted = false ∧ (deep 1 3).env = [] ∧
    mayIssue (scheduled (tick (deep 1 3))) = true ∧ mayIssue (scheduled (tick (deep 1 0))) = true ∧
    beforeNext (deep 1 3) = .switch ∧ beforeNext (deep 1 0) = .pop ∧ (deep 1 3).broken = false := by decide +kernel

/-- RejoinRule, WindowResolution: stacks that stand where they belong. -/
theorem witness_stands : StackPlaced [entry 3] ∧ StackStands (deep 1 3) [entry 3] ∧ StackPlaced base.ctx.stack ∧
    StackStands base base.ctx.stack :=
  ⟨placed_of (by decide +kernel), stands_of (by decide +kernel), placed_of (by decide +kernel), stands_of (by decide +kernel)⟩

/-- ScalarDivision: the cases of R107. -/
theorem witness_division : ((0 : SWord) = 0) ∧ (3 : SWord) ≠ 0 ∧ ¬((7 : SWord) = 0x8000000000000000 ∧ (3 : SWord) = 0xFFFFFFFFFFFFFFFF) := by
  decide

/-- An open window with a guess and a truth. -/
def window (guess truth : Mask) : Window :=
  ⟨0x10000, 0x10040, 0x10080, base.ctx, 0xFFFFFFFF, 1, truth, guess, 1, 5, [], 0, false, [], [], []⟩

/-- RejoinRule: the rejoin point of an open window. -/
theorem witness_rejoin_window : beforeNext (modG (deep 1 3) fun g => { g with window := some (window 3 3) }) = .resolve := by
  decide

/-- RejoinRule: an open window whose predicate has landed, away from the rejoin point; one whose predicate is out. -/
theorem witness_due_window :
    (let w := { window 3 3 with left := 0 }
     w.left = 0 ∧ beforeNext (modG base fun g => { g with window := some w }) = .resolve) ∧ (window 3 3).left ≠ 0 := by
  decide

/-- A logged instruction of a window. -/
def logged : WinRec := ⟨0x10010, .vadd (lv 0), [], 0, 0, 0, [], []⟩

/-- WindowResolution: each of its cases, and a replay. -/
theorem witness_window :
    (let w := window 0xFFFFFFFF 0xFFFFFFFF
     w.deferred = 0 ∧ w.deferredS = false ∧ w.fallow = [] ∧ w.mask &&& ~~~w.guess = 0 ∧ w.mask &&& ~~~w.truth = 0) ∧
    (let w := window 0 0xFFFFFFFF
     w.mask &&& ~~~w.guess ≠ 0 ∧ w.mask &&& ~~~w.truth = 0 ∧ w.truth ≠ 0) ∧
    (let w := window 0xFFFFFFFF 1
     w.mask &&& ~~~w.guess = 0 ∧ w.mask &&& ~~~w.truth ≠ 0 ∧ w.truth ≠ 0) ∧
    (let w := window 0xFFFFFFFF 0
     w.mask &&& ~~~w.guess = 0 ∧ w.mask &&& ~~~w.truth ≠ 0 ∧ w.truth = 0) ∧
    (let w := { window 3 1 with log := [logged] }
     w.mask &&& ~~~w.guess ≠ 0 ∧ w.mask &&& ~~~w.truth ≠ 0 ∧ w.mask &&& ~~~w.truth &&& ~~~(w.mask &&& ~~~w.guess) ≠ 0 ∧ w.log ≠ []) ∧
    (let w := window 1 3
     w.mask &&& ~~~w.guess ≠ 0 ∧ w.mask &&& ~~~w.truth ≠ 0 ∧ w.mask &&& ~~~w.truth &&& ~~~(w.mask &&& ~~~w.guess) = 0) ∧
    laneInstr logged.instr = some (.add, lv 0) ∧ lvMarks .add (lv 0) = [] ∧ base.g.upset = 0 ∧ base.g.poisonV = [] ∧
    logged.olds = [] := by decide

/-- CrossLane: every lane and none takes part; the words of a fold that are 1 and -1, and a NaN. -/
theorem witness_folds : laneOn (maskOf (takesPart base.ctx always)) 0 = true ∧
    maskOf (takesPart base.ctx ⟨true, 7⟩) = 0 ∧
    ([0x3F800000, 0xBF800000] : List Lane).map (fun x => (decodeF fp32 false x.toNat).scaled (-23)) = [8388608, -8388608].map some ∧
    decodeF fp32 false 0x7FC00000 = .nan := by decide +kernel

/-- CrossLane, SystemRegisterWrites (s0 and the widest values), FenceAndFetch. -/
theorem witness_cross_lane : (lv 0).a.lr = false ∧ bVector (lv 0) = some ⟨3, false⟩ ∧ (lv 0).vd.toNat < base.blk.regs ∧
    (lv 0).a.reg.toNat < base.blk.regs ∧ fmtLegal 0x201 = true ∧ gangLegal 0x1000000014248500 = true ∧
    (0x303 : SWord) &&& 0x303 = 0x303 ∧ pmcselLegal 0 = true ∧ lsmodeLegal 2 0x9 = true ∧ (2 : BitVec 3).toNat < 3 ∧
    (0x20 : BitVec 8) ≤ 0x20 ∧ (0x2F : BitVec 8) ≤ 0x2F := by decide

/-- A second group of the block, in slot 1. -/
def second (r : Run) : Group := { Group.none with uid := 1, slot := 1, part := 0, run := r }

/-- A state in which it stands, active or pending. -/
def two (r : Run) (active pending : List (Nat × Nat)) : State :=
  modPart { base with groups := [second r] } 0 fun p => { p with active := active, pending := pending }

/-- GroupScheduling: nobody to swap with; a ready pending group; a boost; a starved group. -/
theorem witness_scheduling :
    Quiet base ∧ (getPart base (myPart base)).pending = [] ∧ Quiet (two .ready [(1, 0)] [(1, 1)]) ∧
    (let s := two .ready [(1, 0)] [(1, 1)]
     s.g.uid = 1 ∧ s.g.slot = 0 ∧ readyOf s (getPart base (myPart base)).pending = [] ∧
     (getPart s (myPart s)).active.length ≤ 8 ∧ (1, 0) ∈ (getPart s (myPart s)).active ∧
     oldest s (readyOf s (dropPair (getPart s (myPart s)).pending 1 0)) = some (1, 1) ∧
     s.g.window = none ∧ s.g.parked = false ∧ swapWanted { s.g with swapDue := true } = true ∧
     swapWanted { s.g with run := .atBar 0 } = true ∧ nextIssue s 0 = some (1, 0) ∧
     boostedOf s (readyOf s (getPart s 0).active) = [] ∧ (getPart s 0).yielded = []) ∧
    (let s := modG (two .ready [(1, 1)] [(1, 0)]) fun g => { g with waited := 4096 }
     isReady s s.g = true ∧ 256 ≤ s.g.waited ∧ 4096 ≤ s.g.waited ∧ (1, 0) ∈ (getPart s (myPart s)).pending ∧
     longest s ((getPart s (myPart s)).active.filter fun y => maySwap s (myPart s) y.1 y.2) = some (1, 1)) := by
  refine ⟨base_quiet, by decide, ?_, by decide, by decide⟩
  constructor <;> decide

/-- BlockBarrier, SpanBarrier, ExitEndsTheGroup: the last group to arrive, and one that waits for the second. -/
theorem witness_barriers : base.g.uid = base.blk.uid ∧ base.g.slot < 32 ∧ base.blk.phase ≠ .none ∧ base.blks = [] ∧
    base.groups = [] ∧ base.blk.latch = [] ∧ base.blk.slatch = [] ∧ (spanBlocks base base.blk).any spanWritePending = false ∧
    Quiet (two .ready [(1, 0)] [(1, 1)]) ∧
    ((two .ready [(1, 0)] [(1, 1)]).groups.all fun g => g.uid != 1 || g.run == .absent || g.run == .exited) = false := by
  and_intros <;> first | decide | constructor <;> decide

/-- A state with a trap entry. -/
def trapping : State := blocked fun b => { b with trapEntry := some 0x10080 }

/-- TrapEntryState, TrapsAndReturn: before a trap, in a handler, out of one, with a deferred trap. -/
theorem witness_traps : trapping.blk.trapEntry = some 0x10080 ∧ trapping.ctx.handler = false ∧ (31 : Nat) < 32 ∧
    Quiet (based fun c => { c with handler := true }) ∧ (based fun c => { c with handler := true }).ctx.handler = true ∧
    base.ctx.handler = false ∧ (∀ n w, emuMatch base n w = none) ∧ base.g.window = none ∧ base.g.undo = none ∧
    base.blk.trapEntry = none ∧ (modG base fun g => { g with trapReq := some ⟨2, 0, 0, 3, none⟩ }).g.trapReq.isSome = true := by
  refine ⟨by decide, by decide, by decide, ?_, by decide, by decide, fun _ _ => rfl, by decide, by decide, by decide, by decide⟩
  constructor <;> decide

/-- A state whose a2 points into the mapped page. -/
def pointing (a : Addr) : State := based fun c => c.writeA 2 a

/-- FenceAndFetch: an IPF of the rest of a sector that the group may fetch. -/
theorem witness_ipf :
    (let s := based fun c => (c.writeA 2 0x10010).writeS 3 0x70
     Quiet s ∧ (s.ctx.readA 2).toNat % 128 + (s.ctx.readS 3).toNat = 128 ∧ translate s 0 0 0x10000 = .ok 0x200000 0x20000F ∧
     protDetail s 0 false false true false 0x200000 0x20000F = none ∧ poisonedAt s (128 * 0x4000) 128 = false ∧
     accIdx s 0 0x20000F 0x200000 / 128 = 0x4000 ∧ (getDie s 0).l3iWays = 0) := by
  and_intros <;> first | decide | constructor <;> decide

/-- An access of the page at a PA. -/
def at_ (pa : Nat) : Acc := ⟨none, BitVec.ofNat 72 (pa - 0x1F0000), pa, pa, 0x20000F⟩

/-- ScalarMemory, RefusedAccesses: reads and writes of 8 and 16 bytes at the end of a page, and the accesses that are refused:
misaligned, unmapped and forbidden. -/
theorem witness_scalar_memory : Quiet (pointing 0x1FFF0) ∧
    Reaches (pointing 0x1FFF0) (wmEA wm (pointing 0x1FFF0).ctx) false 8 (at_ 0x20FFF0) ∧
    Reaches (pointing 0x1FFF0) (wmEA wm (pointing 0x1FFF0).ctx) true 16 (at_ 0x20FFF0) ∧ wm.size.toNat ≤ 3 ∧
    poisonedAt (pointing 0x1FFF0) 0x20FFF0 16 = false ∧ poisonedAt (pointing 0x1FFF0) 0x20FFF0 8 = false ∧
    leNat (loaded (pointing 0x1FFF0) false (at_ 0x20FFF0) 16) < 2 ^ 72 ∧
    l1Find (pointing 0x1FFF0) 0 0x20FFF0 = none ∧ (pointing 0x1FFF0).memKey = [] ∧
    (wmEA wm (pointing 0x10001).ctx).toNat % 8 ≠ 0 ∧ (wmEA wm (pointing 0x20000).ctx).toNat % 8 = 0 ∧
    ∃ l m, translate (pointing 0x20000) 0 0 (wmEA wm (pointing 0x20000).ctx) = .fault l m := by
  refine ⟨by constructor <;> decide, ⟨by decide, by decide, by decide, by decide⟩,
    ⟨by decide, by decide, by decide, by decide⟩, by decide, ?_⟩
  and_intros <;> first | decide | exact ⟨_, _, rfl⟩

/-- A state whose page has another leaf, at which a2 points. -/
def guardedPage (leaf : Nat) : State :=
  modCtx { base with mem := writeCells base.mem (cellsAt 0x140008 (leBytes 8 leaf)) } fun c => c.writeA 2 0x10000

/-- RefusedAccesses: a page that may not be written, and one that may not be read. -/
theorem witness_forbidden : Quiet (guardedPage 0x20000B) ∧ translate (guardedPage 0x20000B) 0 0 0x10000 = .ok 0x200000 0x20000B ∧
    protDetail (guardedPage 0x20000B) 0 false true false false 0x200000 0x20000B = some 1 ∧
    translate (guardedPage 0x20000D) 0 0 0x10000 = .ok 0x200000 0x20000D ∧
    protDetail (guardedPage 0x20000D) 0 false false false false 0x200000 0x20000D = some 1 := by
  and_intros <;> first | decide | constructor <;> decide

/-- A load or store of four bytes through a2, with register 3 as its offset. -/
def lmA : LmF := { lm with n := 2 }

/-- VectorMemory: all lanes on the last word of the page, with a register offset and with a stride. -/
theorem witness_vector_memory : Quiet (pointing 0x1FFFC) ∧ LmFits (pointing 0x1FFFC) lmA false ∧
    LmFits (pointing 0x1FFFC) { lmA with vo := 0 } true ∧
    Reaches (pointing 0x1FFFC) 0x1FFFC false 4 (at_ 0x20FFFC) ∧
    Reaches (pointing 0x1FFFC) 0x1FFFC true 4 (at_ 0x20FFFC) ∧
    (∀ l < 32, vldEA lmA (pointing 0x1FFFC).ctx l = 0x1FFFC) ∧
    (∀ l < 32, vldsEA { lmA with vo := 0 } (pointing 0x1FFFC).ctx l = 0x1FFFC) ∧
    poisonedAt (pointing 0x1FFFC) 0x20FFFC 4 = false := by
  and_intros <;> first | decide | constructor <;> decide

/-- A state whose lanes have offsets of their own in register 3, from an address in a2 on. -/
def spread (a : Addr) (off : Nat → Lane) : State := modCtx (pointing a) fun c => c.setV 3 0xFFFFFFFF off

/-- RefusedAccesses: lane 1 is the lowest that is misaligned, that does not translate, and that stands on a page that may not be
written. -/
theorem witness_refused_lanes : takesPart base.ctx lmA.g 1 = true ∧
    (vldEA lmA (spread 0x10000 fun l => if l = 0 then 0 else 1).ctx 0).toNat % 4 = 0 ∧
    (vldEA lmA (spread 0x10000 fun l => if l = 0 then 0 else 1).ctx 1).toNat % 4 ≠ 0 ∧
    (∀ k < 32, (vldEA lmA (spread 0x1FFFC fun l => if l = 0 then 0 else 4).ctx k).toNat % 4 = 0) ∧
    vldEA lmA (spread 0x1FFFC fun l => if l = 0 then 0 else 4).ctx 1 = 0x20000 ∧
    (∃ l m, translate (spread 0x1FFFC fun l => if l = 0 then 0 else 4) 0 0 0x20000 = .fault l m) ∧
    translate (spread 0x1FFFC fun l => if l = 0 then 0 else 4) 0 0 0x1FFFC = .ok 0x20FFFC 0x20000F ∧
    LmFits (guardedPage 0x20000B) lmA false ∧ (∀ k < 32, vldEA lmA (guardedPage 0x20000B).ctx k = 0x10000) := by
  and_intros <;> first | decide | exact ⟨_, _, rfl⟩

/-- A block with two banks, the first scratch, the second a FIFO that holds one entry. -/
def banked : State := blocked fun b => { b with
  lstore := 2, accrows := 16, lsmode := [(0, 1), (1, 2)], fifo := [(1, [List.replicate 32 7])] }

/-- ScratchAndFifo: the last word of the first bank, in the own window and in that of span position 0; a FIFO bank with an entry
and with room. -/
theorem witness_scratch : Quiet banked ∧ LmFits banked lm false ∧ InScratch banked.blk 4 0x7FFC ∧
    scratchPoisoned banked.blk 0x7FFC 4 = false ∧ spanTarget banked 0 = some banked.blk ∧ findBlk banked 1 = banked.blk ∧
    (1 : Nat) < banked.blk.lstore ∧ bankMode banked.blk 1 = 2 ∧ bankBusy banked.blk 1 = false ∧
    fifoOf banked.blk 1 = [List.replicate 32 7] ∧ banked.blk.scratchPoison = [] := by
  and_intros <;> first | decide | constructor <;> decide

/-- A state in which lane L's offset register 4 holds 4 L, so that no two lanes meet. -/
def apart : State := modCtx (pointing 0x1FF80) fun c => c.setV 4 0xFFFFFFFF fun l => BitVec.ofNat 32 (4 * l)

/-- An addition at the last word of the page. -/
def asked : AtomReq := ⟨0x20FFFC, 0, false, 0, 1, 0⟩

/-- AtomicsOfLanes, ScalarScratchUnitAtomics: 32 lanes on 32 words, 32 lanes on one, one scalar, a word of scratch, and an
operation of an atomic unit and of a peer. -/
theorem witness_atomics : Quiet apart ∧ AtomFits apart { la with n := 2 } false ∧ AtomFits apart { la with n := 2 } true ∧
    (∀ l < 32, atomEA { la with n := 2 } apart.ctx l = BitVec.ofNat 72 (0x1FF80 + 4 * l)) ∧
    Reaches apart 0x1FF80 true 4 (at_ 0x20FF80) ∧ Reaches apart 0x1FFFC true 4 (at_ 0x20FFFC) ∧
    (∀ l < 32, atomEA { la with n := 2 } (pointing 0x1FF80).ctx l = 0x1FF80) ∧
    AtomFits banked la true ∧ InScratch banked.blk 4 0 ∧ isLocal 0x20FFFC = true ∧ 0x20FFFC % atomBytes false = 0 ∧
    poisonedAt base (homeIdx base.place 0x20FFFC) 4 = false ∧ asked ∈ ({ base with unitOps := [asked] } : State).unitOps ∧
    apart.unitOps = [] ∧
    (mget Peer.reset [(7, ⟨1, true, 0x210000⟩)] 7).valid = true ∧ asked.pa.toNat + peerBytesOf asked ≤ 0x210000 ∧
    peerBytesOf { asked with aop := 31, size := 4 } = 16 ∧ asked.aop ≠ 31 := by
  and_intros <;> first | decide | constructor <;> decide

/-- ScalarScratchUnitAtomics: of two operations on a sector the first has its turn. -/
theorem witness_unit_order :
    (let s := { base with unitOps := [asked, { asked with b := 2 }] }
     let at_ := unitOpAt s (homeIdx s.place 0x20FFFC / 128)
     s.unitOps.find? at_ = some asked ∧ s.unitOps.find? at_ ≠ some { asked with b := 2 }) := by decide

/-- AtomicsOfLanes: the lanes of an atomic see the sector that they share under one key. -/
theorem witness_one_view :
    OneView apart (fun l => l < 32 ∧ takesPart apart.ctx la.g l = true) fun l => at_ (0x20FF80 + 4 * l) := by
  have h : ∀ l < 32, viewTag apart 0x20000F (0x20FF80 + 4 * l) = keyTag apart 0x20000F (0x20FF80 + 4 * l) := by decide +kernel
  have k : ∀ l < 32, keyTag apart 0x20000F (0x20FF80 + 4 * l) = keyTag apart 0x20000F 0x20FF80 := by decide +kernel
  exact ⟨fun l p => h l p.1, fun l m p q _ => (k l p.1).trans (k m q.1).symm⟩

/-- An MLDF of one row and of 16 rows. -/
def mldf (rows : BitVec 3) (t : Bool) : LfF := ⟨always, 8, 4, 5, 0, rows, t⟩

/-- PlaneLoads: registers, offsets and rows within the window, as they stand and transposed. -/
theorem witness_plane_loads : (4 : BitVec 3).toNat ≤ 4 ∧ (mldf 0 false).ef.toNat < 6 ∧
    (mldf 0 false).base.toNat + 1 ≤ banked.blk.regs ∧
    (∀ l < 32, ∀ w ∈ mldfWords 1 l, ∀ o ∈ mldfOffsets (mldf 0 false) 0 0 w, o % 4 = 0 ∧ windowBusy banked.blk o 4 = false ∧
      inWindow banked.blk o 4 = true ∧ scratchPoisoned banked.blk o 4 = false) ∧
    (∀ l < 32, ∀ w ∈ mldfWords 1 l, ∀ o ∈ mldfOffsets (mldf 0 true) 0 0 w, o % 2 = 0 ∧ windowBusy banked.blk o 2 = false ∧
      inWindow banked.blk o 2 = true) := by
  and_intros <;> decide

/-- A state whose core's cube queue holds a list. -/
def cubed (l : List CubeJob) : State := modCore banked 0 fun c => { c with cubeQ := l }

/-- A product of 16 rows and columns of bf16, of registers 8 on. -/
def lc : LcF := ⟨true, 0, true, false, 0, 0, 0, 0, 0, 8⟩

/-- CubeAccepts: the last rows of the block, room in the queue, a full queue and a gang that has joined. CubeExecutes: each kind
of operation at the head of the queue. -/
theorem witness_cube : Quiet banked ∧ tileOut banked.blk 0 0 7 0 = false ∧ (getCore banked 0).cubeQ.length < 4 ∧
    (8 : Nat) + rowsOf 0 * colsOf 0 / 32 ≤ banked.blk.regs ∧ (8 : Nat) + (scaleCount lz + 31) / 32 ≤ banked.blk.regs ∧
    (modBlk banked fun b => { b with joined := [⟨0, false, 1, 0, lc⟩] }).blk.joined = [⟨0, false, 1, 0, lc⟩] ∧
    4 ≤ (getCore (cubed (List.replicate 4 ⟨1, .zero lz, []⟩)) 0).cubeQ.length ∧ banked.blks = [] ∧
    (getCore (cubed [⟨1, .pass lc [] [] [], []⟩]) 0).cubeQ = [⟨banked.blk.uid, .pass lc [] [] [], []⟩] ∧
    tileOut banked.blk lc.arow lc.mc lc.acol lc.nc = false ∧ tileOut banked.blk lz.arow lz.mc lz.acol lz.nc = false ∧
    (([(0, 1), (255, 2)] : List (Nat × Lane)).map (·.1)).Nodup ∧
    (∀ w ∈ ([(0, 1), (255, 2)] : List (Nat × Lane)), w.1 < rowsOf lz.mc * colsOf lz.nc) ∧ 4 ≤ (4 : BitVec 3).toNat := by
  and_intros <;> first | decide | constructor <;> decide

/-- A product of UINT8 elements, and planes whose first elements are all 255. -/
def lcI : LcF := { lc with ef := 5, ovw := false }

/-- One row or column of ones in BF16, one of the largest value, one of an infinity and one of a NaN. -/
def rowOf (x : Lane) : List (Nat × Lane) := (List.range 8).map fun j => (j, x)

/-- CubeExecutes: a pass that clamps, with a member, and one that does not; products that are finite, zero, infinite and NaN. -/
theorem witness_passes :
    (let full := accKey 0 0
     let s := modBlk (cubed [⟨1, .pass lcI (rowOf 0xFFFFFFFF) (rowOf 0xFFFFFFFF) [], [(1, 0)]⟩]) fun b =>
       { b with acc := [(full, 0x7FFFFFFF)] }
     (cubeElem lcI (rowOf 0xFFFFFFFF) (rowOf 0xFFFFFFFF) [] 0 0 (accAt s.blk 0 0)).2 = true ∧ (findGroup s 1 0).isAt 1 0 = true ∧
     (findGroup s 1 0).run ≠ .exited ∧ tileOut s.blk lcI.arow lcI.mc lcI.acol lcI.nc = false ∧
     (cubeElem lcI (rowOf 1) (rowOf 1) [] 0 0 0).2 = false) ∧
    (let p := fun x y => mulF (decodeF bf16 false (planeElem lc.ef (rowOf x) 0 0)) (decodeF bf16 false (planeElem lc.ef (rowOf y) 0 0))
     (p 0x3F803F80 0x40004000).scaled (1 - 47) = some (2 ^ 47) ∧ (p 0x40004000 0x3F803F80).scaled (1 - 47 - (1 : Nat)) = some (2 ^ 48) ∧
     (2 ^ 48 : Int).natAbs < 2 ^ (48 + 1) ∧ 2 ^ (47 + 1) ≤ (2 ^ 48 : Int).natAbs ∧ (p 0 0x3F803F80).scaled 0 = some 0 ∧
     p 0x7F807F80 0x3F803F80 = .inf false ∧ p 0x7F807F80 0xBF80BF80 = .inf true ∧ p 0x7F807F80 0 = .nan) := by
  refine ⟨?_, ?_⟩ <;> decide +kernel

/-- LoneGangMultiplies, AccumulatorTransfers: a lone gang with room in the queue; a tile read, and stored to scratch and to
memory. -/
theorem witness_lone_gang : banked.g.run = .ready ∧ banked.g.uid = banked.blk.uid ∧ banked.groups = [] ∧ banked.blks = [] ∧
    banked.blk.phase ≠ .complete ∧ banked.blk.joined = [] ∧ isLone banked.ctx.gang banked.g.slot = true ∧
    spanOp banked.blk lc = false ∧ latchOf banked.blk false (gangId banked.ctx.gang) = ⟨0, 0, none⟩ ∧
    (∀ p ∈ [0, 1], ∀ r ∈ rowRegs (loneBase lc p) (planeRows lc p), r < banked.blk.regs) ∧
    (drainCube banked 0).blk.accPoison = [] ∧
    mget false (drainCube (modBlk banked fun b => { b with accPoison := [(accKey 0 0, true)] }) 0).blk.accPoison (accKey 0 0) = true ∧
    takesPart banked.ctx lz.g 0 = true ∧ (∀ m < rowsOf lz.mc, (mstzRow lz banked.ctx m).toNat % 16 = 0) ∧
    (∀ m < 16, ∀ n < 16, (mstzAddr lz banked.ctx (m, n)).toNat % 4 = 0 ∧
      windowBusy banked.blk (mstzAddr lz banked.ctx (m, n)).toNat 4 = false ∧
      inWindow banked.blk (mstzAddr lz banked.ctx (m, n)).toNat 4 = true) ∧
    (∀ m < 16, ∀ n < 16, mstzAddr { lz with n := 2 } (pointing 0x1FFC0).ctx (m, n) = BitVec.ofNat 72 (0x1FFC0 + 4 * n)) ∧
    Reaches (pointing 0x1FFC0) 0x1FFFC true 4 (at_ 0x20FFFC) := by
  and_intros <;> first | decide | constructor <;> decide

/-- A GANG of two members: slot 0 supplies plane A, slot 1 plane B (R116). -/
def pair : BitVec 64 := BitVec.ofNat 64 (0x100 + (0x100 + 2 ^ 5 + 1) * 2 ^ 10)

/-- The block's second group at the latch with an MCUBE, and the entry on which it has arrived. -/
def paired (gang : BitVec 64) (f : LcF) (arrived : Mask) : State :=
  modBlk { modCtx banked (fun c => { c with gang := gang }) with
      groups := [{ second (.atLatch 0 false f) with ctx := { (second .ready).ctx with gang := pair } }] }
    fun b => { b with
      groups := 2
      latch := if arrived = 0 then [] else [(0, ⟨arrived, 0, some (pair, f)⟩)] }

/-- LoneGangMultiplies: a member that arrives first, last, with a GANG that is not the record's or does not fit its MCUBE,
beside one with other fields and beside one that has exited. -/
theorem witness_arrivals :
    Quiet (paired pair lc 2) ∧ (paired pair lc 2).blk.phase ≠ .none ∧ (∀ r ∈ mcubeRegs (paired pair lc 2) lc, r < 256) ∧
    (∀ g ∈ (paired pair lc 2).groups, g.isAt 1 0 = false) ∧ spanOp (paired pair lc 2).blk lc = false ∧
    composed lc pair 0 2 false true = true ∧ composed lc (pair + 1) 0 2 false true = false ∧
    (let s := paired pair lc 0
     (latchOf s.blk false 0).first = none ∧ listed pair (arrivalPart s lc s.blk).arrived = [0, 1] ∧
     laneOn (arrivalPart s lc s.blk).arrived 1 = false) ∧
    (let s := paired pair lc 2
     latchOf s.blk false 0 = ⟨2, 0, some (pair, lc)⟩ ∧ (arrivalPart s lc s.blk).arrived = 3 ∧
     arrivalField s lc 1 0 = lc ∧ arrivalField s lc 1 1 = lc ∧ (findGroup s 1 1).isAt 1 1 = true ∧
     composed lc pair 1 2 false true = true ∧ s.blk.joined = [] ∧ (getCore s 0).cubeQ.length < 4) ∧
    (let gang : BitVec 64 := BitVec.ofNat 64 (0x121 + 0x100 * 2 ^ 10)
     gang ≠ pair ∧ gangId gang = 0 ∧ composed lc gang 0 2 false true = true) ∧
    arrivalField (paired pair { lc with ovw := false } 2) lc 1 1 ≠ lc ∧
    (findGroup { paired pair lc 2 with groups := [second .exited] } 1 1).run = .exited := by
  refine ⟨by constructor <;> decide, ?_⟩
  and_intros <;> decide +kernel

/-- LoneGangMultiplies: the first member's arrival is not the last, and the last one's is complete, of members that agree. -/
theorem witness_rendezvous : ¬ ArrivalClashes (paired pair lc 0) lc ∧ ¬ ArrivalFull (paired pair lc 0) lc ∧
    ArrivalFull (paired pair lc 2) lc ∧ ¬ ArrivalAgrees (paired pair { lc with ovw := false } 2) lc := by
  have h : arrivalBlocks (paired pair lc 0) lc = [(paired pair lc 0).blk] := rfl
  have h2 : arrivalBlocks (paired pair lc 2) lc = [(paired pair lc 2).blk] := rfl
  have h3 : arrivalBlocks (paired pair { lc with ovw := false } 2) lc = [(paired pair { lc with ovw := false } 2).blk] := rfl
  have h0 : (latchOf (paired pair lc 0).blk (spanOp (paired pair lc 0).blk lc) (gangId (paired pair lc 0).ctx.gang)).first = none :=
    by decide
  refine ⟨?_, ?_, ?_, ?_⟩
  · rintro ⟨r, hr, -⟩
    exact nomatch h0.symm.trans hr
  · rintro ⟨-, hl⟩
    exact absurd ((hl _ (by rw [h]; exact List.mem_singleton_self _)).2 1 (by decide)) (by decide)
  · refine ⟨by decide, fun x hx => ?_⟩
    rw [h2, List.mem_singleton] at hx
    subst hx
    decide
  · rintro ⟨ha, -⟩
    exact absurd (ha _ (by rw [h3]; exact List.mem_singleton_self _) 0 (by decide)).1.2.2.2.2.1 (by decide)

/-- A live engine command of the block, from its bytes. -/
def cmd (kind : BitVec 3) (state : CmdState) (started : Bool) (bytes : List Byte) : Cmd :=
  ⟨5, 1, kind, state, started, bytes, 0, 0, false, false, 0, 0, 0, 0, false, false, none, none, none, 0, 0⟩

/-- The command block of an XCPY of one 8-byte element within the mapped page (R188). -/
def copyBlock : List Byte :=
  [0, 0, 1, 0, 144, 0] ++ List.replicate 10 0 ++ leBytes 16 0x10100 ++ leBytes 16 0x10200 ++ [0, 0, 3, 0, 0, 1, 0, 0] ++
    leBytes 4 1 ++ List.replicate 84 0

/-- A state with one live command whose handle stands in s1. -/
def commanded (k : Cmd) : State :=
  modCtx (blocked fun b => { b with cmds := [k] }) fun c => c.writeS 1 (handleOf 0 k.kind 1 5)

/-- EngineIssue: room for a handle, a command block that can be read, the last registers of the block. -/
theorem witness_engine_issue : handleRoom base = true ∧ (0x10100 : Nat) % 16 = 0 ∧
    (∃ bs, readCommand base 0x10100 = .ok bs) ∧ (0 : BitVec 8).toNat + (255 : BitVec 8).toNat < base.blk.regs :=
  ⟨by decide, by decide, ⟨_, rfl⟩, by decide⟩

/-- HandleInstructions: a stale handle, one of a pending command, one of a command that is done. -/
theorem witness_handles : Quiet (commanded (cmd 0 .pending false copyBlock)) ∧ (1 : BitVec 6) ≠ 0 ∧
    badHandle 1 (handleOf 0 0 1 5) = false ∧ badHandle 1 (handleOf 0 0 2 5) = false ∧
    handleCmd (commanded (cmd 0 .pending false copyBlock)) (handleOf 0 0 2 5) = none ∧
    (handleCmd (commanded (cmd 0 .pending false copyBlock)) (handleOf 0 0 1 5)).map (·.2.state) = some .pending ∧
    (handleCmd (commanded (cmd 0 .done true copyBlock)) (handleOf 0 0 1 5)).map (·.2.isFinal) = some true ∧
    waithTrap (cmd 0 .done true copyBlock) = none := by
  and_intros <;> first | decide | constructor <;> decide

/-- EngineProgress: a command that passes its checks and one that fails them; one without elements; an element of a copy. -/
theorem witness_engine :
    (let s := commanded (cmd 0 .pending false copyBlock)
     s.blk.phase = .resident ∧ (s.blk.cmds.find? fun k => k.num == 5) = some (cmd 0 .pending false copyBlock) ∧
     earlierWaits s s.blk (cmd 0 .pending false copyBlock) = false ∧ commandOk s s.blk (cmd 0 .pending false copyBlock) = true ∧
     cmdTotal (cmd 0 .pending false copyBlock) = 1 ∧ commandOk s s.blk (cmd 0 .pending false []) = false ∧
     commandOk s s.blk (cmd 7 .pending false []) = true ∧ cmdTotal (cmd 7 .pending false []) = 0) ∧
    (let k := cmd 0 .pending true copyBlock
     let s := commanded k
     k.cancelReq = false ∧ k.ack = false ∧ k.stop < cmdTotal k ∧ cmdU k 51 1 % 2 = 0 ∧ srcBytes k = 8 ∧
     elemPlace s s.blk k 0 ((cmdU k 16 9 : Int) + cmdDisp k 72 0) 8 false true = .ok (.local ⟨none, 0x10100, 0x200100,
         0x200100, 0x20000F⟩) ∧
     elemPlace (placeAsks s s.blk (.local ⟨none, 0x10100, 0x200100, 0x200100, 0x20000F⟩)) s.blk k 0
       ((cmdU k 32 9 : Int) + cmdDisp k 104 0) 8 true true = .ok (.local ⟨none, 0x10200, 0x200200, 0x200200, 0x20000F⟩) ∧
     poisonedAt s 0x200100 8 = false) := by
  and_intros <;> decide +kernel

/-- A command block of 144 bytes with fields at their offsets. -/
def block (l : List (Nat × List Byte)) : List Byte :=
  (List.range 144).map fun i => ((l.find? fun e => decide (e.1 ≤ i ∧ i < e.1 + e.2.length)).bind fun e => e.2[i - e.1]?).getD 0

/-- A running command of a kind, with the words that FILL, SPILL and XPFD name. -/
def running (kind : BitVec 3) (bytes : List Byte) : Cmd := { cmd kind .pending true bytes with addr := 0x10100, count := 1 }

/-- The block of a gather or a scatter of one 4-byte element, its index at 0x10180 (R355). -/
def indexed : List Byte :=
  block [(16, leBytes 9 0x10100), (32, leBytes 9 0x10200), (48, leBytes 9 0x10180), (67, [2]), (68, [2]), (69, [2]), (72, [1])]

/-- The block of a signal that adds 3 to a word (R358). -/
def signals : List Byte := block [(16, leBytes 9 0x10100), (40, [3])]

/-- What every element's clauses ask for: the engine may perform it. -/
theorem engine_at {k : Cmd} (h : decide (k.num = 5 ∧ k.state = .pending ∧ k.started = true ∧ k.cancelReq = false ∧ k.ack = false ∧
    k.stop < cmdTotal k) = true) : EngineAt (commanded k) 5 k := by
  obtain ⟨hn, hp, hs, hc, ha, hl⟩ := of_decide_eq_true h
  refine ⟨rfl, ?_, hp, hs, hc, ha, hl⟩
  show List.find? _ [k] = some k
  rw [List.find?_cons_of_pos]
  simp [hn]

/-- EngineProgress: an element of each kind that may be performed now. -/
theorem witness_elements : EngineAt (commanded (running 0 copyBlock)) 5 (running 0 copyBlock) ∧
    EngineAt (commanded (running 1 indexed)) 5 (running 1 indexed) ∧
    EngineAt (commanded (running 2 indexed)) 5 (running 2 indexed) ∧
    EngineAt (commanded (running 3 copyBlock)) 5 (running 3 copyBlock) ∧
    EngineAt (commanded (running 4 signals)) 5 (running 4 signals) ∧
    EngineAt (commanded (running 5 (List.replicate 128 0))) 5 (running 5 (List.replicate 128 0)) ∧
    EngineAt (commanded (running 6 [])) 5 (running 6 []) ∧ EngineAt (commanded (running 7 [])) 5 (running 7 []) := by
  and_intros <;> exact engine_at (by decide +kernel)

/-- EngineProgress: what the elements read and write: memory of the page, and scratch. -/
theorem witness_element_places :
    (let k := running 3 copyBlock
     let s := commanded k
     elemPlace s s.blk k 0 (0x10100 + cmdDisp k 72 0) 8 false true = .ok (.local (at_ 0x200100)) ∧
     elemPlace s s.blk k 0 (0x10200 + cmdDisp k 104 0) 8 true true = .ok (.local (at_ 0x200200)) ∧ dstBytes k = 8 ∧
     refused s (.local (at_ 0x200100)) = false ∧ placePoisoned s (.local (at_ 0x200100)) 8 = false ∧ s.unitOps = [] ∧ s.early = []) ∧
    (let k := running 1 indexed
     let s := commanded k
     cmdU k 48 9 = 0x10180 ∧ 2 ^ cmdU k 68 1 = 4 ∧ gathBytes k = 4 ∧
     elemPlace s s.blk k 0 0x10180 4 false false = .ok (.local (at_ 0x200180)) ∧ leNat (placeBytes s (.local (at_ 0x200180)) 4) = 0 ∧
     elemPlace s s.blk k 0 0x10100 4 false false = .ok (.local (at_ 0x200100)) ∧
     elemPlace s s.blk k 0 0x10200 4 true false = .ok (.local (at_ 0x200200))) ∧
    (let k := running 4 signals
     let s := commanded k
     elemPlace s s.blk k 0 0x10100 (sigBytes k) true true = .ok (.local (at_ 0x200100)) ∧ cmdU k 33 1 = 0) ∧
    (let k := running 5 (List.replicate 128 0)
     let s := commanded k
     globalPlace s s.blk k 0x10100 true false = .ok (.local (at_ 0x200100)) ∧
     globalPlace s s.blk k 0x10100 false false = .ok (.local (at_ 0x200100)) ∧ s.g.isAt s.blk.uid k.slot = true ∧
     translate s 0 0 0x10100 = .ok 0x200100 0x20000F ∧
     engineQueues s s.blk k 0x20000F (accIdx s 0 0x20000F 0x200100) false = false) ∧
    elemPlace (modBlk banked fun b => { b with cmds := [running 0 []] }) banked.blk (running 0 []) 1 0 8 true true =
      .ok (.scratch 1 0) := by
  and_intros <;> decide +kernel

/-- EngineProgress: a first access that does not translate, and one that may not be made. -/
theorem witness_engine_stops :
    FirstAccess { running 5 [] with addr := 0x20000 } 0x20000 true ∧
    (∃ l m, translate (commanded { running 5 [] with addr := 0x20000 }) 0 0 0x20000 = .fault l m) ∧
    EngineAt (commanded { running 5 [] with addr := 0x20000 }) 5 { running 5 [] with addr := 0x20000 } ∧
    FirstAccess { running 5 [] with addr := 0x10000 } 0x10000 true ∧
    translate (guardedPage 0x20000B) 0 0 0x10000 = .ok 0x200000 0x20000B ∧
    protDetail (guardedPage 0x20000B) 0 false true false true 0x200000 0x20000B = some 1 :=
  ⟨.inr (.inr (.inl (by decide))), ⟨_, _, rfl⟩, engine_at (by decide +kernel), .inr (.inr (.inl (by decide))), by decide,
    by decide⟩

/-- A launch record: one group, 256 registers, launch id 9, code object 0, two blocks. -/
def rec0 : BitVec 512 :=
  BitVec.ofNat 512 (1 + 1 * 2 ^ 96 + 1 * 2 ^ 192 + 32 * 2 ^ 200 + 9 * 2 ^ 480)

/-- The launch made of it. -/
def launch0 : Launch := ⟨77, 0, 0, rec0, 0x10000, ⟨0, 0, 0⟩, 0, 0, none, 0, .active⟩

/-- A state whose port 0 belongs to function 0, which the host uses, with a queue, a launch at its head and a completion ring in
the page. -/
def ported (q : List QRec) (key : Option Nat) (ls : List Launch) : State :=
  { modPort base 0 (fun p => { p with owner := some 0, queue := q, checked := key, crbase := 0x10400 }) with
    launches := ls, via := some 0 }

/-- LaunchFromAKernel: a record that can be read, a port with room, a full one, and one that is not the function's own. -/
theorem witness_launch : (0x10100 : Nat) % 64 = 0 ∧ readRecord base 0x10100 = .ok 0 ∧
    (getPort (ported [] none []) 0).owner = some 0 ∧ (getPort (ported [] none []) 0).queue.length < 256 ∧
    (getPort base 0).owner ≠ some 0 ∧
    256 ≤ (getPort (ported (List.replicate 256 ⟨1, false, 0⟩) none []) 0).queue.length := by
  refine ⟨by decide, by decide +kernel, by decide, by decide, by decide, ?_⟩
  show 256 ≤ (List.replicate 256 _).length
  rw [List.length_replicate]

/-- Cancels: a launch id that only a queued record bears; a launch with a block dispatched. IngressPorts: a port with room. -/
theorem witness_cancels : namedLaunches (ported [⟨1, false, rec0⟩] none []) 0 9 = [] ∧
    namedLaunches (ported [⟨1, false, rec0⟩] (some 77) [{ launch0 with dispatched := 1 }]) 0 9 = [{ launch0 with dispatched := 1 }] ∧
    (∀ r ∈ uncheckedRecords (getPort (ported [⟨1, false, rec0⟩] (some 77) [{ launch0 with dispatched := 1 }]) 0), recLid r.bits ≠ 9) ∧
    portOpen (ported [] none []) 0 = true ∧ portOpen (ported [⟨1, false, rec0⟩] none []) 0 = true ∧ portOpen base 0 = false := by
  refine ⟨by decide +kernel, by decide +kernel, by decide +kernel, by decide, by decide, by decide⟩

/-- A code object with one kernel at offset 0. -/
def module0 : Module := ⟨0, 0, 0x10000, 0x10000, [], [⟨0, 0, 0⟩], []⟩

/-- HeadRecords: a record without a code object, with one that is absent, resident; a record that fails a check and one that
passes; its waits. -/
theorem witness_head :
    (let s := { ported [⟨1, false, rec0⟩] none [] with modules := [module0] }
     (getPort s 0).checked = none ∧ copyWaits s 0 = false ∧ recIndex 0 = none ∧ recIndex rec0 = some 0 ∧
     findModule (ported [] none []) 0 0 = none ∧ findModule s 0 0 = some module0 ∧ unloadHolds s 0 0 1 = false ∧
     recordDetail s 0 module0 false 0 1 = some 24 ∧ recordDetail s 0 module0 false 0 rec0 = none ∧
     kernelOf module0 rec0 = some ⟨0, 0, 0⟩ ∧ (getFunc s 0).reccount = 0 ∧ ringRoom (getPort s 0) = true ∧
     (entryPlaces s 0).length = 16 ∧ (entryPlaces s 0).Nodup) ∧
    (let s := { ported [⟨1, false, rec0⟩] (some 77) [launch0] with deferred := [⟨0, .fresh 77, 0, false⟩], clock := 150000 }
     findLaunch s 77 = some launch0 ∧ launch0.dispatched = 0 ∧ s.deferred = [⟨0, .fresh 77, 0, false⟩] ∧
     150000 ≤ liveClock s - 0) := by
  refine ⟨?_, ?_⟩ <;> decide +kernel

/-- The image of a code object of one kernel and an empty .text, at host address 0x1000 (R229, R231), and its registry entry. -/
def image : List (Nat × Byte) :=
  cellsAt 0x1000 (leBytes 4 0x4C545242) ++ cellsAt 0x1004 (leBytes 2 1) ++ cellsAt 0x1008 (leBytes 4 0x100) ++
    cellsAt 0x100C (leBytes 2 1) ++ cellsAt (0x1000 + 112) (leBytes 8 0x20000000C0)

/-- A state in which the registry names the image and port 0's head record waits for it. -/
def loading : State :=
  modTenant { ported [⟨1, false, rec0⟩] none [] with hostMem := writeCells [] image } 0 fun t =>
    { t with registry := msetAll 0 (msetAll 0 [] 0 (leBytes 8 0x1000)) 12 [1] }

/-- HeadRecords: an image of a function without a signature key, whose empty sections fit wherever the loader places them. -/
theorem witness_load_signed : signatureOk loading 0 0x1000 = true ∧ unloadHolds loading 0 0 1 = false ∧
    choicesFit loading 0 0x1000 loading.uidNext = true ∧
    relocateAll loading 0x1000 loading.uidNext (List.range ((section_ loading 0x1000 6).2 / 16)) [[], [], [], []] =
      some [[], [], [], []] := by
  have h : ∀ i ∈ List.range 4, (section_ loading 0x1000 i).2 = 0 := by decide +kernel
  have m : loadedMaps loading 0 = [] := by decide +kernel
  have c : loading.cores = [] ∧ loading.dies = [] := by decide +kernel
  refine ⟨by decide +kernel, by decide +kernel, ?_, by decide +kernel⟩
  simp [choicesFit, unmappedRange, c, sectionSpan, m, pagesOf, List.range_succ, overlaps, h 0, h 1, h 2, h 3, (sectionBase _ _).isLt.le]

/-- HeadRecords: a load whose registry entry is not valid, and one whose image passes its checks. -/
theorem witness_load : imageAddr (ported [⟨1, false, rec0⟩] none []) 0 0 = none ∧ imageAddr loading 0 0 = some 0x1000 ∧
    imageHeaderOk loading 0x1000 = true ∧ boundEntries loading 0x1000 (sectionBase loading.uidNext 0) = some [] ∧
    (section_ loading 0x1000 6).2 = 0 ∧ (getTenant loading 0).unload = [] := by
  refine ⟨by decide, by decide, by decide, ?_, by decide, by decide⟩
  have h : emuEntries loading 0x1000 (sectionBase loading.uidNext 0) = [] := by
    have : imageNat loading 0x1000 14 2 = 0 := by decide
    simp [emuEntries, this]
  have m : missingFeatures loading 0x1000 = [] := by decide +kernel
  simp [boundEntries, h, m]

/-- LatchingAndAdmission: port 0 is served, its launch's first span goes to core 0 of die 0; a latched block without a stack. -/
theorem witness_latching :
    (let s := dispatchCycle { ported [⟨1, false, rec0⟩] (some 77) [launch0] with blk := Block.none, g := Group.none }
     frontOf s 0 = .fresh 77 ∧ findLaunch s 77 = some launch0 ∧ frontDemand s 0 = some (recDemand rec0 0 false) ∧
     choosePlace s 0 (recDemand rec0 0 false) = .at [(0, 0)] ∧ hasTurn s 0 = true) ∧
    (let s := { base with blks := [{ Block.none with uid := 9, phase := .latched, groups := 2, regs := 8 }] }
     (findBlk s 9).phase = .latched ∧ stackWaits s 9 = false ∧ (findBlk s 9).stack = 0 ∧ ∀ g ∈ s.g :: s.groups, g.uid ≠ 9) := by
  refine ⟨?_, ?_⟩ <;> decide +kernel

/-- Completion: a block whose only group has exited; a launch without blocks left. -/
theorem witness_completion :
    (let s := modG base fun g => { g with run := .exited }
     (findBlk s 1).phase = .resident ∧ (∀ g ∈ groupsOf s 1, g.run = .exited) ∧ blockQuiet s (findBlk s 1) = true) ∧
    (let l := { launch0 with next := 2, dispatched := 2 }
     let s := { ported [⟨1, false, rec0⟩] (some 77) [l] with blk := Block.none, g := Group.none }
     findLaunch s 77 = some l ∧ (∀ b ∈ allBlocks s, b.launch ≠ 77) ∧ l.state = .active ∧
     gridSize (recGrid l.record) ≤ l.next ∧ ringRoom (getPort s 0) = true ∧ recField l.record 30 1 / 4 % 2 = 0 ∧
     (entryPlaces s 0).length = 16 ∧ (entryPlaces s 0).Nodup) := by
  refine ⟨?_, ?_⟩ <;> decide +kernel

/-- A record of four blocks in spans of four. -/
def rec4 : BitVec 512 :=
  BitVec.ofNat 512 (1 + 3 * 2 ^ 96 + 1 * 2 ^ 192 + 32 * 2 ^ 200 + 64 * 2 ^ 232 + 9 * 2 ^ 480)

/-- A state in which the first core of every cluster holds a block of class 3 that takes all its registers, and a launch of
spans of four blocks of class 0 waits. -/
def crowded : State :=
  { ported [⟨1, false, rec4⟩] (some 77) [{ launch0 with record := rec4 }] with
    g := Group.none
    blk := Block.none
    blks := (List.range 64).map fun k =>
      { Block.none with uid := 100 + k, span := 100 + k, core := 4 * k, groups := 4, regs := 1024, cls := 3, phase := .resident } }

/-- What it asks for. -/
def span4 : Demand := ⟨1, 256, 0, 0, 0, 4, 0, 1, 0, false, []⟩

/-- PreemptionSaveRestore: what the record asks for. -/
theorem witness_preemption_demand : recDemand rec4 0 false = span4 ∧
    frontDemand crowded 0 = some span4 := by
  refine ⟨?_, ?_⟩ <;> decide +kernel

/-- PreemptionSaveRestore: no cluster has room. -/
theorem witness_preemption_no_room : choosePlace crowded 0 span4 = .noRoom := by decide +kernel

/-- PreemptionSaveRestore: the least victims. -/
theorem witness_preemption_victims : leastVictims ((candidates 4).filterMap (victimsAt crowded span4)) = some [100] := by
  decide +kernel

/-- PreemptionSaveRestore: a stopped block; a saved one with room on core 0. -/
theorem witness_preemption :
    (let s := modBlk base fun b => { b with phase := .stopping }
     (findBlk s 1).phase = .stopping ∧ (∀ x ∈ spanBlocks s (findBlk s 1), x.joined = []) ∧ (findBlk s 1).cmds = [] ∧
     (∀ g ∈ groupsOf s 1, g.trapReq = none) ∧ (getPart s (partKey 0 0)).furrow = none ∧
     ((groupsOf s 1).map (·.slot)).Nodup ∧ ∀ g ∈ groupsOf s 1, g.slot < 32) ∧
    (let s := dispatchCycle { modBlk base fun b => { b with phase := .saved } with
       parts := [], areaTags := [(areaPartKey 1 0 0, areaTag base 0), (areaPartKey 1 32 0, areaTag base 0)] }
     mget 0 s.areaTags (areaPartKey 1 32 0) = areaTag s (findBlk s 1).vf ∧
     (∀ g ∈ groupsOf s 1, mget 0 s.areaTags (areaPartKey 1 g.slot 0) = areaTag s (findBlk s 1).vf ∧ g.ctx.stack = []) ∧
     (blockFrom (mget [] s.areas (areaKey 1 32)) [] (findBlk s 1)).cmds = [] ∧ frontOf s 0 = .restore [1] ∧ (frontDemand s 0).isSome = true ∧
         (findBlk s 1).phase = .saved ∧
     (frontDemand s 0).map (choosePlace s 0) = some (.at [(0, 0)]) ∧ hasTurn s 0 = true) := by
  refine ⟨?_, ?_⟩ <;> decide +kernel

/-- PreemptionSaveRestore: a group and a block that fit their context areas. -/
theorem witness_areas : GroupFits (deep 256 0).blk (deep 256 0).g ∧ BlockFits banked.blk [] := by
  constructor
  · refine ⟨by decide, by decide +kernel, by decide, ?_, ?_, ?_, ?_, ?_, ?_, by decide⟩
    all_goals unfold KeysBelow
    all_goals decide
  · constructor
    all_goals unfold KeysBelow
    all_goals decide

/-- A request that waits for a miss slot. -/
def waiter : MissReq := ⟨0x4001, false, [32], 0, true, 0x20000F⟩

/-- CacheEvents: a sector missed and fetched, a request that waits for a slot and one for a register alone, a switch under way, a
page that a walk finds. -/
theorem witness_caches :
    (let s := modDie (modCore base 0 fun c => { c with missSlots := [(0x4000, 0)], missQ := [waiter] }) 0
       fun d => { d with walking := [⟨1, 1, [0]⟩] }
     translate s 0 0 0x10000 = .ok 0x200000 0x20000F ∧ accIdx s 0 0x20000F 0x200000 / 128 = 0x4000 ∧
     ((getCore s 0).missSlots.any fun x => x.1 == 0x4000) = true ∧ chanServed s.chan 0 0x4000 = some [] ∧
     entryMT 0x20000F = 0 ∧ isLocal 0x200000 = true ∧ entryC 0x20000F = false ∧
     poisonedAt s (128 * 0x4000) 128 = false ∧ protDetail s 0 false false true false 0x200000 0x20000F = none ∧
     queueHead (getCore s 0) (pseudoChannel 0x4001) = some waiter ∧ waiter.slot = true ∧
     slotRoom (getCore s 0) (getDie s 0) waiter = true ∧ olderWaits s 0 waiter = false ∧
     (let x := { waiter with slot := false }
      let u := modCore s 0 fun c => { c with missQ := [x] }
      queueHead (getCore u 0) (pseudoChannel 0x4001) = some x ∧ slotRoom (getCore u 0) (getDie u 0) x = true ∧
      olderWaits u 0 x = false) ∧
     (modBlk s fun b => { b with switches := [(0, 1)] }).blk.switches = [(0, 1)] ∧
     (((getDie s 0).walking.take 64).find? fun y => y.asid == (getFunc s 0).asid.toNat && y.page == 0x10000 / 2 ^ 16) =
       some ⟨1, 1, [0]⟩ ∧ placeOf s.place 0x200000 = entryPlace 0x20000F ∧
     walkFrom s 0 1 0x10000 5 0x100000 = .ok 0x200000 0x20000F) := by
  decide +kernel

/-- A state in which die 1 holds a sector. -/
def holding (x : SecState) (msgs : List Msg) : State :=
  modDie { base with msgs := msgs } 1 fun d => { d with l2 := if x = .I then [] else [⟨0x4000, 0x4000, x, 0⟩] }

/-- CoherenceRequests, CoherenceAnswers: die 1 without a copy, with a shared, an owned and a dirty one; each message for it. -/
theorem witness_coherence : asking (holding .I []) 1 0x4000 = false ∧ heldState (holding .I []) 1 0x4000 = .I ∧
    inBuffer (holding .I []) 1 0x4000 = false ∧ directMapped (holding .I []) 0x4000 = false ∧
    directMapped (modCore base 0 fun c => { c with tlb := [⟨1, 0x10000, 2 ^ 16, 0x20020F⟩] }) 0x4000 = true ∧
    (let s := modCore (holding .I []) 64 fun c => { c with tlb := [⟨1, 0x10000, 2 ^ 16, 0x20000F⟩] }
     mappedAs s (dieTlbs s 1) (fun t => decide (t < 2)) 0x4000 = true ∧ directMapped s 0x4000 = false) ∧
    mappedAs (holding .I []) (dieTlbs (holding .I []) 1) (fun t => decide (t < 2)) 0x4000 = false ∧
        heldState (holding .S []) 1 0x4000 = .S ∧
    heldState (holding .M []) 1 0x4000 = .M ∧ (1 : Nat) ≠ homeDie 0x4000 ∧
    (∀ x ∈ lineSectors 0x4000, heldState (holding .S []) 1 x ≠ .M ∧ heldState (holding .S []) 1 x ≠ .O ∧
      inBuffer (holding .S []) 1 x = false ∧ asking (holding .S []) 1 x = false) ∧
    (∀ k ∈ [MsgKind.sfw, .sfx, .sin, .dat, .cmp],
      (findMsg (holding .M [⟨k, 0x4000, 0, 1, 2, .M, none, 0⟩]) k 0x4000 1 false).isSome = true) ∧
    (findMsg (holding .M [⟨.ack, 0x4000, 1, 0, 2, .M, none, 0⟩]) .ack 0x4000 1 true).isSome = true ∧
    snoopState (holding .M []) 1 0x4000 = .M ∧ snoopState (holding .E []) 1 0x4000 = .E := by
  decide +kernel

/-- A request of die 1 about the sector 0x4000 of home 0. -/
def request (kind : MsgKind) : Msg := ⟨kind, 0x4000, 1, 0, 1, .I, none, 0⟩

/-- A state in which it has arrived at the home, whose entry of the line has a MASK and the sector's state and owner. -/
def atHome (kind : MsgKind) (mask : BitVec 4) (x : SecState × Nat) : State :=
  onCoh (holding .S [request kind]) fun c => c.modDie 0 fun d =>
    { d with dir := [⟨0x800, mask, x :: List.replicate 7 (.I, 0), false⟩] }

/-- CoherenceRequests: what its home needs to take up a request. -/
def takesUp (kind : MsgKind) (mask : BitVec 4) (x : SecState × Nat) : Bool :=
  let s := atHome kind mask x
  waitingReq s kind 1 0x4000 == some (request kind) && !(cohOf s).inService 0x4000 && !(cohOf s).before (request kind) &&
    (match (cohOf s).entryFor 1 0x4000 with
      | .ready c => c.dirState 0x4000 == x
      | _ => false) &&
    ((cohOf s).line 0 0x800).all fun e => !e.evict

/-- CoherenceRequests: each kind of request at its home, in each state of the sector that its clauses tell apart. -/
theorem witness_home :
    ([(.rds, 0, (.I, 0)), (.rds, 2, (.E, 1)), (.rds, 4, (.S, 0)), (.rds, 4, (.M, 2)), (.rdx, 0, (.I, 0)), (.rdx, 4, (.S, 0)),
      (.rdx, 6, (.O, 1)), (.rdx, 4, (.M, 2)), (.upg, 2, (.S, 0)), (.upg, 6, (.S, 0)), (.upg, 0, (.S, 0)), (.wbk, 2, (.M, 1)),
      (.wbk, 6, (.O, 1)), (.wbk, 4, (.M, 2)), (.evc, 2, (.E, 1)), (.evc, 6, (.S, 0))] :
      List (MsgKind × BitVec 4 × (SecState × Nat))).all (fun y => takesUp y.1 y.2.1 y.2.2) = true ∧
    (cohOf (atHome .upg 2 (.S, 0))).stillHolds 1 0x4000 = true ∧ (cohOf (atHome .upg 0 (.S, 0))).stillHolds 1 0x4000 = false ∧
    ((cohOf (atHome .upg 2 (.S, 0))).holders 0x4000).filter (fun d => d != 1) = [] ∧
    ((cohOf (atHome .rdx 6 (.O, 1))).holders 0x4000).filter (fun d => d != 1) = [2] ∧
    (cohOf (atHome .evc 2 (.E, 1))).lineInService 0x800 = false ∧
    (((getDie (atHome .evc 2 (.E, 1)) 0).dir).map (·.line)).Nodup := by
  decide +kernel

/-- A state in which die 2 has answered a snoop for a request of die 1 that its home serves. -/
def answered (r : Msg) (held : SecState) (l : List Msg) : State :=
  { atHome .rds 6 (.O, 2) with msgs := ⟨.ack, 0x4000, 2, 0, 1, held, none, 0⟩ :: r :: l }

/-- CoherenceAnswers: an ACK without its request, and each kind of request, awaiting this answer alone and another. -/
theorem witness_acks :
    ([({ request .rds with st := .O }, .E), ({ request .rds with st := .O }, .I), ({ request .rds with st := .O }, .M),
      ({ request .rdx with st := .O }, .I), ({ request .upg with st := .E }, .S)] : List (Msg × SecState)).all (fun y =>
        let s := answered y.1 y.2 []
        (findMsg s .ack 0x4000 2 true).isSome &&
          (s.msgs.tail.find? fun m => m.sector == 0x4000 && m.src == 1 && m.st != .I &&
            (m.kind == .rds || m.kind == .rdx || m.kind == .upg)) == some y.1 &&
          (cohOf s).dirState 0x4000 == (.O, 2)) = true ∧
    (findMsg (answered { request .rdx with st := .S } .S [⟨.sin, 0x4000, 0, 3, 1, .I, none, 0⟩]) .ack 0x4000 2 true).isSome = true := by
  decide +kernel

/-- The protocol's part of a state in which die 1 holds a sector of home 0 in M and its home knows it. -/
def recalled : Coh :=
  (cohOf (holding .M [])).modDie 0 fun d =>
    { d with dir := [⟨0x800, 2, (.M, 1) :: List.replicate 7 (.I, 0), false⟩] }

/-- CoherenceAnswers: a sector whose holders the home knows; its recall from a die that holds it dirty. -/
theorem witness_recall : recalled.msgs = [] ∧ recalled.held 1 0x4000 = .M ∧ hasNat (recalled.holders 0x4000) 1 = true ∧
    (∀ d, recalled.held d 0x4000 = .I ∨ recalled.buffered d 0x4000 = .I) ∧
    (∀ d < 4, recalled.snoopState d 0x4000 ≠ .I → hasNat (recalled.holders 0x4000) d = true) ∧
    (recalled.recall 0x4000).held 1 0x4000 = .I := by
  refine ⟨by decide +kernel, by decide +kernel, by decide +kernel, fun d => .inr ?_, by decide +kernel, by decide +kernel⟩
  have h : (recalled.die d).wb = [] := by
    rcases d with _ | _ | d
    · decide +kernel
    · decide +kernel
    · rfl
  simp [Coh.buffered, h]

/-- HostMemoryControl: an entry that may be enabled and one whose key is taken; a command that may start, one that runs; a
write, a read and a refused access through the window. -/
theorem witness_host_memory :
    (let s := { base with funcs := mput base.funcs 1 { Func.reset with fbbase := 0x10000 } }
     (getFunc s 1).en = false ∧ (0x2000201 : BitVec 64).getLsbD 0 = true ∧ (0x2000201 : BitVec 64).extractLsb' 24 8 ≠ 0 ∧
     fbbaseOk (getFunc s 1).fbbase = true ∧ funcTaken s 1 2 2 = false ∧ funcTaken s 1 1 2 = true) ∧
    base.invalRun = none ∧ anyKey base = false ∧ anyKey { base with keys := [(2, true)] } = true ∧
    (runInval base ⟨0, 1, 1, 0, true⟩).invalRun = some ⟨0, 1, 1, 0, true⟩ ∧
    windowPlaces base 0 0x1FFF8 8 true = some ((placesFrom 0x20FFF8 8).map fun i => (i, 0x20000F)) ∧
    (placesFrom 0x20FFF8 8).Nodup ∧ base.memPoison = [] ∧ (0x1FFF8 : Nat) + 8 ≤ 2 ^ 34 ∧
    windowPlaces base 0 0x20000 1 false = none := by
  decide +kernel

/-- DeviceControl, GovernorAndFreeze: budgets at the ends of their range, a session that has read what a key needs, a port that is
assigned, every state of the governor and its figures. -/
theorem witness_control : (100 : Nat) ≤ 1000 ∧ (712 : Nat) ≤ (getDie base 0).newBud ∧
    (let s := { base with session := true, sessionRead := [(2, true), (3, true), (4, true)], flushed := [(255, true)] }
     (∀ k ∈ [2, 3, 4], mget false s.sessionRead k = true) ∧ mget false s.flushed 255 = true) ∧ base.session = false ∧
    portOpen (ported [] none []) 0 = true ∧ portOpen base 0 = false ∧ base.portsDown.getLsbD 23 = false ∧
    allCool base = true ∧ base.cooled + 1500000 ≤ ({ base with clock := 1500000, frozen := true } : State).clock ∧
    allCool { base with temps := [(15, 106)] } = false ∧
    (∀ g ∈ [GovState.tight, .throttle, .clockdown],
      powerAbove (modDie base 0 fun d => { d with gov := g, govOver := 3, govUnder := 3, power := 712001 }) 0 712001 100 = true ∧
      powerAbove (modDie base 0 fun d => { d with gov := g, govOver := 3, govUnder := 3, power := 0 }) 0 0 100 = false ∧
      powerLow (modDie base 0 fun d => { d with gov := g, govOver := 3, govUnder := 3, power := 0 }) 0 0 = true) := by
  decide +kernel

/-- AnswersAndErrors: a group that stands on a fault, nothing waiting, a log with room, a module whose unload nothing holds. -/
theorem witness_answers :
    (let s := modG { base with faults := [⟨4, 0, .group 1 0, 0x20000, none, 0⟩] } fun g => { g with run := .faulted 4 }
     findFault s 0 4 = some ⟨4, 0, .group 1 0, 0x20000, none, 0⟩ ∧ s.g.isAt 1 0 = true ∧ s.g.run = .faulted 4) ∧
    findFault base 0 4 = none ∧ (getTenant base 0).waiting = [] ∧ (getDie base 0).mclog.length < 32 ∧
    mget 0 base.flits 1 < 8 ∧ 8 ≤ mget 0 ({ base with flits := [(1, 8)] } : State).flits (4 * 0 + 1) ∧
    (let s := modTenant base 0 fun t => { t with unload := [(3, 1)] }
     (getTenant s 0).unload = [(3, 1)] ∧ moduleNeeded s 0 3 1 = false) := by
  decide +kernel

/-- A plan of three stages: `fsrc q0, 0`, `vadd q1, q0, 1`, `fsnk q1, 1`, of streams of two words (R74 to R79). -/
def planImage : List Byte :=
  leBytes 4 0x50575246 ++ leBytes 4 1 ++ leBytes 4 160 ++ [3, 1, 2, 2] ++ List.replicate 16 0 ++
    leBytes 8 0x1E83 ++ [0xFC, 0x7F, 0, 0xFF, 0, 0, 0, 0] ++ leBytes 8 0x40000200021C03 ++ [0xF0, 0x7F, 0, 0xFF, 0, 0, 0, 0] ++
    leBytes 8 0x100000002001E87 ++ [0xF3, 0x7F, 0, 0xFF, 0, 0, 0, 0] ++ [0, 0x21, 0, 0, 2, 0, 0, 0] ++ [1, 0x22, 0, 0, 2, 0, 0, 0] ++
    [2, 3, 2, 1, 2, 0, 0, 0, 2, 0, 0, 0, 0, 0, 0, 0, 4] ++ List.replicate 11 0 ++ [8, 0, 0, 0] ++
    [3, 3, 2, 1, 2, 0, 0, 0, 2, 0, 0, 0, 0, 0, 0, 0, 4] ++ List.replicate 11 0 ++ [8, 0, 0, 0]

/-- The plan as it is read. -/
def plan0 : Plan := parsePlan planImage

/-- A state with the plan in memory, its address in a4 and the streams' in a2 and a3. -/
def planned : State :=
  modCtx (modBlk { base with mem := writeCells base.mem (cellsAt 0x200100 planImage) } fun b => { b with fpool := 128 })
    fun c => ((c.writeA 4 0x10100).writeA 2 0x10200).writeA 3 0x10300

/-- A furrow that runs it. -/
def furrow0 : Furrow :=
  ⟨1, 0, 0x10100, plan0, 0, [], [(2, 0x10200), (3, 0x10300)], [], [(0, 2), (32, 2)], [], [], 0, [], [], false, false, 0⟩

/-- The owner's state while a furrow stands in its partition. -/
def owning (f : Furrow) : State :=
  modPart (modG planned fun g => { g with fown := true }) 0 fun p => { p with furrow := some f }

/-- FurrowInstructions: a plan that passes its checks, without a furrow and with one; the owner of a furrow whose sink is drained
and of one whose sink is not. -/
theorem witness_furrow : Quiet planned ∧ (planned.ctx.readA 4).toNat % 16 = 0 ∧ validPlan planned 0x10100 planned.ctx = .ok plan0 ∧
    furrowHeld planned planned.blk.core planned.g.part = false ∧ furrowHeld (owning furrow0) 0 0 = true ∧ QuietOwner (owning furrow0) ∧
    (getPart (owning furrow0) (myPart (owning furrow0))).furrow = some furrow0 ∧ furrow0.uid = (owning furrow0).g.uid ∧
    furrow0.slot = (owning furrow0).g.slot ∧ furrow0.suspended = false ∧ sinksDrained furrow0 = false ∧
    sinksDrained { furrow0 with drained := [(64, true)] } = true := by
  refine ⟨by constructor <;> decide, by decide, by decide +kernel, by decide,
    by decide +kernel, ⟨by decide, by constructor <;> decide⟩, by decide +kernel, by decide +kernel, by decide +kernel,
    by decide +kernel, by decide +kernel, by decide +kernel⟩

/-- A furrow with one stage of an INSN and KIND, its inputs q1 and q2 holding a token each. -/
def oneStage (insn : BitVec 64) (kind : BitVec 8) : Furrow :=
  { furrow0 with
    plan := { plan0 with ns := 1, nq := 5, stages := [⟨insn, kind, 0x7F, 0, 0xFF, 0⟩], queues := List.replicate 5 ⟨0, 0, 2, 0, 0, 0⟩ }
    queues := [(32, [⟨1, false, false, 0⟩]), (64, [⟨7, false, false, 0⟩]), (96, [⟨0, false, false, 0⟩])]
    depth := [(0, 2), (32, 2), (64, 2), (96, 2), (128, 2)] }

/-- StageFirings: `steer q3, q4, q2, q1` as the spec writes it, `merge q0, q2, q1, q1`, `vadd q0, q1, q2`, `fsnk q1, 1`. -/
theorem witness_stages :
    (let f := oneStage 0x0000080204061E8B 0
     mayFire f 0 0 = true ∧ stageGate (planStage f.plan 0) = [] ∧ sidesReady f 0 0 = true ∧ stageOp8 (planStage f.plan 0) = 0xA2 ∧
     operandOf f 0 0 1 = some (7, false) ∧ operandOf f 0 0 2 = some (1, false) ∧ hasRoom f 0 3 = true ∧ hasRoom f 0 4 = true) ∧
    (let f := oneStage 0x0000020204001E8F 0
     mayFire f 0 0 = true ∧ sidesReady f 0 0 = true ∧ stageOp8 (planStage f.plan 0) = 0xA3 ∧ operandOf f 0 0 3 = some (1, false) ∧
     operandOf f 0 0 1 = some (7, false) ∧ hasRoom f 0 0 = true) ∧
    (let f := oneStage 0x0000000402001C03 0xC0
     mayFire f 0 0 = true ∧ sidesReady f 0 0 = true ∧ isVldStage (planStage f.plan 0) = false ∧ stageOuts (planStage f.plan 0) = [0] ∧
     operandOf f 0 0 1 = some (1, false) ∧ operandOf f 0 0 2 = some (7, false) ∧ operandOf f 0 0 3 = some (0, false) ∧
     (stageCompute f 0 1 7 0).sat = false ∧ writesPredQueue (planStage f.plan 0) = false) ∧
    (let f := { oneStage 0x100000002001E87 0xF3 with capA := [(3, 0x10300)], uid := 1 }
     mayFire f 0 0 = true ∧ stageOp8 (planStage f.plan 0) = 0xA1 ∧ operandOf f 0 0 1 = some (1, false) ∧
     cursorOf f 1 0 < (planStream f.plan 1).cnt.toNat ∧
     furrowAccess planned 0 f (elemAddr f 1 0 0) true = .ok ⟨none, 0x10300, 0x200300, 0x200300, 0x20000F⟩) := by
  refine ⟨?_, ?_, ?_, ?_⟩ <;> decide +kernel

/-- One asked to suspend, with every replica drained. -/
def allDrained : Furrow := { furrow0 with susp := true, drained := [(0, true), (32, true), (64, true)] }

/-- FurrowLife: a source step that nothing blocks; a stage whose input heads with DRAIN; the owner at FRWOFF with its sink
drained; an idle furrow; one asked to suspend. -/
theorem witness_furrow_life :
    (let s := owning furrow0
     let f := furrow0
     f.suspended = false ∧ f.susp = false ∧ (replicas f (sources f.plan)).any (fun x => decide (f.step ≤ countOf f x.1)) = true ∧
     (∀ x ∈ replicas f (sources f.plan), hasRoom f x.2 (stageField (planStage f.plan x.1) 0) = true) ∧
     stepBlocked s 0 f f.step = none ∧
     (match emitStep s 0 f.step (replicas f (sources f.plan)) f with
       | .ok _ => true
       | .error _ => false) = true) ∧
    (let f := { furrow0 with queues := [(0, [⟨0, false, true, 0⟩])] }
     1 < f.plan.ns ∧ isDrained f 1 0 = false ∧ mget 0 f.stalled 32 ≤ 1 ∧ drainInputs f.plan 1 = [0] ∧ headDrain f 0 1 0 = true ∧
     stageOuts (planStage f.plan 1) = [1] ∧ hasRoom f 0 1 = true) ∧
    (let f := { furrow0 with drained := [(64, true)] }
     let s := modG (owning f) fun g => { g with run := .atFrwoff 5 }
     s.g.isAt f.uid f.slot = true ∧ sinksDrained f = true ∧ f.susp = false ∧
     s.ctx.fstat.toNat % 2 ^ 32 = 0 ∧ s.ctx.pend = []) ∧
    (65536 ≤ ({ furrow0 with idle := 65536 } : Furrow).idle ∧ sinksDrained furrow0 = false ∧ furrow0.stalled = []) ∧
    (let f := allDrained
     f.suspended = false ∧ f.susp = true ∧ sinksDrained f = true ∧ stagesDrained f = true ∧ f.stalled = [] ∧ f.step < 2 ^ 32) := by
  refine ⟨?_, ?_, ?_, ?_, ?_⟩ <;> decide +kernel

/-- FurrowLife: a furrow whose context has been stored, whose owner's fault has been answered. -/
theorem witness_reentry :
    (let s := match exec (.streamFaultSuspend 0 0) (owning allDrained) with
       | .next t => t
       | _ => base
     (getPart s 0).furrow.any (fun f => f.suspended && s.g.isAt f.uid f.slot &&
       (storedFurrow s 0 f).planAddr == 0x10100) = true ∧ s.g.fown = true ∧ s.blk.phase = .resident ∧ answeredFault s s.g = true ∧
     validPlan s 0x10100 s.ctx = .ok plan0) := by
  decide +kernel

end Sys2Proof.Tests
end

section
/-! SUPPORT. The frame of the memories: every operation of the model that writes no memory leaves the three of them as
they were. One law per operation, in the order of the model's files. They are proved by `(rfl)`, not `rfl`, so that `simp`
may use them where it discharges the hypothesis of `memories_foldl`. -/

namespace Sys2Proof.Machine

/-- The memories of the device, of its host and of its peers. -/
structure Memories where
  device : List Host.Cell
  host : List Host.Cell
  peer : List Host.Cell

/-- The three memories of a state, which are all that `State.wf` speaks of. -/
def State.memories (s : State) : Memories := ⟨s.mem, s.hostMem, s.peerMem⟩

/-- What a record update leaves of the memories: the three lists that it gives. -/
@[simp] theorem memories_mk
    (g groups blk blks parts cores clusters dies mem memPoison memKey hostMem peerMem place funcs tenants ports
      launches modules nextPort served taken deferred msgs chan unitOps loose early broken torn faults faultSeq mcSeq
      mcCE mcUE inval invalRun invalQ keys keyGen flushed session sessionRead sessionNo sessions repair signKeys
      firmware image recovery peers portsDown bar hot crit temps cooled freezes frozen frozenTime held areas areaTags
      halted link flits env via intr hostData clock uidNext freeCtr agenda) :
    State.memories ⟨g, groups, blk, blks, parts, cores, clusters, dies, mem, memPoison, memKey, hostMem, peerMem,
      place, funcs, tenants, ports, launches, modules, nextPort, served, taken, deferred, msgs, chan, unitOps, loose,
      early, broken, torn, faults, faultSeq, mcSeq, mcCE, mcUE, inval, invalRun, invalQ, keys, keyGen, flushed,
      session, sessionRead, sessionNo, sessions, repair, signKeys, firmware, image, recovery, peers, portsDown, bar,
      hot, crit, temps, cooled, freezes, frozen, frozenTime, held, areas, areaTags, halted, link, flits, env, via,
      intr, hostData, clock, uidNext, freeCtr, agenda⟩ =
      ⟨mem, hostMem, peerMem⟩ := (rfl)

@[simp] theorem memories_eta (s : State) : (⟨s.mem, s.hostMem, s.peerMem⟩ : Memories) = s.memories := (rfl)

@[simp] theorem memories_ite (c : Prop) [Decidable c] (s t : State) :
    (if c then s else t).memories = if c then s.memories else t.memories := apply_ite State.memories c s t

@[simp] theorem memories_foldl {α : Type} (f : State → α → State) (h : ∀ s x, (f s x).memories = s.memories)
    (l : List α) (s : State) : (l.foldl f s).memories = s.memories := by
  induction l generalizing s with
  | nil => rfl
  | cons x t ih => rw [List.foldl_cons, ih, h]

/-! Operations of Machine/Focus.lean. -/

@[simp] theorem modCtx_memories (s : State) (f : Ctx → Ctx) : (modCtx s f).memories = s.memories := (rfl)

@[simp] theorem modG_memories (s : State) (f : Group → Group) : (modG s f).memories = s.memories := (rfl)

@[simp] theorem modBlk_memories (s : State) (f : Block → Block) : (modBlk s f).memories = s.memories := (rfl)

@[simp] theorem modGroups_memories (s : State) (f : Group → Group) : (modGroups s f).memories = s.memories := (rfl)

@[simp] theorem modBlks_memories (s : State) (f : Block → Block) : (modBlks s f).memories = s.memories := (rfl)

@[simp] theorem updGroup_memories (s : State) (uid slot : Nat) (f : Group → Group) :
    (updGroup s uid slot f).memories = s.memories := (rfl)

@[simp] theorem updBlk_memories (s : State) (uid : Nat) (f : Block → Block) :
    (updBlk s uid f).memories = s.memories := (rfl)

@[simp] theorem modPart_memories (s : State) (k : Nat) (f : Part → Part) :
    (modPart s k f).memories = s.memories := (rfl)

@[simp] theorem modCore_memories (s : State) (k : Nat) (f : Core → Core) :
    (modCore s k f).memories = s.memories := (rfl)

@[simp] theorem modDie_memories (s : State) (k : Nat) (f : Die → Die) : (modDie s k f).memories = s.memories := (rfl)

@[simp] theorem modTenant_memories (s : State) (vf : Nat) (f : Tenant → Tenant) :
    (modTenant s vf f).memories = s.memories := (rfl)

@[simp] theorem modPort_memories (s : State) (k : Nat) (f : Port → Port) :
    (modPort s k f).memories = s.memories := (rfl)

@[simp] theorem updLaunch_memories (s : State) (key : Nat) (f : Launch → Launch) :
    (updLaunch s key f).memories = s.memories := (rfl)

@[simp] theorem refocus_memories (s : State) (uid slot : Nat) : (refocus s uid slot).memories = s.memories := by
  unfold refocus
  repeat' split
  all_goals rfl

@[simp] theorem interrupt_memories (s : State) (i : Intr) : (interrupt s i).memories = s.memories := (rfl)

/-! Operations of Machine/Directory.lean. -/

@[simp] theorem onCoh_memories (s : State) (f : Coh → Coh) : (onCoh s f).memories = s.memories := (rfl)

/-! Operations of Machine/Memory.lean. -/

@[simp] theorem fetchSector_memories (die leaf : Nat) (excl : Bool) (s : State) (sector : Nat) :
    (fetchSector die leaf excl s sector).memories = s.memories := (rfl)

@[simp] theorem holdSectors_memories (s : State) (core : Nat) (excl : Bool) (l : List Acc) :
    (holdSectors s core excl l).memories = s.memories := by
  simp [holdSectors]

@[simp] theorem atHome_memories (s : State) (sector : Nat) : (atHome s sector).memories = s.memories := (rfl)

@[simp] theorem fetchSectors_memories (s : State) (core : Nat) (excl : Bool) (l : List Acc) :
    (fetchSectors s core excl l).memories = s.memories := by
  simp [fetchSectors]

@[simp] theorem dropL1_memories (s : State) (core : Nat) : (dropL1 s core).memories = s.memories := (rfl)

@[simp] theorem dropL1At_memories (s : State) (core : Nat) (sectors : List Nat) :
    (dropL1At s core sectors).memories = s.memories := (rfl)

@[simp] theorem dropWays_memories (s : State) (core : Nat) (banks : List Nat) :
    (dropWays s core banks).memories = s.memories := (rfl)

@[simp] theorem recallSectors_memories (s : State) (sectors : List Nat) :
    (recallSectors s sectors).memories = s.memories := (rfl)

@[simp] theorem queueMiss_memories (core leaf : Nat) (owners : List Nat) (s : State) (sector : Nat) :
    (queueMiss core leaf owners s sector).memories = s.memories := (rfl)

@[simp] theorem queueMisses_memories (s : State) (core owner : Nat) (l : List Acc) :
    (queueMisses s core owner l).memories = s.memories := by
  simp [queueMisses]

@[simp] theorem takeSlot_memories (s : State) (core : Nat) (x : MissReq) :
    (takeSlot s core x).memories = s.memories := by
  simp [takeSlot]

@[simp] theorem askSector_memories (s : State) (core owner leaf sector : Nat) :
    (askSector s core owner leaf sector).memories = s.memories := by
  simp [askSector]

@[simp] theorem askWalk_memories (s : State) (core vf : Nat) (va : Addr) :
    (askWalk s core vf va).memories = s.memories := by
  simp [askWalk]

@[simp] theorem askWalks_memories (s : State) (core vf : Nat) (l : List Acc) :
    (askWalks s core vf l).memories = s.memories := by
  simp [askWalks]

@[simp] theorem readFor_memories (s : State) (core vf owner : Nat) (acq : Bool) (l : List Acc) :
    (readFor s core vf owner acq l).memories = s.memories := by
  simp [readFor]

@[simp] theorem askSectors_memories (s : State) (acq : Bool) (l : List Acc) :
    (askSectors s acq l).memories = s.memories := by
  simp [askSectors]

@[simp] theorem swapOnMiss_memories (s : State) (l : List Acc) : (swapOnMiss s l).memories = s.memories := by
  simp [swapOnMiss]

@[simp] theorem queueWrites_memories (s : State) (l : List Acc) : (queueWrites s l).memories = s.memories := by
  simp [queueWrites]

@[simp] theorem looseRead_memories (s : State) (uid n : Nat) (los : List Nat) :
    (looseRead s uid n los).memories = s.memories := (rfl)

@[simp] theorem dropLooseOf_memories (s : State) (uid : Nat) : (dropLooseOf s uid).memories = s.memories := (rfl)

@[simp] theorem putScratch_memories (s : State) (uid : Nat) (cells : List (Nat × Byte)) :
    (putScratch s uid cells).memories = s.memories := (rfl)

@[simp] theorem overLoose_memories (s : State) (uid : Nat) (cells : List (Nat × Byte)) :
    (overLoose s uid cells).memories = s.memories := (rfl)

@[simp] theorem groupOver_memories (s : State) (uid : Nat) (cells : List (Nat × Byte)) :
    (groupOver s uid cells).memories = s.memories := (rfl)

@[simp] theorem storeScratch_memories (s : State) (uid : Nat) (cells : List (Nat × Byte)) :
    (storeScratch s uid cells).memories = s.memories := (rfl)

/-! Operations of Machine/Areas.lean. -/

@[simp] theorem tagParts_memories (s : State) (uid slot vf : Nat) (parts : List Nat) :
    (tagParts s uid slot vf parts).memories = s.memories := (rfl)

@[simp] theorem settleStack_memories (s : State) : (settleStack s).memories = s.memories := (rfl)

/-! Operations of Machine/Sets.lean. -/

@[simp] theorem enterActive_memories (s : State) (k : Nat) (x : Nat × Nat) :
    (enterActive s k x).memories = s.memories := (rfl)

@[simp] theorem fillVacancy_memories (s : State) (k : Nat) : (fillVacancy s k).memories = s.memories := by
  unfold fillVacancy
  repeat' split
  all_goals simp

@[simp] theorem leaveSets_memories (s : State) (k uid slot : Nat) :
    (leaveSets s k uid slot).memories = s.memories := by
  simp [leaveSets]

@[simp] theorem swapOut_memories (s : State) (k uid slot : Nat) :
    (swapOut s k uid slot).memories = s.memories := (rfl)

@[simp] theorem swapFor_memories (s : State) (k uid slot : Nat) : (swapFor s k uid slot).memories = s.memories := by
  unfold swapFor
  dsimp only
  repeat' split
  all_goals simp

@[simp] theorem starvationSwap_memories (s : State) (k uid slot : Nat) :
    (starvationSwap s k uid slot).memories = s.memories := by
  unfold starvationSwap
  split <;> simp

@[simp] theorem fillAll_memories (s : State) (k n : Nat) : (fillAll s k n).memories = s.memories := by
  induction n generalizing s with
  | zero => rfl
  | succ n ih => rw [fillAll, ih, fillVacancy_memories]

@[simp] theorem schedule_memories (s : State) (k : Nat) : (schedule s k).memories = s.memories := by
  have swaps (acc : State) (x : Nat × Nat) :
      (if swapWanted (findGroup acc x.1 x.2) && maySwap acc k x.1 x.2 then swapFor acc k x.1 x.2 else acc).memories =
        acc.memories := by simp
  unfold schedule
  dsimp only
  split
  · rw [starvationSwap_memories, fillAll_memories, memories_foldl _ swaps]
  · rw [fillAll_memories, memories_foldl _ swaps]

/-! Operations of Machine/Power.lean. -/

@[simp] theorem grantReservations_memories (s : State) : (grantReservations s).memories = s.memories := by
  unfold grantReservations
  refine memories_foldl _ (fun s x => ?_) _ _
  repeat' split
  all_goals simp

@[simp] theorem dropDeferral_memories (s : State) (port : Nat) (gone : Front → Bool) :
    (dropDeferral s port gone).memories = s.memories := by
  simp [dropDeferral]

@[simp] theorem ripen_memories (s : State) : (ripen s).memories = s.memories := by
  simp [ripen]

@[simp] theorem dropDisplaced_memories (s : State) (port : Nat) : (dropDisplaced s port).memories = s.memories := by
  simp [dropDisplaced]

@[simp] theorem markDeferred_memories (s0 : State) (port : Nat) : (markDeferred s0 port).memories = s0.memories := by
  simp [markDeferred]

/-! Operations of Machine/Launching.lean. -/

@[simp] theorem mcEvent_memories (s : State) (die type index kind flags : Nat) (addr : Addr) (synd : Nat)
    (vf core part slot : Nat) :
    (mcEvent s die type index kind flags addr synd vf core part slot).memories = s.memories := by
  simp [mcEvent]

@[simp] theorem mcOf_memories (s : State) (b : Block) (g : Group) (type kind : Nat) (pc : Addr) (lane : Nat) :
    (mcOf s b g type kind pc lane).memories = s.memories := by
  simp [mcOf]

@[simp] theorem mcGroup_memories (s : State) (type kind : Nat) (pc : Addr) (lane : Nat) :
    (mcGroup s type kind pc lane).memories = s.memories := by
  simp [mcGroup]

@[simp] theorem logHeld_memories (s : State) (b : Block) (g : Group) (l : List (Addr × Nat)) :
    (logHeld s b g l).memories = s.memories := by
  simp [logHeld]

@[simp] theorem logConsumed_memories (s : State) (die pa vf core : Nat) (g : Option (Nat × Nat)) :
    (logConsumed s die pa vf core g).memories = s.memories := by
  unfold logConsumed
  split <;> simp

@[simp] theorem logWalkPoison_memories (s : State) (owner : FaultOwner) (core vf : Nat) (va : Addr) :
    (logWalkPoison s owner core vf va).memories = s.memories := by
  unfold logWalkPoison
  split <;> simp

@[simp] theorem testWaits_memories (s : State) (port : Nat) : (testWaits s port).memories = s.memories := by
  unfold testWaits
  repeat' split
  all_goals simp

@[simp] theorem retestWaits_memories (s : State) (vf : Nat) : (retestWaits s vf).memories = s.memories := by
  simp [retestWaits]

@[simp] theorem dropCopy_memories (s : State) (port : Nat) : (dropCopy s port).memories = s.memories := (rfl)

@[simp] theorem popHead_memories (s : State) (port : Nat) : (popHead s port).memories = s.memories := by
  simp [popHead]

@[simp] theorem leaveHead_memories (s : State) (l : Launch) : (leaveHead s l).memories = s.memories := by
  simp [leaveHead]

@[simp] theorem dropFront_memories (s : State) (l : Launch) (saved : Bool) :
    (dropFront s l saved).memories = s.memories := by
  simp [dropFront]

@[simp] theorem unpark_memories (s : State) : (unpark s).memories = s.memories := (rfl)

@[simp] theorem logDiscarded_memories (s : State) (us : List Nat) : (logDiscarded s us).memories = s.memories := by
  simp [logDiscarded]

@[simp] theorem discardBlocks_memories (s : State) (us : List Nat) : (discardBlocks s us).memories = s.memories := by
  simp [discardBlocks]

@[simp] theorem killFurrow_memories (s : State) (k : Nat) : (killFurrow s k).memories = s.memories := by
  unfold killFurrow
  split <;> simp

/-! Operations of Machine/Ops.lean. -/

@[simp] theorem logSofterr_memories (s : State) (t : TrapReq) (pc : Addr) :
    (logSofterr s t pc).memories = s.memories := by
  unfold logSofterr
  repeat' split
  all_goals simp

@[simp] theorem coulterUpdate_memories (s : State) (brv : Addr) (e t : Mask) :
    (coulterUpdate s brv e t).memories = s.memories := (rfl)

@[simp] theorem replayAsks_memories (s : State) (rec : WinRec) (m : Mask) :
    (replayAsks s rec m).memories = s.memories := by
  unfold replayAsks
  repeat' split
  all_goals simp

@[simp] theorem undoTo_memories (w : Window) (s : State) : (undoTo w s).memories = s.memories := (rfl)

@[simp] theorem undoWindow_memories (s : State) : (undoWindow s).memories = s.memories := by
  simp [undoWindow]

@[simp] theorem replayStep_memories (s : State) : (replayStep s).memories = s.memories := by
  unfold replayStep
  dsimp only
  repeat' split
  all_goals simp

@[simp] theorem windowCaseA_memories (s : State) (w : Window) : (windowCaseA s w).memories = s.memories := by
  unfold windowCaseA
  dsimp only
  split
  · rw [modG_memories, memories_foldl _ fun acc rec => ?_]
    · rfl
    · split <;> rfl
  · split <;> rfl

@[simp] theorem windowCaseBC_memories (s : State) (w : Window) : (windowCaseBC s w).memories = s.memories := (rfl)

@[simp] theorem windowCaseD_memories (s : State) (w : Window) : (windowCaseD s w).memories = s.memories := (rfl)

@[simp] theorem resolveStep_memories (s : State) : (resolveStep s).memories = s.memories := by
  unfold resolveStep
  split <;> simp

@[simp] theorem resolveWindow_memories (s : State) : (resolveWindow s).memories = s.memories := by
  simp [resolveWindow]

@[simp] theorem awaitResults_memories (s : State) (inf : Info) : (awaitResults s inf).memories = s.memories := by
  simp [awaitResults]

@[simp] theorem retire_memories (i : Instr) (inf : Info) (rc : Ctx) (s0 s : State) :
    (retire i inf rc s0 s).memories = s.memories := by
  simp [retire]

@[simp] theorem issued_memories (s : State) : (issued s).memories = s.memories := (rfl)

@[simp] theorem settle_memories (s : State) (pc : Addr) (bad : Mask) (retired : Bool) :
    (settle s pc bad retired).memories = s.memories := by
  simp [settle]

@[simp] theorem waitFor_memories (s : State) (on : WaitOn) : (waitFor s on).memories = s.memories := (rfl)

@[simp] theorem waitOperands_memories (s : State) (inf : Info) : (waitOperands s inf).memories = s.memories := (rfl)

/-! Operations of Machine/Registers.lean. -/

@[simp] theorem clearQstat_memories (s : State) (port : Nat) : (clearQstat s port).memories = s.memories := (rfl)

@[simp] theorem clearFsts_memories (s : State) (vf : Nat) : (clearFsts s vf).memories = s.memories := (rfl)

@[simp] theorem readEffect_memories (s : State) (bar2 : Bool) (off : Nat) :
    (readEffect s bar2 off).memories = s.memories := by
  simp [readEffect]

@[simp] theorem hostRead_memories (s : State) (bar2 : Bool) (off n : Nat) :
    (hostRead s bar2 off n).memories = s.memories := by
  simp [hostRead]

@[simp] theorem stageBytes_memories (s : State) (port off : Nat) (bs : List Byte) :
    (stageBytes s port off bs).memories = s.memories := by
  simp [stageBytes]

/-! Operations of Machine/Environment.lean. -/

@[simp] theorem strike_memories (s : State) (site : Site) : (strike s site).memories = s.memories := by
  cases site <;> simp [strike]

@[simp] theorem coolFrom_memories (old new : State) : (coolFrom old new).memories = new.memories := by
  simp [coolFrom]

@[simp] theorem freezeAt_memories (s : State) (stack : Nat) : (freezeAt s stack).memories = s.memories := by
  simp [freezeAt]

@[simp] theorem measure_memories (s : State) (stack deg : Nat) : (measure s stack deg).memories = s.memories := by
  simp [measure]

@[simp] theorem staleReading_memories (s : State) (index : Nat) :
    (staleReading s index).memories = s.memories := (rfl)

@[simp] theorem measuredWrite_memories (s t : State) (index : Nat) (changed : Bool) (h : t.memories = s.memories) :
    (measuredWrite s t index changed).memories = s.memories := by
  simp [measuredWrite, h]

@[simp] theorem policyWrite_memories (s t : State) (index : Nat) (changed : Bool) (h : t.memories = s.memories) :
    (policyWrite s t index changed).memories = s.memories := by
  simp [policyWrite, h]

@[simp] theorem parkSession_memories (s : State) : (parkSession s).memories = s.memories := by
  simp [parkSession]

@[simp] theorem useSession_memories (s : State) (n : Nat) : (useSession s n).memories = s.memories := by
  unfold useSession
  split <;> simp

@[simp] theorem reserveWays_memories (s : State) (die n : Nat) : (reserveWays s die n).memories = s.memories := by
  simp [reserveWays]

@[simp] theorem writeAhead_memories (s : State) (uid off : Nat) (bs : List Byte) (byUid bySlot skip : Nat) :
    (writeAhead s uid off bs byUid bySlot skip).memories = s.memories := (rfl)

@[simp] theorem around_memories (s : State) (e : Env) : (around s e).memories = s.memories := by
  cases e <;> simp [around]

/-! Operations of Machine/Fetch.lean. -/

@[simp] theorem codeTouch_memories (s : State) (core sec : Nat) : (codeTouch s core sec).memories = s.memories := by
  simp [codeTouch]

@[simp] theorem queueCode_memories (s : State) (core leaf sec : Nat) :
    (queueCode s core leaf sec).memories = s.memories := by
  simp [queueCode]

@[simp] theorem obtainCode_memories (s : State) (core leaf sec : Nat) :
    (obtainCode s core leaf sec).memories = s.memories := by
  simp [obtainCode]

@[simp] theorem passTime_memories (s : State) : (passTime s).memories = s.memories := (rfl)

@[simp] theorem fetchAsks_memories (s : State) : (fetchAsks s).memories = s.memories := by
  simp [fetchAsks]

@[simp] theorem chosen_memories (s : State) : (chosen s).memories = s.memories := by
  simp [chosen]

@[simp] theorem scheduled_memories (s : State) : (scheduled s).memories = s.memories := by
  simp [scheduled]

/-! Operations of Machine/Scheduling.lean. -/

@[simp] theorem yieldBody_memories (s : State) : (yieldBody s).memories = s.memories := by
  simp [yieldBody]

@[simp] theorem checkBar_memories (s : State) (uid n : Nat) : (checkBar s uid n).memories = s.memories := by
  simp [checkBar]

@[simp] theorem dropSpanLoose_memories (s : State) (l : List Block) :
    (dropSpanLoose s l).memories = s.memories := (rfl)

@[simp] theorem checkSpanBar_memories (s : State) (b : Block) (n : Nat) :
    (checkSpanBar s b n).memories = s.memories := by
  simp [checkSpanBar]

@[simp] theorem checkBarriers_memories (s : State) (uid : Nat) : (checkBarriers s uid).memories = s.memories := by
  simp [checkBarriers]

@[simp] theorem barBody_memories (n : Nat) (s : State) : (barBody n s).memories = s.memories := by
  simp [barBody]

@[simp] theorem barsBody_memories (n : Nat) (s : State) : (barsBody n s).memories = s.memories := by
  simp [barsBody]

/-! Operations of Machine/Cube.lean. -/

@[simp] theorem satMembers_memories (s : State) (l : List (Nat × Nat)) : (satMembers s l).memories = s.memories := by
  induction l generalizing s with
  | nil => rfl
  | cons x t ih => rw [satMembers, ih, updGroup_memories]

@[simp] theorem runJob_memories (s : State) (j : CubeJob) : (runJob s j).memories = s.memories := by
  simp [runJob]

@[simp] theorem runJobs_memories (s : State) (l : List CubeJob) : (runJobs s l).memories = s.memories := by
  induction l generalizing s with
  | nil => rfl
  | cons j t ih => rw [runJobs, ih, runJob_memories]

@[simp] theorem drainCube_memories (s : State) (core : Nat) : (drainCube s core).memories = s.memories := by
  simp [drainCube]

@[simp] theorem acceptJob_memories (s : State) (core : Nat) (j : CubeJob) :
    (acceptJob s core j).memories = s.memories := (rfl)

@[simp] theorem retireJoin_memories (s : State) (b : Block) (j : Join) :
    (retireJoin s b j).memories = s.memories := (rfl)

@[simp] theorem acceptJoin_memories (s : State) (b : Block) : (acceptJoin s b).memories = s.memories := by
  unfold acceptJoin
  split <;> simp

@[simp] theorem trapGroup_memories (s : State) (uid slot : Nat) (t : TrapReq) :
    (trapGroup s uid slot t).memories = s.memories := (rfl)

@[simp] theorem breakLatch_memories (s : State) (b : Block) (span : Bool) (gid detail : Nat) :
    (breakLatch s b span gid detail).memories = s.memories := by
  simp [breakLatch]

@[simp] theorem breakOnExit_memories (s : State) (uid slot : Nat) :
    (breakOnExit s uid slot).memories = s.memories := by
  simp [breakOnExit]

@[simp] theorem breakOnCompletion_memories (s : State) (uid : Nat) :
    (breakOnCompletion s uid).memories = s.memories := by
  simp [breakOnCompletion]

@[simp] theorem completeLatch_memories (s : State) (b : Block) (span : Bool) (gid : Nat) :
    (completeLatch s b span gid).memories = s.memories := by
  simp [completeLatch]

@[simp] theorem arrive_memories (s : State) (f : LcF) : (arrive s f).memories = s.memories := by
  simp [arrive]

/-! Operations of Machine/System.lean. -/

@[simp] theorem exitBody_memories (s : State) : (exitBody s).memories = s.memories := by
  simp [exitBody]

@[simp] theorem acquireAt_memories (s : State) (scope : BitVec 3) : (acquireAt s scope).memories = s.memories := by
  simp [acquireAt]

@[simp] theorem fillL3_memories (s : State) (core leaf sec : Nat) :
    (fillL3 s core leaf sec).memories = s.memories := by
  simp [fillL3]

@[simp] theorem fillL2_memories (s : State) (core leaf sec : Nat) :
    (fillL2 s core leaf sec).memories = s.memories := by
  unfold fillL2
  dsimp only
  split <;> simp

@[simp] theorem fillL1_memories (s : State) (core leaf sec : Nat) :
    (fillL1 s core leaf sec).memories = s.memories := by
  unfold fillL1
  dsimp only
  split <;> simp

@[simp] theorem fillLevel_memories (s : State) (core level leaf sec : Nat) :
    (fillLevel s core level leaf sec).memories = s.memories := by
  simp [fillLevel]

@[simp] theorem prefill_memories (s : State) (level : Nat) (va : Addr) :
    (prefill s level va).memories = s.memories := by
  unfold prefill
  repeat' split
  all_goals simp

@[simp] theorem ipfBody_memories (level : BitVec 3) (n : BitVec 4) (b : BitVec 6) (rc : Ctx) (s : State) :
    (ipfBody level n b rc s).memories = s.memories := by
  simp [ipfBody]

@[simp] theorem countWaiting_memories (t : TrapReq) (s : State) : (countWaiting t s).memories = s.memories := by
  simp [countWaiting]

/-! Operations of Machine/MemoryAccess.lean. -/

theorem loadQuiet_memories (s : State) (f : LmF) (m : Mask) (rd : Nat → Option (List Byte)) (asks : Mask → State)
    (w : Window) (h : ∀ good, (asks good).memories = s.memories) :
    (loadQuiet f m rd asks w).memories = s.memories := by
  simp [loadQuiet, h]

@[simp] theorem lanesRead_memories (f : LmF) (rc : Ctx) (b : Option Block) (m : Mask) (s : State) :
    (lanesRead f rc b m s).memories = s.memories := by
  unfold lanesRead
  split <;> simp

/-! Operations of Machine/Atomics.lean. -/

@[simp] theorem atomAcquire_memories (order : BitVec 2) (scope : BitVec 3) (s : State) :
    (atomAcquire order scope s).memories = s.memories := by
  simp [atomAcquire]

@[simp] theorem atomAsks_memories (s : State) (far : Bool) (l : List Acc) :
    (atomAsks s far l).memories = s.memories := by
  simp [atomAsks]

/-! Operations of Machine/Handles.lean. -/

@[simp] theorem startCmd_memories (f : LxF) (kind : BitVec 3) (insn : Nat) (bytes : List Byte) (addr : Addr)
    (first count : Nat) (s : State) : (startCmd f kind insn bytes addr first count s).memories = s.memories := (rfl)

@[simp] theorem askPieces_memories (s : State) (l : List (Option (BitVec 5) × Addr)) :
    (askPieces s l).memories = s.memories := by
  simp [askPieces]

@[simp] theorem dropCmd_memories (s : State) (uid num : Nat) : (dropCmd s uid num).memories = s.memories := (rfl)

@[simp] theorem seeCmd_memories (s : State) (b : Block) (k : Cmd) : (seeCmd s b k).memories = s.memories := by
  simp [seeCmd]

@[simp] theorem seeOld_memories (s : State) (h : SWord) : (seeOld s h).memories = s.memories := (rfl)

@[simp] theorem observe_memories (s : State) (b : Block) (k : Cmd) : (observe s b k).memories = s.memories := by
  simp [observe]

@[simp] theorem modCmd_memories (s : State) (uid num : Nat) (f : Cmd → Cmd) :
    (modCmd s uid num f).memories = s.memories := (rfl)

@[simp] theorem endFill_memories (s : State) (uid : Nat) (k : Cmd) : (endFill s uid k).memories = s.memories := by
  simp [endFill]

@[simp] theorem endCmd_memories (s : State) (uid : Nat) (k : Cmd) (st : CmdState) :
    (endCmd s uid k st).memories = s.memories := by
  simp [endCmd]

@[simp] theorem canchCmd_memories (s : State) (b : Block) (k : Cmd) : (canchCmd s b k).memories = s.memories := by
  simp [canchCmd]

/-! Operations of Machine/Engines.lean. -/

@[simp] theorem fulfil_memories (s : State) (b : Block) (k : Cmd) (e : Early) :
    (fulfil s b k e).memories = s.memories := (rfl)

@[simp] theorem looseWrite_memories (s : State) (b : Block) (k : Cmd) (uid off : Nat) (bs : List Byte) :
    (looseWrite s b k uid off bs).memories = s.memories := by
  unfold looseWrite
  split <;> simp

@[simp] theorem placeAsks_memories (s : State) (b : Block) (p : Place) : (placeAsks s b p).memories = s.memories := by
  unfold placeAsks
  split <;> simp

@[simp] theorem logEnginePoison_memories (s : State) (b : Block) (k : Cmd) (p : Place) :
    (logEnginePoison s b k p).memories = s.memories := by
  unfold logEnginePoison
  split <;> simp

/-! Operations of Machine/Coherence.lean. -/

@[simp] theorem requestStep_memories (kind : MsgKind) (may : State → Bool) (send : Coh → Coh)
    (data : Coh → Option (List Byte)) (tag : Nat) (die sector : Nat) (s : State) :
    (requestStep kind may send data tag die sector s).memories = s.memories := by
  unfold requestStep
  split <;> simp

@[simp] theorem deliverTo_memories (kind : MsgKind) (sector die : Nat) (from_ : Bool) (s : State) :
    (deliverTo kind sector die from_ s).memories = s.memories := by
  unfold deliverTo
  split <;> simp

/-! Operations of Machine/Caches.lean. -/

@[simp] theorem l1Fill_memories (s : State) (core leaf pa sector : Nat) :
    (l1Fill s core leaf pa sector).memories = s.memories := (rfl)

@[simp] theorem releaseSlot_memories (s : State) (core sector : Nat) :
    (releaseSlot s core sector).memories = s.memories := by
  simp [releaseSlot]

@[simp] theorem dropLooseBank_memories (s : State) (uid bank : Nat) :
    (dropLooseBank s uid bank).memories = s.memories := (rfl)

@[simp] theorem cacheWalk_memories (s : State) (die asid va : Nat) (cores : List Nat) (path : List (Nat × Nat × Nat))
    (leaf : Nat) : (cacheWalk s die asid va cores path leaf).memories = s.memories := by
  simp [cacheWalk]

/-! Operations of Machine/FurrowPlan.lean. -/

@[simp] theorem storeFurrow_memories (s : State) (f : Furrow) (part : Nat) (fstat : BitVec 64) :
    (storeFurrow s f part fstat).memories = s.memories := (rfl)

/-! Operations of Machine/Furrow.lean. -/

@[simp] theorem furrowAsks_memories (s : State) (core : Nat) (f : Furrow) (l : List Addr) :
    (furrowAsks s core f l).memories = s.memories := by
  simp [furrowAsks]

@[simp] theorem putFurrow_memories (s : State) (k : Nat) (f : Furrow) :
    (putFurrow s k f).memories = s.memories := (rfl)

@[simp] theorem ownerSat_memories (s : State) (f : Furrow) (on : Bool) : (ownerSat s f on).memories = s.memories := by
  simp [ownerSat]

@[simp] theorem modFstat_memories (s : State) (f : Furrow) (h : Nat → Nat) :
    (modFstat s f h).memories = s.memories := (rfl)

@[simp] theorem endFurrow_memories (s : State) (k : Nat) (f : Furrow) (t : TrapReq) :
    (endFurrow s k f t).memories = s.memories := by
  simp [endFurrow]

@[simp] theorem logStagePoison_memories (s : State) (core part : Nat) (f : Furrow) (i r : Nat) (off : Lane) :
    (logStagePoison s core part f i r off).memories = s.memories := by
  unfold logStagePoison
  dsimp only
  repeat' split
  all_goals simp

@[simp] theorem fireSteer_memories (s : State) (core part : Nat) (f : Furrow) (i r : Nat) :
    (fireSteer s core part f i r).memories = s.memories := by
  unfold fireSteer
  split <;> simp

@[simp] theorem fireMerge_memories (s : State) (core part : Nat) (f : Furrow) (i r : Nat) :
    (fireMerge s core part f i r).memories = s.memories := by
  unfold fireMerge
  dsimp only
  repeat' split
  all_goals simp

@[simp] theorem drainRule_memories (s : State) (k : Nat) (f : Furrow) (i r : Nat) :
    (drainRule s k f i r).memories = s.memories := by
  simp [drainRule]

@[simp] theorem sourceStep_memories (s : State) (core part : Nat) (f : Furrow) :
    (sourceStep s core part f).memories = s.memories := by
  unfold sourceStep
  dsimp only
  repeat' split
  all_goals simp

@[simp] theorem parkOthers_memories (s : State) (core part uid slot : Nat) :
    (parkOthers s core part uid slot).memories = s.memories := (rfl)

@[simp] theorem frwoffDone_memories (s : State) (k : Nat) (f : Furrow) (d : Nat) :
    (frwoffDone s k f d).memories = s.memories := by
  simp [frwoffDone]

/-! Operations of Machine/Ingress.lean. -/

@[simp] theorem enqueueRecord_memories (s : State) (port : Nat) (dev : Bool) (r : BitVec 512) :
    (enqueueRecord s port dev r).memories = s.memories := by
  simp [enqueueRecord]

@[simp] theorem startLaunch_memories (s : State) (port : Nat) (l : Launch) :
    (startLaunch s port l).memories = s.memories := (rfl)

/-! Operations of Machine/Loader.lean. -/

@[simp] theorem dropCode_memories (s : State) (secs : List Nat) : (dropCode s secs).memories = s.memories := (rfl)

@[simp] theorem removeModule_memories (s : State) (m : Module) : (removeModule s m).memories = s.memories := (rfl)

/-! Operations of Machine/SpecialRegs.lean. -/

@[simp] theorem sysWrite_memories (s : State) (i : Nat) (x : SWord) : (sysWrite s i x).memories = s.memories := by
  simp [sysWrite]

/-! Operations of Machine/Context.lean. -/

@[simp] theorem storeAreas_memories (s : State) (uid : Nat) : (storeAreas s uid).memories = s.memories := by
  simp [storeAreas]

@[simp] theorem freeAreas_memories (s : State) (us : List Nat) : (freeAreas s us).memories = s.memories := (rfl)

@[simp] theorem answerCmd_memories (uid : Nat) (s : State) (k : Cmd) : (answerCmd uid s k).memories = s.memories := by
  simp [answerCmd]

@[simp] theorem loadAreas_memories (s : State) (uid : Nat) : (loadAreas s uid).memories = s.memories := by
  simp [loadAreas]

/-! Operations of Machine/Dispatcher.lean. -/

@[simp] theorem dispatchCycle_memories (s : State) : (dispatchCycle s).memories = s.memories := by
  simp [dispatchCycle]

@[simp] theorem markServed_memories (s : State) (cls port : Nat) (cores : List Nat) :
    (markServed s cls port cores).memories = s.memories := (rfl)

@[simp] theorem takeBanks_memories (s : State) (l : List Block) : (takeBanks s l).memories = s.memories := by
  simp [takeBanks]

@[simp] theorem latchSpan_memories (s : State) (port : Nat) (l : Launch) (cores : List (Nat × Nat)) :
    (latchSpan s port l cores).memories = s.memories := by
  simp [latchSpan]

@[simp] theorem enterSets_memories (core : Nat) (s : State) (g : Group) :
    (enterSets core s g).memories = s.memories := by
  simp [enterSets]

@[simp] theorem startSpan_memories (s : State) (b : Block) : (startSpan s b).memories = s.memories := by
  simp [startSpan]

@[simp] theorem admitBlock_memories (s : State) (b : Block) : (admitBlock s b).memories = s.memories := by
  simp [admitBlock]

@[simp] theorem returnBanks_memories (s : State) (b : Block) : (returnBanks s b).memories = s.memories := (rfl)

@[simp] theorem endSpan_memories (s : State) (b : Block) : (endSpan s b).memories = s.memories := by
  simp [endSpan]

@[simp] theorem cancelCmds_memories (s : State) (b : Block) : (cancelCmds s b).memories = s.memories := (rfl)

@[simp] theorem completeBlock_memories (s : State) (b : Block) : (completeBlock s b).memories = s.memories := by
  simp [completeBlock]

@[simp] theorem logStopped_memories (s : State) (us : List Nat) : (logStopped s us).memories = s.memories := by
  simp [logStopped]

@[simp] theorem gleanSwitches_memories (s : State) (b : Block) : (gleanSwitches s b).memories = s.memories := by
  simp [gleanSwitches]

@[simp] theorem stopBlocks_memories (s : State) (us : List Nat) : (stopBlocks s us).memories = s.memories := by
  simp [stopBlocks]

@[simp] theorem saveFurrows_memories (s : State) (b : Block) : (saveFurrows s b).memories = s.memories := (rfl)

@[simp] theorem saveBlock_memories (s : State) (b : Block) : (saveBlock s b).memories = s.memories := by
  simp [saveBlock]

@[simp] theorem restoreBlock_memories (s : State) (uid core : Nat) :
    (restoreBlock s uid core).memories = s.memories := by
  simp [restoreBlock]

@[simp] theorem restoreAll_memories (s : State) (us : List Nat) (cores : List (Nat × Nat)) :
    (restoreAll s us cores).memories = s.memories := by
  induction us generalizing s cores with
  | nil => rfl
  | cons u t ih =>
    cases cores with
    | nil => rfl
    | cons c l => rw [restoreAll, ih, restoreBlock_memories]

/-! Operations of Machine/Answers.lean. -/

@[simp] theorem dropFault_memories (s : State) (vf seq : Nat) : (dropFault s vf seq).memories = s.memories := (rfl)

@[simp] theorem setStall_memories (s : State) (k st rep seq v : Nat) :
    (setStall s k st rep seq v).memories = s.memories := (rfl)

@[simp] theorem resolveFault_memories (s : State) (f : PendingFault) : (resolveFault s f).memories = s.memories := by
  unfold resolveFault
  split <;> simp

@[simp] theorem abandonSaved_memories (s : State) (uid slot : Nat) (t : TrapReq) :
    (abandonSaved s uid slot t).memories = s.memories := (rfl)

@[simp] theorem denyCmd_memories (s : State) (uid : Nat) (va : Addr) (k : Cmd) :
    (denyCmd s uid va k).memories = s.memories := by
  simp [denyCmd]

/-! Operations of Machine/Branch.lean. -/

@[simp] theorem jumpTo_memories (s : State) (t : Addr) : (jumpTo s t).memories = s.memories := (rfl)

@[simp] theorem rejoin_memories (s : State) : (rejoin s).memories = s.memories := (rfl)

/-! Operations of Machine/HostControl.lean. -/

@[simp] theorem modFunc_memories (s : State) (vf : Nat) (f : Func → Func) :
    (modFunc s vf f).memories = s.memories := by
  simp [modFunc]

@[simp] theorem writeCtl_memories (s : State) (vf : Nat) (v : BitVec 64) :
    (writeCtl s vf v).memories = s.memories := by
  simp [writeCtl]

@[simp] theorem writeFbbase_memories (s : State) (vf : Nat) (high : Bool) (v : BitVec 64) :
    (writeFbbase s vf high v).memories = s.memories := by
  simp [writeFbbase]

@[simp] theorem dropTlbs_memories (s : State) (p : TlbEntry → Bool) : (dropTlbs s p).memories = s.memories := (rfl)

@[simp] theorem flushSectors_memories (s : State) (l : List Nat) : (flushSectors s l).memories = s.memories := (rfl)

@[simp] theorem invalidate_memories (s : State) (r : Inval) : (invalidate s r).memories = s.memories := by
  simp [invalidate]

@[simp] theorem runInval_memories (s : State) (r : Inval) : (runInval s r).memories = s.memories := by
  simp [runInval]

@[simp] theorem startInval_memories (s : State) (r : Inval) : (startInval s r).memories = s.memories := by
  simp [startInval]

@[simp] theorem writeWindow_memories (s : State) (port off : Nat) (val : BitVec 64) :
    (writeWindow s port off val).memories = s.memories := by
  simp [writeWindow]

@[simp] theorem assignPort_memories (s : State) (port b : Nat) : (assignPort s port b).memories = s.memories := by
  simp [assignPort]

@[simp] theorem writePeer_memories (s : State) (off : Nat) (val : BitVec 64) :
    (writePeer s off val).memories = s.memories := by
  simp [writePeer]

@[simp] theorem writeCrit_memories (s : State) (first : Nat) (val : BitVec 64) :
    (writeCrit s first val).memories = s.memories := by
  simp [writeCrit]

@[simp] theorem writeTenant_memories (s : State) (vf off : Nat) (val : BitVec 64) :
    (writeTenant s vf off val).memories = s.memories := by
  simp [writeTenant]

/-! Operations of Machine/Freeze.lean. -/

@[simp] theorem heldBack_memories (s : State) (e : Instr) : (heldBack s e).memories = s.memories := by
  unfold heldBack
  repeat' split
  all_goals simp

@[simp] theorem resumeInval_memories (s : State) : (resumeInval s).memories = s.memories := by
  unfold resumeInval
  split <;> simp

end Sys2Proof.Machine
end

section
/-! SUPPORT. The canonical form of the memories, kept by the operations that write them: every write of a memory is
one of `writeCells`. -/

namespace Sys2Proof.Machine

/-- Each of the three memories is in canonical form (`mwf`). -/
def Memories.Canonical (m : Memories) : Prop :=
  mwf memDefault m.device = true ∧ mwf memDefault m.host = true ∧ mwf memDefault m.peer = true

theorem wf_iff (s : State) : s.wf = true ↔ s.memories.Canonical := by
  unfold State.wf State.memories Memories.Canonical
  simp [and_assoc]

@[simp] theorem canonical_ite (c : Prop) [Decidable c] (m n : Memories) :
    (if c then m else n).Canonical ↔ if c then m.Canonical else n.Canonical := by
  split <;> rfl

theorem canonical_foldl {α : Type} {f : State → α → State}
    (hf : ∀ s x, s.memories.Canonical → (f s x).memories.Canonical) (l : List α) {s : State}
    (h : s.memories.Canonical) : (l.foldl f s).memories.Canonical := by
  induction l generalizing s with
  | nil => exact h
  | cons x t ih => exact ih (hf s x h)

theorem getD_canonical {o : Option State} {s : State} (ho : ∀ t, o = some t → t.memories.Canonical)
    (h : s.memories.Canonical) : (o.getD s).memories.Canonical := by
  cases o with
  | none => exact h
  | some t => exact ho t rfl

@[simp] theorem canonical_writeDevice {s : State} (h : s.memories.Canonical) (cells : List (Nat × Byte)) :
    (⟨writeCells s.mem cells, s.hostMem, s.peerMem⟩ : Memories).Canonical := by
  obtain ⟨hd, hh, hp⟩ := h
  exact ⟨mwf_writeCells _ cells hd, hh, hp⟩

@[simp] theorem canonical_writeHost {s : State} (h : s.memories.Canonical) (cells : List (Nat × Byte)) :
    (⟨s.mem, writeCells s.hostMem cells, s.peerMem⟩ : Memories).Canonical := by
  obtain ⟨hd, hh, hp⟩ := h
  exact ⟨hd, mwf_writeCells _ cells hh, hp⟩

@[simp] theorem canonical_writePeer {s : State} (h : s.memories.Canonical) (cells : List (Nat × Byte)) :
    (⟨s.mem, s.hostMem, writeCells s.peerMem cells⟩ : Memories).Canonical := by
  obtain ⟨hd, hh, hp⟩ := h
  exact ⟨hd, hh, mwf_writeCells _ cells hp⟩

@[simp] theorem putCells_canonical {s : State} {cells : List (Nat × Byte)} (h : s.memories.Canonical) :
    (putCells s cells).memories.Canonical := by
  simp [putCells, h]

@[simp] theorem storeCells_canonical {s : State} {core : Nat} {cells : List (Nat × Byte)}
    (h : s.memories.Canonical) : (storeCells s core cells).memories.Canonical := by
  simp [storeCells, h]

@[simp] theorem reseal_canonical {s : State} {sector v : Nat} (h : s.memories.Canonical) :
    (reseal s sector v).memories.Canonical := by
  unfold reseal
  dsimp only
  split <;> simp [h]

@[simp] theorem tagBytes_canonical {s : State} {leaf i : Nat} (h : s.memories.Canonical) :
    (tagBytes s leaf i).memories.Canonical := by
  simp [tagBytes, h]

@[simp] theorem ownAccs_canonical {s : State} {core : Nat} {l : List Acc} (h : s.memories.Canonical) :
    (ownAccs s core l).memories.Canonical := by
  unfold ownAccs
  exact canonical_foldl (fun _ _ hs => tagBytes_canonical hs) l (by simp [h])

@[simp] theorem storeGroup_canonical {s : State} {l : List Acc} {cells : List (Nat × Byte)}
    (h : s.memories.Canonical) : (storeGroup s l cells).memories.Canonical := by
  simp [storeGroup, h]

@[simp] theorem performBytes_canonical {s : State} {l : List (Nat × Nat)} {bs : List Byte}
    (h : s.memories.Canonical) : (performBytes s l bs).memories.Canonical := by
  unfold performBytes
  exact putCells_canonical (canonical_foldl (fun _ _ hs => tagBytes_canonical hs) l (by simp [h]))

theorem deviceWrite_canonical {s t : State} {core vf : Nat} {va : Addr} {bs : List Byte} (h : s.memories.Canonical)
    (hw : deviceWrite s core vf va bs = some t) : t.memories.Canonical := by
  unfold deviceWrite at hw
  dsimp only at hw
  split at hw
  · cases hw
    exact performBytes_canonical h
  · cases hw

@[simp] theorem deviceWrite_getD_canonical {s : State} {core vf : Nat} {va : Addr} {bs : List Byte}
    (h : s.memories.Canonical) : ((deviceWrite s core vf va bs).getD s).memories.Canonical :=
  getD_canonical (fun _ hw => deviceWrite_canonical h hw) h

@[simp] theorem putRecord_canonical {s : State} {core vf : Nat} {bs : List Byte} (h : s.memories.Canonical) :
    (putRecord s core vf bs).memories.Canonical := by
  unfold putRecord
  dsimp only
  split
  · split
    next t hw => simp [deviceWrite_canonical h hw]
    next => simp [h]
  · simp [h]

@[simp] theorem reportFault_canonical {s : State} {owner : FaultOwner} {core vf : Nat} {lane : Option (BitVec 5)}
    {va : Addr} {lvl : Nat} {malf : Bool} {kind b21 b22 b23 : Nat} (h : s.memories.Canonical) :
    (reportFault s owner core vf lane va lvl malf kind b21 b22 b23).memories.Canonical := by
  simp [reportFault, h]

@[simp] theorem writeCompletion_canonical {s : State} {port lid status detail blocks : Nat}
    (h : s.memories.Canonical) : (writeCompletion s port lid status detail blocks).memories.Canonical := by
  unfold writeCompletion
  dsimp only
  split
  · simp [h]
  · rw [modPort_memories]
    exact deviceWrite_getD_canonical h

@[simp] theorem applySignal_canonical {s : State} {vf : Nat} {r : BitVec 512} (h : s.memories.Canonical) :
    (applySignal s vf r).memories.Canonical := by
  unfold applySignal
  dsimp only
  split
  · split
    next t hw => simp [deviceWrite_canonical h hw]
    next => exact h
  · exact h

@[simp] theorem completeLaunch_canonical {s : State} {l : Launch} {status : Nat} (h : s.memories.Canonical) :
    (completeLaunch s l status).memories.Canonical := by
  simp [completeLaunch, h]

@[simp] theorem cancelLaunch_canonical {s : State} {l : Launch} {kill : Bool} (h : s.memories.Canonical) :
    (cancelLaunch s l kill).memories.Canonical := by
  unfold cancelLaunch
  dsimp only
  repeat' split
  all_goals simp [h]

@[simp] theorem endRecord_canonical {s : State} {port : Nat} {r : BitVec 512} {status detail : Nat}
    (h : s.memories.Canonical) : (endRecord s port r status detail).memories.Canonical := by
  simp [endRecord, h]

@[simp] theorem cancelAll_canonical {s : State} {port lid : Nat} {kill : Bool} (h : s.memories.Canonical) :
    (cancelAll s port lid kill).memories.Canonical := by
  unfold cancelAll
  dsimp only
  refine canonical_foldl (fun _ _ hs => endRecord_canonical hs) _ ?_
  refine canonical_foldl (fun _ _ hs => cancelLaunch_canonical hs) _ ?_
  simp [h]

@[simp] theorem abortLaunch_canonical {s : State} {key vf core part slot : Nat} {pc : Addr} {cls detail why : Nat}
    (h : s.memories.Canonical) : (abortLaunch s key vf core part slot pc cls detail why).memories.Canonical := by
  unfold abortLaunch
  dsimp only
  split <;> simp [h]

@[simp] theorem takeTrap_canonical {s : State} {t : TrapReq} {len : Nat} {routine : Option Addr}
    (h : s.memories.Canonical) : (takeTrap s t len routine).memories.Canonical := by
  unfold takeTrap
  dsimp only
  split <;> simp [h]

@[simp] theorem parkMemf_canonical {s : State} {lane : Option (BitVec 5)} {va : Addr} {lvl : Nat} {malf : Bool}
    {kind : Nat} (h : s.memories.Canonical) : (parkMemf s lane va lvl malf kind).memories.Canonical := by
  simp [parkMemf, h]

@[simp] theorem illTrap_canonical {s : State} {n w len : Nat} (h : s.memories.Canonical) :
    (illTrap s n w len).memories.Canonical := by
  unfold illTrap
  split <;> simp [h]

@[simp] theorem illInstr_canonical {s : State} {i : Instr} {inf : Info} {u : State} (h : u.memories.Canonical) :
    (illInstr s i inf u).memories.Canonical := by
  unfold illInstr
  split <;> exact illTrap_canonical h

@[simp] theorem abortFatal_canonical {s : State} {l : Launch} (h : s.memories.Canonical) :
    (abortFatal s l).memories.Canonical := by
  simp [abortFatal, h]

@[simp] theorem fatalEvent_canonical {s : State} {src : Nat} {synd : BitVec 64} (h : s.memories.Canonical) :
    (fatalEvent s src synd).memories.Canonical := by
  unfold fatalEvent
  dsimp only
  rw [interrupt_memories]
  exact canonical_foldl (fun _ _ hs => abortFatal_canonical hs) _ (by simp [h])

@[simp] theorem softError_canonical {s : State} {site : Site} {bad : Bool} {synd : BitVec 64}
    (h : s.memories.Canonical) : (softError s site bad synd).memories.Canonical := by
  simp [softError, h]

@[simp] theorem surround_canonical {s : State} {l : List Env} (h : s.memories.Canonical) :
    (surround s l).memories.Canonical := by
  unfold surround
  exact canonical_foldl (fun _ _ hs => softError_canonical hs) _ (by simp [h])

@[simp] theorem tick_canonical {s : State} (h : s.memories.Canonical) : (tick s).memories.Canonical := by
  simp [tick, h]

@[simp] theorem atomUnit_canonical {s : State} {op : AtomReq} (h : s.memories.Canonical) :
    (atomUnit s op).memories.Canonical := by
  simp [atomUnit, h]

@[simp] theorem drainUnit_canonical {s : State} {sector : Nat} (h : s.memories.Canonical) :
    (drainUnit s sector).memories.Canonical := by
  unfold drainUnit
  exact canonical_foldl (fun _ _ hs => atomUnit_canonical hs) _ (by simp [h])

@[simp] theorem atomReady_canonical {s : State} {core : Nat} {far : Bool} {a : Acc} (h : s.memories.Canonical) :
    (atomReady s core far a).memories.Canonical := by
  simp [atomReady, h]

@[simp] theorem atomMem_canonical {s : State} {core aop n : Nat} {far : Bool} {a : Acc} {b c : Nat}
    (h : s.memories.Canonical) : (atomMem s core aop n far a b c).1.memories.Canonical := by
  have hd : (if far then drainUnit s (a.idx / 128) else s).memories.Canonical := by simp [h]
  exact storeCells_canonical (atomReady_canonical hd)

@[simp] theorem atomLanes_canonical {core aop n : Nat} {far : Bool} {b c : Nat → Nat} {l : List Acc} {s : State}
    (h : s.memories.Canonical) : (atomLanes core aop n far b c l s).1.memories.Canonical := by
  induction l generalizing s with
  | nil => exact h
  | cons a t ih => exact ih (atomMem_canonical h)

@[simp] theorem tearByte_canonical {s : State} {b : Block} {k : Cmd} {i : Nat} {v : Byte}
    (h : s.memories.Canonical) : (tearByte s b k i v).memories.Canonical := by
  unfold tearByte
  split <;> simp [h]

@[simp] theorem placeWrite_canonical {s : State} {b : Block} {k : Cmd} {p : Place} {bs : List Byte}
    (h : s.memories.Canonical) : (placeWrite s b k p bs).1.memories.Canonical := by
  unfold placeWrite
  split
  next a =>
    have ho : (ownAccs (askWalks s b.core b.vf [a]) b.core [a]).memories.Canonical := by simp [h]
    dsimp only
    split
    · exact tearByte_canonical ho
    · exact putCells_canonical ho
  · simp [h]
  · simp [h]
  · simp [h]

@[simp] theorem atomicWrite_canonical {s : State} {b : Block} {p : Place} {bs : List Byte} (h : s.memories.Canonical) :
    (atomicWrite s b p bs).1.memories.Canonical := by
  cases p <;> simp [atomicWrite, h]

@[simp] theorem stopMemf_canonical {s : State} {b : Block} {k : Cmd} {va : Addr} {lvl : Nat} {malf : Bool}
    {kind : Nat} (h : s.memories.Canonical) : (stopMemf s b k va lvl malf kind).memories.Canonical := by
  simp [stopMemf, h]

@[simp] theorem stopCmd_canonical {s : State} {b : Block} {k : Cmd} {e : EngStop} (h : s.memories.Canonical) :
    (stopCmd s b k e).memories.Canonical := by
  cases e <;> simp [stopCmd, h]

@[simp] theorem stallStage_canonical {s : State} {core part : Nat} {f : Furrow} {i r : Nat} {va : Addr} {lvl : Nat}
    {malf : Bool} (h : s.memories.Canonical) : (stallStage s core part f i r va lvl malf).memories.Canonical := by
  simp [stallStage, h]

@[simp] theorem fireLane_canonical {s : State} {core part : Nat} {f : Furrow} {i r : Nat}
    (h : s.memories.Canonical) : (fireLane s core part f i r).memories.Canonical := by
  unfold fireLane
  repeat' split
  all_goals simp [h]

@[simp] theorem streamFault_canonical {s : State} {core part : Nat} {f : Furrow} {va : Addr} {lvl : Nat}
    {malf : Bool} (h : s.memories.Canonical) : (streamFault s core part f va lvl malf).memories.Canonical := by
  simp [streamFault, h]

@[simp] theorem sinkWrite_canonical {s : State} {core part : Nat} {f f1 : Furrow} {n r : Nat} {x : Lane}
    (h : s.memories.Canonical) : (sinkWrite s core part f f1 n r x).memories.Canonical := by
  unfold sinkWrite
  dsimp only
  split <;> simp [h]

@[simp] theorem fireSink_canonical {s : State} {core part : Nat} {f : Furrow} {i r : Nat}
    (h : s.memories.Canonical) : (fireSink s core part f i r).memories.Canonical := by
  unfold fireSink
  split <;> simp [h]

@[simp] theorem fireStage_canonical {s : State} {core part : Nat} {f : Furrow} {i r : Nat}
    (h : s.memories.Canonical) : (fireStage s core part f i r).memories.Canonical := by
  simp [fireStage, h]

theorem onFurrow_canonical {s : State} {act : Nat → Nat → Furrow → State} (h : s.memories.Canonical)
    (ha : ∀ core part f, (act core part f).memories.Canonical) : (onFurrow s act).memories.Canonical := by
  unfold onFurrow
  split
  · exact h
  · exact ha _ _ _

@[simp] theorem fireOp_canonical {p : Nat → Bool} {stage rep : Nat} {s : State} (h : s.memories.Canonical) :
    (fireOp p stage rep s).memories.Canonical :=
  onFurrow_canonical h fun core part f => by simp [h]

@[simp] theorem drainPass_canonical {core part : Nat} {s : State} (h : s.memories.Canonical) :
    (drainPass core part s).memories.Canonical := by
  unfold drainPass
  dsimp only
  split
  · exact h
  · refine canonical_foldl (fun t x ht => ?_) _ (by simp [h])
    repeat' split
    all_goals simp [ht]

@[simp] theorem drainPasses_canonical {core part n : Nat} {s : State} (h : s.memories.Canonical) :
    (drainPasses core part n s).memories.Canonical := by
  induction n generalizing s with
  | zero => exact h
  | succ n ih =>
    unfold drainPasses
    repeat' split
    · exact h
    · exact h
    · exact h
    · exact ih (drainPass_canonical h)

@[simp] theorem suspendDrain_canonical {s : State} {core part : Nat} (h : s.memories.Canonical) :
    (suspendDrain s core part).memories.Canonical := by
  have hd : (drainPasses core part 20000 s).memories.Canonical := drainPasses_canonical h
  unfold suspendDrain
  dsimp only
  repeat' split
  all_goals simp [hd]

@[simp] theorem reenter_canonical {kept s : State} {f : Furrow} (hk : kept.memories.Canonical)
    (h : s.memories.Canonical) : (reenter kept s f).memories.Canonical := by
  unfold reenter
  dsimp only
  split <;> simp [h, hk]

@[simp] theorem lcancelTo_canonical {c : BitVec 3} {kill : Bool} {h : BitVec 6} {x : Nat} {s : State}
    (hs : s.memories.Canonical) : (lcancelTo c kill h x s).memories.Canonical := by
  simp [lcancelTo, hs]

@[simp] theorem abortDevice_canonical {s : State} {l : Launch} {detail : BitVec 8} (h : s.memories.Canonical) :
    (abortDevice s l detail).memories.Canonical := by
  simp [abortDevice, h]

@[simp] theorem copyRecord_canonical {s : State} {port vf : Nat} {m : Module} {k : Kernel} {r : BitVec 512}
    (h : s.memories.Canonical) : (copyRecord s port vf m k r).memories.Canonical := by
  unfold copyRecord
  split
  · simp [h]
  · split
    · exact h
    · dsimp only
      split
      · simp [h]
      · simp [h]
      · rw [startLaunch_memories]
        exact deviceWrite_getD_canonical (by simp [h])

@[simp] theorem checkHead_canonical {s : State} {port vf : Nat} {q : QRec} (h : s.memories.Canonical) :
    (checkHead s port vf q).memories.Canonical := by
  unfold checkHead
  repeat' split
  all_goals simp [h]

@[simp] theorem installModule_canonical {s : State} {vf index a k : Nat} {secs : List (List Byte)}
    {emu : List EmuEntry} (h : s.memories.Canonical) :
    (installModule s vf index a k secs emu).memories.Canonical := by
  unfold installModule
  rw [dropCode_memories]
  exact canonical_foldl (fun _ _ hs => performBytes_canonical hs) _ h

theorem loadModule_canonical {s t : State} {vf index : Nat} (h : s.memories.Canonical)
    (hl : loadModule s vf index = some t) : t.memories.Canonical := by
  unfold loadModule at hl
  split at hl
  · cases hl
  · split at hl
    · split at hl
      · cases hl
      · obtain ⟨l, -, rfl⟩ := Option.map_eq_some_iff.mp hl
        simp [h]
    · cases hl

@[simp] theorem failPort_canonical {vf : Nat} {p : QRec → Bool} {s : State} {port : Nat} (h : s.memories.Canonical) :
    (failPort vf p s port).memories.Canonical := by
  unfold failPort
  split
  · exact canonical_foldl (fun _ _ hs => endRecord_canonical hs) _ (by simp [h])
  · exact h

@[simp] theorem failRecords_canonical {s : State} {vf : Nat} {p : QRec → Bool} (h : s.memories.Canonical) :
    (failRecords s vf p).memories.Canonical := canonical_foldl (fun _ _ hs => failPort_canonical hs) _ h

@[simp] theorem zeroStacks_canonical {s : State} {b : Block} {frame : Nat} (h : s.memories.Canonical) :
    (zeroStacks s b frame).memories.Canonical := canonical_foldl (fun _ _ hs => deviceWrite_getD_canonical hs) _ h

@[simp] theorem abortStack_canonical {s : State} {b : Block} {slot : Nat} {detail : BitVec 8}
    (h : s.memories.Canonical) : (abortStack s b slot detail).memories.Canonical := by
  simp [abortStack, h]

@[simp] theorem admitIn_canonical {s : State} {b : Block} {frame : Nat} (h : s.memories.Canonical) :
    (admitIn s b frame).memories.Canonical := by
  unfold admitIn
  split <;> simp [h]

@[simp] theorem drainFurrows_canonical {s : State} {b : Block} (h : s.memories.Canonical) :
    (drainFurrows s b).memories.Canonical := by
  refine canonical_foldl (fun t p ht => ?_) _ h
  repeat' split
  all_goals simp [ht]

@[simp] theorem settleBlock_canonical {s : State} {b : Block} (h : s.memories.Canonical) :
    (settleBlock s b).memories.Canonical := by
  simp [settleBlock, h]

@[simp] theorem denyCopy_canonical {s : State} {vf port : Nat} (h : s.memories.Canonical) :
    (denyCopy s vf port).memories.Canonical := by
  unfold denyCopy
  repeat' split
  all_goals simp [h]

@[simp] theorem denyFault_canonical {s : State} {f : PendingFault} (h : s.memories.Canonical) :
    (denyFault s f).memories.Canonical := by
  unfold denyFault
  repeat' split
  all_goals simp [h]

@[simp] theorem writeWaiting_canonical {s : State} {vf : Nat} (h : s.memories.Canonical) :
    (writeWaiting s vf).memories.Canonical := by
  unfold writeWaiting
  dsimp only
  rw [modTenant_memories]
  exact canonical_foldl (fun _ _ hs => putRecord_canonical hs) _ (by simp [h])

@[simp] theorem resetDevice_canonical {s : State} (h : s.memories.Canonical) :
    (resetDevice s).memories.Canonical := by
  obtain ⟨-, hh, hp⟩ := h
  exact ⟨mwf_writeCells [] _ rfl, hh, hp⟩

@[simp] theorem writeIdentity_canonical {s : State} {off : Nat} {val : BitVec 64} (h : s.memories.Canonical) :
    (writeIdentity s off val).memories.Canonical := by
  simp [writeIdentity, h]

@[simp] theorem writeControl_canonical {s : State} {off : Nat} {val : BitVec 64} (h : s.memories.Canonical) :
    (writeControl s off val).memories.Canonical := by
  simp [writeControl, h]

@[simp] theorem mstzStore_canonical {f : LzF} {rc : Ctx} {es : List (Nat × Nat)} {accs : List Acc} {s : State}
    (h : s.memories.Canonical) : (mstzStore f rc es accs s).memories.Canonical := by
  simp [mstzStore, h]

end Sys2Proof.Machine
end

section
/-! SUPPORT. What issue makes of a body that keeps the memories in canonical form (R13, R211), whether it ends, traps,
faults or waits. -/

namespace Sys2Proof.Machine

/-- What stands in the way of an instruction answers, if a state at all, one whose memories are in canonical form. -/
@[simp] def Halt.Canonical : Halt → Prop
  | .stay s => s.memories.Canonical
  | .trap _ | .ill | .wait _ | .memf _ _ _ _ _ => True

/-- The state that the body of an instruction answers has its memories in canonical form, whether it ends or halts. -/
@[simp] def BodyCanonical : Except Halt State → Prop
  | .ok s => s.memories.Canonical
  | .error e => e.Canonical

/-- An outcome that goes on has its memories in canonical form. -/
@[simp] def OutcomeCanonical : Host.Outcome State Fault Refusal → Prop
  | .next s => s.memories.Canonical
  | .fault _ | .refused _ => True

/-- The state after an element of an engine has its memories in canonical form. -/
@[simp] def ElemCanonical : Except EngStop (State × Bool) → Prop
  | .ok r => r.1.memories.Canonical
  | .error _ => True

variable {s : State}

theorem trapOr_canonical {next : State → State} (h : s.memories.Canonical)
    (hn : ∀ u : State, u.memories.Canonical → (next u).memories.Canonical) : OutcomeCanonical (trapOr s next) := by
  unfold trapOr
  split
  · simp [h]
  · exact hn _ (by simp [h])

theorem halted_canonical {i : Instr} {inf : Info} {e : Halt} (h : s.memories.Canonical) (he : e.Canonical) :
    OutcomeCanonical (halted s i inf e) := by
  cases e with
  | trap t => exact trapOr_canonical h fun u hu => takeTrap_canonical hu
  | ill => exact trapOr_canonical h fun u hu => illTrap_canonical hu
  | stay t => exact he
  | wait on => simp [halted, h]
  | memf lane va lvl malf kind => exact trapOr_canonical h fun u hu => parkMemf_canonical hu

theorem finish_canonical {i : Instr} {inf : Info} {rc : Ctx} {s0 : State} (h0 : s0.memories.Canonical)
    (h : s.memories.Canonical) : OutcomeCanonical (finish i inf rc s0 s) := by
  unfold finish
  dsimp only
  split
  · simp [h]
  · split <;> simp [h0, h]

/-- R211: issue keeps the canonical form where the body does: before the body it waits, traps or resolves a window, and
after it the instruction retires or halts. -/
theorem issue_canonical {i : Instr} {inf : Info} {body : Ctx → State → Except Halt State} (h : s.memories.Canonical)
    (hb : ∀ rc (t : State), t.memories.Canonical → BodyCanonical (body rc t)) :
    OutcomeCanonical (issue i inf body s) := by
  have traps (t : TrapReq) (len : Nat) : OutcomeCanonical (trapOr s fun u => takeTrap u t len none) :=
    trapOr_canonical h fun u hu => takeTrap_canonical hu
  have ha : (awaitResults s inf).memories.Canonical := by simp [h]
  unfold issue
  split
  · simp [h]
  split
  · simp [h]
  split
  · exact trapOr_canonical h fun u hu => illInstr_canonical hu
  split
  · exact traps _ _
  split
  · exact traps _ _
  split
  · exact traps _ _
  split
  · simp [h]
  split
  · simp [h]
  split
  · exact traps _ _
  have hr := hb (viewOf (awaitResults s inf) inf) _ ha
  dsimp only
  split
  next e he =>
    rw [he] at hr
    exact halted_canonical ha hr
  next t ht =>
    rw [ht] at hr
    exact finish_canonical ha hr

end Sys2Proof.Machine
end

section
/-! SUPPORT. The bodies of the instructions keep the memories in canonical form. The checks before an access never answer
a state; where a plan waits for its registers, it answers one with the memories as they were. -/

namespace Sys2Proof.Machine

theorem checkGlobal_error {s : State} {kind n : Nat} {l : List (Option (BitVec 5) × Addr)} {e : Halt}
    (he : checkGlobal s kind n l = .error e) : e.Canonical := by
  unfold checkGlobal at he
  repeat' split at he
  all_goals cases he
  all_goals trivial

theorem checkPoison_error {s : State} {n : Nat} {l : List Acc} {e : Halt} (he : checkPoison s n l = .error e) :
    e.Canonical := by
  unfold checkPoison at he
  split at he
  all_goals cases he
  trivial

theorem checkScratch_error {b : Block} {n : Nat} {read : Bool} {l : List (Option (BitVec 5) × Nat)} {e : Halt}
    (he : checkScratch b n read l = .error e) : e.Canonical := by
  unfold checkScratch at he
  repeat' split at he
  all_goals cases he
  all_goals trivial

theorem checkTarget_error {b : Option Block} {n : Nat} {read : Bool} {l : List (Option (BitVec 5) × Nat)} {e : Halt}
    (he : checkTarget b n read l = .error e) : e.Canonical := by
  unfold checkTarget at he
  split at he
  · exact checkScratch_error he
  · repeat' split at he
    all_goals cases he
    all_goals trivial

theorem checkFifo_error {b : Block} {bank : Nat} {e : Halt} (he : checkFifo b bank = .error e) : e.Canonical := by
  unfold checkFifo at he
  repeat' split at he
  all_goals cases he
  all_goals trivial

theorem cmdAligned_error {n : Nat} {a : Addr} {e : Halt} (he : cmdAligned n a = .error e) : e.Canonical := by
  unfold cmdAligned at he
  split at he
  all_goals cases he
  trivial

theorem scalarAcc_error {s : State} {kind n : Nat} {ea : Addr} {e : Halt} (he : scalarAcc s kind n ea = .error e) :
    e.Canonical := by
  unfold scalarAcc at he
  split at he
  next e' hg =>
    cases he
    exact checkGlobal_error hg
  · cases he
  · cases he
    trivial

theorem readPieces_error {s : State} {l : List (Option (BitVec 5) × Addr)} {e : Halt}
    (he : readPieces s l = .error e) : e.Canonical := by
  unfold readPieces at he
  split at he
  next e' hg =>
    cases he
    exact checkGlobal_error hg
  · split at he
    next e' hp =>
      cases he
      exact checkPoison_error hp
    · cases he

theorem readCommand_error {s : State} {a : Addr} {e : Halt} (he : readCommand s a = .error e) : e.Canonical := by
  unfold readCommand at he
  split at he
  next e' hp =>
    cases he
    exact readPieces_error hp
  · exact readPieces_error he

theorem readRecord_error {s : State} {a : Addr} {e : Halt} (he : readRecord s a = .error e) : e.Canonical := by
  unfold readRecord at he
  split at he
  next e' hp =>
    cases he
    exact readPieces_error hp
  · cases he

theorem readPlan_error {s : State} {va : Addr} {e : Halt} (he : readPlan s va = .error e) : e.Canonical := by
  unfold readPlan at he
  split at he
  next e' hp =>
    cases he
    exact readPieces_error hp
  · dsimp only at he
    split at he
    · cases he
      trivial
    · split at he
      next e' hp =>
        cases he
        exact readPieces_error hp
      · cases he

theorem validPlan_error {s : State} {va : Addr} {c : Ctx} {e : Halt} (h : s.memories.Canonical)
    (he : validPlan s va c = .error e) : e.Canonical := by
  unfold validPlan at he
  split at he
  next e' hp =>
    cases he
    exact readPlan_error hp
  · dsimp only at he
    repeat' split at he
    all_goals cases he
    all_goals simp [h]

theorem mstzPlaces_error {f : LzF} {rc : Ctx} {s : State} {es : List (Nat × Nat)} {e : Halt}
    (he : mstzPlaces f rc s es = .error e) : e.Canonical := by
  unfold mstzPlaces at he
  split at he
  · cases he
    trivial
  · split at he
    · split at he
      next e' hs =>
        cases he
        exact checkScratch_error hs
      · cases he
    · exact checkGlobal_error he

theorem scalarRead_error {s : State} {n : Nat} {acq : Bool} {ea : Addr} {e : Halt}
    (he : scalarRead s n acq ea = .error e) : e.Canonical := by
  unfold scalarRead at he
  split at he
  next e' ha =>
    cases he
    exact scalarAcc_error ha
  · split at he
    next e' hp =>
      cases he
      exact checkPoison_error hp
    · cases he

theorem scalarRead_memories {s t : State} {n : Nat} {acq : Bool} {ea : Addr} {bs : List Byte}
    (hr : scalarRead s n acq ea = .ok (bs, t)) : t.memories = s.memories := by
  unfold scalarRead at hr
  split at hr
  · cases hr
  · split at hr
    · cases hr
    · cases hr
      simp

variable {s : State}

theorem deferScalar_canonical {e : Halt} (h : s.memories.Canonical) (he : e.Canonical) :
    BodyCanonical (deferScalar s e) := by
  unfold deferScalar
  split
  · exact he
  · simp [h]

theorem sldBody_canonical {f : WmF} {rc : Ctx} (h : s.memories.Canonical) : BodyCanonical (sldBody f rc s) := by
  unfold sldBody
  split
  next e he => exact deferScalar_canonical h (scalarRead_error he)
  next bs t ht => simp [scalarRead_memories ht, h]

theorem aldBody_canonical {f : WmF} {rc : Ctx} (h : s.memories.Canonical) : BodyCanonical (aldBody f rc s) := by
  unfold aldBody
  split
  next e he => exact deferScalar_canonical h (scalarRead_error he)
  next bs t ht =>
    split
    · exact deferScalar_canonical h trivial
    · simp [scalarRead_memories ht, h]

theorem scalarWrite_canonical {ea : Addr} {bs : List Byte} (h : s.memories.Canonical) :
    BodyCanonical (scalarWrite s ea bs) := by
  unfold scalarWrite
  split
  next e he => exact scalarAcc_error he
  · simp [h]

theorem loadGlobal_canonical {f : LmF} {m : Mask} {ea : Nat → Addr} (h : s.memories.Canonical) :
    BodyCanonical (loadGlobal f m ea s) := by
  unfold loadGlobal
  dsimp only
  split
  · rw [BodyCanonical, loadQuiet_memories _ _ _ _ _ _ fun good => askSectors_memories ..]
    exact h
  · split
    next e he => exact checkGlobal_error he
    · split
      next e he => exact checkPoison_error he
      · simp [h]

theorem storeGlobal_canonical {f : LmF} {rc : Ctx} {m : Mask} {ea : Nat → Addr} (h : s.memories.Canonical) :
    BodyCanonical (storeGlobal f rc m ea s) := by
  unfold storeGlobal
  split
  next e he => exact checkGlobal_error he
  · simp [h]

theorem loadScratch_canonical {f : LmF} {rc : Ctx} {b : Option Block} (h : s.memories.Canonical) :
    BodyCanonical (loadScratch f rc b s) := by
  unfold loadScratch
  dsimp only
  split
  · split
    · trivial
    · rw [BodyCanonical, loadQuiet_memories _ _ _ _ _ _ fun good => lanesRead_memories ..]
      exact h
  · split
    next e he => exact checkTarget_error he
    · simp [h]

theorem storeScratchLanes_canonical {f : LmF} {rc : Ctx} {b : Option Block} (h : s.memories.Canonical) :
    BodyCanonical (storeScratchLanes f rc b s) := by
  unfold storeScratchLanes
  dsimp only
  split
  next e he => exact checkTarget_error he
  · split <;> simp [h]

theorem qpushBody_canonical {f : LmF} {rc : Ctx} (h : s.memories.Canonical) : BodyCanonical (qpushBody f rc s) := by
  unfold qpushBody
  dsimp only
  split
  next e he => exact checkFifo_error he
  · split <;> simp [h]

theorem qpopBody_canonical {f : LmF} {rc : Ctx} (h : s.memories.Canonical) : BodyCanonical (qpopBody f rc s) := by
  unfold qpopBody
  dsimp only
  split
  next e he => exact checkFifo_error he
  · repeat' split
    all_goals simp [h]

theorem atomBody_canonical {f : LaF} {vcas far : Bool} {rc : Ctx} (h : s.memories.Canonical) :
    BodyCanonical (atomBody f vcas far rc s) := by
  unfold atomBody
  dsimp only
  split
  next e he => exact checkGlobal_error he
  · split
    next e he => exact checkPoison_error he
    · simp [h]

theorem satomBody_canonical {f : LaF} {rc : Ctx} (h : s.memories.Canonical) : BodyCanonical (satomBody f rc s) := by
  unfold satomBody
  dsimp only
  split
  next e he => exact scalarAcc_error he
  · split
    next e he => exact checkPoison_error he
    · simp [h]

theorem latomBody_canonical {f : LaF} {rc : Ctx} (h : s.memories.Canonical) : BodyCanonical (latomBody f rc s) := by
  unfold latomBody
  dsimp only
  split
  next e he => exact checkScratch_error he
  · simp [h]

theorem blockBody_canonical {f : LxF} {kind : BitVec 3} {rc : Ctx} (h : s.memories.Canonical) :
    BodyCanonical (blockBody f kind rc s) := by
  unfold blockBody
  dsimp only
  split
  next e he => exact cmdAligned_error he
  · split
    · split
      next e he => exact readCommand_error he
      · simp [h]
    · trivial

theorem saveBody_canonical {f : LxF} {kind : BitVec 3} {insn : Nat} {first count : BitVec 8} {bytes : Ctx → List Byte}
    {mark : Ctx → Ctx} {rc : Ctx} (h : s.memories.Canonical) :
    BodyCanonical (saveBody f kind insn first count bytes mark rc s) := by
  unfold saveBody
  dsimp only
  split
  next e he => exact cmdAligned_error he
  · split <;> simp [h]

theorem xpfdBody_canonical {f : LxF} {len : BitVec 6} {rc : Ctx} (h : s.memories.Canonical) :
    BodyCanonical (xpfdBody f len rc s) := by
  unfold xpfdBody
  split <;> simp [h]

theorem waithBody_canonical {n : BitVec 6} {rc : Ctx} (h : s.memories.Canonical) :
    BodyCanonical (waithBody n rc s) := by
  unfold waithBody
  dsimp only
  repeat' split
  all_goals simp [h]

theorem testhBody_canonical {c : BitVec 3} {mask n : BitVec 6} {rc : Ctx} (h : s.memories.Canonical) :
    BodyCanonical (testhBody c mask n rc s) := by
  unfold testhBody
  dsimp only
  repeat' split
  all_goals simp [h]

theorem canchBody_canonical {n : BitVec 6} {rc : Ctx} (h : s.memories.Canonical) :
    BodyCanonical (canchBody n rc s) := by
  unfold canchBody
  dsimp only
  repeat' split
  all_goals simp [h]

theorem frwonBody_canonical {n : BitVec 4} {rc : Ctx} (h : s.memories.Canonical) :
    BodyCanonical (frwonBody n rc s) := by
  unfold frwonBody
  dsimp only
  split
  next e he => exact cmdAligned_error he
  · split
    next e he => exact validPlan_error h he
    · split <;> simp [h]

theorem frwoffBody_canonical {d : BitVec 6} (h : s.memories.Canonical) : BodyCanonical (frwoffBody d s) := by
  unfold frwoffBody
  dsimp only
  repeat' split
  all_goals simp [h]

theorem frwdepBody_canonical {c : BitVec 3} {q d : Nat} (h : s.memories.Canonical) :
    BodyCanonical (frwdepBody c q d s) := by
  unfold frwdepBody
  repeat' split
  all_goals simp [h]

theorem launchBody_canonical {d : BitVec 6} {a : BitVec 4} {rc : Ctx} (h : s.memories.Canonical) :
    BodyCanonical (launchBody d a rc s) := by
  unfold launchBody
  dsimp only
  split
  next e he => exact cmdAligned_error he
  · split
    next e he => exact readRecord_error he
    · repeat' split
      all_goals simp [h]

theorem lcancelBody_canonical {c : BitVec 3} {kill : Bool} {n : BitVec 6} {rc : Ctx} (h : s.memories.Canonical) :
    BodyCanonical (lcancelBody c kill n rc s) := by
  unfold lcancelBody
  split <;> simp [h]

theorem sysWriteBody_canonical {i : Nat} {b : BitVec 6} {rc : Ctx} (h : s.memories.Canonical) :
    BodyCanonical (sysWriteBody i b rc s) := by
  unfold sysWriteBody
  split <;> simp [h]

theorem sysrdBody_canonical {index : BitVec 8} {d : BitVec 6} (h : s.memories.Canonical) :
    BodyCanonical (sysrdBody index d s) := by
  unfold sysrdBody
  split <;> simp [h]

theorem jumpReg_canonical {a : Addr} (h : s.memories.Canonical) : BodyCanonical (jumpReg s a) := by
  unfold jumpReg
  split <;> simp [h]

theorem brvBody_canonical {p : BitVec 3} {neg : Bool} {taken : BitVec 24} {rejoin : BitVec 23} {rc : Ctx}
    (h : s.memories.Canonical) : BodyCanonical (brvBody p neg taken rejoin rc s) := by
  unfold brvBody
  dsimp only
  repeat' split
  all_goals simp [h]

theorem laneBody_canonical {op : LaneOp} {f : LvF} {rc : Ctx} (h : s.memories.Canonical) :
    BodyCanonical (laneBody op f rc s) := by
  unfold laneBody
  dsimp only
  split <;> simp [h]

theorem acceptOwn_canonical {op : CubeOp} (h : s.memories.Canonical) : BodyCanonical (acceptOwn s op) := by
  unfold acceptOwn
  split <;> simp [h]

theorem mldfBody_canonical {f : LfF} {rc : Ctx} (h : s.memories.Canonical) : BodyCanonical (mldfBody f rc s) := by
  unfold mldfBody
  dsimp only
  split
  · trivial
  · split
    · trivial
    · split
      next e he => exact checkScratch_error he
      · simp [h]

theorem mrdzBody_canonical {f : LzF} {rc : Ctx} (h : s.memories.Canonical) : BodyCanonical (mrdzBody f rc s) := by
  unfold mrdzBody
  dsimp only
  split <;> simp [h]

theorem mstzBody_canonical {f : LzF} {rc : Ctx} (h : s.memories.Canonical) : BodyCanonical (mstzBody f rc s) := by
  unfold mstzBody
  dsimp only
  split
  next e he => exact mstzPlaces_error he
  · split <;> simp [h]

theorem scalarRR_canonical {op : SWord → SWord → SWord} {d a b : BitVec 6} {rc : Ctx} (h : s.memories.Canonical) :
    BodyCanonical (scalarRR op d a b rc s) := by
  simp [scalarRR, h]

theorem scalarRI_canonical {op : SWord → SWord → SWord} {d a : BitVec 6} {imm : BitVec 12} {rc : Ctx}
    (h : s.memories.Canonical) : BodyCanonical (scalarRI op d a imm rc s) := by
  simp [scalarRI, h]

theorem scalarR_canonical {op : SWord → Nat} {d a : BitVec 6} {rc : Ctx} (h : s.memories.Canonical) :
    BodyCanonical (scalarR op d a rc s) := by
  simp [scalarR, h]

theorem scalarDiv_canonical {signed rem : Bool} {d a b : BitVec 6} {rc : Ctx} (h : s.memories.Canonical) :
    BodyCanonical (scalarDiv signed rem d a b rc s) := by
  simp [scalarDiv, h]

theorem uniformBranch_canonical {take : Mask → Mask → Bool} {p : BitVec 3} {neg : Bool} {off : BitVec 20} {rc : Ctx}
    (h : s.memories.Canonical) : BodyCanonical (uniformBranch take p neg off rc s) := by
  simp [uniformBranch, h]

theorem vshflBody_canonical {f : LvF} {rc : Ctx} (h : s.memories.Canonical) : BodyCanonical (vshflBody f rc s) := by
  simp [vshflBody, h]

theorem mcubeBody_canonical {f : LcF} (h : s.memories.Canonical) : BodyCanonical (mcubeBody f s) := by
  simp [mcubeBody, h]

end Sys2Proof.Machine
end

section
/-! SUPPORT. The elements of the engines (R183 to R191) keep the memories in canonical form. -/

namespace Sys2Proof.Machine

variable {s : State}

theorem elemRead_memories {s t : State} {b : Block} {p : Place} {va : Addr} {n : Nat} {bs : List Byte}
    (hr : elemRead s b p va n = .ok (bs, t)) : t.memories = s.memories := by
  unfold elemRead at hr
  repeat' split at hr
  all_goals cases hr
  simp

theorem prefetchElem_memories {s t : State} {b : Block} {k : Cmd} {i : Nat} (hp : prefetchElem s b k i = .ok t) :
    t.memories = s.memories := by
  unfold prefetchElem at hp
  dsimp only at hp
  repeat' split at hp
  all_goals cases hp
  all_goals simp

theorem elemWrite_canonical {b : Block} {k : Cmd} {p : Place} {va : Addr} {bs : List Byte}
    (h : s.memories.Canonical) : ElemCanonical (elemWrite s b k p va bs) := by
  unfold elemWrite
  split <;> simp [h]

theorem elemAtomic_canonical {b : Block} {p : Place} {va : Addr} {aop n x : Nat} (h : s.memories.Canonical) :
    ElemCanonical (elemAtomic s b p va aop n x) := by
  unfold elemAtomic
  repeat' split
  all_goals simp [h]

theorem copyElem_canonical {b : Block} {k : Cmd} {e : Nat} (h : s.memories.Canonical) :
    ElemCanonical (copyElem s b k e) := by
  unfold copyElem
  dsimp only
  split
  · trivial
  split
  · trivial
  next bs t hr =>
    have ht : t.memories.Canonical := elemRead_memories hr ▸ h
    split
    · trivial
    split
    · exact elemAtomic_canonical ht
    · exact elemWrite_canonical ht

theorem moveElem_canonical {b : Block} {k : Cmd} {n : Nat} {src dst indexed : Int} {ispace : Nat}
    (h : s.memories.Canonical) : ElemCanonical (moveElem s b k n src dst indexed ispace) := by
  unfold moveElem
  split
  · trivial
  split
  · trivial
  split
  · trivial
  next bs t hr =>
    split
    · trivial
    · exact elemWrite_canonical (elemRead_memories hr ▸ h)

theorem gatherElem_canonical {b : Block} {k : Cmd} {e : Nat} (h : s.memories.Canonical) :
    ElemCanonical (gatherElem s b k e) := by
  unfold gatherElem
  dsimp only
  split
  · trivial
  split
  · trivial
  next bs t hr =>
    have ht : t.memories.Canonical := elemRead_memories hr ▸ h
    split
    · exact moveElem_canonical ht
    · exact moveElem_canonical ht

theorem signalElem_canonical {b : Block} {k : Cmd} (h : s.memories.Canonical) : ElemCanonical (signalElem s b k) := by
  unfold signalElem
  split
  · trivial
  · exact elemAtomic_canonical h

theorem spillElem_canonical {b : Block} {k : Cmd} {i : Nat} (h : s.memories.Canonical) :
    ElemCanonical (spillElem s b k i) := by
  unfold spillElem
  dsimp only
  split
  · trivial
  · exact elemWrite_canonical h

theorem fillElem_canonical {b : Block} {k : Cmd} {i : Nat} (h : s.memories.Canonical) :
    ElemCanonical (fillElem s b k i) := by
  unfold fillElem
  dsimp only
  split
  · trivial
  split
  · trivial
  next bs t hr => simp [elemRead_memories hr, h]

theorem elemStep_canonical {b : Block} {k : Cmd} (h : s.memories.Canonical) : ElemCanonical (elemStep s b k) := by
  unfold elemStep
  split
  · exact copyElem_canonical h
  split
  · exact gatherElem_canonical h
  split
  · exact signalElem_canonical h
  split
  · exact spillElem_canonical h
  split
  · exact fillElem_canonical h
  cases hp : prefetchElem s b k k.stop with
  | error e => trivial
  | ok t =>
    show t.memories.Canonical
    exact prefetchElem_memories hp ▸ h

end Sys2Proof.Machine
end

section
/-! SUPPORT. The events that stand in `exec` as more than one operation keep the memories in canonical form. -/

namespace Sys2Proof.Machine

variable {s : State}

theorem execCubePass_canonical (h : s.memories.Canonical) : OutcomeCanonical (execCubePass s) := by
  unfold execCubePass
  rw [OutcomeCanonical]
  split <;> simp [h]

theorem execTrapEntry_canonical (h : s.memories.Canonical) : OutcomeCanonical (execTrapEntry s) := by
  unfold execTrapEntry
  rw [OutcomeCanonical]
  split <;> simp [h]

theorem execLaunchAbort_canonical (h : s.memories.Canonical) : OutcomeCanonical (execLaunchAbort s) := by
  unfold execLaunchAbort
  rw [OutcomeCanonical]
  split <;> simp [h]

theorem execEngineStart_canonical {num : BitVec 8} (h : s.memories.Canonical) :
    OutcomeCanonical (execEngineStart num s) := by
  unfold execEngineStart
  rw [OutcomeCanonical]
  split <;> simp [h]

theorem execEngineElement_canonical {num : BitVec 8} (h : s.memories.Canonical) :
    OutcomeCanonical (execEngineElement num s) := by
  unfold execEngineElement
  rw [OutcomeCanonical]
  split
  · exact h
  next k hk =>
    have he : ElemCanonical (elemStep s s.blk k) := elemStep_canonical h
    split
    · split
      next e hs => exact stopCmd_canonical h
      next t hs =>
        rw [hs] at he
        simpa using he
      next t hs =>
        rw [hs] at he
        simpa using he
    · exact h

theorem execPeerAcknowledgement_canonical {num : BitVec 8} (h : s.memories.Canonical) :
    OutcomeCanonical (execPeerAcknowledgement num s) := by
  unfold execPeerAcknowledgement
  rw [OutcomeCanonical]
  split <;> simp [h]

theorem execEngineCompletion_canonical {num : BitVec 8} (h : s.memories.Canonical) :
    OutcomeCanonical (execEngineCompletion num s) := by
  unfold execEngineCompletion
  rw [OutcomeCanonical]
  split <;> simp [h]

theorem execEngineCancelStop_canonical {num : BitVec 8} (h : s.memories.Canonical) :
    OutcomeCanonical (execEngineCancelStop num s) := by
  unfold execEngineCancelStop
  rw [OutcomeCanonical]
  split <;> simp [h]

theorem execLoadDataReturn_canonical {va : Addr} (h : s.memories.Canonical) :
    OutcomeCanonical (execLoadDataReturn va s) := by
  unfold execLoadDataReturn
  dsimp only [OutcomeCanonical]
  repeat' split
  all_goals simp [h]

theorem execMissQueueRelease_canonical {channel : Nat} (h : s.memories.Canonical) :
    OutcomeCanonical (execMissQueueRelease channel s) := by
  unfold execMissQueueRelease
  rw [OutcomeCanonical]
  split <;> simp [h]

theorem execBankSwitch_canonical {bank : Nat} (h : s.memories.Canonical) :
    OutcomeCanonical (execBankSwitch bank s) := by
  unfold execBankSwitch
  rw [OutcomeCanonical]
  split <;> simp [h]

theorem execPageWalk_canonical {va : Addr} (h : s.memories.Canonical) : OutcomeCanonical (execPageWalk va s) := by
  unfold execPageWalk
  rw [OutcomeCanonical]
  repeat' split
  all_goals simp [h]

theorem execInstructionFetchFill_canonical {va : Addr} (h : s.memories.Canonical) :
    OutcomeCanonical (execInstructionFetchFill va s) := by
  unfold execInstructionFetchFill
  rw [OutcomeCanonical]
  repeat' split
  all_goals simp [h]

theorem execDrainStep_canonical {stage rep : Nat} (h : s.memories.Canonical) :
    OutcomeCanonical (execDrainStep stage rep s) :=
  onFurrow_canonical h fun core part f => by simp [h]

theorem execSourceStep_canonical (h : s.memories.Canonical) : OutcomeCanonical (execSourceStep s) :=
  onFurrow_canonical h fun core part f => by simp [h]

theorem execFurrowDrained_canonical (h : s.memories.Canonical) : OutcomeCanonical (execFurrowDrained s) := by
  refine onFurrow_canonical h fun core part f => ?_
  split
  · simp [h]
  · exact h

theorem execFurrowDeadlock_canonical (h : s.memories.Canonical) : OutcomeCanonical (execFurrowDeadlock s) :=
  onFurrow_canonical h fun core part f => by simp [h]

theorem execStreamFaultSuspend_canonical {stream rep : Nat} (h : s.memories.Canonical) :
    OutcomeCanonical (execStreamFaultSuspend stream rep s) := by
  refine onFurrow_canonical h fun core part f => ?_
  repeat' split
  all_goals simp [h]

theorem execFurrowReentry_canonical (h : s.memories.Canonical) : OutcomeCanonical (execFurrowReentry s) := by
  unfold execFurrowReentry
  rw [OutcomeCanonical]
  repeat' split
  all_goals simp [h]

theorem execRecordHeadCheck_canonical {port : Nat} (h : s.memories.Canonical) :
    OutcomeCanonical (execRecordHeadCheck port s) := by
  unfold execRecordHeadCheck
  rw [OutcomeCanonical]
  split <;> simp [h]

theorem execCodeObjectLoad_canonical {port : Nat} (h : s.memories.Canonical) :
    OutcomeCanonical (execCodeObjectLoad port s) := by
  unfold execCodeObjectLoad
  dsimp only [OutcomeCanonical]
  split
  · split
    · exact h
    · split
      · exact failRecords_canonical h
      · split
        · exact h
        · exact getD_canonical (fun t ht => loadModule_canonical h ht) (failRecords_canonical h)
  · exact h

theorem execModuleUnload_canonical {vf index : Nat} (h : s.memories.Canonical) :
    OutcomeCanonical (execModuleUnload vf index s) := by
  unfold execModuleUnload
  rw [OutcomeCanonical]
  repeat' split
  all_goals simp [h]

theorem execDispatchLatch_canonical {port : Nat} (h : s.memories.Canonical) :
    OutcomeCanonical (execDispatchLatch port s) := by
  unfold execDispatchLatch
  dsimp only [OutcomeCanonical]
  repeat' split
  all_goals simp [h]

theorem execBlockAdmission_canonical {uid : Nat} (h : s.memories.Canonical) :
    OutcomeCanonical (execBlockAdmission uid s) := by
  unfold execBlockAdmission
  rw [OutcomeCanonical]
  repeat' split
  all_goals simp [h]

theorem execLaunchCompletion_canonical {key : Nat} (h : s.memories.Canonical) :
    OutcomeCanonical (execLaunchCompletion key s) := by
  unfold execLaunchCompletion
  rw [OutcomeCanonical]
  split <;> simp [h]

theorem execPreemption_canonical {port : Nat} (h : s.memories.Canonical) :
    OutcomeCanonical (execPreemption port s) := by
  unfold execPreemption
  rw [OutcomeCanonical]
  repeat' split
  all_goals simp [h]

theorem execBlockRestore_canonical {uid : Nat} (h : s.memories.Canonical) :
    OutcomeCanonical (execBlockRestore uid s) := by
  unfold execBlockRestore
  dsimp only [OutcomeCanonical]
  repeat' split
  all_goals simp [h]

theorem execFaultResolved_canonical {vf seq : Nat} (h : s.memories.Canonical) :
    OutcomeCanonical (execFaultResolved vf seq s) := by
  unfold execFaultResolved
  rw [OutcomeCanonical]
  split <;> simp [h]

theorem execFaultDenied_canonical {vf seq : Nat} (h : s.memories.Canonical) :
    OutcomeCanonical (execFaultDenied vf seq s) := by
  unfold execFaultDenied
  rw [OutcomeCanonical]
  split <;> simp [h]

theorem execInvalidationComplete_canonical (h : s.memories.Canonical) :
    OutcomeCanonical (execInvalidationComplete s) := by
  unfold execInvalidationComplete
  dsimp only [OutcomeCanonical]
  repeat' split
  all_goals simp [h]

theorem execHostWindowAccess_canonical {vf off : Nat} {size : BitVec 2} {data : Option (BitVec 64)}
    (h : s.memories.Canonical) : OutcomeCanonical (execHostWindowAccess vf off size data s) := by
  unfold execHostWindowAccess
  rw [OutcomeCanonical]
  repeat' split
  all_goals simp [h]

theorem nextOr_canonical {o : Host.Outcome State Fault Refusal} (h : s.memories.Canonical) (ho : OutcomeCanonical o) :
    (nextOr s o).memories.Canonical := by
  cases o with
  | next t => exact ho
  | fault r => exact h
  | refused r => exact h

/-- R209: what the freeze held back happens when the stacks resume. -/
theorem replayAct_canonical {a : HeldAct} (h : s.memories.Canonical) : (replayAct s a).memories.Canonical := by
  have hv : ({ s with via := a.via } : State).memories.Canonical := by simp [h]
  unfold replayAct
  dsimp only
  split
  · split <;> simp [h]
  · exact nextOr_canonical hv (by simp [execHostCancel, h])
  · exact nextOr_canonical hv (by simp [execHostCancelKill, h])
  · exact nextOr_canonical hv (execPreemption_canonical hv)
  · exact nextOr_canonical hv (execHostWindowAccess_canonical hv)
  · exact nextOr_canonical hv (by simp [execPeerIncomingAccess, h])
  · exact nextOr_canonical hv (execFaultDenied_canonical hv)
  · exact writeWaiting_canonical hv
  · exact hv

theorem execStackResume_canonical (h : s.memories.Canonical) : OutcomeCanonical (execStackResume s) := by
  unfold execStackResume
  rw [OutcomeCanonical]
  split
  · exact canonical_foldl (fun _ _ hs => replayAct_canonical hs) _ (by simp [h])
  · exact h

end Sys2Proof.Machine
end

section
/-! SUPPORT. Every instruction and event, and every step, keeps the memories in canonical form. -/

namespace Sys2Proof.Machine

/-- Every instruction and event keeps the memories in canonical form: an instruction through the body that it hands to
`issue`, an event through what it makes of the state. -/
theorem exec_canonical (i : Instr) {s : State} (h : s.memories.Canonical) : OutcomeCanonical (exec i s) := by
  cases i
  all_goals dsimp only [exec]
  case sadd | ssub | sand | sor | sxor | sshl | sshr | ssra | smul | smulhs | smulhu | smins | smaxs | sminu | smaxu =>
    exact issue_canonical h fun _ _ ht => scalarRR_canonical ht
  case sdivs | sdivu | srems | sremu => exact issue_canonical h fun _ _ ht => scalarDiv_canonical ht
  case sclz | sctz | spopc => exact issue_canonical h fun _ _ ht => scalarR_canonical ht
  case saddi | sandi | sori | sxori | sshli | sshri | ssrai =>
    exact issue_canonical h fun _ _ ht => scalarRI_canonical ht
  case brva | brvn | brvl => exact issue_canonical h fun _ _ ht => uniformBranch_canonical ht
  case vshfl => exact issue_canonical h fun _ _ ht => vshflBody_canonical ht
  case mwrz | mscl | mzero => exact issue_canonical h fun _ _ ht => acceptOwn_canonical ht
  case nop | imx | ssel | sli | scmp | scmpi | aadd | aaddi | amov | aget | asub | br | brc | call | exit | trap |
    bkpt | bar | bars | fence | fetchb | ipf | eret | yield | frwkill | vlane | vrfl | vvote | vred | vscan =>
    exact issue_canonical h fun _ _ ht => by simp [ht]
  case vmovC16 | vaddC16 | vsubC16 | vmulC16 | vandC16 | vorC16 | vxorC16 | vshlC16 | vshrC16 | vminC16 | vmaxC16 |
    vfaddC16 | vfsubC16 | vfmulC16 | vfminC16 | vfmaxC16 | vadd | vsub | vmul | vmulh | vmad | vaddc | vand | vor |
    vxor | vnot | vshl | vshr | vsra | vmin | vmax | vabs | vneg | vclz | vpopc | vbfe | vbfi | vsel | vmov | vli |
    vcmp | vaddp | vsubp | vshlp | vshrp | vsrap | vminp | vmaxp | vdot8 | vdot4 | vpack | vunpk | vfadd | vfsub |
    vfmul | vfma | vfmin | vfmax | vfcmp | vfrcp | vfrsq | vfsqrt | vfexp2 | vflog2 | vfsin | vfcos | vfrnd |
    vfcls | vhfma | vhadd | vhmul | vcvt =>
    exact issue_canonical h fun _ _ ht => laneBody_canonical ht
  case mcube => exact issue_canonical h fun _ _ ht => mcubeBody_canonical ht
  case sld => exact issue_canonical h fun _ _ ht => sldBody_canonical ht
  case sst | ast => exact issue_canonical h fun _ _ ht => scalarWrite_canonical ht
  case ald => exact issue_canonical h fun _ _ ht => aldBody_canonical ht
  case ret | jmpa | calla => exact issue_canonical h fun _ _ ht => jumpReg_canonical (by simp [ht])
  case waith => exact issue_canonical h fun _ _ ht => waithBody_canonical ht
  case testh => exact issue_canonical h fun _ _ ht => testhBody_canonical ht
  case canch => exact issue_canonical h fun _ _ ht => canchBody_canonical ht
  case setfmt | syswr | setgang => exact issue_canonical h fun _ _ ht => sysWriteBody_canonical ht
  case sysrd => exact issue_canonical h fun _ _ ht => sysrdBody_canonical ht
  case frwon => exact issue_canonical h fun _ _ ht => frwonBody_canonical ht
  case frwoff => exact issue_canonical h fun _ _ ht => frwoffBody_canonical ht
  case frwdep => exact issue_canonical h fun _ _ ht => frwdepBody_canonical ht
  case launch => exact issue_canonical h fun _ _ ht => launchBody_canonical ht
  case lcancel => exact issue_canonical h fun _ _ ht => lcancelBody_canonical ht
  case brv => exact issue_canonical h fun _ _ ht => brvBody_canonical ht
  case vld | vlds => exact issue_canonical h fun _ _ ht => loadGlobal_canonical ht
  case vst | vsts => exact issue_canonical h fun _ _ ht => storeGlobal_canonical ht
  case ldl | ldr => exact issue_canonical h fun _ _ ht => loadScratch_canonical ht
  case stl | str => exact issue_canonical h fun _ _ ht => storeScratchLanes_canonical ht
  case vatom | vcas | matom => exact issue_canonical h fun _ _ ht => atomBody_canonical ht
  case latom => exact issue_canonical h fun _ _ ht => latomBody_canonical ht
  case satom => exact issue_canonical h fun _ _ ht => satomBody_canonical ht
  case qpush => exact issue_canonical h fun _ _ ht => qpushBody_canonical ht
  case qpop => exact issue_canonical h fun _ _ ht => qpopBody_canonical ht
  case mldf => exact issue_canonical h fun _ _ ht => mldfBody_canonical ht
  case mstz => exact issue_canonical h fun _ _ ht => mstzBody_canonical ht
  case mrdz => exact issue_canonical h fun _ _ ht => mrdzBody_canonical ht
  case xcpy | xgath | xscat | xred | xsig => exact issue_canonical h fun _ _ ht => blockBody_canonical ht
  case spill | fill => exact issue_canonical h fun _ _ ht => saveBody_canonical ht
  case xpfd => exact issue_canonical h fun _ _ ht => xpfdBody_canonical ht
  case sourceStep => exact execSourceStep_canonical h
  case drainStep => exact execDrainStep_canonical h
  case furrowDrained => exact execFurrowDrained_canonical h
  case furrowDeadlock => exact execFurrowDeadlock_canonical h
  case streamFaultSuspend => exact execStreamFaultSuspend_canonical h
  case furrowReentry => exact execFurrowReentry_canonical h
  case cubePass => exact execCubePass_canonical h
  case trapEntry => exact execTrapEntry_canonical h
  case launchAbort => exact execLaunchAbort_canonical h
  case recordHeadCheck => exact execRecordHeadCheck_canonical h
  case codeObjectLoad => exact execCodeObjectLoad_canonical h
  case dispatchLatch => exact execDispatchLatch_canonical h
  case blockAdmission => exact execBlockAdmission_canonical h
  case launchCompletion => exact execLaunchCompletion_canonical h
  case preemption => exact execPreemption_canonical h
  case blockRestore => exact execBlockRestore_canonical h
  case stackResume => exact execStackResume_canonical h
  case bankSwitch => exact execBankSwitch_canonical h
  case loadDataReturn => exact execLoadDataReturn_canonical h
  case missQueueRelease => exact execMissQueueRelease_canonical h
  case pageWalk => exact execPageWalk_canonical h
  case instructionFetchFill => exact execInstructionFetchFill_canonical h
  case engineStart => exact execEngineStart_canonical h
  case engineElement => exact execEngineElement_canonical h
  case engineCompletion => exact execEngineCompletion_canonical h
  case engineCancelStop => exact execEngineCancelStop_canonical h
  case faultResolved => exact execFaultResolved_canonical h
  case faultDenied => exact execFaultDenied_canonical h
  case moduleUnload => exact execModuleUnload_canonical h
  case invalidationComplete => exact execInvalidationComplete_canonical h
  case hostWindowAccess => exact execHostWindowAccess_canonical h
  case peerAcknowledgement => exact execPeerAcknowledgement_canonical h
  case groupSwapOut | issueBoost | pendingStarvationSwap =>
    simp [execGroupSwapOut, execIssueBoost, execPendingStarvationSwap, h]
  case reconvergenceSwitch | reconvergencePop | brvResolution | laneReplay =>
    simp [execReconvergenceSwitch, execReconvergencePop, execBrvResolution, execLaneReplay, h]
  case fsnk | steer | merge | stageFire =>
    simp [execFsnk, execSteer, execMerge, execStageFire, h]
  case cubeAccept | specialFunctionResult | divisionResult =>
    simp [execCubeAccept, execSpecialFunctionResult, execDivisionResult, h]
  case recordEnqueue | qstatRead | hostCancel | hostCancelKill | waitConditionTest | moduleUnloadRequest =>
    simp [execRecordEnqueue, execQstatRead, execHostCancel, execHostCancelKill, execWaitConditionTest,
      execModuleUnloadRequest, h]
  case deferralEligibility | blockCompletion | contextSave =>
    simp [execDeferralEligibility, execBlockCompletion, execContextSave, h]
  case governorSample | stackFreeze | budgetWrite =>
    simp [execGovernorSample, execStackFreeze, execBudgetWrite, h]
  case l1SectorExpiry | atomicUnitOperation | rds | rdx | upg | wbk | evc | sfw | sfx | sin | dat | ack | cmp =>
    simp [execL1SectorExpiry, execAtomicUnitOperation, execRds, execRdx, execUpg, execWbk, execEvc, execSfw, execSfx,
      execSin, execDat, execAck, execCmp, h]
  case fstsRead | fbtailWrite | mcpopWrite | mcclrWrite | dieLinkRetransmit | fatalError =>
    simp [execFstsRead, execFbtailWrite, execMcpopWrite, execMcclrWrite, execDieLinkRetransmit, execFatalError, h]
  case functionTableWrite | placementTableWrite | invalidateAsid | invalidatePage | flushQuad | flushKey |
    registerWrite =>
    simp [execFunctionTableWrite, execPlacementTableWrite, execInvalidateAsid, execInvalidatePage, execFlushQuad,
      execFlushKey, execRegisterWrite, h]
  case strelfelPortFailure | peerIncomingAccess | linkTraining =>
    simp [execStrelfelPortFailure, execPeerIncomingAccess, execLinkTraining, h]
  case spdmMeasurementRead | securedSession | keyInstall | keyClear | firmwareUpdate | deviceReset =>
    simp [execSpdmMeasurementRead, execSecuredSession, execKeyInstall, execKeyClear, execFirmwareUpdate,
      execDeviceReset, h]

variable {s : State}

theorem fetchFails_canonical {e : FetchErr} (h : s.memories.Canonical) : OutcomeCanonical (fetchFails s e) := by
  unfold fetchFails
  split <;> simp [h]

theorem illegal_canonical {n w : Nat} (h : s.memories.Canonical) : OutcomeCanonical (illegal s n w) := by
  unfold illegal
  split
  · simp [h]
  · exact trapOr_canonical h fun u hu => illTrap_canonical hu

theorem issueChosen_canonical (h : s.memories.Canonical) : OutcomeCanonical (issueChosen s) := by
  have hc : (chosen s).memories.Canonical := by simp [h]
  unfold issueChosen
  split
  · split
    · exact exec_canonical _ hc
    · exact exec_canonical _ hc
    · exact exec_canonical _ hc
    · exact exec_canonical _ hc
    · exact exec_canonical _ hc
    · split
      · exact fetchFails_canonical hc
      · split
        · exact exec_canonical _ hc
        · exact illegal_canonical hc
  · exact h

theorem issueStep_canonical (h : s.memories.Canonical) : OutcomeCanonical (issueStep s) :=
  issueChosen_canonical (by simp [h])

/-- An event of the agenda happens, or is held back by a freeze. -/
theorem occurs_canonical {e : Instr} (h : s.memories.Canonical) :
    OutcomeCanonical
      (if isEvent e then (if mayHappen s e then exec e s else .next (heldBack s e)) else .next s) := by
  split
  · split
    · exact exec_canonical e h
    · simp [h]
  · exact h

theorem step_canonical (h : s.memories.Canonical) : OutcomeCanonical (step s) := by
  have ht : (tick s).memories.Canonical := tick_canonical h
  unfold step
  split
  · trivial
  split
  · split
    · trivial
    · exact issueStep_canonical ht
  next it rest ha =>
    dsimp only
    split
    · exact issueStep_canonical (by split <;> simp [ht])
    · refine occurs_canonical ?_
      split <;> simp [ht]

end Sys2Proof.Machine
end

section
/-! PROOFS. The obligations about the canonical form of the memories. -/

namespace Sys2Proof.Machine

/-- Settles O2: the state after reset lists no byte. -/
theorem startsCanonical : Obligations.StartsCanonical := ⟨rfl, fun _ => rfl⟩

/-- Settles O3, by the frame of the operations that write no memory and by `mwf_writeCells` for those that do. -/
theorem stepKeepsMemoryCanonical : Obligations.StepKeepsMemoryCanonical := by
  intro s t h hs
  have ho : OutcomeCanonical (step s) := step_canonical ((wf_iff s).mp h)
  rw [hs] at ho
  exact (wf_iff t).mpr ho

end Sys2Proof.Machine
end

section
/-! SUPPORT. What time and the scheduler leave of the group in focus (R205, R32): the thread that it runs goes on where it
stood, but that outstanding results may land or lose their promise (R48, R49). -/

namespace Sys2Proof.Machine

/-- A group runs on where another stands: the same context but for the coverage of results, the same window, the same replays
and the same deferred trap. -/
structure SameThread (g h : Group) : Prop where
  trapReq : h.trapReq = g.trapReq
  replay : h.replay = g.replay
  window : h.window = g.window
  ctx : h.ctx = { g.ctx with pend := h.ctx.pend }
  pend : g.ctx.pend = [] → h.ctx.pend = []

namespace SameThread

theorem refl (g : Group) : SameThread g g := ⟨rfl, rfl, rfl, rfl, id⟩

theorem trans {g h k : Group} (a : SameThread g h) (b : SameThread h k) : SameThread g k where
  trapReq := b.trapReq.trans a.trapReq
  replay := b.replay.trans a.replay
  window := b.window.trans a.window
  ctx := by rw [b.ctx, a.ctx]
  pend hg := b.pend (a.pend hg)

/-- A group that keeps its thread and its context. -/
theorem of_ctx_eq {g h : Group} (ht : h.trapReq = g.trapReq) (hr : h.replay = g.replay) (hw : h.window = g.window)
    (hc : h.ctx = g.ctx) : SameThread g h := ⟨ht, hr, hw, by rw [hc], fun hp => by rw [hc, hp]⟩

theorem pc {g h : Group} (a : SameThread g h) : h.ctx.pc = g.ctx.pc := by rw [a.ctx]

theorem ite {g h k : Group} (c : Prop) [Decidable c] (a : SameThread g h) (b : SameThread g k) :
    SameThread g (if c then h else k) := by
  split
  · exact a
  · exact b

end SameThread

theorem countEvt_sameThread (e n : Nat) (g : Group) : SameThread g (countEvt e n g) :=
  .of_ctx_eq (by simp) (by simp) (by simp) (by simp)

theorem tickGroup_sameThread (n : Nat) (frozen ready : Bool) (g : Group) : SameThread g (tickGroup n frozen ready g) := by
  unfold tickGroup
  dsimp only
  have h2 : SameThread g (if g.fown then countEvt evFurrowCycles n (countEvt evCycles n g) else countEvt evCycles n g) :=
    .ite _ ((countEvt_sameThread _ _ _).trans (countEvt_sameThread _ _ _)) (countEvt_sameThread _ _ _)
  split
  · exact h2.trans (countEvt_sameThread _ _ _)
  · exact .ite _ h2 (h2.trans (.of_ctx_eq rfl rfl rfl rfl))
  · exact h2

theorem tickOne_sameThread (s : State) (n : Nat) (g : Group) : SameThread g (tickOne s n g) := by
  unfold tickOne
  dsimp only
  refine .ite _ ?_ (.refl g)
  refine SameThread.trans ?_ (.ite _ (countEvt_sameThread _ _ _) (.refl _))
  refine SameThread.trans ?_ (.ite _ (countEvt_sameThread _ _ _) (.refl _))
  exact (tickGroup_sameThread _ _ _ _).trans (.ite _ (countEvt_sameThread _ _ _) (.refl _))

theorem grantReservations_g (s : State) : (grantReservations s).g = s.g := by
  refine List.foldlRecOn s.deferred _ (motive := fun t : State => t.g = s.g) rfl fun t ht x _ => ?_
  split
  · split
    · exact ht
    · exact ht
  · exact ht

theorem ripen_g (s : State) : (ripen s).g = s.g := by
  unfold ripen
  split
  · exact grantReservations_g _
  · rfl

/-- Time passes with nothing happening around the device. -/
theorem tick_sameThread {s : State} (he : s.env.headD [] = []) : SameThread s.g (tick s).g := by
  have hg : (tick s).g = tickOne s (stepCounts s) s.g := by
    unfold tick
    rw [he]
    exact ripen_g _
  rw [hg]
  exact tickOne_sameThread _ _ _

theorem mem_of_memories {s t : State} (h : t.memories = s.memories) : t.mem = s.mem := congrArg Memories.device h

theorem tick_mem {s : State} (he : s.env.headD [] = []) : (tick s).mem = s.mem := by
  unfold tick
  rw [he]
  exact mem_of_memories ((ripen_memories _).trans (passTime_memories s))

/-! The scheduler. -/

theorem updGroup_sameThread {g : Group} {s : State} {f : Group → Group} (h : SameThread g s.g)
    (hf : ∀ g : Group, SameThread g (f g)) (uid slot : Nat) : SameThread g (updGroup s uid slot f).g :=
  .ite (s.g.isAt uid slot = true) (h.trans (hf s.g)) h

theorem enterActive_sameThread (s : State) (k : Nat) (x : Nat × Nat) : SameThread s.g (enterActive s k x).g := by
  unfold enterActive
  dsimp only
  refine updGroup_sameThread ?_ (fun g => ?_) _ _
  · exact .refl s.g
  · exact .of_ctx_eq rfl rfl rfl rfl

theorem swapOut_sameThread (s : State) (k uid slot : Nat) : SameThread s.g (swapOut s k uid slot).g := by
  unfold swapOut
  dsimp only
  refine updGroup_sameThread ?_ (fun g => ?_) _ _
  · exact .refl s.g
  · exact ⟨rfl, rfl, rfl, rfl, congrArg landAll⟩

theorem fillVacancy_sameThread (s : State) (k : Nat) : SameThread s.g (fillVacancy s k).g := by
  unfold fillVacancy
  split
  · exact .refl _
  · split
    · exact .refl _
    · exact enterActive_sameThread _ _ _

theorem swapFor_sameThread (s : State) (k uid slot : Nat) : SameThread s.g (swapFor s k uid slot).g := by
  have ho := swapOut_sameThread s k uid slot
  unfold swapFor
  dsimp only
  split
  · exact .refl _
  · split
    · split
      · exact ho
      · exact ho.trans (enterActive_sameThread _ _ _)
    · exact ho.trans (fillVacancy_sameThread _ _)

theorem starvationSwap_sameThread (s : State) (k uid slot : Nat) : SameThread s.g (starvationSwap s k uid slot).g := by
  unfold starvationSwap
  split
  · exact .refl _
  · exact (swapOut_sameThread _ _ _ _).trans (enterActive_sameThread _ _ _)

theorem fillAll_sameThread (s : State) (k n : Nat) : SameThread s.g (fillAll s k n).g := by
  induction n generalizing s with
  | zero => exact .refl _
  | succ n ih => exact (fillVacancy_sameThread s k).trans (ih _)

theorem schedule_sameThread (s : State) (k : Nat) : SameThread s.g (schedule s k).g := by
  have swaps : SameThread s.g ((getPart s k).active.foldl (fun acc x =>
      if swapWanted (findGroup acc x.1 x.2) && maySwap acc k x.1 x.2 then swapFor acc k x.1 x.2 else acc) s).g := by
    refine List.foldlRecOn _ _ (motive := fun t : State => SameThread s.g t.g) (.refl _) fun t ht x _ => ?_
    split
    · exact ht.trans (swapFor_sameThread _ _ _ _)
    · exact ht
  have filled := swaps.trans (fillAll_sameThread _ k 8)
  unfold schedule
  dsimp only
  split
  · exact filled.trans (starvationSwap_sameThread _ _ _ _)
  · exact filled

theorem scheduled_sameThread (s : State) : SameThread s.g (scheduled s).g := by
  unfold scheduled
  split
  · exact .refl _
  · exact schedule_sameThread _ _

/-! The choice of the group, and what its fetch asks for. -/

theorem askWalk_g (s : State) (core vf : Nat) (va : Addr) : (askWalk s core vf va).g = s.g := by
  unfold askWalk
  dsimp only
  split <;> rfl

theorem codeTouch_g (s : State) (core sec : Nat) : (codeTouch s core sec).g = s.g := by
  unfold codeTouch
  split
  · rfl
  · split <;> rfl

theorem obtainCode_sameThread (s : State) (core leaf sec : Nat) : SameThread s.g (obtainCode s core leaf sec).g := by
  have hq : SameThread s.g (queueCode s core leaf sec).g := by
    unfold queueCode
    split
    · exact .of_ctx_eq rfl rfl rfl rfl
    · exact .refl _
  unfold obtainCode
  split
  · exact .refl _
  · exact hq

theorem fetchAsks_sameThread (s : State) : SameThread s.g (fetchAsks s).g := by
  have walks : ((fetchAddrs s).foldl (fun acc va => askWalk acc s.blk.core s.blk.vf va) s).g = s.g :=
    List.foldlRecOn _ _ (motive := fun t : State => t.g = s.g) rfl fun t ht va _ => (askWalk_g _ _ _ va).trans ht
  refine List.foldlRecOn _ _ (motive := fun t : State => SameThread s.g t.g) (by rw [walks]; exact .refl _) fun t ht x _ => ?_
  split
  · rw [codeTouch_g]
    exact ht
  · exact ht.trans (obtainCode_sameThread _ _ _ _)

/-- R205, R48: a group that is chosen waits no longer, and the gap after its producers may be longer than they promise. -/
theorem noted_sameThread (late : Bool) (g : Group) :
    SameThread g { g with
      waited := 0, waitOn := .nothing
      ctx := if late then { g.ctx with pend := loosen g.ctx.pend } else g.ctx } := by
  cases late
  · exact .of_ctx_eq rfl rfl rfl rfl
  · exact ⟨rfl, rfl, rfl, rfl, fun h => congrArg loosen h⟩

theorem chosen_sameThread (s : State) : SameThread s.g (chosen s).g := by
  have stalls (c : Bool) (n : Nat) (t : State) (ht : SameThread s.g t.g) :
      SameThread s.g (if c = true then modG t (countEvt evFetchStall n) else t).g := by
    split
    · exact ht.trans (countEvt_sameThread _ _ _)
    · exact ht
  unfold chosen
  dsimp only
  rw [modPart_g]
  split
  · exact SameThread.trans (stalls _ _ _ (noted_sameThread _ s.g)) (fetchAsks_sameThread _)
  · exact stalls _ _ _ (noted_sameThread _ s.g)

end Sys2Proof.Machine
end

section
/-! PROOFS. A step runs the instruction decoded at the PC, or the event at the head of the agenda (R13, R256, R271). -/

namespace Sys2Proof.Machine

/-- R60, R67, R68: nothing comes before the instruction at the PC of a group without a deferred trap, a replay, a window that is
due, and a rejoin point at the PC. -/
theorem beforeNext_fetch {s : State} (ht : s.g.trapReq = none) (hr : s.g.replay = [])
    (hw : ∀ w, s.g.window = some w → w.left ≠ 0)
    (hs : s.ctx.prefixes ≠ [] ∨ ∀ e ∈ s.ctx.stack.head?, e.rejoin ≠ s.ctx.pc) : beforeNext s = .fetch := by
  have hd : windowDue s.g = false := by
    unfold windowDue
    split
    · exact beq_eq_false_iff_ne.mpr (hw _ ‹_›)
    · rfl
  unfold beforeNext
  simp only [ht, hr, hd, Option.isSome_none, List.isEmpty_nil, Bool.not_true, Bool.false_eq_true, if_false]
  rcases hs with hp | hj
  · rw [if_pos (by simpa using hp)]
  · split
    · rfl
    · split
      · rfl
      next e _ he =>
        rw [if_neg (hj e (by rw [he]; rfl))]

theorem fetchBytes_length {s : State} {va : Addr} {n : Nat} {bs : List Byte} (h : fetchBytes s va n = .ok bs) :
    bs.length = n := by
  induction n generalizing va bs with
  | zero => cases h; rfl
  | succ n ih =>
    rw [fetchBytes] at h
    split at h
    · cases h
    · split at h
      · cases h
      next _ _ _ t ht =>
        cases h
        rw [List.length_cons, ih ht]

/-- R255: bytes fetched at the PC, of which the first says how many they are, are what `peek` reads. -/
theorem peek_of_fetchBytes {s : State} {b : Byte} {t : List Byte}
    (h : fetchBytes s s.ctx.pc (lengthOf b.toNat) = .ok (b :: t)) :
    peek s = .ok (lengthOf b.toNat, leNat (b :: t)) := by
  have hb : fetchByte s s.ctx.pc = .ok b := by
    have hl := fetchBytes_length h
    rw [← hl, List.length_cons, fetchBytes] at h
    split at h
    · cases h
    next b' hb' =>
      split at h
      · cases h
      · cases h
        exact hb'
  unfold peek
  rw [hb]
  dsimp only
  rw [h]

/-- R255, R271: bytes that decode begin with one that says their number, and their word is the instruction's. -/
theorem decodeBytes_ok {bs : List Byte} {i : Instr} {n : Nat} (h : decodeBytes bs = .ok (i, n)) :
    ∃ b t, bs = b :: t ∧ lengthOf b.toNat = n ∧ decodeWord n (leNat (bs.take n)) = some i := by
  unfold decodeBytes at h
  split at h
  · cases h
  next b t =>
    split at h
    · cases h
    · split at h
      next hd =>
        cases h
        exact ⟨b, t, rfl, rfl, hd⟩
      · cases h

/-- R271: as `decodeBytes_ok`, for bytes whose word is no instruction. -/
theorem decodeBytes_illegal {bs : List Byte} {n : Nat} (h : decodeBytes bs = .error (.illegal n)) :
    ∃ b t, bs = b :: t ∧ lengthOf b.toNat = n ∧ decodeWord n (leNat (bs.take n)) = none := by
  unfold decodeBytes at h
  split at h
  · cases h
  next b t =>
    split at h
    · cases h
    · split at h
      · cases h
      next hd =>
        cases h
        exact ⟨b, t, rfl, rfl, hd⟩

/-- R13: a group that its partition has chosen, with nothing before its next instruction, issues what the word at its PC says. -/
theorem issueChosen_fetched {v : State} {n w : Nat} (hm : mayIssue v = true) (hb : beforeNext v = .fetch)
    (hp : peek (chosen v) = .ok (n, w)) :
    (∀ i, decodeWord n w = some i → issueChosen v = exec i (chosen v)) ∧
    (decodeWord n w = none → issueChosen v = illegal (chosen v) n w) := by
  unfold issueChosen
  rw [if_pos hm, hb]
  dsimp only
  rw [hp]
  dsimp only
  exact ⟨fun i h => by rw [h], fun h => by rw [h]⟩

/-- With nothing on the agenda a step is the turn of the group in focus, after time has passed. -/
theorem step_idle {s : State} (hh : s.halted = false) (hb : s.broken = false) (ha : s.agenda = []) :
    step s = issueChosen (scheduled (tick s)) := by
  unfold step
  rw [hb, ha, hh]
  rfl

/-- Settles O6: `SameThread` says what time, the scheduler and the choice leave of the group, so that nothing comes before its
fetch, which reads the bytes that were given. -/
theorem stepRunsDecoded : Obligations.StepRunsDecoded := by
  intro s hh hb
  refine ⟨fun he => ?_, fun e rest ha hev hm => ?_⟩
  · intro v u
    have hv : SameThread s.g v.g := (tick_sameThread he).trans (scheduled_sameThread _)
    have hu : SameThread s.g u.g := hv.trans (chosen_sameThread v)
    have hmem : u.mem = s.mem :=
      (mem_of_memories ((chosen_memories v).trans (scheduled_memories _))).trans (tick_mem he)
    refine ⟨hu.ctx, hu.pend, hmem, fun i n bs ha hm ht hr hw hj hf => ?_⟩
    have hc : v.ctx = { s.ctx with pend := v.ctx.pend } := hv.ctx
    have hpc : u.ctx.pc = s.ctx.pc := hu.pc
    have hfetch : beforeNext v = .fetch := by
      refine beforeNext_fetch (hv.trapReq.trans ht) (hv.replay.trans hr) (hv.window ▸ hw) ?_
      rw [hc]
      exact hj
    have hlen : bs.take n = bs := by rw [← fetchBytes_length hf, List.take_length]
    rw [step_idle hh hb ha]
    constructor
    · intro hd
      obtain ⟨b, t, rfl, rfl, hi⟩ := decodeBytes_ok hd
      rw [hlen] at hi
      exact (issueChosen_fetched hm hfetch (peek_of_fetchBytes (hpc ▸ hf))).1 i hi
    · intro hd
      obtain ⟨b, t, rfl, rfl, hi⟩ := decodeBytes_illegal hd
      rw [hlen] at hi
      exact (issueChosen_fetched hm hfetch (peek_of_fetchBytes (hpc ▸ hf))).2 hi
  · unfold step
    rw [hb, ha]
    dsimp only
    rw [hev, if_pos rfl, if_pos hm]
    rfl

end Sys2Proof.Machine
end

section
/-! SUPPORT. What a vector ALU instruction does to a context (R314, R46, R50), lane by lane. -/

namespace Sys2Proof.Machine

theorem laneOn_maskOf (p : Nat → Bool) {l : Nat} (hl : l < 32) : laneOn (maskOf p) l = p l := by
  unfold laneOn maskOf
  rw [BitVec.getLsbD_setWidth, BitVec.getLsbD_ofBoolListLE]
  simp [hl]

/-- R14: the lanes of the mask that the guard leaves of EXEC are those that take part. -/
theorem laneOn_takePart (c : Ctx) (g : Guard) {l : Nat} (hl : l < 32) : laneOn (c.takePart g) l = takesPart c g l := by
  unfold Ctx.takePart takesPart laneOn
  cases g.pn <;> simp [hl]

/-- A predicate after a write of the bits of a mask. -/
theorem laneOn_writeP (c : Ctx) (n k : Nat) (m x : Mask) {l : Nat} (hl : l < 32) :
    laneOn ((c.writeP n m x).readP k) l =
      if k = n ∧ n ≠ 7 ∧ laneOn m l = true then laneOn x l else laneOn (c.readP k) l := by
  rw [readP_writeP]
  by_cases h : k = n ∧ n ≠ 7
  · obtain ⟨rfl, hn⟩ := h
    unfold laneOn
    cases hm : m.getLsbD l <;> simp [hn, hm, hl, -BitVec.getLsbD_eq_getElem]
  · rw [if_neg h, if_neg fun hk => h ⟨hk.1, hk.2.1⟩]

theorem writeP_lane (c : Ctx) (n : Nat) (m x : Mask) (r l : Nat) : (c.writeP n m x).lane r l = c.lane r l := by
  unfold Ctx.lane
  rw [Ctx.writeP_v]

theorem releaseMarks_readP (c : Ctx) (marks written : List Nat) (n : Nat) :
    (releaseMarks c marks written).readP n = c.readP n := by
  rw [releaseMarks_frame]
  rfl

section
variable (op : LaneOp) (f : LvF) (fmt : BitVec 32) (sc : SWord) (rc : Ctx) (m : Mask) (c : Ctx)

/-- R314: the context with the words of a vector ALU instruction in its destination, where it has one. -/
def withWords : Ctx := if writesVec op then c.setV f.vd.toNat m (fun l => (laneOf op f fmt sc rc l).val) else c

/-- R314: the context with the bits of a vector ALU instruction in its predicate, where it has one. -/
def withBits : Ctx :=
  match predDst op f with
  | some p => c.writeP p m (maskOf fun l => (laneOf op f fmt sc rc l).pred)
  | none => c

/-- R314, R46: a vector ALU instruction writes words, then bits, and SATF is sticky. -/
theorem runLanes_eq :
    runLanes op f fmt sc rc m c =
      { withBits op f fmt sc rc m (withWords op f fmt sc rc m c) with
        status := setSatf (withBits op f fmt sc rc m (withWords op f fmt sc rc m c)).status
          ((lanesOf m).any fun l => (laneOf op f fmt sc rc l).sat) } := rfl

theorem withWords_frame :
    withWords op f fmt sc rc m c =
      { c with v := (withWords op f fmt sc rc m c).v, released := (withWords op f fmt sc rc m c).released } := by
  unfold withWords
  split <;> rfl

theorem withBits_frame : withBits op f fmt sc rc m c = { c with p := (withBits op f fmt sc rc m c).p } := by
  unfold withBits
  split
  · unfold Ctx.writeP
    split <;> rfl
  · rfl

/-- R314: a vector ALU instruction writes lanes, a predicate and SATF of the context, and nothing else. -/
theorem runLanes_frame :
    runLanes op f fmt sc rc m c =
      { c with
        v := (runLanes op f fmt sc rc m c).v
        p := (runLanes op f fmt sc rc m c).p
        released := (runLanes op f fmt sc rc m c).released
        status := setSatf c.status ((lanesOf m).any fun l => (laneOf op f fmt sc rc l).sat) } := by
  rw [runLanes_eq, withBits_frame, withWords_frame]

theorem withWords_lane (r : Nat) {l : Nat} (hl : l < 32) :
    (withWords op f fmt sc rc m c).lane r l =
      if writesVec op = true ∧ r = f.vd.toNat ∧ laneOn m l = true then (laneOf op f fmt sc rc l).val else c.lane r l := by
  unfold withWords
  cases writesVec op
  · simp
  · simp [lane_setV _ _ _ _ _ _ hl]

theorem withWords_readP (p : Nat) : (withWords op f fmt sc rc m c).readP p = c.readP p := by
  rw [withWords_frame]
  rfl

theorem withBits_lane (r l : Nat) : (withBits op f fmt sc rc m c).lane r l = c.lane r l := by
  rw [withBits_frame]
  rfl

theorem withBits_readP (p : Nat) {l : Nat} (hl : l < 32) :
    laneOn ((withBits op f fmt sc rc m c).readP p) l =
      if predDst op f = some p ∧ p ≠ 7 ∧ laneOn m l = true then (laneOf op f fmt sc rc l).pred
      else laneOn (c.readP p) l := by
  unfold withBits
  cases predDst op f with
  | none => simp
  | some q =>
    dsimp only
    rw [laneOn_writeP _ _ _ _ _ hl, laneOn_maskOf _ hl]
    by_cases hq : q = p
    · simp [hq]
    · simp [hq, Ne.symm hq]

/-- R314: the lanes after a vector ALU instruction. -/
theorem runLanes_lane (r : Nat) {l : Nat} (hl : l < 32) :
    (runLanes op f fmt sc rc m c).lane r l =
      if writesVec op = true ∧ r = f.vd.toNat ∧ laneOn m l = true then (laneOf op f fmt sc rc l).val else c.lane r l :=
  (withBits_lane op f fmt sc rc m _ r l).trans (withWords_lane op f fmt sc rc m c r hl)

/-- R314, R315: the predicates after a vector ALU instruction. -/
theorem runLanes_readP (p : Nat) {l : Nat} (hl : l < 32) :
    laneOn ((runLanes op f fmt sc rc m c).readP p) l =
      if predDst op f = some p ∧ p ≠ 7 ∧ laneOn m l = true then (laneOf op f fmt sc rc l).pred
      else laneOn (c.readP p) l := by
  rw [← withWords_readP op f fmt sc rc m c p]
  exact withBits_readP op f fmt sc rc m _ p hl

end

theorem mem_vecRegs (l : List (RegClass × Nat)) (r : Nat) : r ∈ vecRegs l ↔ (.vector, r) ∈ l := by
  unfold vecRegs
  constructor
  · intro h
    obtain ⟨⟨cls, n⟩, hx, rfl⟩ := List.mem_map.mp h
    obtain ⟨hm, hc⟩ := List.mem_filter.mp hx
    cases eq_of_beq hc
    exact hm
  · exact fun h => List.mem_map.mpr ⟨_, List.mem_filter.mpr ⟨h, rfl⟩, rfl⟩

theorem vecRegs_laneWrites (op : LaneOp) (f : LvF) :
    vecRegs (laneWrites op f) = if writesVec op then [f.vd.toNat] else [] := by
  unfold laneWrites
  cases writesVec op <;> cases predDst op f <;> rfl

/-- R315, R335: the vector registers that a vector ALU instruction reads. -/
theorem mem_laneReads_vector {op : LaneOp} {f : LvF} {r : Nat} (h : (RegClass.vector, r) ∈ laneReads op f) :
    (readsA op = true ∧ r = f.a.reg.toNat) ∨ (∃ v, bVector f = some v ∧ readsB op = true ∧ r = v.reg.toNat) ∨
      (readsC op = true ∧ r = f.c.reg.toNat) := by
  have guarded {c : Bool} {n : Nat} (hm : (RegClass.vector, r) ∈ if c then [(RegClass.vector, n)] else []) :
      c = true ∧ r = n := by
    cases c
    · cases hm
    · exact ⟨rfl, congrArg Prod.snd (List.mem_singleton.mp hm)⟩
  unfold laneReads at h
  simp only [List.mem_append] at h
  rcases h with (((h | h) | h) | h) | h
  · cases List.mem_singleton.mp h
  · exact .inl (guarded h)
  · split at h
    next v hb =>
      obtain ⟨hB, hr⟩ := guarded h
      exact .inr (.inl ⟨v, by unfold bVector; rw [hb], hB, hr⟩)
    · cases List.mem_singleton.mp h
    · cases h
  · exact .inr (.inr (guarded h))
  · split at h
    · cases List.mem_singleton.mp h
    · cases h

/-- R37: a vector ALU instruction whose registers lie below the allocation names none above it. -/
theorem regsOk_lane {s : State} {op : LaneOp} {f : LvF} (h : LaneRegsFit s op f) (size : Nat) :
    regsOk s (laneInfo op f size) = true := by
  obtain ⟨hd, ha, hb, hc⟩ := h
  unfold regsOk
  rw [List.all_eq_true]
  intro r hr
  have hr : r ∈ vecRegs (laneReads op f) ∨ r ∈ vecRegs (laneWrites op f) := by
    simpa [laneInfo] using hr
  refine decide_eq_true ?_
  rcases hr with hr | hr
  · rcases mem_laneReads_vector ((mem_vecRegs _ _).mp hr) with ⟨hA, rfl⟩ | ⟨v, hv, hB, rfl⟩ | ⟨hC, rfl⟩
    · exact ha hA
    · exact hb v hv hB
    · exact hc hC
  · rw [vecRegs_laneWrites] at hr
    split at hr
    · rw [List.mem_singleton.mp hr]
      exact hd ‹_›
    · cases hr

end Sys2Proof.Machine
end

section
/-! PROOFS. A vector ALU instruction writes what it computes to the lanes that take part (R14, R314, R46, R50, R331). -/

namespace Sys2Proof.Machine

theorem getPart_modPart_self (s : State) (k : Nat) (f : Part → Part) : getPart (modPart s k f) k = f (getPart s k) :=
  mget_mset_self _ _ _ _

theorem getPart_modPart_ne (s : State) {k j : Nat} (f : Part → Part) (h : j ≠ k) :
    getPart (modPart s k f) j = getPart s j := mget_mset_ne _ _ _ h

/-- R13, R306, R331: as `issue_ctx`, for an instruction that changes queues of partitions too. -/
theorem issue_ctxAndPart {s s2 : State} (h : Quiet s) (i : Instr) (inf : Info) (body : Ctx → State → Except Halt State) (c : Ctx)
    (hp : inf.accepts = true ∨ s.ctx.prefixes = []) (hl : inf.ill = false) (hr : regsOk s inf = true)
    (hf : inf.first = none) (hb : body s.ctx s = .ok s2) (hs : s2 = { s.withCtx c with parts := s2.parts }) :
    ∃ t, issue i inf body s = .next t ∧ t.ctx = retireCtx inf s.ctx c ∧ OnlyCtxAndPart s t ∧ t.parts = s2.parts := by
  have hg : s2.g = { s.g with ctx := c } := by rw [hs]; rfl
  refine ⟨_, issue_next h i inf body hp hl hr hf (by rw [hg]; exact h.unsuspected) hb, ?_⟩
  rw [retire_quiet (s := s) i inf (by rw [hg]) (by rw [hg]; exact h.noWindow) (by rw [hg]; exact h.cleanV)
    (by rw [hg]; exact h.cleanS)]
  refine ⟨?_, ?_, rfl⟩
  · simp [hg]
  · rw [hs]
    rfl

/-- Every vector ALU instruction, in its LV and its C16 form, is issued with the same body. -/
theorem exec_laneInstr {i : Instr} {op : LaneOp} {f : LvF} (h : laneInstr i = some (op, f)) (s : State) :
    exec i s = issue i (laneInfo op f (byteLen i)) (laneBody op f) s := by
  cases i <;> cases h <;> rfl

/-- R331: the queue of results of special functions after a vector ALU instruction. -/
def sfAfter (op : LaneOp) (f : LvF) (s : State) : List (Nat × Nat × Nat) :=
  match op with
  | .special _ => [(s.g.uid, s.g.slot, f.vd.toNat)]
  | _ => []

/-- The context that a vector ALU instruction computes on the registers as they stand. -/
def laneCtx (op : LaneOp) (f : LvF) (s : State) : Ctx :=
  runLanes op f s.ctx.fmt (match bScalar f with
    | some n => s.ctx.readS n
    | none => 0) s.ctx (s.ctx.takePart f.g) s.ctx

/-- R314, R331: the body of a vector ALU instruction changes the context, and leaves the result of a special function in the queue
of the partition. -/
theorem laneBody_next (op : LaneOp) (f : LvF) {s : State} (hq : (getPart s (myPart s)).sfQueue = []) :
    ∃ s2, laneBody op f s.ctx s = .ok s2 ∧ s2 = { s.withCtx (laneCtx op f s) with parts := s2.parts } ∧
      (∀ k, k ≠ myPart s → getPart s2 k = getPart s k) ∧
      getPart s2 (myPart s) = { getPart s (myPart s) with sfQueue := sfAfter op f s } := by
  cases op
  case special sf =>
    refine ⟨modPart (s.withCtx (laneCtx (.special sf) f s)) (myPart s) fun p =>
      { p with sfQueue := p.sfQueue ++ [(s.g.uid, s.g.slot, f.vd.toNat)] }, rfl, rfl,
      fun k hk => getPart_modPart_ne _ _ hk, (getPart_modPart_self _ _ _).trans ?_⟩
    show { getPart s (myPart s) with sfQueue := (getPart s (myPart s)).sfQueue ++ [(s.g.uid, s.g.slot, f.vd.toNat)] } = _
    rw [hq]
    rfl
  all_goals
    refine ⟨s.withCtx _, rfl, rfl, fun _ _ => rfl, ?_⟩
    show getPart s (myPart s) = { getPart s (myPart s) with sfQueue := [] }
    rw [← hq]

/-- R13, R50: retirement of a vector ALU instruction: its marks release, and the PC goes on. -/
theorem retireCtx_lane (op : LaneOp) (f : LvF) (size : Nat) (c0 c : Ctx) :
    retireCtx (laneInfo op f size) c0 c =
      { releaseMarks c (lvMarks op f) (vecRegs (laneWrites op f)) with
        pc := c.pc + BitVec.ofNat 72 size
        pend := (retireCtx (laneInfo op f size) c0 c).pend
        prefixes := [] } := by
  have hpc : (releaseMarks c (lvMarks op f) (vecRegs (laneWrites op f))).pc = c.pc := by rw [releaseMarks_frame]
  rw [← hpc]
  rfl

section
variable (op : LaneOp) (f : LvF) (s : State)

/-- R46: what SATF is set by: a lane that takes part and saturates. -/
theorem lanesOf_takePart_any (p : Nat → Bool) :
    (lanesOf (s.ctx.takePart f.g)).any p = (List.range 32).any fun l => takesPart s.ctx f.g l && p l := by
  rw [lanesOf, List.any_filter, Bool.eq_iff_iff, List.any_eq_true, List.any_eq_true]
  refine exists_congr fun l => and_congr_right fun hl => ?_
  rw [laneOn_takePart _ _ (List.mem_range.mp hl)]

/-- R314, R46: what of the context a vector ALU instruction leaves as it was. -/
theorem laneCtx_frame :
    laneCtx op f s =
      { s.ctx with
        v := (laneCtx op f s).v
        p := (laneCtx op f s).p
        released := (laneCtx op f s).released
        status := setSatf s.ctx.status
          ((List.range 32).any fun l => takesPart s.ctx f.g l && (laneResult op f s l).sat) } := by
  rw [← lanesOf_takePart_any f s fun l => (laneResult op f s l).sat]
  exact runLanes_frame op f s.ctx.fmt _ s.ctx (s.ctx.takePart f.g) s.ctx

theorem laneCtx_lane (r : Nat) {l : Nat} (hl : l < 32) :
    (laneCtx op f s).lane r l =
      if writesVec op = true ∧ r = f.vd.toNat ∧ takesPart s.ctx f.g l = true then (laneResult op f s l).val
      else s.ctx.lane r l := by
  rw [← laneOn_takePart _ _ hl]
  exact runLanes_lane op f s.ctx.fmt _ s.ctx _ s.ctx r hl

theorem laneCtx_readP (p : Nat) {l : Nat} (hl : l < 32) :
    laneOn ((laneCtx op f s).readP p) l =
      if predDst op f = some p ∧ p ≠ 7 ∧ takesPart s.ctx f.g l = true then (laneResult op f s l).pred
      else laneOn (s.ctx.readP p) l := by
  rw [← laneOn_takePart _ _ hl]
  exact runLanes_readP op f s.ctx.fmt _ s.ctx _ s.ctx p hl

/-- R314, R50: the lanes of the context that retires: those of the destination are computed, those of other marked registers are
released. -/
theorem laneRetired_lane (size r : Nat) {l : Nat} (hl : l < 32) :
    (retireCtx (laneInfo op f size) s.ctx (laneCtx op f s)).lane r l =
      if writesVec op = true ∧ r = f.vd.toNat then
        (if takesPart s.ctx f.g l = true then (laneResult op f s l).val else s.ctx.lane r l)
      else if r ∈ lvMarks op f then 0 else s.ctx.lane r l := by
  have hw : r ∈ vecRegs (laneWrites op f) ↔ writesVec op = true ∧ r = f.vd.toNat := by
    rw [vecRegs_laneWrites]
    cases writesVec op <;> simp
  rw [retireCtx_lane]
  refine (lane_releaseMarks (laneCtx op f s) (lvMarks op f) (vecRegs (laneWrites op f)) r l hl).trans ?_
  rw [laneCtx_lane op f s r hl]
  simp only [hw]
  by_cases hd : writesVec op = true ∧ r = f.vd.toNat
  · simp [hd]
  · rw [if_neg (c := _ ∧ _ ∧ _) fun h => hd ⟨h.1, h.2.1⟩, if_neg hd]
    simp [hd]

theorem laneRetired_readP (size p : Nat) :
    (retireCtx (laneInfo op f size) s.ctx (laneCtx op f s)).readP p = (laneCtx op f s).readP p := by
  rw [retireCtx_lane]
  exact releaseMarks_readP _ _ _ p

/-- R13, R314: what the context that retires keeps of the one before. -/
theorem laneRetired_frame (size : Nat) (hp : s.ctx.prefixes = []) :
    let c := retireCtx (laneInfo op f size) s.ctx (laneCtx op f s)
    c = { s.ctx with
      pc := s.ctx.pc + BitVec.ofNat 72 size
      v := c.v
      p := c.p
      released := c.released
      pend := c.pend
      status := setSatf s.ctx.status
        ((List.range 32).any fun l => takesPart s.ctx f.g l && (laneResult op f s l).sat) } := by
  intro c
  have h : c = _ := retireCtx_lane op f size s.ctx (laneCtx op f s)
  rw [releaseMarks_frame, laneCtx_frame] at h
  rw [h, ← hp]

end

/-- Settles O14: `laneBody_next` gives the body, `retireCtx_lane` what retirement makes of its context. -/
theorem vectorLanes : Obligations.VectorLanes := by
  intro s i op f hi h hp hfit
  obtain ⟨s2, hb, hs2, hne, hme⟩ := laneBody_next op f h.settled
  obtain ⟨t, ht, hc, hOnly, hparts⟩ := issue_ctxAndPart h i (laneInfo op f (byteLen i)) (laneBody op f) (laneCtx op f s)
    (.inr hp) rfl (regsOk_lane hfit _) rfl hb hs2
  have hpart (k : Nat) : getPart t k = getPart s2 k := congrArg (mget Part.reset · k) hparts
  refine ⟨t, (exec_laneInstr hi s).trans ht, hOnly, ?_, ?_, ?_, ?_, ?_⟩
  · rw [hc]
    exact laneRetired_frame op f s (byteLen i) hp
  · intro r l hl
    rw [hc]
    exact laneRetired_lane op f s (byteLen i) r hl
  · intro p l hl
    rw [hc, laneRetired_readP]
    exact laneCtx_readP op f s p hl
  · intro k hk
    rw [hpart, hne k hk]
  · rw [hpart, hme]
    rfl

end Sys2Proof.Machine
end

section
/-! SUPPORT. The sets of a partition (R30, R205), as far as a group that leaves them for good needs them. -/

namespace Sys2Proof.Machine

theorem hasPair_eq_false {l : List (Nat × Nat)} {uid slot : Nat} (h : (uid, slot) ∉ l) : hasPair l uid slot = false := by
  rw [hasPair, List.any_eq_false]
  rintro ⟨u, k⟩ hx hp
  simp only [Bool.and_eq_true, beq_iff_eq] at hp
  exact h (hp.1 ▸ hp.2 ▸ hx)

theorem not_mem_dropPair (l : List (Nat × Nat)) (uid slot : Nat) : (uid, slot) ∉ dropPair l uid slot := by
  simp [dropPair]

theorem mem_of_mem_dropPair {l : List (Nat × Nat)} {uid slot : Nat} {x : Nat × Nat} (h : x ∈ dropPair l uid slot) : x ∈ l :=
  (List.mem_filter.mp h).1

theorem mem_of_oldest {s : State} {l : List (Nat × Nat)} {x : Nat × Nat} (h : oldest s l = some x) : x ∈ l := by
  induction l generalizing x with
  | nil => cases h
  | cons y t ih =>
    rw [oldest] at h
    split at h
    · cases h
      exact List.mem_cons_self
    next z hz =>
      cases h
      split
      · exact List.mem_cons_self
      · exact List.mem_cons_of_mem _ (ih hz)

/-- R205: a vacancy stays, or a group that was pending fills it. -/
theorem fillVacancy_cases (s : State) (k : Nat) :
    fillVacancy s k = s ∨ ∃ x ∈ (getPart s k).pending, fillVacancy s k = enterActive s k x := by
  unfold fillVacancy
  split
  · exact .inl rfl
  · split
    · exact .inl rfl
    next x hx => exact .inr ⟨x, (List.mem_filter.mp (mem_of_oldest hx)).1, rfl⟩

/-- A group that enters an active set is the only one that changes. -/
theorem enterActive_g_of_ne {s : State} {x : Nat × Nat} (h : x ≠ (s.g.uid, s.g.slot)) (k : Nat) :
    (enterActive s k x).g = s.g := by
  have hat : s.g.isAt x.1 x.2 = false := by
    rw [Group.isAt, Bool.eq_false_iff]
    intro hp
    simp only [Bool.and_eq_true, beq_iff_eq] at hp
    exact h (Prod.ext hp.1.symm hp.2.symm)
  show (if s.g.isAt x.1 x.2 = true then _ else s.g) = s.g
  rw [hat]
  rfl

theorem getPart_enterActive (s : State) (k : Nat) (x : Nat × Nat) :
    getPart (enterActive s k x) k =
      { getPart s k with
        active := (getPart s k).active ++ [x], pending := dropPair (getPart s k).pending x.1 x.2 } :=
  mget_mset_self _ _ _ _

/-- R30: a group in focus that leaves its partition's sets stands in neither of them, and is as it was. -/
theorem leaveSets_out (s : State) (k : Nat) :
    (leaveSets s k s.g.uid s.g.slot).g = s.g ∧
    hasPair (getPart (leaveSets s k s.g.uid s.g.slot) k).active s.g.uid s.g.slot = false ∧
    hasPair (getPart (leaveSets s k s.g.uid s.g.slot) k).pending s.g.uid s.g.slot = false := by
  unfold leaveSets
  generalize hu : modPart s k _ = u
  have hg : u.g = s.g := by rw [← hu]; rfl
  have hp : getPart u k = { getPart s k with
      active := dropPair (getPart s k).active s.g.uid s.g.slot
      pending := dropPair (getPart s k).pending s.g.uid s.g.slot } := by
    rw [← hu]
    exact mget_mset_self _ _ _ _
  have ha : (s.g.uid, s.g.slot) ∉ (getPart u k).active := by rw [hp]; exact not_mem_dropPair _ _ _
  have hq : (s.g.uid, s.g.slot) ∉ (getPart u k).pending := by rw [hp]; exact not_mem_dropPair _ _ _
  rcases fillVacancy_cases u k with h | ⟨x, hx, h⟩
  · rw [h]
    exact ⟨hg, hasPair_eq_false ha, hasPair_eq_false hq⟩
  · have hne : x ≠ (s.g.uid, s.g.slot) := fun he => hq (he ▸ hx)
    rw [h, getPart_enterActive]
    refine ⟨(enterActive_g_of_ne (by rw [hg]; exact hne) k).trans hg, hasPair_eq_false ?_, hasPair_eq_false ?_⟩
    · exact fun hm => (List.mem_append.mp hm).elim ha fun h1 => hne (List.mem_singleton.mp h1).symm
    · exact fun hm => hq (mem_of_mem_dropPair hm)

/-- The blocks are no part of the sets. -/
theorem leaveSets_blocks (s : State) (k uid slot : Nat) :
    (leaveSets s k uid slot).blk = s.blk ∧ (leaveSets s k uid slot).blks = s.blks := by
  unfold leaveSets
  rcases fillVacancy_cases (modPart s k _) k with h | ⟨x, _, h⟩
  · rw [h]
    exact ⟨rfl, rfl⟩
  · rw [h]
    exact ⟨rfl, rfl⟩

end Sys2Proof.Machine
end

section
/-! SUPPORT. Latches and barriers when a group exits (R28, R121): of the group that has exited, its partition and its block
nothing changes. -/

namespace Sys2Proof.Machine

/-- The group in focus and the partitions are as they were. -/
def SameFocus (s t : State) : Prop := t.g = s.g ∧ t.parts = s.parts

theorem findBlk_focus {s : State} {uid : Nat} (h : s.blk.uid = uid) : findBlk s uid = s.blk := by
  simp [findBlk, h]

theorem updGroup_g_of_ne {s : State} {uid : Nat} (h : s.g.uid ≠ uid) (slot : Nat) (f : Group → Group) :
    (updGroup s uid slot f).g = s.g := by
  have hat : s.g.isAt uid slot = false := by simp [Group.isAt, h]
  show (if s.g.isAt uid slot = true then f s.g else s.g) = s.g
  rw [hat]
  rfl

/-- R120: no arrival stands on a latch entry of the block in focus, which is the block of the group in focus and the only one of
its number. -/
structure Unlatched (s : State) : Prop where
  mine : s.g.uid = s.blk.uid
  latch : s.blk.latch = []
  slatch : s.blk.slatch = []
  alone : ∀ b ∈ s.blks, b.uid ≠ s.blk.uid

theorem putLatch_uid (b : Block) (span : Bool) (gid : Nat) (x : Latch) : (putLatch b span gid x).uid = b.uid := by
  cases span <;> rfl

/-- R120: of the block in focus no arrival stands on a span entry, so that a group trapped at one is another block's. -/
theorem arrived_elsewhere {s : State} (h : Unlatched s) {x : Block} (hx : x ∈ latchBlocks s s.blk true) {gid k : Nat}
    (hk : k ∈ lanesOf (latchOf x true gid).arrived) : s.g.uid ≠ x.uid := by
  have hmem : x ∈ s.blk :: s.blks := (List.mem_filter.mp (List.mem_filter.mp hx).1).1
  rcases List.mem_cons.mp hmem with rfl | hb
  · have hnone : latchOf s.blk true gid = Latch.empty := by
      show mget Latch.empty s.blk.slatch gid = _
      rw [h.slatch]
      rfl
    rw [hnone] at hk
    exact absurd ((mem_lanesOf _ _).mp hk).2 (by simp [laneOn, Latch.empty])
  · rw [h.mine]
    exact (h.alone x hb).symm

/-- R121: the traps of a span entry that breaks leave the group in focus, the partitions and the blocks. -/
theorem trapArrived_sameFocus {s : State} (h : Unlatched s) (gid : Nat) (tr : TrapReq) :
    let u := (latchBlocks s s.blk true).foldl (fun acc x =>
      (lanesOf (latchOf x true gid).arrived).foldl (fun acc k => trapGroup acc x.uid k tr) acc) s
    SameFocus s u ∧ u.blk = s.blk ∧ u.blks = s.blks := by
  refine List.foldlRecOn _ _ (motive := fun u : State => SameFocus s u ∧ u.blk = s.blk ∧ u.blks = s.blks)
    ⟨⟨rfl, rfl⟩, rfl, rfl⟩ fun acc hacc x hx => ?_
  refine List.foldlRecOn _ _ (motive := fun u : State => SameFocus s u ∧ u.blk = s.blk ∧ u.blks = s.blks)
    hacc fun u hu k hk => ?_
  obtain ⟨⟨hg, hp⟩, hb, hbs⟩ := hu
  refine ⟨⟨(updGroup_g_of_ne ?_ k _).trans hg, hp⟩, hb, hbs⟩
  rw [hg]
  exact arrived_elsewhere h hx hk

/-- R121: a span entry that breaks leaves the group in focus, and no arrival of its block. -/
theorem breakLatch_sameFocus {s : State} (h : Unlatched s) (gid detail : Nat) :
    SameFocus s (breakLatch s s.blk true gid detail) ∧ Unlatched (breakLatch s s.blk true gid detail) := by
  have hu := trapArrived_sameFocus h gid (gangTrap detail)
  unfold breakLatch
  dsimp only at hu ⊢
  generalize List.foldl _ s (latchBlocks s s.blk true) = u at hu ⊢
  obtain ⟨hf, hb, hbs⟩ := hu
  have hnone : latchOf u.blk true gid = Latch.empty := by
    rw [hb]
    show mget Latch.empty s.blk.slatch gid = _
    rw [h.slatch]
    rfl
  have huid (x : Block) (c : Bool) (e : Latch) : (if c = true then putLatch x true gid e else x).uid = x.uid := by
    split
    · exact putLatch_uid _ _ _ _
    · rfl
  have hlatch (c : Bool) (e : Latch) : (if c = true then putLatch u.blk true gid e else u.blk).latch = u.blk.latch := by
    split <;> rfl
  have hslatch (c : Bool) : (if c = true then putLatch u.blk true gid { latchOf u.blk true gid with arrived := 0, first := none }
      else u.blk).slatch = [] := by
    rw [hnone, hb]
    split
    · show mset Latch.empty s.blk.slatch gid Latch.empty = []
      rw [h.slatch]
      rfl
    · exact h.slatch
  refine ⟨hf, ⟨?_, ?_, hslatch _, ?_⟩⟩
  · exact (congrArg Group.uid hf.1).trans ((h.mine.trans (congrArg Block.uid hb).symm).trans (huid _ _ _).symm)
  · exact (hlatch _ _).trans ((congrArg Block.latch hb).trans h.latch)
  · intro b hbm
    obtain ⟨x, hx, rfl⟩ := List.mem_map.mp hbm
    refine fun he => h.alone x (hbs ▸ hx) ?_
    exact (huid _ _ _).symm.trans (he.trans ((huid _ _ _).trans (congrArg Block.uid hb)))

theorem breakOnExit_sameFocus {s : State} (h : Unlatched s) (slot : Nat) :
    SameFocus s (breakOnExit s s.g.uid slot) := by
  have hall : SameFocus s (breakOnExit s s.g.uid slot) ∧ Unlatched (breakOnExit s s.g.uid slot) := by
    refine List.foldlRecOn _ _ (motive := fun u : State => SameFocus s u ∧ Unlatched u) ⟨⟨rfl, rfl⟩, h⟩ fun u hu gid _ => ?_
    obtain ⟨⟨hg, hp⟩, hn⟩ := hu
    have hb : findBlk u s.g.uid = u.blk := findBlk_focus (by rw [← hg, hn.mine])
    have hno : exitBreaks u u.blk false gid slot = false := by
      have hl : latchOf u.blk false gid = Latch.empty := by
        show mget Latch.empty u.blk.latch gid = _
        rw [hn.latch]
        rfl
      simp [exitBreaks, hl, Latch.empty]
    simp only [hb, hno, Bool.false_eq_true, if_false]
    split
    · obtain ⟨⟨hg', hp'⟩, hn'⟩ := breakLatch_sameFocus hn gid 3
      exact ⟨⟨hg'.trans hg, hp'.trans hp⟩, hn'⟩
    · exact ⟨⟨hg, hp⟩, hn⟩
  exact hall.1

theorem checkBar_sameFocus {s : State} (h : s.g.run = .exited) (uid n : Nat) : SameFocus s (checkBar s uid n) := by
  unfold checkBar
  dsimp only
  split
  · refine ⟨?_, rfl⟩
    show (if _ then _ else s.g) = s.g
    rw [if_neg]
    simp [h]
  · exact ⟨rfl, rfl⟩

theorem checkSpanBar_sameFocus {s : State} (h : s.g.run = .exited) (b : Block) (n : Nat) :
    SameFocus s (checkSpanBar s b n) := by
  unfold checkSpanBar
  dsimp only
  split
  · show SameFocus s (dropSpanLoose (List.foldl _ _ _) _)
    refine List.foldlRecOn _ _ (motive := fun u : State => SameFocus s (dropSpanLoose u _)) ?_ fun u hu _ _ => hu
    refine ⟨?_, rfl⟩
    show (if _ then _ else s.g) = s.g
    rw [if_neg]
    simp [h]
  · exact ⟨rfl, rfl⟩

theorem checkBarriers_sameFocus {s : State} (h : s.g.run = .exited) (uid : Nat) : SameFocus s (checkBarriers s uid) := by
  have bars : SameFocus s ((List.range 16).foldl (fun acc n => checkBar acc uid n) s) :=
    List.foldlRecOn _ _ (motive := SameFocus s) ⟨rfl, rfl⟩ fun u ⟨hg, hp⟩ n _ =>
      have hn := checkBar_sameFocus (s := u) (by rw [hg, h]) uid n
      ⟨hn.1.trans hg, hn.2.trans hp⟩
  exact List.foldlRecOn _ _ (motive := SameFocus s) bars fun u ⟨hg, hp⟩ n _ =>
    have hn := checkSpanBar_sameFocus (s := u) (by rw [hg, h]) (findBlk u uid) n
    ⟨hn.1.trans hg, hn.2.trans hp⟩

end Sys2Proof.Machine
end

section
/-! PROOFS. EXIT ends the group in focus (R30, R284). -/

namespace Sys2Proof.Machine

/-- R30: a group that has ended, with its stack empty. -/
def exitedGroup (g : Group) : Group := { g with run := .exited, suspects := [], ctx := { g.ctx with stack := [] } }

/-- R121, R28: gangs that break and barriers that complete leave a group that has exited. -/
theorem gangsAndBarriers_sameFocus {s : State} (h : Unlatched s) (he : s.g.run = .exited) (slot : Nat) :
    SameFocus s (checkBarriers (breakOnExit s s.g.uid slot) s.g.uid) := by
  obtain ⟨hg, hp⟩ := breakOnExit_sameFocus h slot
  obtain ⟨hg', hp'⟩ := checkBarriers_sameFocus (by rw [hg]; exact he) s.g.uid
  exact ⟨hg'.trans hg, hp'.trans hp⟩

/-- R30: EXIT ends the group and takes it out of its partition's sets, before gangs and barriers are judged. -/
theorem exitBody_eq {s : State} (h : Quiet s) (hu : Unlatched s) :
    ∃ u, exitBody s = checkBarriers (breakOnExit u u.g.uid u.g.slot) u.g.uid ∧ Unlatched u ∧ u.g = exitedGroup s.g ∧
      hasPair (getPart u (myPart s)).active s.g.uid s.g.slot = false ∧
      hasPair (getPart u (myPart s)).pending s.g.uid s.g.slot = false := by
  have h1 : ∃ s1 : State, s1.g = exitedGroup s.g ∧ s1.blk = s.blk ∧ s1.blks = s.blks ∧
      exitBody s =
        let s2 := leaveSets s1 (myPart s) s.g.uid s.g.slot
        let s3 := modBlk s2 fun b => freeExited s2 b
        checkBarriers (breakOnExit s3 s.g.uid s.g.slot) s.g.uid := by
    refine ⟨modG { s with broken := s.broken || s.early.any fun e => e.cmd.isNone && e.byUid == s.g.uid && e.bySlot == s.g.slot }
      exitedGroup, rfl, rfl, rfl, ?_⟩
    unfold exitBody
    rw [h.unsuspected]
    rfl
  obtain ⟨s1, hg1, hb1, hbs1, he⟩ := h1
  obtain ⟨hg2, ha, hp⟩ := leaveSets_out s1 (myPart s)
  obtain ⟨hb2, hbs2⟩ := leaveSets_blocks s1 (myPart s) s1.g.uid s1.g.slot
  have huid : s1.g.uid = s.g.uid := by rw [hg1]; rfl
  have hslot : s1.g.slot = s.g.slot := by rw [hg1]; rfl
  rw [huid, hslot] at hg2 ha hp hb2 hbs2
  generalize leaveSets s1 (myPart s) s.g.uid s.g.slot = s2 at hg2 ha hp hb2 hbs2 he
  rw [hg1] at hg2
  rw [hb1] at hb2
  rw [hbs1] at hbs2
  refine ⟨modBlk s2 fun b => freeExited s2 b, ?_, ⟨?_, ?_, ?_, ?_⟩, hg2, ha, hp⟩
  · rw [he, modBlk_g, hg2]
    rfl
  · show s2.g.uid = s2.blk.uid
    rw [hg2, hb2]
    exact hu.mine
  · exact (congrArg Block.latch hb2).trans hu.latch
  · exact (congrArg Block.slatch hb2).trans hu.slatch
  · show ∀ b ∈ s2.blks, b.uid ≠ s2.blk.uid
    rw [hb2, hbs2]
    exact hu.alone

/-- R30: after EXIT the group has ended and stands in neither set of its partition. -/
theorem exitBody_ends {s : State} (h : Quiet s) (hu : Unlatched s) :
    (exitBody s).g = exitedGroup s.g ∧
    hasPair (getPart (exitBody s) (myPart s)).active s.g.uid s.g.slot = false ∧
    hasPair (getPart (exitBody s) (myPart s)).pending s.g.uid s.g.slot = false := by
  obtain ⟨u, he, hl, hg, ha, hp⟩ := exitBody_eq h hu
  obtain ⟨hg', hp'⟩ := gangsAndBarriers_sameFocus hl (by rw [hg]; rfl) u.g.slot
  rw [← he] at hg' hp'
  have hpart : getPart (exitBody s) (myPart s) = getPart u (myPart s) := congrArg (mget Part.reset · (myPart s)) hp'
  rw [hpart]
  exact ⟨hg'.trans hg, ha, hp⟩

/-- R13: the context after EXIT. -/
theorem retireCtx_exit {s : State} (h : s.ctx.pend = []) :
    retireCtx { size := 4, closes := true } s.ctx (exitedGroup s.g).ctx = { passed s with stack := [] } := by
  rw [retireCtx_plain (c0 := s.ctx) (c := (exitedGroup s.g).ctx) (inf := { size := 4, closes := true }) rfl rfl rfl rfl rfl,
    pendAfter_none h _ rfl]
  rfl

/-- Settles O26: `exitBody_ends` says what EXIT does, and retirement leaves the sets and the memory. -/
theorem exitEndsTheGroup : Obligations.ExitEndsTheGroup := by
  intro s h hp hu hl hsl ha
  obtain ⟨hg, hact, hpend⟩ := exitBody_ends h ⟨hu, hl, hsl, ha⟩
  have hmem : (exitBody s).mem = s.mem := mem_of_memories (exitBody_memories s)
  generalize hb : exitBody s = u at hg hact hpend hmem
  have hn := issue_next (s2 := u) h .exit { size := 4, closes := true } (fun _ s => .ok (exitBody s)) (.inr hp) rfl rfl rfl
    (by rw [hg]; rfl) (congrArg _ hb)
  rw [retire_quiet (s := s) (s2 := u) .exit { size := 4, closes := true } (by rw [hg]; rfl) (by rw [hg]; exact h.noWindow)
    (by rw [hg]; exact h.cleanV) (by rw [hg]; exact h.cleanS)] at hn
  refine ⟨_, hn, ?_, ?_, hmem, hact, hpend⟩
  · simp only [modG_g, countEvt_run, hg]
    rfl
  · simp only [modG_ctx, modG_g, countEvt_ctx, hg]
    exact retireCtx_exit h.covered

end Sys2Proof.Machine
end

section
/-! SUPPORT. What translation rests on (R151, R152, R143), so that changes elsewhere in the state leave it. -/

namespace Sys2Proof.Machine

/-- Two states give every address the same place: they agree on the tables in memory, on what is cached of them, on the
placements and on the keys. -/
structure SameMaps (s t : State) : Prop where
  mem : t.mem = s.mem
  memPoison : t.memPoison = s.memPoison
  place : t.place = s.place
  funcs : t.funcs = s.funcs
  cores : t.cores = s.cores
  modules : t.modules = s.modules
  keys : t.keys = s.keys
  tlb : ∀ k, (getDie t k).tlb = (getDie s k).tlb
  walks : ∀ k, (getDie t k).walks = (getDie s k).walks
  l2 : ∀ k, (getDie t k).l2 = (getDie s k).l2

theorem getDie_modDie (s : State) (k : Nat) (f : Die → Die) (j : Nat) :
    getDie (modDie s k f) j = if j = k then f (getDie s k) else getDie s j := mget_mset _ _ _ _ _

namespace SameMaps

variable {s t u : State}

theorem refl (s : State) : SameMaps s s := ⟨rfl, rfl, rfl, rfl, rfl, rfl, rfl, fun _ => rfl, fun _ => rfl, fun _ => rfl⟩

theorem trans (a : SameMaps s t) (b : SameMaps t u) : SameMaps s u :=
  ⟨b.mem.trans a.mem, b.memPoison.trans a.memPoison, b.place.trans a.place, b.funcs.trans a.funcs, b.cores.trans a.cores,
    b.modules.trans a.modules, b.keys.trans a.keys, fun k => (b.tlb k).trans (a.tlb k),
    fun k => (b.walks k).trans (a.walks k), fun k => (b.l2 k).trans (a.l2 k)⟩

/-- An update of a die that leaves its translations and its L2. -/
theorem modDie (k : Nat) {f : Die → Die} (ht : ∀ d, (f d).tlb = d.tlb) (hw : ∀ d, (f d).walks = d.walks)
    (hl : ∀ d, (f d).l2 = d.l2) : SameMaps s (modDie s k f) where
  mem := rfl
  memPoison := rfl
  place := rfl
  funcs := rfl
  cores := rfl
  modules := rfl
  keys := rfl
  tlb j := by
    rw [getDie_modDie]
    split
    · rw [ht, ‹j = k›]
    · rfl
  walks j := by
    rw [getDie_modDie]
    split
    · rw [hw, ‹j = k›]
    · rfl
  l2 j := by
    rw [getDie_modDie]
    split
    · rw [hl, ‹j = k›]
    · rfl

variable (h : SameMaps s t)
include h

theorem heldPlace_eq (die pa : Nat) : heldPlace t die pa = heldPlace s die pa := by
  unfold heldPlace
  rw [h.l2]

theorem tableEntry_eq (die tbl i : Nat) : tableEntry t die tbl i = tableEntry s die tbl i := by
  unfold tableEntry walkIdx poisonedAt
  simp only [h.heldPlace_eq, h.place, h.memPoison, h.mem]

theorem badLeaf_eq (die tbl i lvl e : Nat) : badLeaf t die tbl i lvl e = badLeaf s die tbl i lvl e := by
  unfold badLeaf contiguous
  simp only [h.tableEntry_eq]

theorem walkFrom_eq (die asid va n tbl : Nat) : walkFrom t die asid va n tbl = walkFrom s die asid va n tbl := by
  induction n generalizing tbl with
  | zero => rfl
  | succ n ih =>
    have hc (lvl : Nat) : cachedPointer (getDie t die) asid va lvl = cachedPointer (getDie s die) asid va lvl := by
      unfold cachedPointer
      rw [h.walks]
    simp only [walkFrom, hc, h.tableEntry_eq, h.badLeaf_eq, ih]

theorem translate_eq (core vf : Nat) (va : Addr) : translate t core vf va = translate s core vf va := by
  unfold translate getFunc getCore loadedMaps
  simp only [h.funcs, h.cores, h.modules, h.tlb, h.walkFrom_eq]

/-- The place of a byte that the device writes. -/
theorem devicePlace_eq (core vf : Nat) (va : Addr) : devicePlace t core vf va = devicePlace s core vf va := by
  unfold devicePlace keyClosed getFunc accIdx
  simp only [h.translate_eq, h.heldPlace_eq, h.keys, h.funcs]

end SameMaps

end Sys2Proof.Machine
end

section
/-! SUPPORT. The completion rings (R195, R206), and what a state keeps of them and of the groups while launches come and go. -/

namespace Sys2Proof.Machine

/-- R195: whose a port is, where its completion ring lies, and how far it is written and read. -/
def Port.ring (p : Port) : Option Nat × Addr × BitVec 32 × BitVec 32 := (p.owner, p.crbase, p.crhead, p.crtail)

/-- The completion rings, the group in focus and the blocks beside its own are as they were. -/
structure KeepsRings (s t : State) : Prop where
  g : t.g = s.g
  blks : t.blks = s.blks
  ring : ∀ k, (getPort t k).ring = (getPort s k).ring

theorem getPort_modPort (s : State) (k : Nat) (f : Port → Port) (j : Nat) :
    getPort (modPort s k f) j = if j = k then f (getPort s k) else getPort s j := mget_mset _ _ _ _ _

namespace KeepsRings

variable {s t u : State}

theorem refl (s : State) : KeepsRings s s := ⟨rfl, rfl, fun _ => rfl⟩

theorem trans (a : KeepsRings s t) (b : KeepsRings t u) : KeepsRings s u :=
  ⟨b.g.trans a.g, b.blks.trans a.blks, fun k => (b.ring k).trans (a.ring k)⟩

theorem modPort (k : Nat) {f : Port → Port} (hf : ∀ p, (f p).ring = p.ring) : KeepsRings s (modPort s k f) where
  g := rfl
  blks := rfl
  ring j := by
    rw [getPort_modPort]
    split
    · rw [hf, ‹j = k›]
    · rfl

end KeepsRings

/-- Of what translation rests on, of the rings and of the groups nothing has changed: only queues, waits and reservations. -/
structure OnlyQueues (s t : State) : Prop where
  maps : SameMaps s t
  rings : KeepsRings s t

namespace OnlyQueues

variable {s t u : State}

theorem refl (s : State) : OnlyQueues s s := ⟨.refl s, .refl s⟩

theorem trans (a : OnlyQueues s t) (b : OnlyQueues t u) : OnlyQueues s u := ⟨a.maps.trans b.maps, a.rings.trans b.rings⟩

theorem modPort (k : Nat) {f : Port → Port} (hf : ∀ p, (f p).ring = p.ring) : OnlyQueues s (modPort s k f) :=
  ⟨⟨rfl, rfl, rfl, rfl, rfl, rfl, rfl, fun _ => rfl, fun _ => rfl, fun _ => rfl⟩, .modPort k hf⟩

/-- R207: a reservation of a die. -/
theorem setResv (k : Nat) (f : Die → Option Resv) : OnlyQueues s (modDie s k fun d => { d with resv := f d }) :=
  ⟨.modDie k (fun _ => rfl) (fun _ => rfl) (fun _ => rfl), ⟨rfl, rfl, fun _ => rfl⟩⟩

theorem setDeferred (l : List Deferral) : OnlyQueues s { s with deferred := l } :=
  ⟨⟨rfl, rfl, rfl, rfl, rfl, rfl, rfl, fun _ => rfl, fun _ => rfl, fun _ => rfl⟩, ⟨rfl, rfl, fun _ => rfl⟩⟩

end OnlyQueues

theorem grantReservations_onlyQueues (s : State) : OnlyQueues s (grantReservations s) := by
  refine List.foldlRecOn s.deferred _ (motive := OnlyQueues s) (.refl s) fun t ht x _ => ?_
  split
  · split
    · exact ht.trans (.setResv _ _)
    · exact ht
  · exact ht

theorem dropDeferral_onlyQueues (s : State) (port : Nat) (gone : Front → Bool) : OnlyQueues s (dropDeferral s port gone) := by
  unfold dropDeferral
  refine OnlyQueues.trans ?_ (grantReservations_onlyQueues _)
  refine List.foldlRecOn _ _ (motive := OnlyQueues s) ?_ fun t ht d _ => ht.trans (.setResv _ _)
  exact (OnlyQueues.setDeferred _).trans (.modPort port fun _ => rfl)

theorem popHead_onlyQueues (s : State) (port : Nat) : OnlyQueues s (popHead s port) := by
  unfold popHead
  refine OnlyQueues.trans ?_ (dropDeferral_onlyQueues _ _ _)
  exact .modPort port fun _ => rfl

theorem leaveHead_onlyQueues (s : State) (l : Launch) : OnlyQueues s (leaveHead s l) := by
  unfold leaveHead
  split
  · exact popHead_onlyQueues _ _
  · exact .refl s

/-! What a launch writes when it ends. -/

theorem performBytes_keepsRings (s : State) (l : List (Nat × Nat)) (bs : List Byte) : KeepsRings s (performBytes s l bs) := by
  have h : KeepsRings s (l.foldl (fun acc x => tagBytes acc x.2 x.1)
      (onCoh s fun c => (l.map fun x => x.1 / 128).eraseDups.foldl (fun c x => c.recall x) c)) :=
    List.foldlRecOn _ _ (motive := KeepsRings s) ⟨rfl, rfl, fun _ => rfl⟩ fun _ ht _ _ => ht.trans ⟨rfl, rfl, fun _ => rfl⟩
  exact h.trans ⟨rfl, rfl, fun _ => rfl⟩

theorem deviceWrite_keepsRings {s t : State} {core vf : Nat} {va : Addr} {bs : List Byte}
    (h : deviceWrite s core vf va bs = some t) : KeepsRings s t := by
  unfold deviceWrite at h
  dsimp only at h
  split at h
  · cases h
    exact performBytes_keepsRings _ _ _
  · cases h

theorem testWaits_keepsRings (s : State) (port : Nat) : KeepsRings s (testWaits s port) := by
  unfold testWaits
  split
  case h_1 => exact .refl s
  case h_2 =>
    split
    case h_1 => exact .refl s
    case h_2 =>
      split
      · exact .modPort port fun _ => rfl
      · exact .refl s

theorem applySignal_keepsRings (s : State) (vf : Nat) (r : BitVec 512) : KeepsRings s (applySignal s vf r) := by
  unfold applySignal
  dsimp only
  split
  · split
    next t ht =>
      exact (deviceWrite_keepsRings ht).trans
        (List.foldlRecOn _ _ (motive := KeepsRings t) (.refl t) fun u hu p _ => hu.trans (testWaits_keepsRings u p))
    · exact .refl s
  · exact .refl s

end Sys2Proof.Machine
end

section
/-! SUPPORT. What the device writes through a function's pages stands in memory (R195). -/

namespace Sys2Proof.Machine

/-- Bytes written to distinct places stand there. -/
theorem writeCells_zip_stand (m : List Host.Cell) {l : List Nat} (hl : l.Nodup) (bs : List Byte) :
    BytesStand (writeCells m (l.zip bs)) l bs := by
  induction l generalizing m bs with
  | nil => exact fun k i b hi _ => by simp at hi
  | cons a t ih =>
    obtain ⟨ha, ht⟩ := List.nodup_cons.mp hl
    cases bs with
    | nil => exact fun k i b _ hb => by simp at hb
    | cons v bs =>
      intro k i b hi hb
      cases k with
      | zero =>
        cases hi
        cases hb
        show mget memDefault (writeCells (mset memDefault m a v) (t.zip bs)) a = v
        rw [mget_writeCells_ne, mget_mset_self]
        exact fun e he hea => ha (hea ▸ (List.of_mem_zip he).1)
      | succ k => exact ih _ ht bs k i b hi hb

/-- The bytes of a write by the device, to places that are distinct and all of local memory, stand there. -/
theorem deviceWrite_stands {s : State} {core vf : Nat} {va : Addr} {bs : List Byte}
    (hl : ((List.range bs.length).filterMap fun k =>
      (devicePlace s core vf (va + BitVec.ofNat 72 k)).map (·.1)).length = bs.length)
    (hn : ((List.range bs.length).filterMap fun k =>
      (devicePlace s core vf (va + BitVec.ofNat 72 k)).map (·.1)).Nodup) :
    ∃ t, deviceWrite s core vf va bs = some t ∧
      BytesStand t.mem ((List.range bs.length).filterMap fun k =>
        (devicePlace s core vf (va + BitVec.ofNat 72 k)).map (·.1)) bs := by
  rw [← List.map_filterMap] at hl hn ⊢
  rw [List.length_map] at hl
  unfold deviceWrite
  dsimp only
  rw [if_pos hl]
  exact ⟨_, rfl, writeCells_zip_stand _ hn bs⟩

end Sys2Proof.Machine
end

section
/-! PROOFS. Completion of a block and of a launch (R31, R24, R195, R206). -/

namespace Sys2Proof.Machine

/-- R24, R31: no group of a block is left, and the block holds no room. -/
structure Vacated (uid : Nat) (t : State) : Prop where
  groups : ∀ g ∈ t.g :: t.groups, g.uid = uid → g.run = .absent
  blocks : ∀ b ∈ t.blk :: t.blks, b.uid = uid → holdsRoom b = false

namespace Vacated

variable {uid : Nat} {t : State}

theorem groupsOf_eq (h : Vacated uid t) : groupsOf t uid = [] := by
  unfold groupsOf allGroups
  rw [List.filter_filter, List.filter_eq_nil_iff]
  intro g hg hp
  simp only [Bool.and_eq_true, beq_iff_eq, bne_iff_ne, ne_eq] at hp
  exact hp.2 (h.groups g hg hp.1)

theorem findBlk_noRoom (h : Vacated uid t) : holdsRoom (findBlk t uid) = false := by
  unfold findBlk
  cases hf : (t.blk :: t.blks).find? fun b => b.uid == uid with
  | none => rfl
  | some b => exact h.blocks b (List.mem_of_find?_eq_some hf) (by simpa using List.find?_some hf)

theorem modGroups (h : Vacated uid t) {f : Group → Group} (hf : ∀ g, (f g).uid = g.uid ∧ (f g).run = g.run) :
    Vacated uid (modGroups t f) := by
  refine ⟨fun g hg hu => ?_, h.blocks⟩
  obtain ⟨x, hx, rfl⟩ := List.mem_map.mp (show g ∈ (t.g :: t.groups).map f from hg)
  rw [(hf x).1] at hu
  rw [(hf x).2]
  exact h.groups x hx hu

theorem unpark (h : Vacated uid t) : Vacated uid (unpark t) := by
  refine h.modGroups fun g => ?_
  repeat' split
  all_goals exact ⟨rfl, rfl⟩

/-- R201: of groups and blocks a discard leaves some and brings none. -/
theorem discardBlocks (h : Vacated uid t) (us : List Nat) : Vacated uid (discardBlocks t us) := by
  refine Vacated.unpark ⟨fun g hg hu => ?_, fun b hb hu => ?_⟩
  · rcases List.mem_cons.mp hg with rfl | hg
    · dsimp only at hu ⊢
      split at hu
      · rw [if_pos ‹_›]
        rfl
      · rw [if_neg ‹_›]
        exact h.groups _ List.mem_cons_self hu
    · exact h.groups g (List.mem_cons_of_mem _ (List.mem_filter.mp hg).1) hu
  · rcases List.mem_cons.mp hb with rfl | hb
    · dsimp only at hu ⊢
      split at hu
      · rw [if_pos ‹_›]
        rfl
      · rw [if_neg ‹_›]
        exact h.blocks _ List.mem_cons_self hu
    · exact h.blocks b (List.mem_cons_of_mem _ (List.mem_filter.mp hb).1) hu

theorem endSpan (h : Vacated uid t) (b : Block) : Vacated uid (endSpan t b) := by
  unfold Machine.endSpan
  dsimp only
  split
  · exact List.foldlRecOn _ _ (motive := Vacated uid) (h.discardBlocks _) fun u hu _ _ => ⟨hu.groups, hu.blocks⟩
  · exact h

end Vacated

/-- A block is vacated once its groups are gone and it is made one that holds no room. -/
theorem updBlk_vacated {s : State} {uid : Nat} {f : Block → Block} (hg : ∀ g ∈ s.g :: s.groups, g.uid = uid → g.run = .absent)
    (hf : ∀ b, holdsRoom (f b) = false) : Vacated uid (updBlk s uid f) := by
  refine ⟨hg, fun x hx hu => ?_⟩
  obtain ⟨y, _, rfl⟩ :=
    List.mem_map.mp (show x ∈ (s.blk :: s.blks).map fun b => if b.uid == uid then f b else b from hx)
  by_cases hy : y.uid = uid
  · rw [if_pos (beq_iff_eq.mpr hy), hf]
  · rw [if_neg (by simpa using hy)] at hu
    exact absurd hu hy

/-- R31: a block that completes leaves no group and holds no room. -/
theorem completeBlock_vacated (s : State) (b : Block) : Vacated b.uid (completeBlock s b) := by
  unfold completeBlock
  dsimp only
  generalize cancelCmds _ b = s0
  refine Vacated.endSpan (updBlk_vacated (fun g hg hu => ?_) fun _ => rfl) b
  rcases List.mem_cons.mp hg with rfl | hg
  · by_cases hc : s0.g.uid = b.uid
    · rw [if_pos hc]
      rfl
    · rw [if_neg hc] at hu
      exact absurd hu hc
  · have hne := (List.mem_filter.mp hg).2
    exact absurd hu (by simpa using hne)

theorem findBlk_uid {s : State} {uid : Nat} (h : (findBlk s uid).phase ≠ .none) : (findBlk s uid).uid = uid := by
  unfold findBlk at h ⊢
  cases hf : (s.blk :: s.blks).find? fun b => b.uid == uid with
  | none => exact absurd (by rw [hf]; rfl) h
  | some b => simpa using List.find?_some hf

/-- R31: a block all of whose groups have exited and whose counters read zero completes. -/
theorem blockCompletion_completes {s : State} {uid : Nat} (hr : (findBlk s uid).phase = .resident)
    (he : ∀ g ∈ groupsOf s uid, g.run = .exited) (hq : blockQuiet s (findBlk s uid) = true) :
    exec (.blockCompletion uid) s = .next (completeBlock s (findBlk s uid)) := by
  have hall : ((groupsOf s uid).all fun g => g.run == .exited) = true :=
    List.all_eq_true.mpr fun g hg => beq_iff_eq.mpr (he g hg)
  show Host.Outcome.next (if _ then _ else _) = _
  rw [if_pos ⟨hr, hall, hq⟩]

/-- R195: a completion entry has 16 bytes. -/
theorem completionEntry_length (lid : Nat) (status detail : Byte) (blocks : Nat) :
    (completionEntry lid status detail blocks).length = 16 := by
  simp [completionEntry, leBytes]

/-- R206: what the end of a launch comes to: its signal, where it has one, and its entry. -/
theorem completeLaunch_done (s : State) (l : Launch) :
    ∃ u, KeepsRings s u ∧ (recField l.record 30 1 / 4 % 2 = 0 → SameMaps s u) ∧
      let w := writeCompletion u l.port (recLid l.record) 0 0 l.dispatched
      let t := completeLaunch s l 0
      t.g = w.g ∧ t.blks = w.blks ∧ t.ports = w.ports ∧ t.mem = w.mem ∧ findLaunch t l.key = none := by
  have gone (v : State) : findLaunch { v with launches := v.launches.filter fun x => x.key != l.key } l.key = none := by
    simp [findLaunch]
  have h0 := leaveHead_onlyQueues s l
  unfold completeLaunch
  dsimp only
  generalize leaveHead s l = s0 at h0
  refine ⟨if recField l.record 30 1 / 4 % 2 = 1 ∧ (0 = 0 ∨ 0 = 2) then applySignal s0 l.vf l.record else s0, ?_, ?_, ?_⟩
  · split
    · exact h0.rings.trans (applySignal_keepsRings _ _ _)
    · exact h0.rings
  · intro hs
    rw [if_neg (by omega)]
    exact h0.maps
  · generalize writeCompletion _ _ _ _ _ _ = w
    split
    · exact ⟨rfl, rfl, rfl, rfl, gone _⟩
    · exact ⟨rfl, rfl, rfl, rfl, gone _⟩

/-- R206: a launch all of whose blocks have been dispatched and have completed completes. -/
theorem launchCompletion_completes {s : State} {key : Nat} {l : Launch} (hf : findLaunch s key = some l)
    (hb : ∀ b ∈ allBlocks s, b.launch ≠ key) (ha : l.state = .active) (hn : gridSize (recGrid l.record) ≤ l.next) :
    exec (.launchCompletion key) s = .next (completeLaunch s l 0) := by
  have hany : ((allBlocks s).any fun b => b.launch == key) = false :=
    List.any_eq_false.mpr fun b h => by simpa using hb b h
  show execLaunchCompletion key s = _
  unfold execLaunchCompletion
  rw [hf]
  dsimp only
  rw [hany, ha, if_neg (by decide), if_neg (by decide), if_pos ⟨rfl, hn⟩]

theorem Port.ring_eq {p q : Port} (h : p.ring = q.ring) :
    p.owner = q.owner ∧ p.crbase = q.crbase ∧ p.crhead = q.crhead ∧ p.crtail = q.crtail := by
  simpa [Port.ring] using h

/-- R195, R206: a ring without room drops an entry and says so. -/
theorem writeCompletion_full {s : State} {port : Nat} (h : ringRoom (getPort s port) = false) (lid status detail blocks : Nat) :
    writeCompletion s port lid status detail blocks = modPort s port fun p => { p with crovf := true } := by
  unfold writeCompletion
  dsimp only
  rw [if_pos (by simpa [ringRoom] using h)]

theorem completionEntry_eq (lid status detail blocks : Nat) :
    leBytes 4 lid ++ leBytes 1 status ++ leBytes 1 detail ++ leBytes 2 0 ++ leBytes 8 blocks =
      completionEntry lid (BitVec.ofNat 8 status) (BitVec.ofNat 8 detail) blocks := by
  simp [completionEntry, leBytes]

/-- R195: a write by the device of an entry where a port's ring takes its next. -/
theorem deviceWrite_entryStands (s : State) (port : Nat) {bs : List Byte} (hb : bs.length = 16) :
    EntryStands s ((deviceWrite s 0 ((getPort s port).owner.getD 0)
      ((getPort s port).crbase + BitVec.ofNat 72 (16 * ((getPort s port).crhead.toNat % 256))) bs).getD s) port bs := by
  intro hl hn
  unfold entryPlaces at hl hn ⊢
  dsimp only at hl hn ⊢
  rw [← hb] at hl hn ⊢
  obtain ⟨t, ht, hst⟩ := deviceWrite_stands hl hn
  rw [ht]
  exact hst

/-- R195: a ring with room takes an entry, which the device writes where it can. -/
theorem writeCompletion_room {s : State} {port : Nat} (h : ringRoom (getPort s port) = true) (lid status detail blocks : Nat) :
    ∃ u, KeepsRings s u ∧ writeCompletion s port lid status detail blocks = modPort u port (fun p => { p with crhead := p.crhead + 1 }) ∧
      EntryStands s u port (completionEntry lid (BitVec.ofNat 8 status) (BitVec.ofNat 8 detail) blocks) := by
  unfold writeCompletion
  dsimp only
  rw [if_neg (by simpa [ringRoom] using h), completionEntry_eq]
  refine ⟨_, ?_, rfl, deviceWrite_entryStands s port (completionEntry_length _ _ _ _)⟩
  cases hw : deviceWrite s _ _ _ _ with
  | none => exact .refl s
  | some t => exact deviceWrite_keepsRings hw

/-- R206: rings that are kept have room as before. -/
theorem KeepsRings.ringRoom_eq {s t : State} (h : KeepsRings s t) (k : Nat) :
    ringRoom (getPort t k) = ringRoom (getPort s k) := by
  obtain ⟨-, -, hh, ht⟩ := Port.ring_eq (h.ring k)
  unfold ringRoom
  rw [hh, ht]

/-- R195: where the ring of a port takes its next entry. -/
theorem entryPlaces_eq {s t : State} (hm : SameMaps s t) (hr : KeepsRings s t) (port : Nat) :
    entryPlaces t port = entryPlaces s port := by
  obtain ⟨ho, hb, hh, -⟩ := Port.ring_eq (hr.ring port)
  unfold entryPlaces
  simp only [ho, hb, hh, hm.devicePlace_eq]

/-- R195, R206: a launch that completes leaves the groups, and its port's ring has moved on by an entry or has dropped one. -/
theorem completeLaunch_ring (s : State) (l : Launch) :
    let t := completeLaunch s l 0
    findLaunch t l.key = none ∧ t.g = s.g ∧ t.blks = s.blks ∧
    (ringRoom (getPort s l.port) = true → (getPort t l.port).crhead = (getPort s l.port).crhead + 1 ∧
      (recField l.record 30 1 / 4 % 2 = 0 → EntryStands s t l.port (completionEntry (recLid l.record) 0 0 l.dispatched))) ∧
    (ringRoom (getPort s l.port) = false → (getPort t l.port).crovf = true) := by
  obtain ⟨u, hr, hm, hg, hbs, hp, hmem, hgone⟩ := completeLaunch_done s l
  have hport : getPort (completeLaunch s l 0) l.port = getPort _ l.port := congrArg (mget Port.reset · l.port) hp
  refine ⟨hgone, ?_⟩
  cases hroom : ringRoom (getPort s l.port) with
  | true =>
    obtain ⟨v, hv, hw, hst⟩ :=
      writeCompletion_room ((hr.ringRoom_eq l.port).trans hroom) (recLid l.record) 0 0 l.dispatched
    rw [hw] at hg hbs hport hmem
    refine ⟨hg.trans (hv.g.trans hr.g), hbs.trans (hv.blks.trans hr.blks), fun _ => ⟨?_, fun hs => ?_⟩, nofun⟩
    · obtain ⟨-, -, hh, -⟩ := Port.ring_eq ((hr.trans hv).ring l.port)
      rw [hport, getPort_modPort, if_pos rfl, ← hh]
    · unfold EntryStands at hst ⊢
      rw [entryPlaces_eq (hm hs) hr] at hst
      rw [hmem]
      exact hst
  | false =>
    rw [writeCompletion_full ((hr.ringRoom_eq l.port).trans hroom)] at hg hbs hport hmem
    refine ⟨hg.trans hr.g, hbs.trans hr.blks, nofun, fun _ => ?_⟩
    rw [hport, getPort_modPort, if_pos rfl]

/-- Settles O49: `completeBlock_vacated` for the block, `completeLaunch_ring` for the launch. -/
theorem completion : Obligations.Completion := by
  intro s uid key l
  refine ⟨fun hr he hq => ?_, fun hf hb ha hn => ?_⟩
  · have hv := completeBlock_vacated s (findBlk s uid)
    rw [findBlk_uid (by rw [hr]; decide)] at hv
    exact ⟨_, blockCompletion_completes hr he hq, hv.groupsOf_eq, hv.findBlk_noRoom,
      mem_of_memories (completeBlock_memories s _)⟩
  · have hkey : l.key = key := by simpa using List.find?_some hf
    subst hkey
    exact ⟨_, launchCompletion_completes hf hb ha hn, completeLaunch_ring s l⟩

end Sys2Proof.Machine
end

section
/-! PROOFS. The scalar, predicate and condition registers and their fixed members (R36, R37). -/

namespace Sys2Proof.Machine

/-- Settles O12: the accessors answer for s0, p7 and c7 before they look at the register file; for the others by
`readS_writeS`, `readP_writeP` and `readC_writeC`. -/
theorem hardwiredRegisters : Obligations.HardwiredRegisters := by
  intro c n k x m y z
  refine ⟨rfl, rfl, rfl, rfl, rfl, rfl, fun hn => ?_, fun hk => ?_, fun hn => ?_, fun hk => ?_, fun hn => ?_, fun hk => ?_⟩
  · rw [readS_writeS, if_pos ⟨rfl, hn⟩]
  · rw [readS_writeS, if_neg fun h => hk h.1]
  · rw [readP_writeP, if_pos ⟨rfl, hn⟩]
  · rw [readP_writeP, if_neg fun h => hk h.1]
  · rw [readC_writeC, if_pos ⟨rfl, hn⟩]
  · rw [readC_writeC, if_neg fun h => hk h.1]

end Sys2Proof.Machine
end

section
/-! PROOFS. What a device reset leaves (R64, R141, R228, R42, R208, R247). -/

namespace Sys2Proof.Machine

/-- The state is the one after reset, but for what lies outside the device and outlives a reset of it (R253). -/
def ResetBut (t : State) : Prop :=
  t = { State.reset with
    mem := t.mem
    hostMem := t.hostMem
    peerMem := t.peerMem
    firmware := t.firmware
    image := t.image
    recovery := t.recovery
    repair := t.repair
    signKeys := t.signKeys
    temps := t.temps
    freeCtr := t.freeCtr
    env := t.env
    agenda := t.agenda }

theorem resetBut_reset : ResetBut State.reset := rfl

theorem resetBut_resetDevice (s : State) : ResetBut (resetDevice s) := rfl

/-- Settles O1: the tables of a state right after reset are empty, so that every entry reads as its default. -/
theorem resetState : Obligations.ResetState := by
  intro t ht
  have h : ResetBut t := by
    rcases ht with rfl | ⟨s, hs⟩
    · exact resetBut_reset
    · cases hs
      exact resetBut_resetDevice s
  rw [h]
  exact ⟨fun _ => rfl, fun _ _ => rfl, fun _ => ⟨rfl, rfl⟩, fun _ => rfl, rfl, rfl, rfl, rfl, rfl, rfl, fun _ => rfl,
    fun _ => ⟨rfl, rfl⟩⟩

end Sys2Proof.Machine
end

section
/-! SUPPORT. The reconvergence stack in its place (R54, R61): the newest 16 entries in hardware, the others in the group's area. -/

namespace Sys2Proof.Machine

/-- R54: the tag of the entries of the group in focus that stand in its area, for the key that its function has now. -/
def groupTag (s : State) : Nat := areaTag s (findBlk s s.g.uid).vf

theorem areaTag_ne_zero (s : State) (vf : Nat) : areaTag s vf ≠ 0 := by
  unfold areaTag
  dsimp only
  split <;> omega

theorem entryUnder_tag (v place : Nat) (e : StackEntry) : (entryUnder v place e).tag = 0 := by
  unfold entryUnder
  split <;> rfl

/-- R54: where entry i from the newest stands once it has been placed. -/
theorem placeEntry_tag {v : Nat} (hv : v ≠ 0) (place i : Nat) (e : StackEntry) :
    (placeEntry v place (e, i)).tag = 0 ↔ i < 16 := by
  unfold placeEntry
  dsimp only
  split
  next hi =>
    refine iff_of_true ?_ hi
    split
    · assumption
    · exact entryUnder_tag _ _ _
  next hi =>
    refine iff_of_false ?_ hi
    split
    · exact hv
    · assumption

/-- An entry that stands where it belongs stays there. -/
theorem placeEntry_of_placed {e : StackEntry} {i : Nat} (h : e.tag = 0 ↔ i < 16) (v place : Nat) :
    placeEntry v place (e, i) = e := by
  unfold placeEntry
  dsimp only
  split
  next hi => rw [if_pos (h.mpr hi)]
  next hi => rw [if_neg fun ht => hi (h.mp ht)]

/-- R249: what an entry says outlives its way to the area and back, under one key. -/
theorem placeEntry_shown {v i : Nat} {e : StackEntry} (h : i < 16 → e.tag = 0 ∨ e.tag = v) (place : Nat) :
    { placeEntry v place (e, i) with tag := 0 } = { e with tag := 0 } := by
  unfold placeEntry
  dsimp only
  split
  next hi =>
    split
    · rfl
    next ht =>
      unfold entryUnder
      rw [if_pos ((h hi).resolve_left ht)]
  next hi => split <;> rfl

/-- An entry in hardware, or in the area under the key of now, stands under that key once it is beyond the newest 16. -/
theorem placeEntry_tagged {v i : Nat} (hv : v ≠ 0) {e : StackEntry} (h : e.tag = 0 ∨ e.tag = v) (place : Nat) :
    (placeEntry v place (e, i)).tag = if i < 16 then 0 else v := by
  split
  next hi => exact (placeEntry_tag hv place i e).mpr hi
  next hi =>
    unfold placeEntry
    dsimp only
    rw [if_neg hi]
    split
    · rfl
    next ht => exact h.resolve_left ht

theorem placeStack_getElem? (v uid slot : Nat) (l : List StackEntry) (i : Nat) :
    (placeStack v uid slot l)[i]? =
      l[i]?.map fun e => placeEntry v (areaPlace uid slot + 0xD00 + 32 * (l.length - 1 - i)) (e, i) := by
  unfold placeStack
  rw [List.getElem?_map, List.getElem?_zipIdx]
  cases l[i]? with
  | none => rfl
  | some e => simp

theorem placeStack_placed {v : Nat} (hv : v ≠ 0) (uid slot : Nat) (l : List StackEntry) :
    StackPlaced (placeStack v uid slot l) := by
  intro i e he
  rw [placeStack_getElem?] at he
  obtain ⟨x, _, rfl⟩ := Option.map_eq_some_iff.mp he
  exact placeEntry_tag hv _ i x

theorem placeStack_of_placed {l : List StackEntry} (h : StackPlaced l) (v uid slot : Nat) : placeStack v uid slot l = l := by
  refine List.ext_getElem? fun i => ?_
  rw [placeStack_getElem?]
  cases he : l[i]? with
  | none => rfl
  | some e => exact congrArg some (placeEntry_of_placed (h i e he) _ _)

theorem shown_placeStack {v : Nat} {l : List StackEntry}
    (h : ∀ (i : Nat) (e : StackEntry), l[i]? = some e → i < 16 → e.tag = 0 ∨ e.tag = v) (uid slot : Nat) :
    shown (placeStack v uid slot l) = shown l := by
  refine List.ext_getElem? fun i => ?_
  unfold shown
  rw [List.getElem?_map, List.getElem?_map, placeStack_getElem?]
  cases he : l[i]? with
  | none => rfl
  | some e => exact congrArg some (placeEntry_shown (h i e he) _)

/-- R58, R61: the newest 16 entries stand in hardware once others are pushed on a stack that is in its place. -/
theorem pushed_inHardware {new l : List StackEntry} (hn : ∀ e ∈ new, e.tag = 0) (hl : StackPlaced l) (i : Nat) (e : StackEntry)
    (he : (new ++ l)[i]? = some e) (hi : i < 16) : e.tag = 0 := by
  rw [List.getElem?_append] at he
  split at he
  · exact hn e (List.mem_of_getElem? he)
  · exact (hl _ e he).mpr (by omega)

/-- The entry that is on top gives way to another that stands in hardware too. -/
theorem StackPlaced.replaceTop {e e' : StackEntry} {rest : List StackEntry} (h : StackPlaced (e :: rest)) (ht : e'.tag = e.tag) :
    StackPlaced (e' :: rest) := by
  intro i x hx
  cases i with
  | zero =>
    cases hx
    rw [ht]
    exact h 0 e rfl
  | succ i => exact h (i + 1) x hx

theorem StackStands.tagged {s : State} {l : List StackEntry} (h : StackStands s l) {e : StackEntry} (he : e ∈ l) :
    e.tag = 0 ∨ e.tag = groupTag s := by
  obtain ⟨i, hi⟩ := List.mem_iff_getElem?.mp he
  rw [h i e hi]
  split
  · exact .inl rfl
  · exact .inr rfl

/-- R54: of a group whose stack has changed only the stack changes. -/
theorem settleStack_eq (s : State) :
    settleStack s = s.withCtx { s.ctx with stack := placeStack (groupTag s) s.g.uid s.g.slot s.ctx.stack } := rfl

theorem settleStack_placed (s : State) : StackPlaced (settleStack s).ctx.stack :=
  placeStack_placed (areaTag_ne_zero _ _) _ _ _

/-- A stack that is in its place stays as it is. -/
theorem settleStack_of_placed {s : State} (h : StackPlaced s.ctx.stack) : settleStack s = s := by
  rw [settleStack_eq, placeStack_of_placed h]
  rfl

/-- R249: the entries that come back to hardware from the area say what they said, where they stood under the key of now. -/
theorem settleStack_shown {s : State}
    (h : ∀ (i : Nat) (e : StackEntry), s.ctx.stack[i]? = some e → i < 16 → e.tag = 0 ∨ e.tag = groupTag s) :
    shown (settleStack s).ctx.stack = shown s.ctx.stack := shown_placeStack h _ _

/-- R58, R61: what a stack in its place says with entries pushed. -/
theorem settleStack_pushed {s : State} {new l : List StackEntry} (hs : s.ctx.stack = new ++ l) (hn : ∀ e ∈ new, e.tag = 0)
    (hl : StackPlaced l) : shown (settleStack s).ctx.stack = shown new ++ shown l := by
  rw [settleStack_shown fun i e he hi => .inl (pushed_inHardware hn hl i e (hs ▸ he) hi), hs]
  exact List.map_append

theorem settleStack_stands {s : State} (h : ∀ e ∈ s.ctx.stack, e.tag = 0 ∨ e.tag = groupTag s) :
    StackStands (settleStack s) (settleStack s).ctx.stack := by
  intro i e he
  rw [show (settleStack s).ctx.stack = placeStack (groupTag s) s.g.uid s.g.slot s.ctx.stack from rfl, placeStack_getElem?] at he
  obtain ⟨x, hx, rfl⟩ := Option.map_eq_some_iff.mp he
  exact placeEntry_tagged (areaTag_ne_zero _ _) (h x (List.mem_of_getElem? hx)) _

end Sys2Proof.Machine
end

section
/-! PROOFS. The rejoin rule comes before anything issues at a new PC (R60, R67). -/

namespace Sys2Proof.Machine

/-- R67, R68: a window that is due is resolved, once the replays of an earlier one are done. -/
theorem beforeNext_due {s : State} (ht : s.g.trapReq = none) (hr : s.g.replay = []) (hd : windowDue s.g = true) :
    beforeNext s = .resolve := by
  simp [beforeNext, ht, hr, hd]

/-- R60, R67: what comes next at the rejoin PC of the top entry, whether a window is due or not. -/
theorem beforeNext_rejoin {s : State} {e : StackEntry} {rest : List StackEntry} (ht : s.g.trapReq = none)
    (hr : s.g.replay = []) (hp : s.ctx.prefixes = []) (hs : s.ctx.stack = e :: rest) (hj : s.ctx.pc = e.rejoin) :
    beforeNext s = if s.g.window.isSome then .resolve else if e.pending = 0 then .pop else .switch := by
  cases hd : windowDue s.g with
  | true =>
    have hw : s.g.window.isSome = true := by
      unfold windowDue at hd
      cases hw : s.g.window with
      | none => rw [hw] at hd; cases hd
      | some _ => rfl
    rw [beforeNext_due ht hr hd, if_pos hw]
  | false => simp [beforeNext, ht, hr, hd, hp, hs, hj]

/-- What comes next is a matter of the thread that a group runs. -/
theorem beforeNext_sameThread {s v : State} (h : SameThread s.g v.g) : beforeNext v = beforeNext s := by
  have hc : v.ctx = { s.ctx with pend := v.ctx.pend } := h.ctx
  have hd : windowDue v.g = windowDue s.g := by
    unfold windowDue
    rw [h.window]
  unfold beforeNext
  rw [h.trapReq, h.replay, h.window, hd, hc]

theorem atRejoin_iff (s : State) :
    atRejoin s = true ↔
      s.ctx.prefixes = [] ∧ s.g.window = none ∧ ∃ e rest, s.ctx.stack = e :: rest ∧ e.rejoin = s.ctx.pc := by
  unfold atRejoin
  cases s.ctx.stack <;> simp [and_assoc]

/-- R60: the switch to the pending lanes. -/
theorem execSwitch_eq {s : State} {e : StackEntry} {rest : List StackEntry} (h : atRejoin s = true)
    (hs : s.ctx.stack = e :: rest) (hpl : StackPlaced s.ctx.stack) (hn : e.pending ≠ 0) :
    exec .reconvergenceSwitch s = .next (s.withCtx { s.ctx with
      exec := e.pending, fmt := e.fmt, pc := e.taken, stack := { e with pending := 0 } :: rest }) := by
  have ht : topPending s.ctx = true := by simpa [topPending, hs] using hn
  have hc : rejoinCtx s.ctx = { s.ctx with
      exec := e.pending, fmt := e.fmt, pc := e.taken, stack := { e with pending := 0 } :: rest } := by
    rw [rejoinCtx, hs]
    exact if_neg hn
  have hp : StackPlaced (rejoinCtx s.ctx).stack := by
    rw [hc]
    rw [hs] at hpl
    exact hpl.replaceTop rfl
  calc exec .reconvergenceSwitch s
      = .next (if atRejoin s && topPending s.ctx then rejoin s else s) := rfl
    _ = .next (settleStack (s.withCtx (rejoinCtx s.ctx))) := by
      rw [h, ht]
      rfl
    _ = _ := by rw [settleStack_of_placed (s := s.withCtx (rejoinCtx s.ctx)) hp, hc]

/-- R60: the pop, before the entry that comes back from the area has been read. -/
def popped (s : State) (e : StackEntry) (rest : List StackEntry) : State :=
  s.withCtx { s.ctx with exec := e.exec, fmt := e.fmt, stack := rest }

theorem execPop_eq {s : State} {e : StackEntry} {rest : List StackEntry} (h : atRejoin s = true)
    (hs : s.ctx.stack = e :: rest) (hn : e.pending = 0) :
    exec .reconvergencePop s = .next (settleStack (popped s e rest)) := by
  have ht : topPending s.ctx = false := by simp [topPending, hs, hn]
  have hc : rejoinCtx s.ctx = { s.ctx with exec := e.exec, fmt := e.fmt, stack := rest } := by
    rw [rejoinCtx, hs]
    exact if_pos hn
  calc exec .reconvergencePop s
      = .next (if atRejoin s && !topPending s.ctx then rejoin s else s) := rfl
    _ = .next (settleStack (s.withCtx (rejoinCtx s.ctx))) := by
      rw [h, ht]
      rfl
    _ = _ := by rw [hc, popped]

/-- Settles O17: `beforeNext_rejoin` gives what comes next at the rejoin PC and `beforeNext_fetch` elsewhere; a stack that has
been popped is put in its place by `settleStack`. -/
theorem rejoinRule : Obligations.RejoinRule := by
  intro s ht hr hp
  refine ⟨fun w hw hl => ?_, fun hs hw => ?_, fun e rest hs hpl => ⟨fun hj hw => ?_, fun hj hw => ?_, fun hj hw hn => ?_,
    fun hj hw hn => ?_⟩, fun ha hh hb he hm => ?_⟩
  · exact beforeNext_due ht hr (by simp [windowDue, hw, hl])
  · exact beforeNext_fetch ht hr hw (.inr (by simp [hs]))
  · exact beforeNext_fetch ht hr hw (.inr (by simpa [hs] using Ne.symm hj))
  · rw [beforeNext_rejoin ht hr hp hs hj, if_pos (Option.isSome_iff_ne_none.mpr hw)]
  · have hat : atRejoin s = true := (atRejoin_iff s).mpr ⟨hp, hw, e, rest, hs, hj.symm⟩
    refine ⟨?_, execSwitch_eq hat hs hpl hn⟩
    rw [beforeNext_rejoin ht hr hp hs hj, hw]
    exact if_neg hn
  · have hat : atRejoin s = true := (atRejoin_iff s).mpr ⟨hp, hw, e, rest, hs, hj.symm⟩
    refine ⟨?_, _, execPop_eq hat hs hn, rfl, settleStack_placed _, fun hst => ?_⟩
    · rw [beforeNext_rejoin ht hr hp hs hj, hw]
      exact if_pos hn
    · have tagged : ∀ x ∈ rest, x.tag = 0 ∨ x.tag = groupTag s := fun x hx =>
        hst.tagged (hs ▸ List.mem_cons_of_mem e hx)
      exact ⟨settleStack_shown (s := popped s e rest) fun i x hx _ => tagged x (List.mem_of_getElem? hx),
        settleStack_stands (s := popped s e rest) tagged⟩
  · have hb' : beforeNext (scheduled (tick s)) = beforeNext s :=
      beforeNext_sameThread ((tick_sameThread he).trans (scheduled_sameThread _))
    rw [step_idle hh hb ha, issueChosen, if_pos hm, hb']
    exact ⟨fun h => by rw [h], fun h => by rw [h]⟩

end Sys2Proof.Machine
end

section
/-! SUPPORT. The offsets of branches with their prefixes (R57, R257, R279), as bit vectors. -/

namespace Sys2Proof.Machine

theorem ofInt_sextN {n : Nat} (hn : 0 < n) (x : BitVec n) : BitVec.ofInt 72 (sextN n x.toNat) = x.signExtend 72 := by
  rw [sextN_toInt hn]
  rfl

/-- R257: the 24 bits of an IMX before a field. -/
theorem toNat_prefixed {v w : Nat} (x : BitVec v) (f : BitVec w) : (x ++ f).toNat = x.toNat * 2 ^ w + f.toNat := by
  rw [BitVec.toNat_append, ← Nat.shiftLeft_add_eq_or_of_lt f.isLt, Nat.shiftLeft_eq]

/-- R257: a widened field as an address is its sign-extended pattern. -/
theorem ofInt_widen {w : Nat} (hw : 0 < w) (prefixes : List (BitVec 24)) (f : BitVec w) :
    BitVec.ofInt 72 (widen prefixes w f.toNat) = widened 72 w prefixes f := by
  match prefixes with
  | [] => exact ofInt_sextN hw f
  | [x] =>
    show BitVec.ofInt 72 (sextN (w + 24) (x.toNat * 2 ^ w + f.toNat)) = (x ++ f).signExtend 72
    rw [← toNat_prefixed, Nat.add_comm w 24, ofInt_sextN (by omega)]
  | x :: y :: _ =>
    have hn : x.toNat * 2 ^ (w + 24) + y.toNat * 2 ^ w + f.toNat = (x ++ y ++ f).toNat := by
      rw [toNat_prefixed, toNat_prefixed]
      ring
    show BitVec.ofInt 72 (sextN (w + 48) (x.toNat * 2 ^ (w + 24) + y.toNat * 2 ^ w + f.toNat)) = (x ++ y ++ f).signExtend 72
    rw [hn, Nat.add_comm w 48, ofInt_sextN (by omega)]

/-- R279: an offset of halfwords in bytes. -/
theorem toAddr_double (x : Int) : toAddr (2 * x) = BitVec.ofInt 72 x <<< 1 := by
  rw [toAddr, BitVec.ofInt_mul, BitVec.shiftLeft_eq_mul_twoPow, BitVec.mul_comm]
  rfl

end Sys2Proof.Machine
end

section
/-! PROOFS. A BRV that is not predicted (R58, R59, R61). -/

namespace Sys2Proof.Machine

/-- R58, R59: what issue needs of a BRV. -/
def brvInfo (p : BitVec 3) : Info where
  size := 8
  reads := [(.predicate, p.toNat)]
  accepts := true
  closes := true
  interlocked := true
  jumps := true
  eager := true

theorem exec_brv (p : BitVec 3) (neg : Bool) (taken : BitVec 24) (rejoin : BitVec 23) (s : State) :
    exec (.brv p neg taken rejoin) s = issue (.brv p neg taken rejoin) (brvInfo p) (brvBody p neg taken rejoin) s := rfl

/-- R58, R63: the mask that a BRV computes is that of the lanes that vote. -/
theorem predMask_eq {c : Ctx} {p : BitVec 3} {neg : Bool} {t : Mask} (h : ∀ l < 32, laneOn t l = voting c p neg l) :
    predMask c p neg = t := by
  refine BitVec.eq_of_getLsbD_eq fun l hl => ?_
  have ht : t.getLsbD l = voting c p neg l := h l hl
  rw [ht]
  unfold predMask voting laneOn
  cases neg <;> simp [hl]

/-- R65: with every result landed no BRV is predicted. -/
theorem predicted_quiet {s : State} (h : Quiet s) (p : BitVec 3) : predicted s p = false := by
  have hp : pendOf s.ctx (.predicate, p.toNat) = none := by simp [pendOf, h.covered]
  simp [predicted, predicateOut, hp, h.arrived, hasReg]

/-- R58, R65: the group in focus after the effect of a BRV that is not predicted, and its coulter entry updated. -/
def branched (s : State) (t : Mask) (rj tk : Addr) : State :=
  modG (coulterUpdate s s.ctx.pc s.ctx.exec t) fun g => { g with noPredict := false, ctx := brvPlain t rj tk g.ctx }

/-- R58, R61: what a BRV that is not predicted does: it pushes where there is room for what it pushes. -/
theorem brvBody_quiet {s : State} (h : Quiet s) {p : BitVec 3} {neg : Bool} {t : Mask}
    (ht : ∀ l < 32, laneOn t l = voting s.ctx p neg l) (taken : BitVec 24) (rejoin : BitVec 23) :
    brvBody p neg taken rejoin s.ctx s =
      if t ≠ 0 ∧ 256 ≤ s.ctx.stack.length then .error (.trap ⟨11, 0, 0, 0, none⟩)
      else .ok (settleStack (branched s t (s.ctx.pc + (rejoin.signExtend 72 <<< 1))
        (s.ctx.pc + (widened 72 24 s.ctx.prefixes taken <<< 1)))) := by
  unfold brvBody branched
  simp only [predicted_quiet h, predMask_eq ht, awaitResults_quiet h, toAddr_double, ofInt_widen (by omega : 0 < 24),
    ofInt_sextN (by omega : 0 < 23), Bool.false_eq_true, if_false]

/-- R58: the entries that a BRV pushes. -/
def pushedBy (t : Mask) (rj tk : Addr) (c : Ctx) : List StackEntry :=
  if t = 0 then [] else [⟨rj, tk, if c.exec &&& ~~~t = 0 then 0 else t, c.exec, c.fmt, 0⟩]

theorem pushedBy_inHardware {t : Mask} {rj tk : Addr} {c : Ctx} : ∀ e ∈ pushedBy t rj tk c, e.tag = 0 := by
  intro e he
  unfold pushedBy at he
  split at he
  · cases he
  · rw [List.mem_singleton.mp he]

theorem shown_pushedBy (t : Mask) (rj tk : Addr) (c : Ctx) : shown (pushedBy t rj tk c) = pushedBy t rj tk c := by
  unfold pushedBy
  split <;> rfl

theorem brvPlain_stack (t : Mask) (rj tk : Addr) (c : Ctx) : (brvPlain t rj tk c).stack = pushedBy t rj tk c ++ c.stack := by
  unfold brvPlain pushedBy
  split_ifs <;> rfl

/-- R58: the lanes that run after a BRV: those that were active, or those of them that fall through where there are any. -/
theorem brvPlain_exec (t : Mask) (rj tk : Addr) (c : Ctx) :
    (brvPlain t rj tk c).exec = c.exec ∨
      (brvPlain t rj tk c).exec = c.exec &&& ~~~t ∧ c.exec &&& ~~~t ≠ 0 := by
  unfold brvPlain
  split_ifs with _ hf
  · exact .inl rfl
  · exact .inl rfl
  · exact .inr ⟨rfl, hf⟩

/-- R58: where a BRV leaves the PC and EXEC, whatever its stack. -/
theorem brvPlain_eq (t : Mask) (rj tk : Addr) (c : Ctx) (l : List StackEntry) :
    { brvPlain t rj tk c with prefixes := [], stack := l } =
      let c' := { c with prefixes := [], stack := l }
      if t = 0 then { c' with pc := c.pc + 8 }
      else if c.exec &&& ~~~t = 0 then { c' with pc := tk }
      else { c' with pc := c.pc + 8, exec := c.exec &&& ~~~t } := by
  unfold brvPlain
  split_ifs <;> rfl

/-- R13: retirement of a branch with every result landed: its prefixes are used up. -/
theorem retireCtx_jump {inf : Info} {c0 c : Ctx} (hm : inf.marks = []) (hj : inf.jumps = true) (hx : inf.imx = none)
    (hl : inf.latency = 0) (hp : c.pend = []) : retireCtx inf c0 c = { c with prefixes := [] } := by
  rw [retireCtx, pendAfter_none (c := { c0 with pend := c.pend }) hp inf hl, hm, hj, hx, ← hp]
  rfl

/-- R13: an instruction whose body changes what it will, but leaves the group in focus at its place, unwindowed and clean. -/
theorem issue_retired {s s2 : State} (h : Quiet s) (i : Instr) (inf : Info) (body : Ctx → State → Except Halt State)
    (hp : inf.accepts = true ∨ s.ctx.prefixes = []) (hl : inf.ill = false) (hr : regsOk s inf = true)
    (hf : inf.first = none) (hb : body s.ctx s = .ok s2)
    (hg : s2.g = { s.g with ctx := s2.g.ctx, noPredict := s2.g.noPredict }) :
    ∃ t, issue i inf body s = .next t ∧ t.ctx = retireCtx inf s.ctx s2.ctx ∧
      t = { s2 with g := { s2.g with ctx := t.g.ctx, pmc := t.g.pmc, arriving := arrivingAfter inf s2.g.arriving } } := by
  refine ⟨_, issue_next h i inf body hp hl hr hf (by rw [hg]; exact h.unsuspected) hb, ?_⟩
  rw [retire_quiet (s := s) i inf (by rw [hg]) (by rw [hg]; exact h.noWindow) (by rw [hg]; exact h.cleanV)
    (by rw [hg]; exact h.cleanS)]
  refine ⟨?_, rfl⟩
  simp only [modG_ctx, modG_g, countEvt_ctx]
  rfl

/-- R58, R13: a BRV that is not predicted and finds room retires with its effect on the context and the coulter table. -/
theorem execBrv_retires {s : State} (h : Quiet s) {p : BitVec 3} {neg : Bool} {t : Mask}
    (ht : ∀ l < 32, laneOn t l = voting s.ctx p neg l) (taken : BitVec 24) (rejoin : BitVec 23)
    (hroom : t = 0 ∨ s.ctx.stack.length < 256) :
    let b := branched s t (s.ctx.pc + (rejoin.signExtend 72 <<< 1)) (s.ctx.pc + (widened 72 24 s.ctx.prefixes taken <<< 1))
    ∃ u, exec (.brv p neg taken rejoin) s = .next u ∧
      u = { s with g := { s.g with ctx := u.g.ctx, pmc := u.g.pmc, noPredict := false }, parts := u.parts } ∧
      u.ctx = { (settleStack b).ctx with prefixes := [] } := by
  intro b
  have hb : brvBody p neg taken rejoin s.ctx s = .ok (settleStack b) := by
    rw [brvBody_quiet h ht, if_neg fun hn => hroom.elim hn.1 (by omega)]
  have hpend : (settleStack b).ctx.pend = [] := by
    show (brvPlain t _ _ s.ctx).pend = []
    rw [← h.covered]
    unfold brvPlain
    split_ifs <;> rfl
  obtain ⟨u, hu, hc, hframe⟩ := issue_retired h (.brv p neg taken rejoin) (brvInfo p) (brvBody p neg taken rejoin) (.inl rfl)
    rfl rfl rfl hb rfl
  have ha : arrivingAfter (brvInfo p) (settleStack b).g.arriving = s.g.arriving := by
    show arrivingAfter (brvInfo p) s.g.arriving = _
    rw [h.arrived]
    rfl
  rw [ha] at hframe
  refine ⟨u, hu, ?_, hc.trans (retireCtx_jump rfl rfl rfl rfl hpend)⟩
  rw [hframe]
  rfl

/-- Settles O16: `execBrv_retires` gives the effect on the context, `settleStack` puts the stack in its place. -/
theorem divergentBranch : Obligations.DivergentBranch := by
  intro s p neg taken rejoin t h _ ht tk rj f
  refine ⟨fun hroom hpl => ?_, fun hn hfull => ?_⟩
  · obtain ⟨u, hu, hframe, hctx⟩ := execBrv_retires h ht taken rejoin hroom
    have hstack : u.ctx.stack = (settleStack (branched s t rj tk)).ctx.stack := by rw [hctx]
    have hexec : u.ctx.exec = (brvPlain t rj tk s.ctx).exec := by
      rw [hctx]
      rfl
    have hpushed : (branched s t rj tk).ctx.stack = pushedBy t rj tk s.ctx ++ s.ctx.stack := brvPlain_stack _ _ _ _
    refine ⟨u, hu, hframe, ?_, ?_, hstack ▸ settleStack_placed _, fun hst => ?_, ?_, fun he => ?_⟩
    · refine Eq.trans ?_ (brvPlain_eq t rj tk s.ctx u.ctx.stack)
      rw [hctx]
      rfl
    · rw [hstack, settleStack_pushed hpushed pushedBy_inHardware hpl, shown_pushedBy]
      rfl
    · have tagged : ∀ e ∈ (branched s t rj tk).ctx.stack, e.tag = 0 ∨ e.tag = groupTag (branched s t rj tk) := by
        intro e he
        rw [hpushed, List.mem_append] at he
        exact he.elim (fun hm => .inl (pushedBy_inHardware e hm)) hst.tagged
      rw [hstack, hframe]
      exact settleStack_stands tagged
    · rw [hexec]
      rcases brvPlain_exec t rj tk s.ctx with hx | ⟨hx, _⟩ <;> rw [hx]
      · exact BitVec.and_self
      · rw [BitVec.and_comm, ← BitVec.and_assoc, BitVec.and_self]
    · rw [hexec]
      rcases brvPlain_exec t rj tk s.ctx with hx | ⟨hx, hf⟩ <;> rw [hx]
      · exact he
      · exact hf
  · rw [exec_brv, issue_body h _ (brvInfo p) _ (.inl rfl) rfl rfl rfl, brvBody_quiet h ht, if_pos ⟨hn, hfull⟩]
    simp only [halted, trapOr, h.noWindow]
    rfl

end Sys2Proof.Machine
end

section
/-! SUPPORT. What the replay of logged instructions leaves of a group (R68): its path, and all but lanes, predicates and STATUS. -/

namespace Sys2Proof.Machine

/-- Of a context only vector registers, predicates, releases and STATUS change. -/
def OnlyLanes (c d : Ctx) : Prop := d = { c with v := d.v, p := d.p, released := d.released, status := d.status }

theorem OnlyLanes.refl (c : Ctx) : OnlyLanes c c := rfl

theorem OnlyLanes.trans {c d e : Ctx} (h : OnlyLanes c d) (k : OnlyLanes d e) : OnlyLanes c e := by
  unfold OnlyLanes
  rw [k, h]

theorem runLanes_onlyLanes (op : LaneOp) (f : LvF) (fmt : BitVec 32) (sc : SWord) (rc : Ctx) (m : Mask) (c : Ctx) :
    OnlyLanes c (runLanes op f fmt sc rc m c) := by
  unfold OnlyLanes
  rw [runLanes_frame]

theorem releaseMarks_onlyLanes (c : Ctx) (marks written : List Nat) : OnlyLanes c (releaseMarks c marks written) := by
  unfold OnlyLanes
  rw [releaseMarks_frame]

theorem replayLoad_onlyLanes {f : LmF} {rec : WinRec} {m fresh : Mask} {rd : Nat → Option (List Byte)} {c d : Ctx}
    (h : replayLoad f rec m fresh rd c = some d) : OnlyLanes c d := by
  unfold replayLoad at h
  split at h
  · cases h
    exact List.foldlRecOn _ _ (motive := OnlyLanes c) (.refl c) fun d hd k _ => hd.trans rfl
  · cases h

theorem applyRec_onlyLanes {s : State} {rec : WinRec} {m fresh : Mask} {d : Ctx} (h : applyRec s rec m fresh = some d) :
    OnlyLanes s.ctx d := by
  unfold applyRec at h
  dsimp only at h
  split at h
  · cases h
    exact (runLanes_onlyLanes _ _ _ _ _ _ _).trans (releaseMarks_onlyLanes _ _ _)
  · split at h
    · cases h
      exact .refl _
    · split at h
      · cases h
      next hl =>
        cases h
        exact (replayLoad_onlyLanes hl).trans (releaseMarks_onlyLanes _ _ _)

/-- The group in focus stays on its path: only lanes, predicates, releases, STATUS, poison and the replays themselves change. -/
structure SamePath (s t : State) : Prop where
  state : t = { s with g := t.g }
  group : t.g = { s.g with
    ctx := t.g.ctx, poisonV := t.g.poisonV, poisonS := t.g.poisonS, replay := t.g.replay, replayMask := t.g.replayMask
    replayNew := t.g.replayNew, undo := t.g.undo, replayOld := t.g.replayOld }
  ctx : OnlyLanes s.ctx t.ctx

namespace SamePath

variable {s t u : State}

theorem refl (s : State) : SamePath s s := ⟨rfl, rfl, .refl _⟩

theorem trans (h : SamePath s t) (k : SamePath t u) : SamePath s u where
  state := by rw [k.state, h.state]
  group := by rw [k.group, h.group]
  ctx := h.ctx.trans k.ctx

theorem window (h : SamePath s t) : t.g.window = s.g.window := by rw [h.group]

theorem exec (h : SamePath s t) : t.ctx.exec = s.ctx.exec := by rw [h.ctx]

theorem pc (h : SamePath s t) : t.ctx.pc = s.ctx.pc := by rw [h.ctx]

theorem scalars (h : SamePath s t) : t.ctx.s = s.ctx.s := by rw [h.ctx]

theorem addresses (h : SamePath s t) : t.ctx.a = s.ctx.a := by rw [h.ctx]

theorem stack (h : SamePath s t) : t.ctx.stack = s.ctx.stack := by rw [h.ctx]

theorem groupTag (h : SamePath s t) : groupTag t = groupTag s := by
  have hu : t.g.uid = s.g.uid := by rw [h.group]
  unfold Machine.groupTag
  rw [hu, h.state]
  rfl

end SamePath

theorem replayRec_samePath {s : State} {rec : WinRec} {m fresh : Mask} {g : Group} (h : replayRec s rec m fresh = some g) :
    SamePath s (modG s fun _ => g) := by
  unfold replayRec at h
  dsimp only at h
  split at h
  · cases h
  · obtain ⟨c, hc, rfl⟩ := Option.map_eq_some_iff.mp h
    exact ⟨rfl, rfl, applyRec_onlyLanes hc⟩

end Sys2Proof.Machine
end

section
/-! SUPPORT. The resolution of a window without deferred work, case by case (R68). -/

namespace Sys2Proof.Machine

/-- R65, R66: what every resolution does: the coulter entry is updated, a wrong guess counts. -/
def tallied (s : State) (w : Window) : State :=
  let s1 := coulterUpdate s w.brv w.mask w.truth
  if w.truth ≠ w.guess then modG s1 (countEvt evMaskMiss 1) else s1

theorem tallied_ctx (s : State) (w : Window) : (tallied s w).ctx = s.ctx := by
  unfold tallied
  dsimp only
  split <;> rfl

theorem tallied_groupTag (s : State) (w : Window) : groupTag (tallied s w) = groupTag s := by
  unfold tallied
  dsimp only
  split <;> rfl

/-- R68: the four cases, by the lanes that fall through and those that were taken to. -/
def resolvedAs (s : State) (w : Window) : State :=
  if w.mask &&& ~~~w.guess = 0 then (if w.mask &&& ~~~w.truth = 0 then windowCaseD s w else windowCaseBC s w)
  else if w.mask &&& ~~~w.truth = 0 then windowCaseBC s w
  else windowCaseA s w

/-- R70, R73: nothing that was not deferred stands. -/
theorem windowStands_zero (w : Window) : windowStands w 0 = false := by
  unfold windowStands
  dsimp only
  split <;> simp

/-- R68: the resolution of a window without deferred work, in whichever case; it writes no memory. -/
theorem execBrvResolution_eq {s t : State} {w : Window} (hw : s.g.window = some w) (hd : w.deferred = 0)
    (hds : w.deferredS = false) (hf : w.fallow = []) (ht : resolvedAs (tallied s w) w = t) :
    exec .brvResolution s = .next (settleStack t) ∧ (settleStack t).mem = s.mem := by
  have h : resolveWindow s = settleStack t := by
    rw [← ht, resolveWindow]
    congr 1
    unfold resolveStep
    rw [hw]
    simp only [hf, hd, hds, windowStands_zero, List.filter_nil, ite_self, List.isEmpty_nil, Bool.not_true, Bool.or_self,
      Bool.and_false, Bool.false_eq_true, if_false]
    rfl
  rw [← h]
  exact ⟨rfl, mem_of_memories (resolveWindow_memories s)⟩

/-- R68: the stack in case A: the entry holds the lanes that are taken, or goes. -/
def keptStack (truth : Mask) (l : List StackEntry) : List StackEntry :=
  match l with
  | [] => []
  | e :: rest => if truth = 0 then rest else { e with pending := truth } :: rest

theorem shown_keptStack (truth : Mask) (l : List StackEntry) : shown (keptStack truth l) = keptStack truth (shown l) := by
  cases l with
  | nil => rfl
  | cons e rest =>
    unfold keptStack
    dsimp only [shown, List.map_cons]
    split <;> rfl

/-- R54, R68: the entries that the stack of case A has in hardware come from hardware, or from the area under the key of now. -/
theorem keptStack_known {s : State} {truth : Mask} {l : List StackEntry} (hpl : StackPlaced l)
    (h : truth ≠ 0 ∨ StackStands s l) (i : Nat) (e : StackEntry) (he : (keptStack truth l)[i]? = some e) (hi : i < 16) :
    e.tag = 0 ∨ e.tag = groupTag s := by
  cases l with
  | nil => cases he
  | cons x rest =>
    by_cases ht : truth = 0
    · rw [keptStack, if_pos ht] at he
      exact (h.resolve_left (not_not_intro ht)).tagged (List.mem_cons_of_mem x (List.mem_of_getElem? he))
    · rw [keptStack, if_neg ht] at he
      exact .inl ((hpl.replaceTop (e' := { x with pending := truth }) rfl i e he).mpr hi)

/-- R68: case A before its replays: the vector writes of the window are gone, the true mask stands. -/
def windowRewound (s : State) (w : Window) : State :=
  let f := w.mask &&& ~~~w.truth
  let fresh := f &&& ~~~(w.mask &&& ~~~w.guess)
  modG s fun g =>
    { g with
      window := none
      ctx := { s.ctx with
        v := w.snap.v, p := w.snap.p, released := w.snap.released, exec := f, stack := keptStack w.truth s.ctx.stack
        status := (s.ctx.status &&& ~~~(0x100 : BitVec 64)) ||| (w.snap.status &&& 0x100)
        pend := landPred w (s.ctx.pend.map (standingPend w f fresh)) }
      poisonV := w.poisonV
      poisonS := (g.poisonS.filter fun e => e.1 / 256 != 3) ++ w.poisonS.filter fun e => e.1 / 256 == 3
      replay := w.log, replayMask := f, replayNew := fresh, replayOld := [], undo := some w }

/-- R68: the whole log of a window replayed at once, where no lane was wrongly omitted. -/
def logReplayed (l : List WinRec) (f : Mask) (s : State) : State :=
  l.foldl (fun acc rec => match replayRec acc rec f 0 with
    | some g => modG acc fun _ => g
    | none => acc) s

theorem windowCaseA_eq (s : State) (w : Window) :
    windowCaseA s w =
      let f := w.mask &&& ~~~w.truth
      let base := windowRewound s w
      if f &&& ~~~(w.mask &&& ~~~w.guess) = 0 then
        modG (logReplayed w.log f base) fun g =>
          { g with replay := [], replayMask := 0, replayNew := 0, replayOld := [], undo := none }
      else if w.log.isEmpty then modG base fun g => { g with replayMask := 0, replayNew := 0, undo := none }
      else base := rfl

theorem logReplayed_samePath (l : List WinRec) (f : Mask) (s : State) : SamePath s (logReplayed l f s) := by
  refine List.foldlRecOn l _ (motive := SamePath s) (.refl s) fun t ht rec _ => ?_
  split
  next hg => exact ht.trans (replayRec_samePath hg)
  next => exact ht

theorem windowCaseA_samePath (s : State) (w : Window) : SamePath (windowRewound s w) (windowCaseA s w) := by
  rw [windowCaseA_eq]
  dsimp only
  split
  · exact (logReplayed_samePath _ _ _).trans ⟨rfl, rfl, .refl _⟩
  · split
    · exact ⟨rfl, rfl, .refl _⟩
    · exact .refl _

/-- R68 case A: the stack says what the true mask makes of it. -/
theorem windowCaseA_shown {s : State} {w : Window} (hpl : StackPlaced s.ctx.stack)
    (h : w.truth ≠ 0 ∨ StackStands s s.ctx.stack) :
    shown (settleStack (windowCaseA s w)).ctx.stack = keptStack w.truth (shown s.ctx.stack) := by
  have path := windowCaseA_samePath s w
  have hs : (windowCaseA s w).ctx.stack = keptStack w.truth s.ctx.stack := path.stack
  have ht : groupTag (windowCaseA s w) = groupTag s := path.groupTag
  rw [settleStack_shown, hs, shown_keptStack]
  rw [hs, ht]
  exact keptStack_known hpl h

/-- R68 case A with lanes wrongly omitted: the log stands to be replayed. -/
theorem windowCaseA_pending {s : State} {w : Window}
    (hf : w.mask &&& ~~~w.truth &&& ~~~(w.mask &&& ~~~w.guess) ≠ 0) (hl : w.log ≠ []) :
    windowCaseA s w = windowRewound s w := by
  rw [windowCaseA_eq]
  dsimp only
  rw [if_neg hf, if_neg (by simpa using hl)]

/-- R68 case A without: nothing is left to be replayed. -/
theorem windowCaseA_done {s : State} {w : Window} (hf : w.mask &&& ~~~w.truth &&& ~~~(w.mask &&& ~~~w.guess) = 0) :
    (windowCaseA s w).g.replay = [] := by
  rw [windowCaseA_eq]
  dsimp only
  rw [if_pos hf]
  rfl

/-- R68, R71: the context to which cases B and C go back, as it stands after the BRV. -/
def backAtBrv (w : Window) : Ctx := { w.snap with pend := landPred w (agePend (loosen w.snap.pend)), prefixes := [] }

/-- R68 cases B and C: where the BRV goes under the true mask. -/
theorem windowCaseBC_ctx (s : State) (w : Window) :
    (windowCaseBC s w).ctx =
      let f := w.mask &&& ~~~w.truth
      if f = 0 then { backAtBrv w with exec := w.truth, pc := w.taken, stack := brvEntry w 0 :: w.snap.stack }
      else if w.truth = 0 then { backAtBrv w with exec := f, pc := w.brv + 8 }
      else { backAtBrv w with exec := f, pc := w.brv + 8, stack := brvEntry w w.truth :: w.snap.stack } := rfl

/-- R58, R68: a context into which the BRV has pushed its entry, once its stack is in its place. -/
theorem settleStack_brvEntry {s : State} {w : Window} {m : Mask} {c : Ctx}
    (hc : s.ctx = { c with stack := brvEntry w m :: w.snap.stack }) (hpl : StackPlaced w.snap.stack) :
    (settleStack s).ctx = { c with stack := (settleStack s).ctx.stack } ∧
      shown (settleStack s).ctx.stack = brvEntry w m :: shown w.snap.stack := by
  refine ⟨?_, settleStack_pushed (new := [brvEntry w m]) (by rw [hc]; rfl) (fun e he => ?_) hpl⟩
  · have h : (settleStack s).ctx = { s.ctx with stack := (settleStack s).ctx.stack } := rfl
    rw [hc] at h
    exact h
  · rw [List.mem_singleton.mp he]
    rfl

end Sys2Proof.Machine
end

section
/-! SUPPORT. One step of the replay of a window (R68), for a vector ALU instruction. -/

namespace Sys2Proof.Machine

theorem laneOn_guardUnder (c : Ctx) (g : Guard) (m : Mask) {l : Nat} (hl : l < 32) :
    laneOn (guardUnder c g m) l = (laneOn m l && (laneOn (c.readP g.pg.toNat) l != g.pn)) := by
  unfold guardUnder laneOn
  cases g.pn <;> simp [hl]

section
variable {s : State} {rec : WinRec} {op : LaneOp} {f : LvF} (hi : laneInstr rec.instr = some (op, f))
include hi

/-- R161: a vector ALU instruction asks no memory for anything. -/
theorem replayAsks_lane (m : Mask) : replayAsks s rec m = s := by
  unfold replayAsks
  dsimp only
  split
  case h_5 => rfl
  all_goals
    next he =>
      rw [he] at hi
      cases hi

/-- R68: the group after the replay of a vector ALU instruction without marks, which read every register as it stands. -/
theorem replayRec_lane (hm : lvMarks op f = []) (hv : s.g.poisonV = []) (ho : rec.olds = []) (m fresh : Mask) :
    ∃ g, replayRec s rec m fresh = some g ∧
      g.ctx = runLanes op f rec.fmt rec.scalar s.ctx (guardUnder s.ctx f.g m) s.ctx := by
  have hview : recView s.g rec fresh = s.ctx := by
    rw [recView, ho]
    rfl
  have hguard : recGuard rec.instr = f.g := by
    unfold recGuard
    rw [hi]
  have happly : applyRec s rec m fresh =
      some (runLanes op f rec.fmt rec.scalar s.ctx (guardUnder s.ctx f.g m) s.ctx) := by
    simp only [applyRec, hview, hguard, hi, hm, releaseMarks_nil]
  have hclean (regs : List Nat) (k : Mask) : poisonedLanes s.g regs k = false := by simp [poisonedLanes, hv, mget]
  have hmap : (replayRec s rec m fresh).map (·.ctx) =
      some (runLanes op f rec.fmt rec.scalar s.ctx (guardUnder s.ctx f.g m) s.ctx) := by
    unfold replayRec
    dsimp only
    rw [hclean, happly]
    rfl
  exact Option.map_eq_some_iff.mp hmap

end

end Sys2Proof.Machine
end

section
/-! PROOFS. The resolution of a speculation window and the replay of its log (R68). -/

namespace Sys2Proof.Machine

/-- R68: one replayed vector ALU instruction of a group that nothing has upset. -/
theorem replayStep_lane {s : State} {rec : WinRec} {rest : List WinRec} {op : LaneOp} {f : LvF} (hr : s.g.replay = rec :: rest)
    (hi : laneInstr rec.instr = some (op, f)) (hm : lvMarks op f = []) (hu : s.g.upset = 0) (hv : s.g.poisonV = [])
    (ho : rec.olds = []) :
    (replayStep s).g.replay = rest ∧
      (replayStep s).ctx = runLanes op f rec.fmt rec.scalar s.ctx (guardUnder s.ctx f.g s.g.replayMask) s.ctx := by
  obtain ⟨g, hg, hctx⟩ := replayRec_lane hi hm hv ho s.g.replayMask s.g.replayNew
  rw [← hctx]
  unfold replayStep
  rw [hr]
  dsimp only
  have sound (checked : Mask) : ¬(checked &&& 0 ≠ 0) := not_not_intro BitVec.and_zero
  rw [hg, hu]
  dsimp only
  rw [if_neg (sound _), replayAsks_lane hi]
  cases rest <;> exact ⟨rfl, rfl⟩

/-- Settles O18: `execBrvResolution_eq` gives the four cases, `settleStack` puts the stack in its place after each;
`replayStep_lane` is the step of a replay. -/
theorem windowResolution : Obligations.WindowResolution := by
  refine ⟨fun s w hw hd hds hfl hpl hsnap => ?_, fun s rec rest op f hr hi hm hu hv ho => ?_⟩
  · intro f
    have hctx := tallied_ctx s w
    have hpl' : StackPlaced (tallied s w).ctx.stack := by rwa [hctx]
    have resolve {t : State} (ht : resolvedAs (tallied s w) w = t) := execBrvResolution_eq hw hd hds hfl ht
    refine ⟨fun hg hf => ?_, fun hg hf ht => ?_, fun hg hf ht => ?_, fun hg hf ht => ?_, fun hg hf => ?_⟩
    · obtain ⟨hex, hmem⟩ := resolve ((if_pos hg).trans (if_pos hf))
      have hs : settleStack (windowCaseD (tallied s w) w) = windowCaseD (tallied s w) w := settleStack_of_placed hpl'
      rw [hs] at hex hmem
      refine ⟨_, hex, rfl, hmem, ?_⟩
      rw [← hctx]
      rfl
    · obtain ⟨hex, hmem⟩ := resolve ((if_neg hg).trans (if_pos hf))
      exact ⟨_, hex, rfl, hmem, settleStack_brvEntry (c := { backAtBrv w with exec := w.truth, pc := w.taken })
        ((windowCaseBC_ctx _ w).trans (if_pos hf)) hsnap⟩
    · obtain ⟨hex, hmem⟩ := resolve ((if_pos hg).trans (if_neg hf))
      exact ⟨_, hex, rfl, hmem, settleStack_brvEntry (c := { backAtBrv w with exec := f, pc := w.brv + 8 })
        ((windowCaseBC_ctx _ w).trans ((if_neg hf).trans (if_neg ht))) hsnap⟩
    · obtain ⟨hex, hmem⟩ := resolve ((if_pos hg).trans (if_neg hf))
      have hc := (windowCaseBC_ctx (tallied s w) w).trans ((if_neg hf).trans (if_pos ht))
      have hplaced : StackPlaced (windowCaseBC (tallied s w) w).ctx.stack := by
        rw [hc]
        exact hsnap
      rw [settleStack_of_placed hplaced] at hex hmem
      exact ⟨_, hex, rfl, hmem, hc⟩
    · obtain ⟨hex, hmem⟩ := resolve ((if_neg hg).trans (if_neg hf))
      have path := windowCaseA_samePath (tallied s w) w
      have kept {α : Type} (field : Ctx → α) : field (tallied s w).ctx = field s.ctx := congrArg field hctx
      refine ⟨_, hex, path.window, hmem, path.exec, path.pc.trans (kept Ctx.pc), path.scalars.trans (kept Ctx.s),
        path.addresses.trans (kept Ctx.a), fun hst => ?_, fun hn hl => ?_, windowCaseA_done⟩
      · rw [← hctx]
        refine windowCaseA_shown hpl' (hst.imp_right fun h => ?_)
        rw [hctx]
        intro i e he
        exact (h i e he).trans (congrArg (ite (i < 16) 0) (tallied_groupTag s w).symm)
      · rw [windowCaseA_pending hn hl]
        exact ⟨rfl, rfl, rfl, rfl, rfl, rfl⟩
  · obtain ⟨hrep, hctx⟩ := replayStep_lane hr hi hm hu hv ho
    refine ⟨replayStep s, rfl, hrep, mem_of_memories (replayStep_memories s), ?_, fun r l hl => ?_⟩
    · rw [hctx, runLanes_frame]
    · rw [hctx, runLanes_lane _ _ _ _ _ _ _ r hl, laneOn_guardUnder _ _ _ hl]
      simp only [Bool.and_eq_true]

end Sys2Proof.Machine
end

section
/-! SUPPORT. What reads ask of the caches, and what stores make a die fetch (R137, R138, R146, R147, R152, R170): nothing but
cores, dies, messages and the requests at the pseudo-channels changes. -/

namespace Sys2Proof.Machine

/-- Nothing but caches, and what is on its way to fill them, differs. -/
def OnlyCaches (s t : State) : Prop :=
  t = { s with cores := t.cores, dies := t.dies, msgs := t.msgs, chan := t.chan }

namespace OnlyCaches

variable {s t u : State}

theorem refl (s : State) : OnlyCaches s s := rfl

theorem trans (a : OnlyCaches s t) (b : OnlyCaches t u) : OnlyCaches s u := by
  rw [OnlyCaches, b, a]

/-- Of a loop each of whose rounds changes caches alone. -/
theorem foldl {α : Type} (s : State) (l : List α) {f : State → α → State} (h : ∀ t x, OnlyCaches t (f t x)) :
    OnlyCaches s (l.foldl f s) :=
  List.foldlRecOn l f (motive := OnlyCaches s) (refl s) fun t ht x _ => ht.trans (h t x)

theorem g (h : OnlyCaches s t) : t.g = s.g := by rw [h]

theorem blk (h : OnlyCaches s t) : t.blk = s.blk := by rw [h]

theorem parts (h : OnlyCaches s t) : t.parts = s.parts := by rw [h]

end OnlyCaches

theorem fetchSector_onlyCaches (die leaf : Nat) (excl : Bool) (s : State) (sector : Nat) :
    OnlyCaches s (fetchSector die leaf excl s sector) := rfl

theorem takeSlot_onlyCaches (s : State) (core : Nat) (x : MissReq) : OnlyCaches s (takeSlot s core x) := by
  unfold takeSlot
  dsimp only
  split <;> rfl

theorem askSector_onlyCaches (s : State) (core owner leaf sector : Nat) :
    OnlyCaches s (askSector s core owner leaf sector) := by
  unfold askSector
  dsimp only
  split
  · rfl
  split
  · rfl
  split
  · exact takeSlot_onlyCaches _ _ _
  · rfl

theorem askWalk_onlyCaches (s : State) (core vf : Nat) (va : Addr) : OnlyCaches s (askWalk s core vf va) := by
  unfold askWalk
  dsimp only
  split <;> rfl

theorem askWalks_onlyCaches (s : State) (core vf : Nat) (l : List Acc) : OnlyCaches s (askWalks s core vf l) :=
  .foldl s l fun _ _ => askWalk_onlyCaches _ _ _ _

theorem queueMisses_onlyCaches (s : State) (core owner : Nat) (l : List Acc) :
    OnlyCaches s (queueMisses s core owner l) := by
  refine .foldl s l fun t a => ?_
  split <;> rfl

theorem fetchSectors_onlyCaches (s : State) (core : Nat) (excl : Bool) (l : List Acc) :
    OnlyCaches s (fetchSectors s core excl l) := by
  refine .foldl s _ fun t x => ?_
  split <;> rfl

theorem holdSectors_onlyCaches (s : State) (core : Nat) (excl : Bool) (l : List Acc) :
    OnlyCaches s (holdSectors s core excl l) :=
  .foldl s _ fun t _ => fetchSector_onlyCaches _ _ _ t _

/-- R137, R138, R146: the reads of an instruction or of a furrow. -/
theorem readFor_onlyCaches (s : State) (core vf owner : Nat) (acq : Bool) (l : List Acc) :
    OnlyCaches s (readFor s core vf owner acq l) :=
  (((askWalks_onlyCaches s core vf l).trans (.foldl _ _ fun _ _ => askSector_onlyCaches _ _ _ _ _)).trans
    (holdSectors_onlyCaches _ core false _)).trans rfl

theorem furrowAsks_onlyCaches (s : State) (core : Nat) (f : Furrow) (l : List Addr) :
    OnlyCaches s (furrowAsks s core f l) := readFor_onlyCaches _ _ _ _ _ _

/-- R137, R205: the reads of a command or a plan by the group in focus, which may be due to be swapped out for them. -/
theorem askPieces_frame (s : State) (l : List (Option (BitVec 5) × Addr)) :
    let t := askPieces s l
    t = { s with
      g := { s.g with swapDue := t.g.swapDue }
      cores := t.cores, dies := t.dies, msgs := t.msgs, chan := t.chan } := by
  have h := readFor_onlyCaches s s.blk.core s.blk.vf (ownerKey s.blk.uid s.g.slot) false (accesses s s.blk.core s.blk.vf l)
  unfold askPieces askSectors
  generalize readFor s s.blk.core s.blk.vf (ownerKey s.blk.uid s.g.slot) false (accesses s s.blk.core s.blk.vf l) = u at h ⊢
  dsimp only
  split
  · rw [h.g]
    exact h
  · rw [h]
    rfl

end Sys2Proof.Machine
end

section
/-! SUPPORT. The issue of an instruction by the owner of a running furrow (R90), which nothing else stands in the way of, and the
retirement of an instruction that begins or ends a furrow. -/

namespace Sys2Proof.Machine

/-- Of a group nothing differs but the furrow that it owns, how it runs, its context and whether it is due to be swapped out. -/
def OnlyMode (g h : Group) : Prop :=
  h = { g with fown := h.fown, run := h.run, parked := h.parked, ctx := h.ctx, swapDue := h.swapDue }

/-- R13: an instruction of a group without poison, window, upset and held mismatch retires, whatever its body has made of the
group's furrow. -/
theorem finish_retired {s s2 : State} {owns : Bool} (h : Quiet { s with g := { s.g with fown := owns } }) (i : Instr) (inf : Info)
    (hg : OnlyMode s.g s2.g) : ∃ t, finish i inf s.ctx s s2 = .next t ∧ t.ctx = retireCtx inf s.ctx s2.ctx ∧
      t = { s2 with g := { s2.g with ctx := t.g.ctx, pmc := t.g.pmc, arriving := t.g.arriving } } := by
  have hsuspects : s2.g.suspects = [] := by
    rw [hg]
    exact h.unsuspected
  have hupset : s.g.upset = 0 := h.sound
  have hsettled : (modG (retire i inf s.ctx s s2) (countEvt evFallow (popMask (fallowOf s.ctx inf)))).g.suspects = [] := by
    simp [retire_suspects, hsuspects]
  refine ⟨modG (retire i inf s.ctx s s2) (countEvt evFallow (popMask (fallowOf s.ctx inf))), ?_, ?_⟩
  · simp [finish, hupset, settle_clean hsettled]
  · rw [retire_quiet (s := s) i inf (by rw [hg]) (by rw [hg]; exact h.noWindow) (by rw [hg]; exact h.cleanV)
      (by rw [hg]; exact h.cleanS)]
    refine ⟨?_, rfl⟩
    simp only [modG_ctx, modG_g, countEvt_ctx]
    rfl

/-- R13: what retirement makes of the context of an instruction of 4 bytes without marks, jump and latency. -/
theorem retireCtx_stepped {inf : Info} {c0 c : Ctx} (hm : inf.marks = []) (hj : inf.jumps = false) (hx : inf.imx = none)
    (hl : inf.latency = 0) (hn : inf.size = 4) (hc : c.pc = c0.pc) (hp : c.pend = []) :
    retireCtx inf c0 c = stepped 4 [] c0 c := by
  rw [retireCtx, pendAfter_none (c := { c0 with pend := c.pend }) hp inf hl]
  simp only [hm, releaseMarks_nil, hj, hx, hn, hc, Bool.false_eq_true, if_false]
  rfl

theorem ownerBarred_furrow {s : State} {inf : Info} (hi : inf.furrow = 2) (hp : s.ctx.prefixes = []) :
    ownerBarred s inf = false := by
  simp [ownerBarred, ownerMay, hi, hp]

/-- R211: what the result of an instruction's body comes to, where the instruction has read the context as it stands. -/
def concluded (i : Instr) (inf : Info) (s : State) : Except Halt State → Host.Outcome State Fault Refusal
  | .error e => halted s i inf e
  | .ok s2 => finish i inf s.ctx s s2

/-- R90: an instruction that the owner of a furrow may always issue runs its body on the context as it stands. -/
theorem issue_owner {s : State} (h : QuietOwner s) (i : Instr) (inf : Info) (body : Ctx → State → Except Halt State)
    (hi : inf.furrow = 2) (hp : s.ctx.prefixes = []) (hl : inf.ill = false) (hr : regsOk s inf = true)
    (hf : inf.first = none) :
    issue i inf body s = concluded i inf s (body s.ctx s) := by
  have q := h.2
  have hpend : s.ctx.pend = [] := q.covered
  have hwindow : s.g.window = none := q.noWindow
  have hfill : fillWaits s inf = false := fillWaits_quiet q inf
  have hnames : namesArriving s.g inf = false := namesArriving_quiet q inf
  have hdiv : (getPart s (myPart s)).divQueue = [] := q.divided
  have hsf : (getPart s (myPart s)).sfQueue = [] := q.settled
  have hclean (m : Mask) : poisonRead s inf m = false := poisonRead_clean q.cleanV q.cleanS inf m
  have hlive : (if statusChk s.ctx.status then relRead s.ctx inf else none) = none := relRead_quiet q inf
  have hawait : awaitResults s inf = s := by
    simp only [awaitResults, hdiv, hsf, landThrough_nil, hnames]
    simp
  unfold issue
  simp only [ownerBarred_furrow hi hp, hwindow, Option.isSome_none, Bool.false_and, Bool.not_true, Bool.false_eq_true, if_false,
    refusedPrefix_none (.inr hp), hl, hr, hf, Bool.or_self, hlive, stallRead_covered hpend, ite_self,
    hfill, longOperand, hnames, hclean, hawait, viewOf_covered hpend]
  cases body s.ctx s <;> rfl

/-- R90, R13: an instruction of 4 bytes that the owner of a furrow may always issue, and whose body ends well, retires. -/
theorem issue_owner_steps {s s2 : State} (h : QuietOwner s) (i : Instr) (inf : Info) (body : Ctx → State → Except Halt State)
    (hp : s.ctx.prefixes = []) (hill : inf.ill = false) (hr : regsOk s inf = true)
    (hinf : inf = { size := 4, reads := inf.reads, writes := inf.writes, furrow := 2, ill := inf.ill })
    (hb : body s.ctx s = .ok s2)
    (hg : OnlyMode s.g s2.g)
    (hpc : s2.ctx.pc = s.ctx.pc) (hpend : s2.ctx.pend = []) :
    ∃ t, issue i inf body s = .next t ∧ t.ctx = stepped 4 [] s.ctx s2.ctx ∧ t.g.fown = s2.g.fown ∧ t.mem = s2.mem ∧
      t.parts = s2.parts := by
  obtain ⟨t, ht, hctx, hframe⟩ := finish_retired h.2 i inf hg
  refine ⟨t, ?_, ?_, by rw [hframe], by rw [hframe], by rw [hframe]⟩
  · rw [issue_owner h i inf body (by rw [hinf]) hp hill hr (by rw [hinf]), hb]
    exact ht
  · rw [hctx]
    exact retireCtx_stepped (by rw [hinf]) (by rw [hinf]) (by rw [hinf]) (by rw [hinf]) (by rw [hinf]) hpc hpend

/-- R13: the same context where nothing is on its way and no prefixes stand. -/
theorem stepped_eq {c0 c : Ctx} (hpend : c.pend = []) (hp : c.prefixes = []) : stepped 4 [] c0 c = { c with pc := c0.pc + 4 } := by
  unfold stepped
  rw [← hpend, ← hp]
  rfl

end Sys2Proof.Machine
end

section
/-! SUPPORT. The end of a furrow at its owner (R91): the partition holds none, the owner owns none, and its FSTAT keeps the counts
and loses ACT. -/

namespace Sys2Proof.Machine

theorem updGroup_g_of_at {s : State} {uid slot : Nat} (h : s.g.isAt uid slot = true) (f : Group → Group) :
    (updGroup s uid slot f).g = f s.g := if_pos h

theorem findGroup_focus {s : State} {uid slot : Nat} (h : s.g.isAt uid slot = true) : findGroup s uid slot = s.g := by
  simp [findGroup, h]

theorem isAt_self (g : Group) : g.isAt g.uid g.slot = true := by simp [Group.isAt]

/-- R91: unparking changes nothing else of the group in focus. -/
theorem unpark_g (s : State) : (unpark s).g = { s.g with parked := (unpark s).g.parked } := by
  have cases : (unpark s).g = s.g ∨ (unpark s).g = { s.g with parked := false } := by
    unfold unpark modGroups
    dsimp only
    repeat' split
    all_goals simp only [true_or, or_true]
  rcases cases with h | h <;> rw [h]

theorem unpark_ctx (s : State) : (unpark s).ctx = s.ctx := by
  unfold State.ctx
  rw [unpark_g]

/-- R91: a group that owns a furrow no more. -/
def Group.leftFurrow (g : Group) : Group := { g with fown := false, ctx := { g.ctx with fstat := fstatEnd g.ctx.fstat } }

/-- R91: the end of a furrow: its partition, its owner and the recorded faults change, then groups are unparked. -/
theorem killFurrow_eq {s : State} {k : Nat} {f : Furrow} (hf : (getPart s k).furrow = some f) :
    ∃ l, killFurrow s k =
      unpark { updGroup (modPart s k fun p => { p with furrow := none }) f.uid f.slot Group.leftFurrow with faults := l } := by
  unfold killFurrow
  rw [hf]
  exact ⟨_, rfl⟩

/-- The furrow that a partition is given. -/
theorem getPart_modPart_furrow (s : State) (k : Nat) (o : Option Furrow) :
    (getPart (modPart s k fun p => { p with furrow := o }) k).furrow = o :=
  congrArg Part.furrow (getPart_modPart_self s k fun p => { p with furrow := o })

/-- R91: a partition whose furrow has ended holds none. -/
theorem killFurrow_furrow {s : State} {k : Nat} {f : Furrow} (hf : (getPart s k).furrow = some f) :
    (getPart (killFurrow s k) k).furrow = none := by
  obtain ⟨l, h⟩ := killFurrow_eq hf
  rw [h]
  exact getPart_modPart_furrow s k none

/-- R91: what the end of its furrow leaves of the owner in focus. -/
theorem killFurrow_owner {s : State} {k : Nat} {f : Furrow} (hf : (getPart s k).furrow = some f)
    (hat : s.g.isAt f.uid f.slot = true) :
    (killFurrow s k).g = { s.g.leftFurrow with parked := (killFurrow s k).g.parked } := by
  obtain ⟨l, h⟩ := killFurrow_eq hf
  have hg : ({ updGroup (modPart s k fun p => { p with furrow := none }) f.uid f.slot Group.leftFurrow with faults := l } :
      State).g = s.g.leftFurrow := updGroup_g_of_at hat _
  rw [h, unpark_g, hg]

theorem killFurrow_ctx {s : State} {k : Nat} {f : Furrow} (hf : (getPart s k).furrow = some f)
    (hat : s.g.isAt f.uid f.slot = true) : (killFurrow s k).ctx = { s.ctx with fstat := fstatEnd s.ctx.fstat } := by
  unfold State.ctx
  rw [killFurrow_owner hf hat]
  rfl

/-- R86: ACT stands above the count of errors. -/
theorem fstatEnd_count (x : BitVec 64) : (fstatEnd x).toNat % 2 ^ 32 = x.toNat % 2 ^ 32 := by
  have h : (fstatEnd x).setWidth 32 = x.setWidth 32 := by
    rw [fstatEnd, BitVec.setWidth_and, show (~~~(BitVec.ofNat 64 (2 ^ 36))).setWidth 32 = BitVec.allOnes 32 by decide,
      BitVec.and_allOnes]
  simpa using congrArg BitVec.toNat h

/-- R91: what FRWOFF makes of its owner's context: the count of errors stands in sD, ERRF tells of it where the plan does not have
FRWERR raised for it. -/
def frwoffCtx (f : Furrow) (d : Nat) (c : Ctx) : Ctx :=
  let w := c.writeS d (BitVec.ofNat 64 (c.fstat.toNat % 2 ^ 32))
  { w with status := setErrf w.status (w.fstat.toNat % 2 ^ 32 != 0 && !f.plan.flags.getLsbD 0) }

/-- R91: the same after the furrow's end, in terms of the context before it. -/
theorem frwoffCtx_ended (f : Furrow) (d : Nat) (c : Ctx) :
    frwoffCtx f d { c with fstat := fstatEnd c.fstat } =
      { c.writeS d (BitVec.ofNat 64 (c.fstat.toNat % 2 ^ 32)) with
        fstat := fstatEnd c.fstat
        status := setErrf c.status (c.fstat.toNat % 2 ^ 32 != 0 && !f.plan.flags.getLsbD 0) } := by
  unfold frwoffCtx
  simp only [Ctx.writeS_status, Ctx.writeS_fstat, fstatEnd_count]
  unfold Ctx.writeS
  by_cases hd : d = 0
  · simp only [hd, if_true]
  · simp only [hd, if_false]

/-- R91: what FRWOFF at a furrow whose sinks are drained leaves of the owner in focus. -/
theorem frwoffDone_owner {s : State} {k : Nat} {f : Furrow} (hf : (getPart s k).furrow = some f)
    (hat : s.g.isAt f.uid f.slot = true) (d : Nat) :
    (frwoffDone s k f d).g = { s.g with
      fown := false, run := .ready, ctx := frwoffCtx f d { s.ctx with fstat := fstatEnd s.ctx.fstat }
      parked := (killFurrow s k).g.parked } := by
  have hown := killFurrow_owner hf hat
  have hat' : (killFurrow s k).g.isAt f.uid f.slot = true := by
    rw [hown]
    exact hat
  refine (updGroup_g_of_at hat' _).trans ?_
  rw [hown]
  rfl

/-- R91: FRWOFF raises no error without counted errors, or where the plan does not ask for it. -/
theorem frwoffErr_false {s : State} {f : Furrow} (hat : s.g.isAt f.uid f.slot = true)
    (h : s.ctx.fstat.toNat % 2 ^ 32 = 0 ∨ f.plan.flags.getLsbD 0 = false) : frwoffErr s f = false := by
  rw [frwoffErr, findGroup_focus hat]
  rcases h with h | h
  · show ((s.ctx.fstat.toNat % 2 ^ 32 != 0) && _) = false
    rw [h]
    rfl
  · rw [h, Bool.and_false]

theorem frwoffDone_furrow {s : State} {k : Nat} {f : Furrow} (hf : (getPart s k).furrow = some f) (d : Nat) :
    (getPart (frwoffDone s k f d) k).furrow = none := killFurrow_furrow hf

end Sys2Proof.Machine
end

section
/-! PROOFS. FRWON, FRWOFF, FRWKILL and FRWDEP (R87, R88, R89, R91, R289). -/

namespace Sys2Proof.Machine

theorem putFurrow_furrow (s : State) (k : Nat) (f : Furrow) :
    (getPart (putFurrow s k f) k).furrow = some { f with idle := 0 } := getPart_modPart_furrow s k _

/-- R87, R89: the owner is not among the groups that it parks. -/
theorem parkOthers_g {s : State} {uid slot : Nat} (h : s.g.isAt uid slot = true) (core part : Nat) :
    (parkOthers s core part uid slot).g = s.g := by
  unfold parkOthers modGroups
  simp [h]

/-- R87, R89: a group of the resident block in focus that stands in the partition is parked. -/
theorem parkOthers_parked {s : State} {part uid slot : Nat} (hr : s.blk.phase = .resident) {g : Group}
    (hg : g ∈ (parkOthers s s.blk.core part uid slot).groups) (hu : g.uid = s.blk.uid) (hp : g.part = part)
    (hat : g.isAt uid slot = false) (hrun : g.run ≠ .absent) : g.parked = true := by
  obtain ⟨g0, -, rfl⟩ := List.mem_map.mp hg
  dsimp only at hu hp hat hrun ⊢
  split
  · rfl
  · rename_i hstay
    rw [if_neg hstay] at hu hp hat hrun
    refine absurd ?_ hstay
    rw [findBlk_focus hu.symm]
    simp [hr, hp, hat, hrun]

theorem Quiet.askPieces {s : State} (h : Quiet s) (l : List (Option (BitVec 5) × Addr)) : Quiet (askPieces s l) := by
  have hframe := askPieces_frame s l
  dsimp only at hframe
  rw [hframe]
  exact ⟨h.notOwner, h.noWindow, h.covered, h.filled, h.noSpill, h.cleanV, h.cleanS, h.divided, h.settled, h.sound,
    h.unsuspected, h.arrived, h.live⟩

/-- R87: a plan that passes its checks, in a partition without a furrow, is loaded for the group in focus. -/
theorem frwonBody_loads {s : State} {n : BitVec 4} {p : Plan} (h : Quiet s) (ha : (s.ctx.readA n.toNat).toNat % 16 = 0)
    (hv : validPlan s (s.ctx.readA n.toNat) s.ctx = .ok p) (hfree : furrowHeld s s.blk.core s.g.part = false) :
    ∃ t, frwonBody n s.ctx s = .ok t ∧
      t.g = { s.g with fown := true, ctx := { s.ctx with fstat := fstatAct }, swapDue := t.g.swapDue } ∧
      t.mem = s.mem ∧ t.blk = s.blk ∧
      (getPart t (myPart s)).furrow = some (loadedFurrow s.g.uid s.g.slot (s.ctx.readA n.toNat) s.ctx p) ∧
      ∀ g ∈ t.groups, g.uid = s.blk.uid → s.blk.phase = .resident → g.part = s.g.part →
        g.isAt s.g.uid s.g.slot = false → g.run ≠ .absent → g.parked = true := by
  generalize hl : cmdPieces (s.ctx.readA n.toNat) (planBytes p.ns p.nq p.nt) = l
  have hmem : (askPieces s l).mem = s.mem := mem_of_memories (askPieces_memories s l)
  have hframe := askPieces_frame s l
  have hquiet := h.askPieces l
  have hbody : frwonBody n s.ctx s = .ok (modG (parkOthers (putFurrow (askPieces s l) (myPart s)
      (loadedFurrow s.g.uid s.g.slot (s.ctx.readA n.toNat) s.ctx p)) s.blk.core s.g.part s.g.uid s.g.slot)
      fun g => { g with fown := true, ctx := { g.ctx with fstat := fstatAct } }) := by
    simp only [frwonBody, cmdAligned, ha, if_true, hv, hfree, Bool.false_eq_true, if_false, hl, awaitResults_quiet hquiet,
      viewOf_covered h.covered]
  generalize askPieces s l = u at hmem hframe hbody
  dsimp only at hframe
  have hblk : u.blk = s.blk := by rw [hframe]
  have hg : u.g = { s.g with swapDue := u.g.swapDue } := congrArg State.g hframe
  have hat : u.g.isAt s.g.uid s.g.slot = true := by
    rw [hg]
    exact isAt_self s.g
  have hparked := parkOthers_g (s := putFurrow u (myPart s) (loadedFurrow s.g.uid s.g.slot (s.ctx.readA n.toNat) s.ctx p)) hat
    s.blk.core s.g.part
  refine ⟨_, hbody, ?_, hmem, hblk, ?_, fun g hgs hu hr hp hne hrun => ?_⟩
  · rw [modG_g, hparked]
    show { u.g with fown := true, ctx := { u.g.ctx with fstat := fstatAct } } = _
    rw [hg]
    rfl
  · exact putFurrow_furrow u (myPart s) _
  · rw [← hblk] at hu hr hgs
    exact parkOthers_parked (s := putFurrow u (myPart s) _) hr hgs hu hp hne hrun

/-- R87, R13: FRWON of a plan that passes its checks makes its group the owner, with ACT alone in FSTAT. -/
theorem frwon_retires {s : State} {n : BitVec 4} {p : Plan} (h : Quiet s) (hp : s.ctx.prefixes = [])
    (ha : (s.ctx.readA n.toNat).toNat % 16 = 0) (hv : validPlan s (s.ctx.readA n.toNat) s.ctx = .ok p)
    (hfree : furrowHeld s s.blk.core s.g.part = false) :
    ∃ t f, exec (.frwon n) s = .next t ∧ t.g.fown = true ∧
      t.ctx = { passed s with fstat := 0x1000000000 } ∧ t.mem = s.mem ∧ t.blk = s.blk ∧
      (getPart t (myPart s)).furrow = some f ∧ f.uid = s.g.uid ∧ f.slot = s.g.slot ∧ f.plan = p ∧ f.fmt = s.ctx.fmt ∧
      f.step = 0 ∧ f.suspended = false ∧ f.drained = [] ∧
      (∀ g ∈ t.groups, g.uid = s.blk.uid → s.blk.phase = .resident → g.part = s.g.part →
        g.isAt s.g.uid s.g.slot = false → g.run ≠ .absent → g.parked = true) := by
  obtain ⟨u, hbody, hg, hmem, hblk, hfurrow, hparked⟩ := frwonBody_loads h ha hv hfree
  obtain ⟨t, ht, hctx, hframe⟩ := finish_retired (owns := s.g.fown) (s2 := u) h (.frwon n)
    { size := 4, reads := [(.address, n.toNat)], closes := true } (by rw [OnlyMode, hg])
  have hexec : exec (.frwon n) s = .next t := by
    refine (issue_body h _ _ _ (.inr hp) rfl rfl rfl).trans ?_
    rw [hbody]
    exact ht
  have hc : u.ctx = { s.ctx with fstat := fstatAct } := congrArg Group.ctx hg
  refine ⟨t, loadedFurrow s.g.uid s.g.slot (s.ctx.readA n.toNat) s.ctx p, hexec,
    ?_, ?_, ?_, ?_, ?_, rfl, rfl, rfl, rfl, rfl, rfl, rfl, ?_⟩
  · rw [hframe, hg]
  · rw [hctx, retireCtx_stepped rfl rfl rfl rfl rfl, hc]
    · rfl
    · rw [hc]
    · rw [hc]
      exact h.covered
  · rw [hframe, ← hmem]
  · rw [hframe, ← hblk]
  · rw [hframe]
    exact hfurrow
  · rw [hframe]
    exact hparked

section
variable {s : State} {f : Furrow} (h : QuietOwner s) (hp : s.ctx.prefixes = [])
include h

theorem notOwner_owner : notOwner s = false := by simp [notOwner, h.1]

include hp

/-- R91: FRWDEP retires with its answer in a condition register, whatever it has recorded in the partition. -/
theorem frwdep_steps {u : State} {c : BitVec 3} {q a : BitVec 6} {ok : Bool}
    (hb : frwdepBody c q.toNat (s.ctx.readS a.toNat).toNat s = .ok (modCtx u fun ctx => ctx.writeC c.toNat ok))
    (hg : u.g = s.g) :
    ∃ t, exec (.frwdep c q a) s = .next t ∧ t.ctx = { (passed s).writeC c.toNat ok with prefixes := [] } ∧
      t.mem = u.mem ∧ t.parts = u.parts := by
  have hc : (modCtx u fun ctx => ctx.writeC c.toNat ok).ctx = s.ctx.writeC c.toNat ok :=
    congrArg (fun g : Group => g.ctx.writeC c.toNat ok) hg
  have hpend : (s.ctx.writeC c.toNat ok).pend = [] := (Ctx.writeC_pend _ _ _).trans h.2.covered
  have hprefixes : (s.ctx.writeC c.toNat ok).prefixes = [] := (Ctx.writeC_prefixes _ _ _).trans hp
  obtain ⟨t, ht, hctx, -, hmem, hparts⟩ := issue_owner_steps h (.frwdep c q a)
    { size := 4, reads := [(.scalar, a.toNat)], writes := [(.condition, c.toNat)], furrow := 2, ill := notOwner s }
    (fun rc s => frwdepBody c q.toNat (rc.readS a.toNat).toNat s) hp (notOwner_owner h) rfl rfl hb
    (by rw [OnlyMode, ← hg]; rfl) (by rw [hc]; exact Ctx.writeC_pc _ _ _) (by rw [hc]; exact hpend)
  refine ⟨t, ht, ?_, hmem, hparts⟩
  rw [hctx, hc]
  unfold stepped passed stepped Ctx.writeC
  split <;> rfl

variable (hf : (getPart s (myPart s)).furrow = some f)
include hf

section
variable (hat : s.g.isAt f.uid f.slot = true)
include hat

/-- R91: FRWKILL ends the furrow at once. -/
theorem frwkill_ends :
    ∃ t, exec .frwkill s = .next t ∧ t.g.fown = false ∧ t.mem = s.mem ∧ (getPart t (myPart s)).furrow = none ∧
      t.ctx = { passed s with fstat := fstatEnd s.ctx.fstat } := by
  have hown := killFurrow_owner hf hat
  have hc := killFurrow_ctx hf hat
  obtain ⟨t, ht, hctx, hfown, hmem, hparts⟩ := issue_owner_steps h .frwkill
    { size := 4, furrow := 2, ill := notOwner s } (fun _ s => .ok (killFurrow s (myPart s))) hp (notOwner_owner h) rfl rfl rfl
    (by rw [OnlyMode, hown]; rfl) (by rw [hc]) (by rw [hc]; exact h.2.covered)
  refine ⟨t, ht, ?_, hmem.trans (mem_of_memories (killFurrow_memories _ _)), ?_, ?_⟩
  · rw [hfown, hown]
    rfl
  · rw [getPart, hparts]
    exact killFurrow_furrow hf
  · rw [hctx, hc]
    rfl

/-- R91: FRWOFF at drained sinks ends the furrow and gives the count of errors. -/
theorem frwoff_ends (hs : f.suspended = false) (hd : sinksDrained f = true) (d : BitVec 6)
    (hcount : s.ctx.fstat.toNat % 2 ^ 32 = 0 ∨ f.plan.flags.getLsbD 0 = false) :
    ∃ t, exec (.frwoff d) s = .next t ∧ t.g.fown = false ∧ t.mem = s.mem ∧ (getPart t (myPart s)).furrow = none ∧
      t.ctx = { s.ctx.writeS d.toNat (BitVec.ofNat 64 (s.ctx.fstat.toNat % 2 ^ 32)) with
        pc := s.ctx.pc + 4, fstat := fstatEnd s.ctx.fstat
        status := setErrf s.ctx.status (s.ctx.fstat.toNat % 2 ^ 32 != 0) } := by
  have hown := frwoffDone_owner hf hat d.toNat
  have herr := frwoffErr_false hat hcount
  have hflag : (s.ctx.fstat.toNat % 2 ^ 32 != 0 && !f.plan.flags.getLsbD 0) = (s.ctx.fstat.toNat % 2 ^ 32 != 0) := by
    rcases hcount with h0 | h0
    · rw [h0]
      rfl
    · rw [h0, Bool.not_false, Bool.and_true]
  have hbody : frwoffBody d s = .ok (frwoffDone s (myPart s) f d.toNat) := by
    simp only [frwoffBody, hf, hs, hd, herr, Bool.false_eq_true, if_false, if_true]
  have hc : (frwoffDone s (myPart s) f d.toNat).ctx =
      { s.ctx.writeS d.toNat (BitVec.ofNat 64 (s.ctx.fstat.toNat % 2 ^ 32)) with
        fstat := fstatEnd s.ctx.fstat
        status := setErrf s.ctx.status (s.ctx.fstat.toNat % 2 ^ 32 != 0) } := by
    rw [← hflag]
    exact (congrArg Group.ctx hown).trans (frwoffCtx_ended f d.toNat s.ctx)
  have hpc := (congrArg Ctx.pc hc).trans (Ctx.writeS_pc _ _ _)
  have hpend := ((congrArg Ctx.pend hc).trans (Ctx.writeS_pend _ _ _)).trans h.2.covered
  have hprefixes := ((congrArg Ctx.prefixes hc).trans (Ctx.writeS_prefixes _ _ _)).trans hp
  obtain ⟨t, ht, hctx, hfown, hmem, hparts⟩ := issue_owner_steps h (.frwoff d)
    { size := 4, writes := [(.scalar, d.toNat)], furrow := 2, ill := notOwner s } (fun _ s => frwoffBody d s) hp
    (notOwner_owner h) rfl rfl hbody (by rw [OnlyMode, hown]) hpc hpend
  refine ⟨t, ht, ?_, hmem.trans (mem_of_memories (frwoffDone_memories s (myPart s) f d.toNat)), ?_, ?_⟩
  · rw [hfown, hown]
  · rw [getPart, hparts]
    exact frwoffDone_furrow hf d.toNat
  · rw [hctx, stepped_eq hpend hprefixes, hc]

end

/-- R91: FRWOFF waits for the sinks. -/
theorem frwoff_waits (hs : f.suspended = false) (hd : sinksDrained f = false) (d : BitVec 6) :
    ∃ t, exec (.frwoff d) s = .next t ∧ t.g.run = .atFrwoff d.toNat ∧ t.ctx = s.ctx ∧ t.parts = s.parts := by
  have hbody : frwoffBody d s = .error (.stay (modG s fun g => { g with run := .atFrwoff d.toNat })) := by
    simp only [frwoffBody, hf, hs, hd, Bool.false_eq_true, if_false]
  refine ⟨modG s fun g => { g with run := .atFrwoff d.toNat }, ?_, rfl, rfl, rfl⟩
  refine (issue_owner h (.frwoff d) { size := 4, writes := [(.scalar, d.toNat)], furrow := 2, ill := notOwner s }
    (fun _ s => frwoffBody d s) rfl hp (notOwner_owner h) rfl rfl).trans ?_
  rw [hbody]
  rfl

/-- R91: FRWDEP of a depth that the pool allows records it, and of another records nothing. -/
theorem frwdep_records (c : BitVec 3) (q a : BitVec 6) :
    let depth := (s.ctx.readS a.toNat).toNat
    let allowed := decide (1 ≤ depth) && decide (depth ≤ 64) && decide (q.toNat < f.plan.nq) && !isConst f.plan q.toNat &&
      decide (poolWith f q.toNat depth ≤ s.blk.fpool)
    ∃ t, exec (.frwdep c q a) s = .next t ∧ t.ctx = { (passed s).writeC c.toNat allowed with prefixes := [] } ∧
      t.mem = s.mem ∧ (allowed = false → t.parts = s.parts) ∧
      (allowed = true → (getPart t (myPart s)).furrow = some (recordDepth f q.toNat depth)) := by
  intro depth allowed
  have hallowed : (1 ≤ depth ∧ depth ≤ 64 ∧ q.toNat < f.plan.nq ∧ isConst f.plan q.toNat = false ∧
      poolWith f q.toNat depth ≤ s.blk.fpool) ↔ allowed = true := by
    simp [allowed, and_assoc]
  cases ha : allowed
  · have hb : frwdepBody c q.toNat depth s = .ok (modCtx s fun ctx => ctx.writeC c.toNat false) := by
      simp only [frwdepBody, hf, hallowed, ha, Bool.false_eq_true, if_false]
    obtain ⟨t, ht, hctx, hmem, hparts⟩ := frwdep_steps h hp hb rfl
    exact ⟨t, ht, hctx, hmem, fun _ => hparts, (nomatch ·)⟩
  · have hb : frwdepBody c q.toNat depth s =
        .ok (modCtx (modPart s (myPart s) fun p => { p with furrow := some (recordDepth f q.toNat depth) })
          fun ctx => ctx.writeC c.toNat true) := by
      simp only [frwdepBody, hf, hallowed, ha, if_true]
    obtain ⟨t, ht, hctx, hmem, hparts⟩ := frwdep_steps h hp hb rfl
    refine ⟨t, ht, hctx, hmem, (nomatch ·), fun _ => ?_⟩
    rw [getPart, hparts]
    exact getPart_modPart_furrow s (myPart s) _

end

/-- Settles O51: `frwonBody_loads` says what FRWON loads, `killFurrow_owner` what the end of a furrow leaves of its owner, and
`issue_owner_steps` that an owner's instruction retires. -/
theorem furrowInstructions : Obligations.FurrowInstructions := by
  unfold Obligations.FurrowInstructions
  refine ⟨fun s n p h hp ha hv => ⟨frwon_retires h hp ha hv, fun hheld => ?_, fun hsome => ?_⟩,
    fun s d a q c f h hp hf hu hs hsus => ?_⟩
  · have hbody : frwonBody n s.ctx s = .error (.wait .furrow) := by
      simp only [frwonBody, cmdAligned, ha, if_true, hv, hheld]
    refine (issue_body h (.frwon n) { size := 4, reads := [(.address, n.toNat)], closes := true } (frwonBody n) (.inr hp) rfl rfl
      rfl).trans ?_
    rw [hbody]
    rfl
  · exact Bool.or_eq_true_iff.mpr (.inl hsome)
  · have hat : s.g.isAt f.uid f.slot = true := by
      rw [hu, hs]
      exact isAt_self s.g
    have hcounts : BitVec.ofNat 64 (s.ctx.fstat.toNat % 2 ^ 32) = 0 ↔ s.ctx.fstat.toNat % 2 ^ 32 = 0 := by
      rw [← BitVec.toNat_inj, BitVec.toNat_ofNat, Nat.mod_eq_of_lt (by omega)]
      rfl
    refine ⟨fun hd hcount => ?_, fun hd => frwoff_waits h hp hf hsus hd d, frwkill_ends h hp hf hat,
      frwdep_records h hp hf c q a⟩
    obtain ⟨t, ht, hfown, hmem, hgone, hctx⟩ := frwoff_ends h hp hf hat hsus hd d (hcount.imp_left hcounts.mp)
    refine ⟨t, ht, hfown, hmem, hgone, hctx.trans ?_⟩
    have herrf : (s.ctx.fstat.toNat % 2 ^ 32 != 0) = (BitVec.ofNat 64 (s.ctx.fstat.toNat % 2 ^ 32) != 0) := by
      rw [Bool.eq_iff_iff, bne_iff_ne, bne_iff_ne, Ne, Ne, hcounts]
    rw [herrf]
    rfl

end Sys2Proof.Machine
end

section
/-! SUPPORT. Little-endian bytes (R6): where they stand after a write to memory or to a context area. -/

namespace Sys2Proof.Machine

@[simp] theorem leBytes_length (n x : Nat) : (leBytes n x).length = n := by
  induction n generalizing x with
  | zero => rfl
  | succ n ih => simp [leBytes, ih]

theorem leBytes_eq_map (n x : Nat) : leBytes n x = (List.range n).map fun k => BitVec.ofNat 8 (x / 256 ^ k) := by
  induction n generalizing x with
  | zero => rfl
  | succ n ih =>
    rw [leBytes, ih, List.range_succ_eq_map, List.map_cons, List.map_map]
    simp [Function.comp_def, Nat.div_div_eq_div_mul, pow_succ, Nat.mul_comm]

theorem leNat_leBytes (n x : Nat) : leNat (leBytes n x) = x % 256 ^ n := by
  induction n generalizing x with
  | zero => simp [leBytes, leNat, Nat.mod_one]
  | succ n ih =>
    rw [leBytes, leNat, ih, pow_succ, Nat.mul_comm (256 ^ n), Nat.mod_mul]
    simp

theorem cellsAt_eq_zip (i : Nat) (bs : List Byte) : cellsAt i bs = (placesFrom i bs.length).zip bs := by
  unfold cellsAt placesFrom
  rw [List.zip_map_left]
  rfl

/-- The bytes written from a place on stand there. -/
theorem bytesAt_writeCells (m : List Host.Cell) (i : Nat) (bs : List Byte) :
    bytesAt (writeCells m (cellsAt i bs)) i bs.length = bs := by
  have hnodup : (placesFrom i bs.length).Nodup := List.nodup_range.map fun a b h => by omega
  have hstand := writeCells_zip_stand m hnodup bs
  rw [← cellsAt_eq_zip] at hstand
  refine List.ext_getElem (by simp [bytesAt]) fun k h1 h2 => ?_
  have hk := hstand k (i + k) bs[k] (by simp [placesFrom, h2]) (by simp [h2])
  simpa [bytesAt] using hk

end Sys2Proof.Machine
end

section
/-! SUPPORT. The queues of a furrow (R78, R80, R81): what consumption and production leave of it, and the lists in which a queue
stands once. -/

namespace Sys2Proof.Machine

theorem nodup_eraseDups : ∀ l : List Nat, l.eraseDups.Nodup
  | [] => by simp
  | a :: l => by
    rw [List.eraseDups_cons]
    exact List.nodup_cons.mpr ⟨by simp, nodup_eraseDups _⟩
termination_by l => l.length
decreasing_by exact Nat.lt_succ_of_le (List.length_filter_le _ _)

theorem eraseDups_of_nodup {l : List Nat} (h : l.Nodup) : l.eraseDups = l := by
  induction l with
  | nil => rfl
  | cons a l ih =>
    obtain ⟨ha, hl⟩ := List.nodup_cons.mp h
    have hkept : (l.filter fun b => !b == a) = l :=
      List.filter_eq_self.mpr fun b hb => by
        have : b ≠ a := fun e => ha (e ▸ hb)
        simpa using this
    rw [List.eraseDups_cons, hkept, ih hl]

/-- R81: a stage without a gate reads its inputs alone. -/
theorem stageReads_gateless {st : Stage} (h : stageGate st = []) : stageReads st = stageIns st := by
  rw [stageReads, h, List.append_nil]
  exact eraseDups_of_nodup (nodup_eraseDups _)

/-- A furrow differs in nothing but its queue copies and their depths. -/
def OnlyTokens (f g : Furrow) : Prop := g = { f with queues := g.queues, depth := g.depth, recorded := g.recorded }

namespace OnlyTokens

variable {f g h : Furrow}

theorem refl (f : Furrow) : OnlyTokens f f := rfl

theorem trans (a : OnlyTokens f g) (b : OnlyTokens g h) : OnlyTokens f h := by
  rw [OnlyTokens, b, a]

/-- Of a loop each of whose rounds changes queues alone. -/
theorem foldl {α : Type} (f : Furrow) (l : List α) {op : Furrow → α → Furrow} (h : ∀ g x, OnlyTokens g (op g x)) :
    OnlyTokens f (l.foldl op f) :=
  List.foldlRecOn l op (motive := OnlyTokens f) (refl f) fun g hg x _ => hg.trans (h g x)

theorem plan (a : OnlyTokens f g) : g.plan = f.plan := by rw [a]

theorem drained (a : OnlyTokens f g) : g.drained = f.drained := by rw [a]

end OnlyTokens

theorem setTokens_onlyTokens (f : Furrow) (q r : Nat) (l : List Token) : OnlyTokens f (setTokens f q r l) := by
  unfold setTokens applyDepth
  split <;> rfl

theorem consume_onlyTokens (f : Furrow) (q r i : Nat) : OnlyTokens f (consume f q r i) := by
  unfold consume
  split
  · rfl
  · exact setTokens_onlyTokens _ _ _ _

theorem consumeAll_onlyTokens (f : Furrow) (r i : Nat) (qs : List Nat) : OnlyTokens f (consumeAll f r i qs) :=
  .foldl f _ fun _ _ => consume_onlyTokens _ _ _ _

/-- R78: what a firing that produces a value without error makes of a queue, as the plan of the furrow before it says. -/
theorem produce_eq {f g : Furrow} (h : OnlyTokens f g) (q r : Nat) (v : Lane) :
    produce g q r v false = setTokens g q r (tokensOf g q r ++
      [⟨if queuePred (planQueue f.plan q) then v &&& 1 else v, false, false, passBy (planQueue f.plan q)⟩]) := by
  rw [← h.plan]
  rfl

end Sys2Proof.Machine
end

section
/-! PROOFS. Firings of stage replicas (R81, R84, R286). -/

namespace Sys2Proof.Machine

/-- R81: a firing that changes the furrow alone. -/
theorem putFurrow_becomes (s : State) (g : Furrow) : FurrowBecomes s (putFurrow s (myPart s) g) g :=
  ⟨rfl, putFurrow_furrow s _ g, fun _ hk => getPart_modPart_ne _ _ hk⟩

/-- A firing of a stage of the running furrow whose opcode the event is for. -/
theorem fireOp_running {s : State} {f : Furrow} (hf : (getPart s (myPart s)).furrow = some f) {p : Nat → Bool} {i : Nat}
    (hp : p (stageOp8 (planStage f.plan i)) = true) (r : Nat) :
    fireOp p i r s = fireStage s s.blk.core s.g.part f i r := by
  unfold fireOp onFurrow
  rw [hf]
  exact if_pos hp

section
variable {f : Furrow} {i r : Nat} (hmay : mayFire f i r = true) (s : State) (core part : Nat)
include hmay

theorem fireStage_sink (hop : stageOp8 (planStage f.plan i) = 0xA1) :
    fireStage s core part f i r = fireSink s core part f i r := by simp [fireStage, hmay, hop]

theorem fireStage_steer (hop : stageOp8 (planStage f.plan i) = 0xA2) :
    fireStage s core part f i r = fireSteer s core part f i r := by simp [fireStage, hmay, hop]

theorem fireStage_merge (hop : stageOp8 (planStage f.plan i) = 0xA3) :
    fireStage s core part f i r = fireMerge s core part f i r := by simp [fireStage, hmay, hop]

theorem fireStage_lane (hop : stageOp8 (planStage f.plan i) < 0xA0) :
    fireStage s core part f i r = fireLane s core part f i r := by
  have hne (k : Nat) (hk : 0xA0 ≤ k) : stageOp8 (planStage f.plan i) ≠ k := by omega
  simp [fireStage, hmay, hne]

end

section
variable {f : Furrow} {i r : Nat} (hgate : stageGate (planStage f.plan i) = [])
include hgate

theorem gateHead_gateless : gateHead f i r = none := by
  unfold gateHead
  rw [hgate]

theorem gateReady_gateless : gateReady f i r = true := by
  unfold gateReady
  rw [hgate]
  rfl

variable {x p : Lane} (s : State) (core part : Nat)

/-- R286: a STEER sends its data token to the output that its predicate names. -/
theorem fireSteer_gateless (hs : sidesReady f i r = true) (hx : operandOf f i r 1 = some (x, false))
    (hp : operandOf f i r 2 = some (p, false)) {q : Nat}
    (hq : q = if p.getLsbD 0 then stageField (planStage f.plan i) 0 else stageField (planStage f.plan i) 3)
    (hroom : hasRoom f r q = true) :
    fireSteer s core part f i r =
      putFurrow s (partKey core part) (produce (consumeAll f r i (stageIns (planStage f.plan i))) q r x false) := by
  unfold fireSteer
  simp only [hx, hp, hs, gateHead_gateless hgate, gateClosed, stageReads_gateless hgate, Bool.or_self, Bool.false_or,
    Bool.not_true, Bool.false_eq_true, if_false, ← hq, hroom, if_true]

/-- R81, R286: a MERGE takes the input that its predicate chooses, whatever the other holds. -/
theorem fireMerge_gateless (hp : operandOf f i r 3 = some (p, false)) {k : Nat} (hk : k = if p.getLsbD 0 then 1 else 2)
    (hx : operandOf f i r k = some (x, false)) (hroom : hasRoom f r (stageField (planStage f.plan i) 0) = true) :
    fireMerge s core part f i r =
      putFurrow s (partKey core part) (produce
        (consumeAll f r i [stageField (planStage f.plan i) 3, stageField (planStage f.plan i) k])
        (stageField (planStage f.plan i) 0) r x false) := by
  unfold fireMerge
  simp only [hp, gateReady_gateless hgate, gateHead_gateless hgate, gateClosed, ← hk, hx, hgate, hroom, Bool.or_self,
    Bool.not_true, Bool.false_eq_true, if_false, if_true]

/-- R81, R84: a stage with one output, which is no vector load and whose operands are without error, computes into its queue. -/
theorem fireLane_gateless {q : Nat} {y z : Lane} (hs : sidesReady f i r = true) (hvld : isVldStage (planStage f.plan i) = false)
    (hout : stageOuts (planStage f.plan i) = [q]) (hx : operandOf f i r 1 = some (x, false))
    (hy : operandOf f i r 2 = some (y, false)) (hz : operandOf f i r 3 = some (z, false)) (hroom : hasRoom f r q = true)
    (hsat : (stageCompute f i x y z).sat = false) (hword : writesPredQueue (planStage f.plan i) = false) :
    fireLane s core part f i r =
      putFurrow s (partKey core part) (produce
        (consumeAll { f with stalled := mset 0 f.stalled (32 * i + r) 0 } r i (stageIns (planStage f.plan i))) q r
        (stageCompute f i x y z).val false) := by
  unfold fireLane
  simp only [hx, hy, hz, hs, gateHead_gateless hgate, gateClosed, hout, List.all_cons, List.all_nil, hroom, Bool.and_self,
    Bool.or_self, Bool.not_true, Bool.false_eq_true, if_false, fireValue, hvld, hword, hsat, ownerSat, List.foldl_cons,
    List.foldl_nil, stageReads_gateless hgate]

/-- R82, R286: a sink with a token without error writes the element at its cursor. -/
theorem fireSink_gateless (hs : sidesReady f i r = true) (hx : operandOf f i r 1 = some (x, false))
    (hcnt : cursorOf f (stageExt (planStage f.plan i)) r < (planStream f.plan (stageExt (planStage f.plan i))).cnt.toNat) :
    fireSink s core part f i r =
      sinkWrite s core part f (consumeAll f r i (stageIns (planStage f.plan i))) (stageExt (planStage f.plan i)) r x := by
  unfold fireSink
  simp only [hx, hs, gateHead_gateless hgate, gateClosed, stageReads_gateless hgate, Bool.or_self, Bool.not_true,
    Bool.false_eq_true, if_false, if_neg (Nat.not_le.mpr hcnt)]

end

/-- R249: what an access of the caches and the sealing of a sector come to in memory. -/
theorem ownAccs_one {s u : State} (h : OnlyCaches s u) (core : Nat) (a : Acc) :
    ∃ w v, OnlyCaches s w ∧ ownAccs u core [a] = reseal w (a.idx / 128) v :=
  ⟨fetchSectors u core true [a], _, h.trans (fetchSectors_onlyCaches u core true [a]), rfl⟩

/-- R249: bytes written into a sector that has come under a key stand there, and no others change but for the key. -/
theorem memoryBut_write {s w t : State} (h : OnlyCaches s w) {i v : Nat} {bs : List Byte} (hbs : bs ≠ [])
    (hm : t.mem = writeCells (reseal w (i / 128) v).mem (cellsAt i bs))
    (hk : t.memKey = (reseal w (i / 128) v).memKey) : MemoryBut s t (placesFrom i bs.length) := by
  have hmem : (reseal w (i / 128) v).mem = (reseal s (i / 128) v).mem := by
    rw [h]
    rfl
  have hkey : (reseal w (i / 128) v).memKey = (reseal s (i / 128) v).memKey := by
    rw [h]
    rfl
  refine ⟨[(i / 128, v)], fun x hx => ⟨i, ?_, ?_⟩, fun a ha => ⟨?_, ?_⟩⟩
  · exact List.mem_map.mpr ⟨0, List.mem_range.mpr (List.length_pos_iff.mpr hbs), rfl⟩
  · rw [List.mem_singleton.mp hx]
  · have hout : a < i ∨ i + bs.length ≤ a := by
      by_contra hin
      exact ha (List.mem_map.mpr ⟨a - i, List.mem_range.mpr (by omega), by omega⟩)
    rw [hm, mget_cellsAt_ne _ _ _ _ hout, hmem]
    rfl
  · rw [hk, hkey]
    rfl

/-- R82: a sink's element stands in memory, and its cursor has moved on. -/
theorem sinkWrite_writes {s : State} {f : Furrow} {n r : Nat} {a : Acc}
    (ha : furrowAccess s s.blk.core f (elemAddr f n r (cursorOf f n r)) true = .ok a) (f1 : Furrow) (x : Lane) :
    let m := streamBytes (planStream f.plan n)
    let t := sinkWrite s s.blk.core s.g.part f f1 n r x
    bytesAt t.mem a.idx m = leBytes m x.toNat ∧ MemoryBut s t (placesFrom a.idx m) ∧ t.g = s.g ∧ t.blk = s.blk ∧
      (getPart t (myPart s)).furrow = some { advance f1 n r with idle := 0 } := by
  intro m t
  obtain ⟨w, v, hw, hseal⟩ := ownAccs_one ((askWalks_onlyCaches s s.blk.core (findBlk s f.uid).vf [a]).trans
    (queueMisses_onlyCaches _ s.blk.core (ownerKey f.uid f.slot) [a])) s.blk.core a
  have ht : t = putFurrow (storeCells (reseal w (a.idx / 128) v) s.blk.core (cellsAt a.idx (leBytes m x.toNat))) (myPart s)
      (advance f1 n r) := by
    show sinkWrite s s.blk.core s.g.part f f1 n r x = _
    unfold sinkWrite
    dsimp only
    rw [ha, ← hseal]
    rfl
  have hbs : leBytes m x.toNat ≠ [] := by
    rw [Ne, ← List.length_eq_zero_iff, leBytes_length]
    exact (Nat.two_pow_pos _).ne'
  have hmem : t.mem = writeCells (reseal w (a.idx / 128) v).mem (cellsAt a.idx (leBytes m x.toNat)) := by
    rw [ht]
    rfl
  have hstand := bytesAt_writeCells (reseal w (a.idx / 128) v).mem a.idx (leBytes m x.toNat)
  have hbut := memoryBut_write hw hbs hmem (by rw [ht]; rfl)
  rw [leBytes_length] at hstand hbut
  refine ⟨by rw [hmem, hstand], hbut, ?_, ?_, ?_⟩
  · rw [ht]
    exact hw.g
  · rw [ht]
    exact hw.blk
  · rw [ht]
    exact putFurrow_furrow _ _ _

/-- Settles O52: `putFurrow_becomes` says what a firing changes, the `fire…_gateless` lemmas what each kind of stage makes of the
furrow, `sinkWrite_writes` what stands in memory. -/
theorem stageFirings : Obligations.StageFirings := by
  unfold Obligations.StageFirings
  intro s f i r x p hf ⟨hmay, hgate⟩ st gives
  have fired (pred : Nat → Bool) (hp : pred (stageOp8 st) = true) := fireOp_running hf hp r
  have becomes {f0 g : Furrow} (h : OnlyTokens f0 g) (hplan : f0.plan = f.plan) (q : Nat) (v : Lane) :
      FurrowBecomes s (putFurrow s (partKey s.blk.core s.g.part) (produce g q r v false)) (gives g q v) := by
    rw [produce_eq h, hplan]
    exact putFurrow_becomes s _
  refine ⟨?_, ?_, ?_, ?_⟩
  · intro hop hs hx hp q hroom
    refine ⟨_, rfl, ?_⟩
    rw [fired (· == 0xA2) (by rw [hop]; rfl), fireStage_steer hmay s _ _ hop, fireSteer_gateless hgate s _ _ hs hx hp rfl hroom]
    exact becomes (consumeAll_onlyTokens f r i _) rfl q x
  · intro hop hp k hx hroom
    refine ⟨_, rfl, ?_⟩
    rw [fired (· == 0xA3) (by rw [hop]; rfl), fireStage_merge hmay s _ _ hop, fireMerge_gateless hgate s _ _ hp rfl hx hroom]
    exact becomes (consumeAll_onlyTokens f r i _) rfl _ x
  · intro q y z hop hs hvld hout hx hy hz hroom _ hsat hword
    refine ⟨_, _, rfl, ?_, rfl⟩
    rw [fired (fun op => decide (op < 0xA0)) (decide_eq_true hop), fireStage_lane hmay s _ _ hop,
      fireLane_gateless hgate s _ _ hs hvld hout hx hy hz hroom hsat hword]
    exact becomes (consumeAll_onlyTokens { f with stalled := mset 0 f.stalled (32 * i + r) 0 } r i _) rfl q _
  · intro a hop hs hx n m hcnt ha
    refine ⟨_, rfl, ?_⟩
    rw [fired (· == 0xA1) (by rw [hop]; rfl), fireStage_sink hmay s _ _ hop, fireSink_gateless hgate s _ _ hs hx hcnt]
    exact sinkWrite_writes ha _ x

end Sys2Proof.Machine
end

section
/-! SUPPORT. Fields of a context area (R54, R220) read back, and the region of a suspended furrow (R92, R94). -/

namespace Sys2Proof.Machine

theorem mget_msetAll_out {β : Type} [DecidableEq β] (d : β) (m : List (Nat × β)) {k a : Nat} {l : List β}
    (h : a < k ∨ k + l.length ≤ a) : mget d (msetAll d m k l) a = mget d m a := by
  induction l generalizing m k with
  | nil => rfl
  | cons v t ih =>
    rw [List.length_cons] at h
    rw [msetAll, ih _ (by omega), mget_mset_ne _ _ _ (by omega)]

theorem mget_msetAll_in {β : Type} [DecidableEq β] (d : β) (m : List (Nat × β)) (k : Nat) {l : List β} {j : Nat}
    (h : j < l.length) : mget d (msetAll d m k l) (k + j) = l[j] := by
  induction l generalizing m k j with
  | nil => exact absurd h (Nat.not_lt_zero j)
  | cons v t ih =>
    cases j with
    | zero =>
      rw [Nat.add_zero, msetAll, mget_msetAll_out _ _ (.inl (Nat.lt_succ_self k)), mget_mset_self, List.getElem_cons_zero]
    | succ j =>
      rw [msetAll, show k + (j + 1) = k + 1 + j by omega, ih _ _ (Nat.lt_of_succ_lt_succ h), List.getElem_cons_succ]

/-- Fields that all lie beyond a place leave it. -/
theorem mget_areaPuts_below (m : List (Nat × Byte)) {l : List (Nat × List Byte)} {a : Nat} (h : ∀ e ∈ l, a < e.1) :
    mget 0 (areaPuts m l) a = mget 0 m a := by
  induction l generalizing m with
  | nil => rfl
  | cons e t ih =>
    refine (ih _ fun x hx => h x (List.mem_cons_of_mem e hx)).trans ?_
    exact mget_msetAll_out 0 m (.inl (h e List.mem_cons_self))

/-- A number put into an area reads back, where later fields lie beyond it. -/
theorem areaNat_areaPuts (m : List (Nat × Byte)) (off x : Nat) {n j : Nat} (hj : j ≤ n) {rest : List (Nat × List Byte)}
    (hrest : ∀ e ∈ rest, off + j ≤ e.1) :
    areaNat (areaPuts m ((off, leBytes n x) :: rest)) off j = x % 256 ^ j := by
  have hbytes : ((List.range j).map fun k => mget 0 (areaPuts m ((off, leBytes n x) :: rest)) (off + k)) = leBytes j x := by
    rw [leBytes_eq_map j]
    refine List.map_congr_left fun k hk => ?_
    have hkj := List.mem_range.mp hk
    have hkn : k < (leBytes n x).length := by
      rw [leBytes_length]
      omega
    have hbeyond : mget 0 (areaPuts (areaPut m off (leBytes n x)) rest) (off + k) =
        mget 0 (areaPut m off (leBytes n x)) (off + k) :=
      mget_areaPuts_below _ fun e he => by have := hrest e he; omega
    refine (hbeyond.trans (mget_msetAll_in 0 m off hkn)).trans ?_
    simp only [leBytes_eq_map, List.getElem_map, List.getElem_range]
  rw [areaNat, hbytes, leNat_leBytes]

/-- R92: the address of the plan, FSTAT and the step come first in a furrow's region. -/
theorem furrowArea_head (f : Furrow) (fstat : BitVec 64) :
    ∃ rest, furrowArea f fstat =
      (0, leBytes 16 f.planAddr.toNat) :: (0x10, leBytes 8 fstat.toNat) :: (0x18, leBytes 4 f.step) :: rest ∧
      ∀ e ∈ rest, 0x20 ≤ e.1 := by
  refine ⟨(furrowArea f fstat).drop 3, rfl, fun e he => ?_⟩
  simp only [furrowArea, List.cons_append, List.nil_append, List.drop_succ_cons, List.drop_zero, List.mem_append, List.mem_map,
    List.mem_range, List.mem_singleton] at he
  rcases he with (((⟨q, -, rfl⟩ | ⟨q, -, rfl⟩) | ⟨x, -, rfl⟩) | rfl) | ⟨x, -, rfl⟩ <;> dsimp only <;> omega

/-- R92, R94: a furrow's region is read under the key under which it has been written. -/
theorem areaView_storeFurrow (s : State) (f : Furrow) (part : Nat) (fstat : BitVec 64) (n : Nat) :
    ∃ old, areaView (storeFurrow s f part fstat) f.uid 32 (1 + part) n =
      areaPuts old ((furrowArea f fstat).map fun x => (furrowBase part + x.1, x.2)) :=
  ⟨_, (if_pos (mget_mset_self _ _ _ _)).trans (mget_mput_self _ _ _ _)⟩

section
variable (s : State) (f : Furrow) (part : Nat) (fstat : BitVec 64)

/-- R92, R94: the address of the plan of a furrow that has been stored. -/
theorem storedFurrow_planAddr : (storedFurrow (storeFurrow s f part fstat) part f).planAddr = f.planAddr := by
  obtain ⟨old, hview⟩ := areaView_storeFurrow s f part fstat 0x15000
  obtain ⟨rest, harea, hrest⟩ := furrowArea_head f fstat
  have hnat : areaNat (areaView (storeFurrow s f part fstat) f.uid 32 (1 + part) 0x15000) (furrowBase part) 9 =
      f.planAddr.toNat % 256 ^ 9 := by
    rw [hview, harea]
    refine areaNat_areaPuts old (furrowBase part) _ (by decide) fun e he => ?_
    obtain ⟨x, hx, rfl⟩ := List.mem_map.mp he
    have hfar : 0x10 ≤ x.1 := by
      simp only [List.mem_cons] at hx
      rcases hx with rfl | rfl | hx
      · exact Nat.le_refl _
      · simp
      · exact Nat.le_trans (by decide) (hrest x hx)
    dsimp only
    omega
  show BitVec.ofNat 72 (areaNat _ _ 9) = _
  rw [hnat, show 256 ^ 9 = 2 ^ 72 by decide, Nat.mod_eq_of_lt f.planAddr.isLt, BitVec.ofNat_toNat, BitVec.setWidth_eq]

/-- R92, R94: the step of a furrow that has been stored. -/
theorem storedFurrow_step (h : f.step < 2 ^ 32) : (storedFurrow (storeFurrow s f part fstat) part f).step = f.step := by
  obtain ⟨old, hview⟩ := areaView_storeFurrow s f part fstat 0x15000
  obtain ⟨rest, harea, hrest⟩ := furrowArea_head f fstat
  show areaNat _ _ 4 = _
  rw [hview, harea]
  refine (areaNat_areaPuts _ (furrowBase part + 0x18) f.step (Nat.le_refl 4) fun e he => ?_).trans (Nat.mod_eq_of_lt h)
  obtain ⟨x, hx, rfl⟩ := List.mem_map.mp he
  have := hrest x hx
  dsimp only
  omega

end

end Sys2Proof.Machine
end

section
/-! PROOFS. The life of a furrow but for the firings of its stages (R81, R83, R91 to R94). -/

namespace Sys2Proof.Machine

/-- The action of an event on the running furrow. -/
theorem onFurrow_running {s : State} {f : Furrow} (hf : (getPart s (myPart s)).furrow = some f)
    (h : Nat → Nat → Furrow → State) : onFurrow s h = h s.blk.core s.g.part f := by
  unfold onFurrow
  rw [hf]

/-- What a furrow put back after reads changes. -/
theorem putFurrow_afterReads {s u : State} (h : OnlyCaches s u) (k : Nat) (g : Furrow) :
    let t := putFurrow u k g
    t = { s with parts := t.parts, cores := t.cores, dies := t.dies, msgs := t.msgs, chan := t.chan } ∧
      (∀ j, j ≠ k → getPart t j = getPart s j) ∧ (getPart t k).furrow = some { g with idle := 0 } := by
  refine ⟨?_, fun j hj => ?_, putFurrow_furrow u k g⟩
  · rw [h]
    rfl
  · rw [putFurrow, getPart_modPart_ne _ _ hj, getPart, h.parts]
    rfl

/-- R81: all sources take their next step together, where none is blocked. -/
theorem sourceStep_emits {s : State} {f g : Furrow} (core part : Nat) (hsus : f.suspended = false) (hsusp : f.susp = false)
    (hany : ∃ x ∈ replicas f (sources f.plan), isDrained f x.1 x.2 = false)
    (hroom : ∀ x ∈ replicas f (sources f.plan), isDrained f x.1 x.2 = false →
      hasRoom f x.2 (stageField (planStage f.plan x.1) 0) = true)
    (hfree : stepBlocked s core f f.step = none)
    (hemit : emitStep s core f.step (replicas f (sources f.plan)) f = .ok g) :
    sourceStep s core part f =
      putFurrow (furrowAsks s core f (stepReads f (replicas f (sources f.plan)))) (partKey core part)
        { g with step :=
          if (replicas f (sources f.plan)).any fun x => decide (f.step ≤ countOf f x.1) then f.step + 1 else f.step } := by
  have hsome : (replicas f (sources f.plan)).any (fun x => !isDrained f x.1 x.2) = true := by
    obtain ⟨x, hx, hd⟩ := hany
    exact List.any_eq_true.mpr ⟨x, hx, by rw [hd]; rfl⟩
  have hall : (replicas f (sources f.plan)).all
      (fun x => isDrained f x.1 x.2 || hasRoom f x.2 (stageField (planStage f.plan x.1) 0)) = true := by
    refine List.all_eq_true.mpr fun x hx => ?_
    cases hd : isDrained f x.1 x.2
    · exact hroom x hx hd
    · rfl
  unfold sourceStep
  simp only [hsus, hsusp, hsome, hall, hfree, hemit, Option.isNone_none, Bool.and_self, Bool.false_eq_true, if_false, if_true]

theorem produceDrain_onlyTokens (f : Furrow) (r q : Nat) : OnlyTokens f (produceDrain f r q) := by
  unfold produceDrain
  dsimp only
  split
  · rfl
  · exact setTokens_onlyTokens _ _ _ _

/-- R83: a stage replica that has taken its drain step is drained. -/
theorem isDrained_drainStage (f : Furrow) (i r : Nat) : isDrained (drainStage f i r) i r = true := by
  unfold isDrained drainStage
  dsimp only
  rw [(OnlyTokens.foldl _ _ fun g q => produceDrain_onlyTokens g r q).drained]
  dsimp only
  exact mget_mset_self _ _ _ _

/-- R83: a stage replica whose inputs all head with DRAIN takes its drain step, where its outputs have room. -/
theorem drainRule_drains {s : State} {f : Furrow} {i r : Nat} (k : Nat) (hsus : f.suspended = false) (hi : i < f.plan.ns)
    (hr : r < f.plan.repl) (hd : isDrained f i r = false) (hst : mget 0 f.stalled (32 * i + r) ≤ 1)
    (hin : drainInputs f.plan i ≠ []) (hheads : ∀ q ∈ drainInputs f.plan i, headDrain f r i q = true)
    (houts : ∀ q ∈ stageOuts (planStage f.plan i), drainRoom f i r q = true) :
    drainRule s k f i r = putFurrow s k (drainStage f i r) := by
  unfold drainRule
  dsimp only
  rw [if_neg, if_pos (List.all_eq_true.mpr hheads), if_pos (List.all_eq_true.mpr houts)]
  simp only [hd, hsus, hin, Bool.false_eq_true, false_or]
  omega

/-- R86: an update of the FSTAT of the owner in focus. -/
theorem modFstat_g {s : State} {f : Furrow} (hat : s.g.isAt f.uid f.slot = true) (h : Nat → Nat) :
    (modFstat s f h).g = { s.g with ctx := { s.ctx with fstat := BitVec.ofNat 64 (h s.ctx.fstat.toNat) } } :=
  updGroup_g_of_at hat _

/-- R45: what a group that waits at FRWOFF counts leaves all else of it. -/
theorem countFrwoff_fown (g : Group) : (countFrwoff g).fown = g.fown := by
  unfold countFrwoff
  split
  · exact countEvt_fown _ _ g
  · rfl

theorem countFrwoff_isAt (g : Group) (uid slot : Nat) : (countFrwoff g).isAt uid slot = g.isAt uid slot := by
  unfold countFrwoff
  split
  · simp only [Group.isAt, countEvt_uid, countEvt_slot]
  · rfl

/-- R92: a suspend-drain whose stages are all drained makes no further pass. -/
theorem drainPasses_drained {s : State} {f : Furrow} {core part : Nat} (hf : furrowAt s (partKey core part) = some f)
    (h : stagesDrained f = true) (n : Nat) : drainPasses core part n s = s := by
  cases n with
  | zero => rfl
  | succ n => simp only [drainPasses, hf, h, if_true]

/-- R92: a furrow whose suspend-drain has nothing left to do is stored as it stands. -/
theorem suspendDrain_drained {s : State} {f : Furrow} {core part : Nat} (hf : furrowAt s (partKey core part) = some f)
    (hsusp : f.susp = true) (hd : sinksDrained f = true) (hst : stagesDrained f = true) (hstall : f.stalled = []) :
    ∃ fstat, suspendDrain s core part =
      storeFurrow (modFstat (modPart s (partKey core part) fun p => { p with furrow := some (suspendedFurrow f) }) f setSusp)
        (suspendedFurrow f) part fstat := by
  have hdone : drainDone s core part f = true := by
    simp only [drainDone, hsusp, hd, hstall, hst, List.all_nil, Bool.and_self, Bool.true_or]
  unfold suspendDrain
  rw [drainPasses_drained hf hst]
  simp only [hf, hdone, if_true]
  exact ⟨_, rfl⟩

theorem storedFurrow_unpark (s : State) (part : Nat) (f : Furrow) : storedFurrow (unpark s) part f = storedFurrow s part f := rfl

/-- R93, R94: a suspended furrow of the group in focus whose plan passes its checks is loaded again. -/
theorem reenter_valid {kept s : State} {f : Furrow} {p : Plan}
    (hv : validPlan s (storedFurrow s s.g.part f).planAddr s.ctx = .ok p) :
    reenter kept s f = modG (parkOthers (modPart s (myPart s) fun x => { x with
      furrow := some (reenteredFurrow (storedFurrow s s.g.part f) (viewOf s (planInfo p)) p) }) s.blk.core s.g.part s.g.uid
        s.g.slot) fun g => { g with run := .ready, parked := false } := by
  unfold reenter
  dsimp only
  rw [hv]

section
variable {s : State} {f : Furrow} (hf : (getPart s (myPart s)).furrow = some f) (hat : s.g.isAt f.uid f.slot = true)
include hf hat

/-- R91: the owner that waits at FRWOFF goes on once the sinks are drained. -/
theorem furrowDrained_ends {d : Nat} (hrun : s.g.run = .atFrwoff d) (hd : sinksDrained f = true) (hsusp : f.susp = false)
    (hcount : s.ctx.fstat.toNat % 2 ^ 32 = 0) (hpend : s.ctx.pend = []) :
    ∃ t, exec .furrowDrained s = .next t ∧ t.g.fown = false ∧ t.g.run = .ready ∧ t.mem = s.mem ∧
      (getPart t (myPart s)).furrow = none ∧ t.ctx = { s.ctx.writeS d 0 with
        pc := s.ctx.pc + 4, prefixes := [], fstat := fstatEnd s.ctx.fstat } := by
  have hown := frwoffDone_owner hf hat d
  have hfocus : refocus (frwoffDone s (myPart s) f d) f.uid f.slot = frwoffDone s (myPart s) f d := by
    refine if_pos ?_
    rw [hown]
    exact hat
  have herr := frwoffErr_false hat (.inl hcount)
  have hexec : exec .furrowDrained s = .next (modG (frwoffDone s (myPart s) f d) fun g =>
      countEvt evIssue 1 { g with ctx := retireCtx { size := 4, writes := [(.scalar, d)] } g.ctx g.ctx }) := by
    show execFurrowDrained s = _
    unfold execFurrowDrained
    rw [onFurrow_running hf]
    simp only [findGroup_focus hat, hrun, hd, hsusp, herr, Bool.not_false, Bool.and_self, if_true, Bool.false_eq_true, if_false]
    rw [← hfocus]
    rfl
  have hc : (frwoffDone s (myPart s) f d).ctx = { s.ctx.writeS d 0 with fstat := fstatEnd s.ctx.fstat } := by
    refine (congrArg Group.ctx hown).trans ((frwoffCtx_ended f d s.ctx).trans ?_)
    rw [hcount, ← Ctx.writeS_status s.ctx d 0]
    rfl
  have hpend' : (frwoffDone s (myPart s) f d).ctx.pend = [] :=
    ((congrArg Ctx.pend hc).trans (Ctx.writeS_pend _ _ _)).trans hpend
  refine ⟨_, hexec, ?_, ?_, mem_of_memories (frwoffDone_memories s (myPart s) f d), frwoffDone_furrow hf d, ?_⟩
  · simp only [modG_g, countEvt_fown, hown]
  · simp only [modG_g, countEvt_run, hown]
  · rw [modG_ctx, countEvt_ctx]
    refine (retireCtx_stepped (c := (frwoffDone s (myPart s) f d).ctx) rfl rfl rfl rfl rfl rfl hpend').trans ?_
    unfold stepped
    rw [← hpend', hc, ← Ctx.writeS_pc s.ctx d 0]
    rfl

/-- R93: a furrow that has been idle for 65,536 cycles ends, and its owner is to take FRWERR. -/
theorem furrowDeadlock_ends (hidle : 65536 ≤ f.idle) (hd : sinksDrained f = false) (hsus : f.suspended = false)
    (hst : f.stalled = []) :
    ∃ t, exec .furrowDeadlock s = .next t ∧ t.g.fown = false ∧ t.mem = s.mem ∧ (getPart t (myPart s)).furrow = none ∧
      t.g.trapReq = some ⟨8, 2, 0, 0, none⟩ ∧ t.ctx.fstat.getLsbD 38 = true := by
  have hexec : exec .furrowDeadlock s = .next (modFstat (endFurrow s (myPart s) f ⟨8, 2, 0, 0, none⟩) f setDlk) := by
    show execFurrowDeadlock s = _
    unfold execFurrowDeadlock
    rw [onFurrow_running hf, if_pos ⟨hidle, hd, hsus, by rw [hst]; rfl⟩]
    rfl
  have hkill := killFurrow_owner hf hat
  have hatKill : (killFurrow s (myPart s)).g.isAt f.uid f.slot = true := by
    rw [hkill]
    exact hat
  have hend : (endFurrow s (myPart s) f ⟨8, 2, 0, 0, none⟩).g =
      { countFrwoff (killFurrow s (myPart s)).g with run := .ready, trapReq := some ⟨8, 2, 0, 0, none⟩ } :=
    updGroup_g_of_at hatKill _
  have hatEnd : (endFurrow s (myPart s) f ⟨8, 2, 0, 0, none⟩).g.isAt f.uid f.slot = true := by
    rw [hend]
    exact (countFrwoff_isAt _ _ _).trans hatKill
  have hfstat := modFstat_g hatEnd setDlk
  refine ⟨_, hexec, ?_, ?_, killFurrow_furrow hf, ?_, ?_⟩
  · rw [hfstat, hend]
    refine (countFrwoff_fown _).trans ?_
    rw [hkill]
    rfl
  · exact mem_of_memories (by simp)
  · rw [hfstat, hend]
  · unfold State.ctx
    rw [hfstat]
    simp [setDlk]

/-- R92, R94: a drained furrow that is asked to suspend is stored in its region of the block's area. -/
theorem streamFaultSuspend_stores (i r : Nat) (hsus : f.suspended = false) (hsusp : f.susp = true)
    (hd : sinksDrained f = true) (hst : stagesDrained f = true) (hstall : f.stalled = []) :
    ∃ t h, exec (.streamFaultSuspend i r) s = .next t ∧ (getPart t (myPart s)).furrow = some h ∧ h.suspended = true ∧
      h.step = f.step ∧ h.cursors = f.cursors ∧ h.drained = [] ∧ t.ctx.fstat.getLsbD 37 = true ∧ t.mem = s.mem ∧
      (storedFurrow t s.g.part h).planAddr = f.planAddr ∧ (f.step < 2 ^ 32 → (storedFurrow t s.g.part h).step = f.step) := by
  obtain ⟨fstat, hstored⟩ := suspendDrain_drained (core := s.blk.core) (part := s.g.part) hf hsusp hd hst hstall
  have hexec : exec (.streamFaultSuspend i r) s = .next (unpark (suspendDrain s s.blk.core s.g.part)) := by
    show execStreamFaultSuspend i r s = _
    unfold execStreamFaultSuspend
    rw [onFurrow_running hf]
    simp only [hsus, hsusp, Bool.false_eq_true, if_false, if_true]
  rw [hstored] at hexec
  refine ⟨_, suspendedFurrow f, hexec, ?_, rfl, rfl, rfl, rfl, ?_, ?_, ?_, fun hstep => ?_⟩
  · exact getPart_modPart_furrow s (myPart s) _
  · rw [unpark_ctx]
    have hg := modFstat_g (s := modPart s (partKey s.blk.core s.g.part) fun p => { p with furrow := some (suspendedFurrow f) })
      hat setSusp
    show (modFstat _ f setSusp).g.ctx.fstat.getLsbD 37 = true
    rw [hg]
    simp [setSusp]
  · exact mem_of_memories (by simp)
  · rw [storedFurrow_unpark]
    exact storedFurrow_planAddr _ (suspendedFurrow f) s.g.part fstat
  · rw [storedFurrow_unpark]
    exact storedFurrow_step _ (suspendedFurrow f) s.g.part fstat hstep

/-- R93, R94: a suspended furrow whose owner's fault has been answered enters again from its region. -/
theorem furrowReentry_enters {p : Plan} (hown : s.g.fown = true) (hres : s.blk.phase = .resident)
    (hans : answeredFault s s.g = true) (hsus : f.suspended = true)
    (hv : validPlan s (storedFurrow s s.g.part f).planAddr s.ctx = .ok p) :
    let old := storedFurrow s s.g.part f
    ∃ t h, exec .furrowReentry s = .next t ∧ (getPart t (myPart s)).furrow = some h ∧ h.suspended = false ∧ h.plan = p ∧
      h.step = old.step ∧ h.cursors = f.cursors ∧ h.queues = old.queues ∧ h.depth = old.depth ∧ h.fmt = f.fmt ∧
      t.g.run = .ready ∧ t.g.parked = false ∧ t.mem = s.mem := by
  intro old
  have hexec : exec .furrowReentry s = .next (reenter s s f) := by
    show execFurrowReentry s = _
    unfold execFurrowReentry
    rw [if_pos (by rw [hown, hres, hans]; rfl), hf]
    dsimp only
    rw [if_pos (by rw [hsus, hat]; rfl)]
  have hcursors : old.cursors = f.cursors := by simp only [old, storedFurrow, furrowFrom]
  have hfmt : old.fmt = f.fmt := by simp only [old, storedFurrow, furrowFrom]
  rw [reenter_valid hv] at hexec
  refine ⟨_, reenteredFurrow old (viewOf s (planInfo p)) p, hexec, ?_, rfl, rfl, ?_⟩
  · exact getPart_modPart_furrow s (myPart s) _
  · clear_value old
    exact ⟨rfl, hcursors, rfl, rfl, hfmt, rfl, rfl, rfl⟩

end

/-- Settles O53: `sourceStep_emits` and `drainRule_drains` say what the sources and a drain step do, `killFurrow_owner` what the
end of a furrow leaves of its owner, and `areaNat_areaPuts` that the head of a stored context reads back. -/
theorem furrowLife : Obligations.FurrowLife := by
  unfold Obligations.FurrowLife
  intro s f g i r d p hf srcs
  refine ⟨?_, ?_, ?_, ?_, ?_, ?_⟩
  · intro hsus hsusp hany hroom hfree hemit
    refine ⟨_, rfl, ?_⟩
    rw [onFurrow_running hf, sourceStep_emits s.blk.core s.g.part hsus hsusp hany hroom hfree hemit]
    exact putFurrow_afterReads (furrowAsks_onlyCaches s _ f _) (myPart s) _
  · intro hsus hi hr hd hst hin hheads houts
    refine ⟨_, drainStage f i r, rfl, ?_, isDrained_drainStage f i r⟩
    rw [onFurrow_running hf, drainRule_drains _ hsus hi hr hd hst hin hheads houts]
    exact putFurrow_becomes s _
  · exact fun hat => furrowDrained_ends hf hat
  · exact fun hat => furrowDeadlock_ends hf hat
  · exact fun hat => streamFaultSuspend_stores hf hat i r
  · exact fun hat => furrowReentry_enters hf hat

end Sys2Proof.Machine
end

section
/-! PROOFS. The division of bit vectors meets the cases of R107, and the divider's instructions write it (R306). -/

namespace Sys2Proof.Machine

theorem quotient_zero (signed : Bool) (x : SWord) : quotient signed x 0 = (BitVec.allOnes 64, x) := if_pos rfl

theorem quotient_signed (x : SWord) {y : SWord} (hy : y ≠ 0) : quotient true x y = (x.sdiv y, x.srem y) := if_neg hy

theorem quotient_unsigned (x : SWord) {y : SWord} (hy : y ≠ 0) : quotient false x y = (x / y, x % y) := if_neg hy

/-- R107: the one signed quotient that 64 bits do not hold. -/
theorem quotient_overflow : quotient true (BitVec.intMin 64) (BitVec.allOnes 64) = (BitVec.intMin 64, 0) := by decide

/-- R107: elsewhere the signed quotient is that of the integers. -/
theorem sdiv_toInt {x y : SWord} (h : ¬(x = BitVec.intMin 64 ∧ y = BitVec.allOnes 64)) :
    (x.sdiv y).toInt = x.toInt.tdiv y.toInt := by
  refine BitVec.toInt_sdiv_of_ne_or_ne x y ?_
  rw [BitVec.neg_one_eq_allOnes]
  exact not_and_or.mp h

/-- R107: the model divides integers and numbers, which is the division of bit vectors. -/
theorem divRem_eq_quotient (signed : Bool) (x y : SWord) : divRem signed x y = quotient signed x y := by
  by_cases hy : y = 0
  · rw [hy, quotient_zero]
    exact if_pos rfl
  rw [divRem, if_neg hy]
  cases signed with
  | true =>
    rw [if_pos rfl]
    by_cases hover : x = BitVec.intMin 64 ∧ y = BitVec.allOnes 64
    · rw [if_pos hover, hover.1, hover.2, quotient_overflow]
    · rw [if_neg hover, quotient_signed x hy, ← sdiv_toInt hover, ← BitVec.toInt_srem, BitVec.ofInt_toInt, BitVec.ofInt_toInt]
  | false =>
    rw [if_neg Bool.false_ne_true, quotient_unsigned x hy, ← BitVec.toNat_udiv, ← BitVec.toNat_umod, BitVec.ofNat_toNat,
      BitVec.ofNat_toNat, BitVec.setWidth_eq, BitVec.setWidth_eq]

/-- R107: the quotient or the remainder. -/
def divisionValue (signed rem : Bool) (x y : SWord) : SWord :=
  if rem then (quotient signed x y).2 else (quotient signed x y).1

/-- The state after the body of a division: the value stands in sD, its event in the divider's queue. -/
def afterDivision (s : State) (d : BitVec 6) (v : SWord) : State :=
  modPart (s.withCtx (s.ctx.writeS d.toNat v)) (myPart s) fun p =>
    { p with divQueue := p.divQueue ++ [(s.g.uid, s.g.slot, d.toNat)] }

theorem scalarDiv_body (signed rem : Bool) (d a b : BitVec 6) (s : State) :
    scalarDiv signed rem d a b s.ctx s =
      .ok (afterDivision s d (divisionValue signed rem (s.ctx.readS a.toNat) (s.ctx.readS b.toNat))) := by
  unfold scalarDiv
  rw [divRem_eq_quotient]
  rfl

/-- R306, R107: a division ends with its value in sD and its event alone in the divider's queue. -/
theorem scalarDiv_ends {s : State} (h : Quiet s) (hp : s.ctx.prefixes = []) (i : Instr) (signed rem : Bool) (w : BitVec 3)
    (d a b : BitVec 6) :
    ∃ t, issue i (wrInfo w 0 d a b) (scalarDiv signed rem d a b) s = .next t ∧
      t.ctx = scalarResult s w 0 d (divisionValue signed rem (s.ctx.readS a.toNat) (s.ctx.readS b.toNat)) ∧
      OnlyCtxAndPart s t ∧ t.ctx.status = s.ctx.status ∧
      (getPart t (myPart t)).divQueue = [(s.g.uid, s.g.slot, d.toNat)] := by
  obtain ⟨t, ht, hc, hOnly, hparts⟩ := issue_ctxAndPart h i (wrInfo w 0 d a b) (scalarDiv signed rem d a b) _ (.inr hp) rfl rfl
    rfl (scalarDiv_body signed rem d a b s) rfl
  rw [retireCtx_plain rfl rfl rfl (Ctx.writeS_pc _ _ _) (Ctx.writeS_pend _ _ _), pendAfter_one h.covered _ _ rfl] at hc
  refine ⟨t, ht, hc, hOnly, ?_, ?_⟩
  · rw [hc]
    exact Ctx.writeS_status _ _ _
  · have hkey : myPart t = myPart s := by rw [hOnly]; rfl
    calc (getPart t (myPart t)).divQueue
        = (getPart (afterDivision s d _) (myPart s)).divQueue := by rw [hkey, getPart, hparts]; rfl
      _ = (getPart s (myPart s)).divQueue ++ [(s.g.uid, s.g.slot, d.toNat)] := by
          rw [afterDivision, getPart_modPart_self]
          rfl
      _ = [(s.g.uid, s.g.slot, d.toNat)] := by rw [h.divided, List.nil_append]

/-- Settles O8: `scalarDiv_ends` says what each of the four instructions does; the cases of R107 are those of `quotient`, with
`sdiv_toInt` for the signed quotient. -/
theorem scalarDivision : Obligations.ScalarDivision := by
  refine ⟨fun s w d a b h hp => ⟨?_, ?_, ?_, ?_⟩, fun x y => ⟨?_, ?_, ?_, ?_⟩⟩
  · exact scalarDiv_ends h hp (.sdivs w d a b) true false w d a b
  · exact scalarDiv_ends h hp (.sdivu w d a b) false false w d a b
  · exact scalarDiv_ends h hp (.srems w d a b) true true w d a b
  · exact scalarDiv_ends h hp (.sremu w d a b) false true w d a b
  · rintro rfl
    exact ⟨quotient_zero true x, quotient_zero false x⟩
  · rintro rfl rfl
    exact quotient_overflow
  · intro hy hover
    rw [quotient_signed x hy]
    refine ⟨sdiv_toInt hover, ?_⟩
    rw [BitVec.toInt_srem, Int.tmod_def, Int.mul_comm]
  · intro hy
    rw [quotient_unsigned x hy]
    refine ⟨BitVec.toNat_udiv, ?_⟩
    rw [BitVec.toNat_umod, Nat.mod_eq_sub, Nat.mul_comm]

end Sys2Proof.Machine
end

section
/-! SUPPORT. What the matrix instructions share (R13, R37, R153): an instruction of 8 bytes retires, registers in a row are written
one after another, and a scratch access passes its checks. -/

namespace Sys2Proof.Machine

/-- An instruction of 8 bytes that neither jumps nor prefixes nor releases, without a fixed latency and a trap of its own. -/
structure PlainLong (inf : Info) : Prop where
  size : inf.size = 8
  marks : inf.marks = []
  jumps : inf.jumps = false
  imx : inf.imx = none
  latency : inf.latency = 0
  first : inf.first = none

/-- Of a group nothing differs but its context, the states that a window keeps, and whether it is due to be swapped out; and the
context stands at the same PC with the same results on their way and prefixes. -/
structure SameIssue (g h : Group) : Prop where
  group : h = { g with ctx := h.ctx, undo := h.undo, swapDue := h.swapDue }
  pc : h.ctx.pc = g.ctx.pc
  pend : h.ctx.pend = g.ctx.pend
  prefixes : h.ctx.prefixes = g.ctx.prefixes

/-- R13: what retirement makes of the context of a plain instruction of 8 bytes. -/
theorem retireCtx_long {inf : Info} {c0 c : Ctx} (hi : PlainLong inf) (hpc : c.pc = c0.pc) (hpend : c.pend = [])
    (hp : c.prefixes = []) : retireCtx inf c0 c = { c with pc := c0.pc + 8 } := by
  rw [retireCtx, pendAfter_none (c := { c0 with pend := c.pend }) hpend inf hi.latency]
  simp only [hi.marks, releaseMarks_nil, hi.jumps, hi.imx, hi.size, hpc, hpend, hp, Bool.false_eq_true, if_false]
  rfl

/-- R211, R13: a plain instruction of 8 bytes that nothing stands in the way of, and whose body ends well, retires. -/
theorem issue_long {s u : State} (h : Quiet s) (hp : s.ctx.prefixes = []) {i : Instr} {inf : Info}
    {body : Ctx → State → Except Halt State} (hi : PlainLong inf) (hl : inf.ill = false) (hr : regsOk s inf = true)
    (hb : body s.ctx s = .ok u) (hu : SameIssue s.g u.g) :
    ∃ t, issue i inf body s = .next t ∧ t.ctx = { u.ctx with pc := s.ctx.pc + 8 } ∧
      t = { u with g := { u.g with ctx := t.g.ctx, pmc := t.g.pmc, arriving := t.g.arriving } } := by
  obtain ⟨hg, hpc, hpend, hprefixes⟩ := hu
  have hsuspects : u.g.suspects = [] := by
    rw [hg]
    exact h.unsuspected
  refine ⟨_, issue_next h i inf body (.inr hp) hl hr hi.first hsuspects hb, ?_⟩
  rw [retire_quiet (s := s) i inf (by rw [hg]) (by rw [hg]; exact h.noWindow) (by rw [hg]; exact h.cleanV)
    (by rw [hg]; exact h.cleanS)]
  refine ⟨?_, rfl⟩
  simp only [modG_ctx, modG_g, countEvt_ctx]
  exact retireCtx_long hi hpc (hpend.trans h.covered) (hprefixes.trans hp)

/-- R211: an instruction that nothing stands in the way of, and whose body does not end well. -/
theorem issue_halted {s : State} (h : Quiet s) (hp : s.ctx.prefixes = []) {i : Instr} {inf : Info}
    {body : Ctx → State → Except Halt State} {e : Halt} (hi : PlainLong inf) (hl : inf.ill = false)
    (hr : regsOk s inf = true) (hb : body s.ctx s = .error e) : issue i inf body s = halted s i inf e := by
  rw [issue_body h i inf body (.inr hp) hl hr hi.first, hb]

@[simp] theorem mem_regRange {b n r : Nat} : r ∈ regRange b n ↔ b ≤ r ∧ r < b + n := by
  simp only [regRange, List.mem_map, List.mem_range]
  exact ⟨fun ⟨k, hk, he⟩ => by omega, fun ⟨hb, hn⟩ => ⟨r - b, by omega, by omega⟩⟩

@[simp] theorem vecRegs_vecReads (l : List Nat) : vecRegs (vecReads l) = l := by
  induction l with
  | nil => rfl
  | cons r t ih => exact congrArg (r :: ·) ih

/-- A scalar, address or predicate register is no vector register. -/
theorem vecRegs_cons_of_ne {r : RegClass × Nat} (h : r.1 ≠ .vector) (l : List (RegClass × Nat)) :
    vecRegs (r :: l) = vecRegs l := by
  simp [vecRegs, h]

/-- R37: registers in a row lie below the allocation. -/
theorem regRange_fits {s : State} {b n : Nat} (h : b + n ≤ s.blk.regs) :
    (regRange b n).all (fun r => decide (r < s.blk.regs)) = true := by
  simp only [List.all_eq_true, mem_regRange, decide_eq_true_eq]
  omega

section

variable (c : Ctx) (b : Nat) (m : Mask) (x : Nat → Nat → Lane)

/-- Registers in a row, each written in the lanes of a mask. -/
def setRows (n : Nat) : Ctx := (List.range n).foldl (fun c r => c.setV (b + r) m (x r)) c

theorem setRows_succ (n : Nat) : setRows c b m x (n + 1) = (setRows c b m x n).setV (b + n) m (x n) := by
  simp [setRows, List.range_succ]

theorem setRows_frame (n : Nat) :
    setRows c b m x n = { c with v := (setRows c b m x n).v, released := (setRows c b m x n).released } := by
  induction n with
  | zero => rfl
  | succ n ih =>
    rw [setRows_succ, ih]
    rfl

@[simp] theorem setRows_pc (n : Nat) : (setRows c b m x n).pc = c.pc := by rw [setRows_frame]

@[simp] theorem setRows_pend (n : Nat) : (setRows c b m x n).pend = c.pend := by rw [setRows_frame]

@[simp] theorem setRows_prefixes (n : Nat) : (setRows c b m x n).prefixes = c.prefixes := by rw [setRows_frame]

theorem setRows_lane (n r : Nat) {l : Nat} (hl : l < 32) :
    (setRows c b m x n).lane r l = if b ≤ r ∧ r < b + n ∧ laneOn m l = true then x (r - b) l else c.lane r l := by
  induction n with
  | zero => exact (if_neg (by omega)).symm
  | succ n ih =>
    rw [setRows_succ, lane_setV _ _ _ _ _ _ hl, ih]
    by_cases hr : r = b + n
    · subst hr
      by_cases hm : laneOn m l = true
      · simp [hm]
      · simp [hm]
    · have hlt : r < b + n ↔ r < b + (n + 1) := by omega
      simp [hr, hlt]

end

/-- R153, R133, R223: scratch accesses that are aligned, in the window and, where they read, without poison pass their checks. -/
theorem checkScratch_ok {b : Block} {n : Nat} {read : Bool} {l : List (Option (BitVec 5) × Nat)}
    (h : ∀ x ∈ l, InScratch b n x.2 ∧ (read = true → scratchPoisoned b x.2 n = false)) : checkScratch b n read l = .ok () := by
  have halign : (l.find? fun x => x.2 % n != 0) = none := by
    simpa using fun a o hx => (h (a, o) hx).1.1
  have hbusy : (l.any fun x => windowBusy b x.2 n) = false := by
    simpa using fun a o hx => (h (a, o) hx).1.2.1
  have hwindow : (l.find? fun x => !inWindow b x.2 n) = none := by
    simpa using fun a o hx => (h (a, o) hx).1.2.2
  have hclean : (l.find? fun x => read && scratchPoisoned b x.2 n) = none := by
    simpa using fun a o hx => (h (a, o) hx).2
  simp [checkScratch, halign, hbusy, hwindow, hclean]

end Sys2Proof.Machine
end

section
/-! SUPPORT. What MLDF reads (R127): words of scratch bytes, plain or put together of elements. -/

namespace Sys2Proof.Machine

theorem leNat_append (a b : List Byte) : leNat (a ++ b) = leNat a + 256 ^ a.length * leNat b := by
  induction a with
  | nil => simp [leNat]
  | cons x t ih =>
    simp only [List.cons_append, leNat, ih, List.length_cons, pow_succ]
    ring

theorem leNat_lt (l : List Byte) : leNat l < 256 ^ l.length := by
  induction l with
  | nil => simp [leNat]
  | cons x t ih =>
    have hx := x.isLt
    simp only [leNat, List.length_cons, pow_succ]
    omega

theorem pow_256_eq (e : Nat) : 256 ^ e = 2 ^ (8 * e) := (pow_mul 2 8 e).symm

/-- R100: element i of elements of e bytes put side by side. -/
theorem elemN_leNat_flatMap {α : Type} {g : α → List Byte} {e : Nat} (h : ∀ x, (g x).length = e) (l : List α) {i : Nat}
    (hi : i < l.length) : elemN (leNat (l.flatMap g)) (8 * e) i = leNat (g l[i]) := by
  have hlt (x : α) : leNat (g x) < 2 ^ (8 * e) := by
    rw [← pow_256_eq, ← h x]
    exact leNat_lt _
  induction l generalizing i with
  | nil => cases hi
  | cons x t ih =>
    rw [List.flatMap_cons, leNat_append, h, pow_256_eq]
    cases i with
    | zero => simp [elemN, Nat.mod_eq_of_lt (hlt x)]
    | succ i =>
      rw [elemN, Nat.mul_succ, Nat.add_comm (8 * e * i), pow_add, ← Nat.div_div_eq_div_mul,
        Nat.add_mul_div_left _ _ (Nat.two_pow_pos _), Nat.div_eq_of_lt (hlt x), Nat.zero_add]
      exact ih _

theorem scratchRead_length (s : State) (b : Block) (off n : Nat) : (scratchRead s b off n).length = n := by
  simp [scratchRead]

/-- R127: the elements of a transposed plane are of one or two bytes, and as many as a word holds. -/
theorem efWidth_bytes {ef : BitVec 3} (h : ef.toNat < 6) :
    efWidth ef / 8 = 1 ∨ efWidth ef / 8 = 2 := by
  unfold efWidth
  split_ifs <;> simp

/-- R127: the bytes of a word of a plane as it stands. -/
theorem mldfWord_plain {s : State} {f : LfF} (ht : f.t = false) (off pitch w : Nat) :
    (mldfWord s f off pitch w).toNat = leNat (scratchRead s s.blk (off + w / 8 * pitch + 4 * (w % 8)) 4) := by
  have hlt := leNat_lt (scratchRead s s.blk (off + w / 8 * pitch + 4 * (w % 8)) 4)
  rw [scratchRead_length] at hlt
  simpa [mldfWord, mldfOffsets, mldfSize, ht] using hlt

/-- R127: the elements of a word of a transposed plane. -/
theorem mldfWord_transposed {s : State} {f : LfF} (ht : f.t = true) (hef : f.ef.toNat < 6) (off pitch w : Nat) {i : Nat}
    (hi : i < 4 / (efWidth f.ef / 8)) :
    let e := efWidth f.ef / 8
    elemN (mldfWord s f off pitch w).toNat (8 * e) i =
      leNat (scratchRead s s.blk (off + (w % 8 * (4 / e) + i) * pitch + w / 8 * e) e) := by
  intro e
  let l := (List.range (4 / e)).map fun i => off + (w % 8 * (4 / e) + i) * pitch + w / 8 * e
  have hword : (mldfWord s f off pitch w).toNat = leNat (l.flatMap fun o => scratchRead s s.blk o e) := by
    have hlt := leNat_lt (l.flatMap fun o => scratchRead s s.blk o e)
    have hlen : (l.flatMap fun o => scratchRead s s.blk o e).length = 4 := by
      simp only [List.length_flatMap, scratchRead_length, List.map_const', List.sum_replicate, l, List.length_map,
        List.length_range, smul_eq_mul]
      rcases efWidth_bytes hef with he | he <;> simp [e, he]
    rw [hlen] at hlt
    simp only [mldfWord, mldfOffsets, mldfSize, ht, if_true, BitVec.toNat_ofNat]
    exact Nat.mod_eq_of_lt hlt
  rw [hword, elemN_leNat_flatMap (fun o => scratchRead_length s s.blk o e) l (by simpa [l] using hi)]
  simp [l]

/-- R161, R166: of a scratch read of the group in focus nothing changes but what has been seen of engine writes. -/
theorem looseRead_frame (s : State) (uid n : Nat) (los : List Nat) :
    let t := looseRead s uid n los
    t = { s with loose := t.loose, broken := t.broken } ∧
      t.loose.map (fun x => { x with known := [] }) = s.loose.map (fun x => { x with known := [] }) ∧
      (s.loose = [] → t.broken = s.broken) := by
  refine ⟨rfl, ?_, fun h => ?_⟩
  · simp [looseRead, Function.comp_def]
  · simp [looseRead, tooLate, h]

end Sys2Proof.Machine
end

section
/-! PROOFS. MLDF loads a plane from scratch, once the cube queue has room (R127, R113). -/

namespace Sys2Proof.Machine

section

variable {s : State} {f : LfF}

/-- The scratch offset of an MLDF of the group in focus. -/
def mldfOff (s : State) (f : LfF) : Nat := (s.ctx.readS f.off.toNat).toNat % 2 ^ 32

/-- The pitch of an MLDF of the group in focus. -/
def mldfPitch (s : State) (f : LfF) : Nat := (s.ctx.readS f.pitch.toNat).toNat % 2 ^ 32

/-- R127: the registers that hold the rows of an MLDF. -/
def mldfCount (f : LfF) : Nat := if mldfRows f = 1 then 1 else mldfRows f / 4

/-- R127: the lanes that an MLDF writes. -/
def mldfMask (s : State) (f : LfF) : Mask :=
  if mldfRows f = 1 then s.ctx.takePart f.g &&& 0xFF else s.ctx.takePart f.g

/-- What issue needs of an MLDF. -/
def mldfInfo (f : LfF) : Info where
  size := 8
  reads := [(.predicate, f.g.pg.toNat), (.scalar, f.off.toNat), (.scalar, f.pitch.toNat)]
  writes := vecReads (rowRegs f.base.toNat (mldfRows f))
  closes := true
  guard := some f.g
  writeLanes := if f.rows = 0 then some 0xFF else none

theorem exec_mldf (s : State) (f : LfF) : exec (.mldf f) s = issue (.mldf f) (mldfInfo f) (mldfBody f) s := rfl

theorem mldfInfo_plain (f : LfF) : PlainLong (mldfInfo f) := ⟨rfl, rfl, rfl, rfl, rfl, rfl⟩

theorem regsOk_mldf (h : f.base.toNat + mldfCount f ≤ s.blk.regs) : regsOk s (mldfInfo f) = true := by
  have hregs : vecRegs (mldfInfo f).writes = regRange f.base.toNat (mldfCount f) := vecRegs_vecReads _
  unfold regsOk
  rw [hregs]
  simpa [mldfInfo, vecRegs] using regRange_fits h

/-- What an MLDF leaves where it loads: the rows in their registers. -/
def mldfLoaded (s : State) (f : LfF) : State :=
  modCtx (looseRead s s.blk.uid (mldfSize f) (mldfOffs f (mldfOff s f) (mldfPitch s f) (s.ctx.takePart f.g))) fun c =>
    setRows c f.base.toNat (mldfMask s f) (fun r l => mldfWord s f (mldfOff s f) (mldfPitch s f) (32 * r + l)) (mldfCount f)

theorem mldfLoaded_sameIssue (s : State) (f : LfF) : SameIssue s.g (mldfLoaded s f).g :=
  ⟨rfl, setRows_pc _ _ _ _ _, setRows_pend _ _ _ _ _, setRows_prefixes _ _ _ _ _⟩

theorem mldfLoaded_ctx (s : State) (f : LfF) :
    (mldfLoaded s f).ctx = { s.ctx with v := (mldfLoaded s f).ctx.v, released := (mldfLoaded s f).ctx.released } :=
  setRows_frame s.ctx _ _ _ _

/-- R127: what an MLDF loads, lane by lane. -/
theorem mldfLoaded_lane (r : Nat) {l : Nat} (hl : l < 32) :
    (mldfLoaded s f).ctx.lane r l =
      if f.base.toNat ≤ r ∧ r < f.base.toNat + mldfCount f ∧ laneOn (mldfMask s f) l = true then
        mldfWord s f (mldfOff s f) (mldfPitch s f) (32 * (r - f.base.toNat) + l)
      else s.ctx.lane r l := setRows_lane s.ctx _ _ _ _ r hl

/-- R127: an MLDF with room, aligned, whose reads pass their checks. -/
theorem mldfBody_loads (hroom : (getCore s s.blk.core).cubeQ.length < 4) (hoff : mldfOff s f % 16 = 0)
    (hpitch : mldfPitch s f % 16 = 0)
    (hreads : ∀ l < 32, takesPart s.ctx f.g l = true → ∀ w ∈ mldfWords (mldfRows f) l,
      ∀ o ∈ mldfOffsets f (mldfOff s f) (mldfPitch s f) w,
        InScratch s.blk (mldfSize f) o ∧ scratchPoisoned s.blk o (mldfSize f) = false) :
    mldfBody f s.ctx s = .ok (mldfLoaded s f) := by
  have hq : cubeRoom s s.blk.core = true := decide_eq_true hroom
  have ha : mldfAlign (mldfOff s f) (mldfPitch s f) = none := by simp [mldfAlign, hoff, hpitch]
  have hs : checkScratch s.blk (mldfSize f) true ((lanesOf (s.ctx.takePart f.g)).flatMap fun l =>
      (mldfWords (mldfRows f) l).flatMap fun w => (mldfOffsets f (mldfOff s f) (mldfPitch s f) w).map fun o =>
        (some (BitVec.ofNat 5 l), o)) = .ok () := by
    refine checkScratch_ok fun x hx => ?_
    simp only [List.mem_flatMap, List.mem_map, mem_lanesOf] at hx
    obtain ⟨l, ⟨hl, hpart⟩, w, hw, o, ho, rfl⟩ := hx
    obtain ⟨hin, hclean⟩ := hreads l hl ((laneOn_takePart _ _ hl).symm.trans hpart) w hw o ho
    exact ⟨hin, fun _ => hclean⟩
  unfold mldfOff mldfPitch at ha hs
  unfold mldfBody
  simp only [hq, ha, hs, Bool.not_true, Bool.false_eq_true, if_false]
  rfl

/-- R14, R127: a lane of a register is written where the register holds rows, the lane takes part, and the row reaches it. -/
theorem laneOn_mldfMask {l : Nat} (hl : l < 32) :
    laneOn (mldfMask s f) l = true ↔ takesPart s.ctx f.g l = true ∧ (mldfRows f = 1 → l < 8) := by
  have hlow : ∀ l < 32, laneOn 0xFF l = decide (l < 8) := by decide
  unfold mldfMask
  split
  next h =>
    have hand : laneOn (s.ctx.takePart f.g &&& 0xFF) l = (laneOn (s.ctx.takePart f.g) l && laneOn 0xFF l) :=
      BitVec.getLsbD_and
    rw [hand, hlow l hl, laneOn_takePart _ _ hl]
    simp [h]
  next h => simp [laneOn_takePart _ _ hl, h]

end

/-- Settles O36: `mldfBody_loads` and `issue_long` give the state, `setRows_lane` its lanes, `mldfWord_plain` and
`mldfWord_transposed` their words. -/
theorem planeLoads : Obligations.PlaneLoads := by
  intro s f h hp _ hef q count off pitch e byte hregs
  refine ⟨fun hroom hoff hpitch hreads => ?_, fun hfull => ?_⟩
  · obtain ⟨t, ht, hctx, hframe⟩ := issue_long h hp (mldfInfo_plain f) rfl (regsOk_mldf hregs)
      (mldfBody_loads hroom hoff hpitch hreads) (mldfLoaded_sameIssue s f)
    obtain ⟨-, hknown, hbroken⟩ := looseRead_frame s s.blk.uid (mldfSize f) (mldfOffs f off pitch (s.ctx.takePart f.g))
    have hlane (r l : Nat) : t.ctx.lane r l = (mldfLoaded s f).ctx.lane r l := by rw [hctx]; rfl
    refine ⟨t, ht, ⟨?_, ?_, ?_⟩, ?_, fun r l hl => ?_⟩
    · rw [hframe]
      rfl
    · rw [hframe]
      exact hknown
    · rw [hframe]
      exact hbroken
    · rw [hctx, mldfLoaded_ctx]
    · intro w part
      have hw : (mldfLoaded s f).ctx.lane r l = if part then mldfWord s f off pitch w else s.ctx.lane r l := by
        rw [mldfLoaded_lane r hl]
        simp only [laneOn_mldfMask hl]
        rfl
      rw [hlane, hw]
      refine ⟨fun hno => if_neg hno, fun hpart hplain => ?_, fun hpart htrans i hi => ?_⟩
      · rw [if_pos hpart]
        exact mldfWord_plain hplain off pitch w
      · rw [if_pos hpart]
        exact mldfWord_transposed htrans hef off pitch w hi
  · have hbody : mldfBody f s.ctx s = .error (.wait (.cube s.blk.core)) := by
      have hq : cubeRoom s s.blk.core = false := decide_eq_false (by omega)
      simp [mldfBody, hq]
    rw [exec_mldf, issue_halted h hp (mldfInfo_plain f) rfl (regsOk_mldf hregs) hbody]
    rfl

end Sys2Proof.Machine
end

section
/-! SUPPORT. The cube queues of the cores (R113): what joins one leaves the others as they were. -/

namespace Sys2Proof.Machine

theorem getCore_modCore_self (s : State) (k : Nat) (f : Core → Core) : getCore (modCore s k f) k = f (getCore s k) :=
  mget_mset_self _ _ _ _

theorem getCore_modCore_ne (s : State) {k j : Nat} (f : Core → Core) (h : j ≠ k) :
    getCore (modCore s k f) j = getCore s j := mget_mset_ne _ _ _ h

/-- R113, R13: a plain instruction of 8 bytes whose body accepts an operation of its block retires where the queue has room: the
operation stands at the end of the queue, and nothing else changes. -/
theorem issue_accepts {s : State} (h : Quiet s) (hp : s.ctx.prefixes = []) {i : Instr} {inf : Info}
    {body : Ctx → State → Except Halt State} {op : CubeOp} (hi : PlainLong inf) (hl : inf.ill = false)
    (hr : regsOk s inf = true) (hb : body s.ctx s = acceptOwn s op) (hroom : (getCore s s.blk.core).cubeQ.length < 4) :
    ∃ t, issue i inf body s = .next t ∧
      t = { s with g := { s.g with ctx := t.g.ctx, pmc := t.g.pmc, arriving := t.g.arriving }, cores := t.cores } ∧
      t.ctx = { s.ctx with pc := s.ctx.pc + 8 } ∧
      getCore t s.blk.core = { getCore s s.blk.core with
        cubeQ := (getCore s s.blk.core).cubeQ ++ [⟨s.blk.uid, op, []⟩] } ∧
      ∀ k, k ≠ s.blk.core → getCore t k = getCore s k := by
  have hbody : body s.ctx s = .ok (acceptJob s s.blk.core ⟨s.blk.uid, op, []⟩) := by
    rw [hb, acceptOwn, cubeRoom, if_pos (decide_eq_true hroom)]
  obtain ⟨t, ht, hctx, hframe⟩ := issue_long (u := acceptJob s s.blk.core ⟨s.blk.uid, op, []⟩) (i := i) h hp hi hl hr hbody
    ⟨rfl, rfl, rfl, rfl⟩
  have hcores (k : Nat) : getCore t k = getCore (acceptJob s s.blk.core ⟨s.blk.uid, op, []⟩) k := by
    rw [hframe]
    rfl
  refine ⟨t, ht, ?_, hctx, (hcores _).trans (getCore_modCore_self _ _ _),
    fun k hk => (hcores k).trans (getCore_modCore_ne _ _ hk)⟩
  rw [hframe]
  rfl

theorem putWords_append (p l l' : List (Nat × Lane)) : putWords p (l ++ l') = putWords (putWords p l) l' := by
  induction l generalizing p with
  | nil => rfl
  | cons e t ih => exact ih _

/-- Words put at the places from 0 on. -/
theorem mget_putWords_range (p : List (Nat × Lane)) (x : Nat → Lane) (n k : Nat) :
    mget 0 (putWords p ((List.range n).map fun i => (i, x i))) k = if k < n then x k else mget 0 p k := by
  induction n with
  | zero => rfl
  | succ n ih =>
    rw [List.range_succ, List.map_append, putWords_append]
    show mget 0 (mset 0 (putWords p _) n (x n)) k = _
    rw [mget_mset, ih]
    by_cases hk : k = n
    · subst hk
      simp
    · have hlt : k < n ↔ k < n + 1 := by omega
      simp [hk, hlt]

end Sys2Proof.Machine
end

section
/-! PROOFS. Matrix operations and gangs that have joined are accepted into cube order (R113, R129, R119). -/

namespace Sys2Proof.Machine

section

variable {s : State} {f : LzF}

/-- What issue needs of an MZERO. -/
def mzeroInfo (s : State) (f : LzF) : Info :=
  { size := 8, closes := true, ill := tileOut s.blk f.arow f.mc f.acol f.nc }

/-- What issue needs of an MWRZ. -/
def mwrzInfo (s : State) (f : LzF) : Info :=
  { size := 8, reads := (.predicate, f.g.pg.toNat) :: vecReads (tileRegs f), closes := true, lands := tileRegs f
    guard := some f.g, ill := tileOut s.blk f.arow f.mc f.acol f.nc }

/-- What issue needs of an MSCL. -/
def msclInfo (s : State) (f : LzF) : Info :=
  { size := 8, reads := vecReads (regRange f.base.toNat ((scaleCount f + 31) / 32)), closes := true
    lands := regRange f.base.toNat ((scaleCount f + 31) / 32)
    readLanes := if scaleCount f = 16 then some 0xFFFF else none
    ill := tileOut s.blk f.arow f.mc f.acol f.nc }

theorem exec_mzero (s : State) (f : LzF) :
    exec (.mzero f) s = issue (.mzero f) (mzeroInfo s f) (fun _ s => acceptOwn s (.zero f)) s := rfl

theorem exec_mwrz (s : State) (f : LzF) : exec (.mwrz f) s = issue (.mwrz f) (mwrzInfo s f) (mwrzBody f) s := rfl

theorem exec_mscl (s : State) (f : LzF) : exec (.mscl f) s = issue (.mscl f) (msclInfo s f) (msclBody f) s := rfl

theorem regsOk_mwrz (h : f.base.toNat + rowsOf f.mc * colsOf f.nc / 32 ≤ s.blk.regs) : regsOk s (mwrzInfo s f) = true := by
  have hregs : vecRegs (mwrzInfo s f).reads = regRange f.base.toNat (rowsOf f.mc * colsOf f.nc / 32) :=
    (vecRegs_cons_of_ne (r := (.predicate, _)) (by simp) _).trans (vecRegs_vecReads _)
  unfold regsOk
  rw [hregs]
  simpa [mwrzInfo, vecRegs] using regRange_fits h

theorem regsOk_mscl (h : f.base.toNat + (scaleCount f + 31) / 32 ≤ s.blk.regs) : regsOk s (msclInfo s f) = true := by
  have hregs : vecRegs (msclInfo s f).reads = regRange f.base.toNat ((scaleCount f + 31) / 32) := vecRegs_vecReads _
  unfold regsOk
  rw [hregs]
  simpa [msclInfo, vecRegs] using regRange_fits h

/-- R129: the words of a tile whose lanes take part. -/
theorem mem_tileWords {w : Nat} : w ∈ tileWords f (s.ctx.takePart f.g) ↔
    w < rowsOf f.mc * colsOf f.nc ∧ takesPart s.ctx f.g (w % 32) = true := by
  simp [tileWords, laneOn_takePart _ _ (Nat.mod_lt w (by decide : 32 > 0))]

end

section

variable {s : State} {j : Join} {rest : List Join}

/-- R113: the join of a block by itself enters cube order alone. -/
theorem joinHeads_own {b : Block} (hj : j.span = false) {y : Join}
    (hy : b.joined.find? (fun y => y.span == j.span && y.gid == j.gid) = some y) : joinHeads s b j = [(b, y)] := by
  rw [joinHeads, hj, if_neg Bool.false_ne_true, ← hj, List.filterMap_cons, hy]
  rfl

theorem joinRoom_own {b : Block} (hj : j.span = false) (hmem : j ∈ b.joined) :
    joinRoom s b j = cubeRoom s b.core := by
  obtain ⟨y, hy⟩ := Option.isSome_iff_exists.mp
    (List.find?_isSome (p := fun y => y.span == j.span && y.gid == j.gid).mpr ⟨j, hmem, by simp⟩)
  simp [joinRoom, joinHeads_own hj hy, hj]

theorem retireMember_place (regs : List Nat) (lr : Bool) (g : Group) :
    (retireMember regs lr g).uid = g.uid ∧ (retireMember regs lr g).slot = g.slot ∧
      (retireMember regs lr g).run = .ready := by
  unfold retireMember
  cases lr <;> exact ⟨rfl, rfl, rfl⟩

/-- R119: after the members of a join have retired, each of them is ready. -/
theorem retireJoin_ready (u : State) (b : Block) (j : Join) :
    ∀ g ∈ (retireJoin u b j).g :: (retireJoin u b j).groups, g.uid = b.uid → laneOn j.members g.slot = true →
      g.run = .ready := by
  intro g hg huid hslot
  obtain ⟨g0, -, rfl⟩ : ∃ g0 ∈ u.g :: u.groups, (if g0.uid == b.uid && laneOn j.members g0.slot then
      retireMember (memberRegs (latchField g0) g0.ctx.gang g0.slot j.span (b.spanPos == 0)) (latchField g0).lr g0
    else g0) = g := List.mem_map.mp hg
  split at huid
  next hat =>
    rw [if_pos hat]
    exact (retireMember_place _ _ _).2.2
  next hat =>
    rw [if_neg hat] at hslot
    exact absurd (by simp [huid, hslot]) hat

/-- R113, R119: the first join of the block in focus, one of its own, is accepted where its queue has room. -/
theorem acceptJoin_own (hjoined : s.blk.joined = j :: rest) (hj : j.span = false)
    (hroom : (getCore s s.blk.core).cubeQ.length < 4) :
    acceptJoin s s.blk = modBlks (retireJoin (acceptJob s s.blk.core (joinJob s s.blk j none (joinMembers s.blk.uid j)))
      s.blk j) fun x => if s.blk.uid = x.uid then { x with joined := x.joined.erase j } else x := by
  have hmem : j ∈ s.blk.joined := hjoined ▸ List.mem_cons_self
  have hfirst : s.blk.joined.find? (joinRoom s s.blk) = some j := by
    have hj' : joinRoom s s.blk j = true := (joinRoom_own hj hmem).trans (decide_eq_true hroom)
    rw [hjoined, List.find?_cons_of_pos hj']
  have hheads : joinHeads s s.blk j = [(s.blk, j)] := joinHeads_own hj (by simp [hjoined])
  unfold acceptJoin
  simp only [hfirst, hheads, hj, Bool.false_eq_true, if_false, List.foldl_cons, List.foldl_nil, List.flatMap_cons,
    List.flatMap_nil, List.append_nil]
  congr 1
  funext x
  by_cases hx : s.blk.uid = x.uid <;> simp [hx]

end

/-- Settles O37: `issue_accepts` for the three instructions, `acceptJoin_own` for a gang that has joined. -/
theorem cubeAccepts : Obligations.CubeAccepts := by
  refine ⟨fun s f h hp htile hroom => ?_, fun s j rest hjoined hj halone => ⟨fun hroom => ?_, fun hfull hown => ?_⟩⟩
  intro accepted
  refine ⟨?_, fun hregs => ?_, fun hregs => ?_⟩
  · obtain ⟨t, ht, hstate⟩ := issue_accepts (i := .mzero f) (body := fun _ s => acceptOwn s (.zero f)) h hp
      (inf := mzeroInfo s f) ⟨rfl, rfl, rfl, rfl, rfl, rfl⟩ htile rfl rfl hroom
    exact ⟨t, _, ht, rfl, hstate⟩
  · obtain ⟨t, ht, hstate⟩ := issue_accepts (i := .mwrz f) (body := mwrzBody f) h hp
      (inf := mwrzInfo s f) ⟨rfl, rfl, rfl, rfl, rfl, rfl⟩ htile (regsOk_mwrz hregs) rfl hroom
    refine ⟨t, _, ht, ⟨_, rfl, fun w x => ?_⟩, hstate⟩
    simp only [List.mem_map, mem_tileWords, Prod.mk.injEq]
    constructor
    · rintro ⟨v, hv, rfl, rfl⟩
      exact ⟨hv.1, hv.2, rfl⟩
    · rintro ⟨hlt, hpart, rfl⟩
      exact ⟨w, ⟨hlt, hpart⟩, rfl, rfl⟩
  · obtain ⟨t, ht, hstate⟩ := issue_accepts (i := .mscl f) (body := msclBody f) h hp
      (inf := msclInfo s f) ⟨rfl, rfl, rfl, rfl, rfl, rfl⟩ htile (regsOk_mscl hregs) rfl hroom
    refine ⟨t, _, ht, ⟨_, rfl, fun i hi => ?_⟩, hstate⟩
    exact (mget_putWords_range [] _ _ i).trans (if_pos hi)
  · refine ⟨acceptJoin s s.blk, rfl, ?_⟩
    rw [acceptJoin_own hjoined hj hroom]
    refine ⟨rfl, ?_, ?_, ?_, retireJoin_ready _ _ _⟩
    · refine (List.map_congr_left fun b hb => if_neg (halone b hb).symm).trans (List.map_id _)
    · show (if s.blk.uid = s.blk.uid then _ else _) = _
      rw [if_pos rfl]
      show { s.blk with joined := s.blk.joined.erase j } = _
      rw [hjoined, List.erase_cons_head]
    · exact congrArg Core.cubeQ (getCore_modCore_self s s.blk.core fun c =>
        { c with cubeQ := c.cubeQ ++ [joinJob s s.blk j none (joinMembers s.blk.uid j)] })
  · have hnone : s.blk.joined.find? (joinRoom s s.blk) = none := by
      refine List.find?_eq_none.mpr fun y hy => ?_
      have hspan : y.span = false := by
        rw [hjoined] at hy
        exact (List.mem_cons.mp hy).elim (fun he => he ▸ hj) (hown y)
      rw [joinRoom_own hspan hy]
      simpa [cubeRoom] using hfull
    show Host.Outcome.next (acceptJoin s s.blk) = _
    rw [acceptJoin, hnone]

end Sys2Proof.Machine
end

section
/-! SUPPORT. What running the operations of a cube queue leaves (R113, R126): all of the device but accumulators, SATF and the
queues themselves. -/

namespace Sys2Proof.Machine

/-- Of a block nothing differs but its accumulators and their poison. -/
def OnlyAcc (x y : Block) : Prop := y = { x with acc := y.acc, accPoison := y.accPoison }

namespace OnlyAcc

variable {x y z : Block}

theorem refl (x : Block) : OnlyAcc x x := rfl

theorem trans (a : OnlyAcc x y) (b : OnlyAcc y z) : OnlyAcc x z := by
  rw [OnlyAcc, b, a]

theorem foldl {α : Type} (x : Block) (l : List α) {f : Block → α → Block} (h : ∀ y e, OnlyAcc y (f y e)) :
    OnlyAcc x (l.foldl f x) :=
  List.foldlRecOn l f (motive := OnlyAcc x) (refl x) fun y hy e _ => hy.trans (h y e)

end OnlyAcc

theorem passTile_onlyAcc (f : LcF) (a b c : List (Nat × Lane)) (l : List (Nat × Nat)) (x : Block) :
    OnlyAcc x (passTile f a b c l x).1 := by
  induction l generalizing x with
  | nil => rfl
  | cons e t ih => exact OnlyAcc.trans (y := setAcc x _ _ _ _) rfl (ih _)

/-- R124 to R129: a queued operation writes accumulators of its block alone. -/
theorem runOp_onlyAcc (op : CubeOp) (x : Block) : OnlyAcc x (runOp op x).1 := by
  cases op with
  | pass f a b c => exact passTile_onlyAcc _ _ _ _ _ _
  | zero f => exact .foldl _ _ fun _ _ => rfl
  | write f words => exact .foldl _ _ fun _ _ => rfl
  | scale f scales => exact .foldl _ _ fun _ _ => rfl

/-- R113, R126: operations of cube queues have run: of the group in focus SATF may have been set, there and where a window keeps its
context, and of its block accumulators may have changed. -/
structure CubeRan (s t : State) : Prop where
  state : t = { s with g := t.g, groups := t.groups, blk := t.blk, blks := t.blks, cores := t.cores }
  blk : OnlyAcc s.blk t.blk
  group : t.g = { s.g with ctx := t.g.ctx, window := t.g.window, undo := t.g.undo }
  ctx : t.ctx = { s.ctx with status := t.ctx.status }
  window : s.g.window = none → t.g.window = none

namespace CubeRan

variable {s t u : State}

theorem refl (s : State) : CubeRan s s := ⟨rfl, rfl, rfl, rfl, id⟩

theorem trans (a : CubeRan s t) (b : CubeRan t u) : CubeRan s u where
  state := by rw [b.state, a.state]
  blk := a.blk.trans b.blk
  group := by rw [b.group, a.group]
  ctx := by rw [b.ctx, a.ctx]
  window h := b.window (a.window h)

theorem mem (a : CubeRan s t) : t.mem = s.mem := by rw [a.state]

theorem memKey (a : CubeRan s t) : t.memKey = s.memKey := by rw [a.state]

theorem scratch (a : CubeRan s t) : t.blk.scratch = s.blk.scratch := by rw [a.blk]

theorem sameIssue (a : CubeRan s t) (h : s.g.window = none) : SameIssue s.g t.g where
  group := by
    have hw := a.window h
    rw [a.group] at hw ⊢
    dsimp only at hw
    rw [hw, ← h]
  pc := show t.ctx.pc = s.ctx.pc by rw [a.ctx]
  pend := show t.ctx.pend = s.ctx.pend by rw [a.ctx]
  prefixes := show t.ctx.prefixes = s.ctx.prefixes by rw [a.ctx]

end CubeRan

/-- R126: SATF set in a group, unless it has exited. -/
def satGroup (g : Group) : Group := if g.run = .exited then g else outside satOutside g

theorem updGroup_satGroup_ran (s : State) (uid slot : Nat) : CubeRan s (updGroup s uid slot satGroup) := by
  have cases : (updGroup s uid slot satGroup).g = s.g ∨ (updGroup s uid slot satGroup).g = outside satOutside s.g := by
    show (if _ then (if _ then _ else _) else _) = _ ∨ (if _ then (if _ then _ else _) else _) = _
    split_ifs <;> simp only [true_or, or_true]
  refine ⟨rfl, rfl, ?_, ?_, fun hw => ?_⟩
  · rcases cases with h | h <;> rw [h]
    rfl
  · show (updGroup s uid slot satGroup).g.ctx = { s.g.ctx with status := (updGroup s uid slot satGroup).g.ctx.status }
    rcases cases with h | h <;> rw [h]
    rfl
  · rcases cases with h | h <;> rw [h]
    · exact hw
    · show Option.map _ s.g.window = none
      rw [hw]
      rfl

theorem satMembers_ran (s : State) (l : List (Nat × Nat)) : CubeRan s (satMembers s l) := by
  induction l generalizing s with
  | nil => exact .refl s
  | cons x t ih => exact (updGroup_satGroup_ran s x.1 x.2).trans (ih _)

/-- R113: one queued operation. -/
theorem runJob_ran (s : State) (j : CubeJob) : CubeRan s (runJob s j) := by
  have hblk : CubeRan s (updBlk s j.uid fun _ => (runOp j.op (findBlk s j.uid)).1) := by
    refine ⟨rfl, ?_, rfl, rfl, id⟩
    show OnlyAcc s.blk (if s.blk.uid == j.uid then _ else s.blk)
    split
    next h =>
      rw [findBlk_focus (beq_iff_eq.mp h)]
      exact runOp_onlyAcc _ _
    next => rfl
  unfold runJob
  dsimp only
  split
  · exact hblk.trans (satMembers_ran _ _)
  · exact hblk

theorem runJobs_ran (s : State) (l : List CubeJob) : CubeRan s (runJobs s l) := by
  induction l generalizing s with
  | nil => exact .refl s
  | cons j t ih => exact (runJob_ran s j).trans (ih _)

/-- R113: every operation of a core's queue. -/
theorem drainCube_ran (s : State) (core : Nat) : CubeRan s (drainCube s core) :=
  CubeRan.trans (t := modCore s core fun c => { c with cubeQ := [] }) ⟨rfl, rfl, rfl, rfl, id⟩ (runJobs_ran _ _)

end Sys2Proof.Machine
end

section
/-! SUPPORT. The cells of a tile's elements (R130), written one element after another in row order: where they write to one place
the later one stands. -/

namespace Sys2Proof.Machine

theorem mem_tileOf {m n : Nat} {e : Nat × Nat} : e ∈ tileOf m n ↔ e.1 < m ∧ e.2 < n := by
  obtain ⟨i, j⟩ := e
  simp [tileOf]

/-- R130: a tile's elements come row by row. -/
theorem tileOf_pairwise (m n : Nat) : (tileOf m n).Pairwise fun e e' => laterElem e' e := by
  refine List.pairwise_flatMap.mpr ⟨fun i _ => ?_, ?_⟩
  · exact List.pairwise_map.mpr (List.pairwise_lt_range.imp fun h => .inr ⟨rfl, h⟩)
  · refine List.pairwise_lt_range.imp fun {i i'} hlt x hx y hy => .inl ?_
    obtain ⟨j, -, rfl⟩ := List.mem_map.mp hx
    obtain ⟨j', -, rfl⟩ := List.mem_map.mp hy
    exact hlt

theorem writeCells_append (m : List Host.Cell) (l l' : List (Nat × Byte)) :
    writeCells m (l ++ l') = writeCells (writeCells m l) l' := by
  induction l generalizing m with
  | nil => rfl
  | cons e t ih => exact ih _

/-- Scratch cells are written as cells of memory are. -/
theorem scratchCells_eq_writeCells (m l : List (Nat × Byte)) : scratchCells m l = writeCells m l := by
  induction l generalizing m with
  | nil => rfl
  | cons e t ih => exact ih _

theorem mem_cellsAt {i : Nat} {bs : List Byte} {c : Nat × Byte} (h : c ∈ cellsAt i bs) : c.1 ∈ placesFrom i bs.length := by
  rw [cellsAt_eq_zip] at h
  exact (List.of_mem_zip h).1

/-- A byte of those written last that reach its place. -/
theorem mget_writeCells_last {α : Type} {place : α → Nat} {bytes : α → List Byte} (m : List Host.Cell) (l₁ : List α) {x : α}
    {l₂ : List α} {k : Nat} {b : Byte} (hb : (bytes x)[k]? = some b)
    (hlater : ∀ y ∈ l₂, place x + k ∉ placesFrom (place y) (bytes y).length) :
    mget memDefault (writeCells m ((l₁ ++ x :: l₂).flatMap fun y => cellsAt (place y) (bytes y))) (place x + k) = b := by
  rw [List.flatMap_append, List.flatMap_cons, writeCells_append, writeCells_append, mget_writeCells_ne]
  · have hnodup : (placesFrom (place x) (bytes x).length).Nodup := List.nodup_range.map fun a b h => by omega
    have hk : k < (bytes x).length := (List.getElem?_eq_some_iff.mp hb).1
    rw [cellsAt_eq_zip]
    exact writeCells_zip_stand _ hnodup (bytes x) k _ b (by simp [placesFrom, hk]) hb
  · intro c hc he
    obtain ⟨y, hy, hcy⟩ := List.mem_flatMap.mp hc
    exact hlater y hy (he ▸ mem_cellsAt hcy)

section

variable {f : LzF} {b : Block} (place : Nat × Nat → Nat)

/-- The cells that a tile's elements are stored to, in the order of R130. -/
def tileCells (f : LzF) (b : Block) (place : Nat × Nat → Nat) : List (Nat × Byte) :=
  (tileOf (rowsOf f.mc) (colsOf f.nc)).flatMap fun e => cellsAt (place e) (mstzBytes f b e)

theorem mstzBytes_length (e : Nat × Nat) : (mstzBytes f b e).length = mstzSize f.fmt := leBytes_length _ _

theorem writeCells_tileStored (m : List Host.Cell) :
    tileStored f b place (mget memDefault (writeCells m (tileCells f b place))) := by
  intro e k hrow hcol hk hlater
  obtain ⟨l₁, l₂, hl⟩ := List.append_of_mem (mem_tileOf.mpr ⟨hrow, hcol⟩)
  have hafter : ∀ e' ∈ l₂, laterElem e' e := by
    have hpair := tileOf_pairwise (rowsOf f.mc) (colsOf f.nc)
    rw [hl] at hpair
    exact (List.pairwise_cons.mp (List.pairwise_append.mp hpair).2.1).1
  rw [tileCells, hl]
  refine mget_writeCells_last m l₁ ?_ fun e' he' => ?_
  · simp [mstzBytes, leBytes_eq_map, hk]
  · have hin : e' ∈ tileOf (rowsOf f.mc) (colsOf f.nc) := by
      rw [hl]
      exact List.mem_append_right _ (List.mem_cons_of_mem _ he')
    obtain ⟨hrow', hcol'⟩ := mem_tileOf.mp hin
    rw [mstzBytes_length]
    exact hlater e' hrow' hcol' (hafter e' he')

theorem mem_tileCells {c : Nat × Byte} (h : c ∈ tileCells f b place) : c.1 ∈ tileStorePlaces f place := by
  obtain ⟨e, he, hc⟩ := List.mem_flatMap.mp h
  exact List.mem_flatMap.mpr ⟨e, he, mstzBytes_length (f := f) (b := b) e ▸ mem_cellsAt hc⟩

end

/-- R130: the bytes of an element are one, two or four. -/
theorem mstzSize_pos (fmt : BitVec 3) : 0 < mstzSize fmt := by
  unfold mstzSize
  split_ifs <;> decide

end Sys2Proof.Machine
end

section
/-! PROOFS. MRDZ (R129, R223): the accumulators as they stand once the cube queue has run. -/

namespace Sys2Proof.Machine

theorem SameIssue.trans {g h k : Group} (a : SameIssue g h) (b : SameIssue h k) : SameIssue g k where
  group := by rw [b.group, a.group]
  pc := b.pc.trans a.pc
  pend := b.pend.trans a.pend
  prefixes := b.prefixes.trans a.prefixes

section

variable {s : State} {f : LzF}

/-- What issue needs of an MRDZ. -/
def mrdzInfo (s : State) (f : LzF) : Info :=
  { size := 8, reads := [(.predicate, f.g.pg.toNat)], writes := vecReads (tileRegs f), closes := true
    guard := some f.g, ill := tileOut s.blk f.arow f.mc f.acol f.nc }

theorem exec_mrdz (s : State) (f : LzF) : exec (.mrdz f) s = issue (.mrdz f) (mrdzInfo s f) (mrdzBody f) s := rfl

theorem mrdzInfo_plain (s : State) (f : LzF) : PlainLong (mrdzInfo s f) := ⟨rfl, rfl, rfl, rfl, rfl, rfl⟩

theorem regsOk_mrdz (h : f.base.toNat + rowsOf f.mc * colsOf f.nc / 32 ≤ s.blk.regs) : regsOk s (mrdzInfo s f) = true := by
  have hregs : vecRegs (mrdzInfo s f).writes = regRange f.base.toNat (rowsOf f.mc * colsOf f.nc / 32) :=
    vecRegs_vecReads _
  unfold regsOk
  rw [hregs]
  simpa [mrdzInfo, vecRegs] using regRange_fits h

/-- R223: whether the element of a word of a tile is poisoned once the cube queue has run. -/
def wordPoisoned (s : State) (f : LzF) (w : Nat) : Bool :=
  mget false (drainCube s s.blk.core).blk.accPoison (accKey (wordElem f w).1 (wordElem f w).2)

/-- R129: the element of a word of a tile once the cube queue has run. -/
def wordValue (s : State) (f : LzF) (w : Nat) : Lane :=
  accAt (drainCube s s.blk.core).blk (wordElem f w).1 (wordElem f w).2

/-- R129: the device after an MRDZ, but for its retirement. -/
def mrdzRead (s : State) (f : LzF) : State :=
  modCtx (drainCube s s.blk.core) fun c =>
    setRows c f.base.toNat (s.ctx.takePart f.g) (fun r l => wordValue s f (32 * r + l)) (rowsOf f.mc * colsOf f.nc / 32)

theorem mrdzBody_reads (h : ∀ w ∈ tileWords f (s.ctx.takePart f.g), wordPoisoned s f w = false) :
    mrdzBody f s.ctx s = .ok (mrdzRead s f) :=
  if_neg (by simpa [wordPoisoned] using h)

theorem mrdzBody_poisoned (h : ∃ w ∈ tileWords f (s.ctx.takePart f.g), wordPoisoned s f w = true) :
    mrdzBody f s.ctx s = .error (.stay (takeTrap (issued (drainCube s s.blk.core)) ⟨12, 4, 0, 0, none⟩
      (fullLen (drainCube s s.blk.core).ctx 8) none)) :=
  if_pos (by simpa [wordPoisoned] using h)

theorem mrdzRead_sameIssue (hw : s.g.window = none) : SameIssue s.g (mrdzRead s f).g :=
  ((drainCube_ran s s.blk.core).sameIssue hw).trans ⟨rfl, setRows_pc _ _ _ _ _, setRows_pend _ _ _ _ _,
    setRows_prefixes _ _ _ _ _⟩

theorem mrdzRead_lane (r : Nat) {l : Nat} (hl : l < 32) : (mrdzRead s f).ctx.lane r l =
    if f.base.toNat ≤ r ∧ r < f.base.toNat + rowsOf f.mc * colsOf f.nc / 32 ∧ takesPart s.ctx f.g l = true then
      wordValue s f (32 * (r - f.base.toNat) + l)
    else (drainCube s s.blk.core).ctx.lane r l := by
  rw [← laneOn_takePart _ _ hl]
  exact setRows_lane _ _ _ _ _ _ hl

/-- R129: an MRDZ of a tile without poison. -/
theorem mrdz_reads (h : Quiet s) (hp : s.ctx.prefixes = []) (htile : tileOut s.blk f.arow f.mc f.acol f.nc = false)
    (hregs : f.base.toNat + rowsOf f.mc * colsOf f.nc / 32 ≤ s.blk.regs)
    (hclean : ∀ w ∈ tileWords f (s.ctx.takePart f.g), wordPoisoned s f w = false) :
    let d := drainCube s s.blk.core
    ∃ t, exec (.mrdz f) s = .next t ∧
      t = { d with g := { d.g with ctx := t.g.ctx, pmc := t.g.pmc, arriving := t.g.arriving } } ∧
      t.ctx = { d.ctx with pc := s.ctx.pc + 8, pend := [], v := t.ctx.v, released := t.ctx.released } ∧
      ∀ r l, t.ctx.lane r l = (mrdzRead s f).ctx.lane r l := by
  intro d
  obtain ⟨t, ht, hctx, hframe⟩ := issue_long (i := .mrdz f) h hp (mrdzInfo_plain s f) htile (regsOk_mrdz hregs)
    (mrdzBody_reads hclean) (mrdzRead_sameIssue h.noWindow)
  have hpend : d.ctx.pend = [] := ((drainCube_ran s s.blk.core).sameIssue h.noWindow).pend.trans h.covered
  refine ⟨t, ht, ?_, ?_, fun r l => ?_⟩
  · rw [hframe]
    rfl
  · have hrows : (mrdzRead s f).ctx =
        { d.ctx with v := (mrdzRead s f).ctx.v, released := (mrdzRead s f).ctx.released } := setRows_frame _ _ _ _ _
    rw [hctx, hrows, ← hpend]
  · rw [hctx]
    rfl

/-- R223: an MRDZ that reads poison traps. -/
theorem mrdz_traps (h : Quiet s) (hp : s.ctx.prefixes = []) (htile : tileOut s.blk f.arow f.mc f.acol f.nc = false)
    (hregs : f.base.toNat + rowsOf f.mc * colsOf f.nc / 32 ≤ s.blk.regs)
    (hpoison : ∃ w ∈ tileWords f (s.ctx.takePart f.g), wordPoisoned s f w = true) :
    exec (.mrdz f) s = .next (takeTrap (issued (drainCube s s.blk.core)) ⟨12, 4, 0, 0, none⟩ 8 none) := by
  have hlen : fullLen (drainCube s s.blk.core).ctx 8 = 8 := by
    have hprefixes : (drainCube s s.blk.core).ctx.prefixes = [] :=
      ((drainCube_ran s s.blk.core).sameIssue h.noWindow).prefixes.trans hp
    rw [fullLen, hprefixes]
    rfl
  rw [exec_mrdz, issue_halted h hp (mrdzInfo_plain s f) htile (regsOk_mrdz hregs) (mrdzBody_poisoned hpoison), hlen]
  rfl

end

end Sys2Proof.Machine
end

section
/-! SUPPORT. A store of the group in focus (R137, R153, R249): its accesses pass their checks, its sectors come under their pages'
keys, and its cells stand. -/

namespace Sys2Proof.Machine

section

variable {α : Type} {s : State} {n : Nat} {l : List α} {va : α → Addr} {acc : α → Acc}

/-- R153: the access of the group as a whole at an address, to what it reaches there. -/
def wholeAcc (va : α → Addr) (acc : α → Acc) (e : α) : Acc := ⟨none, va e, (acc e).pa, (acc e).idx, (acc e).leaf⟩

theorem untranslated_reaches (h : ∀ e ∈ l, Reaches s (va e) true n (acc e)) :
    untranslated s s.blk.core s.blk.vf (l.map fun e => (none, va e)) = none := by
  induction l with
  | nil => rfl
  | cons e t ih =>
    rw [List.forall_mem_cons] at h
    simp only [List.map_cons, untranslated, h.1.found]
    exact ih h.2

theorem unpermitted_reaches (h : ∀ e ∈ l, Reaches s (va e) true n (acc e)) :
    unpermitted s s.blk.core s.blk.vf s.g.ctx.handler true false (l.map fun e => (none, va e)) = none := by
  induction l with
  | nil => rfl
  | cons e t ih =>
    rw [List.forall_mem_cons] at h
    simp only [List.map_cons, unpermitted, h.1.found, h.1.allowed]
    exact ih h.2

theorem accesses_reaches (h : ∀ e ∈ l, Reaches s (va e) true n (acc e)) :
    accesses s s.blk.core s.blk.vf (l.map fun e => (none, va e)) = l.map (wholeAcc va acc) := by
  induction l with
  | nil => rfl
  | cons e t ih =>
    rw [List.forall_mem_cons] at h
    simp only [List.map_cons, accesses, h.1.found, ih h.2, wholeAcc, h.1.place]

/-- R153: accesses of the group that each reach local memory pass the checks of a store. -/
theorem checkGlobal_reaches (h : ∀ e ∈ l, Reaches s (va e) true n (acc e)) :
    checkGlobal s kindWrite n (l.map fun e => (none, va e)) = .ok (l.map (wholeAcc va acc)) := by
  have haligned : misaligned n (l.map fun e => (none, va e)) = none := by
    simpa [misaligned] using fun e he => (h e he).aligned
  have hkind : (kindWrite != kindRead) = true := by decide
  simp only [checkGlobal, haligned, untranslated_reaches h, hkind, unpermitted_reaches h, accesses_reaches h]

end

/-- Sectors come under keys one after another (R249). -/
def resealAll (s : State) (tags : List (Nat × Nat)) : State := tags.foldl (fun u x => reseal u x.1 x.2) s

/-- R249: sealing sectors changes memory and its keys alone, by what memory and its keys are. -/
theorem resealAll_eq {s w : State} (hm : w.mem = s.mem) (hk : w.memKey = s.memKey) (tags : List (Nat × Nat)) :
    resealAll w tags = { w with mem := (resealAll s tags).mem, memKey := (resealAll s tags).memKey } := by
  induction tags generalizing s w with
  | nil =>
    show w = { w with mem := s.mem, memKey := s.memKey }
    rw [← hm, ← hk]
  | cons x t ih =>
    have hbyte (i : Nat) : byteUnder w x.2 i = byteUnder s x.2 i := by simp only [byteUnder, hm, hk]
    refine (ih (s := reseal s x.1 x.2) (w := reseal w x.1 x.2) ?_ ?_).trans rfl
    · simp only [reseal, hm, hk, hbyte]
    · simp only [reseal, hk]

/-- R170, R249: the sectors that accesses are to write come under keys. -/
theorem tagBytes_foldl (s : State) (l : List Acc) :
    ∃ tags : List (Nat × Nat), tags.map (·.1) = l.map (fun a => a.idx / 128) ∧
      l.foldl (fun acc a => tagBytes acc a.leaf a.idx) s = resealAll s tags := by
  induction l generalizing s with
  | nil => exact ⟨[], rfl, rfl⟩
  | cons a t ih =>
    obtain ⟨tags, hsectors, hseal⟩ := ih (tagBytes s a.leaf a.idx)
    exact ⟨(a.idx / 128, viewTag s a.leaf a.idx) :: tags, congrArg (a.idx / 128 :: ·) hsectors, hseal⟩

/-- Nothing differs but local memory, its poison and its keys, what fetches see of it, caches, and a swap that is due. -/
def StoredFrame (s t : State) : Prop :=
  t = { s with
    g := { s.g with swapDue := t.g.swapDue }, cores := t.cores, dies := t.dies, msgs := t.msgs, chan := t.chan, mem := t.mem
    memPoison := t.memPoison, memKey := t.memKey, torn := t.torn }

theorem queueWrites_frame (s : State) (l : List Acc) :
    let u := queueWrites s l
    u = { s with
      g := { s.g with swapDue := u.g.swapDue }, cores := u.cores, dies := u.dies, msgs := u.msgs, chan := u.chan } := by
  have h := queueMisses_onlyCaches s s.blk.core (ownerKey s.blk.uid s.g.slot) l
  unfold queueWrites
  dsimp only
  generalize queueMisses s s.blk.core (ownerKey s.blk.uid s.g.slot) l = u at *
  split
  · rw [h]
    rfl
  · rw [h]

/-- R137, R147, R170, R249: what a store of the group in focus leaves. -/
theorem storeGroup_stores (s : State) (l : List Acc) (cells : List (Nat × Byte)) :
    StoredFrame s (storeGroup s l cells) ∧ ∃ tags : List (Nat × Nat), tags.map (·.1) = l.map (fun a => a.idx / 128) ∧
      (storeGroup s l cells).mem = writeCells (resealAll s tags).mem cells ∧
      (storeGroup s l cells).memKey = (resealAll s tags).memKey := by
  have hqueued := queueWrites_frame (askWalks s s.blk.core s.blk.vf l) l
  have hasked := askWalks_onlyCaches s s.blk.core s.blk.vf l
  have hheld := fetchSectors_onlyCaches (queueWrites (askWalks s s.blk.core s.blk.vf l) l) s.blk.core true l
  obtain ⟨tags, hsectors, hseal⟩ :=
    tagBytes_foldl (fetchSectors (queueWrites (askWalks s s.blk.core s.blk.vf l) l) s.blk.core true l) l
  generalize hw : fetchSectors (queueWrites (askWalks s s.blk.core s.blk.vf l) l) s.blk.core true l = w at *
  have hframe : w = { s with
      g := { s.g with swapDue := w.g.swapDue }, cores := w.cores, dies := w.dies, msgs := w.msgs, chan := w.chan } := by
    rw [hheld, hqueued, hasked]
  have hall := resealAll_eq (s := s) (w := w) (by rw [hframe]) (by rw [hframe]) tags
  have hstore : storeGroup s l cells = storeCells (resealAll w tags) s.blk.core cells := by
    rw [← hseal, ← hw]
    rfl
  rw [hstore, hall]
  refine ⟨?_, tags, hsectors, rfl, rfl⟩
  unfold StoredFrame
  rw [hframe]
  rfl

/-- R249: cells stored at some places, in sectors that hold some of them, change no other byte as it reads. -/
theorem memoryBut_cells {s t : State} {tags : List (Nat × Nat)} {cells : List (Nat × Byte)} {places : List Nat}
    (hsectors : ∀ x ∈ tags, ∃ a ∈ places, a / 128 = x.1) (hcells : ∀ c ∈ cells, c.1 ∈ places)
    (hm : t.mem = writeCells (resealAll s tags).mem cells) (hk : t.memKey = (resealAll s tags).memKey) :
    MemoryBut s t places := by
  refine ⟨tags, hsectors, fun a ha => ⟨?_, ?_⟩⟩
  · rw [hm, mget_writeCells_ne _ _ _ fun c hc (he : c.1 = a) => ha (he ▸ hcells c hc)]
    rfl
  · rw [hk]
    rfl

end Sys2Proof.Machine
end

section
/-! PROOFS. MSTZ (R130), and the accumulators' transfers together. -/

namespace Sys2Proof.Machine

section

variable {s : State} {f : LzF}

/-- What issue needs of an MSTZ. -/
def mstzInfo (s : State) (f : LzF) : Info :=
  { size := 8
    reads := (if f.n = 0 then [] else [(.address, f.n.toNat)]) ++ [(.scalar, f.base.toNat % 64), (.scalar, f.hi.toNat)]
    closes := true
    ill := tileOut s.blk f.arow f.mc f.acol f.nc }

theorem exec_mstz (s : State) (f : LzF) : exec (.mstz f) s = issue (.mstz f) (mstzInfo s f) (mstzBody f) s := rfl

theorem mstzInfo_plain (s : State) (f : LzF) : PlainLong (mstzInfo s f) := ⟨rfl, rfl, rfl, rfl, rfl, rfl⟩

theorem regsOk_mstz (s : State) (f : LzF) : regsOk s (mstzInfo s f) = true := by
  unfold regsOk mstzInfo
  split <;> rfl

/-- The elements of the tile of an instruction, row by row. -/
def elemsOf (f : LzF) : List (Nat × Nat) := tileOf (rowsOf f.mc) (colsOf f.nc)

theorem mem_tileStorePlaces {place : Nat × Nat → Nat} {e : Nat × Nat} (he : e ∈ elemsOf f) :
    place e ∈ tileStorePlaces f place :=
  List.mem_flatMap.mpr ⟨e, he, List.mem_map.mpr ⟨0, List.mem_range.mpr (mstzSize_pos f.fmt), rfl⟩⟩

/-- R130: whether a value of a tile clamps as it is stored. -/
def mstzClamps (f : LzF) (b : Block) : Bool :=
  (elemsOf f).any fun e => (mstzValue f (accAt b (f.arow.toNat + e.1) (16 * f.acol.toNat + e.2))).2

theorem untilPoison_clean {b : Block} {l : List (Nat × Nat)}
    (h : ∀ e ∈ l, mget false b.accPoison (accKey (f.arow.toNat + e.1) (16 * f.acol.toNat + e.2)) = false) :
    untilPoison f b l = (l, false) := by
  induction l with
  | nil => rfl
  | cons e t ih =>
    rw [List.forall_mem_cons] at h
    simp only [untilPoison, h.1, ih h.2, Bool.false_eq_true, if_false]

/-- R130: an MSTZ of a tile without poison whose accesses pass their checks. -/
theorem mstzBody_stores {accs : List Acc}
    (hclean : ∀ e ∈ elemsOf f, mget false (drainCube s s.blk.core).blk.accPoison
      (accKey (f.arow.toNat + e.1) (16 * f.acol.toNat + e.2)) = false)
    (hplaces : mstzPlaces f s.ctx (drainCube s s.blk.core) (elemsOf f) = .ok accs) :
    mstzBody f s.ctx s = .ok (modCtx (mstzStore f s.ctx (elemsOf f) accs (drainCube s s.blk.core)) fun c =>
      { c with status := setSatf c.status (mstzClamps f (drainCube s s.blk.core).blk) }) := by
  have hcut := untilPoison_clean hclean
  unfold elemsOf at hplaces hcut
  simp only [mstzBody, hplaces, hcut, Bool.false_eq_true, if_false]
  rfl

theorem mstzRows_aligned (h : ∀ m < rowsOf f.mc, (mstzRow f s.ctx m).toNat % 16 = 0) :
    ((List.range (rowsOf f.mc)).find? fun m => (mstzRow f s.ctx m).toNat % 16 != 0) = none := by
  simpa using h

/-- R130, R133: the places of a tile stored to scratch. -/
theorem mstzPlaces_scratch {d : State} (hn : f.n = 0) (hrow : ∀ m < rowsOf f.mc, (mstzRow f s.ctx m).toNat % 16 = 0)
    (h : ∀ e ∈ elemsOf f, InScratch d.blk (mstzSize f.fmt) (mstzAddr f s.ctx e).toNat) :
    mstzPlaces f s.ctx d (elemsOf f) = .ok [] := by
  have hcheck : checkScratch d.blk (mstzSize f.fmt) false
      ((elemsOf f).map fun e => (none, (mstzAddr f s.ctx e).toNat)) = .ok () := by
    refine checkScratch_ok fun x hx => ?_
    obtain ⟨e, he, rfl⟩ := List.mem_map.mp hx
    exact ⟨h e he, fun hread => absurd hread Bool.false_ne_true⟩
  simp only [mstzPlaces, mstzRows_aligned hrow, hn, hcheck, if_true]

/-- R130, R153: the places of a tile stored to memory. -/
theorem mstzPlaces_memory {d : State} {acc : Nat × Nat → Acc} (hn : f.n ≠ 0)
    (hrow : ∀ m < rowsOf f.mc, (mstzRow f s.ctx m).toNat % 16 = 0)
    (h : ∀ e ∈ elemsOf f, Reaches d (mstzAddr f s.ctx e) true (mstzSize f.fmt) (acc e)) :
    mstzPlaces f s.ctx d (elemsOf f) = .ok ((elemsOf f).map (wholeAcc (mstzAddr f s.ctx) acc)) := by
  simp only [mstzPlaces, mstzRows_aligned hrow, if_neg hn, checkGlobal_reaches h]

/-- R130: the tile's cells in scratch. -/
theorem mstzStore_scratch (d : State) (hn : f.n = 0) : mstzStore f s.ctx (elemsOf f) [] d =
    storeScratch d d.blk.uid (tileCells f d.blk fun e => (mstzAddr f s.ctx e).toNat) := if_pos hn

/-- R130: the tile's cells in memory. -/
theorem mstzStore_memory (d : State) (hn : f.n ≠ 0) (va : Nat × Nat → Addr) (acc : Nat × Nat → Acc) :
    mstzStore f s.ctx (elemsOf f) ((elemsOf f).map (wholeAcc va acc)) d =
      storeGroup d ((elemsOf f).map (wholeAcc va acc)) (tileCells f d.blk fun e => (acc e).idx) := by
  have hzip : ((elemsOf f).map (wholeAcc va acc)).zip (elemsOf f) = (elemsOf f).map fun e => (wholeAcc va acc e, e) := by
    rw [List.zip_map_left, List.zip_eq_zipWith, List.zipWith_self, List.map_map]
    rfl
  rw [mstzStore, if_neg hn, hzip, List.flatMap_map, List.take_of_length_le (by simp)]
  rfl

/-- R13: the context of the group in focus after an MSTZ. -/
def mstzCtx (s : State) (f : LzF) : Ctx :=
  let d := drainCube s s.blk.core
  { d.ctx with pc := s.ctx.pc + 8, pend := [], status := setSatf d.ctx.status (mstzClamps f d.blk) }

/-- R13: an MSTZ of a tile without poison whose accesses pass their checks retires after its store, which leaves the group in
focus as it was but for a swap that is due. -/
theorem mstz_retires (h : Quiet s) (hp : s.ctx.prefixes = []) (htile : tileOut s.blk f.arow f.mc f.acol f.nc = false)
    {u : State}
    (hbody : mstzBody f s.ctx s = .ok (modCtx u fun c =>
      { c with status := setSatf c.status (mstzClamps f (drainCube s s.blk.core).blk) }))
    (hg : u.g = { (drainCube s s.blk.core).g with swapDue := u.g.swapDue }) :
    ∃ t, exec (.mstz f) s = .next t ∧ t.ctx = mstzCtx s f ∧
      t = { u with g := { u.g with ctx := t.g.ctx, pmc := t.g.pmc, arriving := t.g.arriving } } := by
  let d := drainCube s s.blk.core
  have hctx : u.g.ctx = d.g.ctx := by rw [hg]
  have hran := (drainCube_ran s s.blk.core).sameIssue h.noWindow
  have hpend : d.g.ctx.pend = [] := hran.pend.trans h.covered
  have hstored : SameIssue d.g u.g := by
    refine ⟨?_, congrArg Ctx.pc hctx, congrArg Ctx.pend hctx, congrArg Ctx.prefixes hctx⟩
    rw [hg]
  obtain ⟨t, ht, hafter, hframe⟩ := issue_long (i := .mstz f) h hp (mstzInfo_plain s f) htile (regsOk_mstz s f) hbody
    ((hran.trans hstored).trans ⟨rfl, rfl, rfl, rfl⟩)
  refine ⟨t, ht, ?_, ?_⟩
  · have hstatus : (modCtx u fun c => { c with status := setSatf c.status (mstzClamps f d.blk) }).ctx =
        { d.g.ctx with status := setSatf d.g.ctx.status (mstzClamps f d.blk) } := by
      rw [← hctx]
      rfl
    rw [hafter, hstatus, mstzCtx, ← hpend]
    rfl
  · rw [hframe]
    rfl

end

/-- R161, R166: scratch cells stored by the group in focus: its block's scratch and its poison there, and what elements still
hide. -/
theorem storeScratch_frame (d : State) (cells : List (Nat × Byte)) :
    let u := storeScratch d d.blk.uid cells
    u = { d with blk := u.blk, blks := u.blks, loose := u.loose, early := u.early, broken := u.broken } ∧
      u.blk = { d.blk with scratch := scratchCells d.blk.scratch cells, scratchPoison := u.blk.scratchPoison } ∧
      SameElements d u := by
  refine ⟨rfl, ?_, ?_, ?_, fun hloose hearly => ?_⟩
  · have hblk : (storeScratch d d.blk.uid cells).blk = if d.blk.uid == d.blk.uid then { d.blk with
        scratch := scratchCells d.blk.scratch cells
        scratchPoison := clearScratchPoison d.blk.scratchPoison cells } else d.blk := rfl
    rw [hblk, if_pos (beq_self_eq_true _)]
  · refine List.map_map.trans (List.map_congr_left fun x _ => ?_)
    show { (if x.uid == d.blk.uid then x.over cells else x) with old := [], known := [] } = _
    split <;> rfl
  · refine List.map_map.trans (List.map_congr_left fun x _ => ?_)
    show { (if x.hit cells d.blk.uid then { x with past := true } else x) with past := false } = _
    split <;> rfl
  · show (d.broken || d.early.any _) = d.broken
    rw [hearly]
    exact Bool.or_false _

section

variable {s : State} {f : LzF} (h : Quiet s) (hp : s.ctx.prefixes = [])
  (htile : tileOut s.blk f.arow f.mc f.acol f.nc = false) (hclean : ∀ e ∈ elemsOf f,
    mget false (drainCube s s.blk.core).blk.accPoison (accKey (f.arow.toNat + e.1) (16 * f.acol.toNat + e.2)) = false)
  (hrow : ∀ m < rowsOf f.mc, (mstzRow f s.ctx m).toNat % 16 = 0)

include h hp htile hclean hrow

/-- R130, R131: a tile stored to scratch. -/
theorem mstz_toScratch (hn : f.n = 0) :
    let d := drainCube s s.blk.core
    let off := fun e => (mstzAddr f s.ctx e).toNat
    (∀ e ∈ elemsOf f, InScratch d.blk (mstzSize f.fmt) (off e)) →
    ∃ t, exec (.mstz f) s = .next t ∧ t.ctx = mstzCtx s f ∧ OnlyScratch d t ∧
      tileStored f d.blk off (mget 0 t.blk.scratch) ∧
      ∀ a, a ∉ tileStorePlaces f off → mget 0 t.blk.scratch a = mget 0 s.blk.scratch a := by
  intro d off hin
  have hbody := mstzBody_stores hclean (mstzPlaces_scratch hn hrow hin)
  rw [mstzStore_scratch _ hn] at hbody
  obtain ⟨hframe, hblk, helems⟩ := storeScratch_frame d (tileCells f d.blk off)
  obtain ⟨t, ht, hctx, hstate⟩ := mstz_retires h hp htile hbody (by rw [hframe])
  have hafter : t.blk = (storeScratch d d.blk.uid (tileCells f d.blk off)).blk := by rw [hstate]
  have hscratch : t.blk.scratch = scratchCells d.blk.scratch (tileCells f d.blk off) := by rw [hafter, hblk]
  refine ⟨t, ht, hctx, ⟨?_, ?_, ?_⟩, ?_, fun a ha => ?_⟩
  · rw [hstate, hframe]
  · rw [hscratch, hafter]
    exact hblk
  · rw [hstate]
    exact helems
  · rw [hscratch, scratchCells_eq_writeCells]
    exact writeCells_tileStored off _
  · rw [hscratch, mget_scratchCells_ne _ _ _ fun x hx (he : x.1 = a) => ha (he ▸ mem_tileCells off hx)]
    exact congrArg (mget 0 · a) (drainCube_ran s s.blk.core).scratch

/-- R130, R131: a tile stored to memory. -/
theorem mstz_toMemory (hn : f.n ≠ 0) (at_ : Nat × Nat → Acc) :
    let d := drainCube s s.blk.core
    let place := fun e => (at_ e).idx
    (∀ e ∈ elemsOf f, Reaches d (mstzAddr f s.ctx e) true (mstzSize f.fmt) (at_ e)) →
    ∃ t, exec (.mstz f) s = .next t ∧ t.ctx = mstzCtx s f ∧ OnlyStored d t ∧ MemoryBut s t (tileStorePlaces f place) ∧
      tileStored f d.blk place (mget memDefault t.mem) := by
  intro d place hreach
  have hbody := mstzBody_stores hclean (mstzPlaces_memory hn hrow hreach)
  rw [mstzStore_memory _ hn] at hbody
  obtain ⟨hframe, tags, hsectors, hmem, hkey⟩ := storeGroup_stores d
    ((elemsOf f).map (wholeAcc (mstzAddr f s.ctx) at_)) (tileCells f d.blk place)
  obtain ⟨t, ht, hctx, hstate⟩ := mstz_retires h hp htile hbody (by rw [hframe])
  have hran := drainCube_ran s s.blk.core
  have hseal := resealAll_eq (s := s) (w := d) hran.mem hran.memKey tags
  have hmemory : t.mem = writeCells (resealAll s tags).mem (tileCells f d.blk place) := by rw [hstate, hmem, hseal]
  refine ⟨t, ht, hctx, ?_, memoryBut_cells (fun x hx => ?_) (fun c hc => mem_tileCells place hc) hmemory ?_, ?_⟩
  · unfold OnlyStored
    rw [hstate, hframe]
  · have hx' : x.1 ∈ ((elemsOf f).map (wholeAcc (mstzAddr f s.ctx) at_)).map (fun a => a.idx / 128) :=
      hsectors ▸ List.mem_map_of_mem hx
    rw [List.map_map] at hx'
    obtain ⟨e, he, hsector⟩ := List.mem_map.mp hx'
    exact ⟨place e, mem_tileStorePlaces he, hsector⟩
  · rw [hstate, hkey, hseal]
  · rw [hmemory]
    exact writeCells_tileStored place _

end

/-- Settles O40: `mrdz_reads` and `mrdz_traps` for MRDZ, `mstz_toScratch` and `mstz_toMemory` for MSTZ. -/
theorem accumulatorTransfers : Obligations.AccumulatorTransfers := by
  refine ⟨fun s f h hp htile => ?_, fun s f at_ h hp htile => ?_⟩
  · intro d count poisoned reads hregs
    refine ⟨fun hclean => ?_, fun ⟨w, hw, hpoison⟩ => ?_⟩
    · obtain ⟨t, ht, hframe, hctx, hlane⟩ := mrdz_reads h hp htile hregs fun w hw => hclean w (mem_tileWords.mp hw)
      exact ⟨t, ht, hframe, hctx, fun r l hl => (hlane r l).trans (mrdzRead_lane r hl)⟩
    · exact mrdz_traps h hp htile hregs ⟨w, mem_tileWords.mpr hw, hpoison⟩
  · intro d inT n clamps c place hclean hrow
    have hinT {e : Nat × Nat} (he : e ∈ elemsOf f) : inT e := mem_tileOf.mp he
    have hclean' : ∀ e ∈ elemsOf f, _ := fun e he => hclean e (hinT he)
    exact ⟨fun hn hin => mstz_toScratch h hp htile hclean' hrow hn fun e he => hin e (hinT he),
      fun hn hreach => mstz_toMemory h hp htile hclean' hrow hn at_ fun e he => hreach e (hinT he)⟩

end Sys2Proof.Machine
end

section
/-! PROOFS. Two statements about the groups of a pass and of a gang fail at slot 0 of block 0 where no group stands there (R126,
R121): what `findGroup` answers then, `Group.none`, is itself at slot 0 of block 0, so that it passes for a group that stands
there, and no step changes it. -/

namespace Sys2Proof.Machine

/-- A pass over 16 rows and columns of UINT8 elements, added to the accumulators. -/
def bytePass : LcF where
  lr := false
  acol := 0
  ovw := false
  span := false
  pm := 0
  ef := 5
  nc := 0
  mc := 0
  arow := 0
  base := 0

/-- The words of a plane whose first row holds 255 in every element. -/
def fullRow : List (Nat × Lane) := (List.range 8).map fun w => (w, 0xFFFFFFFF)

/-- What is found at slot 0 of block 0 after an outcome. -/
def strayGroup : Host.Outcome State Fault Refusal → Group
  | .next t => findGroup t 0 0
  | _ => Group.none

/-- A core whose queue holds a pass that clamps, with slot 0 of block 0 as its member, where no group stands. -/
def strayPass : State :=
  { State.reset with
    g := { Group.none with uid := 1 }
    blk := { Block.none with uid := 1, accrows := 16, acc := [(0, 0x7FFFFFFF)] }
    cores := [(0, { Core.reset with cubeQ := [⟨1, .pass bytePass fullRow fullRow [], [(0, 0)]⟩] })] }

theorem strayPass_clamps : (cubeElem bytePass fullRow fullRow [] 0 0 (accAt strayPass.blk 0 0)).2 = true := by decide

theorem strayPass_group : strayGroup (exec .cubePass strayPass) = Group.none := by decide

/-- Refutes O38: of the pass of `strayPass`, which clamps, slot 0 of block 0 is a member, but no group stands there in which SATF
could be set. -/
theorem not_cubeExecutes : ¬ Obligations.CubeExecutes := by
  intro h
  obtain ⟨t, ht, hgroups⟩ := h.2.1 strayPass bytePass fullRow fullRow [] [(0, 0)] [] rfl (by decide)
  have hset := (hgroups 0 0 rfl).1 (List.mem_singleton_self _) (by decide) ⟨0, by decide, 0, by decide, strayPass_clamps⟩
  have hnone := strayPass_group
  rw [ht] at hnone
  exact absurd ((congrArg (·.ctx.status) hnone).symm.trans hset) (by decide)

/-- A group at slot 1 of block 0, with a GANG of 0, whose block's latch entry holds the arrival of slot 0, where no group stands,
with another GANG. -/
def strayArrival : State :=
  { State.reset with
    g := { Group.none with slot := 1, run := .ready }
    blk := { Block.none with
      phase := .resident, groups := 2, regs := 256, accrows := 16
      latch := [(0, ⟨1, 0, some (1, bytePass)⟩)] } }

theorem strayArrival_quiet : Quiet strayArrival := by constructor <;> decide

theorem strayArrival_group : strayGroup (exec (.mcube bytePass) strayArrival) = Group.none := by decide

/-- Refutes O39: the arrival of `strayArrival` clashes with the record, but at slot 0 of block 0, which has arrived, no group
stands that could become ready and raise GANG. -/
theorem not_loneGangMultiplies : ¬ Obligations.LoneGangMultiplies := by
  intro h
  obtain ⟨-, hclash, -⟩ := h.2 strayArrival bytePass strayArrival_quiet rfl rfl rfl (by decide) (by decide) (by decide)
    (by decide) (by decide) (by decide)
  obtain ⟨t, ht, -, -, hblocks⟩ := hclash (by decide) ⟨(1, bytePass), rfl, .inl (by decide)⟩
  obtain ⟨-, hmembers⟩ := hblocks strayArrival.blk (List.mem_singleton_self _)
  obtain ⟨hready, -⟩ := hmembers 0 (by decide) (by decide)
  have hnone := strayArrival_group
  rw [ht] at hnone
  exact absurd ((congrArg Group.run hnone).symm.trans hready) (by decide)

end Sys2Proof.Machine
end

section
/-! SUPPORT. The first access that fails a check decides (R153): what `checkGlobal` answers where one of the accesses does not
pass, and that an instruction hands that answer on. -/

namespace Sys2Proof.Machine

section

variable {s : State} {kind n : Nat} {l₁ l₂ : List (Option (BitVec 5) × Addr)} {x : Option (BitVec 5) × Addr}

theorem checkGlobal_misaligned (hbefore : ∀ y ∈ l₁, y.2.toNat % n = 0) (hx : x.2.toNat % n ≠ 0) :
    checkGlobal s kind n (l₁ ++ x :: l₂) = .error (.trap (memTrap 2 0 x.1 x.2)) := by
  have hfirst : misaligned n (l₁ ++ x :: l₂) = some x := by
    rw [misaligned, List.find?_append, List.find?_eq_none.mpr fun y hy => by simp [hbefore y hy]]
    simp [hx]
  rw [checkGlobal, hfirst]

theorem misaligned_eq_none {l : List (Option (BitVec 5) × Addr)} (h : ∀ y ∈ l, y.2.toNat % n = 0) : misaligned n l = none :=
  List.find?_eq_none.mpr fun y hy => by simp [h y hy]

theorem untranslated_append (h : ∀ y ∈ l₁, ∃ pa leaf, translate s s.blk.core s.blk.vf y.2 = .ok pa leaf) :
    untranslated s s.blk.core s.blk.vf (l₁ ++ l₂) = untranslated s s.blk.core s.blk.vf l₂ := by
  induction l₁ with
  | nil => rfl
  | cons y t ih =>
    obtain ⟨⟨pa, leaf, hy⟩, ht⟩ := List.forall_mem_cons.mp h
    simp only [List.cons_append, untranslated, hy, ih ht]

theorem checkGlobal_untranslated {lvl : Nat} {malf : Bool} (haligned : ∀ y ∈ l₁ ++ x :: l₂, y.2.toNat % n = 0)
    (hbefore : ∀ y ∈ l₁, ∃ pa leaf, translate s s.blk.core s.blk.vf y.2 = .ok pa leaf)
    (hx : translate s s.blk.core s.blk.vf x.2 = .fault lvl malf) :
    checkGlobal s kind n (l₁ ++ x :: l₂) = .error (.memf x.1 x.2 lvl malf kind) := by
  simp only [checkGlobal, misaligned_eq_none haligned, untranslated_append hbefore, untranslated, hx]

theorem unpermitted_append {handler write far : Bool}
    (h : ∀ y ∈ l₁, ∀ pa leaf, translate s s.blk.core s.blk.vf y.2 = .ok pa leaf →
      protDetail s s.blk.vf handler write false far pa leaf = none) :
    unpermitted s s.blk.core s.blk.vf handler write far (l₁ ++ l₂) =
      unpermitted s s.blk.core s.blk.vf handler write far l₂ := by
  induction l₁ with
  | nil => rfl
  | cons y t ih =>
    obtain ⟨hy, ht⟩ := List.forall_mem_cons.mp h
    rw [List.cons_append, unpermitted]
    split
    · exact ih ht
    next pa leaf hok =>
      rw [hy pa leaf hok]
      exact ih ht

theorem checkGlobal_forbidden {pa leaf : Nat} {d : BitVec 8} (haligned : ∀ y ∈ l₁ ++ x :: l₂, y.2.toNat % n = 0)
    (hfound : ∀ y ∈ l₁ ++ x :: l₂, ∃ pa leaf, translate s s.blk.core s.blk.vf y.2 = .ok pa leaf)
    (hbefore : ∀ y ∈ l₁, ∀ pa leaf, translate s s.blk.core s.blk.vf y.2 = .ok pa leaf →
      protDetail s s.blk.vf s.g.ctx.handler (kind != kindRead) false false pa leaf = none)
    (hx : translate s s.blk.core s.blk.vf x.2 = .ok pa leaf)
    (hd : protDetail s s.blk.vf s.g.ctx.handler (kind != kindRead) false false pa leaf = some d) :
    checkGlobal s kind n (l₁ ++ x :: l₂) = .error (.trap ⟨5, d, 0, x.2, x.1⟩) := by
  have htranslated : untranslated s s.blk.core s.blk.vf (l₁ ++ x :: l₂) = none := by
    simpa [untranslated] using untranslated_append (l₂ := []) hfound
  have hfirst : unpermitted s s.blk.core s.blk.vf s.g.ctx.handler (kind != kindRead) false (l₁ ++ x :: l₂) =
      some (x.1, x.2, d) := by
    rw [unpermitted_append hbefore]
    simp only [unpermitted, hx, hd]
  simp only [checkGlobal, misaligned_eq_none haligned, htranslated, hfirst]

end

/-- An instruction of `len` bytes refuses its accesses as their checks say: it traps, or its group is parked (R153, R154,
R210). -/
structure RefusesAs (s : State) (i : Instr) (len kind n : Nat) (l : List (Option (BitVec 5) × Addr)) : Prop where
  traps : ∀ t, checkGlobal s kind n l = .error (.trap t) → exec i s = .next (takeTrap (issued s) t len none)
  parks : ∀ lane va lvl malf, checkGlobal s kind n l = .error (.memf lane va lvl malf kind) →
    exec i s = .next (parkMemf (issued s) lane va lvl malf kind)

/-- R211: an instruction that nothing stands in the way of, and whose body hands on what the checks of its accesses answer. -/
theorem refusesAs_issue {s : State} (h : Quiet s) (hp : s.ctx.prefixes = []) {i : Instr} {inf : Info}
    {body : Ctx → State → Except Halt State} {len kind n : Nat} {l : List (Option (BitVec 5) × Addr)}
    (hexec : exec i s = issue i inf body s) (hsize : inf.size = len) (hill : inf.ill = false)
    (hregs : regsOk s inf = true) (hfirst : inf.first = none)
    (hbody : ∀ e, checkGlobal s kind n l = .error e → body s.ctx s = .error e) : RefusesAs s i len kind n l := by
  have hlen : fullLen s.ctx inf.size = len := by simp [fullLen, hp, hsize]
  have hhalts {e : Halt} (he : checkGlobal s kind n l = .error e) : exec i s = halted s i inf e := by
    rw [hexec, issue_body h i inf body (.inr hp) hill hregs hfirst, hbody e he]
  constructor
  · intro t ht
    simp only [hhalts ht, halted, trapOr, h.noWindow, hlen]
  · intro lane va lvl malf ht
    simp only [hhalts ht, halted, trapOr, h.noWindow]

end Sys2Proof.Machine
end

section
/-! PROOFS. Misaligned, untranslated and forbidden scalar and vector accesses (R153, R154, R210). -/

namespace Sys2Proof.Machine

/-! The group in focus when a fault of it is recorded. -/

theorem mcEvent_g (s : State) (die type index kind flags : Nat) (addr : Addr) (synd vf core part slot : Nat) :
    (mcEvent s die type index kind flags addr synd vf core part slot).g = s.g := by
  unfold mcEvent
  dsimp only
  split_ifs <;> rfl

theorem logWalkPoison_g (s : State) (owner : FaultOwner) (core vf : Nat) (va : Addr) :
    (logWalkPoison s owner core vf va).g = s.g := by
  unfold logWalkPoison
  split
  · unfold logConsumed
    split <;> exact mcEvent_g ..
  · rfl

theorem putRecord_g (s : State) (core vf : Nat) (bs : List Byte) : (putRecord s core vf bs).g = s.g := by
  unfold putRecord
  dsimp only
  split
  · split
    next t ht => exact (deviceWrite_keepsRings ht).g
    · rfl
  · rfl

theorem reportFault_g (s : State) (owner : FaultOwner) (core vf : Nat) (lane : Option (BitVec 5)) (va : Addr) (lvl : Nat)
    (malf : Bool) (kind b21 b22 b23 : Nat) : (reportFault s owner core vf lane va lvl malf kind b21 b22 b23).g = s.g := by
  unfold reportFault
  dsimp only
  rw [putRecord_g]
  cases malf
  · rfl
  · exact logWalkPoison_g ..

/-- R154: a group that is parked stands at its instruction, under the number of the record. -/
theorem parkMemf_group {s : State} (hp : s.ctx.prefixes = []) (lane : Option (BitVec 5)) (va : Addr) (lvl : Nat) (malf : Bool)
    (kind : Nat) : (parkMemf (issued s) lane va lvl malf kind).g.run = .faulted s.faultSeq ∧
      (parkMemf (issued s) lane va lvl malf kind).g.ctx = s.ctx := by
  unfold parkMemf
  dsimp only
  rw [reportFault_g]
  refine ⟨rfl, ?_⟩
  have hpc : startPc s.ctx = s.ctx.pc := by simp [startPc, hp]
  show ({ s.ctx with pc := startPc s.ctx, prefixes := [] } : Ctx) = s.ctx
  rw [hpc, ← hp]

/-! A scalar access. -/

theorem scalarAcc_refused {s : State} {kind n : Nat} {ea : Addr} {e : Halt}
    (he : checkGlobal s kind n [(none, ea)] = .error e) : scalarAcc s kind n ea = .error e := by
  rw [scalarAcc, he]

theorem sld_refusesAs {s : State} (h : Quiet s) (hp : s.ctx.prefixes = []) (f : WmF) :
    RefusesAs s (.sld f) 4 kindRead (sizeBytes f.size) [(none, wmEA f s.ctx)] :=
  refusesAs_issue h hp (body := sldBody f) rfl rfl rfl rfl rfl fun e he => by
    simp only [sldBody, scalarRead, scalarAcc_refused he, deferScalar, h.noWindow]

theorem sst_refusesAs {s : State} (h : Quiet s) (hp : s.ctx.prefixes = []) (f : WmF) :
    RefusesAs s (.sst f) 4 kindWrite (sizeBytes f.size) [(none, wmEA f s.ctx)] :=
  refusesAs_issue h hp (body := fun rc s => scalarWrite s (wmEA f rc) (leBytes (sizeBytes f.size) (rc.readS f.r.toNat).toNat))
    rfl rfl rfl rfl rfl fun e he => by simp only [scalarWrite, leBytes_length, scalarAcc_refused he]

/-! A vector access: its lanes stand in ascending order. -/

theorem mem_lmAddrReads_vector {f : LmF} {strided : Bool} {r : Nat} :
    (.vector, r) ∈ lmAddrReads f true strided ↔ strided = false ∧ f.os = false ∧ r = f.vo.toNat := by
  unfold lmAddrReads
  cases strided
  · cases f.os <;> simp
  · simp

/-- R37: the registers that a global LM access names lie below the allocation. -/
theorem regsOk_lm {s : State} {f : LmF} {strided : Bool} (h : LmFits s f strided) :
    regsOk s (lmLoadInfo f true strided) = true ∧ regsOk s (lmStoreInfo f true strided true) = true := by
  obtain ⟨-, hdata, hoff⟩ := h
  have hfits {r : Nat} (hr : (f.vd.toNat ≤ r ∧ r < f.vd.toNat + lmCount f.size) ∨
      (strided = false ∧ f.os = false ∧ r = f.vo.toNat)) : r < s.blk.regs := by
    rcases hr with ⟨-, hr⟩ | ⟨hs, ho, rfl⟩
    · omega
    · exact hoff hs ho
  constructor
  · refine List.all_eq_true.mpr fun r hr => decide_eq_true (hfits ?_)
    simpa [lmLoadInfo, mem_vecRegs, lmData, mem_lmAddrReads_vector, or_comm] using hr
  · refine List.all_eq_true.mpr fun r hr => decide_eq_true (hfits ?_)
    simpa [lmStoreInfo, mem_vecRegs, lmData, mem_lmAddrReads_vector] using hr

theorem loads_refusesAs {s : State} (h : Quiet s) (hp : s.ctx.prefixes = []) {f : LmF} {strided : Bool} (hf : LmFits s f strided)
    {i : Instr} (ea : LmF → Ctx → Nat → Addr)
    (hexec : exec i s = issue i (lmLoadInfo f true strided) (fun rc s => loadGlobal f (rc.takePart f.g) (ea f rc) s) s) :
    RefusesAs s i 8 kindRead (sizeBytes f.size) (laneAddrs (s.ctx.takePart f.g) (ea f s.ctx)) :=
  refusesAs_issue h hp hexec rfl rfl (regsOk_lm hf).1 rfl fun e he => by
    simp only [loadGlobal, h.noWindow, he]

theorem stores_refusesAs {s : State} (h : Quiet s) (hp : s.ctx.prefixes = []) {f : LmF} {strided : Bool} (hf : LmFits s f strided)
    {i : Instr} (ea : LmF → Ctx → Nat → Addr)
    (hexec : exec i s = issue i (lmStoreInfo f true strided true)
      (fun rc s => storeGlobal f rc (rc.takePart f.g) (ea f rc) s) s) :
    RefusesAs s i 8 kindWrite (sizeBytes f.size) (laneAddrs (s.ctx.takePart f.g) (ea f s.ctx)) :=
  refusesAs_issue h hp hexec rfl rfl (regsOk_lm hf).2 rfl fun e he => by
    simp only [storeGlobal, he]

theorem lanesOf_split {m : Mask} {l : Nat} (hl : l ∈ lanesOf m) :
    ∃ l₁ l₂, lanesOf m = l₁ ++ l :: l₂ ∧ ∀ k ∈ l₁, k < l := by
  obtain ⟨l₁, l₂, h⟩ := List.append_of_mem hl
  have hsorted : (lanesOf m).Pairwise (· < ·) := List.pairwise_lt_range.filter _
  rw [h, List.pairwise_append] at hsorted
  exact ⟨l₁, l₂, h, fun k hk => hsorted.2.2 k hk l List.mem_cons_self⟩

/-- The accesses of the lanes that take part, split at one of them: those before it are of lower lanes. -/
theorem laneAddrs_split {c : Ctx} {g : Guard} (ea : Nat → Addr) {l : Nat} (hl : l < 32 ∧ takesPart c g l = true) :
    ∃ l₁ l₂, laneAddrs (c.takePart g) ea = l₁ ++ (some (BitVec.ofNat 5 l), ea l) :: l₂ ∧
      (∀ y ∈ l₁, ∃ k < l, (k < 32 ∧ takesPart c g k = true) ∧ y.2 = ea k) ∧
      ∀ y ∈ l₁ ++ (some (BitVec.ofNat 5 l), ea l) :: l₂, ∃ k, (k < 32 ∧ takesPart c g k = true) ∧ y.2 = ea k := by
  have hmem (k : Nat) : k ∈ lanesOf (c.takePart g) ↔ k < 32 ∧ takesPart c g k = true := by
    rw [mem_lanesOf]
    exact and_congr_right fun hk => by rw [laneOn_takePart c g hk]
  obtain ⟨l₁, l₂, hsplit, hlow⟩ := lanesOf_split ((hmem l).mpr hl)
  have haddrs : laneAddrs (c.takePart g) ea = l₁.map (fun l => (some (BitVec.ofNat 5 l), ea l)) ++
      (some (BitVec.ofNat 5 l), ea l) :: l₂.map fun l => (some (BitVec.ofNat 5 l), ea l) := by
    rw [laneAddrs, hsplit, List.map_append, List.map_cons]
  refine ⟨_, _, haddrs, fun y hy => ?_, fun y hy => ?_⟩
  · obtain ⟨k, hk, rfl⟩ := List.mem_map.mp hy
    exact ⟨k, hlow k hk, (hmem k).mp (hsplit ▸ List.mem_append_left _ hk), rfl⟩
  · rw [← haddrs] at hy
    obtain ⟨k, hk, rfl⟩ := List.mem_map.mp hy
    exact ⟨k, (hmem k).mp hk, rfl⟩

section

variable {s : State} {i : Instr} {len kind n l : Nat} {g : Guard} {ea : Nat → Addr}
  (hi : RefusesAs s i len kind n (laneAddrs (s.ctx.takePart g) ea)) (hl : l < 32 ∧ takesPart s.ctx g l = true)
include hi hl

/-- R153: the lowest lane that is misaligned decides. -/
theorem RefusesAs.lane_misaligned (hbad : (ea l).toNat % n ≠ 0)
    (hlow : ∀ k < l, k < 32 ∧ takesPart s.ctx g k = true → (ea k).toNat % n = 0) :
    exec i s = .next (takeTrap (issued s) (memTrap 2 0 (some (BitVec.ofNat 5 l)) (ea l)) len none) := by
  obtain ⟨l₁, l₂, hsplit, hbefore, -⟩ := laneAddrs_split ea hl
  refine hi.traps _ ?_
  rw [hsplit]
  refine checkGlobal_misaligned (fun y hy => ?_) hbad
  obtain ⟨k, hk, hpart, he⟩ := hbefore y hy
  exact he ▸ hlow k hk hpart

variable (haligned : ∀ k, k < 32 ∧ takesPart s.ctx g k = true → (ea k).toNat % n = 0)
include haligned

/-- R153, R154: where all lanes are aligned, the lowest that does not translate decides. -/
theorem RefusesAs.lane_untranslated {lvl : Nat} {malf : Bool} (hbad : translate s s.blk.core s.blk.vf (ea l) = .fault lvl malf)
    (hlow : ∀ k < l, k < 32 ∧ takesPart s.ctx g k = true → ∃ pa leaf, translate s s.blk.core s.blk.vf (ea k) = .ok pa leaf) :
    exec i s = .next (parkMemf (issued s) (some (BitVec.ofNat 5 l)) (ea l) lvl malf kind) := by
  obtain ⟨l₁, l₂, hsplit, hbefore, hall⟩ := laneAddrs_split ea hl
  refine hi.parks _ _ _ _ ?_
  rw [hsplit]
  refine checkGlobal_untranslated (fun y hy => ?_) (fun y hy => ?_) hbad
  · obtain ⟨k, hpart, he⟩ := hall y hy
    exact he ▸ haligned k hpart
  · obtain ⟨k, hk, hpart, he⟩ := hbefore y hy
    exact he ▸ hlow k hk hpart

/-- R153, R210: where all lanes are aligned and translate, the lowest that is not permitted decides. -/
theorem RefusesAs.lane_forbidden {pa leaf : Nat} {d : BitVec 8}
    (hfound : ∀ k, k < 32 ∧ takesPart s.ctx g k = true → ∃ pa leaf, translate s s.blk.core s.blk.vf (ea k) = .ok pa leaf)
    (hbad : translate s s.blk.core s.blk.vf (ea l) = .ok pa leaf)
    (hd : protDetail s s.blk.vf s.ctx.handler (kind != kindRead) false false pa leaf = some d)
    (hlow : ∀ k < l, k < 32 ∧ takesPart s.ctx g k = true → ∀ pa leaf, translate s s.blk.core s.blk.vf (ea k) = .ok pa leaf →
      protDetail s s.blk.vf s.ctx.handler (kind != kindRead) false false pa leaf = none) :
    exec i s = .next (takeTrap (issued s) ⟨5, d, 0, ea l, some (BitVec.ofNat 5 l)⟩ len none) := by
  obtain ⟨l₁, l₂, hsplit, hbefore, hall⟩ := laneAddrs_split ea hl
  refine hi.traps _ ?_
  rw [hsplit]
  refine checkGlobal_forbidden (fun y hy => ?_) (fun y hy => ?_) (fun y hy => ?_) hbad hd
  · obtain ⟨k, hpart, he⟩ := hall y hy
    exact he ▸ haligned k hpart
  · obtain ⟨k, hpart, he⟩ := hall y hy
    exact he ▸ hfound k hpart
  · obtain ⟨k, hk, hpart, he⟩ := hbefore y hy
    exact he ▸ hlow k hk hpart

end

/-- Settles O32: `sld_refusesAs` and its fellows say that an instruction answers as the checks of its accesses do, the
`checkGlobal` lemmas what those answer for a scalar access, the `lane` lemmas which lane of a vector access decides. -/
theorem refusedAccesses : Obligations.RefusedAccesses := by
  refine ⟨fun s f h hp _ => ?_, fun s f h hp => ?_⟩
  · intro ea n
    have hload := sld_refusesAs h hp f
    have hstore := sst_refusesAs h hp f
    refine ⟨fun hbad => ?_, fun lvl malf haligned hbad => ?_, fun pa leaf d haligned hfound => ?_⟩
    · have hcheck (kind : Nat) := checkGlobal_misaligned (s := s) (kind := kind) (l₁ := []) (l₂ := []) (x := (none, ea))
        (by simp) hbad
      exact ⟨hload.traps _ (hcheck _), hstore.traps _ (hcheck _)⟩
    · have hcheck (kind : Nat) := checkGlobal_untranslated (s := s) (kind := kind) (n := n) (l₁ := []) (l₂ := [])
        (x := (none, ea)) (by simpa using haligned) (by simp) hbad
      exact ⟨hload.parks _ _ _ _ (hcheck _), hstore.parks _ _ _ _ (hcheck _), parkMemf_group hp ..⟩
    · have hcheck (kind : Nat) := checkGlobal_forbidden (s := s) (kind := kind) (n := n) (d := d) (l₁ := []) (l₂ := [])
        (x := (none, ea)) (by simpa using haligned) (by simpa using ⟨pa, leaf, hfound⟩) (by simp) hfound
      exact ⟨fun hd => hstore.traps _ (hcheck kindWrite hd), fun hd => hload.traps _ (hcheck kindRead hd)⟩
  · intro n part finds refused
    have hrefused {load store : Instr} {ea : Nat → Addr}
        (hload : RefusesAs s load 8 kindRead n (laneAddrs (s.ctx.takePart f.g) ea))
        (hstore : RefusesAs s store 8 kindWrite n (laneAddrs (s.ctx.takePart f.g) ea)) : refused load store ea := by
      intro l hl lane found bars
      refine ⟨fun hbad hlow => ⟨hload.lane_misaligned hl hbad hlow, hstore.lane_misaligned hl hbad hlow⟩,
        fun haligned => ⟨?_, ?_⟩⟩
      · exact fun lvl malf hbad hlow =>
          ⟨hload.lane_untranslated hl haligned hbad hlow, hstore.lane_untranslated hl haligned hbad hlow⟩
      · rintro write d hfound ⟨pa, leaf, hbad, hd⟩ hlow
        have hnone (k : Nat) (hk : k < l) (hpart : part k) (pa leaf : Nat) (hok : finds (ea k) = .ok pa leaf) :
            protDetail s s.blk.vf s.ctx.handler write false false pa leaf = none :=
          Option.eq_none_iff_forall_ne_some.mpr fun e he => hlow k hk hpart e ⟨pa, leaf, hok, he⟩
        cases write
        · exact hload.lane_forbidden hl haligned hfound hbad hd hnone
        · exact hstore.lane_forbidden hl haligned hfound hbad hd hnone
    exact ⟨fun hf => hrefused (loads_refusesAs h hp hf vldEA rfl) (stores_refusesAs h hp hf vldEA rfl),
      fun hf => hrefused (loads_refusesAs h hp hf vldsEA rfl) (stores_refusesAs h hp hf vldsEA rfl)⟩

end Sys2Proof.Machine
end

section
/-! SUPPORT. Writes of the function table and of the placement table (R141, R247, R252). -/

namespace Sys2Proof.Machine

/-- R247, R252: an update of an entry leaves the others, and beside the table only readings that it makes stale change. -/
theorem modFunc_becomes (s : State) (vf : Nat) (f : Func → Func) :
    getFunc (modFunc s vf f) vf = f (getFunc s vf) ∧ (∀ k, k ≠ vf → getFunc (modFunc s vf f) k = getFunc s k) ∧
      modFunc s vf f = { s with
        funcs := (modFunc s vf f).funcs, sessionRead := (modFunc s vf f).sessionRead, sessions := (modFunc s vf f).sessions } := by
  unfold modFunc measuredWrite
  dsimp only
  split
  · exact ⟨mget_mset_self .., fun k hk => mget_mset_ne _ _ _ hk, rfl⟩
  next hsame =>
    have hsame : f (getFunc s vf) = getFunc s vf := by simpa using hsame
    exact ⟨hsame.symm, fun _ _ => rfl, rfl⟩

theorem setHalf_low (x : Addr) (v : BitVec 64) : setHalf x false v = x.extractLsb' 64 8 ++ v := by
  apply BitVec.eq_of_toNat_eq
  have hx := x.isLt
  have hv := v.isLt
  rw [BitVec.toNat_append, ← Nat.shiftLeft_add_eq_or_of_lt hv, BitVec.extractLsb'_toNat, Nat.shiftLeft_eq,
    Nat.shiftRight_eq_div_pow]
  simp only [setHalf, Bool.false_eq_true, if_false, BitVec.toNat_ofNat]
  omega

theorem ofNat_div_pow {w : Nat} (v : BitVec w) (k n : Nat) : BitVec.ofNat n (v.toNat / 2 ^ k) = v.extractLsb' k n := by
  apply BitVec.eq_of_toNat_eq
  rw [BitVec.toNat_ofNat, BitVec.extractLsb'_toNat, Nat.shiftRight_eq_div_pow]

/-- R247: a write of CTL to an entry that is not enabled takes ASID and KEY, and enables it where the checks let it. -/
theorem writeCtl_disabled {s : State} {vf : Nat} (h : (getFunc s vf).en = false) (v : BitVec 64) {en : Bool}
    (hen : (v.getLsbD 0 && (!funcTaken s vf (v.extractLsb' 8 16) (v.extractLsb' 24 8) && v.extractLsb' 24 8 != 0 &&
      fbbaseOk (getFunc s vf).fbbase)) = en) :
    writeCtl s vf v = modFunc s vf fun f => { f with en := en, asid := v.extractLsb' 8 16, key := v.extractLsb' 24 8 } := by
  simp only [writeCtl, h, Bool.false_eq_true, if_false, Bool.false_or, ofNat_div_pow, hen]

/-- R141: what a write asks of the i-th of its 32 entries. -/
def placeAsked (val : BitVec 64) (i : Nat) : Nat := val.toNat / 4 ^ i % 4

/-- R141: the placement table once the first n entries of a write have been written. -/
def placeWritten (first : Nat) (val : BitVec 64) (place : List (Nat × BitVec 2)) (n : Nat) : List (Nat × BitVec 2) :=
  (List.range n).foldl (fun m i =>
    if placeAsked val i ≤ 1 ∧ first + i < 2 ^ 22 then mset 0 m (first + i) (BitVec.ofNat 2 (placeAsked val i)) else m) place

theorem exec_placementTableWrite (first : Nat) (val : BitVec 64) (s : State) :
    exec (.placementTableWrite first val) s =
      .next (measuredWrite s { s with place := placeWritten first val s.place 32 } 2
        ((List.range 32).any fun i => mget 0 (placeWritten first val s.place 32) (first + i) != mget 0 s.place (first + i))) := rfl

/-- R141: an entry of the table that is written takes 0 or 1; one written with 2 or 3 stays. -/
theorem mget_placeWritten (first : Nat) (val : BitVec 64) (place : List (Nat × BitVec 2)) (n k : Nat) :
    mget 0 (placeWritten first val place n) k =
      if first ≤ k ∧ k < first + n ∧ k < 2 ^ 22 ∧ placeAsked val (k - first) ≤ 1 then BitVec.ofNat 2 (placeAsked val (k - first))
      else mget 0 place k := by
  induction n with
  | zero => rw [if_neg (by omega)]; rfl
  | succ n ih =>
    have hstep : placeWritten first val place (n + 1) =
        if placeAsked val n ≤ 1 ∧ first + n < 2 ^ 22 then
          mset 0 (placeWritten first val place n) (first + n) (BitVec.ofNat 2 (placeAsked val n))
        else placeWritten first val place n := by
      simp only [placeWritten, List.range_succ, List.foldl_append, List.foldl_cons, List.foldl_nil]
    by_cases hk : k = first + n
    · subst hk
      have hold : mget 0 (placeWritten first val place n) (first + n) = mget 0 place (first + n) := by
        rw [ih, if_neg (by omega)]
      rw [hstep, Nat.add_sub_cancel_left]
      split
      next hw => rw [mget_mset_self, if_pos (by omega)]
      next hw => rw [hold, if_neg (by omega)]
    · have hother : mget 0 (placeWritten first val place (n + 1)) k = mget 0 (placeWritten first val place n) k := by
        rw [hstep]
        split
        · exact mget_mset_ne _ _ _ hk
        · rfl
      rw [hother, ih]
      exact if_congr (by omega) rfl rfl

theorem placeWritten_entry (first : Nat) (val : BitVec 64) (place : List (Nat × BitVec 2)) {n i : Nat} (hi : i < n)
    (hlt : first + i < 2 ^ 22) : (mget 0 (placeWritten first val place n) (first + i)).toNat =
      if placeAsked val i ≤ 1 then placeAsked val i else (mget 0 place (first + i)).toNat := by
  have hasked : placeAsked val i % 2 ^ 2 = placeAsked val i := Nat.mod_mod _ 4
  rw [mget_placeWritten, Nat.add_sub_cancel_left, apply_ite BitVec.toNat, BitVec.toNat_ofNat, hasked]
  exact if_congr (by omega) rfl rfl

/-- R141, R252: a write of 32 entries changes nothing but the table and readings that it makes stale. -/
theorem placementTableWrite_writes (first : Nat) (val : BitVec 64) (s : State) :
    ∃ t, exec (.placementTableWrite first val) s = .next t ∧
      t = { s with place := t.place, sessionRead := t.sessionRead, sessions := t.sessions } ∧
      ∀ k, mget 0 t.place k = mget 0 (placeWritten first val s.place 32) k := by
  refine ⟨_, exec_placementTableWrite first val s, ?_⟩
  unfold measuredWrite
  split
  · exact ⟨rfl, fun _ => rfl⟩
  next hsame =>
    refine ⟨rfl, fun k => ?_⟩
    by_cases hk : first ≤ k ∧ k < first + 32
    · by_contra hne
      refine hsame (List.any_eq_true.mpr ⟨k - first, List.mem_range.mpr (by omega), ?_⟩)
      rw [show first + (k - first) = k by omega]
      simpa using Ne.symm hne
    · rw [mget_placeWritten, if_neg (by omega)]

end Sys2Proof.Machine
end

section
/-! SUPPORT. The invalidation commands (R250): what each drops, and what it leaves. -/

namespace Sys2Proof.Machine

/-- R250: nothing but caches and the protocol's messages changes. -/
theorem recallSectors_onlyCaches (s : State) (l : List Nat) : OnlyCaches s (recallSectors s l) := rfl

theorem invalidate_onlyCaches (s : State) (r : Inval) : OnlyCaches s (invalidate s r) := by
  unfold invalidate
  split
  · rfl
  · split
    · rfl
    · exact recallSectors_onlyCaches s _

theorem noTranslation_dropTlbs (s : State) (p : TlbEntry → Bool) : NoTranslation (dropTlbs s p) p := by
  have hkept {l : List TlbEntry} {x : TlbEntry} (hx : x ∈ l.filter fun x => !p x) : p x = false := by
    simpa using (List.mem_filter.mp hx).2
  constructor
  · intro e he x hx
    obtain ⟨e, -, rfl⟩ := List.mem_map.mp he
    exact hkept hx
  · intro e he
    obtain ⟨e, -, rfl⟩ := List.mem_map.mp he
    exact ⟨fun x hx => hkept hx, fun x hx => hkept hx⟩

theorem mem_cachedSectors_l1 {s : State} {e : Nat × Core} (he : e ∈ s.cores) {x : L1Sec} (hx : x ∈ e.2.l1) :
    x.sector ∈ cachedSectors s := by
  rw [cachedSectors, List.mem_eraseDups]
  exact List.mem_append_left _ (List.mem_flatMap.mpr ⟨e, he, List.mem_map.mpr ⟨x, hx, rfl⟩⟩)

/-- R250: once the cached sectors of which p holds are recalled, no L1 has one of them. -/
theorem recallSectors_l1 (s : State) (p : Nat → Bool) :
    ∀ e ∈ (recallSectors s ((cachedSectors s).filter p)).cores, ∀ x ∈ e.2.l1, p x.sector = false := by
  intro e he x hx
  obtain ⟨e₀, he₀, rfl⟩ := List.mem_map.mp he
  obtain ⟨hx, hkept⟩ := List.mem_filter.mp hx
  by_contra hp
  have hmem : x.sector ∈ (cachedSectors s).filter p :=
    List.mem_filter.mpr ⟨mem_cachedSectors_l1 (show e₀ ∈ s.cores from he₀) hx, by simpa using hp⟩
  have hgone : hasNat ((cachedSectors s).filter p) x.sector = true := List.any_eq_true.mpr ⟨_, hmem, beq_self_eq_true _⟩
  rw [hgone] at hkept
  cases hkept

theorem frozenSector_cool {s : State} (h : s.hot = []) (sector : Nat) : frozenSector s sector = false := by
  simp [frozenSector, h, mget]

/-! What a command does, by its kind. -/

theorem invalidate_asid {r : Inval} (h : r.kind = 0) (s : State) :
    invalidate s r = dropTlbs s fun e => e.asid == r.asid.toNat := by
  rw [invalidate, h]
  rfl

theorem invalidate_page {r : Inval} (h : r.kind = 1) {va : Addr} (ha : r.addr = va.zeroExtend 128) (s : State) :
    invalidate s r = dropTlbs s (coversPage r.asid.toNat va.toNat) := by
  have hva : (va.zeroExtend 128).toNat % 2 ^ 72 = va.toNat := by
    have := va.isLt
    rw [BitVec.toNat_setWidth]
    omega
  rw [invalidate, h, ha, hva]
  rfl

theorem invalidate_quad {r : Inval} (h : r.kind = 2) {pa : Nat} (ha : r.addr = BitVec.ofNat 128 pa) (s : State) :
    invalidate s r = flushSectors s ((cachedSectors s).filter (inQuad pa)) := by
  have hpa : inQuad (BitVec.ofNat 128 pa).toNat = inQuad pa := by
    have hquad : pa % 2 ^ 128 % 2 ^ 38 = pa % 2 ^ 38 := by omega
    funext sector
    rw [inQuad, inQuad, BitVec.toNat_ofNat, hquad]
  rw [invalidate, invalSectors, h, ha, hpa]
  rfl

theorem invalidate_key {r : Inval} (h : r.kind = 3) (s : State) :
    invalidate s r = flushSectors s ((cachedSectors s).filter (inKey s r.key.toNat)) := by
  rw [invalidate, invalSectors, h]
  rfl

/-- R250: the state in which a command begins to run. -/
def invalBegun (s : State) (r : Inval) : State := { s with inval := { r with go := true }, invalRun := some r }

theorem startInval_idle {s : State} (h : s.invalRun = none) (r : Inval) :
    startInval s r = invalidate (invalBegun s r) r := by
  simp only [startInval, h, Option.isSome_none, Bool.false_eq_true, if_false]
  rfl

theorem startInval_busy {s : State} {q : Inval} (h : s.invalRun = some q) (r : Inval) :
    startInval s r = { s with inval := { r with go := s.inval.go }, invalQ := s.invalQ ++ [r] } := by
  simp only [startInval, h, Option.isSome_some, if_true]

/-- R250: a command that starts while none runs is the one that runs, and GO reads 1. -/
theorem startInval_runs {s : State} (h : s.invalRun = none) (r : Inval) :
    let t := startInval s r
    t.inval.go = true ∧ t.invalRun.isSome = true ∧
      t = { s with
        inval := t.inval, invalRun := t.invalRun, cores := t.cores, dies := t.dies, msgs := t.msgs, chan := t.chan } := by
  rw [startInval_idle h]
  have hframe := invalidate_onlyCaches (invalBegun s r) r
  generalize invalidate (invalBegun s r) r = t at hframe
  rw [hframe]
  exact ⟨rfl, rfl, rfl⟩

/-- R250: what a command that flushes sectors does to the caches. -/
theorem flushSectors_flushes (s : State) (p : Nat → Bool) :
    (s.hot = [] → (∀ e ∈ (flushSectors s ((cachedSectors s).filter p)).cores, ∀ x ∈ e.2.l1, p x.sector = false) ∧
      cohOf (flushSectors s ((cachedSectors s).filter p)) = cohOf (recallSectors s ((cachedSectors s).filter p))) ∧
    cohOf (flushSectors s ((cachedSectors s).filter p)) =
      cohOf (recallSectors s (((cachedSectors s).filter p).filter fun x => !frozenSector s x)) := by
  refine ⟨fun hcool => ?_, rfl⟩
  have hall : (((cachedSectors s).filter p).filter fun x => !frozenSector s x) = (cachedSectors s).filter p :=
    List.filter_eq_self.mpr fun x _ => by rw [frozenSector_cool hcool]; rfl
  rw [flushSectors, hall]
  exact ⟨recallSectors_l1 s p, rfl⟩

end Sys2Proof.Machine
end

section
/-! SUPPORT. The memory window of the host (R245). -/

namespace Sys2Proof.Machine

theorem windowPlaces_length {s : State} {vf off n : Nat} {write : Bool} {l : List (Nat × Nat)}
    (h : windowPlaces s vf off n write = some l) : l.length = n := by
  unfold windowPlaces at h
  dsimp only at h
  split at h
  next hlen =>
    cases h
    exact hlen
  · cases h

/-- R249: bytes performed at their home come with their sectors under keys. -/
theorem performBytes_seals (s : State) (l : List (Nat × Nat)) (bs : List Byte) :
    ∃ (w : State) (tags : List (Nat × Nat)), w = { s with msgs := w.msgs, dies := w.dies, chan := w.chan } ∧
      tags.map (·.1) = l.map (fun x => x.1 / 128) ∧ performBytes s l bs = putCells (resealAll w tags) ((l.map (·.1)).zip bs) := by
  obtain ⟨w, hw, hperform⟩ : ∃ w : State, w = { s with msgs := w.msgs, dies := w.dies, chan := w.chan } ∧
      performBytes s l bs = putCells (l.foldl (fun acc x => tagBytes acc x.2 x.1) w) ((l.map (·.1)).zip bs) :=
    ⟨onCoh s fun c => (l.map fun x => x.1 / 128).eraseDups.foldl (fun c x => c.recall x) c, rfl, rfl⟩
  obtain ⟨tags, hsectors, hseal⟩ := tagBytes_foldl w (l.map fun x => ⟨none, 0, 0, x.1, x.2⟩)
  simp only [List.foldl_map, List.map_map] at hsectors hseal
  exact ⟨w, tags, hw, hsectors, by rw [hperform, hseal]⟩

/-- R245, R249: a write performed at its home changes memory at its places alone, and the caches that it recalls. -/
theorem performBytes_writes (s : State) (l : List (Nat × Nat)) (bs : List Byte) :
    let t := performBytes s l bs
    t = { s with
      mem := t.mem, memPoison := t.memPoison, memKey := t.memKey, torn := t.torn, dies := t.dies, msgs := t.msgs
      chan := t.chan } ∧ MemoryBut s t (l.map (·.1)) := by
  obtain ⟨w, tags, hw, hsectors, hperform⟩ := performBytes_seals s l bs
  have hall := resealAll_eq (s := s) (w := w) (by rw [hw]) (by rw [hw]) tags
  rw [hperform, hall]
  refine ⟨by rw [hw]; rfl, memoryBut_cells (tags := tags) (fun x hx => ?_) (fun c hc => (List.of_mem_zip hc).1) rfl rfl⟩
  have hsector : x.1 ∈ l.map fun x => x.1 / 128 := hsectors ▸ List.mem_map_of_mem hx
  obtain ⟨y, hy, he⟩ := List.mem_map.mp hsector
  exact ⟨y.1, List.mem_map_of_mem hy, he⟩

theorem performBytes_stand (s : State) {l : List (Nat × Nat)} (hl : (l.map (·.1)).Nodup) (bs : List Byte) :
    BytesStand (performBytes s l bs).mem (l.map (·.1)) bs := writeCells_zip_stand _ hl bs

section

variable {s : State} {vf off : Nat} {size : BitVec 2} (hoff : off + 2 ^ size.toNat ≤ 2 ^ 34)
include hoff

theorem hostWindowWrite_reaches {l : List (Nat × Nat)} (h : windowPlaces s vf off (2 ^ size.toNat) true = some l)
    (val : BitVec 64) : exec (.hostWindowAccess vf off size (some val)) s =
      .next (performBytes s l (leBytes (2 ^ size.toNat) val.toNat)) := by
  show execHostWindowAccess vf off size (some val) s = _
  simp only [execHostWindowAccess, if_neg (Nat.not_lt.mpr hoff), h]

theorem hostWindowWrite_misses (h : windowPlaces s vf off (2 ^ size.toNat) true = none) (val : BitVec 64) :
    exec (.hostWindowAccess vf off size (some val)) s = .next (modTenant s vf fun t => { t with wflt := true }) := by
  show execHostWindowAccess vf off size (some val) s = _
  simp only [execHostWindowAccess, if_neg (Nat.not_lt.mpr hoff), h]

theorem hostWindowRead_misses (h : windowPlaces s vf off (2 ^ size.toNat) false = none) :
    exec (.hostWindowAccess vf off size none) s =
      .next { modTenant s vf fun t => { t with wflt := true } with
        hostData := BitVec.ofNat 64 (2 ^ (8 * 2 ^ size.toNat) - 1) } := by
  show execHostWindowAccess vf off size none s = _
  simp only [execHostWindowAccess, if_neg (Nat.not_lt.mpr hoff), h]

/-- R245: a read that meets no poison gives what the pages show. -/
theorem hostWindowRead_reaches {l : List (Nat × Nat)} (h : windowPlaces s vf off (2 ^ size.toNat) false = some l)
    (hclean : ∀ x ∈ l, poisonedAt s x.1 1 = false) :
    exec (.hostWindowAccess vf off size none) s =
      .next { s with hostData := BitVec.ofNat 64 (leNat (l.map fun x => pageByte s x.2 x.1)) } := by
  have hbytes : ((List.range (2 ^ size.toNat)).zip l).map (fun x => windowByte s x.1 x.2) = l.map fun x => pageByte s x.2 x.1 := by
    calc _ = ((List.range (2 ^ size.toNat)).zip l).map ((fun x => pageByte s x.2 x.1) ∘ Prod.snd) :=
          List.map_congr_left fun x hx => by
            simp only [windowByte, hclean x.2 (List.of_mem_zip hx).2, Bool.false_eq_true, if_false, Function.comp]
      _ = _ := by rw [← List.map_map, List.map_snd_zip (by simp [windowPlaces_length h])]
  show execHostWindowAccess vf off size none s = _
  simp only [execHostWindowAccess, if_neg (Nat.not_lt.mpr hoff), h, hbytes]

end

end Sys2Proof.Machine
end

section
/-! PROOFS. The function table, the placement table, the invalidations and the memory window of the host (R141, R245, R247, R250,
R252). -/

namespace Sys2Proof.Machine

section

variable {s : State}

/-- R247: a write of an entry that updates it and nothing else. -/
theorem functionTableWrite_updates {vf off : Nat} {val : BitVec 64} {f : Func → Func} {g : Func}
    (h : exec (.functionTableWrite vf off val) s = .next (modFunc s vf f)) (hg : f (getFunc s vf) = g) :
    ∃ t, exec (.functionTableWrite vf off val) s = .next t ∧ getFunc t vf = g ∧ (∀ k, k ≠ vf → getFunc t k = getFunc s k) ∧
      t = { s with funcs := t.funcs, sessionRead := t.sessionRead, sessions := t.sessions } := by
  obtain ⟨hself, hothers, hframe⟩ := modFunc_becomes s vf f
  exact ⟨_, h, hself.trans hg, hothers, hframe⟩

/-- R247: the fields of an entry that are written by themselves. -/
theorem functionTableWrite_fields {vf : Nat} (h : vf < 64) (val : BitVec 64) :
    exec (.functionTableWrite vf 0 val) s = .next (writeCtl s vf val) ∧
    exec (.functionTableWrite vf 16 val) s = .next (modFunc s vf fun f => { f with root := BitVec.ofNat 52 val.toNat }) ∧
    exec (.functionTableWrite vf 32 val) s = .next (modFunc s vf fun f => { f with ecbase := setHalf f.ecbase false val }) := by
  have hvf : ¬64 ≤ vf := Nat.not_le.mpr h
  refine ⟨?_, ?_, ?_⟩
  all_goals
    show execFunctionTableWrite vf _ val s = _
    simp [execFunctionTableWrite, hvf]

/-- R252: GRANT stays while any key is installed. -/
theorem functionTableWrite_grant_locked {vf : Nat} (h : vf < 64) (hkey : anyKey s = true) (val : BitVec 64) :
    exec (.functionTableWrite vf 80 val) s = .next s := by
  have hvf : ¬64 ≤ vf := Nat.not_le.mpr h
  show execFunctionTableWrite vf 80 val s = _
  simp [execFunctionTableWrite, hvf, policyWrite, hkey]

theorem invalidationComplete_idle (h : s.invalRun = none) : exec .invalidationComplete s = .next s := by
  show execInvalidationComplete s = _
  simp only [execInvalidationComplete, h]

/-- R250: the last command completes. -/
theorem invalidationComplete_last {r : Inval} (h : s.invalRun = some r) (hq : s.invalQ = []) :
    ∃ t, exec .invalidationComplete s = .next t ∧ t.inval = { s.inval with go := false } ∧ t.invalRun = none ∧
      t = { s with inval := t.inval, invalRun := t.invalRun, flushed := t.flushed } ∧
      (r.kind = 3 → mget false t.flushed r.key.toNat = true) := by
  refine ⟨{ s with
    inval := { s.inval with go := false }, invalRun := none
    flushed := if r.kind = 3 then mset false s.flushed r.key.toNat true else s.flushed }, ?_, rfl, rfl, rfl, fun hk => ?_⟩
  · show execInvalidationComplete s = _
    simp only [execInvalidationComplete, h, hq]
  · simp only [hk, if_true, mget_mset_self]

/-- R250: the next command that waits runs once the one that runs completes. -/
theorem invalidationComplete_next {r q : Inval} {rest : List Inval} (h : s.invalRun = some r) (hq : s.invalQ = q :: rest) :
    ∃ t, exec .invalidationComplete s = .next t ∧ t.invalRun = some q ∧ t.invalQ = rest ∧ t.inval.go = true ∧ t.mem = s.mem := by
  obtain ⟨u, hu, hmem, hrest⟩ : ∃ u, exec .invalidationComplete s = .next (runInval u q) ∧ u.mem = s.mem ∧ u.invalQ = rest :=
    ⟨{ s with
      inval := { s.inval with go := false }, invalRun := none, invalQ := rest
      flushed := if r.kind = 3 then mset false s.flushed r.key.toNat true else s.flushed }, by
      show execInvalidationComplete s = _
      simp only [execInvalidationComplete, h, hq], rfl, rfl⟩
  have hframe := invalidate_onlyCaches { u with inval := { u.inval with go := true }, invalRun := some q } q
  refine ⟨_, hu, ?_⟩
  unfold runInval
  rw [hframe]
  exact ⟨rfl, hrest, rfl, hmem⟩

end

/-- Settles O57: `modFunc_becomes` for the function table, `mget_placeWritten` for the placement table, `startInval_runs` with what
each kind drops for the invalidations, `performBytes_writes` for the window. -/
theorem hostMemoryControl : Obligations.HostMemoryControl := by
  intro s vf off first asid key pa n val va size l r q rest f table
  refine ⟨fun hvf => ?_, ?_, fun hidle => ?_, fun hbusy => ?_, ?_⟩
  · obtain ⟨hctl, hroot, hecbase⟩ := functionTableWrite_fields (s := s) hvf val
    refine ⟨functionTableWrite_updates hroot ?_, functionTableWrite_updates hecbase ?_, fun hen hgo hkey hfb hfree => ?_,
      fun hen htaken => ?_, fun hlocked => functionTableWrite_grant_locked hvf hlocked val⟩
    · rw [BitVec.ofNat_toNat]
    · rw [setHalf_low]
    · rw [writeCtl_disabled hen val (en := true) (by simpa [hgo, hfree] using ⟨hkey, hfb⟩)] at hctl
      exact functionTableWrite_updates hctl rfl
    · rw [writeCtl_disabled hen val (en := false) (by simp [htaken])] at hctl
      exact functionTableWrite_updates hctl (by rw [← hen])
  · obtain ⟨t, ht, hframe, hplace⟩ := placementTableWrite_writes first val s
    refine ⟨t, ht, hframe, fun i hi hlt => ?_, fun k hk => ?_⟩
    · rw [hplace, placeWritten_entry _ _ _ hi hlt]
      rfl
    · rw [hplace, mget_placeWritten, if_neg (by omega)]
  · intro runs flushes
    have hruns {i : Instr} {c : Inval} {p : State → Prop} (hi : exec i s = .next (startInval s c))
        (hp : p (invalidate (invalBegun s c) c)) : runs i p := by
      obtain ⟨hgo, hrun, hframe⟩ := startInval_runs hidle c
      exact ⟨_, hi, hgo, hrun, startInval_idle hidle c ▸ hp, hframe⟩
    refine ⟨hruns rfl ?_, hruns rfl ?_, hruns rfl ?_, hruns rfl ?_, invalidationComplete_idle hidle⟩
    · rw [invalidate_asid rfl]
      exact noTranslation_dropTlbs _ _
    · rw [invalidate_page rfl rfl]
      exact noTranslation_dropTlbs _ _
    · rw [invalidate_quad rfl rfl]
      exact flushSectors_flushes (invalBegun s _) (inQuad pa)
    · rw [invalidate_key rfl]
      exact flushSectors_flushes (invalBegun s _) (inKey s (key % 2 ^ 8))
  · refine ⟨fun i hi => ?_, fun hq => invalidationComplete_last hbusy hq, fun hq => invalidationComplete_next hbusy hq⟩
    have hwaits {c : Inval} (hexec : exec i s = .next (startInval s c)) : ∃ t x, exec i s = .next t ∧
        t.invalQ = s.invalQ ++ [x] ∧ t.inval.go = s.inval.go ∧ t = { s with inval := t.inval, invalQ := t.invalQ } :=
      ⟨_, c, hexec.trans (congrArg _ (startInval_busy hbusy c)), rfl, rfl, rfl⟩
    simp only [List.mem_cons, List.not_mem_nil, or_false] at hi
    rcases hi with rfl | rfl | rfl | rfl
    all_goals exact hwaits rfl
  · rintro rfl hoff
    refine ⟨fun hl hnodup => ?_, fun hl hclean => hostWindowRead_reaches hoff hl hclean, fun hl => ?_, fun hl => ?_⟩
    · obtain ⟨hframe, hbut⟩ := performBytes_writes s l (leBytes (2 ^ size.toNat) val.toNat)
      exact ⟨_, hostWindowWrite_reaches hoff hl val, hframe, performBytes_stand s hnodup _, hbut⟩
    · exact ⟨_, hostWindowRead_misses hoff hl, rfl, congrArg Tenant.wflt (mget_mset_self ..)⟩
    · exact ⟨_, hostWindowWrite_misses hoff hl val, rfl, congrArg Tenant.wflt (mget_mset_self ..)⟩

end Sys2Proof.Machine
end

section
/-! PROOFS. What fills and empties the caches of a core: the statement about the end of a page walk fails where a read of the walk
has to wait for a miss register (R147), for then the walk goes on and no TLB has its translation yet. -/

namespace Sys2Proof.Machine

/-- A walk for page 0 that a die has under way, with the walk cache full of its entries, while an older request of the core waits
for a miss register of the pseudo-channel where the tables lie. -/
def heldWalk : State :=
  { State.reset with
    clock := 1
    cores := [(0, { Core.reset with missQ := [⟨0, true, [], 0, false, 0⟩] })]
    dies := [(0, { Die.reset with
      walking := [⟨0, 0, [0]⟩]
      walks := [⟨0, 0, 2 ^ 68, 1⟩, ⟨0, 0, 2 ^ 55, 1⟩, ⟨0, 0, 2 ^ 42, 1⟩, ⟨0, 0, 2 ^ 29, 1⟩, ⟨0, 0, 2 ^ 16, 3⟩] })] }

/-- The TLB of core 0 after an outcome. -/
def tlbAfter : Host.Outcome State Fault Refusal → List TlbEntry
  | .next t => (getCore t 0).tlb
  | _ => []

theorem heldWalk_tlb : tlbAfter (exec (.pageWalk 0) heldWalk) = [] := by decide

/-- Refutes O54: the walk of `heldWalk` finds its leaf, but its reads of the tables wait behind the older request, so that no TLB
entry stands after the event. -/
theorem not_cacheEvents : ¬ Obligations.CacheEvents := by
  intro h
  obtain ⟨-, -, -, -, -, hwalk⟩ := h heldWalk 0 0 3 0 0 0 0 [] ⟨0, true, [], 0, false, 0⟩ [] ⟨0, 0, [0]⟩
  obtain ⟨t, ht, -, e, he, -⟩ := hwalk (by decide) (by decide) (by decide) (by decide)
  have htlb := heldWalk_tlb
  rw [ht] at htlb
  have hnone : (getCore t heldWalk.blk.core).tlb = [] := htlb
  rw [hnone] at he
  exact absurd he List.not_mem_nil

end Sys2Proof.Machine
end

section
/-! SUPPORT. The operations of the coherence protocol (R172 to R177): what each leaves of the messages and of the dies, and what it
makes of a sector at a die and of an entry at its home. -/

namespace Sys2Proof.Machine

/-- A state with the protocol's part replaced by what may change of it. -/
def withCoh (s : State) (c : Coh) : State := { s with msgs := c.msgs, dies := c.dies, chan := c.chan }

theorem onCoh_eq_withCoh (s : State) (f : Coh → Coh) : onCoh s f = withCoh s (f (cohOf s)) := (rfl)

theorem hasNat_iff_mem {l : List Nat} {n : Nat} : hasNat l n = true ↔ n ∈ l := by simp [hasNat]

namespace Coh

variable (c : Coh)

@[simp] theorem die_modDie_self (k : Nat) (f : Die → Die) : (c.modDie k f).die k = f (c.die k) := mget_mset_self ..

theorem die_congr {c u : Coh} (h : u.dies = c.dies) (k : Nat) : u.die k = c.die k := congrArg (mget Die.reset · k) h

theorem die_modDie_ne {k j : Nat} (f : Die → Die) (h : j ≠ k) : (c.modDie k f).die j = c.die j := mget_mset_ne _ _ _ h

/-! What a die holds of a sector. -/

theorem held_congr {c u : Coh} {d : Nat} (h : (u.die d).l2 = (c.die d).l2) (sector : Nat) : u.held d sector = c.held d sector := by
  unfold held
  rw [h]

theorem buffered_congr {c u : Coh} {d : Nat} (h : (u.die d).wb = (c.die d).wb) (sector : Nat) :
    u.buffered d sector = c.buffered d sector := by
  unfold buffered
  rw [h]

theorem held_eq_I_of_absent {d sector : Nat} (h : ∀ x ∈ (c.die d).l2, x.sector ≠ sector) : c.held d sector = .I := by
  have hnone : (c.die d).l2.find? (fun x => x.sector == sector) = none := by simpa using h
  simp only [held, hnone]

/-- Where no entry of a sector is I, one that a die does not hold has no entry. -/
theorem absent_of_held_eq_I {d sector : Nat} (hI : c.held d sector = .I)
    (h : ∀ x ∈ (c.die d).l2, x.sector = sector → x.st ≠ .I) : ∀ x ∈ (c.die d).l2, x.sector ≠ sector := by
  cases hx : (c.die d).l2.find? fun x => x.sector == sector with
  | none => simpa using hx
  | some x =>
    simp only [held, hx] at hI
    exact absurd hI (h x (List.mem_of_find?_eq_some hx) (by simpa using List.find?_some hx))

/-- A sector that a die holds comes to the state that it is set to. -/
theorem held_setHeld {d sector : Nat} (h : c.held d sector ≠ .I) (st : SecState) :
    (c.setHeld d sector st).held d sector = st := by
  by_cases hst : st = .I
  · subst hst
    exact held_eq_I_of_absent _ (by simp [setHeld])
  · unfold held at h ⊢
    simp only [setHeld, if_neg hst, die_modDie_self, List.find?_map]
    have hsame : ((fun x => x.sector == sector) ∘ fun x : L2Sec => if x.sector == sector then { x with st := st } else x) =
        fun x => x.sector == sector := by
      funext x
      dsimp only [Function.comp]
      split <;> rfl
    rw [hsame]
    cases hx : (c.die d).l2.find? fun x => x.sector == sector with
    | none => simp [hx] at h
    | some x =>
      have hsec := List.find?_some hx
      simp only [Option.map_some, hsec, if_true]

theorem held_setHeld_I (d sector : Nat) : (c.setHeld d sector .I).held d sector = .I :=
  held_eq_I_of_absent _ (by simp [setHeld])

theorem buffered_setHeld (d sector : Nat) (st : SecState) : (c.setHeld d sector st).buffered d sector = c.buffered d sector := by
  refine buffered_congr ?_ sector
  unfold setHeld
  split <;> rw [die_modDie_self]

theorem held_setBuffered (d sector : Nat) (st : SecState) : (c.setBuffered d sector st).held d sector = c.held d sector := by
  refine held_congr ?_ sector
  rw [setBuffered, die_modDie_self]

theorem buffered_setBuffered_I (d sector : Nat) : (c.setBuffered d sector .I).buffered d sector = .I := by
  unfold buffered
  cases hx : ((c.setBuffered d sector .I).die d).wb.find? fun x => x.sector == sector with
  | none => rfl
  | some x =>
    have hmem := List.mem_of_find?_eq_some hx
    simp only [setBuffered, die_modDie_self, List.mem_map] at hmem
    obtain ⟨y, -, rfl⟩ := hmem
    have hsec := List.find?_some hx
    dsimp only at hsec ⊢
    split
    · rfl
    · rename_i hne
      rw [if_neg hne] at hsec
      exact absurd hsec hne

theorem held_keep {d sector : Nat} (h : c.held d sector ≠ .I) (st : SecState) : (c.keep d sector st).held d sector = st := by
  rw [keep, if_neg h]
  exact c.held_setHeld h st

theorem held_keep_I (d sector : Nat) : (c.keep d sector .I).held d sector = .I := by
  unfold keep
  split
  · rwa [held_setBuffered]
  · exact held_setHeld_I ..

/-- A die that held a sector in one place alone, its L2 or its writeback buffers, holds it in neither once it keeps I. -/
theorem buffered_keep_I {d sector : Nat} (h : c.held d sector = .I ∨ c.buffered d sector = .I) :
    (c.keep d sector .I).buffered d sector = .I := by
  unfold keep
  split
  · exact buffered_setBuffered_I ..
  · rw [buffered_setHeld]
    exact h.resolve_left ‹_›

theorem die_keep_ne {d j : Nat} (h : j ≠ d) (sector : Nat) (st : SecState) : (c.keep d sector st).die j = c.die j := by
  unfold keep setBuffered setHeld
  split_ifs <;> exact c.die_modDie_ne _ h

@[simp] theorem setHeld_msgs (d sector : Nat) (st : SecState) : (c.setHeld d sector st).msgs = c.msgs := by
  unfold setHeld
  split <;> rfl

@[simp] theorem keep_msgs (d sector : Nat) (st : SecState) : (c.keep d sector st).msgs = c.msgs := by
  unfold keep
  split
  · rfl
  · exact setHeld_msgs ..

@[simp] theorem keep_mem (d sector : Nat) (st : SecState) : (c.keep d sector st).mem = c.mem := by
  unfold keep setHeld
  split_ifs <;> rfl

/-! A sector taken in, and the line that makes room for it (R138). -/

theorem foldl_sendWbk (d : Nat) (l : List L2Sec) :
    (l.foldl (fun acc x => acc.sendWbk d x.sector) c).dies = c.dies ∧
      c.msgs <+: (l.foldl (fun acc x => acc.sendWbk d x.sector) c).msgs := by
  induction l generalizing c with
  | nil => exact ⟨rfl, List.prefix_rfl⟩
  | cons x l ih =>
    obtain ⟨hdies, hpre⟩ := ih (c.sendWbk d x.sector)
    exact ⟨hdies, (List.prefix_append ..).trans hpre⟩

theorem dropLine_sends (d line : Nat) : c.msgs <+: (c.dropLine d line).msgs ∧
    ((c.dropLine d line).die d).l2 = (c.die d).l2.filter fun x => x.pa / 8 != line := by
  unfold dropLine
  dsimp only
  generalize hu : (c.modDie d fun y => { y with l2 := y.l2.filter (fun x => x.pa / 8 != line), wb := _ }) = u
  have hl2 : (u.die d).l2 = (c.die d).l2.filter fun x => x.pa / 8 != line := by rw [← hu, die_modDie_self]
  have hmsgs : u.msgs = c.msgs := by rw [← hu]; rfl
  obtain ⟨hdies, hpre⟩ := u.foldl_sendWbk d
    (((c.die d).l2.filter fun x => x.pa / 8 == line).filter fun x => x.st == .M || x.st == .O)
  rw [← hl2, ← hmsgs]
  have hdie := congrArg Die.l2 (die_congr hdies d)
  split
  · exact ⟨hpre, hdie⟩
  · split
    · exact ⟨hpre, hdie⟩
    · exact ⟨hpre.trans (List.prefix_append ..), hdie⟩

/-- A die whose set of a line has room for the line, another line having left it where it was full (R138). -/
def makeRoom (d line : Nat) : Coh :=
  match c.victim d line with
  | some v => c.dropLine d v
  | none => c

theorem makeRoom_sends (d line : Nat) : c.msgs <+: (c.makeRoom d line).msgs ∧
    ∀ x ∈ ((c.makeRoom d line).die d).l2, x ∈ (c.die d).l2 := by
  unfold makeRoom
  split
  · obtain ⟨hmsgs, hl2⟩ := c.dropLine_sends d ‹_›
    exact ⟨hmsgs, fun x hx => List.mem_of_mem_filter (hl2 ▸ hx)⟩
  · exact ⟨List.prefix_rfl, fun _ hx => hx⟩

theorem takeIn_held {d sector : Nat} (h : c.held d sector ≠ .I) (st : SecState) (tag : Nat) :
    c.takeIn d sector st tag = c.setHeld d sector st := if_pos (bne_iff_ne.mpr h)

theorem takeIn_lacking {d sector : Nat} (h : c.held d sector = .I) (st : SecState) (tag : Nat) :
    c.takeIn d sector st tag = (c.makeRoom d (c.paSector sector / 8)).modDie d fun y => { y with
      l2 := y.l2 ++ [⟨sector, c.paSector sector, st, if c.heldTag sector = 0 then tag else c.heldTag sector⟩] } :=
  if_neg (by simp [h])

theorem takeIn_msgs (d sector : Nat) (st : SecState) (tag : Nat) : c.msgs <+: (c.takeIn d sector st tag).msgs := by
  by_cases h : c.held d sector = .I
  · rw [c.takeIn_lacking h]
    exact (c.makeRoom_sends ..).1
  · rw [c.takeIn_held h, setHeld_msgs]

/-- A die that takes in a sector holds it in the state that it is given. -/
theorem held_takeIn {d sector : Nat} (h : ∀ x ∈ (c.die d).l2, x.sector = sector → x.st ≠ .I) (st : SecState) (tag : Nat) :
    (c.takeIn d sector st tag).held d sector = st := by
  by_cases hI : c.held d sector = .I
  · rw [c.takeIn_lacking hI]
    have hnone : ((c.makeRoom d (c.paSector sector / 8)).die d).l2.find? (fun x => x.sector == sector) = none :=
      List.find?_eq_none.mpr fun x hx => by
        simpa using c.absent_of_held_eq_I hI h x ((c.makeRoom_sends ..).2 x hx)
    simp [held, hnone]
  · rw [c.takeIn_held hI]
    exact c.held_setHeld hI st

end Coh

end Sys2Proof.Machine
end

section
/-! SUPPORT. What the home of a sector makes of a request that it takes up (R174, R175, R177), by the sector's state and owner. -/

namespace Sys2Proof.Machine

namespace Coh

/-! The entry of a sector's line. -/

theorem line_setDir {c : Coh} {sector : Nat} {e : DirLine} (h : c.line (homeDie sector) (sector / 8) = some e)
    (x : SecState × Nat) (die : Nat) :
    (c.setDir sector x die).line (homeDie sector) (sector / 8) = some { e with
      mask := if die = homeDie sector then e.mask else e.mask ||| BitVec.ofNat 4 (2 ^ die), st := e.st.set (sector % 8) x } := by
  unfold line at h ⊢
  have hline : e.line = sector / 8 := by simpa using List.find?_some h
  have hgone (l : List DirLine) : (l.filter fun z => z.line != sector / 8).find? (fun x => x.line == sector / 8) = none := by
    simp
  simp only [setDir, die_modDie_self, h, List.find?_append, hgone, Option.none_or, List.find?_singleton, hline, beq_self_eq_true,
    if_true]

end Coh

namespace EntryBecomes

variable {c u v : Coh} {die sector : Nat} {x y : SecState × Nat}

theorem setDir (h : u.dies = c.dies) : EntryBecomes c (u.setDir sector x die) die sector x := by
  intro e he
  have hu : u.line (homeDie sector) (sector / 8) = some e := by
    rw [← he]
    exact congrArg (fun d : Die => d.dir.find? fun z => z.line == sector / 8) (Coh.die_congr h _)
  exact ⟨_, Coh.line_setDir hu x die, rfl, rfl, rfl⟩

theorem congr (h : EntryBecomes c u die sector x) (hd : v.dies = u.dies) : EntryBecomes c v die sector x := by
  intro e he
  obtain ⟨e', he', hrest⟩ := h e he
  refine ⟨e', ?_, hrest⟩
  rw [← he']
  exact congrArg (fun d : Die => d.dir.find? fun z => z.line == sector / 8) (Coh.die_congr hd _)

theorem trans (h : EntryBecomes c u die sector x) (h' : EntryBecomes u v die sector y) : EntryBecomes c v die sector y := by
  intro e he
  obtain ⟨f, hf, hst, hev, hmask⟩ := h e he
  obtain ⟨g, hg, hst', hev', hmask'⟩ := h' f hf
  refine ⟨g, hg, by rw [hst', hst, List.set_set], hev'.trans hev, ?_⟩
  rw [hmask', hmask]
  split
  · rfl
  · rw [BitVec.or_assoc, BitVec.or_self]

end EntryBecomes

/-- The snoops by which the home has a list of dies drop a sector for a requester. -/
def sinsTo (sector req : Nat) (l : List Nat) : List Msg := l.map fun d => ⟨.sin, sector, homeDie sector, d, req, .I, none, 0⟩

namespace Coh

theorem foldl_snoop (c : Coh) (sector : Nat) {req : Nat} {l : List Nat} (h : ∀ d ∈ l, d ≠ req) :
    l.foldl (fun acc d => acc.snoop .sin sector d req) c = { c with msgs := c.msgs ++ sinsTo sector req l } := by
  induction l generalizing c with
  | nil => simp [sinsTo]
  | cons d l ih =>
    have hd : c.snoop .sin sector d req = c.send ⟨.sin, sector, homeDie sector, d, req, .I, none, 0⟩ :=
      if_neg (h d List.mem_cons_self)
    rw [List.foldl_cons, hd, ih _ fun x hx => h x (List.mem_cons_of_mem _ hx)]
    simp [sinsTo, send]

theorem supply_sends (c : Coh) (m : Msg) (st : SecState) :
    (c.supply m st).msgs =
      c.msgs ++ [⟨.dat, m.sector, homeDie m.sector, m.src, m.src, st, some (sectorData c.mem m.sector), m.tag⟩] ∧
    (c.supply m st).dies = c.dies := by
  unfold supply
  split <;> exact ⟨rfl, rfl⟩

/-- A request ended by its home's data, with the state that the requester is granted and what the entry comes to. -/
def granted (c : Coh) (m : Msg) (st : SecState) (x : SecState × Nat) : Coh := ((c.take m).supply m st).setDir m.sector x m.src

theorem granted_sends (c : Coh) (m : Msg) (st : SecState) (x : SecState × Nat) :
    (c.granted m st x).msgs = c.msgs.erase m ++
      [⟨.dat, m.sector, homeDie m.sector, m.src, m.src, st, some (sectorData c.mem m.sector), m.tag⟩] ∧
    EntryBecomes c (c.granted m st x) m.src m.sector x :=
  ⟨((c.take m).supply_sends m st).1, .setDir ((c.take m).supply_sends m st).2⟩

section

variable {c : Coh} {m : Msg} {st : SecState} {own : Nat}

/-- What a request finds of its entry is a matter of the dies alone. -/
theorem entryFor_ready {u : Coh} {die sector : Nat} (h : c.entryFor die sector = .ready u) : ∃ d, u = { c with dies := d } := by
  unfold entryFor at h
  dsimp only at h
  split at h
  · cases h
    exact ⟨_, rfl⟩
  · split at h
    · cases h
      exact ⟨_, rfl⟩
    · split at h
      · split at h
        · cases h
        · cases h
          exact ⟨_, rfl⟩
      · split at h
        · cases h
        · split at h <;> cases h

variable (hx : c.dirState m.sector = (st, own))
include hx

/-! RDS (R174). -/

theorem homeRds_exclusive (h : st = .I ∨ (st ≠ .S ∧ own = m.src)) :
    (c.homeRds m).msgs = c.msgs.erase m ++
      [⟨.dat, m.sector, homeDie m.sector, m.src, m.src, .E, some (sectorData c.mem m.sector), m.tag⟩] ∧
    EntryBecomes c (c.homeRds m) m.src m.sector (.E, m.src) := by
  have heq : c.homeRds m = c.granted m .E (.E, m.src) := by simp only [homeRds, hx, if_pos h, granted]
  rw [heq]
  exact c.granted_sends m .E (.E, m.src)

theorem homeRds_shared (h : st = .S) :
    (c.homeRds m).msgs = c.msgs.erase m ++
      [⟨.dat, m.sector, homeDie m.sector, m.src, m.src, .S, some (sectorData c.mem m.sector), m.tag⟩] ∧
    EntryBecomes c (c.homeRds m) m.src m.sector (.S, 0) := by
  have heq : c.homeRds m = c.granted m .S (.S, 0) := by simp [homeRds, hx, h, granted]
  rw [heq]
  exact c.granted_sends m .S (.S, 0)

theorem homeRds_forwards (hI : st ≠ .I) (hS : st ≠ .S) (hown : own ≠ m.src) :
    (c.homeRds m).msgs = served_ c.msgs m .O ++ [⟨.sfw, m.sector, homeDie m.sector, own, m.src, .I, none, 0⟩] ∧
    EntryBecomes c (c.homeRds m) m.src m.sector (st, own) := by
  have h : c.homeRds m = ((c.setDir m.sector (st, own) m.src).serve m .O).send
      ⟨.sfw, m.sector, homeDie m.sector, own, m.src, .I, none, 0⟩ := by
    simp [homeRds, hx, hI, hS, hown, snoop]
  rw [h]
  exact ⟨rfl, (EntryBecomes.setDir rfl).congr rfl⟩

end

/-! RDX (R174). -/

/-- Whether another die than the requester owns a sector, by its state and owner at its home. -/
def ownedElsewhere (x : SecState × Nat) (die : Nat) : Bool := decide (x.1 ≠ .I ∧ x.1 ≠ .S ∧ x.2 ≠ die)

/-- The dies to which the home sends SIN for an exclusive request: the holders but the requester and an owner that it asks for the
data. -/
def others (c : Coh) (die sector : Nat) (x : SecState × Nat) : List Nat :=
  (c.holders sector).filter fun d => d != die && !(ownedElsewhere x die && d == x.2)

theorem ne_of_mem_others {c : Coh} {die sector d : Nat} {x : SecState × Nat} (h : d ∈ c.others die sector x) : d ≠ die := by
  simp only [others, List.mem_filter, Bool.and_eq_true, bne_iff_ne] at h
  exact h.2.1

/-- An exclusive request taken into service, its SINs sent. -/
def snooped (c : Coh) (m : Msg) (x : SecState × Nat) (st : SecState) : Coh :=
  (c.others m.src m.sector x).foldl (fun acc d => acc.snoop .sin m.sector d m.src) ((c.setDir m.sector x m.src).serve m st)

theorem snooped_sends (c : Coh) (m : Msg) (x : SecState × Nat) (st : SecState) :
    (c.snooped m x st).msgs = served_ c.msgs m st ++ sinsTo m.sector m.src (c.others m.src m.sector x) ∧
    EntryBecomes c (c.snooped m x st) m.src m.sector x := by
  rw [snooped, foldl_snoop _ _ fun _ => ne_of_mem_others]
  exact ⟨rfl, (EntryBecomes.setDir rfl).congr rfl⟩

section

variable {c : Coh} {m : Msg} {x : SecState × Nat} (hx : c.dirState m.sector = x)
include hx

theorem homeRdx_eq (hI : x.1 ≠ .I) :
    c.homeRdx m =
      if ownedElsewhere x m.src = false ∧ c.others m.src m.sector x = [] then
        (c.setDir m.sector x m.src).granted m .M (.M, m.src)
      else if ownedElsewhere x m.src then (c.snooped m x .O).snoop .sfx m.sector x.2 m.src
      else c.snooped m x .S := by
  subst hx
  have howned : ((c.dirState m.sector).1 != .I && (c.dirState m.sector).1 != .S && (c.dirState m.sector).2 != m.src) =
      ownedElsewhere (c.dirState m.sector) m.src := by
    simp only [ownedElsewhere, bne, Bool.and_assoc, Bool.decide_and, decide_not, beq_eq_decide]
  simp only [homeRdx, howned, if_neg hI, granted, snooped, others]
  obtain ho | ho := (ownedElsewhere (c.dirState m.sector) m.src).eq_false_or_eq_true <;> simp [ho]

theorem homeRdx_grants (h : x.1 = .I ∨ (ownedElsewhere x m.src = false ∧ c.others m.src m.sector x = [])) :
    (c.homeRdx m).msgs = c.msgs.erase m ++
      [⟨.dat, m.sector, homeDie m.sector, m.src, m.src, .M, some (sectorData c.mem m.sector), m.tag⟩] ∧
    EntryBecomes c (c.homeRdx m) m.src m.sector (.M, m.src) := by
  have heq : c.homeRdx m = (c.setDir m.sector x m.src).granted m .M (.M, m.src) := by
    by_cases hI : x.1 = .I
    · simp [homeRdx, hx, hI, granted]
    · rw [homeRdx_eq hx hI, if_pos (h.resolve_left hI)]
  obtain ⟨hmsgs, hentry⟩ := (c.setDir m.sector x m.src).granted_sends m .M (.M, m.src)
  rw [heq]
  exact ⟨hmsgs, (EntryBecomes.setDir rfl).trans hentry⟩

theorem homeRdx_snoops (hI : x.1 ≠ .I) (ho : ownedElsewhere x m.src = false) (hsome : c.others m.src m.sector x ≠ []) :
    (c.homeRdx m).msgs = served_ c.msgs m .S ++ sinsTo m.sector m.src (c.others m.src m.sector x) ∧
    EntryBecomes c (c.homeRdx m) m.src m.sector x := by
  rw [homeRdx_eq hx hI, if_neg fun h => hsome h.2, if_neg (by simp [ho])]
  exact c.snooped_sends m x .S

theorem homeRdx_forwards (ho : ownedElsewhere x m.src = true) :
    (c.homeRdx m).msgs = served_ c.msgs m .O ++ sinsTo m.sector m.src (c.others m.src m.sector x) ++
      [⟨.sfx, m.sector, homeDie m.sector, x.2, m.src, .I, none, 0⟩] ∧
    EntryBecomes c (c.homeRdx m) m.src m.sector x := by
  obtain ⟨hmsgs, hentry⟩ := c.snooped_sends m x .O
  obtain ⟨hI, -, hown⟩ := of_decide_eq_true ho
  rw [homeRdx_eq hx hI, if_neg (by simp [ho]), if_pos ho, snoop, if_neg hown]
  exact ⟨congrArg (· ++ _) hmsgs, hentry.congr rfl⟩

end

/-! UPG (R174). -/

theorem homeUpg_done {c : Coh} {m : Msg} (hstill : c.stillHolds m.src m.sector = true)
    (hnone : (c.holders m.sector).filter (fun d => d != m.src) = []) :
    (c.homeUpg m).msgs = c.msgs.erase m ++ [⟨.cmp, m.sector, homeDie m.sector, m.src, m.src, .M, none, 0⟩] ∧
    EntryBecomes c (c.homeUpg m) m.src m.sector (.M, m.src) := by
  simp only [homeUpg, hstill, hnone, List.isEmpty_nil, if_true]
  exact ⟨rfl, .setDir rfl⟩

theorem homeUpg_snoops {c : Coh} {m : Msg} (hstill : c.stillHolds m.src m.sector = true)
    (hsome : (c.holders m.sector).filter (fun d => d != m.src) ≠ []) :
    (c.homeUpg m).msgs =
      served_ c.msgs m .E ++ sinsTo m.sector m.src ((c.holders m.sector).filter fun d => d != m.src) := by
  have hne : ∀ d ∈ (c.holders m.sector).filter (fun d => d != m.src), d ≠ m.src := fun d hd => by
    simpa using (List.mem_filter.mp hd).2
  simp only [homeUpg, hstill, List.isEmpty_iff, if_neg hsome, if_true, foldl_snoop _ _ hne]
  rfl

theorem homeUpg_lost {c : Coh} {m : Msg} (h : c.stillHolds m.src m.sector = false) : c.homeUpg m = c.homeRdx m :=
  if_neg (by simp [h])

/-! WBK (R174, R175). -/

theorem homeWbk_sends {c : Coh} {m : Msg} {x : SecState × Nat} (hx : c.dirState m.sector = x) :
    (c.homeWbk m).msgs = c.msgs.erase m ++ [⟨.cmp, m.sector, homeDie m.sector, m.src, m.src, .I, none, 0⟩] ∧
    (x.2 = m.src → x.1 = .M ∨ x.1 = .E → EntryBecomes c (c.homeWbk m) m.src m.sector (.I, 0)) ∧
    (x.2 = m.src → x.1 = .O → EntryBecomes c (c.homeWbk m) m.src m.sector (.S, 0)) ∧
    (x.2 ≠ m.src ∨ x.1 = .S ∨ x.1 = .I → (c.homeWbk m).dies = c.dies) := by
  simp only [homeWbk, hx]
  split
  · rename_i h
    refine ⟨rfl, fun _ _ => .setDir rfl, fun _ hO => ?_, fun hout => ?_⟩
    · simp [hO] at h
    · rcases hout with hout | hout | hout <;> simp [hout] at h
  · split
    · rename_i hME h
      refine ⟨rfl, fun hown hst => absurd ⟨hown, hst⟩ hME, fun _ _ => .setDir rfl, fun hout => ?_⟩
      rcases hout with hout | hout | hout <;> simp [hout] at h
    · rename_i hME hO
      exact ⟨rfl, fun hown hst => absurd ⟨hown, hst⟩ hME, fun hown hst => absurd ⟨hown, hst⟩ hO, fun _ => rfl⟩

/-! EVC (R174). -/

/-- An entry of a snoop filter without a die that has dropped its line. -/
def withoutDie (die : Nat) (e : DirLine) : DirLine := { e with
  mask := e.mask &&& ~~~(BitVec.ofNat 4 (2 ^ die)), st := e.st.map fun y => if y.1 = .E ∧ y.2 = die then (.I, 0) else y }

/-- Where a home has one entry of a line, that is the one of which an EVC takes its die, and which goes with its last. -/
theorem line_homeEvc {c : Coh} {m : Msg} (hnodup : ((c.die (homeDie m.sector)).dir.map (·.line)).Nodup) {e : DirLine}
    (he : c.line (homeDie m.sector) (m.sector / 8) = some e) :
    (c.homeEvc m).line (homeDie m.sector) (m.sector / 8) =
      if (withoutDie m.src e).mask = 0 then none else some (withoutDie m.src e) := by
  have hmem : e ∈ (c.die (homeDie m.sector)).dir := List.mem_of_find?_eq_some he
  have hline : e.line = m.sector / 8 := by simpa using List.find?_some he
  have hdir : ((c.homeEvc m).die (homeDie m.sector)).dir = ((c.die (homeDie m.sector)).dir.map fun x =>
      if x.line == m.sector / 8 then withoutDie m.src x else x).filter fun x => x.line != m.sector / 8 || x.mask != 0 := by
    simp only [homeEvc, trim, die_modDie_self]
    rfl
  have honly : ∀ z ∈ ((c.homeEvc m).die (homeDie m.sector)).dir, z.line = m.sector / 8 →
      z = withoutDie m.src e ∧ (withoutDie m.src e).mask ≠ 0 := by
    intro z hz hzl
    rw [hdir, List.mem_filter, List.mem_map] at hz
    obtain ⟨⟨y, hy, rfl⟩, hkept⟩ := hz
    have hyl : y.line = m.sector / 8 := by split at hzl <;> exact hzl
    have hye : y = e := List.inj_on_of_nodup_map hnodup hy hmem (hyl.trans hline.symm)
    subst hye
    simpa [hyl, withoutDie] using hkept
  unfold line
  split
  · rename_i hmask
    exact List.find?_eq_none.mpr fun z hz hzl => (honly z hz (by simpa using hzl)).2 hmask
  · rename_i hmask
    cases hz : ((c.homeEvc m).die (homeDie m.sector)).dir.find? fun x => x.line == m.sector / 8 with
    | some z => rw [(honly z (List.mem_of_find?_eq_some hz) (by simpa using List.find?_some hz)).1]
    | none =>
      have hin : withoutDie m.src e ∈ ((c.homeEvc m).die (homeDie m.sector)).dir := by
        rw [hdir, List.mem_filter, List.mem_map]
        exact ⟨⟨e, hmem, by simp [hline]⟩, Bool.or_eq_true_iff.mpr (.inr (bne_iff_ne.mpr hmask))⟩
      exact absurd (beq_iff_eq.mpr hline) (List.find?_eq_none.mp hz (withoutDie m.src e) hin)

end Coh

/-! The arrival of a request (R175). -/

section

variable {s : State} {kind : MsgKind} {die sector : Nat} {m : Msg}

theorem waitingReq_fields (h : waitingReq s kind die sector = some m) :
    m.kind = kind ∧ m.sector = sector ∧ m.src = die ∧ m.st = .I := by
  simpa [and_assoc] using List.find?_some h

variable (h : Arrives s kind die sector m)
include h

/-- Nothing keeps the home from the request. -/
theorem Arrives.unhindered : ((cohOf s).inService m.sector || (cohOf s).before m) = false ∧
    (((cohOf s).line (homeDie m.sector) (m.sector / 8)).map (·.evict)).getD false = false := by
  obtain ⟨-, rfl, -, -⟩ := waitingReq_fields h.waits
  refine ⟨by simp [h.free, h.first], ?_⟩
  cases he : (cohOf s).line (homeDie m.sector) (m.sector / 8) with
  | none => rfl
  | some e => exact h.stands e he

theorem Arrives.wbk (hk : m.kind = .wbk) : (cohOf s).arrive m = some ((cohOf s).homeWbk m) := by
  simp [Coh.arrive, h.unhindered, hk]

theorem Arrives.evc (hk : m.kind = .evc) (hline : (cohOf s).lineInService (m.sector / 8) = false) :
    (cohOf s).arrive m = some ((cohOf s).homeEvc m) := by
  simp [Coh.arrive, h.unhindered, hk, hline]

section

variable {c : Coh} (hc : (cohOf s).entryFor m.src m.sector = .ready c)
include hc

theorem Arrives.rds (hk : m.kind = .rds) : (cohOf s).arrive m = some (c.homeRds m) := by
  simp [Coh.arrive, h.unhindered, hk, hc]

theorem Arrives.rdx (hk : m.kind = .rdx) : (cohOf s).arrive m = some (c.homeRdx m) := by
  simp [Coh.arrive, h.unhindered, hk, hc]

theorem Arrives.upg (hk : m.kind = .upg) : (cohOf s).arrive m = some (c.homeUpg m) := by
  simp [Coh.arrive, h.unhindered, hk, hc]

end

end

end Sys2Proof.Machine
end

section
/-! PROOFS. The requests that a die makes, and what the home of a sector does with each (R173 to R177). -/

namespace Sys2Proof.Machine

section

variable {s : State} {kind : MsgKind} {may : State → Bool} {send : Coh → Coh} {data : Coh → Option (List Byte)}
  {tag die sector : Nat}

theorem requestStep_takes {m : Msg} {u : Coh} (hw : waitingReq s kind die sector = some m) (hu : (cohOf s).arrive m = some u) :
    requestStep kind may send data tag die sector s = withCoh s u := by
  simp only [requestStep, hw, onCoh_eq_withCoh, hu, Option.getD_some]

theorem requestStep_sends (hw : waitingReq s kind die sector = none) (hask : asking s die sector = false) (hmay : may s = true) :
    requestStep kind may send data tag die sector s = withCoh s ((send (cohOf s)).send
      ⟨kind, sector, die, homeDie sector, die, .I, data (send (cohOf s)), tag⟩) := by
  simp [requestStep, hw, hask, hmay, onCoh_eq_withCoh]

theorem requestStep_refuses (hw : waitingReq s kind die sector = none) (hmay : may s = false) :
    requestStep kind may send data tag die sector s = s := by
  simp [requestStep, hw, hmay]

end

section

variable {s : State} {die : Nat} (hd : die < 4) (sector : Nat)
include hd

theorem exec_rds : exec (.rds die sector) s = .next (requestStep .rds (fun s => lacks s die sector) id (fun _ => none)
    (askTag s die sector) die sector s) := by
  show execRds die sector s = _
  rw [execRds, Nat.mod_eq_of_lt hd]

theorem exec_rdx : exec (.rdx die sector) s = .next (requestStep .rdx (fun s => lacks s die sector) id (fun _ => none)
    (askTag s die sector) die sector s) := by
  show execRdx die sector s = _
  rw [execRdx, Nat.mod_eq_of_lt hd]

theorem exec_upg : exec (.upg die sector) s = .next (requestStep .upg
    (fun s => heldState s die sector == .S || heldState s die sector == .O) id (fun _ => none)
    ((cohOf s).tagAt die sector) die sector s) := by
  show execUpg die sector s = _
  rw [execUpg, Nat.mod_eq_of_lt hd]

theorem exec_wbk : exec (.wbk die sector) s = .next (requestStep .wbk
    (fun s => heldState s die sector == .M || heldState s die sector == .O) (Coh.buffer die sector)
    (fun c => some (sectorData c.mem sector)) ((cohOf s).tagAt die sector) die sector s) := by
  show execWbk die sector s = _
  rw [execWbk, Nat.mod_eq_of_lt hd]

theorem exec_evc : exec (.evc die sector) s = .next (requestStep .evc
    (fun s => die != homeDie sector && (lineSectors sector).all fun x =>
      heldState s die x != .M && heldState s die x != .O && !inBuffer s die x && !asking s die x)
    (Coh.clearLine die sector) (fun _ => none) 0 die sector s) := by
  show execEvc die sector s = _
  rw [execEvc, Nat.mod_eq_of_lt hd]

end

/-- R174: a die that lacks a sector, which it has mapped in a type that L2 allocates, may ask for it. -/
theorem lacks_eq_true {s : State} {die sector : Nat} (hI : heldState s die sector = .I) (hbuf : inBuffer s die sector = false)
    (hdirect : directMapped s sector = false)
    (hmap : mappedAs s (dieTlbs s die) (fun mt => decide (mt < 2)) sector = true) : lacks s die sector = true := by
  rw [lacks, hI, hbuf, hdirect, hmap]
  rfl

theorem lacks_eq_false {s : State} {sector : Nat} (die : Nat) (h : directMapped s sector = true ∨
    mappedAs s (dieTlbs s die) (fun mt => decide (mt < 2)) sector = false) : lacks s die sector = false := by
  rw [lacks]
  rcases h with h | h <;> rw [h] <;> simp

namespace Coh

variable (c : Coh)

/-- R175: a sector that a die gives back stands in its writeback buffers and no more in its L2. -/
theorem buffer_moves {die sector : Nat} (h : c.held die sector ≠ .I) :
    (c.buffer die sector).held die sector = .I ∧ ((c.buffer die sector).die die).wb.any (fun x => x.sector == sector) = true := by
  constructor
  · refine held_eq_I_of_absent _ ?_
    simp [buffer, setHeld]
  · have hx : ∃ x ∈ (c.die die).l2, x.sector = sector := by
      by_contra hno
      exact h (c.held_eq_I_of_absent fun x hx hsec => hno ⟨x, hx, hsec⟩)
    obtain ⟨x, hx, hsec⟩ := hx
    rw [buffer, die_modDie_self, List.any_eq_true]
    exact ⟨x, List.mem_append_right _ (List.mem_filter.mpr ⟨hx, beq_iff_eq.mpr hsec⟩), beq_iff_eq.mpr hsec⟩

theorem held_clearLine {die sector x : Nat} (h : x ∈ lineSectors sector) : (c.clearLine die sector).held die x = .I := by
  refine held_eq_I_of_absent _ fun y hy hyx => ?_
  rw [clearLine, die_modDie_self, List.mem_filter] at hy
  simp [hyx, hasNat_iff_mem.mpr h] at hy

end Coh

/-- A step by which a die sends a request of a kind about a sector, whose copies it has given back with WBK and dropped with
EVC. -/
def Sends (s : State) (die sector : Nat) (i : Instr) (kind : MsgKind) (tag : Nat) : Prop :=
  ∃ t, exec i s = .next t ∧
    t.msgs = s.msgs ++
      [⟨kind, sector, die, homeDie sector, die, .I, if kind = .wbk then some (sectorData s.mem sector) else none, tag⟩] ∧
    t = { s with msgs := t.msgs, dies := t.dies } ∧
    (kind = .rds ∨ kind = .rdx ∨ kind = .upg → t.dies = s.dies) ∧
    (kind = .wbk → heldState t die sector = .I ∧ inBuffer t die sector = true) ∧
    (kind = .evc → ∀ x ∈ lineSectors sector, heldState t die x = .I)

section

variable {s : State} {die sector : Nat}

/-- A request for a sector changes nothing at its die. -/
theorem sends_request {i : Instr} {kind : MsgKind} {tag : Nat} (hkind : kind = .rds ∨ kind = .rdx ∨ kind = .upg)
    (hi : exec i s = .next (withCoh s ((cohOf s).send ⟨kind, sector, die, homeDie sector, die, .I, none, tag⟩))) :
    Sends s die sector i kind tag := by
  have hwbk : kind ≠ .wbk := by rcases hkind with rfl | rfl | rfl <;> nofun
  have hevc : kind ≠ .evc := by rcases hkind with rfl | rfl | rfl <;> nofun
  exact ⟨_, hi, by rw [if_neg hwbk]; rfl, rfl, fun _ => rfl, fun h => absurd h hwbk, fun h => absurd h hevc⟩

variable (hd : die < 4) (hask : asking s die sector = false)
include hd hask

theorem sends_wbk (hw : waitingReq s .wbk die sector = none) (h : heldState s die sector = .M ∨ heldState s die sector = .O) :
    Sends s die sector (.wbk die sector) .wbk ((cohOf s).tagAt die sector) := by
  have hheld : (cohOf s).held die sector ≠ .I := by
    rcases h with h | h <;> exact fun hI => by cases h.symm.trans hI
  exact ⟨_, (exec_wbk hd sector).trans (congrArg _ (requestStep_sends hw hask (by simpa using h))), rfl, rfl, nofun,
    fun _ => (cohOf s).buffer_moves hheld, nofun⟩

theorem sends_evc (hw : waitingReq s .evc die sector = none) (hhome : die ≠ homeDie sector)
    (h : ∀ x ∈ lineSectors sector, heldState s die x ≠ .M ∧ heldState s die x ≠ .O ∧
      inBuffer s die x = false ∧ asking s die x = false) : Sends s die sector (.evc die sector) .evc 0 :=
  ⟨_, (exec_evc hd sector).trans (congrArg _ (requestStep_sends hw hask (by
    simpa using ⟨hhome, fun x hx => by simpa [and_assoc] using h x hx⟩))), rfl, rfl, nofun, nofun,
    fun _ _ hx => (cohOf s).held_clearLine hx⟩

end

/-- A step of the protocol after which the messages are those of a list and `p` holds. -/
def Does (s : State) (i : Instr) (l : List Msg) (p : State → Prop) : Prop :=
  ∃ t, exec i s = .next t ∧ t.msgs = l ∧ p t ∧ t = { s with msgs := t.msgs, dies := t.dies, chan := t.chan }

theorem does_of {s : State} {i : Instr} {u : Coh} {l : List Msg} {p : State → Prop} (hi : exec i s = .next (withCoh s u))
    (h : u.msgs = l ∧ p (withCoh s u)) : Does s i l p := ⟨_, hi, h.1, h.2, rfl⟩

/-- Settles O55: `requestStep_sends` for what a die sends, the law of each request at its home for what it takes up. -/
theorem coherenceRequests : Obligations.CoherenceRequests := by
  refine ⟨fun s die sector hd hask hsrc => ?_, fun s die sector own st m c hd => ?_⟩
  · have hnone (kind : MsgKind) : waitingReq s kind die sector = none :=
      List.find?_eq_none.mpr fun m hm => by
        simp only [Bool.and_eq_true, beq_iff_eq]
        exact fun ⟨⟨⟨_, hsec⟩, hdie⟩, _⟩ => hsrc m hm hsec hdie
    refine ⟨fun hI hbuf hdirect hmap => ?_, fun h => ?_, fun h => ?_, sends_wbk hd hask (hnone _), sends_evc hd hask (hnone _)⟩
    · have hlacks := lacks_eq_true hI hbuf hdirect hmap
      exact ⟨sends_request (.inl rfl) ((exec_rds hd sector).trans (congrArg _ (requestStep_sends (hnone _) hask hlacks))),
        sends_request (.inr (.inl rfl)) ((exec_rdx hd sector).trans (congrArg _ (requestStep_sends (hnone _) hask hlacks)))⟩
    · have hlacks := lacks_eq_false die h
      exact ⟨(exec_rds hd sector).trans (congrArg _ (requestStep_refuses (hnone _) hlacks)),
        (exec_rdx hd sector).trans (congrArg _ (requestStep_refuses (hnone _) hlacks))⟩
    · exact sends_request (.inr (.inr rfl))
        ((exec_upg hd sector).trans (congrArg _ (requestStep_sends (hnone _) hask (by simpa using h))))
  · intro home bytes left does becomes grants sins exclusive
    refine ⟨fun hentry hx => ?_, fun hc hx ha => ?_, fun ha hline hnodup => ?_⟩
    · obtain ⟨dies, rfl⟩ := Coh.entryFor_ready hentry
      have hexclusive {i : Instr} (hsec : m.sector = sector) (hdie : m.src = die)
          (hi : exec i s = .next (withCoh s (Coh.homeRdx { cohOf s with dies := dies } m))) : exclusive i := by
        subst hsec hdie
        have hshared (h : st = .S ∨ own = m.src) : Coh.ownedElsewhere (st, own) m.src = false :=
          decide_eq_false fun ho => h.elim ho.2.1 ho.2.2
        refine ⟨fun h => ?_, fun hS hsome => ?_, fun hI _ hown hsome => ?_, fun ho => ?_⟩
        · exact does_of hi (Coh.homeRdx_grants hx (h.imp_right fun ⟨ho, hnone⟩ => ⟨decide_eq_false ho, hnone⟩))
        · exact does_of hi (Coh.homeRdx_snoops hx (hS ▸ nofun) (hshared (.inl hS)) hsome)
        · exact does_of hi (Coh.homeRdx_snoops hx hI (hshared (.inr hown)) hsome)
        · exact does_of hi (Coh.homeRdx_forwards hx (decide_eq_true ho))
      refine ⟨fun ha => ?_, fun ha => ?_, fun ha => ?_⟩
      · obtain ⟨hk, rfl, rfl, -⟩ := waitingReq_fields ha.waits
        have hi := (exec_rds hd m.sector).trans (congrArg _ (requestStep_takes ha.waits (ha.rds hentry hk)))
        exact ⟨fun h => does_of hi (Coh.homeRds_exclusive hx h), fun h => does_of hi (Coh.homeRds_shared hx h),
          fun hI hS hown => does_of hi (Coh.homeRds_forwards hx hI hS hown)⟩
      · obtain ⟨hk, hsec, hdie, -⟩ := waitingReq_fields ha.waits
        refine hexclusive hsec hdie ?_
        subst hsec hdie
        exact (exec_rdx hd m.sector).trans (congrArg _ (requestStep_takes ha.waits (ha.rdx hentry hk)))
      · obtain ⟨hk, hsec, hdie, -⟩ := waitingReq_fields ha.waits
        have hi : exec (.upg die sector) s = .next (withCoh s (Coh.homeUpg { cohOf s with dies := dies } m)) := by
          subst hsec hdie
          exact (exec_upg hd m.sector).trans (congrArg _ (requestStep_takes ha.waits (ha.upg hentry hk)))
        refine ⟨fun hstill hnone => ?_, fun hstill hsome => ?_, fun hlost => hexclusive hsec hdie ?_⟩
        · subst hsec hdie
          exact does_of hi (Coh.homeUpg_done hstill hnone)
        · subst hsec hdie
          exact ⟨_, hi, Coh.homeUpg_snoops hstill hsome, rfl⟩
        · subst hsec hdie
          rw [hi, Coh.homeUpg_lost hlost]
    · obtain ⟨hk, rfl, rfl, -⟩ := waitingReq_fields ha.waits
      subst hc
      exact does_of ((exec_wbk hd m.sector).trans (congrArg _ (requestStep_takes ha.waits (ha.wbk hk)))) (Coh.homeWbk_sends hx)
    · obtain ⟨hk, rfl, rfl, -⟩ := waitingReq_fields ha.waits
      refine does_of ((exec_evc hd m.sector).trans (congrArg _ (requestStep_takes ha.waits (ha.evc hk hline))))
        ⟨rfl, fun e he => ?_⟩
      have hline' := Coh.line_homeEvc (c := cohOf s) (m := m) hnodup he
      exact ⟨fun hmask => hline'.trans (if_pos hmask), fun hmask => hline'.trans (if_neg hmask)⟩

end Sys2Proof.Machine
end

section
/-! SUPPORT. What the receiver of a snoop, of data or of a completion does with it (R138, R174, R175, R365). -/

namespace Sys2Proof.Machine

namespace Coh

variable (c : Coh) {m : Msg}

theorem ackOf_plain (hk : m.kind ≠ .sin) (held : SecState) :
    c.ackOf m held = ⟨.ack, m.sector, m.dst, homeDie m.sector, m.req, held, none, c.tagAt m.dst m.sector⟩ := by
  simp [ackOf, hk]

/-- R174: an owner that the home asks for a shared copy forwards its data and keeps S or O. -/
theorem onSfw_forwards (hk : m.kind ≠ .sin) {held : SecState} (hheld : c.snoopState m.dst m.sector = held)
    (h : held = .M ∨ held = .O ∨ held = .E) :
    (c.onSfw m).msgs = c.msgs.erase m ++
      [⟨.ack, m.sector, m.dst, homeDie m.sector, m.req, held, none, c.tagAt m.dst m.sector⟩,
        ⟨.dat, m.sector, m.dst, m.req, m.req, .S, some (sectorData c.mem m.sector), c.tagAt m.dst m.sector⟩] ∧
    (c.held m.dst m.sector ≠ .I → (c.onSfw m).held m.dst m.sector = if held = .E then .S else .O) := by
  have hdata : ¬(held = .I ∨ held = .S) := by rcases h with rfl | rfl | rfl <;> nofun
  simp only [onSfw, hheld, if_neg hdata, c.ackOf_plain hk, keep_msgs]
  exact ⟨List.append_assoc .., fun hne => held_keep _ (by exact hne) _⟩

/-- R174: an owner that the home asks for an exclusive copy forwards its data and keeps none. -/
theorem onSfx_forwards (hk : m.kind ≠ .sin) {held : SecState} (hheld : c.snoopState m.dst m.sector = held)
    (h : held = .M ∨ held = .O ∨ held = .E) :
    (c.onSfx m).msgs = c.msgs.erase m ++
      [⟨.ack, m.sector, m.dst, homeDie m.sector, m.req, held, none, c.tagAt m.dst m.sector⟩,
        ⟨.dat, m.sector, m.dst, m.req, m.req, .M, some (sectorData c.mem m.sector), c.tagAt m.dst m.sector⟩] ∧
    (c.onSfx m).held m.dst m.sector = .I := by
  have hdata : ¬(held = .I ∨ held = .S) := by rcases h with rfl | rfl | rfl <;> nofun
  simp only [onSfx, hheld, if_neg hdata, c.ackOf_plain hk]
  refine ⟨?_, held_keep_I ..⟩
  simp only [grant, send, keep_msgs, keep_mem]
  exact List.append_assoc ..

/-- R365: a holder drops its copy, and its acknowledgement carries the sector where it held it in M or O. -/
theorem onSin_drops (hk : m.kind = .sin) {held : SecState} (hheld : c.snoopState m.dst m.sector = held) :
    (c.onSin m).msgs = c.msgs.erase m ++ [⟨.ack, m.sector, m.dst, homeDie m.sector, m.req, held,
      if held = .M ∨ held = .O then some (sectorData c.mem m.sector) else none, c.tagAt m.dst m.sector⟩] ∧
    (c.onSin m).held m.dst m.sector = .I := by
  refine ⟨?_, held_keep_I ..⟩
  simp only [onSin, keep_msgs, hheld, ackOf, hk, true_and]
  rfl

/-- R175: a completion makes the holder that an upgrade has M; one of another state frees the sector's writeback buffers. -/
theorem onCmp_ends (m : Msg) : (c.onCmp m).msgs = c.msgs.erase m ∧
    (m.st = .M → c.held m.dst m.sector ≠ .I → (c.onCmp m).held m.dst m.sector = .M) ∧
    (m.st ≠ .M → ((c.onCmp m).die m.dst).wb.any (fun x => x.sector == m.sector) = false) := by
  by_cases hst : m.st = .M
  · simp only [onCmp, if_pos hst, setHeld_msgs]
    exact ⟨rfl, fun _ hne => held_setHeld _ (by exact hne) _, fun h => absurd hst h⟩
  · simp only [onCmp, if_neg hst]
    refine ⟨rfl, fun h => absurd h hst, fun _ => ?_⟩
    simp

end Coh

theorem findMsg_received {s : State} {kind : MsgKind} {sector die : Nat} {m : Msg}
    (h : findMsg s kind sector die false = some m) : m.kind = kind ∧ m.sector = sector ∧ m.dst = die := by
  simpa [and_assoc] using List.find?_some h

theorem findMsg_sent {s : State} {kind : MsgKind} {sector die : Nat} {m : Msg}
    (h : findMsg s kind sector die true = some m) : m.kind = kind ∧ m.sector = sector ∧ m.src = die := by
  simpa [and_assoc] using List.find?_some h

theorem deliverTo_delivers {s : State} {kind : MsgKind} {sector die : Nat} {from_ : Bool} {m : Msg} {u : Coh}
    (hm : findMsg s kind sector die from_ = some m) (hu : (cohOf s).deliver m = some u) :
    deliverTo kind sector die from_ s = withCoh s u := by
  simp only [deliverTo, hm, onCoh_eq_withCoh, hu, Option.getD_some]

section

variable {s : State} {die : Nat} (hd : die < 4) (sector : Nat)
include hd

theorem exec_sfw : exec (.sfw die sector) s = .next (deliverTo .sfw sector die false s) := by
  show execSfw die sector s = _
  rw [execSfw, Nat.mod_eq_of_lt hd]

theorem exec_sfx : exec (.sfx die sector) s = .next (deliverTo .sfx sector die false s) := by
  show execSfx die sector s = _
  rw [execSfx, Nat.mod_eq_of_lt hd]

theorem exec_sin : exec (.sin die sector) s = .next (deliverTo .sin sector die false s) := by
  show execSin die sector s = _
  rw [execSin, Nat.mod_eq_of_lt hd]

theorem exec_dat : exec (.dat die sector) s = .next (deliverTo .dat sector die false s) := by
  show execDat die sector s = _
  rw [execDat, Nat.mod_eq_of_lt hd]

theorem exec_cmp : exec (.cmp die sector) s = .next (deliverTo .cmp sector die false s) := by
  show execCmp die sector s = _
  rw [execCmp, Nat.mod_eq_of_lt hd]

theorem exec_ack : exec (.ack die sector) s = .next (deliverTo .ack sector die true s) := by
  show execAck die sector s = _
  rw [execAck, Nat.mod_eq_of_lt hd]

end

end Sys2Proof.Machine
end

section
/-! SUPPORT. What the home makes of an acknowledgement, by the request that it serves (R174, R176, R177). -/

namespace Sys2Proof.Machine

theorem find?_erase_of_false {α : Type} [BEq α] [LawfulBEq α] {p : α → Bool} {a : α} (h : p a = false) (l : List α) :
    (l.erase a).find? p = l.find? p := by
  induction l with
  | nil => rfl
  | cons x l ih =>
    rw [List.erase_cons]
    split
    · rename_i hxa
      rw [List.find?_cons_of_neg (by simp [beq_iff_eq.mp hxa, h])]
    · simp only [List.find?_cons, ih]

theorem served_self (l : List Msg) (m : Msg) : served_ l m m.st = l := by
  have hid : (fun x => if x = m then { m with st := m.st } else x) = id := by
    funext x
    split
    · exact Eq.symm ‹_›
    · rfl
  rw [served_, hid, List.map_id]

namespace Coh

/-- R172: the home knows a sector's state by its entry, by its own tags and by data that are on their way. -/
theorem dirState_take (c : Coh) {m : Msg} (hdat : m.kind ≠ .dat) (hcmp : m.kind ≠ .cmp) (sector : Nat) :
    (c.take m).dirState sector = c.dirState sector := by
  have hown : (c.take m).ownState sector = c.ownState sector := by
    simp only [ownState, take]
    rw [find?_erase_of_false (by simp [hdat, hcmp])]
    rfl
  simp only [dirState, hown]
  rfl

/-- The request that an acknowledgement answers, of those that the home serves. -/
def answeredRequest (c : Coh) (a : Msg) : Option Msg :=
  (c.msgs.erase a).find? fun m => m.sector == a.sector && m.src == a.req && m.st != .I &&
    (m.kind == .rds || m.kind == .rdx || m.kind == .upg)

section

variable {c : Coh} {a r : Msg}

theorem onAck_unanswering (h : c.answeredRequest a = none) : c.onAck a = c.take a := by
  have hfind : (c.take a).msgs.find? _ = none := h
  simp only [onAck, hfind]

variable (hr : c.answeredRequest a = some r)
include hr

theorem answeredRequest_fields : r.sector = a.sector ∧ r.kind ≠ .dat ∧ r.kind ≠ .cmp := by
  have h := List.find?_some hr
  simp only [Bool.and_eq_true, Bool.or_eq_true, beq_iff_eq] at h
  obtain ⟨⟨⟨hsec, -⟩, -⟩, hkind⟩ := h
  refine ⟨hsec, ?_, ?_⟩ <;> rcases hkind with (hkind | hkind) | hkind <;> simp [hkind]

/-- An RDS that was forwarded ends by what the owner held. -/
theorem onAck_rds (hk : r.kind = .rds) : c.onAck a = (c.take a).finishShared r a.st := by
  have hfind : (c.take a).msgs.find? _ = some r := hr
  simp only [onAck, hfind, if_pos hk]

/-- An exclusive request ends with its last acknowledgement; `r1` is what the home knows of it since this one. -/
theorem onAck_exclusive (hk : r.kind ≠ .rds) {r1 : Msg}
    (hr1 : r1 = if r.st = .O ∧ ((c.take a).dirState a.sector).2 = a.src ∧ a.st = .I then { r with st := .S } else r) :
    c.onAck a = if ((c.take a).serve r r1.st).snooping a.sector then (c.take a).serve r r1.st
      else ((c.take a).serve r r1.st).finishExclusive r1 := by
  have hfind : (c.take a).msgs.find? _ = some r := hr
  have hself : (c.take a).serve r r.st = c.take a := congrArg (fun l => { c.take a with msgs := l }) (served_self ..)
  simp only [onAck, hfind, if_neg hk]
  by_cases hlost : r.st = .O ∧ ((c.take a).dirState a.sector).2 = a.src ∧ a.st = .I
  · rw [if_pos hlost] at hr1
    subst hr1
    simp [hlost]
  · rw [if_neg hlost] at hr1
    subst hr1
    simp [hlost, hself, and_assoc]

end

theorem finishShared_unowned {c : Coh} {m : Msg} {held : SecState} (h : held = .I ∨ held = .S) :
    c.finishShared m held = c.granted m .E (.E, m.src) := if_pos h

theorem finishShared_clean {c : Coh} {m : Msg} {held : SecState} (h : held = .E) :
    c.finishShared m held = (c.take m).setDir m.sector (.S, 0) m.src := by
  subst h
  rfl

theorem finishShared_dirty {c : Coh} {m : Msg} {held : SecState} (h : held = .M ∨ held = .O) :
    c.finishShared m held = (c.take m).setDir m.sector (.O, ((c.take m).dirState m.sector).2) m.src := by
  rcases h with rfl | rfl <;> rfl

theorem finishExclusive_ends {c u : Coh} (hd : u.dies = c.dies) (m : Msg) :
    (u.finishExclusive m).msgs = u.msgs.erase m ++
      (if m.kind = .upg ∧ m.st = .E then [⟨.cmp, m.sector, homeDie m.sector, m.src, m.src, .M, none, 0⟩]
      else if m.st = .S then [⟨.dat, m.sector, homeDie m.sector, m.src, m.src, .M, some (sectorData u.mem m.sector), m.tag⟩]
      else []) ∧
    EntryBecomes c (u.finishExclusive m) m.src m.sector (.M, m.src) := by
  have hentry : EntryBecomes c ((u.take m).setDir m.sector (.M, m.src) m.src) m.src m.sector (.M, m.src) := .setDir hd
  unfold finishExclusive
  dsimp only
  split
  · exact ⟨rfl, hentry.congr rfl⟩
  · split
    · obtain ⟨hmsgs, hdies⟩ := ((u.take m).setDir m.sector (.M, m.src) m.src).supply_sends m .M
      exact ⟨hmsgs, hentry.congr hdies⟩
    · exact ⟨(List.append_nil _).symm, hentry⟩

end Coh

end Sys2Proof.Machine
end

section
/-! SUPPORT. A recall runs its snoops and their acknowledgements to their end, and leaves no copy (R148, R176). -/

namespace Sys2Proof.Machine

namespace Coh

theorem settle_quiet {c : Coh} (h : c.msgs = []) (p : Coh → Msg → Bool) (n : Nat) : settle p n c = c := by
  cases n with
  | zero => rfl
  | succ n => simp [settle, h]

theorem settle_head {c u : Coh} {m : Msg} {rest : List Msg} {p : Coh → Msg → Bool} (hmsgs : c.msgs = m :: rest)
    (hp : p c m = true) (hu : c.deliver m = some u) (n : Nat) : settle p (n + 1) c = settle p n u := by
  simp [settle, hmsgs, hp, hu]

theorem finishAll_of_settled {c : Coh} {sector : Nat}
    (h : (settle (fun c m => c.concerns sector m) 400 c).msgs = []) :
    c.finishAll sector = settle (fun c m => c.concerns sector m) 400 c := by
  simp [finishAll, h]

/-- Whether a die holds no copy of a sector. -/
def Without (c : Coh) (d sector : Nat) : Prop := c.held d sector = .I ∧ c.buffered d sector = .I

theorem Without.congr {c u : Coh} {d sector : Nat} (h : c.Without d sector) (hl2 : (u.die d).l2 = (c.die d).l2)
    (hwb : (u.die d).wb = (c.die d).wb) : u.Without d sector :=
  ⟨(held_congr hl2 sector).trans h.1, (buffered_congr hwb sector).trans h.2⟩

theorem without_iff_snoopState {c : Coh} {d sector : Nat} : c.Without d sector ↔ c.snoopState d sector = .I := by
  unfold snoopState
  split
  · exact and_iff_right ‹_›
  · exact iff_of_false (fun h => absurd h.1 ‹_›) ‹_›

/-- While a sector is recalled: no message but its snoops and their answers, and a snoop on its way to each die with a copy, which
the die has in its L2 or in its writeback buffers. -/
structure Recalling (c : Coh) (sector : Nat) : Prop where
  only : ∀ m ∈ c.msgs, (m.kind = .sin ∨ m.kind = .ack) ∧ m.sector = sector
  once : ∀ d, c.held d sector = .I ∨ c.buffered d sector = .I
  asked : ∀ d < 4, c.Without d sector ∨ ∃ m ∈ c.msgs, m.kind = .sin ∧ m.dst = d

/-- The deliveries that snoops and acknowledgements still make: each snoop makes an acknowledgement. -/
def deliveriesDue (l : List Msg) : Nat := (l.map fun m => if m.kind = .sin then 2 else 1).sum

namespace Recalling

variable {c : Coh} {sector : Nat} {m : Msg} {rest : List Msg} (h : Recalling c sector) (hmsgs : c.msgs = m :: rest)
include h hmsgs

theorem onSin (hk : m.kind = .sin) :
    Recalling (c.onSin m) sector ∧ deliveriesDue (c.onSin m).msgs + 1 = deliveriesDue c.msgs := by
  have hsec : m.sector = sector := (h.only m (hmsgs ▸ List.mem_cons_self)).2
  have hsent : (c.onSin m).msgs = rest ++ [c.ackOf m (c.snoopState m.dst m.sector)] := by
    simp [Coh.onSin, take, send, hmsgs]
  have hdie {d : Nat} (hd : d ≠ m.dst) : (c.onSin m).die d = c.die d := die_keep_ne _ hd m.sector .I
  have hgone : (c.onSin m).Without m.dst sector := hsec ▸ ⟨held_keep_I .., buffered_keep_I _ (hsec ▸ h.once m.dst)⟩
  refine ⟨⟨fun x hx => ?_, fun d => ?_, fun d hd => ?_⟩, ?_⟩
  · rw [hsent, List.mem_append, List.mem_singleton] at hx
    rcases hx with hx | rfl
    · exact h.only x (hmsgs ▸ List.mem_cons_of_mem _ hx)
    · exact ⟨.inr rfl, hsec⟩
  · by_cases hd : d = m.dst
    · exact .inl (hd ▸ hgone.1)
    · rw [held_congr (congrArg Die.l2 (hdie hd)), buffered_congr (congrArg Die.wb (hdie hd))]
      exact h.once d
  · by_cases hdst : d = m.dst
    · exact .inl (hdst ▸ hgone)
    · refine (h.asked d hd).imp (·.congr (by rw [hdie hdst]) (by rw [hdie hdst]))
        fun ⟨x, hx, hxk, hxd⟩ => ⟨x, ?_, hxk, hxd⟩
      rw [hsent]
      refine List.mem_append_left _ ((List.mem_cons.mp (hmsgs ▸ hx)).resolve_left ?_)
      rintro rfl
      exact hdst hxd.symm
  · simp +arith [deliveriesDue, hsent, hmsgs, hk, ackOf]

theorem onAck (hk : m.kind = .ack) :
    Recalling (c.onAck m) sector ∧ deliveriesDue (c.onAck m).msgs + 1 = deliveriesDue c.msgs := by
  have hleft : (c.take m).msgs = rest := by simp [take, hmsgs]
  have hnone : c.answeredRequest m = none := List.find?_eq_none.mpr fun x hx => by
    obtain ⟨hx, -⟩ := h.only x (List.mem_of_mem_erase hx)
    rcases hx with hx | hx <;> simp [hx]
  rw [onAck_unanswering hnone]
  refine ⟨⟨fun x hx => h.only x (List.mem_of_mem_erase hx), h.once, fun d hd => ?_⟩, ?_⟩
  · refine (h.asked d hd).imp_right fun ⟨x, hx, hxk, hxd⟩ => ⟨x, ?_, hxk, hxd⟩
    rw [hleft]
    refine (List.mem_cons.mp (hmsgs ▸ hx)).resolve_left ?_
    rintro rfl
    cases hk.symm.trans hxk
  · simp +arith [deliveriesDue, hleft, hmsgs, hk]

omit hmsgs

/-- The recall comes to its end: no message is left, and with that no copy. -/
theorem settles {n : Nat} (hn : deliveriesDue c.msgs ≤ n) :
    (settle (fun c m => c.concerns sector m) n c).msgs = [] ∧
      ∀ d < 4, (settle (fun c m => c.concerns sector m) n c).Without d sector := by
  induction n generalizing c with
  | zero =>
    cases hmsgs : c.msgs with
    | nil => exact ⟨hmsgs, fun d hd => (h.asked d hd).resolve_right (by simp [hmsgs])⟩
    | cons m rest =>
      rw [hmsgs] at hn
      simp only [deliveriesDue, List.map_cons, List.sum_cons] at hn
      split at hn <;> omega
  | succ n ih =>
    cases hmsgs : c.msgs with
    | nil =>
      rw [settle_quiet hmsgs]
      exact ⟨hmsgs, fun d hd => (h.asked d hd).resolve_right (by simp [hmsgs])⟩
    | cons m rest =>
      obtain ⟨hkind, hsec⟩ := h.only m (hmsgs ▸ List.mem_cons_self)
      have hconcerns : c.concerns sector m = true := by simp [concerns, hsec]
      rcases hkind with hk | hk
      · obtain ⟨h', hdue⟩ := h.onSin hmsgs hk
        rw [settle_head hmsgs hconcerns (by simp only [deliver, hk]; rfl)]
        exact ih h' (by omega)
      · obtain ⟨h', hdue⟩ := h.onAck hmsgs hk
        rw [settle_head hmsgs hconcerns (by simp only [deliver, hk]; rfl)]
        exact ih h' (by omega)

end Recalling

theorem holders_lt {c : Coh} {sector d : Nat} (h : d ∈ c.holders sector) : d < 4 := by
  unfold holders at h
  exact List.mem_range.mp (List.mem_of_mem_filter h)

theorem deliveriesDue_sinsTo (sector req : Nat) (l : List Nat) : deliveriesDue (sinsTo sector req l) = 2 * l.length := by
  simp [deliveriesDue, sinsTo, Function.comp_def, mul_comm]

theorem setDir_keeps (c : Coh) (sector : Nat) (x : SecState × Nat) (die d : Nat) :
    ((c.setDir sector x die).die d).l2 = (c.die d).l2 ∧ ((c.setDir sector x die).die d).wb = (c.die d).wb := by
  by_cases hd : d = homeDie sector
  · subst hd
    rw [setDir, die_modDie_self]
    split <;> exact ⟨rfl, rfl⟩
  · rw [setDir, die_modDie_ne _ _ hd]
    exact ⟨rfl, rfl⟩

/-- The home has sent a SIN to each die that it knows to hold a sector, and every die that holds it is among them. -/
theorem recalling_of_snooped {c : Coh} {sector : Nat}
    (honce : ∀ d, c.held d sector = .I ∨ c.buffered d sector = .I)
    (hknown : ∀ d < 4, c.snoopState d sector ≠ .I → hasNat (c.holders sector) d = true) :
    Recalling { c with msgs := sinsTo sector 4 (c.holders sector) } sector where
  only m hm := by
    obtain ⟨d, -, rfl⟩ := List.mem_map.mp hm
    exact ⟨.inl rfl, rfl⟩
  once := honce
  asked d hd := by
    by_cases hI : c.snoopState d sector = .I
    · exact .inl (without_iff_snoopState.mpr hI)
    · exact .inr ⟨_, List.mem_map.mpr ⟨d, hasNat_iff_mem.mp (hknown d hd hI), rfl⟩, rfl, rfl⟩

/-- R148, R176: where the home knows each die that holds a sector, its recall leaves no copy. -/
theorem recall_leaves_none {c : Coh} {sector : Nat} (hquiet : c.msgs = [])
    (honce : ∀ d, c.held d sector = .I ∨ c.buffered d sector = .I)
    (hknown : ∀ d < 4, c.snoopState d sector ≠ .I → hasNat (c.holders sector) d = true) :
    ∀ d < 4, (c.recall sector).Without d sector := by
  have hquiet' : (c.pass sector).msgs = [] := hquiet
  have hbegin : (c.pass sector).finishAll sector = c.pass sector := by
    have hsettle := settle_quiet hquiet' (fun c m => c.concerns sector m) 400
    rw [finishAll_of_settled (hsettle.symm ▸ hquiet'), hsettle]
  have hrecalling := recalling_of_snooped (c := c.pass sector) honce hknown
  have hdue : deliveriesDue (sinsTo sector 4 ((c.pass sector).holders sector)) ≤ 400 := by
    have hlen : ((c.pass sector).holders sector).length ≤ 4 := List.length_filter_le ..
    rw [deliveriesDue_sinsTo]
    omega
  obtain ⟨hended, hnone⟩ := hrecalling.settles hdue
  intro d hd
  unfold Coh.recall
  dsimp only
  rw [hbegin, foldl_snoop _ _ fun _ hd => (holders_lt hd).ne, hquiet', List.nil_append, finishAll_of_settled hended]
  split
  · exact hnone d hd
  · exact (hnone d hd).congr (setDir_keeps ..).1 (setDir_keeps ..).2

end Coh

end Sys2Proof.Machine
end

section
/-! PROOFS. What the receiver of a message does with it, and what a recall leaves (R148, R174 to R176, R365). -/

namespace Sys2Proof.Machine

/-- A step of the protocol after which `p` holds. -/
theorem receives_of {s : State} {i : Instr} {u : Coh} {p : State → Prop} (hi : exec i s = .next (withCoh s u))
    (h : p (withCoh s u)) : ∃ t, exec i s = .next t ∧ t = { s with msgs := t.msgs, dies := t.dies, chan := t.chan } ∧ p t :=
  ⟨_, hi, rfl, h⟩

section

variable {s : State} {die sector : Nat} (hd : die < 4)
include hd

theorem exec_ack_answers {a : Msg} (ha : findMsg s .ack sector die true = some a) :
    exec (.ack die sector) s = .next (withCoh s ((cohOf s).onAck a)) := by
  obtain ⟨hk, -, -⟩ := findMsg_sent ha
  exact (exec_ack hd sector).trans (congrArg _ (deliverTo_delivers ha (by simp only [Coh.deliver, hk])))

/-- R174: the last acknowledgement ends an exclusive request that the home serves; `r1` is what the home knows of it since this
one, and `now` what messages there are. -/
theorem ack_exclusive {a r r1 : Msg} {now : List Msg} {x : SecState × Nat} (ha : findMsg s .ack sector die true = some a)
    (hr : (cohOf s).answeredRequest a = some r) (hx : (cohOf s).dirState sector = x) (hk : r.kind ≠ .rds)
    (hr1 : r1 = if r.st = .O ∧ x.2 = die ∧ a.st = .I then { r with st := .S } else r)
    (hnow : now = served_ (s.msgs.erase a) r r1.st) :
    let more := now.any fun m => m.sector == sector && (m.kind == .sin || m.kind == .sfx || m.kind == .sfw || m.kind == .ack)
    let home := homeDie sector
    (more = true → Does s (.ack die sector) now fun t => t.dies = s.dies) ∧
    (more = false → Does s (.ack die sector) (now.erase r1 ++
        if r.kind = .upg ∧ r1.st = .E then [⟨.cmp, sector, home, r.src, r.src, .M, none, 0⟩]
        else if r1.st = .S then [⟨.dat, sector, home, r.src, r.src, .M, some (sectorData s.mem sector), r.tag⟩]
        else [])
      fun t => EntryBecomes (cohOf s) (cohOf t) r.src sector (.M, r.src)) := by
  obtain ⟨hak, hsec, rfl⟩ := findMsg_sent ha
  obtain rfl : r.sector = sector := (Coh.answeredRequest_fields hr).1.trans hsec
  have htake : ((cohOf s).take a).dirState a.sector = x := by
    rw [hsec, Coh.dirState_take _ (by simp [hak]) (by simp [hak]), hx]
  have hack := Coh.onAck_exclusive hr hk (htake.symm ▸ hr1)
  rw [hsec] at hack
  have hi := exec_ack_answers hd ha
  obtain ⟨st1, rfl⟩ : ∃ st1, r1 = { r with st := st1 } := by
    rw [hr1]
    split
    · exact ⟨.S, rfl⟩
    · exact ⟨r.st, rfl⟩
  subst hnow
  refine ⟨fun hmore => ?_, fun hmore => ?_⟩
  · rw [if_pos (by exact hmore)] at hack
    exact does_of (hack ▸ hi) ⟨rfl, rfl⟩
  · rw [if_neg (by exact Bool.eq_false_iff.mp hmore)] at hack
    exact does_of (hack ▸ hi) (Coh.finishExclusive_ends rfl { r with st := st1 })

end

/-- Settles O56: the law of each message at its receiver, `onAck_rds` and `ack_exclusive` at the home, `recall_leaves_none`. -/
theorem coherenceAnswers : Obligations.CoherenceAnswers := by
  refine ⟨fun s die sector m hd => ?_, fun s die sector own st a r hd ha => ?_, fun c sector hquiet honce hknown =>
    Coh.recall_leaves_none hquiet honce hknown⟩
  · intro held home only bytes tag left
    refine ⟨fun hm h => ?_, fun hm h => ?_, fun hm => ?_, fun hm hroom hvalid => ?_, fun hm => ?_⟩
    all_goals
      obtain ⟨hk, rfl, rfl⟩ := findMsg_received hm
    · have hi := (exec_sfw hd m.sector).trans (congrArg _ (deliverTo_delivers hm (by simp only [Coh.deliver, hk]; rfl)))
      exact receives_of hi (Coh.onSfw_forwards _ (by simp [hk]) rfl h)
    · have hi := (exec_sfx hd m.sector).trans (congrArg _ (deliverTo_delivers hm (by simp only [Coh.deliver, hk]; rfl)))
      exact receives_of hi (Coh.onSfx_forwards _ (by simp [hk]) rfl h)
    · have hi := (exec_sin hd m.sector).trans (congrArg _ (deliverTo_delivers hm (by simp only [Coh.deliver, hk]; rfl)))
      exact receives_of hi (Coh.onSin_drops _ hk rfl).symm
    · have hi := (exec_dat hd m.sector).trans
        (congrArg _ (deliverTo_delivers hm (by simp only [Coh.deliver, hk, hroom, if_true]; rfl)))
      obtain ⟨more, hmore⟩ := ((cohOf s).take m).takeIn_msgs m.dst m.sector m.st m.tag
      exact ⟨_, more, hi, rfl, hmore.symm, Coh.held_takeIn ((cohOf s).take m) hvalid ..⟩
    · have hi := (exec_cmp hd m.sector).trans (congrArg _ (deliverTo_delivers hm (by simp only [Coh.deliver, hk]; rfl)))
      obtain ⟨hmsgs, hrest⟩ := (cohOf s).onCmp_ends m
      exact ⟨_, [], hi, rfl, hmsgs.trans (List.append_nil _).symm, hrest⟩
  · intro c home bytes left request does data becomes
    have hi := exec_ack_answers hd ha
    have hrequest : request = (cohOf s).answeredRequest a := rfl
    rw [hrequest]
    refine ⟨fun hnone => ?_, fun hr hx => ⟨fun hk => ?_, fun hk => ?_⟩⟩
    · exact does_of (Coh.onAck_unanswering hnone ▸ hi) ⟨rfl, rfl⟩
    · obtain ⟨hak, hsec, -⟩ := findMsg_sent ha
      obtain ⟨hrsec, hdat, hcmp⟩ := Coh.answeredRequest_fields hr
      have hrs : r.sector = sector := hrsec.trans hsec
      have hx' : (((cohOf s).take a).take r).dirState r.sector = (st, own) := by
        rw [hrs, Coh.dirState_take _ hdat hcmp, Coh.dirState_take _ (by simp [hak]) (by simp [hak])]
        exact hx
      rw [Coh.onAck_rds hr hk] at hi
      subst hrs
      refine ⟨fun h => does_of hi ?_, fun h => does_of hi ?_, fun h => does_of hi ?_⟩
      · rw [Coh.finishShared_unowned h]
        exact ((cohOf s).take a).granted_sends r .E (.E, r.src)
      · rw [Coh.finishShared_clean h]
        exact ⟨rfl, .setDir rfl⟩
      · rw [Coh.finishShared_dirty h, hx']
        exact ⟨rfl, .setDir rfl⟩
    · intro lost r1 now more
      exact ack_exclusive hd ha hr hx hk rfl rfl

end Sys2Proof.Machine
end

section
/-! SUPPORT. Handles (R183 to R186): a block with a handle left has a free number, an instruction of 4 bytes that writes no vector
register retires, and what observing a command leaves of the device. -/

namespace Sys2Proof.Machine

/-- R185: a block that holds fewer than 256 commands has a number that none of them has. -/
theorem freeNum_free {b : Block} (h : b.cmds.length < 256) : freeNum b < 256 ∧ ∀ k ∈ b.cmds, k.num ≠ freeNum b := by
  cases hf : (List.range 256).find? fun n => !b.cmds.any fun k => k.num == n with
  | some n =>
    have hn : freeNum b = n := by rw [freeNum, hf]; rfl
    have hfree := List.find?_some hf
    rw [hn]
    exact ⟨List.mem_range.mp (List.mem_of_find?_eq_some hf), by simpa using hfree⟩
  | none =>
    have hused : List.range 256 ⊆ b.cmds.map (·.num) := fun n hn => by
      simpa using List.find?_eq_none.mp hf n hn
    have hlen := (List.subperm_of_subset List.nodup_range hused).length_le
    simp only [List.length_range, List.length_map] at hlen
    omega

/-- An instruction of 4 bytes that neither jumps nor prefixes nor releases, without a fixed latency and a trap of its own. -/
structure PlainShort (inf : Info) : Prop where
  size : inf.size = 4
  marks : inf.marks = []
  jumps : inf.jumps = false
  imx : inf.imx = none
  latency : inf.latency = 0
  first : inf.first = none

/-- R211, R13: a plain instruction of 4 bytes that nothing stands in the way of, and whose body changes of the group no more than
registers of its context, retires. -/
theorem issue_short {s u : State} (h : Quiet s) (hp : s.ctx.prefixes = []) {i : Instr} {inf : Info}
    {body : Ctx → State → Except Halt State} {c : Ctx} (hi : PlainShort inf) (hl : inf.ill = false)
    (hr : regsOk s inf = true) (hb : body s.ctx s = .ok u) (hg : u.g = { s.g with ctx := c }) (hpc : c.pc = s.ctx.pc)
    (hpend : c.pend = s.ctx.pend) :
    ∃ t, issue i inf body s = .next t ∧ t.ctx = stepped 4 [] s.ctx c ∧
      t = { u with g := { u.g with ctx := t.g.ctx, pmc := t.g.pmc, arriving := t.g.arriving } } := by
  have hctx : u.ctx = c := congrArg Group.ctx hg
  obtain ⟨t, ht, htctx, hframe⟩ := finish_retired (s := s) (owns := s.g.fown) h i inf (show OnlyMode s.g u.g by rw [hg]; rfl)
  refine ⟨t, ?_, ?_, hframe⟩
  · rw [issue_body h i inf body (.inr hp) hl hr hi.first, hb]
    exact ht
  · rw [htctx, hctx]
    exact retireCtx_stepped hi.marks hi.jumps hi.imx hi.latency hi.size hpc (hpend.trans h.covered)

end Sys2Proof.Machine
end

section
/-! PROOFS. WAITH, TESTH and CANCH (R185, R186, R283). -/

namespace Sys2Proof.Machine

/-- R186: what the three instructions may change beside the context of their group: the commands of its block, of its core's L1 all,
and what the group has seen of engine writes. -/
structure Observing (s u : State) (cmds : List Cmd) (dropped : Bool) : Prop where
  g : u.g = s.g
  mem : u.mem = s.mem
  dies : u.dies = s.dies
  parts : u.parts = s.parts
  blk : u.blk = { s.blk with cmds := cmds }
  l1 : dropped = true → (getCore u s.blk.core).l1 = []
  cores : dropped = false → u.cores = s.cores

section

variable {s : State} {h mask : BitVec 6} {c : BitVec 3} {b : Block} {k : Cmd}

theorem Observing.refl (s : State) : Observing s s s.blk.cmds false :=
  ⟨rfl, rfl, rfl, rfl, rfl, fun h => absurd h Bool.false_ne_true, fun _ => rfl⟩

theorem dropL1_l1 (s : State) (core : Nat) : (getCore (dropL1 s core) core).l1 = [] :=
  congrArg Core.l1 (getCore_modCore_self s core _)

/-- R167: the observation of a stale handle. -/
theorem seeOld_observing (s : State) (x : SWord) : Observing s (dropL1 (seeOld s x) s.blk.core) s.blk.cmds true :=
  ⟨rfl, rfl, rfl, rfl, rfl, fun _ => dropL1_l1 _ _, fun h => absurd h.symm Bool.false_ne_true⟩

theorem seeCmd_eq (s : State) (b : Block) (k : Cmd) : seeCmd s b k = { s with loose := (seeCmd s b k).loose } := by
  unfold seeCmd
  dsimp only
  split_ifs <;> rfl

/-- R185: the commands of the block in focus once its group has observed a final command. -/
def leftAfter (s : State) (b : Block) (k : Cmd) : List Cmd :=
  if b.uid = s.blk.uid ∧ k.slot = s.g.slot then s.blk.cmds.filter fun y => y.num != k.num else s.blk.cmds

/-- R167, R185: the observation of a final command. -/
theorem observe_observing (s : State) (b : Block) (k : Cmd) : Observing s (observe s b k) (leftAfter s b k) true := by
  have hseen : Observing s (dropL1 (seeCmd s b k) s.blk.core) s.blk.cmds true := by
    rw [seeCmd_eq]
    exact ⟨rfl, rfl, rfl, rfl, rfl, fun _ => dropL1_l1 _ _, fun h => absurd h.symm Bool.false_ne_true⟩
  unfold observe leftAfter
  dsimp only
  split
  next hown =>
    have hblk : (dropCmd (dropL1 (seeCmd s b k) s.blk.core) b.uid k.num).blk =
        { s.blk with cmds := s.blk.cmds.filter fun y => y.num != k.num } := by
      show (if (dropL1 (seeCmd s b k) s.blk.core).blk.uid == b.uid then _ else _) = _
      rw [hseen.blk, if_pos (beq_iff_eq.mpr hown.1.symm)]
    exact ⟨hseen.g, hseen.mem, hseen.dies, hseen.parts, hblk, hseen.l1, hseen.cores⟩
  next => exact hseen

/-- R186: a pending command of the block in focus is asked to stop. -/
theorem canchCmd_observing (hk : k.state = .pending) (hb : b.uid = s.blk.uid) : Observing s (canchCmd s b k)
    (s.blk.cmds.map fun y => if y.num = k.num then { y with cancelReq := true } else y) false := by
  have hblk : (canchCmd s b k).blk = { s.blk with
      cmds := s.blk.cmds.map fun y => if y.num = k.num then { y with cancelReq := true } else y } := by
    rw [canchCmd, if_pos hk]
    show (if s.blk.uid == b.uid then _ else s.blk) = _
    rw [if_pos (beq_iff_eq.mpr hb.symm)]
    simp only [beq_iff_eq]
  refine ⟨?_, ?_, ?_, ?_, hblk, fun h => absurd h Bool.false_ne_true, fun _ => ?_⟩
  all_goals
    rw [canchCmd, if_pos hk]
    rfl

/-- R186: a CANCH of a command that is already final does nothing. -/
theorem canchCmd_final (hf : k.isFinal = true) : canchCmd s b k = s := by
  have hne (st : CmdState) (hst : (st == .done || st == .cancelled || st == .rejected) = false) : k.state ≠ st := by
    rintro rfl
    exact absurd (hf.symm.trans hst) (by decide)
  rw [canchCmd, if_neg (hne .pending rfl), if_neg (hne .faultedRetry rfl)]

/-- What issue needs of WAITH, TESTH and CANCH. -/
def handleInfo (s : State) (h : BitVec 6) (writes : List (RegClass × Nat)) : Info :=
  { size := 4, reads := [(.scalar, h.toNat)], writes := writes, closes := true, ill := handleIll s h }

theorem exec_waith (h : BitVec 6) (s : State) : exec (.waith h) s = issue (.waith h) (handleInfo s h []) (waithBody h) s := rfl

theorem exec_testh (c : BitVec 3) (mask h : BitVec 6) (s : State) : exec (.testh c mask h) s =
    issue (.testh c mask h) (handleInfo s h [(.condition, c.toNat)]) (testhBody c mask h) s := rfl

theorem exec_canch (h : BitVec 6) (s : State) : exec (.canch h) s = issue (.canch h) (handleInfo s h []) (canchBody h) s := rfl

theorem handleInfo_plain (s : State) (h : BitVec 6) (writes : List (RegClass × Nat)) : PlainShort (handleInfo s h writes) :=
  ⟨rfl, rfl, rfl, rfl, rfl, rfl⟩

/-- R186: the end of one of the three instructions, with a context, the commands of the block and whether the L1 is dropped. -/
def HandleEnds (s : State) (o : Host.Outcome State Fault Refusal) (ctx : Ctx) (cmds : List Cmd) (dropped : Bool) : Prop :=
  ∃ t, o = .next t ∧ t.ctx = stepped 4 [] s.ctx ctx ∧ t.mem = s.mem ∧ t.dies = s.dies ∧ t.parts = s.parts ∧
    t.blk = { s.blk with cmds := cmds } ∧ (dropped = true → (getCore t s.blk.core).l1 = []) ∧
    (dropped = false → t.cores = s.cores)

variable (hq : Quiet s) (hp : s.ctx.prefixes = []) (h0 : h ≠ 0)
  (hx : badHandle (spanSize s.blk) (s.ctx.readS h.toNat) = false)

include h0 hx in
theorem handleInfo_legal (writes : List (RegClass × Nat)) : (handleInfo s h writes).ill = false := by
  show (h == 0 || (statusChk s.ctx.status && _)) = false
  rw [hx, Bool.and_false, Bool.or_false]
  exact beq_false_of_ne h0

include hx in
theorem waithBody_stale (hk : handleCmd s (s.ctx.readS h.toNat) = none) :
    waithBody h s.ctx s = .ok (dropL1 (seeOld s (s.ctx.readS h.toNat)) s.blk.core) := by
  simp [waithBody, hx, hk]

include hx in
theorem waithBody_live (hk : handleCmd s (s.ctx.readS h.toNat) = some (b, k)) : waithBody h s.ctx s =
    if k.isFinal then
      match waithTrap k with
      | none => .ok (observe s b k)
      | some t => .error (.stay (takeTrap (issued (observe s b k)) t (fullLen s.ctx 4) none))
    else .error (.wait (.handle b.uid k.num k.gen)) := by
  simp [waithBody, hx, hk] <;> rfl

include hx in
theorem testhBody_stale (hk : handleCmd s (s.ctx.readS h.toNat) = none) : testhBody c mask h s.ctx s =
    .ok (modCtx (dropL1 (seeOld s (s.ctx.readS h.toNat)) s.blk.core) fun x => x.writeC c.toNat (mask.getLsbD 5)) := by
  simp [testhBody, hx, hk, maskBit]

include hx in
theorem testhBody_live (hk : handleCmd s (s.ctx.readS h.toNat) = some (b, k)) : testhBody c mask h s.ctx s =
    .ok (modCtx (if k.isFinal then observe s b k else s) fun x => x.writeC c.toNat (mask.getLsbD (stateBit k.state))) := by
  simp [testhBody, hx, hk, maskBit]

include hx in
theorem canchBody_stale (hk : handleCmd s (s.ctx.readS h.toNat) = none) : canchBody h s.ctx s = .ok s := by
  simp [canchBody, hx, hk]

include hx in
theorem canchBody_live (hk : handleCmd s (s.ctx.readS h.toNat) = some (b, k)) :
    canchBody h s.ctx s = .ok (canchCmd s b k) := by
  simp [canchBody, hx, hk]

include hq hp

/-- R186: an instruction whose body observes as it may and changes registers of its context retires so. -/
theorem handle_ends {i : Instr} {inf : Info} {body : Ctx → State → Except Halt State} {w : State} {ctx : Ctx} {cmds : List Cmd}
    {dropped : Bool} (hi : PlainShort inf) (hl : inf.ill = false) (hr : regsOk s inf = true)
    (hw : Observing s w cmds dropped) (hb : body s.ctx s = .ok (w.withCtx ctx)) (hpc : ctx.pc = s.ctx.pc)
    (hpend : ctx.pend = s.ctx.pend) : HandleEnds s (issue i inf body s) ctx cmds dropped := by
  obtain ⟨t, ht, hctx, hframe⟩ := issue_short (u := w.withCtx ctx) (c := ctx) hq hp (i := i) hi hl hr hb
    (by rw [← hw.g]; rfl) hpc hpend
  refine ⟨t, ht, hctx, ?_, ?_, ?_, ?_, fun hd => ?_, fun hd => ?_⟩
  all_goals rw [hframe]
  · exact hw.mem
  · exact hw.dies
  · exact hw.parts
  · exact hw.blk
  · exact hw.l1 hd
  · exact hw.cores hd

include h0 hx

theorem waith_ends {w : State} {cmds : List Cmd} {dropped : Bool} (hw : Observing s w cmds dropped)
    (hb : waithBody h s.ctx s = .ok w) : HandleEnds s (exec (.waith h) s) s.ctx cmds dropped := by
  have hctx : w.withCtx s.ctx = w := by rw [State.ctx, ← hw.g]; rfl
  exact handle_ends hq hp (handleInfo_plain s h []) (handleInfo_legal h0 hx []) rfl hw (hctx.symm ▸ hb) rfl rfl

theorem canch_ends {w : State} {cmds : List Cmd} {dropped : Bool} (hw : Observing s w cmds dropped)
    (hb : canchBody h s.ctx s = .ok w) : HandleEnds s (exec (.canch h) s) s.ctx cmds dropped := by
  have hctx : w.withCtx s.ctx = w := by rw [State.ctx, ← hw.g]; rfl
  exact handle_ends hq hp (handleInfo_plain s h []) (handleInfo_legal h0 hx []) rfl hw (hctx.symm ▸ hb) rfl rfl

theorem testh_ends {w : State} {cmds : List Cmd} {dropped v : Bool} (hw : Observing s w cmds dropped)
    (hb : testhBody c mask h s.ctx s = .ok (modCtx w fun x => x.writeC c.toNat v)) :
    HandleEnds s (exec (.testh c mask h) s) (s.ctx.writeC c.toNat v) cmds dropped := by
  have hctx : modCtx w (fun x => x.writeC c.toNat v) = w.withCtx (s.ctx.writeC c.toNat v) := by
    rw [modCtx, State.ctx, hw.g]
    rfl
  exact handle_ends hq hp (handleInfo_plain s h _) (handleInfo_legal h0 hx _) rfl hw (hctx ▸ hb) (Ctx.writeC_pc _ _ _)
    (Ctx.writeC_pend _ _ _)

/-- R186: a WAITH whose body does not end well. -/
theorem waith_halts {e : Halt} (hb : waithBody h s.ctx s = .error e) :
    exec (.waith h) s = halted s (.waith h) (handleInfo s h []) e := by
  rw [exec_waith, issue_body hq _ _ _ (.inr hp) (handleInfo_legal h0 hx []) rfl rfl, hb]

end

/-- Settles O42: the bodies by the state of the handle, and `observe_observing` and its like for what they leave. -/
theorem handleInstructions : Obligations.HandleInstructions := by
  intro s h mask c b k hq hp h0 x hx bit ends
  refine ⟨fun hk => ⟨?_, ?_, ?_⟩, fun hk => ⟨fun hf => ⟨?_, ?_⟩, fun hf => ?_, fun hpending hb => ?_⟩⟩
  · exact waith_ends hq hp h0 hx (seeOld_observing s x) (waithBody_stale hx hk)
  · exact testh_ends hq hp h0 hx (seeOld_observing s x) (testhBody_stale hx hk)
  · exact canch_ends hq hp h0 hx (.refl s) (canchBody_stale hx hk)
  · exact waith_halts hq hp h0 hx (by rw [waithBody_live hx hk, hf]; rfl)
  · exact testh_ends hq hp h0 hx (.refl s) (by rw [testhBody_live hx hk, hf]; rfl)
  · intro left
    refine ⟨fun ht => ?_, fun t ht => ?_, ?_, ?_⟩
    · exact waith_ends hq hp h0 hx (observe_observing s b k) (by rw [waithBody_live hx hk, if_pos hf, ht])
    · rw [waith_halts hq hp h0 hx (by rw [waithBody_live hx hk, if_pos hf, ht]), fullLen, hp]
      rfl
    · exact testh_ends hq hp h0 hx (observe_observing s b k) (by rw [testhBody_live hx hk, if_pos hf])
    · exact canch_ends hq hp h0 hx (.refl s) (by rw [canchBody_live hx hk, canchCmd_final hf])
  · exact canch_ends hq hp h0 hx (canchCmd_observing hpending hb) (canchBody_live hx hk)

end Sys2Proof.Machine
end

section
/-! PROOFS. The issue of the engine commands (R182, R183, R185, R191). -/

namespace Sys2Proof.Machine

section

variable {s : State} {f : LxF}

/-- R182: the device once the read of a command block has asked for what it needs: caches differ, and whether a swap is due. -/
def asked (s w : State) : State :=
  { s with g := { s.g with swapDue := w.g.swapDue }, cores := w.cores, dies := w.dies, msgs := w.msgs, chan := w.chan }

theorem askPieces_asked (s : State) (l : List (Option (BitVec 5) × Addr)) : askPieces s l = asked s (askPieces s l) :=
  askPieces_frame s l

/-- R182: a command started after such a read is the one that `newCmd` says; it is live, and its handle stands in sD. -/
theorem startCmd_asked (s w : State) (f : LxF) (kind : BitVec 3) (insn : Nat) (bytes : List Byte) (addr : Addr)
    (first count : Nat) :
    let k := newCmd s f kind bytes addr first count (BitVec.ofNat 64 insn)
    let b := bindEarly s k.num k.gen f.acq
    startCmd f kind insn bytes addr first count (asked s w) =
      { asked s w with
        g := { s.g with
          ctx := s.ctx.writeS f.sd.toNat (handleOf s.blk.spanPos k.kind k.gen k.num), swapDue := w.g.swapDue }
        blk := { s.blk with cmds := s.blk.cmds ++ [k], gens := mset 0 s.blk.gens k.num k.gen }
        early := b.early
        broken := b.broken } := rfl

/-- R166: binding the elements that were written ahead of a command says no more of them than whose they are. -/
theorem bindEarly_early (s : State) (num : Nat) (gen : BitVec 16) (acq : Bool) :
    (bindEarly s num gen acq).early.map (fun e => { e with cmd := none, skip := 0 }) =
      s.early.map fun e => { e with cmd := none, skip := 0 } := by
  refine List.map_map.trans (List.map_congr_left fun e _ => ?_)
  simp only [Function.comp]
  split_ifs <;> rfl

theorem bindEarly_broken (h : s.early = []) (num : Nat) (gen : BitVec 16) (acq : Bool) :
    (bindEarly s num gen acq).broken = s.broken := by
  simp [bindEarly, h]

/-- R182: an instruction of the group in focus that starts a command, and then marks registers that await a FILL, issues it. -/
theorem issues_cmd (h : Quiet s) (hp : s.ctx.prefixes = []) {i : Instr} {inf : Info}
    {body : Ctx → State → Except Halt State} (hi : PlainLong inf) (hl : inf.ill = false) (hr : regsOk s inf = true) (w : State)
    {kind : BitVec 3} {insn : Nat} {bytes : List Byte} {addr : Addr} {first count : Nat} {mark : Ctx → Ctx}
    (hb : body s.ctx s = .ok (modCtx (startCmd f kind insn bytes addr first count (asked s w)) mark))
    (hm : ∀ c, mark c = { c with fillPend := (mark c).fillPend })
    (hf : ∀ c r, c.fillPend = [] →
      mget false (mark c).fillPend r = (kind == 6 && decide (first ≤ r) && decide (r < first + count))) :
    ∃ t, issue i inf body s = .next t ∧ Issued s f (newCmd s f kind bytes addr first count (BitVec.ofNat 64 insn)) t ∧
      t.cores = w.cores ∧ t.dies = w.dies ∧ t.msgs = w.msgs ∧ t.chan = w.chan ∧ t.g.swapDue = w.g.swapDue := by
  rw [startCmd_asked] at hb
  generalize hk : newCmd s f kind bytes addr first count (BitVec.ofNat 64 insn) = k at hb ⊢
  let c := s.ctx.writeS f.sd.toNat (handleOf s.blk.spanPos k.kind k.gen k.num)
  have hmark : mark c = { c with fillPend := (mark c).fillPend } := hm c
  obtain ⟨t, ht, hctx, hframe⟩ := issue_long (i := i) h hp hi hl hr hb
    ⟨rfl, (congrArg Ctx.pc hmark).trans (Ctx.writeS_pc ..), (congrArg Ctx.pend hmark).trans (Ctx.writeS_pend ..),
      (congrArg Ctx.prefixes hmark).trans (Ctx.writeS_prefixes ..)⟩
  have hctx : t.ctx = { mark c with pc := s.ctx.pc + 8 } := hctx
  have hfill : t.ctx.fillPend = (mark c).fillPend := by rw [hctx]
  have hkind : k.kind = kind ∧ k.first = first ∧ k.count = count := by rw [← hk]; exact ⟨rfl, rfl, rfl⟩
  obtain ⟨rfl, rfl, rfl⟩ := hkind
  refine ⟨t, ht, ⟨?_, ?_, fun he => ?_, ?_, ?_, ?_, fun r => ?_⟩, ?_, ?_, ?_, ?_, ?_⟩
  · rw [hframe]
    rfl
  · rw [hframe]
    exact bindEarly_early s k.num k.gen f.acq
  · rw [hframe]
    exact bindEarly_broken he k.num k.gen f.acq
  · rw [hfill, hctx]
    show { mark c with pc := s.ctx.pc + 8 } = _
    rw [hmark]
  · rw [hframe]
    rfl
  · rw [hframe]
    exact mget_mset_self ..
  · rw [hfill]
    exact hf c r ((Ctx.writeS_fillPend ..).trans h.filled)
  all_goals
    rw [hframe]
    rfl

/-- R191: registers that come to await a FILL. -/
theorem mget_markFill (c : Ctx) (l : List Nat) (on : Bool) (r : Nat) :
    mget false (markFill l on c).fillPend r = if r ∈ l then on else mget false c.fillPend r := by
  show mget false (l.foldl (fun m r => mset false m r on) c.fillPend) r = _
  induction l generalizing c with
  | nil => rfl
  | cons x t ih =>
    rw [List.foldl_cons, ih { c with fillPend := mset false c.fillPend x on }, mget_mset]
    by_cases hx : r = x <;> by_cases ht : r ∈ t <;> simp [hx, ht]

variable (h : Quiet s) (hp : s.ctx.prefixes = []) (hroom : handleRoom s = true)
include h hp hroom

/-- R182: an instruction whose command block can be read. -/
theorem blockBody_issues {bs : List Byte} (ha : (s.ctx.readA f.n.toNat).toNat % 16 = 0)
    (hread : readCommand s (s.ctx.readA f.n.toNat) = .ok bs) (i : Instr) (kind : BitVec 3) :
    ∃ t, issue i (blockInfo f) (blockBody f kind) s = .next t ∧
      Issued s f (newCmd s f kind bs (s.ctx.readA f.n.toNat) 0 0 0) t := by
  let w := askPieces s (cmdPieces (s.ctx.readA f.n.toNat) bs.length)
  have hb : blockBody f kind s.ctx s = .ok (modCtx (startCmd f kind 0 bs (s.ctx.readA f.n.toNat) 0 0 (asked s w)) id) := by
    rw [← askPieces_asked]
    simp only [blockBody, cmdAligned, if_pos ha, hroom, hread, if_true]
    rfl
  obtain ⟨t, ht, hissued, -⟩ := issues_cmd (i := i) (inf := blockInfo f) h hp ⟨rfl, rfl, rfl, rfl, rfl, rfl⟩ rfl rfl w hb
    (fun _ => rfl) (fun c r hc => by simp [hc, mget])
  exact ⟨t, ht, hissued⟩

/-- R182, R191: a SPILL or FILL of registers of the block. -/
theorem saveBody_issues {first count : BitVec 8} (ha : (s.ctx.readA f.n.toNat).toNat % 128 = 0) (i : Instr) {inf : Info}
    (hi : PlainLong inf) (hl : inf.ill = false) (hr : regsOk s inf = true) {kind : BitVec 3} {insn : Nat}
    {bytes : Ctx → List Byte} {mark : Ctx → Ctx} (hm : ∀ c, mark c = { c with fillPend := (mark c).fillPend })
    (hf : ∀ c r, c.fillPend = [] → mget false (mark c).fillPend r =
      (kind == 6 && decide (first.toNat ≤ r) && decide (r < first.toNat + (count.toNat + 1)))) :
    ∃ t, issue i inf (saveBody f kind insn first count bytes mark) s = .next t ∧
      Issued s f (newCmd s f kind (bytes s.ctx) (s.ctx.readA f.n.toNat) first.toNat (count.toNat + 1) (BitVec.ofNat 64 insn)) t ∧
      t.cores = s.cores ∧ t.dies = s.dies ∧ t.msgs = s.msgs ∧ t.chan = s.chan ∧ t.g.swapDue = s.g.swapDue := by
  refine issues_cmd (w := s) h hp hi hl hr ?_ hm hf
  simp only [saveBody, cmdAligned, if_pos ha, hroom, if_true]
  rfl

end

/-- Settles O41: `issues_cmd` for what every issue leaves, `freeNum_free` for the number. -/
theorem engineIssue : Obligations.EngineIssue := by
  intro s f first count len bs h hp hroom a issues alone
  have hcmds : s.blk.cmds.length < 256 := by
    have hroom' := hroom
    simp only [handleRoom, handlesLeft, Bool.and_eq_true, decide_eq_true_eq] at hroom'
    exact hroom'.2
  obtain ⟨hlt, hfree⟩ := freeNum_free hcmds
  refine ⟨hlt, hfree, fun ha hread => ⟨?_, ?_, ?_, ?_, ?_⟩, fun ha hregs => ⟨?_, ?_⟩, ?_⟩
  · exact blockBody_issues h hp hroom ha hread (.xcpy f) 0
  · exact blockBody_issues h hp hroom ha hread (.xgath f) 1
  · exact blockBody_issues h hp hroom ha hread (.xscat f) 2
  · exact blockBody_issues h hp hroom ha hread (.xred f) 3
  · exact blockBody_issues h hp hroom ha hread (.xsig f) 4
  · refine saveBody_issues h hp hroom ha (.spill f first count) ⟨rfl, rfl, rfl, rfl, rfl, rfl⟩ rfl ?_ (fun _ => rfl)
      fun c r hc => by simp [hc, mget]
    have hread : vecRegs ((.address, f.n.toNat) :: vecReads (saveRange first count)) = saveRange first count :=
      (vecRegs_cons_of_ne (fun he => by cases he) _).trans (vecRegs_vecReads _)
    show (vecRegs ((.address, f.n.toNat) :: vecReads (saveRange first count)) ++ _ ++ [] ++ []).all _ = true
    rw [hread, List.append_nil, List.append_nil]
    exact (congrArg (List.all · _) (List.append_nil _)).trans (regRange_fits (s := s) (by omega))
  · refine saveBody_issues h hp hroom ha (.fill f first count) ⟨rfl, rfl, rfl, rfl, rfl, rfl⟩ rfl ?_ (fun _ => rfl)
      fun c r hc => ?_
    · exact regRange_fits (s := s) (b := first.toNat) (n := count.toNat + 1) (by omega)
    · rw [mget_markFill, hc]
      simp [saveRange, mem_regRange, mget]
  · refine issues_cmd (i := .xpfd f len) (kind := 7) (insn := encode (.xpfd f len)) (bytes := []) (first := 0)
      (mark := id) h hp ⟨rfl, rfl, rfl, rfl, rfl, rfl⟩ rfl rfl s ?_ (fun _ => rfl) fun c r hc => by simp [hc, mget]
    simp only [xpfdBody, hroom, if_true]
    rfl

end Sys2Proof.Machine
end


section
/-! PROOFS. How an engine takes a command from start to end: the statement takes the destination of an element after the sectors
of its source were asked for, while the engine finds it before. The two differ where the read of the source brings the sector of
the destination into the die's L2 under another decode than that of the destination's cached leaf (R143). -/

namespace Sys2Proof.Machine

/-- The command block of an XCPY of one 8-byte element from 0x1000 to 0x10008 (R188). -/
def straddledBlock : List Byte :=
  [0, 0, 1, 0, 144, 0] ++ List.replicate 10 0 ++ leBytes 16 0x1000 ++ leBytes 16 0x10008 ++ [0, 0, 3, 0, 0, 1, 0, 0] ++
    leBytes 4 1 ++ List.replicate 84 0

/-- The copy of that block, as number 5 of its block, started. -/
def straddledCopy : Cmd :=
  ⟨5, 1, 0, .pending, true, straddledBlock, 0, 0, false, false, 0, 0, 0, 0, false, false, none, none, none, 0, 0⟩

/-- The copy at a core whose TLB holds an interleaved leaf of the page at PA 0 and one of the page at PA 2^38, where the placement
table interleaves neither: byte 0x1000 of the first page lies at place 2^38, which the table takes for the second page's first
byte. -/
def straddled : State :=
  { State.reset with
    blk := { Block.none with phase := .resident, cmds := [straddledCopy] }
    cores := [(0, { Core.reset with tlb := [⟨0, 0, 2 ^ 16, 0x47⟩, ⟨0, 2 ^ 16, 2 ^ 16, 0x4000000047⟩] })]
    mem := [(2 ^ 38, 1)] }

/-- The place of the source. -/
def straddledSource : Place := .local ⟨none, 0x1000, 0x1000, 2 ^ 38, 0x47 + cachedMark⟩

/-- The place that the destination has once the L2 holds the sector of the source. -/
def straddledTarget : Place := .local ⟨none, 0x10008, 2 ^ 38 + 8, 2 ^ 38 + 8, 0x4000000047 + cachedMark⟩

/-- The byte at that place after an outcome. -/
def targetByte : Host.Outcome State Fault Refusal → Byte
  | .next t => mget memDefault t.mem (2 ^ 38 + 8)
  | _ => 0

theorem straddled_engineAt : EngineAt straddled 5 straddledCopy := by constructor <;> decide

theorem straddled_source :
    elemPlace straddled straddled.blk straddledCopy (cmdU straddledCopy 48 1)
      ((cmdU straddledCopy 16 9 : Int) + cmdDisp straddledCopy 72 0) (srcBytes straddledCopy) false true =
    .ok straddledSource := by decide +kernel

theorem straddled_target :
    elemPlace (placeAsks straddled straddled.blk straddledSource) straddled.blk straddledCopy (cmdU straddledCopy 49 1)
      ((cmdU straddledCopy 32 9 : Int) + cmdDisp straddledCopy 104 0) (dstBytes straddledCopy) true true =
    .ok straddledTarget := by decide

theorem straddled_bytes :
    placeBytes straddled straddledSource (srcBytes straddledCopy) = [1, 0, 0, 0, 0, 0, 0, 0] := by decide

theorem straddled_targetByte : targetByte (exec (.engineElement 5) straddled) = 0 := by decide

/-- Refutes O43: the element of `straddled` is written to the place that the destination had before the read of the source, and
nothing stands where the destination lies after it. -/
theorem not_engineProgress : ¬ Obligations.EngineProgress := by
  intro h
  obtain ⟨hcopy, -⟩ := h.2.1 straddled 5 straddledCopy straddledSource straddledSource straddledTarget straddled_engineAt rfl
  obtain ⟨hmoves, -⟩ := hcopy straddled_source ⟨rfl, by decide⟩ straddled_target rfl
  obtain ⟨t, ht, hholds, -⟩ := hmoves rfl (by decide)
  have hbyte := straddled_targetByte
  rw [ht] at hbyte
  rw [straddled_bytes] at hholds
  have hfirst := congrArg List.head? hholds
  exact absurd (hbyte.symm.trans (Option.some.inj hfirst)) (by decide)

end Sys2Proof.Machine
end

section
/-! PROOFS. The power governor and the stack freeze (R208, R209, R254). -/

namespace Sys2Proof.Machine

/-- R254: a die whose new figures apply, with the power that the sample found. -/
def sampled (mw : Nat) (d : Die) : Die := { d with bud := d.newBud, base := d.newBase, power := mw }

/-- R208: what a sample of a die's power makes of the die. -/
def governed (s : State) (die mw : Nat) : Die :=
  let s1 := modDie s die (sampled mw)
  govern (sampled mw (getDie s die)) (powerAbove s1 die mw 95) (powerAbove s1 die mw 100) (powerLow s1 die mw)

theorem governorSample_eq {die : Nat} (h : die < 4) (s : State) (mw : Nat) :
    ∃ t, exec (.governorSample die mw) s = .next t ∧ t = { s with dies := t.dies } ∧ getDie t die = governed s die mw := by
  have hexec : exec (.governorSample die mw) s =
      .next (modDie (modDie s die (sampled mw)) die fun d => govern d (powerAbove (modDie s die (sampled mw)) die mw 95)
        (powerAbove (modDie s die (sampled mw)) die mw 100) (powerLow (modDie s die (sampled mw)) die mw)) := by
    show Host.Outcome.next (if _ then _ else _) = _
    rw [if_neg (by omega)]
    rfl
  refine ⟨_, hexec, rfl, ?_⟩
  rw [getDie_modDie, if_pos rfl, getDie_modDie, if_pos rfl]
  rfl

section

variable {d : Die} {above full low : Bool}

/-- R208: the governor moves its state, its counters and the clock, and no other figure of the die. -/
theorem govern_frame (d : Die) (above full low : Bool) :
    (govern d above full low).bud = d.bud ∧ (govern d above full low).base = d.base ∧
      (govern d above full low).power = d.power := by
  unfold govern
  dsimp only
  repeat' split
  all_goals exact ⟨rfl, rfl, rfl⟩

theorem govern_normal (h : d.gov = .normal) : (govern d above full low).gov = if above then .tight else .normal := by
  unfold govern
  cases above <;> simp [h]

theorem govern_tight_over (h : d.gov = .tight) (hf : full = true) (ho : 1 ≤ d.govOver) :
    (govern d above full low).gov = .throttle := by
  unfold govern
  simp [h, hf, ho]

theorem govern_throttle_over (h : d.gov = .throttle) (hf : full = true) (ho : 3 ≤ d.govOver) :
    (govern d above full low).gov = .clockdown := by
  unfold govern
  simp [h, hf, ho]

theorem govern_clockdown_over (h : d.gov = .clockdown) (hf : full = true) :
    (govern d above full low).mhz = max 750 (d.mhz - 75) := by
  unfold govern
  simp [h, hf]

theorem govern_throttle_low (h : d.gov = .throttle) (hf : full = false) (hl : low = true) (hu : 3 ≤ d.govUnder) :
    (govern d above full low).gov = .tight := by
  unfold govern
  simp [h, hf, hl, hu]

theorem govern_tight_low (h : d.gov = .tight) (hf : full = false) (hl : low = true) (hu : 3 ≤ d.govUnder) :
    (govern d above full low).gov = .normal := by
  unfold govern
  simp [h, hf, hl, hu]

end

theorem coolFrom_cases (s u : State) : coolFrom s u = { u with cooled := u.clock } ∨ coolFrom s u = u := by
  unfold coolFrom
  split
  · exact .inl rfl
  · exact .inr rfl

/-- R209: a stack at its critical temperature is in self-refresh, the device is frozen, and its freeze is counted once. -/
theorem freezeAt_eq (s : State) (stack : Nat) :
    freezeAt s stack = { s with
      hot := mset false s.hot stack true, frozen := true
      freezes := if s.frozen then s.freezes else s.freezes + 1
      intr := if s.frozen then s.intr else s.intr ++ [.freeze] } := by
  unfold freezeAt
  cases h : s.frozen
  · rfl
  · simp

/-- R209: a stack that reaches its critical temperature freezes the device. -/
theorem stackFreeze_freezes {stack : Nat} (h : stack < 16) (s : State) :
    ∃ t, exec (.stackFreeze stack) s = .next t ∧ OnlyFreeze s t ∧ t.frozen = true ∧ critOf s stack ≤ tempOf t stack ∧
      mget false t.hot stack = true ∧ (s.frozen = false → t.intr = s.intr ++ [.freeze] ∧ t.freezes = s.freezes + 1) := by
  let deg := max (tempOf s stack) (critOf s stack)
  have hexec : exec (.stackFreeze stack) s =
      .next (freezeAt (coolFrom s { s with temps := mset 0 s.temps stack deg }) stack) := by
    show Host.Outcome.next (measure s stack deg) = _
    unfold measure
    rw [if_neg (by omega)]
    dsimp only
    rw [if_pos (Nat.le_max_right _ _)]
  have htemp : critOf s stack ≤ mget 0 (mset 0 s.temps stack deg) stack := by
    rw [mget_mset_self]
    exact Nat.le_max_right _ _
  refine ⟨_, hexec, ?_⟩
  rw [freezeAt_eq]
  rcases coolFrom_cases s { s with temps := mset 0 s.temps stack deg } with hc | hc
  all_goals
    rw [hc]
    refine ⟨rfl, rfl, htemp, mget_mset_self false s.hot stack true, fun hf => ?_⟩
    dsimp only
    rw [hf]
    exact ⟨rfl, rfl⟩

/-- R209: once every stack has been cool for long enough the device resumes, and what it held back takes effect. -/
theorem stackResume_resumes {s : State} (hf : s.frozen = true) (hc : allCool s = true) (ht : s.cooled + coolCounts ≤ s.clock) :
    exec .stackResume s =
      .next (s.held.foldl replayAct (resumeInval { s with frozen := false, hot := [], held := [] })) := by
  have hyes : (s.frozen && allCool s && decide (s.cooled + coolCounts ≤ s.clock)) = true := by
    rw [hf, hc, decide_eq_true ht]
    rfl
  show Host.Outcome.next (if _ then _ else _) = _
  rw [hyes]
  rfl

/-- R209: before that nothing happens. -/
theorem stackResume_waits {s : State} (h : s.frozen = false ∨ allCool s = false ∨ s.clock < s.cooled + coolCounts) :
    exec .stackResume s = .next s := by
  have hno : (s.frozen && allCool s && decide (s.cooled + coolCounts ≤ s.clock)) = false := by
    rcases h with h | h | h
    · simp [h]
    · simp [h]
    · simp [h]
  show Host.Outcome.next (if _ then _ else _) = _
  rw [hno]
  rfl

/-- Settles O60: `governorSample_eq` with the moves of `govern`, `stackFreeze_freezes`, and `stackResume` where it resumes and where
it waits. -/
theorem governorAndFreeze : Obligations.GovernorAndFreeze := by
  intro s die mw stack
  refine ⟨fun hd => ?_, fun hs => stackFreeze_freezes hs s, fun hf hc ht => ?_, stackResume_waits⟩
  swap
  · dsimp only
    rw [stackResume_resumes hf hc ht, resumeInval]
    cases s.invalRun <;> rfl
  obtain ⟨t, ht, honly, he⟩ := governorSample_eq hd s mw
  obtain ⟨hbud, hbase, hpower⟩ := govern_frame (sampled mw (getDie s die)) (powerAbove (modDie s die (sampled mw)) die mw 95)
    (powerAbove (modDie s die (sampled mw)) die mw 100) (powerLow (modDie s die (sampled mw)) die mw)
  refine ⟨t, ht, honly, ?_⟩
  have hs1 : (modDie s die fun d => { d with bud := d.newBud, base := d.newBase, power := mw }) =
      modDie s die (sampled mw) := rfl
  rw [he]
  unfold governed
  dsimp only
  rw [hs1]
  generalize powerAbove (modDie s die (sampled mw)) die mw 95 = above at hbud hbase hpower ⊢
  generalize powerAbove (modDie s die (sampled mw)) die mw 100 = full at hbud hbase hpower ⊢
  generalize powerLow (modDie s die (sampled mw)) die mw = low at hbud hbase hpower ⊢
  have hgov : (sampled mw (getDie s die)).gov = (getDie s die).gov := rfl
  have hover : (sampled mw (getDie s die)).govOver = (getDie s die).govOver := rfl
  have hunder : (sampled mw (getDie s die)).govUnder = (getDie s die).govUnder := rfl
  have hmhz : (sampled mw (getDie s die)).mhz = (getDie s die).mhz := rfl
  refine ⟨hbud, hbase, hpower, ?_⟩
  rw [← hgov, ← hover, ← hunder, ← hmhz]
  exact ⟨govern_normal, govern_tight_over, govern_throttle_over, govern_clockdown_over, govern_throttle_low, govern_tight_low⟩

end Sys2Proof.Machine
end

section
/-! SUPPORT. The 64 bytes of a record, as they are staged at a port (R192), and the queue that they join. -/

namespace Sys2Proof.Machine

/-- R6: byte k of a little-endian number. -/
theorem leNat_div_mod (l : List Byte) {k : Nat} (h : k < l.length) : leNat l / 256 ^ k % 256 = l[k].toNat := by
  induction l generalizing k with
  | nil => exact absurd h (Nat.not_lt_zero k)
  | cons b t ih =>
    have hb : b.toNat < 256 := b.isLt
    rw [leNat]
    cases k with
    | zero =>
      rw [pow_zero, Nat.div_one, List.getElem_cons_zero]
      omega
    | succ k =>
      rw [Nat.pow_succ', ← Nat.div_div_eq_div_mul, Nat.add_mul_div_left _ _ (by omega), Nat.div_eq_of_lt hb, Nat.zero_add,
        ih (Nat.lt_of_succ_lt_succ h), List.getElem_cons_succ]

/-- R192: the staged bytes of a record whose last 8 bytes are written. -/
theorem stagedWith_eq (p : Port) (last : BitVec 64) :
    stagedWith p last = BitVec.ofNat 512 (leNat ((List.range 56).map (mget 0 p.staged) ++ leBytes 8 last.toNat)) := by
  have hlast (k : Nat) (hk : k < (leBytes 8 last.toNat).length) :=
    mget_msetAll_in (0 : Byte) p.staged 56 hk
  have hbytes : ((List.range 64).map fun k => mget 0 (msetAll 0 p.staged 56 (leBytes 8 last.toNat)) k) =
      (List.range 56).map (mget 0 p.staged) ++ leBytes 8 last.toNat := by
    rw [List.range_add (n := 56) (m := 8), List.map_append, List.map_map]
    refine congrArg₂ _ (List.map_congr_left fun k hk => ?_) ?_
    · exact mget_msetAll_out _ _ (.inl (List.mem_range.mp hk))
    · refine List.ext_getElem (by simp) fun k h1 h2 => ?_
      rw [List.getElem_map, List.getElem_range]
      exact hlast k h2
  rw [stagedWith, stagedRecord, hbytes]

theorem stagedWith_last (p : Port) (last : BitVec 64) : (stagedWith p last).extractLsb' 448 64 = last := by
  have hlow := leNat_lt ((List.range 56).map (mget (0 : Byte) p.staged))
  have hhigh := leNat_leBytes 8 last.toNat
  have hlt := last.isLt
  apply BitVec.eq_of_toNat_eq
  rw [stagedWith_eq, leNat_append, List.length_map, List.length_range] at *
  rw [hhigh]
  simp only [BitVec.extractLsb'_toNat, BitVec.toNat_ofNat, Nat.shiftRight_eq_div_pow]
  generalize leNat _ = x at hlow
  norm_num at hlow hlt ⊢
  omega

theorem stagedWith_byte (p : Port) (last : BitVec 64) {k : Nat} (hk : k < 56) :
    (stagedWith p last).extractLsb' (8 * k) 8 = mget 0 p.staged k := by
  have hlen : ((List.range 56).map (mget (0 : Byte) p.staged) ++ leBytes 8 last.toNat).length = 64 := by simp
  have hlt := leNat_lt ((List.range 56).map (mget (0 : Byte) p.staged) ++ leBytes 8 last.toNat)
  have hbyte := leNat_div_mod ((List.range 56).map (mget (0 : Byte) p.staged) ++ leBytes 8 last.toNat) (k := k) (by omega)
  rw [hlen, show 256 ^ 64 = 2 ^ 512 from (Nat.pow_mul 2 8 64).symm] at hlt
  apply BitVec.eq_of_toNat_eq
  rw [stagedWith_eq]
  simp only [BitVec.extractLsb'_toNat, BitVec.toNat_ofNat, Nat.shiftRight_eq_div_pow]
  rw [Nat.mod_eq_of_lt hlt, Nat.pow_mul, show 2 ^ 8 = 256 from rfl, hbyte,
    List.getElem_append_left (by simpa using hk)]
  simp

theorem getPort_modPort_self (s : State) (k : Nat) (f : Port → Port) : getPort (modPort s k f) k = f (getPort s k) := by
  rw [getPort_modPort, if_pos rfl]

theorem getPort_modPort_ne (s : State) {k j : Nat} (f : Port → Port) (h : j ≠ k) : getPort (modPort s k f) j = getPort s j := by
  rw [getPort_modPort, if_neg h]

/-- R192: a record that finds room joins its port's queue under the next number. -/
theorem enqueueRecord_room {s : State} {port : Nat} (h : (getPort s port).queue.length < 256) (dev : Bool) (r : BitVec 512) :
    enqueueRecord s port dev r =
      modPort { s with uidNext := s.uidNext + 1 } port fun p => { p with queue := p.queue ++ [⟨s.uidNext, dev, r⟩] } :=
  if_neg (by omega)

/-- R192: the port that the record joins. -/
theorem getPort_enqueueRecord {s : State} {port : Nat} (h : (getPort s port).queue.length < 256) (dev : Bool) (r : BitVec 512) :
    getPort (enqueueRecord s port dev r) port =
      { getPort s port with queue := (getPort s port).queue ++ [⟨s.uidNext, dev, r⟩] } := by
  rw [enqueueRecord_room h]
  exact getPort_modPort_self _ _ _

theorem getPort_enqueueRecord_ne {s : State} {port : Nat} (h : (getPort s port).queue.length < 256) (dev : Bool) (r : BitVec 512)
    {k : Nat} (hk : k ≠ port) : getPort (enqueueRecord s port dev r) k = getPort s k := by
  rw [enqueueRecord_room h]
  exact getPort_modPort_ne _ _ hk

theorem enqueueRecord_full {s : State} {port : Nat} (h : 256 ≤ (getPort s port).queue.length) (dev : Bool) (r : BitVec 512) :
    enqueueRecord s port dev r = modPort s port fun p => { p with ovf := true } :=
  if_pos h

end Sys2Proof.Machine
end

section
/-! PROOFS. The ingress ports: the write of a record and the read of QSTAT (R8, R192, R245). -/

namespace Sys2Proof.Machine

section

variable {s : State} {port : Nat}

/-- R8, R245: a port reached through no function of its own. -/
theorem ports_closed (h : portOpen s port = false) (last : BitVec 64) :
    exec (.recordEnqueue port last) s = .next s ∧ exec (.qstatRead port) s = .next { s with hostData := 0 } := by
  constructor
  · show Host.Outcome.next (if _ then _ else _) = _
    rw [if_pos h]
  · show Host.Outcome.next (if _ then _ else _) = _
    rw [h]
    rfl

/-- R192: what the read of QSTAT changes. -/
theorem clearQstat_clears (s : State) (port : Nat) (q : BitVec 64) :
    ∃ t, (Host.Outcome.next (clearQstat { s with hostData := q } port) : Host.Outcome State Fault Refusal) = .next t ∧
      t = { s with ports := t.ports, hostData := t.hostData } ∧
      getPort t port = { getPort s port with ovf := false, crovf := false } ∧ t.hostData = q :=
  ⟨_, rfl, rfl, getPort_modPort_self _ _ _, rfl⟩

variable (h : portOpen s port = true)
include h

theorem recordEnqueue_enqueues (last : BitVec 64) :
    exec (.recordEnqueue port last) s =
      .next (enqueueRecord (modPort s port fun p => { p with staged := msetAll 0 p.staged 56 (leBytes 8 last.toNat) }) port false
        (stagedWith (getPort s port) last)) := by
  show Host.Outcome.next (if _ then _ else _) = _
  rw [h]
  rfl

/-- R192: a record that finds room stands behind the others; it has the staged bytes, and the written ones at its end. -/
theorem recordEnqueue_room (last : BitVec 64) (hroom : (getPort s port).queue.length < 256) :
    ∃ t r, exec (.recordEnqueue port last) s = .next t ∧
      (getPort t port).queue = (getPort s port).queue ++ [⟨s.uidNext, false, r⟩] ∧
      r.extractLsb' 448 64 = last ∧ (∀ k < 56, r.extractLsb' (8 * k) 8 = mget 0 (getPort s port).staged k) ∧
      t = { s with ports := t.ports, uidNext := s.uidNext + 1 } ∧ ∀ k, k ≠ port → getPort t k = getPort s k := by
  generalize hu : modPort s port (fun p => { p with staged := msetAll 0 p.staged 56 (leBytes 8 last.toNat) }) = u
  have hport : (getPort u port).queue = (getPort s port).queue := by rw [← hu, getPort_modPort_self]
  have hother (k : Nat) (hk : k ≠ port) : getPort u k = getPort s k := by rw [← hu, getPort_modPort_ne s _ hk]
  have hframe : u = { s with ports := u.ports } := by rw [← hu]; rfl
  have hroom' : (getPort u port).queue.length < 256 := by rw [hport]; exact hroom
  have huid : u.uidNext = s.uidNext := by rw [hframe]
  refine ⟨_, stagedWith (getPort s port) last, hu ▸ recordEnqueue_enqueues h last, ?_, stagedWith_last _ _,
    fun k hk => stagedWith_byte _ _ hk, ?_, fun k hk => (getPort_enqueueRecord_ne hroom' _ _ hk).trans (hother k hk)⟩
  · rw [getPort_enqueueRecord hroom', hport, huid]
  · rw [enqueueRecord_room hroom', hframe]
    rfl

/-- R192: where 256 records wait already OVF is set instead. -/
theorem recordEnqueue_full (last : BitVec 64) (hfull : 256 ≤ (getPort s port).queue.length) :
    ∃ t, exec (.recordEnqueue port last) s = .next t ∧ (getPort t port).queue = (getPort s port).queue ∧
      (getPort t port).ovf = true ∧ t = { s with ports := t.ports } := by
  refine ⟨_, recordEnqueue_enqueues h last, ?_, ?_, ?_⟩
  all_goals rw [enqueueRecord_full (by rw [getPort_modPort_self]; exact hfull)]
  · rw [getPort_modPort_self, getPort_modPort_self]
  · rw [getPort_modPort_self]
  · rfl

/-- R192: a read of QSTAT clears OVF and CROVF. -/
theorem qstatRead_clears :
    ∃ t, exec (.qstatRead port) s = .next t ∧ t = { s with ports := t.ports, hostData := t.hostData } ∧
      getPort t port = { getPort s port with ovf := false, crovf := false } ∧ t.hostData = qstat (getPort s port) := by
  have hexec : exec (.qstatRead port) s = .next (clearQstat { s with hostData := qstat (getPort s port) } port) := by
    show execQstatRead port s = _
    rw [execQstatRead, if_pos h]
  rw [hexec]
  exact clearQstat_clears s port _

end

/-- R192: the launch id that QSTAT shows, 0 where nothing waits. -/
def headLid (p : Port) : BitVec 32 :=
  match p.queue with
  | r :: _ => r.bits.extractLsb' 480 32
  | [] => 0

/-- R192: QSTAT as a number, its sticky and wait bits in their places. -/
theorem qstat_toNat {p : Port} (h : p.queue.length ≤ 256) :
    (qstat p).toNat = p.crovf.toNat * 2 ^ 45 + p.ovf.toNat * 2 ^ 44 + p.loadw.toNat * 2 ^ 43 + p.waitw.toNat * 2 ^ 42 +
      p.pwrw.toNat * 2 ^ 41 + (256 - p.queue.length) * 2 ^ 32 + (headLid p).toNat := by
  have hbit (b : Bool) (n : Nat) : (if b = true then n else 0) = b.toNat * n := by cases b <;> simp
  have hlid : qstat p = BitVec.ofNat 64 ((if p.crovf then 2 ^ 45 else 0) + (if p.ovf then 2 ^ 44 else 0) +
      (if p.loadw then 2 ^ 43 else 0) + (if p.waitw then 2 ^ 42 else 0) + (if p.pwrw then 2 ^ 41 else 0) +
      (256 - p.queue.length) * 2 ^ 32 + (headLid p).toNat) := by
    unfold qstat headLid
    cases p.queue with
    | nil => rfl
    | cons r t => simp only [recLid, recField, BitVec.extractLsb'_toNat, Nat.shiftRight_eq_div_pow]
  have hlt := (headLid p).isLt
  have h1 := Bool.toNat_le p.crovf
  have h2 := Bool.toNat_le p.ovf
  have h3 := Bool.toNat_le p.loadw
  have h4 := Bool.toNat_le p.waitw
  have h5 := Bool.toNat_le p.pwrw
  rw [hlid]
  simp only [hbit, BitVec.toNat_ofNat]
  exact Nat.mod_eq_of_lt (by omega)

/-- R192: the fields of a number laid out as QSTAT is. -/
theorem qstat_fields {n a b c d e f l : Nat} (ha : a ≤ 1) (hb : b ≤ 1) (hc : c ≤ 1) (hd : d ≤ 1) (he : e ≤ 1) (hf : f ≤ 256)
    (hl : l < 2 ^ 32)
    (hn : n = a * 2 ^ 45 + b * 2 ^ 44 + c * 2 ^ 43 + d * 2 ^ 42 + e * 2 ^ 41 + f * 2 ^ 32 + l) :
    n / 2 ^ 45 % 2 = a ∧ n / 2 ^ 44 % 2 = b ∧ n / 2 ^ 43 % 2 = c ∧ n / 2 ^ 42 % 2 = d ∧ n / 2 ^ 41 % 2 = e ∧
      n / 2 ^ 32 % 2 ^ 9 = f ∧ n % 2 ^ 32 = l := by
  refine ⟨?_, ?_, ?_, ?_, ?_, ?_, ?_⟩ <;> omega

theorem getLsbD_of_bit {q : BitVec 64} {i : Nat} {b : Bool} (h : q.toNat / 2 ^ i % 2 = b.toNat) : q.getLsbD i = b := by
  rw [BitVec.getLsbD, Nat.testBit_eq_decide_div_mod_eq, h]
  cases b <;> rfl

/-- R192: the layout of QSTAT. -/
theorem qstat_layout {p : Port} (h : p.queue.length ≤ 256) :
    (qstat p).getLsbD 45 = p.crovf ∧ (qstat p).getLsbD 44 = p.ovf ∧ (qstat p).getLsbD 43 = p.loadw ∧
      (qstat p).getLsbD 42 = p.waitw ∧ (qstat p).getLsbD 41 = p.pwrw ∧
      (qstat p).extractLsb' 32 9 = BitVec.ofNat 9 (256 - p.queue.length) ∧ (qstat p).extractLsb' 0 32 = headLid p := by
  obtain ⟨hcrovf, hovf, hloadw, hwaitw, hpwrw, hfree, hlid⟩ := qstat_fields (Bool.toNat_le _) (Bool.toNat_le _)
    (Bool.toNat_le _) (Bool.toNat_le _) (Bool.toNat_le _) (Nat.sub_le _ _) (headLid p).isLt (qstat_toNat h)
  generalize qstat p = q at hcrovf hovf hloadw hwaitw hpwrw hfree hlid
  refine ⟨getLsbD_of_bit hcrovf, getLsbD_of_bit hovf, getLsbD_of_bit hloadw, getLsbD_of_bit hwaitw, getLsbD_of_bit hpwrw,
    BitVec.eq_of_toNat_eq ?_, BitVec.eq_of_toNat_eq ?_⟩
  · rw [BitVec.extractLsb'_toNat, BitVec.toNat_ofNat, Nat.shiftRight_eq_div_pow, hfree]
    exact (Nat.mod_eq_of_lt (by omega)).symm
  · rw [BitVec.extractLsb'_toNat, Nat.shiftRight_eq_div_pow, pow_zero, Nat.div_one, hlid]

/-- Settles O46: `recordEnqueue_room` and `recordEnqueue_full` for the write, `qstatRead_clears` and `qstat_layout` for the read,
`ports_closed` for a port that is reached through no function of its own. -/
theorem ingressPorts : Obligations.IngressPorts := by
  refine ⟨fun s port last h => ⟨recordEnqueue_room h last, recordEnqueue_full h last⟩, fun s port last h => ports_closed h last,
    fun s port h hlen => ?_⟩
  obtain ⟨t, ht, honly, hport, hdata⟩ := qstatRead_clears h
  refine ⟨t, ht, honly, hport, ?_⟩
  rw [hdata]
  exact qstat_layout hlen

end Sys2Proof.Machine
end

section
/-! PROOFS. LAUNCH: its record joins a port of its own function, and its handle names the port and the launch (R198). -/

namespace Sys2Proof.Machine

/-- R198: the number of a launch handle. -/
theorem launchHandle_toNat {port lid : Nat} (hp : port < 64) (hl : lid < 2 ^ 32) :
    (launchHandle port lid).toNat = 2 ^ 63 + port * 2 ^ 32 + lid := by
  rw [launchHandle, BitVec.toNat_ofNat]
  exact Nat.mod_eq_of_lt (by omega)

/-- R198: bit 63, the port and the launch id stand apart in a launch handle. -/
theorem launchHandle_eq {port lid : Nat} (hp : port < 64) (hl : lid < 2 ^ 32) :
    launchHandle port lid = (0x8000000000000000 : SWord) ||| (BitVec.ofNat 64 port <<< 32) ||| BitVec.ofNat 64 lid := by
  have hport : (BitVec.ofNat 64 port <<< 32).toNat = 2 ^ 32 * port := by
    rw [BitVec.toNat_shiftLeft, BitVec.toNat_ofNat, Nat.shiftLeft_eq]
    omega
  have hlid : (BitVec.ofNat 64 lid).toNat = lid := by
    rw [BitVec.toNat_ofNat]
    exact Nat.mod_eq_of_lt (by omega)
  have htop : (0x8000000000000000 : SWord).toNat = 2 ^ 63 * 1 := rfl
  apply BitVec.eq_of_toNat_eq
  rw [launchHandle_toNat hp hl, BitVec.toNat_or, BitVec.toNat_or, hport, hlid, htop,
    ← Nat.two_pow_add_eq_or_of_lt (i := 63) (b := 2 ^ 32 * port) (by omega),
    show 2 ^ 63 * 1 + 2 ^ 32 * port = 2 ^ 32 * (2 ^ 31 + port) by omega, ← Nat.two_pow_add_eq_or_of_lt hl]
  omega

/-- R211, R13: a plain instruction of 4 bytes that nothing stands in the way of, and whose body may make its group due to be
swapped out, retires. -/
theorem issue_shortDue {s u : State} (h : Quiet s) (hp : s.ctx.prefixes = []) {i : Instr} {inf : Info}
    {body : Ctx → State → Except Halt State} (hi : PlainShort inf) (hl : inf.ill = false)
    (hr : regsOk s inf = true) (hb : body s.ctx s = .ok u) (hg : u.g = { s.g with ctx := u.g.ctx, swapDue := u.g.swapDue })
    (hpc : u.ctx.pc = s.ctx.pc) (hpend : u.ctx.pend = s.ctx.pend) :
    ∃ t, issue i inf body s = .next t ∧ t.ctx = stepped 4 [] s.ctx u.ctx ∧
      t = { u with g := { u.g with ctx := t.g.ctx, pmc := t.g.pmc, arriving := t.g.arriving } } := by
  obtain ⟨t, ht, htctx, hframe⟩ := finish_retired (s := s) (owns := s.g.fown) h i inf (show OnlyMode s.g u.g by rw [hg]; rfl)
  refine ⟨t, ?_, ?_, hframe⟩
  · rw [issue_body h i inf body (.inr hp) hl hr hi.first, hb]
    exact ht
  · rw [htctx]
    exact retireCtx_stepped hi.marks hi.jumps hi.imx hi.latency hi.size hpc (hpend.trans h.covered)

/-- R198: what LAUNCH needs to issue. -/
def launchInfo (d : BitVec 6) (a : BitVec 4) : Info :=
  { size := 4, reads := [(.address, a.toNat)], writes := [(.scalar, d.toNat)], closes := true }

section

variable {s : State} {d : BitVec 6} {a : BitVec 4} {r : BitVec 512}

/-- R198: LAUNCH once its record is read, by the owner of the port that the record names and by its queue. -/
theorem launchBody_read (hal : (s.ctx.readA a.toNat).toNat % 64 = 0) (hread : readRecord s (s.ctx.readA a.toNat) = .ok r) :
    launchBody d a s.ctx s =
      let port := recField r 31 1 % 64
      if (getPort s port).owner ≠ some s.blk.vf then .error (.trap ⟨5, 9, 0, s.ctx.readA a.toNat, none⟩)
      else if 256 ≤ (getPort s port).queue.length then .error (.wait (.port port))
      else .ok (modCtx (enqueueRecord (askPieces s (cmdPieces (s.ctx.readA a.toNat) 64)) port true r) fun c =>
        c.writeS d.toNat (launchHandle port (recLid r))) := by
  simp only [launchBody, cmdAligned, if_pos hal, hread]

theorem launch_issues (s : State) (d : BitVec 6) (a : BitVec 4) :
    exec (.launch d a) s = issue (.launch d a) (launchInfo d a) (launchBody d a) s := rfl

/-- R211: a LAUNCH that nothing stands in the way of, and whose body does not end well. -/
theorem launch_halted {e : Halt} (h : Quiet s) (hp : s.ctx.prefixes = []) (hb : launchBody d a s.ctx s = .error e) :
    exec (.launch d a) s = halted s (.launch d a) (launchInfo d a) e := by
  rw [launch_issues, issue_body h _ _ _ (.inr hp) rfl rfl rfl, hb]

end

/-- Settles O44: by the owner of the port and the room in its queue. -/
theorem launchFromAKernel : Obligations.LaunchFromAKernel := by
  intro s d a r h hp va port hal hread
  have hbody := launchBody_read (d := d) hal hread
  refine ⟨fun ho hroom => ?_, fun ho => ?_, fun ho hfull => ?_⟩
  · have hb : launchBody d a s.ctx s = .ok (modCtx (enqueueRecord (askPieces s (cmdPieces va 64)) port true r) fun c =>
        c.writeS d.toNat (launchHandle port (recLid r))) := by
      rw [hbody]
      dsimp only
      rw [if_neg (not_not.mpr ho), if_neg (Nat.not_le.mpr hroom)]
    have hask := askPieces_frame s (cmdPieces va 64)
    generalize askPieces s (cmdPieces va 64) = u at hb hask
    dsimp only at hask
    have hports (k : Nat) : getPort u k = getPort s k := by rw [hask]; rfl
    have hroom' : (getPort u port).queue.length < 256 := by rw [hports]; exact hroom
    have hnum : u.uidNext = s.uidNext := by rw [hask]
    have hhandle : launchHandle port (recLid r) = _ := launchHandle_eq (Nat.mod_lt _ (by omega)) (Nat.mod_lt _ (by omega))
    have hport := getPort_enqueueRecord hroom' true r
    have hother (k : Nat) (hk : k ≠ port) := getPort_enqueueRecord_ne hroom' true r hk
    rw [enqueueRecord_room hroom', hnum] at hb hport hother
    obtain ⟨t, ht, hctx, hframe⟩ := issue_shortDue h hp (i := .launch d a) (inf := launchInfo d a)
      ⟨rfl, rfl, rfl, rfl, rfl, rfl⟩ rfl rfl hb
      (by rw [hask]; rfl)
      (by rw [modCtx_ctx, Ctx.writeS_pc, hask]; rfl) (by rw [modCtx_ctx, Ctx.writeS_pend, hask]; rfl)
    have hp' : ∀ k, getPort t k = getPort (modPort { u with uidNext := s.uidNext + 1 } port fun p =>
        { p with queue := p.queue ++ [⟨s.uidNext, true, r⟩] }) k := fun k => by rw [hframe]; rfl
    refine ⟨t, ht, ?_, ?_, ?_, fun k hk => ?_⟩
    · rw [hframe, hask]
      rfl
    · rw [hctx, modCtx_ctx, hhandle, hask]
      rfl
    · rw [hp', hport, hports]
    · rw [hp', hother k hk, hports]
  · have hb : launchBody d a s.ctx s = .error (.trap ⟨5, 9, 0, va, none⟩) := by
      rw [hbody]
      dsimp only
      rw [if_pos ho]
    rw [launch_halted h hp hb]
    simp only [halted, trapOr, h.noWindow, fullLen, hp, launchInfo, List.length_nil]
  · have hb : launchBody d a s.ctx s = .error (.wait (.port port)) := by
      rw [hbody]
      dsimp only
      rw [if_neg (not_not.mpr ho), if_pos hfull]
    rw [launch_halted h hp hb]
    rfl

end Sys2Proof.Machine
end

section
/-! SUPPORT. What the end of a record or a launch leaves of the groups, the blocks, the launches and the queues (R194, R201, R206). -/

namespace Sys2Proof.Machine

/-- R192: the records that wait at a port, the launch that stands for the first of them, and the function whose port it is. -/
def Port.line (p : Port) : List QRec × Option Nat × Option Nat := (p.queue, p.checked, p.owner)

/-- The groups, the blocks and the loaded code objects are as they were. -/
structure KeepsUnits (s t : State) : Prop where
  g : t.g = s.g
  groups : t.groups = s.groups
  blk : t.blk = s.blk
  blks : t.blks = s.blks
  modules : t.modules = s.modules

/-- The groups, the blocks, the code objects, the launches under way and the queues are as they were. -/
structure KeepsLines (s t : State) : Prop extends KeepsUnits s t where
  launches : t.launches = s.launches
  line : ∀ k, (getPort t k).line = (getPort s k).line

namespace KeepsUnits

variable {s t u : State}

theorem refl (s : State) : KeepsUnits s s := ⟨rfl, rfl, rfl, rfl, rfl⟩

theorem trans (a : KeepsUnits s t) (b : KeepsUnits t u) : KeepsUnits s u :=
  ⟨b.g.trans a.g, b.groups.trans a.groups, b.blk.trans a.blk, b.blks.trans a.blks, b.modules.trans a.modules⟩

theorem modPort (k : Nat) (f : Port → Port) : KeepsUnits s (modPort s k f) := ⟨rfl, rfl, rfl, rfl, rfl⟩

theorem setLaunches (l : List Launch) : KeepsUnits s { s with launches := l } := ⟨rfl, rfl, rfl, rfl, rfl⟩

theorem allBlocks_eq (h : KeepsUnits s t) : allBlocks t = allBlocks s := by
  unfold allBlocks
  rw [h.blk, h.blks]

end KeepsUnits

namespace KeepsLines

variable {s t u : State}

theorem refl (s : State) : KeepsLines s s := ⟨.refl s, rfl, fun _ => rfl⟩

theorem trans (a : KeepsLines s t) (b : KeepsLines t u) : KeepsLines s u :=
  ⟨a.toKeepsUnits.trans b.toKeepsUnits, b.launches.trans a.launches, fun k => (b.line k).trans (a.line k)⟩

theorem modPort (k : Nat) {f : Port → Port} (hf : ∀ p, (f p).line = p.line) : KeepsLines s (modPort s k f) where
  toKeepsUnits := ⟨rfl, rfl, rfl, rfl, rfl⟩
  launches := rfl
  line j := by
    rw [getPort_modPort]
    split
    · rw [hf, ‹j = k›]
    · rfl

theorem modDie (k : Nat) (f : Die → Die) : KeepsLines s (modDie s k f) := ⟨⟨rfl, rfl, rfl, rfl, rfl⟩, rfl, fun _ => rfl⟩

theorem interrupt (i : Intr) : KeepsLines s (interrupt s i) := ⟨⟨rfl, rfl, rfl, rfl, rfl⟩, rfl, fun _ => rfl⟩

theorem foldl {α : Type} (l : List α) {f : State → α → State} (hf : ∀ t, ∀ x ∈ l, KeepsLines t (f t x)) (s : State) :
    KeepsLines s (l.foldl f s) :=
  List.foldlRecOn _ _ (motive := KeepsLines s) (.refl s) fun t ht x hx => ht.trans (hf t x hx)

theorem queue_eq (h : KeepsLines s t) (k : Nat) : (getPort t k).queue = (getPort s k).queue :=
  congrArg Prod.fst (h.line k)

theorem checked_eq (h : KeepsLines s t) (k : Nat) : (getPort t k).checked = (getPort s k).checked :=
  congrArg (fun x => x.2.1) (h.line k)

theorem unchecked_eq (h : KeepsLines s t) (k : Nat) : uncheckedRecords (getPort t k) = uncheckedRecords (getPort s k) := by
  unfold uncheckedRecords
  rw [h.queue_eq, h.checked_eq]

theorem noneQueued (h : KeepsLines s t) {port lid : Nat} (hs : NoneQueued s port lid) : NoneQueued t port lid := by
  unfold NoneQueued
  rw [h.unchecked_eq]
  exact hs

end KeepsLines

/-! Each operation. -/

theorem tagBytes_keepsLines (s : State) (leaf i : Nat) : KeepsLines s (tagBytes s leaf i) :=
  ⟨⟨rfl, rfl, rfl, rfl, rfl⟩, rfl, fun _ => rfl⟩

theorem performBytes_keepsLines (s : State) (l : List (Nat × Nat)) (bs : List Byte) : KeepsLines s (performBytes s l bs) := by
  have h : KeepsLines s (l.foldl (fun acc x => tagBytes acc x.2 x.1)
      (onCoh s fun c => (l.map fun x => x.1 / 128).eraseDups.foldl (fun c x => c.recall x) c)) :=
    KeepsLines.trans (t := onCoh s fun c => (l.map fun x => x.1 / 128).eraseDups.foldl (fun c x => c.recall x) c)
      ⟨⟨rfl, rfl, rfl, rfl, rfl⟩, rfl, fun _ => rfl⟩ (.foldl l (fun t x _ => tagBytes_keepsLines t x.2 x.1) _)
  exact h.trans ⟨⟨rfl, rfl, rfl, rfl, rfl⟩, rfl, fun _ => rfl⟩

theorem deviceWrite_keepsLines {s t : State} {core vf : Nat} {va : Addr} {bs : List Byte}
    (h : deviceWrite s core vf va bs = some t) : KeepsLines s t := by
  unfold deviceWrite at h
  dsimp only at h
  split at h
  · cases h
    exact performBytes_keepsLines _ _ _
  · cases h

theorem testWaits_keepsLines (s : State) (port : Nat) : KeepsLines s (testWaits s port) := by
  unfold testWaits
  split
  case h_1 => exact .refl s
  case h_2 =>
    split
    case h_1 => exact .refl s
    case h_2 =>
      split
      · exact .modPort port fun _ => rfl
      · exact .refl s

theorem applySignal_keepsLines (s : State) (vf : Nat) (r : BitVec 512) : KeepsLines s (applySignal s vf r) := by
  unfold applySignal
  dsimp only
  split
  · split
    next t ht => exact (deviceWrite_keepsLines ht).trans (.foldl _ (fun u p _ => testWaits_keepsLines u p) t)
    · exact .refl s
  · exact .refl s

theorem writeCompletion_keepsLines (s : State) (port lid status detail blocks : Nat) :
    KeepsLines s (writeCompletion s port lid status detail blocks) := by
  unfold writeCompletion
  dsimp only
  split
  · exact .modPort port fun _ => rfl
  · refine KeepsLines.trans ?_ (.modPort port fun _ => rfl)
    cases hw : deviceWrite s 0 ((getPort s port).owner.getD 0)
      ((getPort s port).crbase + BitVec.ofNat 72 (16 * ((getPort s port).crhead.toNat % 256)))
      (leBytes 4 lid ++ leBytes 1 status ++ leBytes 1 detail ++ leBytes 2 0 ++ leBytes 8 blocks) with
    | none => exact .refl s
    | some t => exact deviceWrite_keepsLines hw

theorem endRecord_keepsLines (s : State) (port : Nat) (r : BitVec 512) (status detail : Nat) :
    KeepsLines s (endRecord s port r status detail) := by
  unfold endRecord
  dsimp only
  have hsig : KeepsLines s (if status = 2 ∧ recField r 30 1 / 4 % 2 = 1 then
      applySignal s ((getPort s port).owner.getD 0) r else s) := by
    split
    · exact applySignal_keepsLines _ _ _
    · exact .refl s
  have hentry := hsig.trans (writeCompletion_keepsLines _ port (recLid r) status detail 0)
  split
  · exact hentry.trans (.interrupt _)
  · exact hentry

theorem grantReservations_keepsLines (s : State) : KeepsLines s (grantReservations s) := by
  refine .foldl _ (fun t x _ => ?_) s
  split
  · split
    · exact .modDie _ _
    · exact .refl t
  · exact .refl t

theorem dropDeferral_keepsLines (s : State) (port : Nat) (gone : Front → Bool) : KeepsLines s (dropDeferral s port gone) := by
  unfold dropDeferral
  refine KeepsLines.trans ?_ (grantReservations_keepsLines _)
  refine KeepsLines.trans ?_ (.foldl _ (fun _ _ _ => .modDie _ _) _)
  exact KeepsLines.trans (t := { s with deferred := s.deferred.filter fun x => !(x.port == port && gone x.front) })
    ⟨⟨rfl, rfl, rfl, rfl, rfl⟩, rfl, fun _ => rfl⟩ (.modPort port fun _ => rfl)

/-- A head record that leaves its queue touches no group, block or launch. -/
theorem popHead_keeps (s : State) (port : Nat) : KeepsUnits s (popHead s port) ∧ (popHead s port).launches = s.launches := by
  unfold popHead
  exact ⟨(KeepsUnits.modPort _ _).trans (dropDeferral_keepsLines _ _ _).toKeepsUnits,
    (dropDeferral_keepsLines _ _ _).launches⟩

theorem leaveHead_keeps (s : State) (l : Launch) : KeepsUnits s (leaveHead s l) ∧ (leaveHead s l).launches = s.launches := by
  unfold leaveHead
  split
  · exact popHead_keeps _ _
  · exact ⟨.refl s, rfl⟩

/-- R206: a completed launch is gone, and the groups and blocks are as they were. -/
theorem completeLaunch_keeps (s : State) (l : Launch) (status : Nat) :
    KeepsUnits s (completeLaunch s l status) ∧ findLaunch (completeLaunch s l status) l.key = none := by
  unfold completeLaunch
  dsimp only
  have hsig : KeepsUnits s (if recField l.record 30 1 / 4 % 2 = 1 ∧ (status = 0 ∨ status = 2) then
      applySignal (leaveHead s l) l.vf l.record else leaveHead s l) := by
    split
    · exact (leaveHead_keeps s l).1.trans (applySignal_keepsLines _ _ _).toKeepsUnits
    · exact (leaveHead_keeps s l).1
  have hentry := hsig.trans (writeCompletion_keepsLines _ l.port (recLid l.record) status 0 l.dispatched).toKeepsUnits
  refine ⟨?_, ?_⟩
  · split
    · exact (hentry.trans (KeepsLines.interrupt _).toKeepsUnits).trans (.setLaunches _)
    · exact hentry.trans (.setLaunches _)
  · unfold findLaunch
    rw [List.find?_eq_none]
    intro x hx
    simpa using (List.mem_filter.mp hx).2

/-- R228: what the log takes or loses of an event touches no group, block, launch or queue. -/
theorem mcEvent_keepsLines (s : State) (die type index kind flags : Nat) (addr : Addr) (synd vf core part slot : Nat) :
    KeepsLines s (mcEvent s die type index kind flags addr synd vf core part slot) := by
  unfold mcEvent
  dsimp only
  split_ifs <;> exact ⟨⟨rfl, rfl, rfl, rfl, rfl⟩, rfl, fun _ => rfl⟩

theorem logHeld_keepsLines (s : State) (b : Block) (g : Group) (l : List (Addr × Nat)) : KeepsLines s (logHeld s b g l) :=
  .foldl l (fun t _ _ => mcEvent_keepsLines t _ _ _ _ _ _ _ _ _ _ _) s

/-- R201 with KILL: of the blocks, those that are not discarded stand. -/
theorem mem_allBlocks_discardBlocks {s : State} {us : List Nat} {b : Block} (hb : b ∈ allBlocks (discardBlocks s us)) :
    b ∈ allBlocks s ∧ hasNat us b.uid = false := by
  obtain ⟨hmem, hphase⟩ := List.mem_filter.mp hb
  rcases List.mem_cons.mp hmem with rfl | hmem
  · rw [show (discardBlocks s us).blk = if hasNat us s.blk.uid then Block.none else s.blk from rfl] at hphase ⊢
    cases hu : hasNat us s.blk.uid with
    | true =>
      rw [hu] at hphase
      exact absurd (show (Block.none.phase != .none) = true from hphase) (by decide)
    | false =>
      rw [hu] at hphase
      exact ⟨List.mem_filter.mpr ⟨List.mem_cons_self, hphase⟩, hu⟩
  · obtain ⟨hblk, hu⟩ := List.mem_filter.mp (show b ∈ s.blks.filter fun b => !hasNat us b.uid from hmem)
    exact ⟨List.mem_filter.mpr ⟨List.mem_cons_of_mem _ hblk, hphase⟩, by simpa using hu⟩

end Sys2Proof.Machine
end

section
/-! PROOFS. The cancels of LCANCEL and of the host (R198, R201, R202). -/

namespace Sys2Proof.Machine

/-- R201: of a port whose records with some property are dropped, no waiting record that stands for no launch has it. -/
theorem unchecked_dropRecords (p : QRec → Bool) (x : Port) :
    uncheckedRecords (dropRecords p x) = (uncheckedRecords x).filter fun r => !p r := by
  unfold dropRecords
  cases hc : x.checked with
  | none => simp [uncheckedRecords, hc]
  | some key => cases hq : x.queue <;> simp [uncheckedRecords, hc, hq]

/-- R201: once the records that bear a launch id are dropped, none is queued. -/
theorem noneQueued_dropRecords (s : State) (port lid : Nat) :
    NoneQueued (modPort s port (dropRecords fun r => recLid r.bits == lid)) port lid := by
  intro r hr
  rw [getPort_modPort_self, unchecked_dropRecords] at hr
  simpa using (List.mem_filter.mp hr).2

theorem dropCopy_keepsLines (s : State) (port : Nat) : KeepsLines s (dropCopy s port) :=
  KeepsLines.trans (t := { s with faults := s.faults.filter fun f => f.owner != .copy port })
    ⟨⟨rfl, rfl, rfl, rfl, rfl⟩, rfl, fun _ => rfl⟩ (.modPort port fun _ => rfl)

/-- R201: a cancel of a launch id that no launch under way bears takes the queued records, and touches no group or block. -/
theorem cancelAll_queued {s : State} {port lid : Nat} (hn : namedLaunches s port lid = []) (kill : Bool) :
    KeepsUnits s (cancelAll s port lid kill) ∧ NoneQueued (cancelAll s port lid kill) port lid := by
  unfold cancelAll
  extract_lets p gone s0 s1 s2
  have h0 : KeepsUnits s s0 := by
    unfold s0
    split
    · exact (dropCopy_keepsLines s port).toKeepsUnits
    · exact .refl s
  have h2 : s2 = s1 := by
    unfold s2
    rw [hn]
    rfl
  have hend : KeepsLines s2 (gone.foldl (fun acc r => endRecord acc port r.bits 2 0) s2) :=
    .foldl gone (fun t r _ => endRecord_keepsLines t port r.bits 2 0) s2
  rw [h2] at hend ⊢
  exact ⟨(h0.trans (.modPort _ _)).trans hend.toKeepsUnits, hend.noneQueued (noneQueued_dropRecords s0 port lid)⟩

/-- R201: a cancel of a launch id that one launch under way bears, and no queued record, cancels that launch. -/
theorem cancelAll_underWay {s : State} {port lid : Nat} {l : Launch} (hl : namedLaunches s port lid = [l])
    (hq : NoneQueued s port lid) (kill : Bool) :
    ∃ u, cancelAll s port lid kill = cancelLaunch u l kill ∧ KeepsUnits s u ∧ u.launches = s.launches := by
  have hgone : ((uncheckedRecords (getPort s port)).filter fun r => recLid r.bits == lid) = [] :=
    List.filter_eq_nil_iff.mpr fun r hr => by simpa using hq r hr
  refine ⟨modPort (if ((getPort s port).checked.isNone && (getPort s port).queue.head?.any fun r => recLid r.bits == lid) = true
    then dropCopy s port else s) port (dropRecords fun r => recLid r.bits == lid), ?_, ?_⟩
  · unfold cancelAll
    dsimp only
    rw [hgone, hl]
    rfl
  · split
    · exact ⟨(dropCopy_keepsLines s port).toKeepsUnits.trans (.modPort _ _), rfl⟩
    · exact ⟨.modPort _ _, rfl⟩

/-- R201: what a cancel without KILL leaves of a launch with blocks dispatched. -/
def cancelled (kill : Bool) (x : Launch) : Launch :=
  { x with state := if kill ∨ x.state = .killed then .killed else .cancelled }

/-- R201: a launch with blocks dispatched that is marked and has left the head of its port; the groups and blocks are as they
were. -/
theorem markLaunch_keeps (s : State) (l : Launch) (kill : Bool) :
    KeepsUnits s (leaveHead (updLaunch (dropFront s l kill) l.key (cancelled kill)) l) ∧
      (leaveHead (updLaunch (dropFront s l kill) l.key (cancelled kill)) l).launches =
        s.launches.map fun x => if x.key == l.key then cancelled kill x else x := by
  have hfront : KeepsLines s (dropFront s l kill) := dropDeferral_keepsLines _ _ _
  have hleave := leaveHead_keeps (updLaunch (dropFront s l kill) l.key (cancelled kill)) l
  refine ⟨(hfront.toKeepsUnits.trans (.setLaunches _)).trans hleave.1, hleave.2.trans ?_⟩
  rw [← hfront.launches]
  rfl

/-- R201, R202: a cancel with KILL leaves no block of a launch with blocks dispatched, and the launch is gone. -/
theorem cancelLaunch_kill (s : State) {l : Launch} (hd : l.dispatched ≠ 0) :
    (∀ b ∈ allBlocks (cancelLaunch s l true), b.launch ≠ l.key) ∧ findLaunch (cancelLaunch s l true) l.key = none := by
  have hgone (u : State) : ∀ b ∈ allBlocks (discardBlocks u (launchBlocks u l.key)), b.launch ≠ l.key := by
    intro b hb hkey
    obtain ⟨hmem, hno⟩ := mem_allBlocks_discardBlocks hb
    have hin : b.uid ∈ launchBlocks u l.key :=
      List.mem_map.mpr ⟨b, List.mem_filter.mpr ⟨hmem, by simpa using hkey⟩, rfl⟩
    rw [hasNat_iff_mem.mpr hin] at hno
    cases hno
  unfold cancelLaunch
  rw [if_neg hd]
  dsimp only
  rw [if_pos rfl]
  generalize leaveHead _ l = u
  cases hf : findLaunch (discardBlocks u (launchBlocks u l.key)) l.key with
  | none => exact ⟨hgone u, hf⟩
  | some l2 =>
    have hkey : l2.key = l.key := by simpa using List.find?_some hf
    have hdone := completeLaunch_keeps (discardBlocks u (launchBlocks u l.key)) l2 2
    dsimp only
    rw [hdone.1.allBlocks_eq, ← hkey]
    rw [← hkey] at hgone hdone
    exact ⟨hgone u, hdone.2⟩

/-- R201: a cancel without KILL leaves the blocks of a launch with blocks dispatched; the launch stands cancelled. -/
theorem cancelLaunch_keep {s : State} {l : Launch} (hd : l.dispatched ≠ 0) (hmem : l ∈ s.launches)
    (hkey : ∀ x ∈ s.launches, x.key = l.key → x = l) :
    KeepsUnits s (cancelLaunch s l false) ∧ findLaunch (cancelLaunch s l false) l.key = some (cancelled false l) := by
  obtain ⟨hunits, hlaunches⟩ := markLaunch_keeps s l false
  have heq : cancelLaunch s l false = leaveHead (updLaunch (dropFront s l false) l.key (cancelled false)) l := by
    unfold cancelLaunch
    rw [if_neg hd]
    rfl
  rw [heq]
  refine ⟨hunits, ?_⟩
  unfold findLaunch
  rw [hlaunches]
  cases hf : (s.launches.map fun x => if x.key == l.key then cancelled false x else x).find? fun x => x.key == l.key with
  | none =>
    have hno := List.find?_eq_none.mp hf (cancelled false l) (List.mem_map.mpr ⟨l, hmem, by simp⟩)
    simp [cancelled] at hno
  | some x =>
    obtain ⟨y, hy, rfl⟩ := List.mem_map.mp (List.mem_of_find?_eq_some hf)
    have hx : (if y.key == l.key then cancelled false y else y).key = l.key := by simpa using List.find?_some hf
    by_cases hyl : y.key = l.key
    · rw [hkey y hy hyl]
      simp
    · rw [if_neg (by simpa using hyl)] at hx
      exact absurd hx hyl

/-! R198: the handle that LCANCEL reads. -/

/-- R198: a launch handle with bit 63, a port and a launch id. -/
theorem handle_toNat {port : Nat} (hp : port < 64) (lid : BitVec 32) :
    ((0x8000000000000000 : SWord) ||| (BitVec.ofNat 64 port <<< 32) ||| lid.zeroExtend 64).toNat =
      2 ^ 63 + port * 2 ^ 32 + lid.toNat := by
  rw [← launchHandle_toNat hp lid.isLt, launchHandle_eq hp lid.isLt]
  simp

/-- R198: LCANCEL reads no launch handle out of one that no LAUNCH gives. -/
theorem badLaunchHandle_of_toNat {x : SWord} {port lid : Nat} (hp : port < 64) (hl : lid < 2 ^ 32)
    (hx : x.toNat = 2 ^ 63 + port * 2 ^ 32 + lid) : badLaunchHandle x = false := by
  have htop : x.getLsbD 63 = true := by
    rw [BitVec.getLsbD, Nat.testBit_eq_decide_div_mod_eq, hx]
    simp only [decide_eq_true_eq]
    omega
  have hmid : x.toNat / 2 ^ 38 % 2 ^ 25 = 0 := by
    rw [hx]
    omega
  unfold badLaunchHandle
  rw [htop, hmid]
  rfl

/-- R198: what LCANCEL needs to issue. -/
def lcancelInfo (s : State) (c : BitVec 3) (h : BitVec 6) : Info :=
  { size := 4, reads := [(.scalar, h.toNat)], writes := [(.condition, c.toNat), (.scalar, h.toNat)], closes := true,
    ill := statusChk s.ctx.status && badLaunchHandle (s.ctx.readS h.toNat) }

/-- R198: a launch id that no launch under way bears counts its queued records, and no block. -/
theorem cancelCounts_queued {s : State} {port lid : Nat} (hn : namedLaunches s port lid = []) :
    ((cancelCounts s port lid).1 != 0) = ((uncheckedRecords (getPort s port)).any fun r => recLid r.bits == lid) ∧
      (cancelCounts s port lid).2 = 0 := by
  unfold cancelCounts
  rw [hn]
  refine ⟨?_, rfl⟩
  dsimp only
  rw [List.length_nil, Nat.zero_add, Bool.eq_iff_iff]
  simp [List.length_eq_zero_iff]

/-- R198: LCANCEL of a launch id that no launch under way bears. -/
theorem lcancel_queued {s : State} {c : BitVec 3} {kill : Bool} {h : BitVec 6} {port : Nat} {lid : BitVec 32} (hp : port < 64)
    (hn : namedLaunches s port lid.toNat = []) (hq : Quiet s) (hpre : s.ctx.prefixes = [])
    (hh : s.ctx.readS h.toNat = 0x8000000000000000 ||| (BitVec.ofNat 64 port <<< 32) ||| lid.zeroExtend 64) :
    ∃ t, exec (.lcancel c kill h) s = .next t ∧ NoneQueued t port lid.toNat ∧ t.blk = s.blk ∧ t.groups = s.groups ∧
      t.ctx = stepped 4 [] s.ctx ((s.ctx.writeC c.toNat
        ((uncheckedRecords (getPort s port)).any fun r => recLid r.bits == lid.toNat)).writeS h.toNat 0) := by
  have hx : (s.ctx.readS h.toNat).toNat = 2 ^ 63 + port * 2 ^ 32 + lid.toNat := by
    rw [hh]
    exact handle_toNat hp lid
  have hgood : badLaunchHandle (s.ctx.readS h.toNat) = false := badLaunchHandle_of_toNat hp lid.isLt hx
  obtain ⟨hunits, hnone⟩ := cancelAll_queued hn kill
  obtain ⟨hany, hzero⟩ := cancelCounts_queued hn
  have hb : lcancelBody c kill h s.ctx s = .ok (modCtx (cancelAll s port lid.toNat kill) fun ctx =>
      (ctx.writeC c.toNat ((uncheckedRecords (getPort s port)).any fun r => recLid r.bits == lid.toNat)).writeS h.toNat 0) := by
    have hlt := lid.isLt
    have hport : (s.ctx.readS h.toNat).toNat / 2 ^ 32 % 64 = port := by omega
    have hlid : (s.ctx.readS h.toNat).toNat % 2 ^ 32 = lid.toNat := by omega
    unfold lcancelBody lcancelTo
    rw [hgood, hport, hlid]
    dsimp only
    rw [hany, hzero, hunits.g, if_pos rfl]
    rfl
  generalize cancelAll s port lid.toNat kill = u at hb hunits hnone
  have hctx : u.ctx = s.ctx := congrArg Group.ctx hunits.g
  obtain ⟨t, ht, htctx, hframe⟩ := issue_shortDue hq hpre (i := .lcancel c kill h) (inf := lcancelInfo s c h)
    ⟨rfl, rfl, rfl, rfl, rfl, rfl⟩ (by simp [lcancelInfo, hgood]) rfl hb
    (by rw [modCtx_g, hunits.g])
    (by rw [modCtx_ctx, Ctx.writeS_pc, Ctx.writeC_pc, hctx]) (by rw [modCtx_ctx, Ctx.writeS_pend, Ctx.writeC_pend, hctx])
  refine ⟨t, ht, ?_, ?_, ?_, ?_⟩
  · rw [hframe]
    exact hnone
  · rw [hframe]
    exact hunits.blk
  · rw [hframe]
    exact hunits.groups
  · rw [htctx, modCtx_ctx, hctx]

/-- Settles O45: of a queued launch id by the records dropped, of a launch under way by the cancel of it alone. -/
theorem cancels : Obligations.Cancels := by
  refine ⟨fun s c kill h port lid hp hn => ⟨fun hq hpre hh => lcancel_queued hp hn hq hpre hh, fun ho => ?_, fun ho => ?_⟩,
    fun s port lid l hl hd hkey hq ho => ?_⟩
  · have hcase (kill : Bool) := cancelAll_queued hn kill
    exact ⟨⟨_, congrArg Host.Outcome.next (if_pos ho), (hcase false).2, (hcase false).1.g, (hcase false).1.blk⟩,
      ⟨_, congrArg Host.Outcome.next (if_pos ho), (hcase true).2, (hcase true).1.g, (hcase true).1.blk⟩⟩
  · have hshut : ¬ portOpen s port = true := by simp [ho]
    exact ⟨congrArg Host.Outcome.next (if_neg hshut), congrArg Host.Outcome.next (if_neg hshut)⟩
  · have hmem : l ∈ s.launches := (List.mem_filter.mp (hl ▸ List.mem_singleton_self l : l ∈ namedLaunches s port lid.toNat)).1
    refine ⟨?_, ?_⟩
    · obtain ⟨u, heq, -, -⟩ := cancelAll_underWay hl hq true
      refine ⟨cancelLaunch u l true, ?_, cancelLaunch_kill u hd⟩
      rw [← heq]
      exact congrArg Host.Outcome.next (if_pos ho)
    · obtain ⟨u, heq, hunits, hsame⟩ := cancelAll_underWay hl hq false
      rw [← hsame] at hmem hkey
      obtain ⟨hkeep, hfind⟩ := cancelLaunch_keep hd hmem hkey
      refine ⟨cancelLaunch u l false, ?_, (hunits.trans hkeep).allBlocks_eq, (hunits.trans hkeep).g, _, hfind, fun hk => ?_⟩
      · rw [← heq]
        exact congrArg Host.Outcome.next (if_pos ho)
      · simp [cancelled, hk]

end Sys2Proof.Machine
end

section
/-! PROOFS. The check of a head record, its waits, and the load of its code object (R194 to R197, R207, R236). -/

namespace Sys2Proof.Machine

section

variable {s : State} {port vf : Nat} {q : QRec} {rest : List QRec}

/-- R194: the head record of a port that has a function and no launch at its head is checked. -/
theorem recordHeadCheck_checks (ho : (getPort s port).owner = some vf) (hq : (getPort s port).queue = q :: rest)
    (hc : (getPort s port).checked = none) (hw : copyWaits s port = false) :
    exec (.recordHeadCheck port) s = .next (checkHead s port vf q) := by
  show execRecordHeadCheck port s = _
  unfold execRecordHeadCheck
  dsimp only
  rw [ho, hq, hc, hw]
  rfl

/-- R196: a head record that waits for its code object. -/
def awaitLoad (s : State) (port : Nat) : State := modPort s port fun p => { p with loadw := true }

/-- R194: a head record that waits for its code object no longer. -/
def awaitNone (s : State) (port : Nat) : State := modPort s port fun p => { p with loadw := false }

theorem awaitLoad_waits (s : State) (port : Nat) :
    (getPort (awaitLoad s port) port).loadw = true ∧ (getPort (awaitLoad s port) port).queue = (getPort s port).queue := by
  unfold awaitLoad
  rw [getPort_modPort_self]
  exact ⟨rfl, rfl⟩

theorem checkHead_noIndex (hi : recIndex q.bits = none) : checkHead s port vf q = awaitLoad s port := by
  unfold checkHead
  rw [hi]
  rfl

theorem checkHead_absent {index : Nat} (hi : recIndex q.bits = some index) (hm : findModule s vf index = none) :
    checkHead s port vf q = awaitLoad s port := by
  unfold checkHead
  rw [hi]
  dsimp only
  rw [hm]
  rfl

/-- R194: a record that fails a check leaves its queue and ends with status 1. -/
theorem checkHead_rejected {index d : Nat} {m : Module} (hi : recIndex q.bits = some index) (hm : findModule s vf index = some m)
    (hu : unloadHolds s vf index q.num = false) (hd : recordDetail s vf m q.dev port q.bits = some d) :
    checkHead s port vf q = endRecord (popHead s port) port q.bits 1 d := by
  unfold checkHead
  rw [hi]
  dsimp only
  rw [hm]
  dsimp only
  rw [if_neg (by simp [hu]), hd]

/-- R194, R193: a record that passes its checks, of a function without record slots, stands as a launch at its port. -/
theorem checkHead_starts {index : Nat} {m : Module} {k : Kernel} (hi : recIndex q.bits = some index)
    (hm : findModule s vf index = some m) (hu : unloadHolds s vf index q.num = false)
    (hd : recordDetail s vf m q.dev port q.bits = none) (hk : kernelOf m q.bits = some k) (hr : (getFunc s vf).reccount = 0) :
    checkHead s port vf q =
      startLaunch (awaitNone s port) port (newLaunch (awaitNone s port) port vf m k q.bits none) := by
  unfold checkHead
  rw [hi]
  dsimp only
  rw [hm]
  dsimp only
  rw [if_neg (by simp [hu]), hd]
  dsimp only
  rw [hk]
  exact if_pos hr

end

/-! A record that is rejected. -/

/-- R194: the head record of a port has left its queue. -/
theorem getPort_popHead (s : State) (port : Nat) : (getPort (popHead s port) port).queue = (getPort s port).queue.tail := by
  unfold popHead
  rw [(dropDeferral_keepsLines _ _ _).queue_eq, getPort_modPort_self]

/-- R194: the end of a record that is rejected: its entry and its interrupt. -/
theorem endRecord_rejected (s : State) (port : Nat) (r : BitVec 512) (d : Nat) :
    endRecord s port r 1 d =
      let s2 := writeCompletion s port (recLid r) 1 d 0
      if recField r 30 1 / 8 % 2 = 1 then interrupt s2 (.completion ((getPort s port).owner.getD 0)) else s2 := by
  unfold endRecord
  dsimp only
  rw [if_neg (by simp : ¬((1 : Nat) = 2 ∧ recField r 30 1 / 4 % 2 = 1))]

/-- R195: an interrupt touches no port and no memory. -/
theorem endRecord_rejected_ports (s : State) (port : Nat) (r : BitVec 512) (d : Nat) :
    (endRecord s port r 1 d).ports = (writeCompletion s port (recLid r) 1 d 0).ports ∧
      (endRecord s port r 1 d).mem = (writeCompletion s port (recLid r) 1 d 0).mem := by
  rw [endRecord_rejected]
  dsimp only
  split
  · exact ⟨rfl, rfl⟩
  · exact ⟨rfl, rfl⟩

/-- R194, R195: the entry of a rejected record: with room the ring has moved on by it, without room it is dropped. -/
theorem rejected_ring (s : State) (port : Nat) (r : BitVec 512) (d : Nat) :
    let t := endRecord (popHead s port) port r 1 d
    (ringRoom (getPort s port) = true → (getPort t port).crhead = (getPort s port).crhead + 1 ∧
      EntryStands s t port (completionEntry (recLid r) 1 (BitVec.ofNat 8 d) 0)) ∧
    (ringRoom (getPort s port) = false → (getPort t port).crovf = true) := by
  have hpop := popHead_onlyQueues s port
  have hroom := hpop.rings.ringRoom_eq port
  obtain ⟨hp, hmem⟩ := endRecord_rejected_ports (popHead s port) port r d
  have hport : getPort (endRecord (popHead s port) port r 1 d) port = getPort _ port := congrArg (mget Port.reset · port) hp
  refine ⟨fun h => ?_, fun h => ?_⟩
  · obtain ⟨v, hv, hw, hst⟩ := writeCompletion_room (hroom.trans h) (recLid r) 1 d 0
    rw [hw] at hport hmem
    refine ⟨?_, ?_⟩
    · obtain ⟨-, -, hh, -⟩ := Port.ring_eq ((hpop.rings.trans hv).ring port)
      rw [hport, getPort_modPort_self, ← hh]
    · unfold EntryStands at hst ⊢
      rw [entryPlaces_eq hpop.maps hpop.rings] at hst
      rw [hmem]
      exact hst
  · rw [writeCompletion_full (hroom.trans h)] at hport
    rw [hport, getPort_modPort_self]

/-! A launch that starts, and its waits. -/

/-- R197: the waits of a record read memory through a function's pages, and nothing of the ports or the launches. -/
theorem deviceRead_ports (s : State) (ps : List (Nat × Port)) (ls : List Launch) (n core vf : Nat) (va : Addr) (size : Nat) :
    deviceRead { s with ports := ps, launches := ls, uidNext := n } core vf va size = deviceRead s core vf va size := by
  have hmaps : SameMaps s { s with ports := ps, launches := ls, uidNext := n } :=
    ⟨rfl, rfl, rfl, rfl, rfl, rfl, rfl, fun _ => rfl, fun _ => rfl, fun _ => rfl⟩
  have hbyte (leaf i : Nat) : pageByte { s with ports := ps, launches := ls, uidNext := n } leaf i = pageByte s leaf i := rfl
  unfold deviceRead
  simp only [hmaps.devicePlace_eq, hbyte]

theorem recordWaits_ports (s : State) (ps : List (Nat × Port)) (ls : List Launch) (n vf : Nat) (r : BitVec 512) :
    recordWaits { s with ports := ps, launches := ls, uidNext := n } vf r = recordWaits s vf r := by
  have hfunc : getFunc { s with ports := ps, launches := ls, uidNext := n } vf = getFunc s vf := rfl
  unfold recordWaits waitHolds
  simp only [deviceRead_ports, hfunc]

theorem getPort_startLaunch (s : State) (port : Nat) (l : Launch) :
    getPort (startLaunch s port l) port =
      { getPort s port with checked := some l.key, loadw := false, waitw := !recordWaits s l.vf l.record } := by
  unfold startLaunch
  rw [getPort_modPort_self]
  rfl

/-- R193, R197: the launch of a head record that passes its checks stands at the port. -/
theorem recordHeadCheck_starts {s : State} {port vf index : Nat} {q : QRec} {rest : List QRec} {m : Module} {k : Kernel}
    (ho : (getPort s port).owner = some vf) (hq : (getPort s port).queue = q :: rest)
    (hc : (getPort s port).checked = none) (hw : copyWaits s port = false) (hi : recIndex q.bits = some index)
    (hm : findModule s vf index = some m) (hu : unloadHolds s vf index q.num = false)
    (hd : recordDetail s vf m q.dev port q.bits = none) (hk : kernelOf m q.bits = some k) (hr : (getFunc s vf).reccount = 0) :
    ∃ l, exec (.recordHeadCheck port) s = .next (startLaunch (awaitNone s port) port l) ∧
      (startLaunch (awaitNone s port) port l).launches = s.launches ++ [l] ∧
      (getPort (startLaunch (awaitNone s port) port l) port).checked = some l.key ∧ l.record = q.bits ∧ l.vf = vf ∧
      l.kernel = k ∧ l.dispatched = 0 ∧ (getPort (startLaunch (awaitNone s port) port l) port).queue = q :: rest ∧
      (getPort (startLaunch (awaitNone s port) port l) port).waitw = !recordWaits s vf q.bits := by
  have hwaits : recordWaits (awaitNone s port) vf q.bits = recordWaits s vf q.bits :=
    recordWaits_ports s _ s.launches s.uidNext vf q.bits
  have hqueue : (getPort (awaitNone s port) port).queue = (getPort s port).queue := by
    unfold awaitNone
    rw [getPort_modPort_self]
  refine ⟨newLaunch (awaitNone s port) port vf m k q.bits none, ?_, rfl, ?_, rfl, rfl, rfl, rfl, ?_, ?_⟩
  · rw [recordHeadCheck_checks ho hq hc hw, checkHead_starts hi hm hu hd hk hr]
  · rw [getPort_startLaunch]
  · rw [getPort_startLaunch, ← hq, ← hqueue]
  · rw [getPort_startLaunch, ← hwaits]
    rfl

/-- R207: reservations stand in the dies. -/
theorem grantReservations_frame (s : State) : grantReservations s = { s with dies := (grantReservations s).dies } := by
  refine List.foldlRecOn s.deferred _ (motive := fun t : State => t = { s with dies := t.dies }) rfl fun t ht x _ => ?_
  split
  · split
    · rw [ht]
      rfl
    · exact ht
  · exact ht

/-- R197: the test of the waits of the launch at the head of a port. -/
theorem testWaits_tests {s : State} {port key : Nat} {l : Launch} (hc : (getPort s port).checked = some key)
    (hl : findLaunch s key = some l) (hd : l.dispatched = 0) :
    testWaits s port = modPort s port fun p => { p with waitw := !recordWaits s l.vf l.record } := by
  unfold testWaits
  rw [hc]
  dsimp only
  rw [hl]
  exact if_pos hd

/-- R207: a block that has been deferred for 150,000 counts becomes eligible. -/
theorem ripen_ripens {s : State} {x : Deferral} (hx : x ∈ s.deferred) (hr : ripe s x = true) :
    { x with eligible := true } ∈ (ripen s).deferred ∧ ripen s = { s with deferred := (ripen s).deferred, dies := (ripen s).dies } := by
  have hframe := grantReservations_frame
    { s with deferred := s.deferred.map fun x => if ripe s x then { x with eligible := true } else x }
  unfold ripen
  rw [if_pos (List.any_eq_true.mpr ⟨x, hx, hr⟩), hframe]
  exact ⟨List.mem_map.mpr ⟨x, hx, if_pos hr⟩, rfl⟩

/-! The load of a code object. -/

/-- R236: a port of the function whose load has failed holds no record that waits and names the code object. -/
theorem failPort_empties {s : State} {vf port : Nat} (p : QRec → Bool) (ho : (getPort s port).owner = some vf)
    (hc : (getPort s port).checked = none) : ∀ r ∈ (getPort (failPort vf p s port) port).queue, p r = false := by
  unfold failPort
  rw [if_pos ho]
  intro r hr
  rw [(KeepsLines.foldl _ (fun t r _ => endRecord_keepsLines t port r.bits 4 0) _).queue_eq, getPort_modPort_self] at hr
  simp only [dropRecords, hc, uncheckedRecords, Option.isSome_none, Bool.false_eq_true, if_false, List.nil_append,
    List.mem_filter, Bool.not_eq_true'] at hr
  exact hr.2

/-- R236: the end of one port's records touches no group, block or code object, and no other port's line. -/
theorem failPort_keeps (s : State) (vf port : Nat) (p : QRec → Bool) :
    KeepsUnits s (failPort vf p s port) ∧ ∀ k, k ≠ port → (getPort (failPort vf p s port) k).line = (getPort s k).line := by
  unfold failPort
  split
  · have hend := KeepsLines.foldl ((uncheckedRecords (getPort s port)).filter p)
      (fun t r _ => endRecord_keepsLines t port r.bits 4 0) (modPort s port (dropRecords p))
    refine ⟨(KeepsUnits.modPort _ _).trans hend.toKeepsUnits, fun k hk => ?_⟩
    rw [hend.line, getPort_modPort_ne _ _ hk]
  · exact ⟨.refl s, fun _ _ => rfl⟩

theorem failPorts_keep (l : List Nat) (s : State) (vf : Nat) (p : QRec → Bool) :
    KeepsUnits s (l.foldl (failPort vf p) s) ∧
      ∀ k, k ∉ l → (getPort (l.foldl (failPort vf p) s) k).line = (getPort s k).line := by
  induction l generalizing s with
  | nil => exact ⟨.refl s, fun _ _ => rfl⟩
  | cons a l ih =>
    obtain ⟨hunits, hline⟩ := failPort_keeps s vf a p
    refine ⟨hunits.trans (ih _).1, fun k hk => ?_⟩
    rw [List.mem_cons, not_or] at hk
    exact ((ih _).2 k hk.2).trans (hline k hk.1)

/-- R236: of a list of ports without repetition, each that belongs to the function and has no launch at its head holds no record
that waits and names the code object, once the load has failed. -/
theorem failPorts_empty {l : List Nat} (hl : l.Nodup) {s : State} {vf port : Nat} (p : QRec → Bool) (hp : port ∈ l)
    (ho : (getPort s port).owner = some vf) (hc : (getPort s port).checked = none) :
    ∀ r ∈ (getPort (l.foldl (failPort vf p) s) port).queue, p r = false := by
  induction l generalizing s with
  | nil => cases hp
  | cons a l ih =>
    obtain ⟨ha, hl⟩ := List.nodup_cons.mp hl
    rw [List.foldl_cons]
    by_cases hpa : port = a
    · subst hpa
      have hline := (failPorts_keep l (failPort vf p s port) vf p).2 port ha
      rw [show (getPort (l.foldl (failPort vf p) (failPort vf p s port)) port).queue = _ from congrArg Prod.fst hline]
      exact failPort_empties p ho hc
    · have hline := (failPort_keeps s vf a p).2 port hpa
      refine ih hl ((List.mem_cons.mp hp).resolve_left hpa) ?_ ?_
      · exact (congrArg (fun x => x.2.2) hline).trans ho
      · exact (congrArg (fun x => x.2.1) hline).trans hc

section

variable {s : State} {port vf index : Nat} {q : QRec} {rest : List QRec}

/-- R236: the load of the code object that a head record waits for. -/
theorem codeObjectLoad_loads (ho : (getPort s port).owner = some vf) (hq : (getPort s port).queue = q :: rest)
    (hc : (getPort s port).checked = none) (hi : recIndex q.bits = some index) (hm : findModule s vf index = none)
    (hu : unloadHolds s vf index q.num = false) :
    exec (.codeObjectLoad port) s = .next ((loadModule s vf index).getD (failRecords s vf (namesModule index))) := by
  show execCodeObjectLoad port s = _
  unfold execCodeObjectLoad
  dsimp only
  rw [ho, hq]
  dsimp only
  rw [if_neg (by simp [hc]), hi]
  dsimp only
  rw [if_neg (by simp [hm, hu])]

theorem loadModule_noImage (ha : imageAddr s vf index = none) : loadModule s vf index = none := by
  unfold loadModule
  rw [ha]

/-- R236: an image that passes its checks, with choices that fit, is installed. -/
theorem loadModule_installs {a : Nat} {emu : List EmuEntry} {secs : List (List Byte)} (ha : imageAddr s vf index = some a)
    (hh : imageHeaderOk s a = true) (hs : signatureOk s vf a = true) (hf : choicesFit s vf a s.uidNext = true)
    (he : boundEntries s a (sectionBase s.uidNext 0) = some emu)
    (hr : relocateAll s a s.uidNext (List.range ((section_ s a 6).2 / 16))
      ((List.range 4).map fun i => imageBytes s a (section_ s a i).1 (section_ s a i).2) = some secs) :
    loadModule s vf index = some (installModule s vf index a s.uidNext secs emu) := by
  unfold loadModule
  rw [ha]
  dsimp only
  rw [if_pos (by simp [hh, hs]), he]
  dsimp only
  rw [hr, Option.map_some, if_pos hf]

end

/-- R236: the bytes of a code object are performed in memory; the groups, the blocks and the ports are as they were. -/
theorem performBytes_ports (s : State) (l : List (Nat × Nat)) (bs : List Byte) : (performBytes s l bs).ports = s.ports := by
  have h : (l.foldl (fun acc x => tagBytes acc x.2 x.1)
      (onCoh s fun c => (l.map fun x => x.1 / 128).eraseDups.foldl (fun c x => c.recall x) c)).ports = s.ports :=
    List.foldlRecOn _ _ (motive := fun t : State => t.ports = s.ports) rfl fun _ ht _ _ => ht
  exact h

/-- R236: a code object that is installed is resident, with its kernels and its emulation routines. -/
theorem installModule_resident {s : State} {vf index : Nat} (a k : Nat) (secs : List (List Byte)) (emu : List EmuEntry)
    (hm : findModule s vf index = none) :
    let t := installModule s vf index a k secs emu
    (∃ m, findModule t vf index = some m ∧ m.kernels = kernelTable s a ∧ m.emu = emu ∧ m.text = sectionBase k 0 ∧
      m.size = (section_ s a 0).2) ∧ t.g = s.g ∧ t.blk = s.blk ∧ t.ports = s.ports := by
  have hwrite : KeepsLines s ((List.range 4).foldl (fun acc i =>
      performBytes acc (sectionPlaces s vf k i ((secs[i]?).getD []).length) ((secs[i]?).getD [])) s) :=
    .foldl _ (fun t i _ => performBytes_keepsLines t _ _) s
  have hports : ((List.range 4).foldl (fun acc i =>
      performBytes acc (sectionPlaces s vf k i ((secs[i]?).getD []).length) ((secs[i]?).getD [])) s).ports = s.ports :=
    List.foldlRecOn _ _ (motive := fun t : State => t.ports = s.ports) rfl fun t ht i _ => (performBytes_ports t _ _).trans ht
  refine ⟨⟨⟨vf, index, sectionBase k 0, (section_ s a 0).2,
    (List.range 4).flatMap fun i => sectionMaps s vf k i (section_ s a i).2, kernelTable s a, emu⟩, ?_, rfl, rfl, rfl, rfl⟩,
    hwrite.g, hwrite.blk, hports⟩
  show List.find? _ (s.modules ++ [_]) = _
  rw [List.find?_append, show s.modules.find? (fun m => m.vf == vf && m.index == index) = none from hm]
  simp

/-- Settles O47: by what the check of a head record finds, the test of its waits, and whether its code object has an image. -/
theorem headRecords : Obligations.HeadRecords := by
  refine ⟨fun s port vf q rest m k index d ho hq hc hw => ⟨fun hi => ?_, fun hi hm => ?_, fun hi hm hu => ⟨fun hd => ?_,
      fun hd hk hr => ?_⟩⟩, fun s port key l hc hl hd => ⟨?_, fun x hx hp he ht => ?_⟩,
    fun s port vf index a q rest emu secs hp ho hq hc hi hm hu => ⟨fun ha => ?_, fun ha hh hs hf he hr => ?_⟩⟩
  · obtain ⟨hload, hqueue⟩ := awaitLoad_waits s port
    refine ⟨awaitLoad s port, ?_, ⟨hload, hqueue.trans hq⟩, rfl, rfl, rfl, rfl⟩
    rw [recordHeadCheck_checks ho hq hc hw, checkHead_noIndex hi]
  · obtain ⟨hload, hqueue⟩ := awaitLoad_waits s port
    refine ⟨awaitLoad s port, ?_, ⟨hload, hqueue.trans hq⟩, rfl, rfl, rfl, rfl⟩
    rw [recordHeadCheck_checks ho hq hc hw, checkHead_absent hi hm]
  · obtain ⟨hunits, hlaunches⟩ := popHead_keeps s port
    have hend := endRecord_keepsLines (popHead s port) port q.bits 1 d
    have hall := hunits.trans hend.toKeepsUnits
    refine ⟨endRecord (popHead s port) port q.bits 1 d, ?_, ⟨?_, hend.launches.trans hlaunches, rejected_ring s port q.bits d⟩,
      hall.g, hall.blk, hall.blks, hall.groups⟩
    · rw [recordHeadCheck_checks ho hq hc hw, checkHead_rejected hi hm hu hd]
    · rw [hend.queue_eq, getPort_popHead, hq]
      rfl
  · obtain ⟨l, hstart, hl⟩ := recordHeadCheck_starts ho hq hc hw hi hm hu hd hk hr
    exact ⟨_, hstart, ⟨l, hl⟩, rfl, rfl, rfl, rfl⟩
  · refine ⟨_, congrArg Host.Outcome.next (testWaits_tests hc hl hd), rfl, ?_⟩
    rw [getPort_modPort_self]
  · have hripe : ripe s x = true := by simp [ripe, he, ht]
    obtain ⟨hmem, hframe⟩ := ripen_ripens hx hripe
    refine ⟨ripen s, congrArg Host.Outcome.next (if_pos ?_), hmem, hframe⟩
    exact List.any_eq_true.mpr ⟨x, hx, by simp [hp, hripe]⟩
  · refine ⟨failRecords s vf (namesModule index), ?_, (failPorts_keep _ s vf _).1.modules, (failPorts_keep _ s vf _).1.g,
      fun r hr => ?_⟩
    · rw [codeObjectLoad_loads ho hq hc hi hm hu, loadModule_noImage ha, Option.getD_none]
    · have hno := failPorts_empty List.nodup_range (namesModule index) (List.mem_range.mpr hp) ho hc r hr
      simpa [namesModule] using hno
  · obtain ⟨⟨m, hfind, hkern, hemu, htext, hsize⟩, hg, hblk, hports⟩ :=
      installModule_resident a s.uidNext secs emu hm
    refine ⟨installModule s vf index a s.uidNext secs emu, m, ?_, hfind, hkern, hemu, htext, hsize, hg, hblk, hports⟩
    rw [codeObjectLoad_loads ho hq hc hi hm hu, loadModule_installs ha hh hs hf he hr, Option.getD_some]

end Sys2Proof.Machine
end

section
/-! SUPPORT. Context areas read back (R54, R220): fields, words at a stride, and bit masks. -/

namespace Sys2Proof.Machine

/-! Fields of an area. -/

theorem areaPuts_append (m : List (Nat × Byte)) (l l' : List (Nat × List Byte)) :
    areaPuts m (l ++ l') = areaPuts (areaPuts m l) l' := List.foldl_append

theorem areaPuts_cons (m : List (Nat × Byte)) (e : Nat × List Byte) (l : List (Nat × List Byte)) :
    areaPuts m (e :: l) = areaPuts (areaPut m e.1 e.2) l := rfl

/-- Fields that all lie elsewhere leave a place. -/
theorem mget_areaPuts_out (m : List (Nat × Byte)) {l : List (Nat × List Byte)} {a : Nat}
    (h : ∀ e ∈ l, a < e.1 ∨ e.1 + e.2.length ≤ a) : mget 0 (areaPuts m l) a = mget 0 m a := by
  induction l generalizing m with
  | nil => rfl
  | cons e t ih =>
    rw [areaPuts_cons, ih _ fun x hx => h x (List.mem_cons_of_mem e hx)]
    exact mget_msetAll_out 0 m (h e List.mem_cons_self)

/-- What fields leave of a place depends on that place alone. -/
theorem mget_areaPuts_congr {m m' : List (Nat × Byte)} (l : List (Nat × List Byte)) {a : Nat} (h : mget 0 m a = mget 0 m' a) :
    mget 0 (areaPuts m l) a = mget 0 (areaPuts m' l) a := by
  induction l generalizing m m' with
  | nil => exact h
  | cons e t ih =>
    refine ih ?_
    unfold areaPut
    by_cases hin : e.1 ≤ a ∧ a < e.1 + e.2.length
    · obtain ⟨j, rfl⟩ := Nat.exists_eq_add_of_le hin.1
      have hj : j < e.2.length := by omega
      rw [mget_msetAll_in 0 m e.1 hj, mget_msetAll_in 0 m' e.1 hj]
    · rw [mget_msetAll_out 0 m (by omega), mget_msetAll_out 0 m' (by omega), h]

theorem areaNat_congr {m m' : List (Nat × Byte)} {off n : Nat} (h : ∀ j < n, mget 0 m (off + j) = mget 0 m' (off + j)) :
    areaNat m off n = areaNat m' off n := by
  unfold areaNat
  exact congrArg leNat (List.map_congr_left fun j hj => h j (List.mem_range.mp hj))

/-- A field from which all others lie apart stands in the area. -/
theorem mget_areaPuts_field (m : List (Nat × Byte)) {l : List (Nat × List Byte)} {e : Nat × List Byte} (he : e ∈ l)
    (h : ∀ x ∈ l, x = e ∨ x.1 + x.2.length ≤ e.1 ∨ e.1 + e.2.length ≤ x.1) {j : Nat} (hj : j < e.2.length) :
    mget 0 (areaPuts m l) (e.1 + j) = e.2[j] := by
  induction l generalizing m with
  | nil => cases he
  | cons x t ih =>
    rw [areaPuts_cons]
    by_cases ht : e ∈ t
    · exact ih _ ht fun y hy => h y (List.mem_cons_of_mem x hy)
    · obtain rfl := (List.mem_cons.mp he).resolve_right ht
      rw [mget_areaPuts_out, areaPut, mget_msetAll_in 0 m _ hj]
      intro y hy
      rcases h y (List.mem_cons_of_mem _ hy) with rfl | hy' | hy'
      · exact absurd hy ht
      · omega
      · omega

/-- A number is read from the bytes that stand in its place. -/
theorem areaNat_of_bytes {m : List (Nat × Byte)} {off : Nat} {bs : List Byte}
    (h : ∀ (j : Nat) (hj : j < bs.length), mget 0 m (off + j) = bs[j]) {i n : Nat} (hin : i + n ≤ bs.length) :
    areaNat m (off + i) n = leNat ((bs.drop i).take n) := by
  unfold areaNat
  refine congrArg leNat (List.ext_getElem ?_ fun j hj _ => ?_)
  · rw [List.length_map, List.length_range, List.length_take, List.length_drop]
    omega
  · rw [List.length_map, List.length_range] at hj
    rw [List.getElem_map, List.getElem_range, List.getElem_take, List.getElem_drop, Nat.add_assoc]
    exact h (i + j) (by omega)

theorem take_leBytes {n N : Nat} (h : n ≤ N) (x : Nat) : (leBytes N x).take n = leBytes n x := by
  rw [leBytes_eq_map, leBytes_eq_map, ← List.map_take, List.take_range, Nat.min_eq_left h]

/-- A number that is put into an area, apart from all else there, reads back, or as many of its bytes as are asked for. -/
theorem areaNat_areaPuts_number (m : List (Nat × Byte)) {l : List (Nat × List Byte)} {off N n x : Nat}
    (he : (off, leBytes N x) ∈ l)
    (h : ∀ y ∈ l, y = (off, leBytes N x) ∨ y.1 + y.2.length ≤ off ∨ off + (leBytes N x).length ≤ y.1) (hn : n ≤ N) :
    areaNat (areaPuts m l) off n = x % 256 ^ n := by
  have hread := areaNat_of_bytes (i := 0) (n := n) (fun j hj => mget_areaPuts_field m he h hj)
    (by rw [leBytes_length, Nat.zero_add]; exact hn)
  rw [List.drop_zero, take_leBytes hn, leNat_leBytes] at hread
  exact hread

theorem leNat_replicate_zero (n : Nat) : leNat (List.replicate n 0) = 0 := by
  induction n with
  | zero => rfl
  | succ n ih =>
    rw [List.replicate_succ, leNat, ih]
    rfl

/-- An area reads as zero where no byte stands. -/
theorem areaNat_zero {m : List (Nat × Byte)} {off n : Nat} (h : ∀ j < n, mget 0 m (off + j) = 0) : areaNat m off n = 0 := by
  unfold areaNat
  rw [List.eq_replicate_of_mem (a := (0 : Byte)) (l := (List.range n).map fun j => mget 0 m (off + j)), leNat_replicate_zero]
  intro b hb
  obtain ⟨j, hj, rfl⟩ := List.mem_map.mp hb
  exact h j (List.mem_range.mp hj)

/-! Regions: lists of fields that keep to a range each. -/

/-- Fields that keep to a range. -/
def Within (lo hi : Nat) (l : List (Nat × List Byte)) : Prop := ∀ e ∈ l, lo ≤ e.1 ∧ e.1 + e.2.length ≤ hi

theorem Within.append {lo hi : Nat} {l l' : List (Nat × List Byte)} (h : Within lo hi l) (h' : Within lo hi l') :
    Within lo hi (l ++ l') := by
  intro e he
  rcases List.mem_append.mp he with he | he
  · exact h e he
  · exact h' e he

theorem Within.mget_out {lo hi : Nat} {l : List (Nat × List Byte)} (h : Within lo hi l) (m : List (Nat × Byte)) {a : Nat}
    (ha : a < lo ∨ hi ≤ a) : mget 0 (areaPuts m l) a = mget 0 m a :=
  mget_areaPuts_out m fun e he => by have := h e he; omega

/-- Regions in rising order. -/
def Regions (rs : List (Nat × Nat × List (Nat × List Byte))) : Prop :=
  rs.Pairwise (fun x y => x.2.1 ≤ y.1) ∧ ∀ x ∈ rs, x.1 ≤ x.2.1 ∧ Within x.1 x.2.1 x.2.2

/-- The fields of all regions. -/
def regionFields (rs : List (Nat × Nat × List (Nat × List Byte))) : List (Nat × List Byte) := rs.flatMap fun x => x.2.2

/-- Between regions an area stays as it is. -/
theorem Regions.mget_gap {rs : List (Nat × Nat × List (Nat × List Byte))} (h : Regions rs) (m : List (Nat × Byte)) {a : Nat}
    (ha : ∀ x ∈ rs, a < x.1 ∨ x.2.1 ≤ a) : mget 0 (areaPuts m (regionFields rs)) a = mget 0 m a := by
  refine mget_areaPuts_out m fun e he => ?_
  obtain ⟨x, hx, hex⟩ := List.mem_flatMap.mp he
  have hin := (h.2 x hx).2 e hex
  have := ha x hx
  omega

/-- In a region an area holds what the fields of that region have put there. -/
theorem Regions.mget_in {rs : List (Nat × Nat × List (Nat × List Byte))} (h : Regions rs) (m : List (Nat × Byte))
    {lo hi : Nat} {l : List (Nat × List Byte)} (hm : (lo, hi, l) ∈ rs) {a : Nat} (hlo : lo ≤ a) (hhi : a < hi) :
    mget 0 (areaPuts m (regionFields rs)) a = mget 0 (areaPuts m l) a := by
  induction rs generalizing m with
  | nil => cases hm
  | cons x t ih =>
    obtain ⟨hsort, hin⟩ := h
    obtain ⟨hx, ht⟩ := List.pairwise_cons.mp hsort
    have htail : Regions t := ⟨ht, fun y hy => hin y (List.mem_cons_of_mem x hy)⟩
    rw [show regionFields (x :: t) = x.2.2 ++ regionFields t from rfl, areaPuts_append]
    rcases List.mem_cons.mp hm with rfl | hm
    · exact htail.mget_gap _ fun y hy => .inl (by have := hx y hy; dsimp only at this; omega)
    · rw [ih htail _ hm]
      refine mget_areaPuts_congr l ((hin x List.mem_cons_self).2.mget_out m (.inr ?_))
      exact (hx _ hm).trans hlo

/-! Words at a stride. -/

section

variable {β : Type} {f : β → List Byte} {es : List (Nat × β)} {base n : Nat}

/-- The fields of a map whose entries stand at a stride. -/
def words (base n : Nat) (f : β → List Byte) (es : List (Nat × β)) : List (Nat × List Byte) :=
  es.map fun e => (base + n * e.1, f e.2)

theorem words_within {count hi : Nat} (hlen : ∀ e ∈ es, (f e.2).length ≤ n) (hk : ∀ e ∈ es, e.1 < count)
    (hhi : base + n * count ≤ hi) : Within base hi (words base n f es) := by
  intro x hx
  obtain ⟨e, he, rfl⟩ := List.mem_map.mp hx
  have hl := hlen e he
  have hm : n * (e.1 + 1) ≤ n * count := Nat.mul_le_mul_left n (hk e he)
  rw [Nat.mul_succ] at hm
  dsimp only
  omega

theorem mget_eq_of_mem (d : β) {m : List (Nat × β)} (hm : (m.map (·.1)).Nodup) {e : Nat × β} (he : e ∈ m) :
    mget d m e.1 = e.2 := by
  induction m with
  | nil => cases he
  | cons x t ih =>
    obtain ⟨hx, ht⟩ := List.nodup_cons.mp hm
    rcases List.mem_cons.mp he with rfl | he
    · exact if_pos rfl
    · rw [mget, if_neg, ih ht he]
      intro heq
      exact hx (List.mem_map.mpr ⟨e, he, heq.symm⟩)

theorem mget_of_not_mem (d : β) {m : List (Nat × β)} {k : Nat} (h : ∀ e ∈ m, e.1 ≠ k) : mget d m k = d := by
  induction m with
  | nil => rfl
  | cons x t ih =>
    rw [mget, if_neg (h x List.mem_cons_self), ih fun e he => h e (List.mem_cons_of_mem x he)]

theorem mem_of_mget_ne (d : β) {m : List (Nat × β)} {k : Nat} (h : mget d m k ≠ d) : ∃ v, (k, v) ∈ m := by
  by_contra hno
  exact h (mget_of_not_mem d fun e he heq => hno ⟨e.2, heq ▸ he⟩)

/-- Of two keys the word of one stands apart from the word of the other. -/
theorem words_apart (hlen : ∀ e ∈ es, (f e.2).length = n) {k : Nat} {x : Nat × List Byte} (hx : x ∈ words base n f es) :
    (∃ e ∈ es, e.1 = k ∧ x = (base + n * k, f e.2)) ∨ x.1 + x.2.length ≤ base + n * k ∨ base + n * k + n ≤ x.1 := by
  obtain ⟨e, he, rfl⟩ := List.mem_map.mp hx
  rw [hlen e he]
  dsimp only
  rcases Nat.lt_trichotomy e.1 k with hlt | heq | hgt
  · have hm : n * (e.1 + 1) ≤ n * k := Nat.mul_le_mul_left n hlt
    rw [Nat.mul_succ] at hm
    omega
  · exact .inl ⟨e, he, heq, by rw [heq]⟩
  · have hm : n * (k + 1) ≤ n * e.1 := Nat.mul_le_mul_left n hgt
    rw [Nat.mul_succ] at hm
    omega

/-- The bytes of an entry of a map stand in its word. -/
theorem mget_words (hes : (es.map (·.1)).Nodup) (hlen : ∀ e ∈ es, (f e.2).length = n) (m : List (Nat × Byte)) {e : Nat × β}
    (he : e ∈ es) {j : Nat} (hj : j < (f e.2).length) :
    mget 0 (areaPuts m (words base n f es)) (base + n * e.1 + j) = (f e.2)[j] := by
  refine mget_areaPuts_field m (List.mem_map.mpr ⟨e, he, rfl⟩) (fun x hx => ?_) hj
  rcases words_apart hlen (k := e.1) hx with ⟨y, hy, hkey, rfl⟩ | h | h
  · rw [← mget_eq_of_mem e.2 hes hy, hkey, mget_eq_of_mem e.2 hes he]
    exact .inl rfl
  · exact .inr (.inl h)
  · rw [hlen e he]
    exact .inr (.inr h)

/-- The word of a key of a map reads back. -/
theorem areaNat_words (d : β) (hes : (es.map (·.1)).Nodup) (hlen : ∀ e ∈ es, (f e.2).length = n) (hd : leNat (f d) = 0)
    {m : List (Nat × Byte)} {k : Nat} (hm : ∀ j < n, mget 0 m (base + n * k + j) = 0) :
    areaNat (areaPuts m (words base n f es)) (base + n * k) n = leNat (f (mget d es k)) := by
  by_cases hk : ∃ e ∈ es, e.1 = k
  · obtain ⟨e, he, rfl⟩ := hk
    have hread := areaNat_of_bytes (off := base + n * e.1) (i := 0) (n := n) (fun j hj => mget_words hes hlen m he hj)
      (by rw [hlen e he, Nat.zero_add])
    rw [List.drop_zero, List.take_of_length_le (hlen e he).le] at hread
    rw [mget_eq_of_mem d hes he]
    exact hread
  · rw [mget_of_not_mem d fun e he heq => hk ⟨e, he, heq⟩, hd]
    refine areaNat_zero fun j hj => ?_
    rw [mget_areaPuts_out, hm j hj]
    intro x hx
    rcases words_apart hlen (k := k) hx with ⟨e, he, heq, -⟩ | h | h
    · exact absurd ⟨e, he, heq⟩ hk
    · omega
    · omega

end

/-- A map made of its keys. -/
theorem mget_map_key {β : Type} (d : β) (l : List Nat) (F : Nat → β) (k : Nat) :
    mget d (l.map fun i => (i, F i)) k = if k ∈ l then F k else d := by
  induction l with
  | nil => rfl
  | cons i t ih =>
    rw [List.map_cons, mget, ih]
    by_cases h : i = k
    · rw [if_pos h, if_pos (h ▸ List.mem_cons_self), h]
    · rw [if_neg h]
      simp [Ne.symm h]

/-- Words of an area read back as a map: the word of every key below their number. -/
theorem mget_areaWords {β : Type} (d : β) (F : Nat → Nat → β) (m : List (Nat × Byte)) {off n count k : Nat} (hF : F k 0 = d)
    (hn : 0 < n) (hk : k < count) :
    mget d ((areaWords m off n count).map fun e => (e.1, F e.1 e.2)) k = F k (areaNat m (off + n * k) n) := by
  unfold areaWords
  dsimp only
  rw [List.map_map]
  refine (mget_map_key d _ (fun i => F i (areaNat m (off + n * i) n)) k).trans ?_
  split
  · rfl
  next hno =>
    rw [areaNat_zero, hF]
    intro j hj
    by_contra hne
    obtain ⟨v, hv⟩ := mem_of_mget_ne 0 hne
    have hup : n * (k + 1) ≤ n * count := Nat.mul_le_mul_left n hk
    rw [Nat.mul_succ] at hup
    refine hno (List.mem_eraseDups.mpr (List.mem_map.mpr ⟨_, List.mem_filter.mpr ⟨hv, ?_⟩, ?_⟩))
    · simp only [Bool.and_eq_true, decide_eq_true_eq]
      omega
    · dsimp only
      rw [show off + n * k + j - off = n * k + j by omega, Nat.mul_add_div hn, Nat.div_eq_of_lt hj, Nat.add_zero]

/-- Words of an area that hold nothing are not listed. -/
theorem mem_areaWords {m : List (Nat × Byte)} {off n count : Nat} (hn : 0 < n) {e : Nat × Nat} (he : e ∈ areaWords m off n count) :
    ∃ j v, j < n ∧ (off + n * e.1 + j, v) ∈ m := by
  unfold areaWords at he
  obtain ⟨k, hk, rfl⟩ := List.mem_map.mp he
  obtain ⟨x, hx, hxk⟩ := List.mem_map.mp (List.mem_eraseDups.mp hk)
  obtain ⟨hxm, hin⟩ := List.mem_filter.mp hx
  simp only [Bool.and_eq_true, decide_eq_true_eq] at hin
  have hdiv := Nat.div_add_mod (x.1 - off) n
  rw [hxk] at hdiv
  refine ⟨(x.1 - off) % n, x.2, Nat.mod_lt _ hn, ?_⟩
  rw [show off + n * k + (x.1 - off) % n = x.1 by omega]
  exact hxm

/-- An area that reads as zero holds nothing. -/
theorem mget_of_areaNat_zero {m : List (Nat × Byte)} {off n : Nat} (h : areaNat m off n = 0) {j : Nat} (hj : j < n) :
    mget 0 m (off + j) = 0 := by
  have hzero : ∀ l : List Byte, leNat l = 0 → ∀ b ∈ l, b = 0 := by
    intro l
    induction l with
    | nil => exact fun _ b hb => nomatch hb
    | cons x t ih =>
      intro hl b hb
      rw [leNat] at hl
      rcases List.mem_cons.mp hb with rfl | hb
      · exact BitVec.eq_of_toNat_eq (show b.toNat = 0 by omega)
      · exact ih (by omega) b hb
  exact hzero _ h _ (List.mem_map.mpr ⟨j, List.mem_range.mpr hj, rfl⟩)

/-- A register of which enough bytes are kept. -/
theorem ofNat_toNat_mod {w n : Nat} (h : 2 ^ w ≤ 256 ^ n) (x : BitVec w) : BitVec.ofNat w (x.toNat % 256 ^ n) = x := by
  rw [Nat.mod_eq_of_lt (Nat.lt_of_lt_of_le x.isLt h), BitVec.ofNat_toNat, BitVec.setWidth_eq]

theorem ofNat_leNat_leBytes {w n : Nat} (h : 2 ^ w ≤ 256 ^ n) (x : BitVec w) :
    BitVec.ofNat w (leNat (leBytes n x.toNat)) = x := by
  rw [leNat_leBytes, ofNat_toNat_mod h]

/-! Bit masks. -/

/-- A power of two added where its bit is clear sets that bit and no other. -/
theorem testBit_two_pow_add {i y : Nat} (hy : y.testBit i = false) (k : Nat) :
    (2 ^ i + y).testBit k = (decide (k = i) || y.testBit k) := by
  obtain ⟨q, r, hr, rfl⟩ : ∃ q r, r < 2 ^ i ∧ y = 2 ^ (i + 1) * q + r := by
    refine ⟨y / 2 ^ (i + 1), y % 2 ^ (i + 1), ?_, (Nat.div_add_mod y _).symm⟩
    have hbit : y / 2 ^ i % 2 = 0 := by
      rw [Nat.testBit_eq_decide_div_mod_eq] at hy
      simp only [decide_eq_false_iff_not] at hy
      omega
    rw [pow_succ, Nat.mod_mul, hbit, Nat.mul_zero, Nat.add_zero]
    exact Nat.mod_lt _ (Nat.two_pow_pos i)
  have hup : 2 ^ i + r < 2 ^ (i + 1) := by
    rw [pow_succ]
    omega
  rw [show 2 ^ i + (2 ^ (i + 1) * q + r) = 2 ^ (i + 1) * q + (2 ^ i + r) by omega, Nat.testBit_two_pow_mul_add q hup,
    Nat.testBit_two_pow_mul_add q (by omega)]
  by_cases hk : k < i + 1
  · rw [if_pos hk, if_pos hk]
    by_cases hki : k = i
    · subst hki
      rw [Nat.testBit_two_pow_add_eq, Nat.testBit_lt_two_pow hr]
      simp
    · rw [Nat.testBit_two_pow_add_gt (by omega)]
      simp [hki]
  · rw [if_neg hk, if_neg hk]
    have : k ≠ i := by omega
    simp [this]

theorem bitsNat_cons (i : Nat) (b : Bool) (t : List (Nat × Bool)) :
    bitsNat ((i, b) :: t) = (if b then 2 ^ i else 0) + bitsNat t := by
  unfold bitsNat sumOf
  rw [← List.sum_eq_foldl, ← List.sum_eq_foldl, List.map_cons, List.sum_cons]

/-- The bits of the number of a mask. -/
theorem testBit_bitsNat {l : List (Nat × Bool)} (hl : (l.map (·.1)).Nodup) (k : Nat) :
    (bitsNat l).testBit k = mget false l k := by
  induction l generalizing k with
  | nil => exact Nat.zero_testBit k
  | cons e t ih =>
    obtain ⟨he, ht⟩ := List.nodup_cons.mp hl
    obtain ⟨i, b⟩ := e
    have hi : (bitsNat t).testBit i = false := by
      rw [ih ht i]
      exact mget_of_not_mem false fun e he' heq => he (List.mem_map.mpr ⟨e, he', heq⟩)
    rw [bitsNat_cons, mget]
    cases b with
    | false =>
      rw [if_neg Bool.false_ne_true, Nat.zero_add, ih ht k]
      by_cases hk : i = k
      · rw [if_pos hk, ← hk, ← ih ht i, hi]
      · rw [if_neg hk]
    | true =>
      rw [if_pos rfl, testBit_two_pow_add hi, ih ht k]
      by_cases hk : i = k
      · simp [hk]
      · simp [hk, Ne.symm hk]

theorem bitsNat_lt {n : Nat} {l : List (Nat × Bool)} (hl : KeysBelow n l) : bitsNat l < 2 ^ n := by
  refine Nat.lt_pow_two_of_testBit _ fun i hi => ?_
  rw [testBit_bitsNat hl.1]
  exact mget_of_not_mem false fun e he => by have := hl.2 e he; omega

/-- A mask of n bits reads back from its number. -/
theorem mget_natBits_bitsNat {n : Nat} {l : List (Nat × Bool)} (hl : KeysBelow n l) (k : Nat) :
    mget false (natBits n (bitsNat l)) k = mget false l k := by
  unfold natBits
  rw [mget_map_key false _ fun _ => true, ← testBit_bitsNat hl.1 k, Nat.testBit_eq_decide_div_mod_eq]
  have hfar : ¬ k < n → ¬ bitsNat l / 2 ^ k % 2 = 1 := by
    intro hk hbit
    have hz := mget_of_not_mem false (m := l) (k := k) fun e he => by have := hl.2 e he; omega
    rw [← testBit_bitsNat hl.1 k, Nat.testBit_eq_decide_div_mod_eq] at hz
    simp [hbit] at hz
  by_cases hk : k < n
  · simp [List.mem_filter, hk]
  · simp [List.mem_filter, hk, hfar hk]

/-- A mask of which enough bytes are kept. -/
theorem mget_natBits_mod {n b : Nat} (hb : 2 ^ n ≤ 256 ^ b) {l : List (Nat × Bool)} (hl : KeysBelow n l) (k : Nat) :
    mget false (natBits n (bitsNat l % 256 ^ b)) k = mget false l k := by
  rw [Nat.mod_eq_of_lt (Nat.lt_of_lt_of_le (bitsNat_lt hl) hb), mget_natBits_bitsNat hl]

/-! Numbered lists. -/

/-- The entries of a list with their numbers. -/
def numbered {α : Type} (l : List α) : List (Nat × α) := l.zipIdx.map fun x => (x.2, x.1)

theorem numbered_keys {α : Type} (l : List α) : (numbered l).map (·.1) = List.range l.length := by
  unfold numbered
  rw [List.map_map, List.range_eq_range']
  exact List.zipIdx_map_snd 0 l

theorem numbered_nodup {α : Type} (l : List α) : ((numbered l).map (·.1)).Nodup := by
  rw [numbered_keys]
  exact List.nodup_range

theorem mem_numbered {α : Type} {l : List α} {e : Nat × α} : e ∈ numbered l ↔ l[e.1]? = some e.2 := by
  unfold numbered
  simp only [List.mem_map, Prod.exists]
  constructor
  · rintro ⟨a, i, h, rfl⟩
    exact List.mk_mem_zipIdx_iff_getElem?.mp h
  · exact fun h => ⟨e.2, e.1, List.mk_mem_zipIdx_iff_getElem?.mpr h, rfl⟩

theorem numbered_lt {α : Type} {l : List α} {e : Nat × α} (he : e ∈ numbered l) : e.1 < l.length := by
  obtain ⟨h, -⟩ := List.getElem?_eq_some_iff.mp (mem_numbered.mp he)
  exact h

end Sys2Proof.Machine
end

section
/-! SUPPORT. What is read back of the context area of a group (R54, R55). -/

namespace Sys2Proof.Machine

/-- The first 16 bytes of the area of a group. -/
def groupHeader (b : Block) (g : Group) : Nat :=
  1 + b.regs / 8 * 2 ^ 8 + g.ctx.stack.length * 2 ^ 16 + (if g.ctx.handler then 2 ^ 32 else 0) + (if g.fown then 2 ^ 33 else 0)

/-- The single fields of the area of a group. -/
def groupHead (b : Block) (g : Group) : List (Nat × List Byte) :=
  let c := g.ctx
  [(0, leBytes 16 (groupHeader b g)), (0x10, slotBytes c.pc), (0x20, leBytes 4 c.exec.toNat), (0x24, leBytes 4 c.fmt.toNat),
    (0x28, leBytes 1 (bitsNat c.c)), (0x30, leBytes 8 c.status.toNat), (0x38, leBytes 8 c.gang.toNat),
    (0x40, leBytes 8 c.trapInfo.toNat), (0x48, leBytes 8 c.trapPc.toNat), (0x50, leBytes 8 c.trapVa.toNat),
    (0x58, leBytes 8 c.trapVah.toNat), (0x420, leBytes 32 (bitsNat c.released)), (0x440, leBytes 32 (bitsNat c.fillPend)),
    (0x460, leBytes 8 (liveHandles b g.slot).length)]

/-- The regions of the area of a group below its vector registers: counters, registers, handles, stack. -/
def groupRegions (b : Block) (g : Group) : List (Nat × Nat × List (Nat × List Byte)) :=
  [(0x60, 0x80, words 0x60 2 (fun x => leBytes 2 x.toNat) g.pmcProg),
    (0x80, 0x100, words 0x80 8 (fun x => leBytes 8 x.toNat) g.pmc),
    (0x100, 0x300, words 0x100 8 (fun x => leBytes 8 x.toNat) g.ctx.s),
    (0x300, 0x400, words 0x300 16 slotBytes g.ctx.a),
    (0x400, 0x41C, words 0x400 4 (fun x => leBytes 4 x.toNat) g.ctx.p),
    (0x500, 0xD00, words 0x500 8 (fun x => leBytes 8 x.toNat) (numbered (liveHandles b g.slot))),
    (0xD00, 0x2D00, words 0xD00 32 entryBytes (numbered g.ctx.stack.reverse))]

/-- The vector lanes of a group that are not released. -/
def keptLanes (c : Ctx) : List (Nat × Lane) := c.v.filter fun e => !c.isReleased (e.1 / 32)

/-- R54: the area of a group is made of its single fields, its regions and its vector lanes. -/
theorem groupArea_eq (b : Block) (g : Group) :
    groupArea b g = areaPuts (areaPuts (areaPuts [] (groupHead b g)) (regionFields (groupRegions b g)))
      (words 0x2D00 4 (fun x => leBytes 4 x.toNat) (keptLanes g.ctx)) := by
  rw [← areaPuts_append (areaPuts [] (groupHead b g))]
  unfold groupArea
  refine congrArg (areaPuts (areaPuts [] (groupHead b g))) ?_
  simp only [regionFields, groupRegions, words, numbered, keptLanes, List.flatMap_cons, List.flatMap_nil, List.append_nil,
    List.append_assoc, List.map_map, Function.comp_def]

theorem entryBytes_length (e : StackEntry) : (entryBytes e).length = 32 := by
  simp [entryBytes]

theorem slotBytes_length (a : Addr) : (slotBytes a).length = 16 := leBytes_length 16 _

theorem words_region {β : Type} {f : β → List Byte} {es : List (Nat × β)} {lo hi n count : Nat} (hlen : ∀ x, (f x).length = n)
    (hk : ∀ e ∈ es, e.1 < count) (hhi : lo + n * count ≤ hi) : lo ≤ hi ∧ Within lo hi (words lo n f es) :=
  ⟨by omega, words_within (fun e _ => (hlen e.2).le) hk hhi⟩

section

variable {b : Block} {g : Group} (h : GroupFits b g)
include h

/-- R54: the regions of a group's area lie apart, in their order. -/
theorem groupRegions_regions : Regions (groupRegions b g) := by
  refine ⟨by simp [groupRegions], fun x hx => ?_⟩
  simp only [groupRegions, List.mem_cons, List.not_mem_nil, or_false] at hx
  rcases hx with rfl | rfl | rfl | rfl | rfl | rfl | rfl <;> dsimp only
  · exact words_region (fun _ => leBytes_length _ _) h.counters.1.2 (by decide)
  · exact words_region (fun _ => leBytes_length _ _) h.counters.2.2 (by decide)
  · exact words_region (fun _ => leBytes_length _ _) h.scalars.2 (by decide)
  · exact words_region slotBytes_length h.pointers.2 (by decide)
  · exact words_region (fun _ => leBytes_length _ _) h.predicates.2 (by decide)
  · exact words_region (fun _ => leBytes_length _ _) (count := 256)
      (fun e he => Nat.lt_of_lt_of_le (numbered_lt he) h.handles) (by decide)
  · refine words_region entryBytes_length (count := 256) (fun e he => Nat.lt_of_lt_of_le (numbered_lt he) ?_) (by decide)
    rw [List.length_reverse]
    exact h.stack

omit h in
/-- R54: below the vector registers. -/
theorem mget_groupArea_low {a : Nat} (ha : a < 0x2D00) :
    mget 0 (groupArea b g) a = mget 0 (areaPuts (areaPuts [] (groupHead b g)) (regionFields (groupRegions b g))) a := by
  rw [groupArea_eq]
  refine mget_areaPuts_below _ fun e he => ?_
  obtain ⟨x, _, rfl⟩ := List.mem_map.mp he
  dsimp only
  omega

omit h in
/-- R54: the single fields of the area of a group stand in rising order. -/
theorem groupHead_sorted (b : Block) (g : Group) : (groupHead b g).Pairwise fun x y => x.1 + x.2.length ≤ y.1 := by
  simp [groupHead, slotBytes_length]

omit h in
/-- The fields of a list in rising order lie apart. -/
theorem apart_of_sorted {l : List (Nat × List Byte)} (hl : l.Pairwise fun x y => x.1 + x.2.length ≤ y.1)
    {e : Nat × List Byte} (he : e ∈ l) : ∀ x ∈ l, x = e ∨ x.1 + x.2.length ≤ e.1 ∨ e.1 + e.2.length ≤ x.1 := by
  induction l with
  | nil => cases he
  | cons y t ih =>
    obtain ⟨hy, ht⟩ := List.pairwise_cons.mp hl
    intro x hx
    rcases List.mem_cons.mp he with heq | he
    · subst heq
      exact (List.mem_cons.mp hx).imp_right fun hx => .inr (hy x hx)
    · rcases List.mem_cons.mp hx with heq | hx
      · rw [heq]
        exact .inr (.inl (hy e he))
      · exact ih ht he x hx

/-- R54: a single field of a group's area is read back, or as many of its bytes as are asked for. -/
theorem areaNat_groupHead {off N n x : Nat} (he : (off, leBytes N x) ∈ groupHead b g) (hn : n ≤ N)
    (hgap : off + n ≤ 0x60 ∨ 0x41C ≤ off ∧ off + n ≤ 0x500) : areaNat (groupArea b g) off n = x % 256 ^ n := by
  rw [← areaNat_areaPuts_number [] he (apart_of_sorted (groupHead_sorted b g) he) hn]
  refine areaNat_congr fun j hj => ?_
  rw [mget_groupArea_low (by omega), (groupRegions_regions h).mget_gap]
  intro r hr
  simp only [groupRegions, List.mem_cons, List.not_mem_nil, or_false] at hr
  rcases hr with rfl | rfl | rfl | rfl | rfl | rfl | rfl <;> dsimp only <;> omega

omit h in
/-- R54: no single field of the area of a group lies where its registers do. -/
theorem groupHead_clear (b : Block) (g : Group) {a : Nat} (ha : 0x60 ≤ a ∧ a < 0x420 ∨ 0x468 ≤ a) :
    mget 0 (areaPuts [] (groupHead b g)) a = 0 := by
  refine mget_areaPuts_out [] fun e he => ?_
  simp only [groupHead, List.mem_cons, List.not_mem_nil, or_false] at he
  rcases he with rfl | rfl | rfl | rfl | rfl | rfl | rfl | rfl | rfl | rfl | rfl | rfl | rfl | rfl <;>
    simp only [leBytes_length, slotBytes_length] <;> omega

/-- R54: a place of a region of a group's area holds what that region has put there. -/
theorem mget_groupRegion {lo hi : Nat} {l : List (Nat × List Byte)} (hm : (lo, hi, l) ∈ groupRegions b g) {a : Nat} (hlo : lo ≤ a)
    (hhi : a < hi) (hlow : hi ≤ 0x2D00) :
    mget 0 (groupArea b g) a = mget 0 (areaPuts (areaPuts [] (groupHead b g)) l) a := by
  rw [mget_groupArea_low (by omega), (groupRegions_regions h).mget_in _ hm hlo hhi]

/-- R54: a word of a register of a group is read back. -/
theorem areaNat_groupWords {β : Type} (d : β) {lo hi n k : Nat} {f : β → List Byte} {es : List (Nat × β)}
    (hm : (lo, hi, words lo n f es) ∈ groupRegions b g) (hes : (es.map (·.1)).Nodup) (hlen : ∀ x, (f x).length = n)
    (hd : leNat (f d) = 0) (hlo : 0x60 ≤ lo) (hk : lo + n * k + n ≤ hi) (hhi : hi ≤ 0x41C) :
    areaNat (groupArea b g) (lo + n * k) n = leNat (f (mget d es k)) := by
  rw [← areaNat_words (base := lo) (m := areaPuts [] (groupHead b g)) d hes (fun e _ => hlen e.2) hd fun j hj =>
    groupHead_clear b g (by omega)]
  exact areaNat_congr fun j hj => mget_groupRegion h hm (by omega) (by omega) (by omega)

/-- R55: of the area of a group a lane that is not released is read back, of one that is released zero. -/
theorem areaNat_groupLane (k : Nat) :
    areaNat (groupArea b g) (0x2D00 + 4 * k) 4 = leNat (leBytes 4 (mget 0 (keptLanes g.ctx) k).toNat) := by
  rw [groupArea_eq]
  refine areaNat_words (f := fun x : Lane => leBytes 4 x.toNat) 0 ?_ (fun _ _ => leBytes_length _ _) rfl fun j hj => ?_
  · exact h.vectors.sublist (List.filter_sublist.map _)
  · rw [(groupRegions_regions h).mget_gap, groupHead_clear b g (by omega)]
    intro r hr
    have hr2 : r.2.1 ≤ 0x2D00 := by
      simp only [groupRegions, List.mem_cons, List.not_mem_nil, or_false] at hr
      rcases hr with rfl | rfl | rfl | rfl | rfl | rfl | rfl <;> dsimp only <;> omega
    omega

omit h in
/-- A map without some of its keys. -/
theorem mget_filter_key {β : Type} (d : β) (p : Nat → Bool) (m : List (Nat × β)) (k : Nat) :
    mget d (m.filter fun e => p e.1) k = if p k then mget d m k else d := by
  induction m with
  | nil => simp [mget]
  | cons e t ih =>
    rw [List.filter_cons]
    by_cases hk : e.1 = k
    · rw [hk]
      cases hp : p k with
      | true => simp [mget, hk]
      | false => simpa [hp] using ih
    · split
      · rw [mget, if_neg hk, ih, mget, if_neg hk]
      · rw [ih, mget, if_neg hk]

/-! The reconvergence stack. -/

omit h in
/-- R54: a stack entry whose 32 bytes stand at a place. -/
theorem entryFrom_eq {m : List (Nat × Byte)} {off : Nat} {e : StackEntry}
    (hb : ∀ (j : Nat) (hj : j < (entryBytes e).length), mget 0 m (off + j) = (entryBytes e)[j]) :
    entryFrom m off = { e with tag := 0 } := by
  have hread (i n x : Nat) (hin : i + n ≤ 32) (hx : ((entryBytes e).drop i).take n = leBytes n x) :
      areaNat m (off + i) n = x % 256 ^ n := by
    rw [areaNat_of_bytes hb (by rw [entryBytes_length]; exact hin), hx, leNat_leBytes]
  have hsplit (x : Addr) : x.toNat % 2 ^ 64 % 256 ^ 8 + x.toNat / 2 ^ 64 % 256 ^ 1 * 2 ^ 64 = x.toNat := by
    have := x.isLt
    omega
  have hmask (x : BitVec 32) : BitVec.ofNat 32 (x.toNat % 256 ^ 4) = x := ofNat_toNat_mod (by decide) x
  unfold entryFrom
  rw [show areaNat m off 8 = _ from hread 0 8 (e.rejoin.toNat % 2 ^ 64) (by decide) rfl,
    hread 16 1 (e.rejoin.toNat / 2 ^ 64) (by decide) rfl, hread 8 8 (e.taken.toNat % 2 ^ 64) (by decide) rfl,
    hread 17 1 (e.taken.toNat / 2 ^ 64) (by decide) rfl, hread 20 4 e.pending.toNat (by decide) rfl,
    hread 24 4 e.exec.toNat (by decide) rfl, hread 28 4 e.fmt.toNat (by decide) rfl, hsplit, hsplit, hmask, hmask, hmask,
    BitVec.ofNat_toNat, BitVec.ofNat_toNat, BitVec.setWidth_eq, BitVec.setWidth_eq]

/-- R54: an entry of the stack of a group is read back, the oldest being 0. -/
theorem entryFrom_groupArea {i : Nat} (hi : i < g.ctx.stack.reverse.length) :
    entryFrom (groupArea b g) (0xD00 + 32 * i) = { g.ctx.stack.reverse[i] with tag := 0 } := by
  have hlen := h.stack
  rw [← List.length_reverse] at hlen
  refine entryFrom_eq fun j hj => ?_
  have hj32 := hj
  rw [entryBytes_length] at hj32
  rw [mget_groupRegion h (lo := 0xD00) (hi := 0x2D00) (l := words 0xD00 32 entryBytes (numbered g.ctx.stack.reverse))
    (by simp [groupRegions]) (by omega) (by omega) (by decide)]
  exact mget_words (e := (i, g.ctx.stack.reverse[i])) (numbered_nodup _) (fun e _ => entryBytes_length e.2) _
    (mem_numbered.mpr (List.getElem?_eq_getElem hi)) hj

/-- R54: the header of a group's area. -/
theorem areaNat_groupHeader : areaNat (groupArea b g) 0 16 = groupHeader b g := by
  rw [areaNat_groupHead h (N := 16) (x := groupHeader b g) (by simp [groupHead]) (by decide) (by decide)]
  have hr := h.regs
  have hs := h.stack
  refine Nat.mod_eq_of_lt ?_
  unfold groupHeader
  split <;> split <;> omega

theorem groupHeader_stack : groupHeader b g / 2 ^ 16 % 2 ^ 9 = g.ctx.stack.length := by
  have hr := h.regs
  have hs := h.stack
  unfold groupHeader
  split <;> split <;> omega

theorem groupHeader_handler : decide (groupHeader b g / 2 ^ 32 % 2 = 1) = g.ctx.handler := by
  have hr := h.regs
  have hs := h.stack
  unfold groupHeader
  cases hh : g.ctx.handler
  · rw [decide_eq_false]
    rw [if_neg Bool.false_ne_true]
    split <;> omega
  · rw [decide_eq_true]
    rw [if_pos rfl]
    split <;> omega

/-- R54: the stack of a group is read back, of which those beyond the newest 16 never left. -/
theorem shown_stackFrom {old : List StackEntry} (ho : old = g.ctx.stack ∨ old.length ≤ 16) :
    shown (stackFrom (groupArea b g) g.ctx.stack.length old) = shown g.ctx.stack := by
  unfold shown stackFrom
  rw [List.map_reverse, ← List.reverse_reverse g.ctx.stack, List.map_reverse (l := g.ctx.stack.reverse), List.reverse_reverse]
  refine congrArg List.reverse (List.ext_getElem (by simp) fun i hi hi' => ?_)
  rw [List.length_map] at hi'
  simp only [List.getElem_map, List.getElem_range]
  have hentry := entryFrom_groupArea h hi'
  rcases ho with rfl | ho
  · cases hd : (g.ctx.stack.drop 16).reverse[i]? with
    | none => rw [Option.getD_none, hentry]
    | some e =>
      obtain ⟨hlt, rfl⟩ := List.getElem?_eq_some_iff.mp hd
      rw [Option.getD_some]
      rw [List.length_reverse, List.length_drop] at hlt
      rw [List.length_reverse] at hi'
      have hplace : 16 + (g.ctx.stack.length - 16 - 1 - i) = g.ctx.stack.length - 1 - i := by omega
      simp only [List.getElem_reverse, List.getElem_drop, List.length_drop, hplace]
  · rw [List.drop_eq_nil_of_le ho, List.reverse_nil, List.getElem?_nil, Option.getD_none, hentry]

end

end Sys2Proof.Machine
end

section
/-! PROOFS. A group is restored as it was saved (R54, R55, R221). -/

namespace Sys2Proof.Machine

section

variable {b : Block} {g : Group} (h : GroupFits b g) (g0 : Group)
include h

/-- R54: a register of 32, 64 or 72 bits of a group's area. -/
theorem ofNat_groupHead {w off N n : Nat} {x : BitVec w} (he : (off, leBytes N x.toNat) ∈ groupHead b g) (hn : n ≤ N)
    (hgap : off + n ≤ 0x60 ∨ 0x41C ≤ off ∧ off + n ≤ 0x500) (hw : 2 ^ w ≤ 256 ^ n) :
    BitVec.ofNat w (areaNat (groupArea b g) off n) = x := by
  rw [areaNat_groupHead h he hn hgap, ofNat_toNat_mod hw]

/-- R54: a register of a register file of a group's area. -/
theorem ofNat_groupWords {w lo hi n k count : Nat} {es : List (Nat × BitVec w)}
    (hm : (lo, hi, words lo n (fun x => leBytes n x.toNat) es) ∈ groupRegions b g) (hes : (es.map (·.1)).Nodup)
    (hlo : 0x60 ≤ lo) (hhi : hi ≤ 0x41C) (hn : 0 < n) (hw : 2 ^ w ≤ 256 ^ n) (hk : k < count) (hin : lo + n * k + n ≤ hi) :
    mget 0 ((areaWords (groupArea b g) lo n count).map fun e => (e.1, BitVec.ofNat w e.2)) k = mget 0 es k := by
  have hzero : leNat (leBytes n (0 : BitVec w).toNat) = 0 := by simp [leNat_leBytes]
  rw [mget_areaWords 0 (fun _ x => BitVec.ofNat w x) _ rfl hn hk,
    areaNat_groupWords h 0 hm hes (fun x => leBytes_length n x.toNat) hzero hlo hin hhi, ofNat_leNat_leBytes hw]

/-- R54: a mask of a group's area. -/
theorem mget_groupMask {off N n k : Nat} {l : List (Nat × Bool)} (he : (off, leBytes N (bitsNat l)) ∈ groupHead b g)
    (hgap : off + N ≤ 0x60 ∨ 0x41C ≤ off ∧ off + N ≤ 0x500) (hl : KeysBelow n l) (hn : 2 ^ n ≤ 256 ^ N) :
    mget false (natBits n (areaNat (groupArea b g) off N)) k = mget false l k := by
  rw [areaNat_groupHead h he (Nat.le_refl N) hgap, mget_natBits_mod hn hl]

/-- R54, R55: the release mask of a group. -/
theorem groupFrom_released (regs r : Nat) : (groupFrom (groupArea b g) regs g0).ctx.isReleased r = g.ctx.isReleased r :=
  mget_groupMask h (off := 0x420) (N := 32) (n := 256) (l := g.ctx.released) (by simp [groupHead]) (by decide) h.masks.1
    (by decide)

/-- R55: the lanes of a group: those that are not released, and zero for the others. -/
theorem groupFrom_lane {r l : Nat} (hr : r < b.regs) (hl : l < 32) :
    (groupFrom (groupArea b g) b.regs g0).ctx.lane r l = if g.ctx.isReleased r then 0 else g.ctx.lane r l := by
  have hkey : (32 * r + l) / 32 = r := by omega
  refine (mget_areaWords 0 (fun _ x => BitVec.ofNat 32 x) _ rfl (by decide) (by omega)).trans ?_
  rw [areaNat_groupLane h, ofNat_leNat_leBytes (by decide)]
  refine (mget_filter_key 0 (fun k => !g.ctx.isReleased (k / 32)) g.ctx.v (32 * r + l)).trans ?_
  rw [hkey]
  cases g.ctx.isReleased r <;> rfl

/-- R55: a lane of a released register is without poison. -/
theorem groupFrom_poison {r l : Nat} (hl : l < 32) (hr : g.ctx.isReleased r = true) :
    mget false (groupFrom (groupArea b g) b.regs g0).poisonV (32 * r + l) = false := by
  have hkey : (32 * r + l) / 32 = r := by omega
  have hmask : mget false (natBits 256 (areaNat (groupArea b g) 0x420 32)) r = true :=
    (groupFrom_released h g0 b.regs r).trans hr
  refine (mget_filter_key false (fun k => !mget false (natBits 256 (areaNat (groupArea b g) 0x420 32)) (k / 32)) g0.poisonV
    (32 * r + l)).trans ?_
  rw [hkey, hmask]
  rfl

theorem groupFrom_readS {k : Nat} (hk : k < 64) : (groupFrom (groupArea b g) b.regs g0).ctx.readS k = g.ctx.readS k := by
  unfold Ctx.readS
  split
  · rfl
  · exact ofNat_groupWords h (lo := 0x100) (hi := 0x300) (es := g.ctx.s) (by simp [groupRegions]) h.scalars.1 (by decide)
      (by decide) (by decide) (by decide) hk (by omega)

theorem groupFrom_readA {k : Nat} (hk : k < 16) : (groupFrom (groupArea b g) b.regs g0).ctx.readA k = g.ctx.readA k :=
  ofNat_groupWords h (lo := 0x300) (hi := 0x400) (n := 16) (es := g.ctx.a) (by simp only [groupRegions, List.mem_cons]; tauto)
    h.pointers.1 (by decide) (by decide) (by decide) (by decide) hk (by omega)

theorem groupFrom_readP {k : Nat} (hk : k < 8) : (groupFrom (groupArea b g) b.regs g0).ctx.readP k = g.ctx.readP k := by
  unfold Ctx.readP
  split
  · rfl
  · exact ofNat_groupWords h (lo := 0x400) (hi := 0x41C) (es := g.ctx.p) (by simp [groupRegions]) h.predicates.1 (by decide)
      (by decide) (by decide) (by decide) (by omega) (by omega)

theorem groupFrom_readC (k : Nat) : (groupFrom (groupArea b g) b.regs g0).ctx.readC k = g.ctx.readC k := by
  unfold Ctx.readC
  split
  · rfl
  · exact mget_groupMask h (off := 0x28) (N := 1) (n := 7) (l := g.ctx.c) (by simp [groupHead]) (by decide) h.conditions
      (by decide)

theorem groupFrom_pmc {k : Nat} (hk : k < 16) : mget 0 (groupFrom (groupArea b g) b.regs g0).pmc k = mget 0 g.pmc k :=
  ofNat_groupWords h (lo := 0x80) (hi := 0x100) (es := g.pmc) (by simp [groupRegions]) h.counters.2.1 (by decide)
    (by decide) (by decide) (by decide) hk (by omega)

theorem groupFrom_stack (ho : g0.ctx.stack = g.ctx.stack ∨ g0.ctx.stack.length ≤ 16) :
    shown (groupFrom (groupArea b g) b.regs g0).ctx.stack = shown g.ctx.stack := by
  show shown (stackFrom (groupArea b g) (areaNat (groupArea b g) 0 16 / 2 ^ 16 % 2 ^ 9) g0.ctx.stack) = _
  rw [areaNat_groupHeader h, groupHeader_stack h, shown_stackFrom h ho]

/-- R54, R55, R221: what is read back of the area of a group is what it held. -/
theorem groupFrom_groupArea :
    let u := groupFrom (groupArea b g) b.regs g0
    let c := u.ctx
    let d := g.ctx
    c.pc = d.pc ∧ c.exec = d.exec ∧ c.fmt = d.fmt ∧ c.status = d.status ∧ c.gang = d.gang ∧ c.handler = d.handler ∧
    c.trapInfo = d.trapInfo ∧ c.trapPc = d.trapPc ∧ c.trapVa = d.trapVa ∧ c.trapVah = d.trapVah ∧
    (g0.ctx.stack = d.stack ∨ g0.ctx.stack.length ≤ 16 → shown c.stack = shown d.stack) ∧
    (∀ k < 64, c.readS k = d.readS k) ∧ (∀ k < 16, c.readA k = d.readA k) ∧
    (∀ k < 8, c.readP k = d.readP k ∧ c.readC k = d.readC k) ∧ (∀ k < 16, mget 0 u.pmc k = mget 0 g.pmc k) ∧
    (∀ r < 256, c.isReleased r = d.isReleased r ∧ mget false c.fillPend r = mget false d.fillPend r) ∧
    (∀ r < 256, ∀ l < 32, d.isReleased r = true → mget false u.poisonV (32 * r + l) = false) ∧
    ∀ r < b.regs, ∀ l < 32, c.lane r l = if d.isReleased r then 0 else d.lane r l := by
  refine ⟨?_, ?_, ?_, ?_, ?_, ?_, ?_, ?_, ?_, ?_, fun ho => groupFrom_stack h g0 ho, fun k hk => groupFrom_readS h g0 hk,
    fun k hk => groupFrom_readA h g0 hk, fun k hk => ⟨groupFrom_readP h g0 hk, groupFrom_readC h g0 k⟩,
    fun k hk => groupFrom_pmc h g0 hk, fun r _ => ⟨groupFrom_released h g0 b.regs r, ?_⟩,
    fun r _ l hl hr => groupFrom_poison h g0 hl hr, fun r hr l hl => groupFrom_lane h g0 hr hl⟩
  · exact ofNat_groupHead h (off := 0x10) (N := 16) (n := 9) (x := g.ctx.pc)
      (by simp only [groupHead, List.mem_cons]; exact .inr (.inl rfl)) (by decide) (by decide) (by decide)
  · exact ofNat_groupHead h (off := 0x20) (x := g.ctx.exec) (by simp [groupHead]) (Nat.le_refl 4) (by decide) (by decide)
  · exact ofNat_groupHead h (off := 0x24) (x := g.ctx.fmt) (by simp [groupHead]) (Nat.le_refl 4) (by decide) (by decide)
  · exact ofNat_groupHead h (off := 0x30) (x := g.ctx.status) (by simp [groupHead]) (Nat.le_refl 8) (by decide) (by decide)
  · exact ofNat_groupHead h (off := 0x38) (x := g.ctx.gang) (by simp [groupHead]) (Nat.le_refl 8) (by decide) (by decide)
  · show decide (areaNat (groupArea b g) 0 16 / 2 ^ 32 % 2 = 1) = g.ctx.handler
    rw [areaNat_groupHeader h, groupHeader_handler h]
  · exact ofNat_groupHead h (off := 0x40) (x := g.ctx.trapInfo) (by simp [groupHead]) (Nat.le_refl 8) (by decide) (by decide)
  · exact ofNat_groupHead h (off := 0x48) (x := g.ctx.trapPc) (by simp [groupHead]) (Nat.le_refl 8) (by decide) (by decide)
  · exact ofNat_groupHead h (off := 0x50) (x := g.ctx.trapVa) (by simp [groupHead]) (Nat.le_refl 8) (by decide) (by decide)
  · exact ofNat_groupHead h (off := 0x58) (x := g.ctx.trapVah) (by simp [groupHead]) (Nat.le_refl 8) (by decide) (by decide)
  · exact mget_groupMask h (off := 0x440) (N := 32) (n := 256) (l := g.ctx.fillPend) (by simp [groupHead]) (by decide)
      h.masks.2 (by decide)

end

end Sys2Proof.Machine
end

section
/-! PROOFS. What is read back of the context area of a block (R220, R221), and the regions of its furrows (R92, R94). -/

namespace Sys2Proof.Machine

/-- R220: the single fields of the area of a block. -/
def blockHead (b : Block) (exited : Nat) : List (Nat × List Byte) :=
  [(0, leBytes 8 (blockHeader b)), (0x8, leBytes 4 exited), (0xC, leBytes 4 b.cmds.length), (0x10, leBytes 8 (lsmodeRead b)),
    (0x18, leBytes 8 (b.frame.getD (2 ^ 64 - 1)))]

/-- R220: the latch entries of the span in the area of a block, and the arrivals at them of the blocks of the span. -/
def spanLatches (b : Block) (span : List Block) : List (Nat × List Byte) :=
  (b.slatch.map fun e => (0x110 + 48 * e.1, leBytes 8 e.2.seq.toNat ++ firstBytes e.2)) ++
    span.flatMap fun x => x.slatch.map fun e => (0x100 + 48 * e.1 + 4 * x.spanPos.toNat, leBytes 4 e.2.arrived.toNat)

/-- R220: the regions of the area of a block below its local store. -/
def blockRegions (b : Block) (exited : Nat) (span : List Block) : List (Nat × Nat × List (Nat × List Byte)) :=
  [(0, 0x20, blockHead b exited), (0x20, 0x60, words 0x20 4 (fun x => leBytes 4 x.toNat) b.bar),
    (0x60, 0x70, words 0x60 4 (fun x => leBytes 4 x.toNat) b.sbar),
    (0x80, 0x100, words 0x80 32 (fun x => leBytes 4 x.arrived.toNat ++ leBytes 4 x.seq.toNat ++ firstBytes x) b.latch),
    (0x100, 0x1C0, spanLatches b span), (0x1C0, 0x1FC, words 0x1C0 4 (fun x => leBytes 4 x.length) b.fifo),
    (0x200, 0x400, words 0x200 2 (fun x => leBytes 2 x.toNat) b.gens),
    (accBase, lsBase b, words accBase 4 (fun x => leBytes 4 x.toNat) b.acc)]

/-- R220: the local store in the area of a block. -/
def storeFields (b : Block) : List (Nat × List Byte) := words (lsBase b) 1 (fun x => [x]) b.scratch

/-- R220: the FIFO banks in the area of a block. -/
def bankFields (b : Block) : List (Nat × List Byte) := b.fifo.flatMap fun e => fifoFields (lsBase b + 32768 * e.1) e.2

/-- R220: the area of a block is made of the regions of its furrows, its own regions, its local store and its commands. -/
theorem blockArea_eq (b : Block) (exited : Nat) (span : List Block) (old : List (Nat × Byte)) :
    blockArea b exited span old =
      areaPuts (areaPuts (areaPuts (areaPuts (furrowBytes b old) (regionFields (blockRegions b exited span))) (storeFields b))
        (bankFields b)) [(engBase b, b.cmds.flatMap cmdRecord)] := by
  rw [← areaPuts_append, ← areaPuts_append, ← areaPuts_append]
  unfold blockArea
  refine congrArg (areaPuts (furrowBytes b old)) ?_
  simp only [regionFields, blockRegions, blockFields, blockHead, spanLatches, storeFields, bankFields, words, List.flatMap_cons,
    List.flatMap_nil, List.append_nil, List.append_assoc, Nat.one_mul, List.cons_append, List.nil_append]
  cases b.frame <;> rfl

theorem firstBytes_length (x : Latch) : (firstBytes x).length = 16 := by
  unfold firstBytes
  split
  · simp
  · exact leBytes_length 16 0

theorem accBase_le_lsBase (b : Block) : accBase ≤ lsBase b := Nat.le_add_right _ _

/-- R220: what is kept of a block's area with its furrows lies in the regions of these. -/
theorem mget_furrowBytes_out {b : Block} {old : List (Nat × Byte)} {a : Nat} (ha : a < 0x1000 ∨ accBase ≤ a) :
    mget 0 (furrowBytes b old) a = 0 := by
  refine mget_of_not_mem 0 fun e he heq => ?_
  obtain ⟨-, hk⟩ := List.mem_filter.mp he
  obtain ⟨x, -, hx⟩ := List.any_eq_true.mp hk
  have hpart : areaPart 32 e.1 = 0 := by
    unfold areaPart
    exact if_neg fun h => by simp only [accBase] at ha; omega
  rw [hpart] at hx
  have := beq_iff_eq.mp hx
  omega

/-- R92, R94: the region of a furrow that is kept with its block. -/
theorem mget_furrowBytes_kept {b : Block} {old : List (Nat × Byte)} {p o : Nat} (hf : ∃ f, (p, f) ∈ b.furrows) (hp : p < 4)
    (hlo : furrowBase p ≤ o) (hhi : o < furrowBase (p + 1)) : mget 0 (furrowBytes b old) o = mget 0 old o := by
  obtain ⟨f, hf⟩ := hf
  unfold furrowBase at hlo hhi
  have hpart : areaPart 32 o = 1 + p := by
    unfold areaPart
    rw [if_pos (by omega)]
    omega
  refine (mget_filter_key 0 (fun k => b.furrows.any fun x => areaPart 32 k == 1 + x.1) old o).trans (if_pos ?_)
  exact List.any_eq_true.mpr ⟨_, hf, by rw [hpart]; exact beq_self_eq_true _⟩

theorem mwf_filter {β : Type} [DecidableEq β] (d : β) (p : Nat × β → Bool) {m : List (Nat × β)} (h : mwf d m = true) :
    mwf d (m.filter p) = true := by
  induction m with
  | nil => rfl
  | cons e t ih =>
    obtain ⟨hd, hlt, ht⟩ := (mwf_cons d e.1 e.2 t).mp h
    rw [List.filter_cons]
    split
    · exact (mwf_cons d e.1 e.2 _).mpr ⟨hd, fun x hx => hlt x (List.mem_filter.mp hx).1, ih ht⟩
    · exact ih ht

theorem mwf_areaPuts {m : List (Nat × Byte)} (h : mwf 0 m = true) (l : List (Nat × List Byte)) :
    mwf 0 (areaPuts m l) = true := by
  have hput (m : List (Nat × Byte)) (hm : mwf 0 m = true) (bs : List Byte) (off : Nat) : mwf 0 (areaPut m off bs) = true := by
    unfold areaPut
    induction bs generalizing m off with
    | nil => exact hm
    | cons x t ih => exact ih _ (mwf_mset 0 m off x hm) _
  exact List.foldlRecOn l _ (motive := fun m => mwf 0 m = true) h fun m hm e _ => hput m hm e.2 e.1

/-- Of a map in canonical form every entry reads back, and none as the default. -/
theorem mget_of_mwf {β : Type} [DecidableEq β] (d : β) {m : List (Nat × β)} (h : mwf d m = true) {k : Nat} {v : β}
    (hm : (k, v) ∈ m) : mget d m k = v ∧ v ≠ d := by
  induction m with
  | nil => cases hm
  | cons e t ih =>
    obtain ⟨hd, hlt, ht⟩ := (mwf_cons d e.1 e.2 t).mp h
    rcases List.mem_cons.mp hm with heq | hm
    · rw [← heq] at hd ⊢
      exact ⟨if_pos rfl, hd⟩
    · have hk := hlt _ hm
      dsimp only at hk
      rw [mget, if_neg (by omega)]
      exact ih ht hm

/-- A part of a map read from its first key on. -/
theorem mget_shift {β : Type} (d : β) (m : List (Nat × β)) {lo hi a : Nat} (ha : lo + a < hi) :
    mget d ((m.filter fun e => decide (lo ≤ e.1) && decide (e.1 < hi)).map fun e => (e.1 - lo, e.2)) a = mget d m (lo + a) := by
  induction m with
  | nil => rfl
  | cons e t ih =>
    rw [List.filter_cons]
    by_cases hk : e.1 = lo + a
    · rw [if_pos (by simp only [Bool.and_eq_true, decide_eq_true_eq]; omega), List.map_cons, mget, mget, if_pos (by omega),
        if_pos hk]
    · rw [mget, if_neg hk]
      split
      next hin =>
        simp only [Bool.and_eq_true, decide_eq_true_eq] at hin
        rw [List.map_cons, mget, if_neg (by omega), ih]
      next => exact ih

section

variable {b : Block} {span : List Block} (h : BlockFits b span) (exited : Nat)
include h

/-- R220: the regions of a block's area lie apart, in their order. -/
theorem blockRegions_regions : Regions (blockRegions b exited span) := by
  have hacc := accBase_le_lsBase b
  refine ⟨by simp [blockRegions, accBase], fun x hx => ?_⟩
  simp only [blockRegions, List.mem_cons, List.not_mem_nil, or_false] at hx
  rcases hx with rfl | rfl | rfl | rfl | rfl | rfl | rfl | rfl <;> dsimp only
  · refine ⟨by decide, fun e he => ?_⟩
    simp only [blockHead, List.mem_cons, List.not_mem_nil, or_false] at he
    rcases he with rfl | rfl | rfl | rfl | rfl <;> simp only [leBytes_length] <;> omega
  · exact words_region (fun _ => leBytes_length _ _) h.barriers.1.2 (by decide)
  · exact words_region (fun _ => leBytes_length _ _) h.barriers.2.2 (by decide)
  · refine ⟨by decide, words_within (fun e _ => ?_) h.latches.1.2 (by decide)⟩
    simp [firstBytes_length]
  · refine ⟨by decide, Within.append (fun x hx => ?_) fun x hx => ?_⟩
    · obtain ⟨e, he, rfl⟩ := List.mem_map.mp hx
      have hk := (h.latches.2 b List.mem_cons_self).2 e he
      simp only [List.length_append, leBytes_length, firstBytes_length]
      omega
    · obtain ⟨y, hy, hx⟩ := List.mem_flatMap.mp hx
      obtain ⟨e, he, rfl⟩ := List.mem_map.mp hx
      have hk := (h.latches.2 y (List.mem_cons_of_mem b hy)).2 e he
      have hpos := y.spanPos.isLt
      simp only [leBytes_length]
      omega
  · exact words_region (fun _ => leBytes_length _ _) h.fifos.1.2 (by decide)
  · exact words_region (fun _ => leBytes_length _ _) h.generations.2 (by decide)
  · refine words_region (fun _ => leBytes_length _ _) h.rows.2 ?_
    unfold lsBase
    omega

/-- R220: where the entries of a FIFO bank stand. -/
theorem mem_bankFields {y : Nat × List Byte} (hy : y ∈ bankFields b) :
    ∃ k L j row l x, (k, L) ∈ b.fifo ∧ L[j]? = some row ∧ row[l]? = some x ∧ j < 256 ∧ l < 32 ∧
      y = (lsBase b + 32768 * k + 128 * j + 4 * l, leBytes 4 x.toNat) := by
  obtain ⟨e, he, hy⟩ := List.mem_flatMap.mp hy
  obtain ⟨r, hr, hy⟩ := List.mem_flatMap.mp hy
  obtain ⟨w, hw, rfl⟩ := List.mem_map.mp hy
  have hrow := List.mk_mem_zipIdx_iff_getElem?.mp (show (r.1, r.2) ∈ e.2.zipIdx from hr)
  have hword := List.mk_mem_zipIdx_iff_getElem?.mp (show (w.1, w.2) ∈ r.1.zipIdx from hw)
  obtain ⟨hlen, hrows⟩ := h.fifos.2 e he
  obtain ⟨hj, -⟩ := List.getElem?_eq_some_iff.mp hrow
  obtain ⟨hl, -⟩ := List.getElem?_eq_some_iff.mp hword
  rw [hrows r.1 (List.mem_of_getElem? hrow)] at hl
  exact ⟨e.1, e.2, r.2, r.1, w.2, w.1, he, hrow, hword, by omega, hl, rfl⟩

omit h in
/-- R220: below the local store. -/
theorem mget_blockArea_low {old : List (Nat × Byte)} {a : Nat} (ha : a < lsBase b) :
    mget 0 (blockArea b exited span old) a = mget 0 (areaPuts (furrowBytes b old) (regionFields (blockRegions b exited span))) a := by
  rw [blockArea_eq, mget_areaPuts_below, mget_areaPuts_below, mget_areaPuts_below]
  · intro e he
    obtain ⟨x, _, rfl⟩ := List.mem_map.mp he
    dsimp only
    omega
  · intro e he
    obtain ⟨x, _, he⟩ := List.mem_flatMap.mp he
    obtain ⟨r, _, he⟩ := List.mem_flatMap.mp he
    obtain ⟨w, _, rfl⟩ := List.mem_map.mp he
    dsimp only
    omega
  · intro e he
    rw [List.mem_singleton] at he
    subst he
    unfold engBase
    dsimp only
    omega

/-- R92, R94: a save leaves the regions of the furrows that are kept with the block. -/
theorem mget_blockArea_furrow {old : List (Nat × Byte)} {p o : Nat} (hf : ∃ f, (p, f) ∈ b.furrows) (hp : p < 4)
    (hlo : furrowBase p ≤ o) (hhi : o < furrowBase (p + 1)) : mget 0 (blockArea b exited span old) o = mget 0 old o := by
  have hacc := accBase_le_lsBase b
  have hrange : 0x1000 ≤ o ∧ o < accBase := by
    unfold furrowBase at hlo hhi
    unfold accBase
    omega
  rw [mget_blockArea_low exited (by omega), (blockRegions_regions h exited).mget_gap, mget_furrowBytes_kept hf hp hlo hhi]
  intro x hx
  simp only [blockRegions, List.mem_cons, List.not_mem_nil, or_false] at hx
  rcases hx with rfl | rfl | rfl | rfl | rfl | rfl | rfl | rfl <;> dsimp only <;> omega

/-- R220: a word of a region of a block's area, where no furrow stands, is read back. -/
theorem areaNat_blockWords {β : Type} (d : β) {old : List (Nat × Byte)} {lo hi n k : Nat} {f : β → List Byte}
    {es : List (Nat × β)} (hm : (lo, hi, words lo n f es) ∈ blockRegions b exited span) (hes : (es.map (·.1)).Nodup)
    (hlen : ∀ x, (f x).length = n) (hd : leNat (f d) = 0) (hk : lo + n * k + n ≤ hi) (hlow : hi ≤ 0x1000 ∨ accBase ≤ lo)
    (hhi : hi ≤ lsBase b) : areaNat (blockArea b exited span old) (lo + n * k) n = leNat (f (mget d es k)) := by
  rw [← areaNat_words (base := lo) (m := furrowBytes b old) d hes (fun e _ => hlen e.2) hd fun j hj =>
    mget_furrowBytes_out (by omega)]
  refine areaNat_congr fun j hj => ?_
  rw [mget_blockArea_low exited (by omega), (blockRegions_regions h exited).mget_in _ hm (by omega) (by omega)]

omit h in
/-- R220, R221: what a restore reads back of the rows, the FIFO banks and the local store of a block. -/
theorem blockFrom_acc_eq (m m0 : List (Nat × Byte)) :
    (blockFrom m m0 b).acc = (areaWords m accBase 4 (128 * b.accrows)).map fun e => (e.1, BitVec.ofNat 32 e.2) := rfl

omit h in
theorem blockFrom_fifo_eq (m m0 : List (Nat × Byte)) :
    (blockFrom m m0 b).fifo = (areaWords m 0x1C0 4 15).map fun e => (e.1, fifoFrom m b e.1 e.2) := rfl

omit h in
theorem blockFrom_scratch_eq (m m0 : List (Nat × Byte)) :
    (blockFrom m m0 b).scratch =
      ((m.filter fun e => decide (lsBase b ≤ e.1) && decide (e.1 < engBase b)).map fun e => (e.1 - lsBase b, e.2)).filter
        fun e => !(areaWords m 0x1C0 4 15).any fun x => x.1 == e.1 / 32768 := rfl

/-- R220, R221: the accumulator rows of a block. -/
theorem blockFrom_acc {old m0 : List (Nat × Byte)} {k : Nat} (hk : k < 128 * b.accrows) :
    mget 0 (blockFrom (blockArea b exited span old) m0 b).acc k = mget 0 b.acc k := by
  rw [blockFrom_acc_eq, mget_areaWords 0 (fun _ x => BitVec.ofNat 32 x) _ rfl (by decide) hk,
    areaNat_blockWords h exited (hi := lsBase b) (f := fun x : Lane => leBytes 4 x.toNat) (es := b.acc) 0
    (by simp [blockRegions]) h.rows.1 (fun _ => leBytes_length _ _) rfl (by unfold lsBase; omega) (.inr (Nat.le_refl _))
    (Nat.le_refl _), ofNat_leNat_leBytes (by decide)]

/-- R300: a FIFO bank holds at most 256 entries of 32 words. -/
theorem fifoOf_fits (k : Nat) : (fifoOf b k).length ≤ 256 ∧ ∀ x ∈ fifoOf b k, x.length = 32 := by
  by_cases hin : ∃ e ∈ b.fifo, e.1 = k
  · obtain ⟨e, he, rfl⟩ := hin
    rw [fifoOf, mget_eq_of_mem [] h.fifos.1.1 he]
    exact h.fifos.2 e he
  · rw [fifoOf, mget_of_not_mem [] fun e he heq => hin ⟨e, he, heq⟩]
    exact ⟨Nat.zero_le _, nofun⟩

/-- R220: how many entries a FIFO bank holds. -/
theorem areaNat_fifoLength {old : List (Nat × Byte)} {k : Nat} (hk : k < 15) :
    areaNat (blockArea b exited span old) (0x1C0 + 4 * k) 4 = (fifoOf b k).length := by
  have hlen : (fifoOf b k).length < 256 ^ 4 := Nat.lt_of_le_of_lt (fifoOf_fits h k).1 (by decide)
  have hacc := accBase_le_lsBase b
  rw [areaNat_blockWords h exited (hi := 0x1FC) (f := fun x : List (List Lane) => leBytes 4 x.length) (es := b.fifo) []
    (by simp [blockRegions]) h.fifos.1.1 (fun _ => leBytes_length _ _) rfl (by omega) (.inl (by decide))
    (by unfold accBase at hacc; omega), leNat_leBytes]
  exact Nat.mod_eq_of_lt hlen

omit h in
theorem engBase_eq : engBase b = lsBase b + b.lstore * 32768 := rfl

/-- R220: a lane of an entry of a FIFO bank is read back. -/
theorem areaNat_bank {old : List (Nat × Byte)} {k j l : Nat} {row : List Lane} {x : Lane} (hk : k < b.lstore)
    (hrow : (fifoOf b k)[j]? = some row) (hx : row[l]? = some x) :
    areaNat (blockArea b exited span old) (lsBase b + 32768 * k + 128 * j + 4 * l) 4 = x.toNat := by
  obtain ⟨e, he, rfl, heq⟩ : ∃ e ∈ b.fifo, e.1 = k ∧ e.2 = fifoOf b k := by
    by_contra hno
    have hnone : fifoOf b k = [] := mget_of_not_mem [] fun e he hek =>
      hno ⟨e, he, hek, by rw [fifoOf, ← hek, mget_eq_of_mem [] h.fifos.1.1 he]⟩
    rw [hnone] at hrow
    cases hrow
  rw [← heq] at hrow
  have hmem : (lsBase b + 32768 * e.1 + 128 * j + 4 * l, leBytes 4 x.toNat) ∈ bankFields b :=
    List.mem_flatMap.mpr ⟨e, he, List.mem_flatMap.mpr ⟨(row, j), List.mk_mem_zipIdx_iff_getElem?.mpr hrow,
      List.mem_map.mpr ⟨(x, l), List.mk_mem_zipIdx_iff_getElem?.mpr hx, rfl⟩⟩⟩
  have hrows := (h.fifos.2 e he).2 row (List.mem_of_getElem? hrow)
  obtain ⟨hj, -⟩ := List.getElem?_eq_some_iff.mp hrow
  obtain ⟨hl, -⟩ := List.getElem?_eq_some_iff.mp hx
  have hjlen := (h.fifos.2 e he).1
  have heng := engBase_eq (b := b)
  rw [← Nat.mod_eq_of_lt (a := x.toNat) (b := 256 ^ 4) (Nat.lt_of_lt_of_le x.isLt (by decide)),
    ← areaNat_areaPuts_number (areaPuts (areaPuts (furrowBytes b old) (regionFields (blockRegions b exited span))) (storeFields b))
      hmem (fun y hy => ?_) (Nat.le_refl 4)]
  · refine areaNat_congr fun i hi => ?_
    rw [blockArea_eq]
    refine mget_areaPuts_below _ fun y hy => ?_
    rw [List.mem_singleton] at hy
    subst hy
    dsimp only
    omega
  · obtain ⟨k', L', j', row', l', x', hL, hrow', hx', hj', hl', rfl⟩ := mem_bankFields h hy
    by_cases hsame : k' = e.1 ∧ j' = j ∧ l' = l
    · obtain ⟨rfl, rfl, rfl⟩ := hsame
      have hLe : L' = e.2 := by
        rw [← mget_eq_of_mem [] h.fifos.1.1 he]
        exact (mget_eq_of_mem [] h.fifos.1.1 hL).symm
      rw [hLe, hrow, Option.some_inj] at hrow'
      rw [← hrow', hx, Option.some_inj] at hx'
      exact .inl (by rw [hx'])
    · simp only [leBytes_length]
      omega

/-- R220, R221: the FIFO banks of a block. -/
theorem blockFrom_fifo {old m0 : List (Nat × Byte)} {k : Nat} (hk : k < b.lstore) :
    fifoOf (blockFrom (blockArea b exited span old) m0 b) k = fifoOf b k := by
  have hk15 : k < 15 := Nat.lt_of_lt_of_le hk h.store.2
  rw [fifoOf, blockFrom_fifo_eq, mget_areaWords [] (fun i n => fifoFrom (blockArea b exited span old) b i n) _ rfl (by decide) hk15,
    areaNat_fifoLength h exited hk15]
  unfold fifoFrom
  refine List.ext_getElem (by simp) fun j _ hj => ?_
  rw [List.getElem_map, List.getElem_range]
  have hrow := List.getElem?_eq_getElem hj
  have hlen : (fifoOf b k)[j].length = 32 := (fifoOf_fits h k).2 _ (List.getElem_mem hj)
  refine List.ext_getElem (by rw [List.length_map, List.length_range, hlen]) fun l _ hl => ?_
  rw [List.getElem_map, List.getElem_range, areaNat_bank h exited hk hrow (List.getElem?_eq_getElem hl), BitVec.ofNat_toNat,
    BitVec.setWidth_eq]

/-- R220: a byte of the local store of a block, of a bank without FIFO entries. -/
theorem mget_blockArea_scratch {old : List (Nat × Byte)} {a : Nat} (ha : a < 32768 * b.lstore)
    (hf : fifoOf b (a / 32768) = []) : mget 0 (blockArea b exited span old) (lsBase b + a) = mget 0 b.scratch a := by
  have heng := engBase_eq (b := b)
  have hacc := accBase_le_lsBase b
  rw [blockArea_eq, mget_areaPuts_below, mget_areaPuts_out]
  · have hbase (j : Nat) : mget 0 (areaPuts (furrowBytes b old) (regionFields (blockRegions b exited span)))
        (lsBase b + 1 * a + j) = 0 := by
      rw [(blockRegions_regions h exited).mget_gap, mget_furrowBytes_out (by omega)]
      intro x hx
      simp only [blockRegions, List.mem_cons, List.not_mem_nil, or_false] at hx
      unfold accBase at hacc
      rcases hx with rfl | rfl | rfl | rfl | rfl | rfl | rfl | rfl <;> dsimp only <;> omega
    have hword := areaNat_words (base := lsBase b) (n := 1) (f := fun x : Byte => [x]) 0 h.store.1.1 (fun _ _ => rfl) rfl
      (k := a) fun j _ => hbase j
    rw [Nat.one_mul] at hword
    refine BitVec.eq_of_toNat_eq ?_
    have hone (x : Byte) : leNat [x] = x.toNat := by simp [leNat]
    rw [← hone, ← hone]
    exact hword
  · intro y hy
    obtain ⟨k, L, j, row, l, x, hL, hrow, -, hj, hl, rfl⟩ := mem_bankFields h hy
    have hne : k ≠ a / 32768 := by
      rintro rfl
      rw [fifoOf, mget_eq_of_mem [] h.fifos.1.1 hL] at hf
      dsimp only at hf
      rw [hf] at hrow
      cases hrow
    simp only [leBytes_length]
    omega
  · intro e he
    rw [List.mem_singleton] at he
    subst he
    dsimp only
    omega

/-- R220, R221: the local store of a block, but for banks that are FIFOs. -/
theorem blockFrom_scratch {old m0 : List (Nat × Byte)} (hold : mwf 0 old = true) {a : Nat} (ha : a < 32768 * b.lstore)
    (hf : fifoOf b (a / 32768) = []) :
    mget 0 (blockFrom (blockArea b exited span old) m0 b).scratch a = mget 0 b.scratch a := by
  have hwf : mwf 0 (blockArea b exited span old) = true := mwf_areaPuts (mwf_filter 0 _ hold) _
  have hstore := h.store.2
  have hnot : ((areaWords (blockArea b exited span old) 0x1C0 4 15).any fun x => x.1 == a / 32768) = false := by
    rw [List.any_eq_false]
    intro x hx hxa
    obtain ⟨j, v, hj, hmem⟩ := mem_areaWords (by decide) hx
    rw [beq_iff_eq.mp hxa] at hmem
    obtain ⟨hget, hv⟩ := mget_of_mwf 0 hwf hmem
    have hzero := mget_of_areaNat_zero (n := 4)
      ((areaNat_fifoLength h exited (old := old) (k := a / 32768) (by omega)).trans (by rw [hf]; rfl)) hj
    exact hv (hget.symm.trans hzero)
  have heng := engBase_eq (b := b)
  rw [blockFrom_scratch_eq,
    mget_filter_key 0 (fun k => !(areaWords (blockArea b exited span old) 0x1C0 4 15).any fun x => x.1 == k / 32768), hnot,
    Bool.not_false, if_pos rfl, mget_shift 0 _ (by omega), mget_blockArea_scratch h exited ha hf]

end

end Sys2Proof.Machine
end

section
/-! PROOFS. Pre-emption: the victims stop (R203, R218). -/

namespace Sys2Proof.Machine

/-! Blocks found by number, and what queued operations of cubes leave of all blocks and groups. -/

/-- An update of blocks that leaves their numbers is found under the same number. -/
theorem find?_map_uid (l : List Block) {f : Block → Block} {uid : Nat} (hf : ∀ b ∈ l, (f b).uid = b.uid) :
    (l.map f).find? (fun b => b.uid == uid) = (l.find? fun b => b.uid == uid).map f := by
  induction l with
  | nil => rfl
  | cons b t ih =>
    rw [List.map_cons, List.find?_cons, List.find?_cons, hf b List.mem_cons_self]
    cases b.uid == uid with
    | true => rfl
    | false => exact ih fun x hx => hf x (List.mem_cons_of_mem b hx)

/-- A block that stands is found among the blocks. -/
theorem findBlk_found {s : State} {uid : Nat} (h : (findBlk s uid).phase ≠ .none) :
    (s.blk :: s.blks).find? (fun b => b.uid == uid) = some (findBlk s uid) := by
  unfold findBlk at h ⊢
  cases hf : (s.blk :: s.blks).find? fun b => b.uid == uid with
  | none =>
    rw [hf] at h
    exact absurd rfl h
  | some b => rfl

theorem updBlk_blocks (s : State) (uid : Nat) (f : Block → Block) :
    (updBlk s uid f).blk :: (updBlk s uid f).blks = (s.blk :: s.blks).map fun b => if b.uid == uid then f b else b := rfl

theorem updGroup_groups (s : State) (uid slot : Nat) (f : Group → Group) :
    (updGroup s uid slot f).g :: (updGroup s uid slot f).groups =
      (s.g :: s.groups).map fun g => if g.isAt uid slot then f g else g := rfl

/-- The block that an update of its number has changed. -/
theorem findBlk_updBlk {s : State} {uid : Nat} {f : Block → Block} (h : (findBlk s uid).phase ≠ .none)
    (hf : ∀ b, (f b).uid = b.uid) : findBlk (updBlk s uid f) uid = f (findBlk s uid) := by
  rw [findBlk, updBlk_blocks, find?_map_uid _ fun b _ => by split <;> simp only [hf], findBlk_found h, Option.map_some, Option.getD_some,
    if_pos (beq_iff_eq.mpr (findBlk_uid h))]

/-- Where a group stands and what it is about to do. -/
def Group.place (g : Group) : Nat × Nat × Run × Option TrapReq := (g.uid, g.slot, g.run, g.trapReq)

theorem mem_groupsOf {s : State} {uid : Nat} {g : Group} :
    g ∈ groupsOf s uid ↔ g ∈ s.g :: s.groups ∧ g.run ≠ .absent ∧ g.uid = uid := by
  unfold groupsOf allGroups
  simp only [List.mem_filter, bne_iff_ne, beq_iff_eq, and_assoc]

/-- R113, R126: operations of cube queues have run: every group stands where it did, of the blocks accumulators may have changed. -/
structure CubesRan (s t : State) : Prop where
  ran : CubeRan s t
  groups : (t.g :: t.groups).map Group.place = (s.g :: s.groups).map Group.place
  blocks : ∀ b ∈ t.blk :: t.blks, ∃ x ∈ s.blk :: s.blks, OnlyAcc x b
  found : ∀ uid, OnlyAcc (findBlk s uid) (findBlk t uid)

namespace CubesRan

variable {s t u : State}

theorem refl (s : State) : CubesRan s s := ⟨.refl s, rfl, fun b hb => ⟨b, hb, rfl⟩, fun _ => rfl⟩

theorem trans (a : CubesRan s t) (b : CubesRan t u) : CubesRan s u where
  ran := a.ran.trans b.ran
  groups := b.groups.trans a.groups
  blocks x hx := by
    obtain ⟨y, hy, hyx⟩ := b.blocks x hx
    obtain ⟨z, hz, hzy⟩ := a.blocks y hy
    exact ⟨z, hz, hzy.trans hyx⟩
  found uid := (a.found uid).trans (b.found uid)

theorem foldl {α : Type} (l : List α) {f : State → α → State} (hf : ∀ t, ∀ x ∈ l, CubesRan t (f t x)) (s : State) :
    CubesRan s (l.foldl f s) :=
  List.foldlRecOn _ _ (motive := CubesRan s) (.refl s) fun t ht x hx => ht.trans (hf t x hx)

/-- A group after the operations stood at its place before. -/
theorem group_was (a : CubesRan s t) {uid : Nat} {g : Group} (hg : g ∈ groupsOf t uid) :
    ∃ x ∈ groupsOf s uid, x.slot = g.slot ∧ x.trapReq = g.trapReq := by
  obtain ⟨hmem, hrun, huid⟩ := mem_groupsOf.mp hg
  have hplace : g.place ∈ (s.g :: s.groups).map Group.place := a.groups ▸ List.mem_map_of_mem hmem
  obtain ⟨x, hx, hxg⟩ := List.mem_map.mp hplace
  simp only [Group.place, Prod.mk.injEq] at hxg
  obtain ⟨hu, hs, hr, ht⟩ := hxg
  exact ⟨x, mem_groupsOf.mpr ⟨hx, hr ▸ hrun, hu.trans huid⟩, hs, ht⟩

end CubesRan

theorem OnlyAcc.uid {x y : Block} (h : OnlyAcc x y) : y.uid = x.uid := by rw [h]

theorem OnlyAcc.phase {x y : Block} (h : OnlyAcc x y) : y.phase = x.phase := by rw [h]

theorem satGroup_place (g : Group) : (satGroup g).place = g.place := by
  unfold satGroup
  split <;> rfl

theorem updGroup_satGroup_cubesRan (s : State) (uid slot : Nat) : CubesRan s (updGroup s uid slot satGroup) where
  ran := updGroup_satGroup_ran s uid slot
  groups := by
    rw [updGroup_groups, List.map_map]
    refine List.map_congr_left fun g _ => ?_
    rw [Function.comp_apply]
    split
    · exact satGroup_place g
    · rfl
  blocks b hb := ⟨b, hb, rfl⟩
  found _ := rfl

theorem satMembers_cubesRan (s : State) (l : List (Nat × Nat)) : CubesRan s (satMembers s l) := by
  induction l generalizing s with
  | nil => exact .refl s
  | cons x t ih => exact (updGroup_satGroup_cubesRan s x.1 x.2).trans (ih _)

/-- R113: the block of a queued operation, with its accumulators. -/
theorem runBlock_cubesRan (s : State) (j : CubeJob) :
    CubesRan s (updBlk s j.uid fun _ => (runOp j.op (findBlk s j.uid)).1) := by
  have hop := runOp_onlyAcc j.op (findBlk s j.uid)
  generalize (runOp j.op (findBlk s j.uid)).1 = r at hop
  have hfound (b : Block) (hb : b ∈ s.blk :: s.blks) (hu : b.uid = j.uid) :
      ∃ x ∈ s.blk :: s.blks, x.uid = j.uid ∧ findBlk s j.uid = x := by
    cases hf : (s.blk :: s.blks).find? fun b => b.uid == j.uid with
    | none => exact absurd (beq_iff_eq.mpr hu) (List.find?_eq_none.mp hf b hb)
    | some x =>
      exact ⟨x, List.mem_of_find?_eq_some hf, by simpa using List.find?_some hf, by rw [findBlk, hf, Option.getD_some]⟩
  refine ⟨⟨rfl, ?_, rfl, rfl, id⟩, rfl, fun b hb => ?_, fun uid => ?_⟩
  · show OnlyAcc s.blk (if s.blk.uid == j.uid then _ else s.blk)
    split
    next h =>
      rw [findBlk_focus (beq_iff_eq.mp h)] at hop
      exact hop
    next => rfl
  · obtain ⟨x, hx, rfl⟩ := List.mem_map.mp (show b ∈ (s.blk :: s.blks).map fun b => if b.uid == j.uid then r else b from hb)
    split
    next hu =>
      obtain ⟨y, hy, -, heq⟩ := hfound x hx (beq_iff_eq.mp hu)
      exact ⟨y, hy, heq ▸ hop⟩
    next => exact ⟨x, hx, rfl⟩
  · have hfind : findBlk (updBlk s j.uid fun _ => r) uid =
        (((s.blk :: s.blks).find? fun b => b.uid == uid).map fun b => if b.uid == j.uid then r else b).getD Block.none := by
      rw [findBlk, updBlk_blocks]
      refine congrArg (Option.getD · Block.none) (find?_map_uid (s.blk :: s.blks) fun b hb => ?_)
      split
      next hu =>
        obtain ⟨y, -, hyu, heq⟩ := hfound b hb (beq_iff_eq.mp hu)
        rw [hop.uid, heq, hyu, beq_iff_eq.mp hu]
      next => rfl
    rw [hfind]
    unfold findBlk at hop ⊢
    cases hf : (s.blk :: s.blks).find? fun b => b.uid == uid with
    | none => exact .refl _
    | some b =>
      rw [Option.map_some, Option.getD_some, Option.getD_some]
      split
      next hu =>
        have huid : b.uid = uid := by simpa using List.find?_some hf
        rw [← beq_iff_eq.mp hu, huid, hf] at hop
        exact hop
      next => exact .refl b

theorem runJob_cubesRan (s : State) (j : CubeJob) : CubesRan s (runJob s j) := by
  unfold runJob
  dsimp only
  split
  · exact (runBlock_cubesRan s j).trans (satMembers_cubesRan _ _)
  · exact runBlock_cubesRan s j

theorem runJobs_cubesRan (s : State) (l : List CubeJob) : CubesRan s (runJobs s l) := by
  induction l generalizing s with
  | nil => exact .refl s
  | cons j t ih => exact (runJob_cubesRan s j).trans (ih _)

/-- R113: every operation of a core's queue. -/
theorem drainCube_cubesRan (s : State) (core : Nat) : CubesRan s (drainCube s core) :=
  CubesRan.trans (t := modCore s core fun c => { c with cubeQ := [] })
    ⟨⟨rfl, rfl, rfl, rfl, id⟩, rfl, fun b hb => ⟨b, hb, rfl⟩, fun _ => rfl⟩ (runJobs_cubesRan _ _)

/-! The stop of blocks. -/

/-- R203: where the front of a port finds no room, the victims that make it are stopped. -/
theorem preemption_stops {s : State} {port : Nat} {d : Demand} {us : List Nat} (hd : frontDemand s port = some d)
    (hp : choosePlace s port d = .noRoom)
    (hv : leastVictims ((candidates d.size).filterMap (victimsAt s d)) = some us) (hne : us ≠ []) :
    exec (.preemption port) s = .next (stopBlocks s us) := by
  show execPreemption port s = _
  unfold execPreemption
  rw [hd]
  dsimp only
  rw [hp]
  dsimp only
  rw [hv]
  cases us with
  | nil => exact absurd rfl hne
  | cons u t => rfl

theorem endSwitches_uid (b : Block) : (endSwitches b).uid = b.uid :=
  List.foldlRecOn b.switches _ (motive := fun x : Block => x.uid = b.uid) rfl fun _ hx _ _ => hx

/-- R218: a block that is stopped stops, or leaves where it was complete. -/
theorem stopBlock_stops (no : Nat) (b : Block) :
    (stopBlock no b).uid = b.uid ∧ ((stopBlock no b).phase = .stopping ∨ (stopBlock no b).phase = .leaving) := by
  refine ⟨endSwitches_uid b, ?_⟩
  unfold stopBlock
  dsimp only
  split
  · exact .inr rfl
  · exact .inl rfl

/-- R218: a group without a window stands at its instruction once it is stopped. -/
theorem stopGroup_stands {g : Group} (hw : g.window = none) (hu : g.undo = none) :
    (stopGroup g).ctx.pc = startPc g.ctx ∧ (stopGroup g).ctx.prefixes = [] := by
  have hundone : undone g = g := by
    unfold undone
    rw [hw]
    dsimp only
    rw [hu]
  unfold stopGroup
  rw [hundone]
  exact ⟨rfl, rfl⟩

/-- R73, R135: what the log and the gleaned banks of a stop take touches no group and no block. -/
theorem logStopped_keeps (s : State) (us : List Nat) (l : List Block) : KeepsUnits s (logStopped (l.foldl gleanSwitches s) us) := by
  have hglean (t : State) (b : Block) : KeepsUnits t (gleanSwitches t b) :=
    List.foldlRecOn b.switches _ (motive := KeepsUnits t) (.refl t) fun _ hu _ _ => hu.trans ⟨rfl, rfl, rfl, rfl, rfl⟩
  have hfold : KeepsUnits s (l.foldl gleanSwitches s) :=
    List.foldlRecOn l _ (motive := KeepsUnits s) (.refl s) fun t ht b _ => ht.trans (hglean t b)
  exact hfold.trans (KeepsLines.foldl _ (fun t g _ => logHeld_keepsLines t _ g _) _).toKeepsUnits

/-- R218: of the blocks that are stopped, and of their groups. -/
theorem stopBlocks_stops (s : State) (us : List Nat) :
    (∀ b ∈ (stopBlocks s us).blk :: (stopBlocks s us).blks, b.uid ∈ us → b.phase = .stopping ∨ b.phase = .leaving) ∧
    (s.g.uid ∈ us → s.g.window = none → s.g.undo = none →
      (stopBlocks s us).g.ctx.pc = startPc s.ctx ∧ (stopBlocks s us).g.ctx.prefixes = []) := by
  unfold stopBlocks
  extract_lets l s1 s2 s3
  have hkeep : KeepsUnits s (logStopped (l.foldl gleanSwitches s) us) := logStopped_keeps s us l
  have hran : CubesRan s3 ((l.map (·.core)).foldl drainCube s3) := .foldl _ (fun t c _ => drainCube_cubesRan t c) s3
  refine ⟨fun b hb hu => ?_, fun hu hw hun => ?_⟩
  · obtain ⟨x, hx, hxb⟩ := hran.blocks b hb
    have hblocks : s3.blk :: s3.blks =
        (s.blk :: s.blks).map fun b => if hasNat us b.uid then stopBlock s.uidNext b else b := by
      rw [← hkeep.blk, ← hkeep.blks]
      rfl
    rw [hblocks] at hx
    obtain ⟨y, -, rfl⟩ := List.mem_map.mp hx
    rw [hxb.uid] at hu
    rw [hxb.phase]
    by_cases hy : hasNat us y.uid = true
    · rw [if_pos hy]
      exact (stopBlock_stops _ y).2
    · rw [if_neg hy] at hu
      exact absurd (hasNat_iff_mem.mpr hu) hy
  · have hg : s3.g = stopGroup s.g := by
      show (if hasNat us (logStopped (l.foldl gleanSwitches s) us).g.uid = true then _ else _) = _
      rw [hkeep.g, if_pos (hasNat_iff_mem.mpr hu)]
    obtain ⟨hpc, hprefixes⟩ := stopGroup_stands hw hun
    have hctx := hran.ran.ctx
    rw [show ((l.map (·.core)).foldl drainCube s3).g.ctx = _ from hctx]
    rw [← hg] at hpc hprefixes
    exact ⟨hpc, hprefixes⟩

end Sys2Proof.Machine
end

section
/-! PROOFS. The save of a stopped block (R54, R218, R220). -/

namespace Sys2Proof.Machine

/-! What a save writes: the context areas, beside the sets of the partitions. -/

theorem dropDeferral_frame (s : State) (port : Nat) (gone : Front → Bool) :
    dropDeferral s port gone = { s with
      deferred := (dropDeferral s port gone).deferred
      ports := (dropDeferral s port gone).ports
      dies := (dropDeferral s port gone).dies } := by
  have hfold (l : List Nat) (t : State) (f : Die → Die) :
      l.foldl (fun s d => modDie s d f) t = { t with dies := (l.foldl (fun s d => modDie s d f) t).dies } :=
    List.foldlRecOn l _ (motive := fun u : State => u = { t with dies := u.dies }) rfl fun u hu d _ => by
      rw [hu]
      rfl
  unfold dropDeferral
  rw [grantReservations_frame, hfold]
  rfl

theorem dropDisplaced_frame (s : State) (port : Nat) :
    dropDisplaced s port = { s with
      deferred := (dropDisplaced s port).deferred
      ports := (dropDisplaced s port).ports
      dies := (dropDisplaced s port).dies } := by
  unfold dropDisplaced
  dsimp only
  split
  · exact dropDeferral_frame _ _ _
  · rfl

/-- Entries put into a map under distinct keys stand there. -/
theorem mget_foldl_mput {β : Type} (d : β) {l : List (Nat × β)} (hl : (l.map (·.1)).Nodup) (m : List (Nat × β)) {k : Nat} {v : β}
    (he : (k, v) ∈ l) : mget d (l.foldl (fun m e => mput m e.1 e.2) m) k = v := by
  induction l generalizing m with
  | nil => cases he
  | cons x t ih =>
    obtain ⟨hx, ht⟩ := List.nodup_cons.mp hl
    rcases List.mem_cons.mp he with rfl | he
    · exact List.foldlRecOn t _ (motive := fun m => mget d m k = v) (mget_mput_self d m k v) fun u hu y hy => by
        rw [mget_mput_ne d u y.2 fun heq => hx (List.mem_map.mpr ⟨y, hy, heq.symm⟩), hu]
    · exact ih ht _ he

/-- A map whose values are changed one by one. -/
theorem mget_map_value {β : Type} (d : β) {F : β → β} (hF : F d = d) (m : List (Nat × β)) (k : Nat) :
    mget d (m.map fun e => (e.1, F e.2)) k = F (mget d m k) := by
  induction m with
  | nil => exact hF.symm
  | cons e t ih =>
    rw [List.map_cons, mget, mget, ih]
    split
    · rfl
    · rfl

/-- A block that has left a partition stands in neither of its sets. -/
theorem hasPair_without (p : Part) (uid slot : Nat) :
    hasPair (p.without [uid]).active uid slot = false ∧ hasPair (p.without [uid]).pending uid slot = false := by
  have hleft (l : List (Nat × Nat)) : hasPair (l.filter fun x => !hasNat [uid] x.1) uid slot = false := by
    refine hasPair_eq_false fun hm => ?_
    have hno := (List.mem_filter.mp hm).2
    rw [hasNat_iff_mem.mpr List.mem_cons_self] at hno
    cases hno
  exact ⟨hleft p.active, hleft p.pending⟩

/-- R54: the areas of a block and of groups of distinct slots are distinct. -/
theorem areaKeys_nodup (uid : Nat) {slots : List Nat} (hn : slots.Nodup) (hlt : ∀ k ∈ slots, k < 32) :
    (areaKey uid 32 :: slots.map (areaKey uid)).Nodup := by
  refine List.nodup_cons.mpr ⟨fun hm => ?_, hn.map fun a b hab => ?_⟩
  · obtain ⟨k, hk, heq⟩ := List.mem_map.mp hm
    have := hlt k hk
    unfold areaKey at heq
    omega
  · unfold areaKey at hab
    omega

/-- R218: what is stored of a block: its block's area and those of its groups. -/
def storedAreas (s : State) (uid : Nat) : List (Nat × List (Nat × Byte)) :=
  (areaKey uid 32, blockArea (findBlk s uid) (bitsNat ((groupsOf s uid).map fun g => (g.slot, g.run == .exited)))
    (spanBlocks s (findBlk s uid)) (mget [] s.areas (areaKey uid 32))) ::
    (groupsOf s uid).map fun g => (areaKey uid g.slot, groupArea (findBlk s uid) g)

/-- R218, R220: the areas are written and tagged, and nothing else changes. -/
theorem storeAreas_frame (s : State) (uid : Nat) :
    storeAreas s uid = { s with
      areas := (storedAreas s uid).foldl (fun m e => mput m e.1 e.2) s.areas, areaTags := (storeAreas s uid).areaTags } := by
  have htags (l : List Group) (t : State) (vf : Nat) :
      l.foldl (fun acc g => tagParts acc uid g.slot vf [0]) t =
        { t with areaTags := (l.foldl (fun acc g => tagParts acc uid g.slot vf [0]) t).areaTags } :=
    List.foldlRecOn l _ (motive := fun u : State => u = { t with areaTags := u.areaTags }) rfl fun u hu g _ => by
      rw [hu]
      rfl
  unfold storeAreas
  dsimp only
  rw [htags]
  rfl

/-- R218, R220: the areas of a block and its groups once they are stored. -/
theorem storeAreas_areas {s : State} {uid : Nat} (hn : ((groupsOf s uid).map (·.slot)).Nodup)
    (hlt : ∀ g ∈ groupsOf s uid, g.slot < 32) :
    (∀ g ∈ groupsOf s uid, mget [] (storeAreas s uid).areas (areaKey uid g.slot) = groupArea (findBlk s uid) g) ∧
    ∃ exited span, mget [] (storeAreas s uid).areas (areaKey uid 32) =
      blockArea (findBlk s uid) exited span (mget [] s.areas (areaKey uid 32)) := by
  have hkeys : ((storedAreas s uid).map (·.1)).Nodup := by
    have h := areaKeys_nodup uid hn fun k hk => by
      obtain ⟨g, hg, rfl⟩ := List.mem_map.mp hk
      exact hlt g hg
    rw [List.map_map] at h
    rw [storedAreas, List.map_cons, List.map_map]
    exact h
  rw [storeAreas_frame]
  refine ⟨fun g hg => ?_, bitsNat ((groupsOf s uid).map fun g => (g.slot, g.run == .exited)), spanBlocks s (findBlk s uid), ?_⟩
  · have hmem : (areaKey uid g.slot, groupArea (findBlk s uid) g) ∈ storedAreas s uid := by
      unfold storedAreas
      exact List.mem_cons_of_mem _ (List.mem_map.mpr ⟨g, hg, rfl⟩)
    exact mget_foldl_mput [] hkeys s.areas hmem
  · have hmem : (areaKey uid 32, blockArea (findBlk s uid)
        (bitsNat ((groupsOf s uid).map fun g => (g.slot, g.run == .exited))) (spanBlocks s (findBlk s uid))
        (mget [] s.areas (areaKey uid 32))) ∈ storedAreas s uid := by
      unfold storedAreas
      exact List.mem_cons_self
    exact mget_foldl_mput [] hkeys s.areas hmem

/-- The slots of a block's groups, from where the groups stand. -/
theorem groupsOf_slots {s t : State} (h : (t.g :: t.groups).map Group.place = (s.g :: s.groups).map Group.place) (uid : Nat) :
    (groupsOf t uid).map (·.slot) = (groupsOf s uid).map (·.slot) := by
  have hslots (u : State) : (groupsOf u uid).map (·.slot) =
      ((((u.g :: u.groups).map Group.place).filter fun x => x.2.2.1 != .absent).filter fun x => x.1 == uid).map fun x => x.2.1 := by
    rw [List.filter_map, List.filter_map, List.map_map]
    rfl
  rw [hslots, hslots, h]

theorem modGroups_cons (s : State) (f : Group → Group) :
    (modGroups s f).g :: (modGroups s f).groups = (s.g :: s.groups).map f := rfl

/-- What a group keeps while its block is unparked. -/
theorem unpark_group {s : State} {g : Group} (hg : g ∈ (unpark s).g :: (unpark s).groups) :
    ∃ x ∈ s.g :: s.groups, g = { x with parked := g.parked } := by
  unfold unpark at hg
  rw [modGroups_cons] at hg
  obtain ⟨x, hx, rfl⟩ := List.mem_map.mp hg
  refine ⟨x, hx, ?_⟩
  split
  · rfl
  · split
    · split
      · rfl
      · rfl
    · rfl

/-! The save of a block. -/

/-- R55, R220: a block that has left its core, before its areas are written. -/
def leftCore (s : State) (b : Block) : State :=
  let s1 := saveFurrows s b
  let s2 := { s1 with parts := s1.parts.map fun e => (e.1, e.2.without [b.uid]) }
  let s3 := modGroups s2 fun g =>
    if g.uid = b.uid then { g with ctx := { g.ctx with v := g.ctx.v.filter fun e => !g.ctx.isReleased (e.1 / 32) } } else g
  dropWays (dropLooseOf s3 b.uid) b.core b.banks

theorem saveBlock_eq (s : State) (b : Block) :
    saveBlock s b = dropDisplaced
      (unpark (updBlk (storeAreas (leftCore s b) b.uid) b.uid fun x => { x with phase := .saved })) b.port := rfl

theorem leftCore_areas (s : State) (b : Block) : (leftCore s b).areas = s.areas := rfl

theorem leftCore_places (s : State) (b : Block) :
    ((leftCore s b).g :: (leftCore s b).groups).map Group.place = (s.g :: s.groups).map Group.place := by
  have hmap : (leftCore s b).g :: (leftCore s b).groups = (s.g :: s.groups).map fun g =>
      if g.uid = b.uid then { g with ctx := { g.ctx with v := g.ctx.v.filter fun e => !g.ctx.isReleased (e.1 / 32) } } else g := rfl
  rw [hmap, List.map_map]
  refine List.map_congr_left fun g _ => ?_
  rw [Function.comp_apply]
  split
  · rfl
  · rfl

theorem leftCore_stands {s : State} {b : Block} (hb : (findBlk s b.uid).phase ≠ .none) :
    (findBlk (leftCore s b) b.uid).phase ≠ .none := by
  have hfind : findBlk (leftCore s b) b.uid = findBlk (saveFurrows s b) b.uid := rfl
  rw [hfind]
  unfold saveFurrows
  extract_lets l s1
  have hfold : findBlk ((List.range 4).foldl (fun acc p => modPart acc (partKey b.core p) fun q =>
      { q with furrow := q.furrow.filter fun f => f.uid != b.uid }) s1) b.uid = findBlk s1 b.uid :=
    List.foldlRecOn (List.range 4) _ (motive := fun u : State => findBlk u b.uid = findBlk s1 b.uid) rfl fun _ hu _ _ => hu
  rw [hfold, findBlk_updBlk (f := fun x => { x with furrows := x.furrows ++ l }) hb fun _ => rfl]
  exact hb

/-- R218, R220: a saved block has left its core, and its areas hold it and its groups. -/
theorem saveBlock_saves {s : State} {b : Block} (hb : (findBlk s b.uid).phase ≠ .none) :
    (findBlk (saveBlock s b) b.uid).phase = .saved ∧
    (∀ k slot, hasPair (getPart (saveBlock s b) k).active b.uid slot = false ∧
      hasPair (getPart (saveBlock s b) k).pending b.uid slot = false) ∧
    (((groupsOf s b.uid).map (·.slot)).Nodup → (∀ k ∈ (groupsOf s b.uid).map (·.slot), k < 32) →
      (∀ g ∈ groupsOf (saveBlock s b) b.uid,
        mget [] (saveBlock s b).areas (areaKey b.uid g.slot) = groupArea (findBlk (saveBlock s b) b.uid) g) ∧
      ∃ exited span, mget [] (saveBlock s b).areas (areaKey b.uid 32) =
        blockArea (findBlk (saveBlock s b) b.uid) exited span (mget [] s.areas (areaKey b.uid 32))) := by
  rw [saveBlock_eq, dropDisplaced_frame]
  have hslots := groupsOf_slots (leftCore_places s b) b.uid
  have hareas := leftCore_areas s b
  have hparts : (leftCore s b).parts = (saveFurrows s b).parts.map fun e => (e.1, e.2.without [b.uid]) := rfl
  have hstands := leftCore_stands hb
  generalize leftCore s b = u at hslots hareas hparts hstands
  have hstored : findBlk (storeAreas u b.uid) b.uid = findBlk u b.uid := by rw [storeAreas_frame]; rfl
  have hphase : findBlk (updBlk (storeAreas u b.uid) b.uid fun x => { x with phase := .saved }) b.uid =
      { findBlk u b.uid with phase := .saved } := by
    rw [findBlk_updBlk (f := fun x => { x with phase := .saved }) (hstored ▸ hstands) fun _ => rfl, hstored]
  have hkeep : (updBlk (storeAreas u b.uid) b.uid fun x => { x with phase := .saved }).parts = u.parts ∧
      (updBlk (storeAreas u b.uid) b.uid fun x => { x with phase := .saved }).g = u.g ∧
      (updBlk (storeAreas u b.uid) b.uid fun x => { x with phase := .saved }).groups = u.groups ∧
      (updBlk (storeAreas u b.uid) b.uid fun x => { x with phase := .saved }).areas = (storeAreas u b.uid).areas := by
    rw [storeAreas_frame]
    exact ⟨rfl, rfl, rfl, rfl⟩
  generalize (updBlk (storeAreas u b.uid) b.uid fun x => { x with phase := .saved }) = w at hphase hkeep
  obtain ⟨hsets, hfocus, hgroups, hwritten⟩ := hkeep
  refine ⟨congrArg Block.phase hphase, fun k slot => ?_, fun hn hlt => ?_⟩
  · have hpart : mget Part.reset w.parts k = (mget Part.reset (saveFurrows s b).parts k).without [b.uid] := by
      rw [hsets, hparts]
      exact mget_map_value Part.reset (F := fun p => p.without [b.uid]) rfl _ k
    show hasPair (mget Part.reset w.parts k).active b.uid slot = false ∧
      hasPair (mget Part.reset w.parts k).pending b.uid slot = false
    rw [hpart]
    exact hasPair_without _ b.uid slot
  · rw [← hslots] at hn hlt
    obtain ⟨hstore, exited, span, hblock⟩ := storeAreas_areas hn fun g hg => hlt _ (List.mem_map_of_mem hg)
    rw [← hwritten] at hstore hblock
    refine ⟨fun g hg => ?_, exited, span, ?_⟩
    · obtain ⟨hmem, hrun, huid⟩ := mem_groupsOf.mp hg
      obtain ⟨x, hx, hgx⟩ := unpark_group (s := w) hmem
      rw [hfocus, hgroups] at hx
      rw [hgx] at hrun huid ⊢
      exact (hstore x (mem_groupsOf.mpr ⟨hx, hrun, huid⟩)).trans
        (congrArg (fun y => groupArea y { x with parked := g.parked }) hphase).symm
    · rw [← hareas]
      exact hblock.trans (congrArg (fun y => blockArea y exited span (mget [] u.areas (areaKey b.uid 32))) hphase).symm

end Sys2Proof.Machine
end

section
/-! PROOFS. A stopped block is saved once what has to complete is complete (R218, R219, R220). -/

namespace Sys2Proof.Machine

section

variable {s : State} {b : Block}

/-- R218: where no furrow of a block stands, none drains. -/
theorem drainFurrows_none (hf : ∀ p, (getPart s (partKey b.core p)).furrow = none) : drainFurrows s b = s := by
  refine List.foldlRecOn (List.range 4) _ (motive := fun u : State => u = s) rfl fun u hu p _ => ?_
  rw [hu, hf p]

/-- R218: what has to complete of a block without furrows are the matrix operations that its span has accepted. -/
theorem settleBlock_cubesRan (hf : ∀ p, (getPart s (partKey b.core p)).furrow = none) : CubesRan s (settleBlock s b) := by
  unfold settleBlock
  rw [drainFurrows_none hf]
  refine .foldl _ (fun t x _ => ?_) s
  split
  · exact drainCube_cubesRan t x.core
  · exact .refl t

/-- R218, R219: a block of which nothing is left to complete, before and after matrix operations have run. -/
theorem stillStops_none {t : State} {c : Block} (hran : CubesRan s t) (hbc : OnlyAcc b c)
    (hj : ∀ x ∈ spanBlocks s b, x.joined = []) (hk : ∀ k ∈ b.cmds, k.ack = false ∧ ¬(k.kind = 4 ∧ k.state = .pending))
    (ht : ∀ g ∈ groupsOf s b.uid, g.trapReq = none) (hf : ∀ p, (getPart s (partKey b.core p)).furrow = none) :
    stillStops t c = false := by
  have hcore : c.core = b.core := by rw [hbc]
  have hcmds : c.cmds = b.cmds := by rw [hbc]
  have hspan : c.span = b.span := by rw [hbc]
  have hparts (k : Nat) : getPart t k = getPart s k := by
    unfold getPart
    rw [hran.ran.state]
  have hfurrow : furrowRuns t c = false := by
    refine List.any_eq_false.mpr fun p _ => ?_
    rw [hparts, hcore, hf p]
    exact Bool.false_ne_true
  have hjoined : ((spanBlocks t c).any fun x => !x.joined.isEmpty) = false := by
    refine List.any_eq_false.mpr fun x hx => ?_
    obtain ⟨hall, hxc⟩ := List.mem_filter.mp hx
    obtain ⟨hmem, hphase⟩ := List.mem_filter.mp hall
    obtain ⟨y, hy, hyx⟩ := hran.blocks x hmem
    have hys : y ∈ spanBlocks s b := by
      refine List.mem_filter.mpr ⟨List.mem_filter.mpr ⟨hy, ?_⟩, ?_⟩
      · rw [← hyx.phase]
        exact hphase
      · rw [show y.span = x.span by rw [hyx], ← hspan]
        exact hxc
    rw [show x.joined = y.joined by rw [hyx], hj y hys]
    decide
  have hacks : (c.cmds.any fun k => k.ack || (k.kind == 4 && k.state == .pending)) = false := by
    refine List.any_eq_false.mpr fun k hkc => ?_
    rw [hcmds] at hkc
    obtain ⟨hack, hsig⟩ := hk k hkc
    simpa [hack] using hsig
  have htraps : ((groupsOf t c.uid).any fun g => g.trapReq.isSome) = false := by
    refine List.any_eq_false.mpr fun g hg => ?_
    rw [hbc.uid] at hg
    obtain ⟨x, hx, -, hxt⟩ := hran.group_was hg
    rw [← hxt, ht x hx]
    decide
  unfold stillStops
  rw [hfurrow, hjoined, hacks, htraps]
  rfl

end

/-- R218, R219, R220: a stopping block of which nothing is left to complete is saved. -/
theorem contextSave_saves {s : State} {uid : Nat} (hp : (findBlk s uid).phase = .stopping)
    (hj : ∀ x ∈ spanBlocks s (findBlk s uid), x.joined = [])
    (hk : ∀ k ∈ (findBlk s uid).cmds, k.ack = false ∧ ¬(k.kind = 4 ∧ k.state = .pending))
    (ht : ∀ g ∈ groupsOf s uid, g.trapReq = none) (hf : ∀ p, (getPart s (partKey (findBlk s uid).core p)).furrow = none) :
    ∃ t, exec (.contextSave uid) s = .next t ∧ (findBlk t uid).phase = .saved ∧ t.mem = s.mem ∧
      (∀ k slot, hasPair (getPart t k).active uid slot = false ∧ hasPair (getPart t k).pending uid slot = false) ∧
      (((groupsOf s uid).map (·.slot)).Nodup → (∀ g ∈ groupsOf s uid, g.slot < 32) →
        (∀ g ∈ groupsOf t uid, mget [] t.areas (areaKey uid g.slot) = groupArea (findBlk t uid) g) ∧
        ∃ exited span, mget [] t.areas (areaKey uid 32) =
          blockArea (findBlk t uid) exited span (mget [] s.areas (areaKey uid 32))) := by
  have hstands : (findBlk s uid).phase ≠ .none := by rw [hp]; decide
  have huid := findBlk_uid hstands
  have hran : CubesRan s (settleBlock s (findBlk s uid)) := settleBlock_cubesRan hf
  have hstill := stillStops_none hran (hran.found uid) hj hk (by rw [huid]; exact ht) hf
  have hexec : exec (.contextSave uid) s =
      .next (saveBlock (settleBlock s (findBlk s uid)) (findBlk (settleBlock s (findBlk s uid)) uid)) := by
    show execContextSave uid s = _
    unfold execContextSave
    dsimp only
    rw [if_pos (.inl hp), hstill, if_neg Bool.false_ne_true]
  generalize settleBlock s (findBlk s uid) = u at hran hexec
  have huidu : (findBlk u uid).uid = uid := (hran.found uid).uid.trans huid
  have hstandsu : (findBlk u (findBlk u uid).uid).phase ≠ .none := by
    rw [huidu, (hran.found uid).phase]
    exact hstands
  obtain ⟨hphase, hsets, hareas⟩ := saveBlock_saves hstandsu
  have hmem : (saveBlock u (findBlk u uid)).mem = s.mem :=
    (mem_of_memories (saveBlock_memories u _)).trans hran.ran.mem
  rw [huidu] at hphase hsets hareas
  refine ⟨_, hexec, hphase, hmem, hsets, fun hn hlt => ?_⟩
  rw [groupsOf_slots hran.groups, show u.areas = s.areas by rw [hran.ran.state]] at hareas
  exact hareas hn fun k hk => by
    obtain ⟨g, hg, rfl⟩ := List.mem_map.mp hk
    exact hlt g hg

end Sys2Proof.Machine
end

section
/-! PROOFS. The restore of a saved block (R54, R55, R190, R217, R221). -/

namespace Sys2Proof.Machine

/-! Commands whose fault was answered while their block was saved (R217). -/

/-- R217: a command that awaits the answer to a fault that stands no more. -/
def Unanswered (k : Cmd) : Prop := k.state = .faultedRetry ∧ k.fault.isSome = false

/-- Of a block only commands and arrivals at span barriers have changed. -/
def OnlyCmds (x y : Block) : Prop := y = { x with cmds := y.cmds, sbar := y.sbar }

theorem OnlyCmds.trans {x y z : Block} (a : OnlyCmds x y) (b : OnlyCmds y z) : OnlyCmds x z := by
  rw [OnlyCmds, b, a]

theorem findBlk_congr {s t : State} (hb : t.blk = s.blk) (hbs : t.blks = s.blks) (uid : Nat) : findBlk t uid = findBlk s uid := by
  unfold findBlk
  rw [hb, hbs]

/-- The block that an update of all has changed. -/
theorem findBlk_modBlks {s : State} {uid : Nat} {f : Block → Block} (h : (findBlk s uid).phase ≠ .none)
    (hf : ∀ b, (f b).uid = b.uid) : findBlk (modBlks s f) uid = f (findBlk s uid) := by
  rw [findBlk, show (modBlks s f).blk :: (modBlks s f).blks = (s.blk :: s.blks).map f from rfl, find?_map_uid _ fun b _ => hf b,
    findBlk_found h, Option.map_some, Option.getD_some]

/-- R28, R164: a span barrier that completes changes arrivals at barriers of blocks, and none of their commands. -/
theorem checkSpanBar_block {s : State} {uid : Nat} (h : (findBlk s uid).phase ≠ .none) (b : Block) (n : Nat) :
    findBlk (checkSpanBar s b n) uid = { findBlk s uid with sbar := (findBlk (checkSpanBar s b n) uid).sbar } := by
  unfold checkSpanBar
  extract_lets l s1 s2
  split
  · have hdrop : ∀ l' : List Block, (l'.foldl (fun acc x => dropL1 acc x.core) s2).blk = s2.blk ∧
        (l'.foldl (fun acc x => dropL1 acc x.core) s2).blks = s2.blks := fun l' =>
      List.foldlRecOn l' _ (motive := fun u : State => u.blk = s2.blk ∧ u.blks = s2.blks) ⟨rfl, rfl⟩ fun _ hu _ _ => hu
    have hfind : findBlk (dropSpanLoose (l.foldl (fun acc x => dropL1 acc x.core) s2) l) uid =
        if inSpan l (findBlk s uid).uid = true then { findBlk s uid with sbar := mdel (findBlk s uid).sbar n }
        else findBlk s uid :=
      (findBlk_congr (hdrop l).1 (hdrop l).2 uid).trans
        (findBlk_modBlks (f := fun x => if inSpan l x.uid then { x with sbar := mdel x.sbar n } else x) h fun b => by
          split
          · rfl
          · rfl)
    rw [hfind]
    split
    · rfl
    · rfl
  · rfl

theorem onlyCmds_of_sbar {x y : Block} (h : y = { x with sbar := y.sbar }) : OnlyCmds x y := by
  rw [OnlyCmds, h]

theorem checkSpanBars_block {uid : Nat} (l : List Nat) {s : State} (h : (findBlk s uid).phase ≠ .none) :
    findBlk (l.foldl (fun acc n => checkSpanBar acc (findBlk acc uid) n) s) uid =
      { findBlk s uid with sbar := (findBlk (l.foldl (fun acc n => checkSpanBar acc (findBlk acc uid) n) s) uid).sbar } := by
  refine List.foldlRecOn l _ (motive := fun u : State => findBlk u uid = { findBlk s uid with sbar := (findBlk u uid).sbar })
    rfl fun u hu n _ => ?_
  have hup : (findBlk u uid).phase ≠ .none := by
    rw [hu]
    exact h
  rw [checkSpanBar_block hup, hu]

/-- R184, R217: the end of a command of a saved block: of the block only commands and barriers change, its commands of that number
are answered, and no other becomes unanswered. -/
theorem endCmd_block {s : State} {uid : Nat} (h : (findBlk s uid).phase ≠ .none) (k : Cmd) :
    OnlyCmds (findBlk s uid) (findBlk (endCmd s uid k .cancelled) uid) ∧
    ∀ y ∈ (findBlk (endCmd s uid k .cancelled) uid).cmds, Unanswered y → y ∈ (findBlk s uid).cmds ∧ y.num ≠ k.num := by
  unfold endCmd
  extract_lets s0 s1 s2
  have h1 : findBlk s1 uid = { findBlk s uid with
      cmds := (findBlk s uid).cmds.map fun y => if y.num == k.num then { y with state := .cancelled, fault := none } else y } := by
    have hfill : ∀ u : State, findBlk (endFill u uid k) uid = findBlk u uid := fun u => by
      unfold endFill
      split
      · rfl
      · rfl
    unfold s1
    rw [hfill]
    exact findBlk_updBlk (s := s0) (f := fun b => { b with
      cmds := b.cmds.map fun y => if y.num == k.num then { y with state := .cancelled, fault := none } else y }) h fun _ => rfl
  have h1p : (findBlk s1 uid).phase ≠ .none := by rw [h1]; exact h
  have h2 : findBlk s2 uid = freeExited s1 (findBlk s1 uid) := findBlk_updBlk (f := freeExited s1) h1p fun _ => rfl
  have hcmds : ∀ y ∈ (findBlk s2 uid).cmds, Unanswered y → y ∈ (findBlk s uid).cmds ∧ y.num ≠ k.num := by
    intro y hy hun
    rw [h2] at hy
    have hy1 := (List.mem_filter.mp hy).1
    rw [h1] at hy1
    obtain ⟨x, hx, hxy⟩ := List.mem_map.mp hy1
    by_cases hnum : x.num = k.num
    · rw [if_pos (beq_iff_eq.mpr hnum)] at hxy
      rw [← hxy] at hun
      exact absurd hun.1 (by simp)
    · rw [if_neg (by simpa using hnum)] at hxy
      rw [← hxy]
      exact ⟨hx, hnum⟩
  have honly : OnlyCmds (findBlk s uid) (findBlk s2 uid) := by
    rw [h2, h1]
    rfl
  split
  · have hbar := checkSpanBars_block (List.range 4) (s := s2) (uid := uid) (by rw [h2]; exact h1p)
    generalize (List.range 4).foldl (fun acc n => checkSpanBar acc (findBlk acc uid) n) s2 = v at hbar ⊢
    refine ⟨honly.trans (onlyCmds_of_sbar hbar), fun y hy => ?_⟩
    rw [hbar] at hy
    exact hcmds y hy
  · exact ⟨honly, hcmds⟩

/-- R190, R217: an answered command leaves none of its number unanswered; the others are as they were. -/
theorem answerCmd_block {s : State} {uid : Nat} (h : (findBlk s uid).phase ≠ .none) (k : Cmd) :
    OnlyCmds (findBlk s uid) (findBlk (answerCmd uid s k) uid) ∧
    ∀ y ∈ (findBlk (answerCmd uid s k) uid).cmds, Unanswered y → y ∈ (findBlk s uid).cmds ∧ y ≠ k := by
  unfold answerCmd
  split
  next hk =>
    refine ⟨rfl, fun y hy hun => ⟨hy, fun heq => ?_⟩⟩
    rw [heq] at hun
    rcases hk with hk | hk
    · exact hk hun.1
    · rw [hun.2] at hk
      cases hk
  next =>
    split
    · obtain ⟨honly, hcmds⟩ := endCmd_block h k
      refine ⟨honly, fun y hy hun => ?_⟩
      obtain ⟨hmem, hnum⟩ := hcmds y hy hun
      exact ⟨hmem, fun heq => hnum (congrArg Cmd.num heq)⟩
    · have hfind : findBlk (modCmd s uid k.num fun x => { x with state := .pending }) uid = { findBlk s uid with
          cmds := (findBlk s uid).cmds.map fun y => if y.num == k.num then { y with state := .pending } else y } :=
        findBlk_updBlk (f := fun b => { b with
          cmds := b.cmds.map fun y => if y.num == k.num then { y with state := .pending } else y }) h fun _ => rfl
      rw [hfind]
      refine ⟨rfl, fun y hy hun => ?_⟩
      obtain ⟨x, hx, hxy⟩ := List.mem_map.mp hy
      by_cases hnum : x.num = k.num
      · rw [if_pos (beq_iff_eq.mpr hnum)] at hxy
        rw [← hxy] at hun
        exact absurd hun.1 (by simp)
      · rw [if_neg (by simpa using hnum)] at hxy
        rw [← hxy]
        exact ⟨hx, fun heq => hnum (congrArg Cmd.num heq)⟩

/-- R217: a command that is not unanswered stays as it is. -/
theorem answerCmd_answered {s : State} {uid : Nat} {k : Cmd} (h : k.state = .faultedRetry → k.fault.isSome = true) :
    answerCmd uid s k = s := by
  unfold answerCmd
  refine if_pos ?_
  by_cases hs : k.state = .faultedRetry
  · exact .inr (h hs)
  · exact .inl hs

/-- R190, R217: once the commands of a block are answered, none is unanswered. -/
theorem answerCmds_block {uid : Nat} (l : List Cmd) {s : State} (h : (findBlk s uid).phase ≠ .none)
    (hl : ∀ y ∈ (findBlk s uid).cmds, Unanswered y → y ∈ l) :
    OnlyCmds (findBlk s uid) (findBlk (l.foldl (answerCmd uid) s) uid) ∧
    ∀ y ∈ (findBlk (l.foldl (answerCmd uid) s) uid).cmds, ¬ Unanswered y := by
  induction l generalizing s with
  | nil => exact ⟨rfl, fun y hy hun => nomatch hl y hy hun⟩
  | cons k t ih =>
    obtain ⟨honly, hcmds⟩ := answerCmd_block h k
    have hphase : (findBlk (answerCmd uid s k) uid).phase ≠ .none := by
      rw [honly]
      exact h
    obtain ⟨htail, hnone⟩ := ih hphase fun y hy hun =>
      (List.mem_cons.mp (hl y (hcmds y hy hun).1 hun)).resolve_left (hcmds y hy hun).2
    exact ⟨honly.trans htail, hnone⟩

theorem answerCmds_answered {uid : Nat} {l : List Cmd} (s : State)
    (h : ∀ k ∈ l, k.state = .faultedRetry → k.fault.isSome = true) : l.foldl (answerCmd uid) s = s :=
  List.foldlRecOn l _ (motive := fun u => u = s) rfl fun u hu k hk => by rw [hu, answerCmd_answered (h k hk)]

/-! The areas read back. -/

/-- R221: the block of a number and its groups read back from their areas, before the answers to its faults are looked at. -/
def readAreas (s : State) (uid : Nat) (m0 : List (Nat × Byte)) : State :=
  let b := findBlk s uid
  let s1 := updBlk s uid
    (blockFrom (areaView s uid 32 0 (engBase b + sumOf (b.cmds.map fun k => (cmdRecord k).length))) m0)
  modGroups s1 fun g =>
    if g.uid = uid then placeDeep s1 (groupFrom (areaView s uid g.slot 0 0xC000) b.regs g) else g

theorem loadAreas_eq (s : State) (uid : Nat) :
    ∃ m0, loadAreas s uid = (findBlk (readAreas s uid m0) uid).cmds.foldl (answerCmd uid) (readAreas s uid m0) := ⟨_, rfl⟩

/-- R249: what is read of an area under the key under which it was written. -/
theorem areaView_written {s : State} {uid slot part n : Nat}
    (h : mget 0 s.areaTags (areaPartKey uid slot part) = areaTag s (findBlk s uid).vf) :
    areaView s uid slot part n = mget [] s.areas (areaKey uid slot) := if_pos h

theorem groupFrom_stands (m : List (Nat × Byte)) (regs : Nat) (g : Group) :
    (groupFrom m regs g).uid = g.uid ∧ (groupFrom m regs g).slot = g.slot ∧ (groupFrom m regs g).run = g.run := by
  unfold groupFrom
  exact ⟨rfl, rfl, rfl⟩

theorem placeDeep_group (s : State) (g : Group) :
    (placeDeep s g).slot = g.slot ∧ (placeDeep s g).run = g.run ∧ (placeDeep s g).ctx =
      { g.ctx with stack := placeStack (areaTag s (findBlk s g.uid).vf) g.uid g.slot g.ctx.stack } := ⟨rfl, rfl, rfl⟩

section

variable {s : State} {uid : Nat} (hstands : (findBlk s uid).phase ≠ .none) (m0 : List (Nat × Byte))
include hstands

theorem readAreas_block :
    findBlk (readAreas s uid m0) uid = blockFrom (areaView s uid 32 0 (engBase (findBlk s uid) +
      sumOf ((findBlk s uid).cmds.map fun k => (cmdRecord k).length))) m0 (findBlk s uid) :=
  findBlk_updBlk (f := blockFrom _ m0) hstands fun _ => rfl

/-- R54, R221: a group that is read back from its area, with its stack in its place. -/
theorem readAreas_group {g : Group} (hg : g ∈ (readAreas s uid m0).g :: (readAreas s uid m0).groups) (hu : g.uid = uid) :
    ∃ x ∈ s.g :: s.groups, x.uid = uid ∧ x.slot = g.slot ∧ x.run = g.run ∧
      let c := (groupFrom (areaView s uid g.slot 0 0xC000) (findBlk s uid).regs x).ctx
      g.ctx = { c with stack := placeStack (areaTag s (findBlk s uid).vf) uid g.slot c.stack } := by
  unfold readAreas at hg
  extract_lets b s1 at hg
  have hfind : findBlk s1 uid = blockFrom _ m0 (findBlk s uid) := findBlk_updBlk (f := blockFrom _ m0) hstands fun _ => rfl
  have htag : areaTag s1 (findBlk s1 uid).vf = areaTag s (findBlk s uid).vf := by
    rw [hfind]
    rfl
  rw [modGroups_cons] at hg
  obtain ⟨x, hx, hxg⟩ := List.mem_map.mp hg
  by_cases hxu : x.uid = uid
  · rw [if_pos hxu] at hxg
    obtain ⟨hslot, hrun, hctx⟩ := placeDeep_group s1 (groupFrom (areaView s uid x.slot 0 0xC000) b.regs x)
    obtain ⟨hu', hslot', hrun'⟩ := groupFrom_stands (areaView s uid x.slot 0 0xC000) b.regs x
    rw [hxg] at hslot hrun hctx
    rw [hslot'] at hslot hctx
    rw [hrun'] at hrun
    rw [hu', hxu, htag] at hctx
    refine ⟨x, hx, hxu, hslot.symm, hrun.symm, ?_⟩
    rw [hslot]
    exact hctx
  · rw [if_neg hxu] at hxg
    rw [← hxg] at hu
    exact absurd hu hxu

end

/-- R54: of a stack that is read back the entries stand in hardware or are those that never left the area. -/
theorem stackFrom_tag {m : List (Nat × Byte)} {n v : Nat} {old : List StackEntry}
    (h : ∀ (i : Nat) (e : StackEntry), old[i]? = some e → 16 ≤ i → e.tag = v) {e : StackEntry} (he : e ∈ stackFrom m n old) :
    e.tag = 0 ∨ e.tag = v := by
  unfold stackFrom at he
  obtain ⟨i, -, rfl⟩ := List.mem_map.mp (List.mem_reverse.mp he)
  cases hd : (old.drop 16).reverse[i]? with
  | none => exact .inl rfl
  | some e =>
    have hmem := List.mem_reverse.mp (List.mem_of_getElem? hd)
    obtain ⟨j, hj⟩ := List.mem_iff_getElem?.mp hmem
    rw [List.getElem?_drop] at hj
    exact .inr (h (16 + j) e hj (Nat.le_add_right 16 j))

/-! The block on its core. -/

/-- R21: a group that enters the sets of its partition: the blocks are as they were, and so is every group but for its times. -/
theorem enterSets_keeps (core : Nat) (s : State) (g : Group) :
    ((enterSets core s g).blk = s.blk ∧ (enterSets core s g).blks = s.blks) ∧
    ∀ y ∈ (enterSets core s g).g :: (enterSets core s g).groups, ∃ x ∈ s.g :: s.groups,
      y = { x with since := y.since, waited := y.waited } := by
  unfold enterSets
  dsimp only
  split
  · refine ⟨⟨rfl, rfl⟩, fun y hy => ?_⟩
    unfold enterActive at hy
    dsimp only at hy
    rw [updGroup_groups] at hy
    obtain ⟨x, hx, rfl⟩ := List.mem_map.mp hy
    refine ⟨x, hx, ?_⟩
    split
    · rfl
    · rfl
  · exact ⟨⟨rfl, rfl⟩, fun y hy => ⟨y, hy, rfl⟩⟩

theorem enterAll_keeps (core : Nat) (l : List Group) (s : State) :
    ((l.foldl (enterSets core) s).blk = s.blk ∧ (l.foldl (enterSets core) s).blks = s.blks) ∧
    ∀ y ∈ (l.foldl (enterSets core) s).g :: (l.foldl (enterSets core) s).groups, ∃ x ∈ s.g :: s.groups,
      y = { x with since := y.since, waited := y.waited } := by
  induction l generalizing s with
  | nil => exact ⟨⟨rfl, rfl⟩, fun y hy => ⟨y, hy, rfl⟩⟩
  | cons g t ih =>
    obtain ⟨⟨hb, hbs⟩, hg⟩ := enterSets_keeps core s g
    obtain ⟨⟨htb, htbs⟩, htg⟩ := ih (enterSets core s g)
    refine ⟨⟨htb.trans hb, htbs.trans hbs⟩, fun y hy => ?_⟩
    obtain ⟨x, hx, hxy⟩ := htg y hy
    obtain ⟨z, hz, hzx⟩ := hg x hx
    refine ⟨z, hz, ?_⟩
    rw [hxy, hzx]

theorem parkBeside_eq (s : State) (core : Nat) (g : Group) :
    parkBeside s core g = { g with parked := (parkBeside s core g).parked } := by
  unfold parkBeside
  split
  · split
    · rfl
    · rfl
  · rfl

/-- R221: a restored block on its core, with the first of the free banks. -/
def onCore (core since : Nat) (free : List Nat) (done : Bool) (b : Block) : Block :=
  { b with
    core := core, admitted := since, banks := free.take b.lstore
    phase := if done then .complete else .resident }

/-- R221: a restored block stands on its core, and its groups are those that were read back. -/
theorem restoreBlock_restores {s : State} {uid : Nat} (h : (findBlk (loadAreas s uid) uid).phase ≠ .none) (core : Nat) :
    findBlk (restoreBlock s uid core) uid =
      onCore core s.clock (freeBanks s core) (groupsOf s uid).isEmpty (findBlk (loadAreas s uid) uid) ∧
    ∀ g ∈ (restoreBlock s uid core).g :: (restoreBlock s uid core).groups, g.uid = uid →
      ∃ x ∈ (loadAreas s uid).g :: (loadAreas s uid).groups, x.uid = uid ∧ x.slot = g.slot ∧ x.run = g.run ∧ x.ctx = g.ctx := by
  unfold restoreBlock
  generalize loadAreas s uid = u at h ⊢
  extract_lets s0 s1 s2 s3
  obtain ⟨⟨hb, hbs⟩, hg⟩ := enterAll_keeps core ((groupsOf s2 uid).filter fun g => g.run != .exited) s2
  refine ⟨?_, fun g hgm hgu => ?_⟩
  · exact (findBlk_congr hb hbs uid).trans
      (findBlk_updBlk (f := onCore core s.clock (freeBanks s core) (groupsOf s uid).isEmpty) h fun _ => rfl)
  · obtain ⟨y, hy, hyg⟩ := hg g hgm
    unfold s2 at hy
    rw [modGroups_cons] at hy
    obtain ⟨x, hx, hxy⟩ := List.mem_map.mp hy
    have hgy : g.uid = y.uid ∧ g.slot = y.slot ∧ g.run = y.run ∧ g.ctx = y.ctx := by
      rw [hyg]
      exact ⟨rfl, rfl, rfl, rfl⟩
    have hyx : y.uid = x.uid ∧ y.slot = x.slot ∧ y.run = x.run ∧ y.ctx = x.ctx := by
      rw [← hxy]
      split
      · rw [parkBeside_eq]
        exact ⟨rfl, rfl, rfl, rfl⟩
      · exact ⟨rfl, rfl, rfl, rfl⟩
    obtain ⟨h1, h2, h3, h4⟩ := hgy
    obtain ⟨k1, k2, k3, k4⟩ := hyx
    exact ⟨x, hx, (h1.trans k1).symm.trans hgu, (h2.trans k2).symm, (h3.trans k3).symm, (h4.trans k4).symm⟩

/-- R221, R217: a block that is read back and whose answered commands have gone on or ended. -/
theorem loadAreas_block {s : State} {uid : Nat} (h : (findBlk s uid).phase ≠ .none) :
    ∃ m0, OnlyCmds (blockFrom (areaView s uid 32 0 (engBase (findBlk s uid) +
        sumOf ((findBlk s uid).cmds.map fun k => (cmdRecord k).length))) m0 (findBlk s uid)) (findBlk (loadAreas s uid) uid) ∧
      (∀ y ∈ (findBlk (loadAreas s uid) uid).cmds, ¬ Unanswered y) ∧
      ((∀ k ∈ (findBlk (readAreas s uid m0) uid).cmds, k.state = .faultedRetry → k.fault.isSome = true) →
        loadAreas s uid = readAreas s uid m0) := by
  obtain ⟨m0, heq⟩ := loadAreas_eq s uid
  have hread := readAreas_block h m0
  generalize hv : areaView s uid 32 0 _ = m at hread ⊢
  have hphase : (findBlk (readAreas s uid m0) uid).phase ≠ .none := by
    rw [hread]
    exact h
  obtain ⟨honly, hnone⟩ := answerCmds_block _ hphase fun y hy _ => hy
  refine ⟨m0, ?_, ?_, fun hk => ?_⟩
  · rw [heq, ← hread]
    exact honly
  · rw [heq]
    exact hnone
  · rw [heq]
    exact answerCmds_answered _ hk

end Sys2Proof.Machine
end

section
/-! PROOFS. Pre-emption, save and restore (R203, R218 to R221). -/

namespace Sys2Proof.Machine

/-- R199: a new cycle of the dispatcher changes what has been served in it, and nothing else. -/
theorem dispatchCycle_frame (s : State) :
    dispatchCycle s = { s with served := (dispatchCycle s).served, taken := (dispatchCycle s).taken } := by
  unfold dispatchCycle
  split
  · rfl
  · rfl

/-- R221: what the turn of a saved block that stands alone in its span makes of the state. -/
def restored (s : State) (uid port core : Nat) : State :=
  markServed (dropDeferral (freeAreas (restoreBlock (dispatchCycle s) uid core) [uid]) port fun x => x == .restore [uid])
    (frontClass (dispatchCycle s) port) port [core]

section

variable {s : State} {uid : Nat}

/-- R221: a saved block at the front of its port's queue, in its port's turn. -/
theorem blockRestore_restores {d : Demand} {core : Nat × Nat}
    (hfront : frontOf (dispatchCycle s) (findBlk s uid).port = .restore [uid])
    (hd : frontDemand (dispatchCycle s) (findBlk s uid).port = some d) (hp : (findBlk s uid).phase = .saved)
    (hplace : choosePlace (dispatchCycle s) (findBlk s uid).port d = .at [core])
    (hturn : hasTurn (dispatchCycle s) (findBlk s uid).port = true) :
    exec (.blockRestore uid) s = .next (restored s uid (findBlk s uid).port core.1) := by
  have hsaved : (hasNat [uid] uid && [uid].all fun u => (findBlk (dispatchCycle s) u).phase == .saved) = true := by
    have hblk : findBlk (dispatchCycle s) uid = findBlk s uid := by
      rw [dispatchCycle_frame]
      rfl
    simp [hasNat, hblk, hp]
  show execBlockRestore uid s = _
  unfold execBlockRestore
  dsimp only
  rw [hfront, hd]
  dsimp only
  rw [if_pos hsaved, hplace]
  dsimp only
  rw [if_pos hturn]
  rfl

/-- R93, R199, R207: once a block is restored, its areas are freed and its port has been served. -/
theorem restored_keeps (port core : Nat) :
    (restored s uid port core).mem = s.mem ∧
    (restored s uid port core).g = (restoreBlock (dispatchCycle s) uid core).g ∧
    (restored s uid port core).groups = (restoreBlock (dispatchCycle s) uid core).groups ∧
    findBlk (restored s uid port core) uid = findBlk (restoreBlock (dispatchCycle s) uid core) uid := by
  have hmem : (restoreBlock (dispatchCycle s) uid core).mem = s.mem :=
    (mem_of_memories (restoreBlock_memories _ uid core)).trans (mem_of_memories (dispatchCycle_memories s))
  unfold restored
  generalize restoreBlock (dispatchCycle s) uid core = u at hmem ⊢
  have hkeep := dropDeferral_keepsLines (freeAreas u [uid]) port fun x => x == .restore [uid]
  have hdrop := mem_of_memories (dropDeferral_memories (freeAreas u [uid]) port fun x => x == .restore [uid])
  generalize dropDeferral (freeAreas u [uid]) port (fun x => x == .restore [uid]) = w at hkeep hdrop ⊢
  exact ⟨hdrop.trans hmem, hkeep.g, hkeep.groups, findBlk_congr hkeep.blk hkeep.blks uid⟩

/-- R54, R55, R217, R221: a block that is restored under the key of its save holds what its area holds, and each of its groups
what the group's own area holds, with the entries of its stack that never left. -/
theorem restoreBlock_reads {core : Nat} (hp : (findBlk s uid).phase ≠ .none)
    (htag : mget 0 s.areaTags (areaPartKey uid 32 0) = areaTag s (findBlk s uid).vf)
    (htags : ∀ g ∈ groupsOf s uid, mget 0 s.areaTags (areaPartKey uid g.slot 0) = areaTag s (findBlk s uid).vf) :
    let b := blockFrom (mget [] s.areas (areaKey uid 32)) [] (findBlk s uid)
    let c := findBlk (restoreBlock s uid core) uid
    c.acc = b.acc ∧ c.scratch = b.scratch ∧ c.fifo = b.fifo ∧ c.furrows = (findBlk s uid).furrows ∧
    ((∀ k ∈ b.cmds, k.state = .faultedRetry → k.fault.isSome = true) →
      ∀ g ∈ groupsOf (restoreBlock s uid core) uid, ∃ g0 ∈ groupsOf s uid, g0.slot = g.slot ∧
        let c := (groupFrom (mget [] s.areas (areaKey uid g.slot)) (findBlk s uid).regs g0).ctx
        { g.ctx with stack := c.stack } = c ∧
        ((∀ i e, g0.ctx.stack[i]? = some e → 16 ≤ i → e.tag = areaTag s (findBlk s uid).vf) →
          shown g.ctx.stack = shown c.stack)) := by
  obtain ⟨m0, honly, -, hidle⟩ := loadAreas_block hp
  have hread := readAreas_block hp m0
  rw [areaView_written htag] at honly hread
  generalize mget [] s.areas (areaKey uid 32) = m at honly hread ⊢
  have hphase : (findBlk (loadAreas s uid) uid).phase ≠ .none := by
    rw [honly]
    exact hp
  obtain ⟨hblock, hgroups⟩ := restoreBlock_restores hphase core
  dsimp only
  rw [hblock]
  refine ⟨?_, ?_, ?_, ?_, fun hk g hg => ?_⟩
  · show (findBlk (loadAreas s uid) uid).acc = _
    rw [honly]
    rfl
  · show (findBlk (loadAreas s uid) uid).scratch = _
    rw [honly]
    rfl
  · show (findBlk (loadAreas s uid) uid).fifo = _
    rw [honly]
    rfl
  · show (findBlk (loadAreas s uid) uid).furrows = _
    rw [honly]
    rfl
  · rw [hidle (by rw [hread]; exact hk)] at hgroups
    obtain ⟨hmem, hrun, huid⟩ := mem_groupsOf.mp hg
    obtain ⟨x, hx, hxu, hxs, hxr, hxc⟩ := hgroups g hmem huid
    obtain ⟨g0, hg0, hu0, hs0, hr0, hctx⟩ := readAreas_group hp m0 hx hxu
    have hin : g0 ∈ groupsOf s uid := mem_groupsOf.mpr ⟨hg0, by rw [hr0, hxr]; exact hrun, hu0⟩
    have htag0 := htags g0 hin
    rw [hs0] at htag0
    rw [areaView_written htag0, hxs, hxc] at hctx
    refine ⟨g0, hin, hs0.trans hxs, ?_, fun hst => ?_⟩
    · rw [hctx]
    · rw [hctx]
      exact shown_placeStack (fun i e he _ => stackFrom_tag hst (List.mem_of_getElem? he)) _ _

end

/-- Settles O50: a pre-emption by `stopBlocks_stops`, a save by `contextSave_saves`, a restore by `restoreBlock_reads`; what is
read back by `groupFrom_groupArea` and the lemmas about `blockFrom`. -/
theorem preemptionSaveRestore : Obligations.PreemptionSaveRestore := by
  refine ⟨fun s port uid d us cores => ⟨fun hd hp hv hne => ?_, fun hp hj hk ht hf => contextSave_saves hp hj hk ht hf, ?_⟩,
    fun b g g0 h => groupFrom_groupArea h g0, fun b exited span old m0 h hold => ⟨fun p o hf hp hlo hhi => ?_, fun k hk => ?_,
      fun k hk => ?_, fun a ha hf => ?_⟩⟩
  · obtain ⟨hblocks, hgroup⟩ := stopBlocks_stops s us
    exact ⟨_, preemption_stops hd hp hv hne, mem_of_memories (stopBlocks_memories s us), hblocks, hgroup⟩
  · intro s0 hfront hd hp hplace hlen hturn
    obtain ⟨core, rfl⟩ := List.length_eq_one_iff.mp hlen
    obtain ⟨hmem, hfocus, hgroups, hblk⟩ := restored_keeps (s := s) (uid := uid) (findBlk s uid).port core.1
    have hcycle : findBlk (dispatchCycle s) uid = findBlk s uid := by
      rw [dispatchCycle_frame]
      rfl
    have hstands : (findBlk (dispatchCycle s) uid).phase ≠ .none := by
      rw [hcycle, hp]
      decide
    obtain ⟨m0, honly, hnone, -⟩ := loadAreas_block hstands
    have hphase : (findBlk (loadAreas (dispatchCycle s) uid) uid).phase ≠ .none := by
      rw [honly]
      exact hstands
    obtain ⟨hblock, -⟩ := restoreBlock_restores hphase core.1
    refine ⟨_, blockRestore_restores hfront hd hp hplace hturn, hmem, ?_, ?_, ?_, fun htag htags => ?_⟩
    · rw [hblk, hblock]
      rfl
    · rw [hblk, hblock]
      unfold onCore
      dsimp only
      split
      · exact .inr rfl
      · exact .inl rfl
    · rw [hblk, hblock]
      intro y hy hs
      by_contra hno
      exact hnone y hy ⟨hs, by simpa using hno⟩
    · have hgroupsOf : groupsOf (restored s uid (findBlk s uid).port core.1) uid =
          groupsOf (restoreBlock (dispatchCycle s) uid core.1) uid := by
        unfold groupsOf allGroups
        rw [hfocus, hgroups]
      have hareas : (dispatchCycle s).areas = s.areas ∧ (dispatchCycle s).areaTags = s.areaTags ∧
          groupsOf (dispatchCycle s) uid = groupsOf s uid ∧
          areaTag (dispatchCycle s) (findBlk s uid).vf = areaTag s (findBlk s uid).vf := by
        rw [dispatchCycle_frame]
        exact ⟨rfl, rfl, rfl, rfl⟩
      obtain ⟨ha, hat, hgs, htagv⟩ := hareas
      have hreads := restoreBlock_reads (s := dispatchCycle s) (uid := uid) (core := core.1) hstands
        (by rw [hat, hcycle, htagv]; exact htag) (by rw [hat, hgs, hcycle, htagv]; exact htags)
      rw [hcycle, ha, hgs, htagv] at hreads
      rw [hblk, hgroupsOf]
      exact hreads
  · exact mget_blockArea_furrow h exited hf hp hlo hhi
  · exact blockFrom_acc h exited hk
  · exact blockFrom_fifo h exited hk
  · exact blockFrom_scratch h exited hold ha hf

end Sys2Proof.Machine
end

section
/-! SUPPORT. Fields laid side by side read back (R255, R262 to R270), format by format. -/

namespace Sys2Proof.Machine

/-- Every field of a word holds a value of its width. -/
def FieldsFit (l : List (Nat × Nat)) : Prop := ∀ e ∈ l, e.2 < 2 ^ e.1

@[simp] theorem fieldsFit_nil : FieldsFit [] := by simp [FieldsFit]

@[simp] theorem fieldsFit_cons (w v : Nat) (l : List (Nat × Nat)) : FieldsFit ((w, v) :: l) ↔ v < 2 ^ w ∧ FieldsFit l := by
  simp [FieldsFit]

/-- The fields of a word read back as they were laid side by side, however many of them are read. -/
theorem unpack_pack {ws : List Nat} {l : List (Nat × Nat)} (hw : ws = (l.take ws.length).map (·.1)) (h : FieldsFit l) :
    unpack ws (pack l) = (l.take ws.length).map (·.2) := by
  induction ws generalizing l with
  | nil => rfl
  | cons w ws ih =>
    cases l with
    | nil => simp at hw
    | cons e t =>
      obtain ⟨w', v⟩ := e
      obtain ⟨hv, ht⟩ := (fieldsFit_cons w' v t).mp h
      simp only [List.length_cons, List.take_succ_cons, List.map_cons, List.cons.injEq] at hw
      obtain ⟨rfl, hws⟩ := hw
      simp only [unpack, pack, List.length_cons, List.take_succ_cons, List.map_cons, Nat.add_mul_mod_self_left,
        Nat.mod_eq_of_lt hv, Nat.add_mul_div_left _ _ (Nat.two_pow_pos w), Nat.div_eq_of_lt hv, Nat.zero_add]
      rw [ih hws ht]

/-- A word is as wide as its fields together. -/
theorem pack_lt {l : List (Nat × Nat)} (h : FieldsFit l) : pack l < 2 ^ (l.map (·.1)).sum := by
  induction l with
  | nil => simp [pack]
  | cons e t ih =>
    obtain ⟨hv, ht⟩ := (fieldsFit_cons e.1 e.2 t).mp h
    have := ih ht
    simp only [pack, List.map_cons, List.sum_cons, Nat.pow_add]
    nlinarith [Nat.two_pow_pos e.1]

theorem flag_toNat (b : Bool) : flag b.toNat = b := by cases b <;> rfl

theorem bool_lt_width (b : Bool) : b.toNat < 2 ^ 1 := b.toNat_lt

theorem seven_lt_width : 7 < 2 ^ 3 := by decide

/-- The fields of a word of 4 bytes, of its opcode and below it. -/
theorem fieldsFit_four {op : Nat} (h : op < 2 ^ 6) {l : List (Nat × Nat)} (hl : FieldsFit l) :
    FieldsFit ((2, 1) :: (6, op) :: l) := by
  simp only [fieldsFit_cons]
  exact ⟨by decide, h, hl⟩

theorem fieldsFit_eight {op : Nat} (h : op < 2 ^ 8) {l : List (Nat × Nat)} (hl : FieldsFit l) :
    FieldsFit ((2, 3) :: (8, op) :: l) := by
  simp only [fieldsFit_cons]
  exact ⟨by decide, h, hl⟩

/-- R264: the opcode of a word of 4 bytes. -/
theorem opcode_of_four {op : Nat} (h : op < 2 ^ 6) (t : List (Nat × Nat)) : pack ((2, 1) :: (6, op) :: t) / 4 % 64 = op := by
  simp only [pack]
  omega

/-- R270: the opcode of a word of 8 bytes. -/
theorem opcode_of_eight {op : Nat} (h : op < 2 ^ 8) (t : List (Nat × Nat)) :
    pack ((2, 3) :: (8, op) :: t) / 4 % 256 = op := by
  simp only [pack]
  omega

/-- R255: the length of an instruction rests on the two lowest bits of its word. -/
theorem lengthOf_mod (x : Nat) : lengthOf (x % 256) = lengthOf x := by
  simp only [lengthOf, show x % 256 % 2 = x % 2 by omega, show x % 256 % 4 = x % 4 by omega]

theorem lengthOf_two (t : List (Nat × Nat)) : lengthOf (pack ((1, 0) :: t)) = 2 := by
  have h : pack ((1, 0) :: t) % 2 = 0 := by simp only [pack]; omega
  simp [lengthOf, h]

theorem lengthOf_four (t : List (Nat × Nat)) : lengthOf (pack ((2, 1) :: t)) = 4 := by
  have h : pack ((2, 1) :: t) % 4 = 1 := by simp only [pack]; omega
  have h2 : pack ((2, 1) :: t) % 2 ≠ 0 := by omega
  simp [lengthOf, h, h2]

theorem lengthOf_eight (t : List (Nat × Nat)) : lengthOf (pack ((2, 3) :: t)) = 8 := by
  have h : pack ((2, 3) :: t) % 4 = 3 := by simp only [pack]; omega
  have h2 : pack ((2, 3) :: t) % 2 ≠ 0 := by omega
  simp [lengthOf, h, h2]

/-- R255, R271: the word of an instruction has its length, says so in its lowest bits, and holds the instruction. -/
structure Encodes (i : Instr) : Prop where
  raw : rawWord (byteLen i) (encode i) = some i
  length : lengthOf (encode i) = byteLen i
  bound : encode i < 2 ^ (8 * byteLen i)

/-- R262: a word of 2 bytes. -/
theorem encodes_two {i : Instr} {l : List (Nat × Nat)} (he : encode i = pack ((1, 0) :: l)) (hn : byteLen i = 2)
    (hl : FieldsFit l) (hs : (l.map (·.1)).sum ≤ 15) (hr : rawC16 (pack ((1, 0) :: l)) = some i) : Encodes i where
  raw := by rw [hn, he]; exact hr
  length := by rw [hn, he]; exact lengthOf_two l
  bound := by
    rw [hn, he]
    refine Nat.lt_of_lt_of_le (pack_lt (by simp [hl])) (Nat.pow_le_pow_right (by decide) ?_)
    simp only [List.map_cons, List.sum_cons]
    omega

/-- R263: a word of 4 bytes with an opcode. -/
theorem encodes_four {i : Instr} {op : Nat} {l : List (Nat × Nat)} (he : encode i = pack ((2, 1) :: (6, op) :: l))
    (hn : byteLen i = 4) (hop : op < 2 ^ 6) (hl : FieldsFit l) (hs : (l.map (·.1)).sum ≤ 24)
    (hr : ∀ w, w / 4 % 64 = op → w = pack ((2, 1) :: (6, op) :: l) → rawW32 w = some i) : Encodes i where
  raw := by rw [hn, he]; exact hr _ (opcode_of_four hop l) rfl
  length := by rw [hn, he]; exact lengthOf_four _
  bound := by
    rw [hn, he]
    refine Nat.lt_of_lt_of_le (pack_lt (fieldsFit_four hop hl)) (Nat.pow_le_pow_right (by decide) ?_)
    simp only [List.map_cons, List.sum_cons]
    omega

/-- R266: a word of 8 bytes with an opcode. -/
theorem encodes_eight {i : Instr} {op : Nat} {l : List (Nat × Nat)} (he : encode i = pack ((2, 3) :: (8, op) :: l))
    (hn : byteLen i = 8) (hop : op < 2 ^ 8) (hl : FieldsFit l) (hs : (l.map (·.1)).sum ≤ 54)
    (hr : ∀ w, w / 4 % 256 = op → w = pack ((2, 3) :: (8, op) :: l) → rawL64 w = some i) : Encodes i where
  raw := by rw [hn, he]; exact hr _ (opcode_of_eight hop l) rfl
  length := by rw [hn, he]; exact lengthOf_eight _
  bound := by
    rw [hn, he]
    refine Nat.lt_of_lt_of_le (pack_lt (fieldsFit_eight hop hl)) (Nat.pow_le_pow_right (by decide) ?_)
    simp only [List.map_cons, List.sum_cons]
    omega

/-- R263: what the fields of WR read back as. -/
theorem rawWR_encWR {op sub : Nat} {w : BitVec 3} {d a b : BitVec 6} (hop : op < 2 ^ 6) (hsub : sub < 2 ^ 3)
    (k : Nat → BitVec 3 → BitVec 6 → BitVec 6 → BitVec 6 → Option Instr) :
    rawWR (encWR op sub w d a b) k = k sub w d a b := by
  have hf : FieldsFit [(6, d.toNat), (6, a.toNat), (6, b.toNat), (3, sub), (3, w.toNat)] := by
    simp only [fieldsFit_cons, fieldsFit_nil, BitVec.isLt, and_self, -Nat.reducePow, hsub]
  rw [rawWR, encWR, unpack_pack rfl (fieldsFit_four hop hf)]
  simp

/-- R263: the rows of WR. -/
theorem encodes_WR {i : Instr} {op sub : Nat} {w : BitVec 3} {d a b : BitVec 6}
    {k : Nat → BitVec 3 → BitVec 6 → BitVec 6 → BitVec 6 → Option Instr} (he : encode i = encWR op sub w d a b)
    (hn : byteLen i = 4) (hop : op < 2 ^ 6) (hsub : sub < 2 ^ 3) (hr : ∀ w, w / 4 % 64 = op → rawW32 w = rawWR w k)
    (hk : k sub w d a b = some i) : Encodes i := by
  refine encodes_four he hn hop ?_ (by simp) fun x ho hx => ?_
  · simp only [fieldsFit_cons, fieldsFit_nil, BitVec.isLt, and_self, -Nat.reducePow, hsub]
  · rw [hr x ho, hx, ← hk]
    exact rawWR_encWR hop hsub k

/-- R263: the rows of WI. -/
theorem encodes_WI {i : Instr} {op : Nat} {d a : BitVec 6} {imm : BitVec 12}
    {k : BitVec 6 → BitVec 6 → BitVec 12 → Instr} (he : encode i = encWI op d a imm) (hn : byteLen i = 4) (hop : op < 2 ^ 6)
    (hr : ∀ w, w / 4 % 64 = op → rawW32 w = rawWI w k) (hk : k d a imm = i) : Encodes i := by
  have hf : FieldsFit [(6, d.toNat), (6, a.toNat), (12, imm.toNat)] := by
    simp only [fieldsFit_cons, fieldsFit_nil, BitVec.isLt, and_self, -Nat.reducePow]
  refine encodes_four he hn hop hf (by simp) fun w ho hw => ?_
  rw [hr w ho, rawWI, hw, unpack_pack rfl (fieldsFit_four hop hf)]
  simpa [flag_toNat] using hk

/-- R263: the rows of WA. -/
theorem encodes_WA {i : Instr} {op : Nat} {d a b : BitVec 4} {r : BitVec 6}
    {k : BitVec 4 → BitVec 4 → BitVec 4 → BitVec 6 → Instr} (he : encode i = encWA op d a b r) (hn : byteLen i = 4) (hop : op < 2 ^ 6)
    (hr : ∀ w, w / 4 % 64 = op → rawW32 w = rawWA w k) (hk : k d a b r = i) : Encodes i := by
  have hf : FieldsFit [(4, d.toNat), (4, a.toNat), (4, b.toNat), (6, r.toNat), (6, 0)] := by
    simp only [fieldsFit_cons, fieldsFit_nil, BitVec.isLt, Nat.two_pow_pos, and_self, -Nat.reducePow]
  refine encodes_four he hn hop hf (by simp) fun w ho hw => ?_
  rw [hr w ho, rawWA, hw, unpack_pack rfl (fieldsFit_four hop hf)]
  simpa [flag_toNat] using hk

/-- R263: the rows of WM. -/
theorem encodes_WM {i : Instr} {op : Nat} {f : WmF}
    {k : WmF → Instr} (he : encode i = encWM op f) (hn : byteLen i = 4) (hop : op < 2 ^ 6)
    (hr : ∀ w, w / 4 % 64 = op → rawW32 w = rawWM w k) (hk : k f = i) : Encodes i := by
  have hf : FieldsFit [(6, f.r.toNat), (4, f.n.toNat), (3, f.size.toNat), (1, f.signed.toNat), (1, f.ord.toNat), (3, f.scope.toNat),
      (6, f.imm.toNat)] := by
    simp only [fieldsFit_cons, fieldsFit_nil, BitVec.isLt, bool_lt_width, and_self, -Nat.reducePow]
  refine encodes_four he hn hop hf (by simp) fun w ho hw => ?_
  rw [hr w ho, rawWM, hw, unpack_pack rfl (fieldsFit_four hop hf)]
  simpa [flag_toNat] using hk

/-- R263: the rows of WB. -/
theorem encodes_WB {i : Instr} {op : Nat} {c : BitVec 3} {neg : Bool} {off : BitVec 20}
    {k : BitVec 3 → Bool → BitVec 20 → Instr} (he : encode i = encWB op c neg off) (hn : byteLen i = 4) (hop : op < 2 ^ 6)
    (hr : ∀ w, w / 4 % 64 = op → rawW32 w = rawWB w k) (hk : k c neg off = i) : Encodes i := by
  have hf : FieldsFit [(3, c.toNat), (1, neg.toNat), (20, off.toNat)] := by
    simp only [fieldsFit_cons, fieldsFit_nil, BitVec.isLt, bool_lt_width, and_self, -Nat.reducePow]
  refine encodes_four he hn hop hf (by simp) fun w ho hw => ?_
  rw [hr w ho, rawWB, hw, unpack_pack rfl (fieldsFit_four hop hf)]
  simpa [flag_toNat] using hk

/-- R263: the rows of WJ. -/
theorem encodes_WJ {i : Instr} {op : Nat} {n : BitVec 4}
    {k : BitVec 4 → Instr} (he : encode i = encWJ op n) (hn : byteLen i = 4) (hop : op < 2 ^ 6)
    (hr : ∀ w, w / 4 % 64 = op → rawW32 w = rawWJ w k) (hk : k n = i) : Encodes i := by
  have hf : FieldsFit [(4, n.toNat), (20, 0)] := by
    simp only [fieldsFit_cons, fieldsFit_nil, BitVec.isLt, Nat.two_pow_pos, and_self, -Nat.reducePow]
  refine encodes_four he hn hop hf (by simp) fun w ho hw => ?_
  rw [hr w ho, rawWJ, hw, unpack_pack rfl (fieldsFit_four hop hf)]
  simpa [flag_toNat] using hk

/-- R263, R265: the rows of WS. -/
theorem encodes_WS {i : Instr} {op : Nat} {r : BitVec 6} {imm : Nat} {c : BitVec 3}
    {k : BitVec 6 → Nat → BitVec 3 → Instr} (he : encode i = encWS op r imm c) (hn : byteLen i = 4) (hop : op < 2 ^ 6) (himm : imm < 2 ^ 8)
    (hr : ∀ w, w / 4 % 64 = op → rawW32 w = rawWS w k) (hk : k r imm c = i) : Encodes i := by
  have hf : FieldsFit [(6, r.toNat), (8, imm), (3, c.toNat), (7, 0)] := by
    simp only [fieldsFit_cons, fieldsFit_nil, BitVec.isLt, Nat.two_pow_pos, and_self, -Nat.reducePow, himm]
  refine encodes_four he hn hop hf (by simp) fun w ho hw => ?_
  rw [hr w ho, rawWS, hw, unpack_pack rfl (fieldsFit_four hop hf)]
  simpa [flag_toNat] using hk

/-- R266, R269: the rows of LM. -/
theorem encodes_LM {i : Instr} {op : Nat} {f : LmF}
    {k : LmF → Instr} (he : encode i = encLM op f) (hn : byteLen i = 8) (hop : op < 2 ^ 8)
    (hr : ∀ w, w / 4 % 256 = op → rawL64 w = rawLM w k) (hk : k f = i) : Encodes i := by
  have hf : FieldsFit [(3, f.g.pg.toNat), (1, f.g.pn.toNat), (3, 0), (8, f.vd.toNat), (8, f.vo.toNat), (4, f.n.toNat),
      (3, f.size.toNat), (1, f.sign.toNat), (1, f.ord.toNat), (3, f.scope.toNat), (1, f.lrd.toNat), (1, f.lro.toNat),
      (1, f.os.toNat), (3, f.scale.toNat), (5, f.stride.toNat), (8, f.imm.toNat)] := by
    simp only [fieldsFit_cons, fieldsFit_nil, BitVec.isLt, bool_lt_width, Nat.two_pow_pos, and_self, -Nat.reducePow]
  refine encodes_eight he hn hop hf (by simp) fun w ho hw => ?_
  rw [hr w ho, rawLM, hw, unpack_pack rfl (fieldsFit_eight hop hf)]
  simpa [flag_toNat] using hk

/-- R266, R269: the rows of LA. -/
theorem encodes_LA {i : Instr} {op : Nat} {f : LaF}
    {k : LaF → Instr} (he : encode i = encLA op f) (hn : byteLen i = 8) (hop : op < 2 ^ 8)
    (hr : ∀ w, w / 4 % 256 = op → rawL64 w = rawLA w k) (hk : k f = i) : Encodes i := by
  have hf : FieldsFit [(3, f.g.pg.toNat), (1, f.g.pn.toNat), (3, 0), (8, f.vd.toNat), (8, f.va.toNat), (8, f.vb.toNat),
      (8, f.vc.toNat), (4, f.n.toNat), (5, f.aop.toNat), (3, f.scope.toNat), (2, f.order.toNat), (1, f.w64.toNat)] := by
    simp only [fieldsFit_cons, fieldsFit_nil, BitVec.isLt, bool_lt_width, Nat.two_pow_pos, and_self, -Nat.reducePow]
  refine encodes_eight he hn hop hf (by simp) fun w ho hw => ?_
  rw [hr w ho, rawLA, hw, unpack_pack rfl (fieldsFit_eight hop hf)]
  simpa [flag_toNat] using hk

/-- R128: the rows of LZ. -/
theorem encodes_LZ {i : Instr} {op : Nat} {f : LzF}
    {k : LzF → Instr} (he : encode i = encLZ op f) (hn : byteLen i = 8) (hop : op < 2 ^ 8)
    (hr : ∀ w, w / 4 % 256 = op → rawL64 w = rawLZ w k) (hk : k f = i) : Encodes i := by
  have hf : FieldsFit [(3, f.g.pg.toNat), (1, f.g.pn.toNat), (3, 0), (8, f.base.toNat), (7, f.arow.toNat),
      (3, f.mc.toNat), (2, f.nc.toNat), (3, f.acol.toNat), (4, f.n.toNat), (3, f.fmt.toNat), (6, f.hi.toNat),
      (1, f.sat.toNat), (10, 0)] := by
    simp only [fieldsFit_cons, fieldsFit_nil, BitVec.isLt, bool_lt_width, Nat.two_pow_pos, and_self, -Nat.reducePow]
  refine encodes_eight he hn hop hf (by simp) fun w ho hw => ?_
  rw [hr w ho, rawLZ, hw, unpack_pack rfl (fieldsFit_eight hop hf)]
  simpa [flag_toNat] using hk

/-- R181: the rows of LX. -/
theorem encodes_LX {i : Instr} {op : Nat} {f : LxF} {further : Nat}
    {k : LxF → Nat → Instr} (he : encode i = encLX op f further) (hn : byteLen i = 8) (hop : op < 2 ^ 8) (hx : further < 2 ^ 18)
    (hr : ∀ w, w / 4 % 256 = op → rawL64 w = rawLX w k) (hk : k f further = i) : Encodes i := by
  have hf : FieldsFit [(3, 7), (1, 0), (3, 0), (6, f.sd.toNat), (4, f.n.toNat), (18, further), (3, f.scope.toNat),
      (1, f.acq.toNat), (1, f.rel.toNat), (14, 0)] := by
    simp only [fieldsFit_cons, fieldsFit_nil, BitVec.isLt, bool_lt_width, Nat.two_pow_pos, and_self, -Nat.reducePow, hx, seven_lt_width]
  refine encodes_eight he hn hop hf (by simp) fun w ho hw => ?_
  rw [hr w ho, rawLX, hw, unpack_pack rfl (fieldsFit_eight hop hf)]
  simpa [flag_toNat] using hk


/-- R267: the fields vb, vc and modifiers of LV give back sources b and c, where c stands at zero beside an immediate. -/
theorem rawB_encB {b : BSrc} {c : VSrc} (h : ∀ i, b = .imm i → c.reg = 0) :
    rawB (encB b c).1 (encB b c).2.1 (encB b c).2.2.1 c.lr.toNat (encB b c).2.2.2.1 (encB b c).2.2.2.2 = (b, c) := by
  cases b with
  | vec r => simp [encB, rawB, flag_toNat]
  | scal s => simp [encB, rawB, flag_toNat]
  | imm i =>
    have hc : (0 : BitVec 8) = c.reg := (h i rfl).symm
    have hi : BitVec.ofNat 16 (i.toNat % 256 + 256 * (i.toNat / 256)) = i := by
      rw [Nat.mod_add_div, BitVec.ofNat_toNat, BitVec.setWidth_eq]
    simp [encB, rawB, flag_toNat, hi, hc]

/-- The fields of sources b and c have their widths. -/
theorem encB_fits (b : BSrc) (c : VSrc) :
    (encB b c).1 < 2 ^ 8 ∧ (encB b c).2.1 < 2 ^ 8 ∧ (encB b c).2.2.1 < 2 ^ 1 ∧ (encB b c).2.2.2.1 < 2 ^ 1 ∧
      (encB b c).2.2.2.2 < 2 ^ 1 := by
  cases b with
  | vec r => exact ⟨r.reg.isLt, c.reg.isLt, r.lr.toNat_lt, Nat.two_pow_pos 1, Nat.two_pow_pos 1⟩
  | scal s => exact ⟨Nat.lt_trans s.isLt (by decide), c.reg.isLt, Nat.two_pow_pos 1, Nat.two_pow_pos 1, Nat.lt_two_pow_self⟩
  | imm i =>
    have := i.isLt
    exact ⟨by simp only [encB]; omega, by simp only [encB]; omega, Nat.two_pow_pos 1, Nat.lt_two_pow_self, Nat.two_pow_pos 1⟩

/-- R267: a form that takes an immediate leaves source c unused. -/
theorem LvF.fits_immediate {f : LvF} {a : Bool} {b : BForms} {c : Bool} {d : DstKind} {e : Bool}
    (h : f.fits a b c d e = true) (hbc : b = .vsi → c = false) : ∀ i, f.b = .imm i → f.c.reg = 0 := by
  intro i hi
  simp only [LvF.fits, Bool.and_eq_true, Bool.or_eq_true] at h
  obtain ⟨⟨⟨⟨-, hb⟩, hc⟩, -⟩, -⟩ := h
  rw [hi] at hb
  cases b with
  | none => cases hb
  | vs => cases hb
  | vsi =>
    rcases hc with hc | hc
    · rw [hbc rfl] at hc; cases hc
    · simp only [VSrc.unused, Bool.and_eq_true, beq_iff_eq] at hc
      exact hc.1

theorem LvF.fitsVli_immediate {f : LvF} (h : f.fitsVli = true) : ∀ i, f.b = .imm i → f.c.reg = 0 := by
  intro i hi
  simp [LvF.fitsVli, hi] at h

/-- R266, R267: the rows of LV. -/
theorem encodes_LV {i : Instr} {op : Nat} {f : LvF} {k : LvF → Instr} (he : encode i = encLV op f) (hn : byteLen i = 8)
    (hop : op < 2 ^ 8) (hc : ∀ i, f.b = .imm i → f.c.reg = 0)
    (hr : ∀ w, w / 4 % 256 = op → rawL64 w = rawLV w k) (hk : k f = i) : Encodes i := by
  obtain ⟨h1, h2, h3, h4, h5⟩ := encB_fits f.b f.c
  have hf : FieldsFit [(3, f.g.pg.toNat), (1, f.g.pn.toNat), (3, f.stall.toNat), (8, f.vd.toNat), (8, f.a.reg.toNat),
      (8, (encB f.b f.c).1), (8, (encB f.b f.c).2.1), (1, f.a.lr.toNat), (1, (encB f.b f.c).2.2.1), (1, f.c.lr.toNat),
      (2, 0), (1, (encB f.b f.c).2.2.2.1), (1, (encB f.b f.c).2.2.2.2), (8, f.ext.toNat)] := by
    simp only [fieldsFit_cons, fieldsFit_nil, BitVec.isLt, bool_lt_width, Nat.two_pow_pos, and_self, -Nat.reducePow, h1, h2,
      h3, h4, h5]
  refine encodes_eight he hn hop hf (by simp) fun w ho hw => ?_
  rw [hr w ho, rawLV, hw, unpack_pack rfl (fieldsFit_eight hop hf)]
  simpa [flag_toNat, rawB_encB hc] using hk

/-- R262: the rows of C16. -/
theorem encodes_C16 {i : Instr} {op : Nat} {lr : Bool} {vs vd : BitVec 5} {k : Bool → BitVec 5 → BitVec 5 → Instr}
    (he : encode i = encC16 op lr vs vd) (hn : byteLen i = 2) (hop : op < 2 ^ 4)
    (hr : ∀ w d s l, unpack [1, 4, 5, 5, 1] w = [0, op, d, s, l] →
      rawC16 w = some (k (flag l) (BitVec.ofNat 5 s) (BitVec.ofNat 5 d)))
    (hk : k lr vs vd = i) : Encodes i := by
  have hf : FieldsFit [(4, op), (5, vd.toNat), (5, vs.toNat), (1, lr.toNat)] := by
    simp only [fieldsFit_cons, fieldsFit_nil, BitVec.isLt, bool_lt_width, and_self, -Nat.reducePow, hop]
  refine encodes_two he hn hf (by simp) ?_
  rw [hr _ _ _ _ (unpack_pack rfl ((fieldsFit_cons _ _ _).mpr ⟨by decide, hf⟩))]
  simpa [flag_toNat] using hk

/-- The first register of a SPILL or FILL and their number read back from bits [44:27] (R288). -/
theorem range_fields (first count : BitVec 8) :
    BitVec.ofNat 8 (first.toNat + 256 * count.toNat) = first ∧ BitVec.ofNat 8 ((first.toNat + 256 * count.toNat) / 256) = count := by
  have := first.isLt
  constructor <;> apply BitVec.eq_of_toNat_eq <;> simp only [BitVec.toNat_ofNat] <;> omega

end Sys2Proof.Machine
end

section
/-! PROOFS. Decoding the encoding of an instruction gives it back (R255, R262 to R271). -/

namespace Sys2Proof.Machine

/-- R255 to R271: every instruction of the opcode tables has a word that holds it. -/
theorem encodes_of_wellFormed {i : Instr} (h : wellFormed i = true) (he : isEvent i = false) : Encodes i := by
  cases i with
  | vmovC16 lr vs vd | vaddC16 lr vs vd | vsubC16 lr vs vd | vmulC16 lr vs vd | vandC16 lr vs vd | vorC16 lr vs vd
  | vxorC16 lr vs vd | vshlC16 lr vs vd | vshrC16 lr vs vd | vminC16 lr vs vd | vmaxC16 lr vs vd | vfaddC16 lr vs vd
  | vfsubC16 lr vs vd | vfmulC16 lr vs vd | vfminC16 lr vs vd | vfmaxC16 lr vs vd =>
    exact encodes_C16 rfl rfl (by decide) (fun w d s l hw => by rw [rawC16, hw]; rfl) rfl
  | nop | exit | fetchb | yield | frwkill =>
    exact encodes_four rfl rfl (by decide) (by simp) (by simp) fun w hw _ => by rw [rawW32, hw]; rfl
  | imx imm =>
    refine encodes_four rfl rfl (by decide) ((fieldsFit_cons _ _ _).mpr ⟨imm.isLt, fieldsFit_nil⟩) (by simp) fun w hw he => ?_
    unfold rawW32
    rw [hw]
    have hi : w / 256 = imm.toNat := by rw [he]; simp only [pack]; omega
    simp [hi]
  | sadd w d a b | ssub w d a b | sand w d a b | sor w d a b | sxor w d a b | sshl w d a b | sshr w d a b
  | ssra w d a b | smul w d a b | smulhs w d a b | smulhu w d a b | smins w d a b | smaxs w d a b | sminu w d a b
  | smaxu w d a b | sdivs w d a b | sdivu w d a b | srems w d a b | sremu w d a b | sclz w d a | sctz w d a
  | spopc w d a =>
    exact encodes_WR rfl rfl (by decide) (by decide) (fun w hw => by rw [rawW32, hw]; rfl) rfl
  | ssel w c d a b =>
    exact encodes_WR rfl rfl (by decide) c.isLt (fun w hw => by rw [rawW32, hw]; rfl) (by simp)
  | saddi d a imm | sandi d a imm | sori d a imm | sxori d a imm | sshli d a imm | sshri d a imm | ssrai d a imm =>
    exact encodes_WI rfl rfl (by decide) (fun w hw => by rw [rawW32, hw]; rfl) rfl
  | sli d imm =>
    have hf : FieldsFit [(6, d.toNat), (18, imm.toNat)] := by
      simp only [fieldsFit_cons, fieldsFit_nil, BitVec.isLt, and_self, -Nat.reducePow]
    refine encodes_four rfl rfl (by decide) hf (by simp) fun w hw he => ?_
    unfold rawW32
    rw [hw]
    simp only []
    rw [he, unpack_pack rfl (fieldsFit_four (by decide) hf)]
    simp
  | scmp c k a b =>
    have hf : FieldsFit [(3, c.toNat), (4, k.toNat), (6, a.toNat), (6, b.toNat), (5, 0)] := by
      simp only [fieldsFit_cons, fieldsFit_nil, BitVec.isLt, Nat.two_pow_pos, and_self, -Nat.reducePow]
    refine encodes_four rfl rfl (by decide) hf (by simp) fun w hw he => ?_
    unfold rawW32
    rw [hw]
    simp only []
    rw [he, unpack_pack rfl (fieldsFit_four (by decide) hf)]
    simp
  | scmpi c k a imm =>
    have hf : FieldsFit [(3, c.toNat), (4, k.toNat), (6, a.toNat), (11, imm.toNat)] := by
      simp only [fieldsFit_cons, fieldsFit_nil, BitVec.isLt, and_self, -Nat.reducePow]
    refine encodes_four rfl rfl (by decide) hf (by simp) fun w hw he => ?_
    unfold rawW32
    rw [hw]
    simp only []
    rw [he, unpack_pack rfl (fieldsFit_four (by decide) hf)]
    simp
  | aadd d a b | amov d b | aget d a | asub d a b | launch d a =>
    exact encodes_WA rfl rfl (by decide) (fun w hw => by rw [rawW32, hw]; rfl) rfl
  | aaddi d a imm =>
    have hf : FieldsFit [(4, d.toNat), (4, a.toNat), (16, imm.toNat)] := by
      simp only [fieldsFit_cons, fieldsFit_nil, BitVec.isLt, and_self, -Nat.reducePow]
    refine encodes_four rfl rfl (by decide) hf (by simp) fun w hw he => ?_
    unfold rawW32
    rw [hw]
    simp only []
    rw [he, unpack_pack rfl (fieldsFit_four (by decide) hf)]
    simp
  | sld f | sst f | ald f | ast f | ipf level n b =>
    exact encodes_WM rfl rfl (by decide) (fun w hw => by rw [rawW32, hw]; rfl) rfl
  | br off | brc c neg off | call off | brva p neg off | brvn p neg off | brvl p neg off =>
    exact encodes_WB rfl rfl (by decide) (fun w hw => by rw [rawW32, hw]; rfl) rfl
  | ret n | jmpa n | calla n | frwon n =>
    exact encodes_WJ rfl rfl (by decide) (fun w hw => by rw [rawW32, hw]; rfl) rfl
  | trap code | bkpt code =>
    exact encodes_WS rfl rfl (by decide) (Nat.lt_of_lt_of_le code.isLt (by decide)) (fun w hw => by rw [rawW32, hw]; rfl)
      (by simp)
  | waith h | canch h | setfmt h | setgang h | frwoff h =>
    exact encodes_WS rfl rfl (by decide) (by decide) (fun w hw => by rw [rawW32, hw]; rfl) rfl
  | testh c mask h =>
    exact encodes_WS rfl rfl (by decide) (Nat.lt_of_lt_of_le mask.isLt (by decide)) (fun w hw => by rw [rawW32, hw]; rfl)
      (by simp)
  | sysrd index d | syswr index b =>
    exact encodes_WS rfl rfl (by decide) (Nat.lt_of_lt_of_le index.isLt (by decide)) (fun w hw => by rw [rawW32, hw]; rfl)
      (by simp)
  | bar n | bars n =>
    exact encodes_WS rfl rfl (by decide) (Nat.lt_of_lt_of_le n.isLt (by decide)) (fun w hw => by rw [rawW32, hw]; rfl)
      (by simp)
  | fence kind scope =>
    exact encodes_WS rfl rfl (by decide) (Nat.lt_of_lt_of_le kind.isLt (by decide)) (fun w hw => by rw [rawW32, hw]; rfl)
      (by simp)
  | eret mode =>
    exact encodes_WS rfl rfl (by decide) (Nat.lt_of_lt_of_le mode.isLt (by decide)) (fun w hw => by rw [rawW32, hw]; rfl)
      (by simp)
  | frwdep c q a =>
    exact encodes_WS rfl rfl (by decide) (Nat.lt_of_lt_of_le q.isLt (by decide)) (fun w hw => by rw [rawW32, hw]; rfl)
      (by simp)
  | lcancel c kill h =>
    exact encodes_WS rfl rfl (by decide) (Nat.lt_trans kill.toNat_lt (by decide)) (fun w hw => by rw [rawW32, hw]; rfl)
      (by cases kill <;> rfl)
  | vadd f | vsub f | vmul f | vmulh f | vmad f | vaddc f | vand f | vor f | vxor f | vnot f | vshl f | vshr f
  | vsra f | vmin f | vmax f | vabs f | vneg f | vclz f | vpopc f | vbfe f | vbfi f | vsel f | vmov f | vcmp f
  | vlane f | vaddp f | vsubp f | vshlp f | vshrp f | vsrap f | vminp f | vmaxp f | vdot8 f | vdot4 f | vpack f
  | vunpk f | vfadd f | vfsub f | vfmul f | vfma f | vfmin f | vfmax f | vfcmp f | vfrcp f | vfrsq f | vfsqrt f
  | vfexp2 f | vflog2 f | vfsin f | vfcos f | vfrnd f | vfcls f | vhfma f | vhadd f | vhmul f | vcvt f | vshfl f
  | vrfl f | vred f | vscan f =>
    exact encodes_LV rfl rfl (by decide) (LvF.fits_immediate h (by decide)) (fun w hw => by rw [rawL64, hw]; rfl) rfl
  | vli f =>
    exact encodes_LV rfl rfl (by decide) (LvF.fitsVli_immediate h) (fun w hw => by rw [rawL64, hw]; rfl) rfl
  | vvote f =>
    simp only [wellFormed, Bool.and_eq_true] at h
    exact encodes_LV rfl rfl (by decide) (LvF.fits_immediate h.1.1 (by decide)) (fun w hw => by rw [rawL64, hw]; rfl) rfl
  | brv p neg taken rejoin =>
    have hf : FieldsFit [(3, p.toNat), (1, neg.toNat), (3, 0), (24, taken.toNat), (23, rejoin.toNat)] := by
      simp only [fieldsFit_cons, fieldsFit_nil, BitVec.isLt, bool_lt_width, Nat.two_pow_pos, and_self, -Nat.reducePow]
    refine encodes_eight rfl rfl (by decide) hf (by simp) fun w hw he => ?_
    unfold rawL64
    rw [hw]
    simp only []
    rw [he, unpack_pack rfl (fieldsFit_eight (by decide) hf)]
    simp [flag_toNat]
  | vld f | vst f | vlds f | vsts f | ldl f | stl f | ldr f | str f | qpush f | qpop f =>
    exact encodes_LM rfl rfl (by decide) (fun w hw => by rw [rawL64, hw]; rfl) rfl
  | vatom f | vcas f | latom f | matom f | satom f =>
    exact encodes_LA rfl rfl (by decide) (fun w hw => by rw [rawL64, hw]; rfl) rfl
  | mcube f =>
    have hf : FieldsFit [(3, 7), (1, 0), (3, 0), (8, f.base.toNat), (7, f.arow.toNat), (3, f.mc.toNat),
        (2, f.nc.toNat), (3, f.ef.toNat), (2, f.pm.toNat), (1, f.span.toNat), (1, f.ovw.toNat), (3, f.acol.toNat), (1, 0),
        (1, f.lr.toNat), (15, 0)] := by
      simp only [fieldsFit_cons, fieldsFit_nil, BitVec.isLt, bool_lt_width, Nat.two_pow_pos, seven_lt_width, and_self, -Nat.reducePow]
    refine encodes_eight rfl rfl (by decide) hf (by simp) fun w hw he => ?_
    unfold rawL64
    rw [hw]
    simp only []
    rw [he, unpack_pack rfl (fieldsFit_eight (by decide) hf)]
    simp [flag_toNat]
  | mldf f =>
    have hf : FieldsFit [(3, f.g.pg.toNat), (1, f.g.pn.toNat), (3, 0), (8, f.base.toNat), (6, f.off.toNat),
        (6, f.pitch.toNat), (3, f.ef.toNat), (3, f.rows.toNat), (1, f.t.toNat), (20, 0)] := by
      simp only [fieldsFit_cons, fieldsFit_nil, BitVec.isLt, bool_lt_width, Nat.two_pow_pos, and_self, -Nat.reducePow]
    refine encodes_eight rfl rfl (by decide) hf (by simp) fun w hw he => ?_
    unfold rawL64
    rw [hw]
    simp only []
    rw [he, unpack_pack rfl (fieldsFit_eight (by decide) hf)]
    simp [flag_toNat]
  | mzero f | mstz f | mrdz f | mwrz f | mscl f =>
    exact encodes_LZ rfl rfl (by decide) (fun w hw => by rw [rawL64, hw]; rfl) rfl
  | xcpy f | xgath f | xscat f | xred f | xsig f =>
    exact encodes_LX rfl rfl (by decide) (by decide) (fun w hw => by rw [rawL64, hw]; rfl) rfl
  | spill f first count | fill f first count =>
    have h1 := first.isLt
    have h2 := count.isLt
    refine encodes_LX rfl rfl (by decide) (by omega) (fun w hw => by rw [rawL64, hw]; rfl) ?_
    rw [(range_fields first count).1, (range_fields first count).2]
  | xpfd f len =>
    exact encodes_LX rfl rfl (by decide) (Nat.lt_trans len.isLt (by decide)) (fun w hw => by rw [rawL64, hw]; rfl)
      (by simp)
  | _ => cases he

/-- R271: a well-formed instruction is what its word decodes to. -/
theorem decodeWord_encode {i : Instr} (h : wellFormed i = true) (he : isEvent i = false) :
    decodeWord (byteLen i) (encode i) = some i := by
  rw [decodeWord, (encodes_of_wellFormed h he).raw]
  simp [h]

/-- R255: the bytes of an instruction decode to it, whatever follows them. -/
theorem decodeBytes_encodeBytes {i : Instr} (h : wellFormed i = true) (he : isEvent i = false) (rest : List Byte) :
    decodeBytes (encodeBytes i ++ rest) = .ok (i, byteLen i) := by
  obtain ⟨-, hlen, hlt⟩ := encodes_of_wellFormed h he
  have htake : (encodeBytes i ++ rest).take (byteLen i) = encodeBytes i := by
    rw [encodeBytes, List.take_left' (leBytes_length _ _)]
  have hnat : leNat (encodeBytes i) = encode i := by
    rw [encodeBytes, leNat_leBytes, show (256 : Nat) = 2 ^ 8 from rfl, ← Nat.pow_mul, Nat.mod_eq_of_lt hlt]
  obtain ⟨n, hn⟩ : ∃ n, byteLen i = n + 1 := by
    refine Nat.exists_eq_succ_of_ne_zero fun h0 => ?_
    rw [h0] at hlen
    simp only [lengthOf] at hlen
    split at hlen
    · cases hlen
    · split at hlen <;> cases hlen
  have hcons : encodeBytes i ++ rest = BitVec.ofNat 8 (encode i) :: (leBytes n (encode i / 256) ++ rest) := by
    rw [encodeBytes, hn, leBytes, List.cons_append]
  have hfirst : lengthOf (BitVec.ofNat 8 (encode i)).toNat = byteLen i := by
    rw [BitVec.toNat_ofNat, lengthOf_mod, hlen]
  have hlong : ¬ (encodeBytes i ++ rest).length < byteLen i := by
    simp [encodeBytes, leBytes_length]
  rw [hcons] at htake hlong ⊢
  simp only [decodeBytes, hfirst, if_neg hlong, htake, hnat, decodeWord_encode h he]

/-- Settles O4: every instruction has a word that holds it (`encodes_of_wellFormed`), and its lowest byte says how long it is. -/
theorem decodeEncode : Obligations.DecodeEncode := by
  unfold Obligations.DecodeEncode
  exact fun i rest h he => ⟨decodeWord_encode h he, decodeBytes_encodeBytes h he rest⟩

/-- Settles O5: each word is decoded as it stands. -/
theorem decodeWords : Obligations.DecodeWords := by
  unfold Obligations.DecodeWords
  decide

end Sys2Proof.Machine
end

section
/-! SUPPORT. Bit counts and widened fields as bit vectors (R257, R304, R312). -/

namespace Sys2Proof.Machine

/-- R257: a widened field as a pattern of n bits is the sign-extended pattern. -/
theorem ofInt_widen_width (n : Nat) {w : Nat} (hw : 0 < w) (prefixes : List (BitVec 24)) (f : BitVec w) :
    BitVec.ofInt n (widen prefixes w f.toNat) = widened n w prefixes f := by
  match prefixes with
  | [] => exact congrArg (BitVec.ofInt n) (sextN_toInt hw f)
  | [x] =>
    have hx : widen [x] w f.toNat = (x ++ f).toInt := by
      rw [← sextN_toInt (by omega), toNat_prefixed, Nat.add_comm 24 w]
      rfl
    exact congrArg (BitVec.ofInt n) hx
  | x :: y :: t =>
    have hxy : widen (x :: y :: t) w f.toNat = (x ++ y ++ f).toInt := by
      rw [← sextN_toInt (by omega), toNat_prefixed, toNat_prefixed, Nat.add_comm (24 + 24) w]
      exact congrArg (sextN (w + 48)) (by ring)
    exact congrArg (BitVec.ofInt n) hxy

/-- R304: the leading zeros of a pattern, by its bits. -/
theorem clzN_bits {w : Nat} (x : BitVec w) :
    clzN w x.toNat ≤ w ∧ (∀ k < clzN w x.toNat, x.getMsbD k = false) ∧
      (clzN w x.toNat < w → x.getMsbD (clzN w x.toNat) = true) := by
  have hlt := x.isLt
  unfold clzN
  split
  · rename_i h0
    have hx : x = 0 := BitVec.eq_of_toNat_eq (by simpa using h0)
    subst hx
    simp
  · rename_i h0
    have hlog : Nat.log2 x.toNat < w := (Nat.log2_lt h0).mpr hlt
    refine ⟨by omega, fun k hk => ?_, fun _ => ?_⟩
    · have hbit : x.toNat < 2 ^ (w - 1 - k) :=
        Nat.lt_of_lt_of_le Nat.lt_log2_self (Nat.pow_le_pow_right (by decide) (by omega))
      rw [BitVec.getMsbD_eq_getLsbD, BitVec.getLsbD, Nat.testBit_lt_two_pow hbit, Bool.and_false]
    · rw [BitVec.getMsbD_eq_getLsbD, show w - 1 - (w - 1 - Nat.log2 x.toNat) = Nat.log2 x.toNat by omega, BitVec.getLsbD,
        Nat.testBit_log2 h0, Bool.and_true]
      exact decide_eq_true (by omega)

/-- R304: the trailing zeros of a number's low bits. -/
theorem ctzN_bits (w n : Nat) :
    ctzN w n ≤ w ∧ (∀ k < ctzN w n, n.testBit k = false) ∧ (ctzN w n < w → n.testBit (ctzN w n) = true) := by
  induction w generalizing n with
  | zero => simp [ctzN]
  | succ w ih =>
    unfold ctzN
    split
    · rename_i h1
      simp [Nat.testBit_zero, h1]
    · rename_i h1
      obtain ⟨hle, hlow, htop⟩ := ih (n / 2)
      refine ⟨by omega, fun k hk => ?_, fun hk => ?_⟩
      · cases k with
        | zero => simpa [Nat.testBit_zero] using h1
        | succ k => rw [Nat.testBit_succ]; exact hlow k (by omega)
      · rw [Nat.add_comm 1, Nat.testBit_succ]
        exact htop (by omega)

/-- R304: the ones among a number's low bits. -/
theorem popN_bits (w n : Nat) : popN w n = ((List.range w).filter fun k => n.testBit k).length := by
  induction w generalizing n with
  | zero => rfl
  | succ w ih =>
    rw [popN, ih, List.range_succ_eq_map, List.filter_cons, List.filter_map, Nat.testBit_zero]
    have hstep : ((fun k => n.testBit k) ∘ Nat.succ) = fun k => (n / 2).testBit k := by
      funext k
      exact Nat.testBit_succ n k
    rw [hstep]
    rcases Nat.mod_two_eq_zero_or_one n with h | h <;> simp [h, Nat.add_comm]

/-- R259: a comparison of two patterns of 64 bits. -/
theorem condHolds_related (k : Nat) (x y : SWord) : condHolds 64 k x.toNat y.toNat = related k x y := by
  have hx : x.toNat % 2 ^ 64 = x.toNat := Nat.mod_eq_of_lt x.isLt
  have hy : y.toNat % 2 ^ 64 = y.toNat := Nat.mod_eq_of_lt y.isLt
  unfold condHolds related
  simp only [hx, hy, sextN_toInt (by decide : 0 < 64)]
  match k with
  | 0 => simp only [BitVec.toNat_inj]; rfl
  | 1 =>
    show decide (x.toNat ≠ y.toNat) = !decide (x = y)
    rw [← decide_not]
    exact decide_eq_decide.mpr (not_congr BitVec.toNat_inj)
  | 2 => simp [BitVec.slt]
  | 3 => simp [BitVec.sle]
  | 4 => simp [BitVec.slt]
  | 5 => simp [BitVec.sle]
  | 6 => simp [BitVec.ult]
  | 7 => simp [BitVec.ule]
  | 8 => simp [BitVec.ult]
  | n + 9 => simp [BitVec.ule]

/-- R312: the high half of the signed product of 64-bit patterns. -/
theorem mulHighS_eq (x y : SWord) : mulHighS x y = (x.signExtend 128 * y.signExtend 128).extractLsb' 64 64 := by
  have hprod : x.signExtend 128 * y.signExtend 128 = BitVec.ofInt 128 (x.toInt * y.toInt) := by
    rw [BitVec.ofInt_mul]
    rfl
  rw [hprod, mulHighS, Int.fdiv_eq_ediv_of_nonneg _ (by positivity)]
  generalize x.toInt * y.toInt = p
  apply BitVec.eq_of_toNat_eq
  simp only [BitVec.toNat_ofInt, BitVec.extractLsb'_toNat, Nat.shiftRight_eq_div_pow]
  omega

/-- R312: the high half of the unsigned product. -/
theorem mulHighU_eq (x y : SWord) : mulHighU x y = (x.zeroExtend 128 * y.zeroExtend 128).extractLsb' 64 64 := by
  have hlt : x.toNat * y.toNat < 2 ^ 64 * 2 ^ 64 := Nat.mul_lt_mul'' x.isLt y.isLt
  apply BitVec.eq_of_toNat_eq
  simp only [mulHighU, BitVec.toNat_ofNat, BitVec.extractLsb'_toNat, BitVec.toNat_mul, BitVec.toNat_setWidth,
    Nat.shiftRight_eq_div_pow]
  have hx := x.isLt
  have hy := y.isLt
  rw [Nat.mod_eq_of_lt (by omega : x.toNat < 2 ^ 128), Nat.mod_eq_of_lt (by omega : y.toNat < 2 ^ 128)]
  generalize x.toNat * y.toNat = p at hlt
  omega

end Sys2Proof.Machine
end

section
/-! PROOFS. Scalar arithmetic, bit counts, selection, immediates and compares (R257, R302 to R305, R311 to R313). -/

namespace Sys2Proof.Machine

section
variable {s : State} (h : Quiet s)
include h

/-- R302, R312: a register form, by the value of its operation. -/
theorem scalarRR_gives (hp : s.ctx.prefixes = []) {i : Instr} {op : SWord → SWord → SWord} (w : BitVec 3) (lat : Nat)
    (d a b : BitVec 6)
    (hexec : exec i s = issue i (wrInfo w lat d a b) (scalarRR op d a b) s) {v : SWord} (hv : op (s.ctx.readS a.toNat) (s.ctx.readS b.toNat) = v) :
    Completes s (exec i s) (scalarResult s w lat d v) :=
  hexec ▸ hv ▸ scalarRR_completes h hp i op w lat d a b

/-- R304: a form with one source, by the value of its operation. -/
theorem scalarR_gives (hp : s.ctx.prefixes = []) {i : Instr} {op : SWord → Nat} (w : BitVec 3) (d a : BitVec 6)
    (hexec : exec i s = issue i (wr1Info w d a) (scalarR op d a) s) {n : Nat}
    (hn : op (s.ctx.readS a.toNat) = n) :
    Completes s (exec i s) (scalarResult s w 2 d (BitVec.ofNat 64 n)) :=
  hexec ▸ hn ▸ scalarR_completes h hp i op w d a

/-- R302: an immediate form, by the value of its operation. -/
theorem scalarRI_gives {i : Instr} {op : SWord → SWord → SWord} (d a : BitVec 6) (imm : BitVec 12)
    (hexec : exec i s = issue i (wiInfo d a) (scalarRI op d a imm) s) {v : SWord}
    (hv : op (s.ctx.readS a.toNat) (widened 64 12 s.ctx.prefixes imm) = v) :
    Completes s (exec i s) (stepped 4 [] s.ctx (s.ctx.writeS d.toNat v)) := by
  rw [hexec, ← hv, ← ofInt_widen_width 64 (by decide)]
  exact scalarRI_completes h i op d a imm

/-- R13: an instruction of 4 bytes without a latency whose body makes one write of a register. -/
theorem writes_completes {i : Instr} {inf : Info} {body : Ctx → State → Except Halt State} {c : Ctx}
    (hp : inf.accepts = true ∨ s.ctx.prefixes = []) (hm : inf.marks = []) (hj : inf.jumps = false) (hx : inf.imx = none)
    (hl : inf.latency = 0) (hn : inf.size = 4) (hill : inf.ill = false) (hr : regsOk s inf = true) (hf : inf.first = none)
    (hb : body s.ctx s = .ok (s.withCtx c)) (hpc : c.pc = s.ctx.pc) (hpend : c.pend = s.ctx.pend) :
    Completes s (issue i inf body s) (stepped 4 [] s.ctx c) :=
  completes_issue h i inf body c _ hp hill hr hf hb
    (retireCtx_stepped hm hj hx hl hn hpc (hpend.trans h.covered))

end

/-- Settles O7: `scalarRR_completes` for every form, the operations as those of bit vectors. -/
theorem scalarArithmetic : Obligations.ScalarArithmetic := by
  unfold Obligations.ScalarArithmetic
  refine ⟨fun s w d a b h hp => ⟨?_, ?_, ?_, ?_, ?_, ?_, ?_, ?_⟩, fun s w d a b h hp => ⟨?_, ?_, ?_, ?_, ?_, ?_, ?_⟩⟩
  · exact scalarRR_gives h hp w 2 d a b rfl rfl
  · exact scalarRR_gives h hp w 2 d a b rfl rfl
  · exact scalarRR_gives h hp w 2 d a b rfl rfl
  · exact scalarRR_gives h hp w 2 d a b rfl rfl
  · exact scalarRR_gives h hp w 2 d a b rfl rfl
  · exact scalarRR_gives h hp w 2 d a b rfl (shl64_eq _ _)
  · exact scalarRR_gives h hp w 2 d a b rfl (shr64_eq _ _)
  · exact scalarRR_gives h hp w 2 d a b rfl (sra64_eq _ _)
  · exact scalarRR_gives h hp w 4 d a b rfl rfl
  · exact scalarRR_gives h hp w 4 d a b rfl (mulHighS_eq _ _)
  · exact scalarRR_gives h hp w 4 d a b rfl (mulHighU_eq _ _)
  · exact scalarRR_gives h (op := fun x y => if x.toInt ≤ y.toInt then x else y) hp w 2 d a b rfl
      (if_congr BitVec.sle_iff_toInt_le.symm rfl rfl)
  · exact scalarRR_gives h (op := fun x y => if x.toInt ≤ y.toInt then y else x) hp w 2 d a b rfl
      (if_congr BitVec.sle_iff_toInt_le.symm rfl rfl)
  · exact scalarRR_gives h (op := fun x y => if x.toNat ≤ y.toNat then x else y) hp w 2 d a b rfl
      (if_congr BitVec.le_def.symm rfl rfl)
  · exact scalarRR_gives h (op := fun x y => if x.toNat ≤ y.toNat then y else x) hp w 2 d a b rfl
      (if_congr BitVec.le_def.symm rfl rfl)

/-- R263, R271: a word of WR whose instruction has no second source is none where the field of that source is not zero. -/
theorem decodeWord_second_source {i : Instr} {op sub : Nat} {w : BitVec 3} {d a sb : BitVec 6}
    {k : Nat → BitVec 3 → BitVec 6 → BitVec 6 → BitVec 6 → Option Instr} (hop : op < 2 ^ 6) (hsub : sub < 2 ^ 3)
    (he : encode i = encWR op sub w d a 0) (hr : ∀ w, w / 4 % 64 = op → rawW32 w = rawWR w k)
    (hk : k sub w d a sb = some i) (hsb : sb ≠ 0) : decodeWord 4 (encWR op sub w d a sb) = none := by
  have hraw : rawWord 4 (encWR op sub w d a sb) = some i := by
    rw [← hk, ← rawWR_encWR hop hsub k]
    exact hr _ (opcode_of_four hop _)
  have hne : encode i ≠ encWR op sub w d a sb := by
    have hb : sb.toNat ≠ 0 := fun h => hsb (BitVec.eq_of_toNat_eq h)
    have hz : (0 : BitVec 6).toNat = 0 := rfl
    rw [he]
    simp only [encWR, pack, hz]
    omega
  simp [decodeWord, hraw, hne]

/-- R304: the code of a bit count, and that its second source field is zero. -/
theorem bitCount_coded {i : Instr} {sub : Nat} {w : BitVec 3} {d a sb : BitVec 6} (hsub : sub < 2 ^ 3)
    (he : encode i = encWR 4 sub w d a 0) (hwf : wellFormed i = true) (hev : isEvent i = false) (hn : byteLen i = 4)
    {k : Nat → BitVec 3 → BitVec 6 → BitVec 6 → BitVec 6 → Option Instr} (hr : ∀ w, w / 4 % 64 = 4 → rawW32 w = rawWR w k)
    (hk : k sub w d a sb = some i) (hsb : sb ≠ 0) :
    encode i % 256 = 0x11 ∧ encode i / 2 ^ 26 % 8 = sub ∧ decodeWord 4 (encode i) = some i ∧
      decodeWord 4 (encode i + sb.toNat * 2 ^ 20) = none := by
  have hd := d.isLt
  have ha := a.isLt
  have hz : (0 : BitVec 6).toNat = 0 := rfl
  have hshift : encode i + sb.toNat * 2 ^ 20 = encWR 4 sub w d a sb := by
    rw [he]
    simp only [encWR, pack, hz]
    omega
  refine ⟨?_, ?_, hn ▸ decodeWord_encode hwf hev, ?_⟩
  · rw [he]; simp only [encWR, pack]; omega
  · rw [he]; simp only [encWR, pack, hz]; omega
  · rw [hshift]; exact decodeWord_second_source (by decide) hsub he hr hk hsb

/-- Settles O9: `clzN_bits`, `ctzN_bits` and `popN_bits` for the counts, `bitCount_coded` for their codes. -/
theorem bitCountsAndSelect : Obligations.BitCountsAndSelect := by
  unfold Obligations.BitCountsAndSelect
  refine ⟨fun s w d a h hp => ⟨?_, ?_, ?_⟩, fun w d a sb hsb => ⟨?_, ?_, ?_⟩, fun s w c d a b h hp => ⟨?_, rfl⟩⟩
  · obtain ⟨hle, hlow, htop⟩ := clzN_bits (s.ctx.readS a.toNat)
    exact ⟨_, hle, scalarR_gives h (op := fun x => clzN 64 x.toNat) hp w d a rfl rfl, hlow, htop⟩
  · obtain ⟨hle, hlow, htop⟩ := ctzN_bits 64 (s.ctx.readS a.toNat).toNat
    exact ⟨_, hle, scalarR_gives h (op := fun x => ctzN 64 x.toNat) hp w d a rfl rfl, hlow, htop⟩
  · refine scalarR_gives h (op := fun x => popN 64 x.toNat) hp w d a rfl (popN_bits 64 _)
  · exact bitCount_coded (by decide) rfl rfl rfl rfl (fun w hw => by rw [rawW32, hw]; rfl) rfl hsb
  · exact bitCount_coded (by decide) rfl rfl rfl rfl (fun w hw => by rw [rawW32, hw]; rfl) rfl hsb
  · exact bitCount_coded (by decide) rfl rfl rfl rfl (fun w hw => by rw [rawW32, hw]; rfl) rfl hsb
  · change Completes s (execSsel w c d a b s) _
    unfold execSsel
    refine completes_issue h _ _ _
      (s.ctx.writeS d.toNat (if s.ctx.readC c.toNat then s.ctx.readS a.toNat else s.ctx.readS b.toNat)) _ (.inr hp) rfl rfl rfl
      rfl ?_
    rw [retireCtx_plain rfl rfl rfl (Ctx.writeS_pc _ _ _) (Ctx.writeS_pend _ _ _), pendAfter_one h.covered _ _ rfl]
    rfl

/-- Settles O10: `scalarRI_completes` for the immediate forms, `condHolds_related` for the compares. -/
theorem immediatesAndCompares : Obligations.ImmediatesAndCompares := by
  unfold Obligations.ImmediatesAndCompares
  refine ⟨fun s d a imm imm18 h _ => ⟨?_, ?_, ?_, ?_, ?_, ?_, ?_, ?_⟩, fun s c k a b imm h => ⟨fun hp => ?_, fun _ => ?_⟩⟩
  · exact scalarRI_gives h d a imm rfl rfl
  · exact scalarRI_gives h d a imm rfl rfl
  · exact scalarRI_gives h d a imm rfl rfl
  · exact scalarRI_gives h d a imm rfl rfl
  · exact scalarRI_gives h d a imm rfl (shl64_eq _ _)
  · exact scalarRI_gives h d a imm rfl (shr64_eq _ _)
  · exact scalarRI_gives h d a imm rfl (sra64_eq _ _)
  · rw [← ofInt_widen_width 64 (by decide)]
    change Completes s (execSli d imm18 s) _
    unfold execSli
    exact writes_completes h (.inl rfl) rfl rfl rfl rfl rfl rfl rfl rfl rfl (Ctx.writeS_pc _ _ _) (Ctx.writeS_pend _ _ _)
  · rw [← condHolds_related]
    change Completes s (execScmp c k a b s) _
    unfold execScmp
    exact writes_completes h (.inr hp) rfl rfl rfl rfl rfl rfl rfl rfl rfl (Ctx.writeC_pc _ _ _) (Ctx.writeC_pend _ _ _)
  · rw [← condHolds_related, ← ofInt_widen_width 64 (by decide)]
    change Completes s (execScmpi c k a imm s) _
    unfold execScmpi
    exact writes_completes h (.inl rfl) rfl rfl rfl rfl rfl rfl rfl rfl rfl (Ctx.writeC_pc _ _ _) (Ctx.writeC_pend _ _ _)

/-- Settles O11: `writes_completes` for the address instructions and NOP; IMX retires with its bits behind the prefixes. -/
theorem addressesAndPrefixes : Obligations.AddressesAndPrefixes := by
  unfold Obligations.AddressesAndPrefixes
  refine ⟨fun s d a e x imm h => ⟨fun _ => ?_, fun hp => ⟨?_, ?_, ?_, ?_⟩⟩, fun s imm h => ⟨fun hp => ?_, fun hlen => ?_⟩⟩
  · rw [← ofInt_widen (by decide)]
    change Completes s (execAaddi d a imm s) _
    unfold execAaddi
    exact writes_completes h (.inl rfl) rfl rfl rfl rfl rfl rfl rfl rfl rfl rfl rfl
  · change Completes s (execAadd d a x s) _
    unfold execAadd
    exact writes_completes h (.inr hp) rfl rfl rfl rfl rfl rfl rfl rfl rfl rfl rfl
  · change Completes s (execAmov d x s) _
    unfold execAmov
    exact writes_completes h (.inr hp) rfl rfl rfl rfl rfl rfl rfl rfl rfl rfl rfl
  · change Completes s (execAget x a s) _
    unfold execAget
    exact writes_completes h (.inr hp) rfl rfl rfl rfl rfl rfl rfl rfl rfl (Ctx.writeS_pc _ _ _) (Ctx.writeS_pend _ _ _)
  · change Completes s (execAsub x a e s) _
    unfold execAsub
    exact writes_completes h (.inr hp) rfl rfl rfl rfl rfl rfl rfl rfl rfl (Ctx.writeS_pc _ _ _) (Ctx.writeS_pend _ _ _)
  · change Completes s (execNop s) _
    unfold execNop
    exact writes_completes h (.inr hp) rfl rfl rfl rfl rfl rfl rfl rfl rfl rfl rfl
  · change Completes s (execImx imm s) _
    unfold execImx
    refine completes_issue h _ _ _ s.ctx _ (.inl (decide_eq_true hlen)) rfl rfl rfl rfl ?_
    have hpend : pendAfter { s.ctx with pend := s.ctx.pend }
        { size := 4, furrow := 2, accepts := decide (s.ctx.prefixes.length < 2), imx := some imm } = s.ctx.pend := by
      rw [pendAfter_none h.covered _ rfl, h.covered]
    simp only [retireCtx, releaseMarks_nil, hpend]
    rfl

end Sys2Proof.Machine
end

section
/-! PROOFS. Relative, indirect and uniform branches (R63, R279, R282). -/

namespace Sys2Proof.Machine

section
variable {s : State} (h : Quiet s)
include h

/-- R13, R279: a branch of the group in focus ends with the context that its body leaves, the prefixes used up. -/
theorem jump_completes {i : Instr} {inf : Info} {body : Ctx → State → Except Halt State} {c c' : Ctx}
    (hp : inf.accepts = true ∨ s.ctx.prefixes = []) (hm : inf.marks = []) (hj : inf.jumps = true) (hx : inf.imx = none)
    (hl : inf.latency = 0) (hill : inf.ill = false) (hr : regsOk s inf = true) (hf : inf.first = none)
    (hb : body s.ctx s = .ok (s.withCtx c)) (hpend : c.pend = s.ctx.pend) (hc : { c with prefixes := [] } = c') :
    Completes s (issue i inf body s) c' :=
  completes_issue h i inf body c c' hp hill hr hf hb
    ((retireCtx_jump hm hj hx hl (hpend.trans h.covered)).trans hc)

omit h in
/-- R279: the target of a relative branch. -/
theorem branchTarget_eq (c : Ctx) (off : BitVec 20) :
    branchTarget c off = c.pc + (widened 72 20 c.prefixes off <<< 1) := by
  rw [branchTarget, toAddr_double, ofInt_widen (by decide)]

/-- R63: a uniform branch goes where its test of the voting mask says. -/
theorem uniformBranch_completes {take : Mask → Mask → Bool} {i : Instr} (p : BitVec 3) (neg : Bool) (off : BitVec 20) {b : Bool}
    (hb : take (predMask s.ctx p neg) s.ctx.exec = b) :
    Completes s (issue i (uniformInfo p) (uniformBranch take p neg off) s)
      { s.ctx with
        pc := if b then s.ctx.pc + (widened 72 20 s.ctx.prefixes off <<< 1) else s.ctx.pc + 4
        prefixes := [] } := by
  refine jump_completes h (c := { s.ctx with pc := if b then branchTarget s.ctx off else s.ctx.pc + 4 }) (.inl rfl) rfl rfl rfl
    rfl rfl rfl rfl ?_ rfl ?_
  · rw [← hb]
    rfl
  · rw [branchTarget_eq]

omit h in
/-- R63: a lane of the voting mask is one that votes. -/
theorem laneOn_predMask (c : Ctx) (p : BitVec 3) (neg : Bool) {l : Nat} (hl : l < 32) :
    laneOn (predMask c p neg) l = voting c p neg l := by
  rw [predMask_eq fun l hl => laneOn_maskOf (voting c p neg) hl]
  exact laneOn_maskOf _ hl

omit h in
/-- R63: no lane votes where the voting mask is zero. -/
theorem predMask_eq_zero_iff (c : Ctx) (p : BitVec 3) (neg : Bool) :
    predMask c p neg = 0 ↔ ¬ (List.range 32).any (fun l => voting c p neg l) = true := by
  constructor
  · intro h0 hany
    obtain ⟨l, hl, hv⟩ := List.any_eq_true.mp hany
    rw [← laneOn_predMask c p neg (List.mem_range.mp hl), h0] at hv
    simp [laneOn] at hv
  · intro hany
    refine BitVec.eq_of_getLsbD_eq fun l hl => ?_
    have hv : laneOn (predMask c p neg) l = false := by
      rw [laneOn_predMask c p neg hl]
      exact Bool.eq_false_iff.mpr fun hv => hany (List.any_eq_true.mpr ⟨l, List.mem_range.mpr hl, hv⟩)
    simpa [laneOn] using hv

omit h in
/-- R63: every active lane votes where the voting mask is EXEC. -/
theorem predMask_eq_exec_iff (c : Ctx) (p : BitVec 3) (neg : Bool) :
    predMask c p neg = c.exec ↔ (List.range 32).all (fun l => !laneOn c.exec l || voting c p neg l) = true := by
  rw [List.all_eq_true]
  constructor
  · intro he l hl
    rw [← laneOn_predMask c p neg (List.mem_range.mp hl), he]
    exact Bool.not_or_self _
  · intro hall
    refine BitVec.eq_of_getLsbD_eq fun l hl => ?_
    have hv := hall l (List.mem_range.mpr hl)
    rw [← laneOn_predMask c p neg hl] at hv
    have hsub : laneOn (predMask c p neg) l = true → laneOn c.exec l = true := fun ht => by
      rw [laneOn_predMask c p neg hl, voting, Bool.and_eq_true] at ht
      exact ht.1
    show laneOn (predMask c p neg) l = laneOn c.exec l
    revert hv hsub
    cases laneOn (predMask c p neg) l <;> cases laneOn c.exec l <;> simp

end

/-- Settles O13: `jump_completes` for the branches and calls, `uniformBranch_completes` with the three tests of the voting
mask. -/
theorem branches : Obligations.Branches := by
  unfold Obligations.Branches
  refine ⟨fun s off c neg n h => ⟨fun _ => ?_, fun hp heven => ?_⟩, fun s p neg off h _ => ⟨?_, ?_, ?_⟩⟩
  · rw [← branchTarget_eq]
    refine ⟨?_, ?_, ?_⟩
    · change Completes s (execBr off s) _
      unfold execBr
      exact jump_completes h (c := { s.ctx with pc := branchTarget s.ctx off }) (.inl rfl) rfl rfl rfl rfl rfl rfl rfl rfl rfl rfl
    · change Completes s (execBrc c neg off s) _
      unfold execBrc
      exact jump_completes h
        (c := { s.ctx with pc := if s.ctx.readC c.toNat != neg then branchTarget s.ctx off else s.ctx.pc + 4 })
        (.inl rfl) rfl rfl rfl rfl rfl rfl rfl rfl rfl rfl
    · change Completes s (execCall off s) _
      unfold execCall
      exact jump_completes h (c := { s.ctx.writeA 14 (s.ctx.pc + 4) with pc := branchTarget s.ctx off }) (.inl rfl) rfl rfl rfl rfl
        rfl rfl rfl rfl rfl rfl
  · have jumpReg_even : ∀ u, jumpReg u (s.ctx.readA n.toNat) = .ok (jumpTo u (s.ctx.readA n.toNat)) := fun u => by
      rw [jumpReg, heven]
      rfl
    refine ⟨?_, ?_, ?_⟩
    · change Completes s (execRet n s) _
      unfold execRet
      exact jump_completes h (c := { s.ctx with pc := s.ctx.readA n.toNat }) (.inr hp) rfl rfl rfl rfl rfl rfl rfl (jumpReg_even _)
        rfl rfl
    · change Completes s (execJmpa n s) _
      unfold execJmpa
      exact jump_completes h (c := { s.ctx with pc := s.ctx.readA n.toNat }) (.inr hp) rfl rfl rfl rfl rfl rfl rfl (jumpReg_even _)
        rfl rfl
    · change Completes s (execCalla n s) _
      unfold execCalla
      exact jump_completes h (c := { s.ctx.writeA 14 (s.ctx.pc + 4) with pc := s.ctx.readA n.toNat }) (.inr hp) rfl rfl rfl rfl
        rfl rfl rfl (jumpReg_even _) rfl rfl
  · refine uniformBranch_completes h (take := fun a _ => decide (a ≠ 0)) p neg off ?_
    exact Bool.eq_iff_iff.mpr (decide_eq_true_iff.trans ((not_congr (predMask_eq_zero_iff s.ctx p neg)).trans not_not))
  · refine uniformBranch_completes h (take := fun a _ => decide (a = 0)) p neg off ?_
    exact Bool.eq_iff_iff.mpr (decide_eq_true_iff.trans ((predMask_eq_zero_iff s.ctx p neg).trans (by rw [Bool.not_eq_true, Bool.not_eq_true'])))
  · refine uniformBranch_completes h (take := fun a e => decide (a = e)) p neg off ?_
    exact Bool.eq_iff_iff.mpr (decide_eq_true_iff.trans (predMask_eq_exec_iff s.ctx p neg))

end Sys2Proof.Machine
end

section
/-! PROOFS. Traps (R212 to R216). -/

namespace Sys2Proof.Machine

/-- A field of n bits at bit k of a 64-bit pattern, by the number that it is the pattern of. -/
theorem extractLsb_ofNat_field {x k n v : Nat} (hk : k + n ≤ 64) (hv : x / 2 ^ k % 2 ^ n = v) :
    (BitVec.ofNat 64 x).extractLsb' k n = BitVec.ofNat n v := by
  refine BitVec.eq_of_getLsbD_eq fun i hi => ?_
  rw [BitVec.getLsbD_extractLsb', BitVec.getLsbD_ofNat, BitVec.getLsbD_ofNat, ← hv, Nat.testBit_mod_two_pow, Nat.testBit_div_two_pow,
    decide_eq_true (by omega : k + i < 64), Nat.add_comm k i]
  simp

/-- R213: the fields of TRAPINFO, read back. -/
theorem trapInfoOf_fields (t : TrapReq) {len : Nat} (hlen : len < 32) :
    (trapInfoOf t len).extractLsb' 0 8 = t.cls ∧ (trapInfoOf t len).extractLsb' 8 8 = t.detail ∧
      (trapInfoOf t len).extractLsb' 16 5 = t.lane.getD 0 ∧ (trapInfoOf t len).getLsbD 21 = t.lane.isSome ∧
      (trapInfoOf t len).extractLsb' 24 5 = BitVec.ofNat 5 len ∧
      (trapInfoOf t len).getLsbD 29 = trapPast t.cls t.detail ∧ (trapInfoOf t len).extractLsb' 32 9 = t.arg := by
  obtain ⟨valid, hvalid⟩ : ∃ n, n = t.lane.isSome.toNat := ⟨_, rfl⟩
  obtain ⟨past, hpast⟩ : ∃ n, n = (trapPast t.cls t.detail).toNat := ⟨_, rfl⟩
  obtain ⟨x, hx⟩ : ∃ n, n = t.cls.toNat + t.detail.toNat * 2 ^ 8 + (t.lane.getD 0).toNat * 2 ^ 16 + valid * 2 ^ 21 +
    len * 2 ^ 24 + past * 2 ^ 29 + t.arg.toNat * 2 ^ 32 := ⟨_, rfl⟩
  have hinfo : trapInfoOf t len = BitVec.ofNat 64 x := by
    rw [hx, hvalid, hpast, trapInfoOf, Nat.mod_eq_of_lt hlen]
    cases t.lane.isSome <;> cases trapPast t.cls t.detail <;> rfl
  have field : ∀ {w : Nat} (v : BitVec w) (k : Nat), k + w ≤ 64 → x / 2 ^ k % 2 ^ w = v.toNat →
      (trapInfoOf t len).extractLsb' k w = v := fun v k hk hv => by
    rw [hinfo, extractLsb_ofNat_field hk hv, BitVec.ofNat_toNat, BitVec.setWidth_eq]
  have bit : ∀ (v : Bool) (k : Nat), k < 64 → x / 2 ^ k % 2 = v.toNat → (trapInfoOf t len).getLsbD k = v := fun v k hk hv => by
    rw [hinfo, BitVec.getLsbD_ofNat, decide_eq_true hk, Bool.true_and, Nat.testBit_eq_decide_div_mod_eq, hv]
    cases v <;> rfl
  have hc := t.cls.isLt
  have hd := t.detail.isLt
  have hl := (t.lane.getD 0).isLt
  have ha := t.arg.isLt
  have hv := hvalid ▸ Bool.toNat_lt t.lane.isSome
  have hp := hpast ▸ Bool.toNat_lt (trapPast t.cls t.detail)
  refine ⟨field _ 0 (by decide) ?_, field _ 8 (by decide) ?_, field _ 16 (by decide) ?_, bit _ 21 (by decide) ?_, ?_,
    bit _ 29 (by decide) ?_, field _ 32 (by decide) ?_⟩
  case refine_5 =>
    rw [hinfo]
    refine extractLsb_ofNat_field (by decide) ?_
    omega
  all_goals omega

/-- R214: the high bytes of a trap's addresses, read back from TRAPVAH. -/
theorem trapVah_fields (at_ va : Addr) :
    (BitVec.ofNat 64 (at_.toNat / 2 ^ 64 * 2 ^ 8 + va.toNat / 2 ^ 64)).extractLsb' 0 8 = va.extractLsb' 64 8 ∧
      (BitVec.ofNat 64 (at_.toNat / 2 ^ 64 * 2 ^ 8 + va.toNat / 2 ^ 64)).extractLsb' 8 8 = at_.extractLsb' 64 8 := by
  have hat := at_.isLt
  have hva := va.isLt
  constructor <;>
  · apply BitVec.eq_of_toNat_eq
    simp only [BitVec.extractLsb'_toNat, BitVec.toNat_ofNat, Nat.shiftRight_eq_div_pow]
    omega

/-- R214: outside a handler a trap other than EMU and SOFTERR enters the kernel's handler. -/
theorem takeTrap_enters {s : State} {t : TrapReq} {target : Addr} (len : Nat) (he : s.blk.trapEntry = some target)
    (hh : s.ctx.handler = false) (hemu : t.cls ≠ 13) (hsoft : t.cls ≠ 12) :
    takeTrap s t len none = s.withCtx (enterTrap s.ctx t len target) := by
  have hlog : logSofterr s t (startPc s.ctx) = s := if_pos (.inl hsoft)
  simp only [takeTrap, hlog, if_neg hemu, he, hh, Bool.false_eq_true, if_false]
  rfl

/-- Settles O27: `takeTrap_enters`, with the fields of the trap registers read back. -/
theorem trapEntryState : Obligations.TrapEntryState := by
  intro s t len target he hh hemu hsoft hlen at_ u
  have hu : u = s.withCtx (enterTrap s.ctx t len target) := takeTrap_enters len he hh hemu hsoft
  obtain ⟨hcls, hdetail, hlane, hsome, hlength, hpast, harg⟩ := trapInfoOf_fields t hlen
  obtain ⟨hva, hat⟩ := trapVah_fields at_ t.va
  rw [hu]
  exact ⟨rfl, hcls, hdetail, hlane, hsome, hlength, hpast, harg, hva, hat⟩

/-- A group in a handler, with a trap that waits for it and a window open whose snapshot stands outside a handler. -/
def windowInHandler : State :=
  { State.reset with
    g := { Group.none with
      run := .ready
      ctx := { Group.none.ctx with handler := true }
      trapReq := some ⟨6, 0, 0, 0, none⟩
      window := some ⟨0, 0, 0, Group.none.ctx, 0, 0, 0, 0, 0, 0, [], 0, false, [], [], []⟩ }
    blk := { Block.none with phase := .resident, trapEntry := some 0 } }

/-- The launches whose blocks stand after an outcome. -/
def launchesStanding : Host.Outcome State Fault Refusal → List Nat
  | .next t => (allBlocks t).map (·.launch)
  | _ => []

theorem windowInHandler_stands : launchesStanding (exec .launchAbort windowInHandler) = [windowInHandler.blk.launch] := by decide

/-- Refutes O28: the abort undoes the window of `windowInHandler` first, and the group then stands outside a handler and takes
the trap, so that the block of its launch is left. -/
theorem not_trapsAndReturn : ¬ Obligations.TrapsAndReturn := by
  intro h
  obtain ⟨u, hu, hgone, -⟩ := (h.2 windowInHandler _ rfl).2 (.inl rfl)
  have hstands := windowInHandler_stands
  rw [hu] at hstands
  obtain ⟨b, hb, hl⟩ := List.mem_map.mp (hstands ▸ List.mem_singleton_self _ : windowInHandler.blk.launch ∈ _)
  exact hgone b hb hl

end Sys2Proof.Machine
end
section
/-! PROOFS. The values of the atomic operations (R261, R291). -/

namespace Sys2Proof.Machine

/-- R291, R261: the integer operations of the atomics, on elements of any width. -/
theorem atomNew_values {w : Nat} (hw : 0 < w) (x y z : BitVec w) :
    atomNew 0 w x.toNat y.toNat z.toNat = (x + y).toNat ∧
      atomNew 2 w x.toNat y.toNat z.toNat = (if x.sle y then x else y).toNat ∧
      atomNew 3 w x.toNat y.toNat z.toNat = (if x.sle y then y else x).toNat ∧
      atomNew 4 w x.toNat y.toNat z.toNat = (if x ≤ y then x else y).toNat ∧
      atomNew 5 w x.toNat y.toNat z.toNat = (if x ≤ y then y else x).toNat ∧
      atomNew 6 w x.toNat y.toNat z.toNat = (x &&& y).toNat ∧ atomNew 7 w x.toNat y.toNat z.toNat = (x ||| y).toNat ∧
      atomNew 8 w x.toNat y.toNat z.toNat = (x ^^^ y).toNat ∧ atomNew 9 w x.toNat y.toNat z.toNat = y.toNat ∧
      atomNew 10 w x.toNat y.toNat z.toNat = (if x = z then y else x).toNat := by
  have signed : sextN w x.toNat ≤ sextN w y.toNat ↔ x.sle y = true := by
    rw [sextN_toInt hw, sextN_toInt hw, BitVec.sle_iff_toInt_le]
  refine ⟨(BitVec.toNat_add x y).symm, ?_, ?_, ?_, ?_, (BitVec.toNat_and x y).symm, (BitVec.toNat_or x y).symm,
    (BitVec.toNat_xor x y).symm, rfl, ?_⟩
  · rw [apply_ite BitVec.toNat]
    exact (if_congr signed rfl rfl : ite (sextN w x.toNat ≤ sextN w y.toNat) x.toNat y.toNat = _)
  · rw [apply_ite BitVec.toNat]
    exact (if_congr signed rfl rfl : ite (sextN w x.toNat ≤ sextN w y.toNat) y.toNat x.toNat = _)
  · rw [apply_ite BitVec.toNat]
    exact Nat.min_def.trans (if_congr BitVec.le_def.symm rfl rfl)
  · rw [apply_ite BitVec.toNat]
    exact Nat.max_def.trans (if_congr BitVec.le_def.symm rfl rfl)
  · rw [apply_ite BitVec.toNat]
    exact (if_congr BitVec.toNat_inj rfl rfl : ite (x.toNat = z.toNat) y.toNat x.toNat = _)

/-- Settles O33: `atomNew_values` at 32 and 64 bits. -/
theorem atomicValues : Obligations.AtomicValues :=
  ⟨atomNew_values (by decide), atomNew_values (by decide)⟩

end Sys2Proof.Machine
end

section
/-! SUPPORT. An instruction of 4 bytes whose body leaves its group fit to retire (R13, R211). -/

namespace Sys2Proof.Machine

/-- A group stands as another did where retirement looks: neither windowed nor poisoned nor suspected anew, at the same PC with the
same results on their way. -/
structure KeepsIssue (g h : Group) : Prop where
  uid : h.uid = g.uid
  window : h.window = g.window
  poisonV : h.poisonV = g.poisonV
  poisonS : h.poisonS = g.poisonS
  suspects : h.suspects = g.suspects
  pc : h.ctx.pc = g.ctx.pc
  pend : h.ctx.pend = g.ctx.pend

/-- R13: an instruction that nothing stands in the way of, and whose body leaves its group fit to retire. -/
theorem issue_kept {s u : State} (h : Quiet s) {i : Instr} {inf : Info}
    {body : Ctx → State → Except Halt State} (hp : inf.accepts = true ∨ s.ctx.prefixes = []) (hf : inf.first = none)
    (hl : inf.ill = false) (hr : regsOk s inf = true)
    (hb : body s.ctx s = .ok u) (hg : KeepsIssue s.g u.g) :
    ∃ t, issue i inf body s = .next t ∧ t.ctx = retireCtx inf s.ctx u.ctx ∧
      t = { u with g := { u.g with ctx := t.g.ctx, pmc := t.g.pmc, arriving := t.g.arriving } } := by
  refine ⟨_, issue_next h i inf body hp hl hr hf (hg.suspects.trans h.unsuspected) hb, ?_⟩
  rw [retire_quiet (s := s) i inf hg.uid (hg.window.trans h.noWindow) (hg.poisonV.trans h.cleanV) (hg.poisonS.trans h.cleanS)]
  refine ⟨?_, rfl⟩
  simp only [modG_ctx, modG_g, countEvt_ctx]
  rfl

/-- R13: the same for a plain instruction of 4 bytes: its context goes on by them. -/
theorem issue_shortKept {s u : State} (h : Quiet s) (hp : s.ctx.prefixes = []) {i : Instr} {inf : Info}
    {body : Ctx → State → Except Halt State} (hi : PlainShort inf) (hl : inf.ill = false) (hr : regsOk s inf = true)
    (hb : body s.ctx s = .ok u) (hg : KeepsIssue s.g u.g) :
    ∃ t, issue i inf body s = .next t ∧ t.ctx = stepped 4 [] s.ctx u.ctx ∧
      t = { u with g := { u.g with ctx := t.g.ctx, pmc := t.g.pmc, arriving := t.g.arriving } } := by
  obtain ⟨t, ht, hctx, hframe⟩ := issue_kept h (.inr hp) hi.first hl hr hb hg
  exact ⟨t, ht, hctx.trans (retireCtx_stepped hi.marks hi.jumps hi.imx hi.latency hi.size hg.pc (hg.pend.trans h.covered)), hframe⟩

end Sys2Proof.Machine
end

section
/-! PROOFS. Arrival at the barriers of a block and of a span, and their completion (R28, R164, R277). -/

namespace Sys2Proof.Machine

/-- R28: whether a group does not keep a barrier with an arrival mask waiting. -/
def groupArrived (uid : Nat) (m : Mask) (g : Group) : Bool :=
  g.uid != uid || g.run == .absent || g.run == .exited || laneOn m g.slot

/-- R28: every group of a block has arrived where none keeps the barrier waiting. -/
theorem allArrived_eq (s : State) (uid : Nat) (m : Mask) :
    allArrived s uid m = (groupArrived uid m s.g && s.groups.all (groupArrived uid m)) := by
  have hgroup : ∀ g : Group, (!(g.uid == uid && g.run != .absent) || (g.run == .exited || laneOn m g.slot)) = groupArrived uid m g :=
    fun g => by simp [groupArrived, bne, Bool.or_assoc]
  rw [allArrived, groupsOf, allGroups, List.filter_filter, List.all_filter]
  simp only [hgroup, List.all_cons]

/-- R28: the arrival mask of a barrier with the group in focus arrived. -/
def withMe (s : State) (m : Mask) : Mask := m ||| BitVec.ofNat 32 (2 ^ s.g.slot)

section
variable {s : State} (hslot : s.g.slot < 32)
include hslot

theorem laneOn_withMe (m : Mask) : laneOn (withMe s m) s.g.slot = true := by
  rw [withMe, laneOn, BitVec.getLsbD_or, BitVec.getLsbD_ofNat, Nat.testBit_two_pow_self, decide_eq_true hslot, Bool.and_self,
    Bool.or_true]

theorem withMe_ne_zero (m : Mask) : withMe s m ≠ 0 := by
  intro h
  have hbit := laneOn_withMe hslot m
  rw [h] at hbit
  simp [laneOn] at hbit

/-- R28: once it has arrived, the group in focus keeps its own barrier waiting no longer. -/
theorem groupArrived_me (m : Mask) (run : Run) : groupArrived s.blk.uid (withMe s m) { s.g with run := run } = true := by
  simp [groupArrived, laneOn_withMe hslot m]

end

/-- R28: the group in focus waits at block barrier n, whose arrivals are those of a mask. -/
def waitsAtBar (s : State) (n : Nat) (m : Mask) : State :=
  modG (modBlk s fun b => { b with bar := mset 0 b.bar n m }) fun g => { g with run := .atBar n }

/-- R28: block barrier n is free, and every group that waited at it is ready, the group in focus with them. -/
def barCompletes (s : State) (n : Nat) (m : Mask) : State :=
  modGroups (updBlk (waitsAtBar s n m) s.blk.uid fun b => { b with bar := mdel b.bar n }) fun g =>
    if g.uid == s.blk.uid && g.run == .atBar n then { g with run := .ready } else g

/-- R28: the arrival at a block barrier completes it where it is the last of its block. -/
theorem barBody_eq {s : State} (n : Nat) (hslot : s.g.slot < 32) :
    let m := withMe s (mget 0 s.blk.bar n)
    barBody n s = if s.groups.all (groupArrived s.blk.uid m) = true then barCompletes s n m else waitsAtBar s n m := by
  intro m
  have hm : mget 0 (findBlk (waitsAtBar s n m) s.blk.uid).bar n = m := by
    rw [findBlk_focus (s := waitsAtBar s n m) (uid := s.blk.uid) rfl]
    exact mget_mset_self 0 s.blk.bar n m
  have hall : allArrived (waitsAtBar s n m) s.blk.uid m = s.groups.all (groupArrived s.blk.uid m) := by
    rw [allArrived_eq]
    exact (congrArg (· && _) (groupArrived_me hslot _ _)).trans (Bool.true_and _)
  show checkBar (waitsAtBar s n m) s.blk.uid n = _
  rw [checkBar, hm, hall]
  exact if_congr (and_iff_right (withMe_ne_zero hslot _)) rfl rfl

theorem barCompletes_g {s : State} (hu : s.g.uid = s.blk.uid) (n : Nat) (m : Mask) :
    (barCompletes s n m).g = { s.g with run := .ready } := by
  show (if s.g.uid == s.blk.uid && Run.atBar n == Run.atBar n then _ else _) = _
  rw [if_pos (by simp [hu])]
  rfl

theorem barCompletes_blk (s : State) (n : Nat) (m : Mask) :
    (barCompletes s n m).blk = { s.blk with bar := mdel (mset 0 s.blk.bar n m) n } := by
  show (if s.blk.uid == s.blk.uid then _ else _) = _
  rw [if_pos (by simp)]
  rfl

/-- Settles O24: `barBody_eq`, by whether the arrival is the last. -/
theorem blockBarrier : Obligations.BlockBarrier := by
  intro s n h hp hu hslot m last
  have hbody : barBody n.toNat s = if last = true then barCompletes s n.toNat m else waitsAtBar s n.toNat m := barBody_eq _ hslot
  have hissue := @issue_shortKept s (barBody n.toNat s) h hp (.bar n) { size := 4, closes := true }
    (fun _ s => .ok (barBody n.toNat s)) (by constructor <;> rfl) rfl rfl rfl
  change ∃ t, execBar n s = .next t ∧ _
  cases hlast : last with
  | false =>
    rw [if_neg (by rw [hlast]; decide)] at hbody
    rw [hbody] at hissue
    obtain ⟨t, ht, hctx, hframe⟩ := hissue (by constructor <;> rfl)
    refine ⟨t, ht, hctx, ?_, ?_, fun _ => ?_, nofun⟩
    · rw [hframe]
      rfl
    · rw [hframe]
      exact fun k hk => mget_mset_ne 0 s.blk.bar m hk
    · rw [hframe]
      exact ⟨rfl, mget_mset_self 0 s.blk.bar n.toNat m, rfl⟩
  | true =>
    rw [if_pos hlast] at hbody
    rw [hbody] at hissue
    have hg := barCompletes_g hu n.toNat m
    have hblk := barCompletes_blk s n.toNat m
    obtain ⟨t, ht, hctx, hframe⟩ := hissue (by rw [hg]; constructor <;> rfl)
    have htblk : t.blk = { s.blk with bar := mdel (mset 0 s.blk.bar n.toNat m) n.toNat } := by
      rw [hframe]
      exact hblk
    have htg : t.g = { s.g with ctx := t.g.ctx, pmc := t.g.pmc, arriving := t.g.arriving, run := .ready } := by
      have hfg := congrArg State.g hframe
      rw [hg] at hfg
      exact hfg
    refine ⟨t, ht, hctx.trans ?_, ?_, ?_, nofun, fun _ => ⟨?_, ?_, ?_⟩⟩
    · show stepped 4 [] s.ctx (barCompletes s n.toNat m).g.ctx = _
      rw [hg]
      rfl
    · rw [hframe, hg, hblk]
      rfl
    · rw [htblk]
      exact fun k hk => (mget_mdel_ne 0 _ hk).trans (mget_mset_ne 0 s.blk.bar m hk)
    · rw [htg]
    · rw [htblk]
      exact mget_mdel_self 0 _ _
    · rw [hframe]
      refine List.map_congr_left fun g _ => if_congr ?_ rfl rfl
      simp

/-- R28: the group in focus waits at span barrier n, to which its block's arrivals are those of a mask. -/
def waitsAtSpanBar (s : State) (n : Nat) (m : Mask) : State :=
  modG (modBlk s fun b => { b with sbar := mset 0 b.sbar n m }) fun g => { g with run := .atSpanBar n }

/-- R28: span barrier n is free in the blocks of a span, and every group of theirs that waited at it is ready. -/
def spanFreed (s : State) (l : List Block) (n : Nat) : State :=
  modGroups (modBlks s fun x => if inSpan l x.uid then { x with sbar := mdel x.sbar n } else x) fun g =>
    if inSpan l g.uid && g.run == .atSpanBar n then { g with run := .ready } else g

/-- R164, R277: the departure from span barrier n of the blocks of a span: the L1 of every core of theirs is dropped. -/
def spanDeparts (s : State) (l : List Block) (n : Nat) : State :=
  dropSpanLoose (l.foldl (fun acc x => dropL1 acc x.core) (spanFreed s l n)) l

/-- R23: the blocks of the span of the block in focus, where it is resident: itself and those beside it. -/
theorem spanBlocks_focus {s : State} (h : s.blk.phase ≠ .none) :
    spanBlocks s s.blk = s.blk :: (s.blks.filter fun b => b.phase != .none).filter fun b => b.span == s.blk.span := by
  simp [spanBlocks, allBlocks, h]

/-- R170: drops of the L1s of cores change the cores and nothing else. -/
theorem dropL1s_eq (l : List Block) (s : State) :
    l.foldl (fun acc x => dropL1 acc x.core) s = { s with cores := (l.foldl (fun acc x => dropL1 acc x.core) s).cores } :=
  List.foldlRecOn l _ (motive := fun u : State => u = { s with cores := u.cores }) rfl fun u hu x _ => by
    rw [hu]
    rfl

/-- R170: an L1 that is empty stays so while others are dropped. -/
theorem dropL1s_empty (l : List Block) {s : State} {core : Nat} (h : (getCore s core).l1 = []) :
    (getCore (l.foldl (fun acc x => dropL1 acc x.core) s) core).l1 = [] :=
  List.foldlRecOn l _ (motive := fun u : State => (getCore u core).l1 = []) h fun u hu x _ => by
    by_cases hx : core = x.core
    · rw [hx]
      exact dropL1_l1 u x.core
    · exact (congrArg Core.l1 (getCore_modCore_ne u _ hx)).trans hu

section
variable {s : State} (hslot : s.g.slot < 32) (hphase : s.blk.phase ≠ .none)
include hslot hphase

/-- R28, R164: the arrival at a span barrier completes it where it is the last of its span and no engine write into span scratch is
left to perform. -/
theorem barsBody_eq (n : Nat) :
    let u := waitsAtSpanBar s n (withMe s (mget 0 s.blk.sbar n))
    let l := spanBlocks u u.blk
    barsBody n s =
      if ((l.all fun x => allArrived u x.uid (mget 0 x.sbar n)) && !l.any spanWritePending) = true then spanDeparts u l n else u := by
  intro u l
  have hl : l = u.blk :: _ := spanBlocks_focus (s := u) hphase
  have hsome : (l.any fun x => mget 0 x.sbar n != 0) = true := by
    have hm : mget 0 u.blk.sbar n = withMe s (mget 0 s.blk.sbar n) := mget_mset_self 0 s.blk.sbar n _
    rw [hl, List.any_cons, hm, bne_iff_ne.mpr (withMe_ne_zero hslot _), Bool.true_or]
  show checkSpanBar u u.blk n = _
  unfold checkSpanBar
  show (if ((l.any fun x => mget 0 x.sbar n != 0) && (l.all fun x => allArrived u x.uid (mget 0 x.sbar n)) &&
    !l.any spanWritePending) = true then spanDeparts u l n else u) = _
  rw [hsome, Bool.true_and]

omit hslot in
/-- R28: whether the arrival is the last, by the blocks of the span as they were before it. -/
theorem lastOfSpan_eq (n : Nat) (halone : ∀ b ∈ s.blks, b.uid ≠ s.blk.uid) :
    let m := withMe s (mget 0 s.blk.sbar n)
    let u := waitsAtSpanBar s n m
    ((spanBlocks u u.blk).all fun x => allArrived u x.uid (mget 0 x.sbar n)) =
      (spanBlocks s s.blk).all fun b =>
        groupArrived b.uid (if b.uid = s.blk.uid then m else mget 0 b.sbar n) { s.g with run := .atSpanBar n } &&
          s.groups.all (groupArrived b.uid (if b.uid = s.blk.uid then m else mget 0 b.sbar n)) := by
  intro m u
  rw [spanBlocks_focus (s := u) hphase, spanBlocks_focus hphase, List.all_cons, List.all_cons, if_pos rfl, allArrived_eq,
    show mget 0 u.blk.sbar n = m from mget_mset_self 0 s.blk.sbar n m]
  refine congr (congrArg and rfl) (Bool.eq_iff_iff.mpr ?_)
  rw [List.all_eq_true, List.all_eq_true]
  refine forall₂_congr fun b hb => ?_
  rw [if_neg (halone b (List.mem_of_mem_filter (List.mem_of_mem_filter hb))), allArrived_eq]
  rfl

omit hslot in
/-- R28, R164: what the departure from a span barrier leaves of the group, the block and the core in focus. -/
theorem spanDeparts_focus (n : Nat) (hu : s.g.uid = s.blk.uid) (hrun : s.g.run = .atSpanBar n) :
    let t := spanDeparts s (spanBlocks s s.blk) n
    t.g = { s.g with run := .ready } ∧ t.blk = { s.blk with sbar := mdel s.blk.sbar n } ∧ (getCore t s.blk.core).l1 = [] ∧
      t.mem = s.mem ∧ t.dies = s.dies ∧ t.parts = s.parts := by
  intro t
  have hin : inSpan (spanBlocks s s.blk) s.blk.uid = true := by
    rw [spanBlocks_focus hphase]
    simp [inSpan]
  have ht : t = dropSpanLoose { spanFreed s (spanBlocks s s.blk) n with cores := t.cores } (spanBlocks s s.blk) :=
    congrArg (dropSpanLoose · _) (dropL1s_eq _ _)
  refine ⟨?_, ?_, ?_, ?_, ?_, ?_⟩
  · rw [ht]
    show (if inSpan (spanBlocks s s.blk) s.g.uid && s.g.run == Run.atSpanBar n then _ else _) = _
    rw [if_pos (by rw [hu, hin, hrun]; simp)]
    rfl
  · rw [ht]
    exact if_pos hin
  · show (getCore (List.foldl _ _ (spanBlocks s s.blk)) s.blk.core).l1 = []
    rw [spanBlocks_focus hphase, List.foldl_cons]
    exact dropL1s_empty _ (dropL1_l1 _ _)
  · rw [ht]
    rfl
  · rw [ht]
    rfl
  · rw [ht]
    rfl

end

/-- Settles O25: `barsBody_eq` and `lastOfSpan_eq` say when the barrier completes, `spanDeparts_focus` what the departure leaves. -/
theorem spanBarrier : Obligations.SpanBarrier := by
  intro s n h hp hu hslot hphase halone m arrived last
  let u := waitsAtSpanBar s n.toNat m
  have hbody : barsBody n.toNat s =
      if (last && !(spanBlocks u u.blk).any spanWritePending) = true then spanDeparts u (spanBlocks u u.blk) n.toNat else u :=
    (barsBody_eq hslot hphase n.toNat).trans
      (congrArg (fun b => if (b && _) = true then _ else _) (lastOfSpan_eq hphase n.toNat halone))
  have hpending : (spanBlocks u u.blk).any spanWritePending = (spanBlocks s s.blk).any spanWritePending := by
    rw [spanBlocks_focus (s := u) hphase, spanBlocks_focus hphase]
    rfl
  have hissue := @issue_shortKept s (barsBody n.toNat s) h hp (.bars n) { size := 4, closes := true }
    (fun _ s => .ok (barsBody n.toNat s)) (by constructor <;> rfl) rfl rfl rfl
  change ∃ t, execBars n s = .next t ∧ _
  rw [hpending] at hbody
  by_cases hdone : (last && !(spanBlocks s s.blk).any spanWritePending) = true
  · rw [if_pos hdone] at hbody
    obtain ⟨hg, hblk, hl1, hmem, hdies, hparts⟩ := spanDeparts_focus (s := u) hphase n.toNat hu rfl
    rw [← hbody] at hg hblk hl1 hmem hdies hparts
    obtain ⟨t, ht, hctx, hframe⟩ := hissue (by rw [hg]; constructor <;> rfl)
    rw [Bool.and_eq_true] at hdone
    refine ⟨t, ht, hctx.trans ?_, ?_, ?_, ?_, fun hl => ?_, fun _ _ => ⟨?_, ?_, ?_⟩⟩
    · show stepped 4 [] s.ctx (barsBody n.toNat s).g.ctx = _
      rw [hg]
      rfl
    · rw [hframe]; exact hmem
    · rw [hframe]; exact hdies
    · rw [hframe]; exact hparts
    · exact absurd (hdone.1.symm.trans hl) (by decide)
    · rw [hframe]; exact congrArg Group.run hg
    · rw [hframe]; exact hl1
    · rw [hframe]
      exact (congrArg (fun b : Block => mget 0 b.sbar n.toNat) hblk).trans (mget_mdel_self 0 _ _)
  · rw [if_neg hdone] at hbody
    rw [hbody] at hissue
    obtain ⟨t, ht, hctx, hframe⟩ := hissue (by constructor <;> rfl)
    refine ⟨t, ht, hctx, ?_, ?_, ?_, fun _ => ?_, fun hl hw => ?_⟩
    · rw [hframe]; rfl
    · rw [hframe]; rfl
    · rw [hframe]; rfl
    · rw [hframe]
      exact ⟨rfl, rfl, rfl, mget_mset_self 0 s.blk.sbar n.toNat m⟩
    · exact absurd (by rw [hl, hw]; rfl) hdone

end Sys2Proof.Machine
end

section
/-! PROOFS. The statement about FENCE, FETCHB and IPF fails where the fill of an IPF has to wait for a miss register (R147, R205,
R239): the group is then due to be swapped out, and its `swapDue` is a field that the statement holds fixed. -/

namespace Sys2Proof.Machine

/-- A group about to prefetch its own four bytes, on a core whose pseudo-channel holds an older request for the sector. -/
def stalledFetch : State :=
  { modCore (modCtx (State.reset.withFetchWord 32 1) fun c => (c.writeA 1 0x10000).writeS 1 4) 0 fun c =>
      { c with missQ := [⟨0x4000, true, [], 0, false, 0⟩] } with clock := 1 }

theorem stalledFetch_quiet : Quiet stalledFetch := by constructor <;> decide

/-- Whether the group in focus is due to be swapped out after an outcome. -/
def leavesDue : Host.Outcome State Fault Refusal → Bool
  | .next t => t.g.swapDue
  | _ => false

theorem stalledFetch_due : leavesDue (exec (.ipf 0 1 1) stalledFetch) = true := by decide

/-- Refutes O22: after the IPF of `stalledFetch` its group is due to be swapped out, as it was not before. -/
theorem not_fenceAndFetch : ¬ Obligations.FenceAndFetch := by
  intro h
  obtain ⟨-, -, hipf⟩ := h stalledFetch 0 0 0 1 1 stalledFetch_quiet rfl
  obtain ⟨t, ht, -, hframe, -⟩ := hipf (by decide)
  have hdue := stalledFetch_due
  rw [ht] at hdue
  have hkept : t.g.swapDue = stalledFetch.g.swapDue := by rw [hframe]
  exact absurd (hkept.symm.trans hdue) (by decide)

end Sys2Proof.Machine
end

section
/-! SUPPORT. The performance counters of a group after events are counted (R45, R309). -/

namespace Sys2Proof.Machine

/-- R45: a counter after n counts of an event. -/
theorem countEvt_counter (e n : Nat) (g : Group) {i : Nat} (hi : i < 16) :
    mget 0 (countEvt e n g).pmc i =
      mget 0 g.pmc i + if (mget 0 g.pmcProg i).toNat = 2 * e + 1 then BitVec.ofNat 64 n else 0 := by
  have upTo : ∀ k, mget 0 ((List.range k).foldl (fun m j =>
      if (mget 0 g.pmcProg j).toNat = 2 * e + 1 then mset 0 m j (mget 0 m j + BitVec.ofNat 64 n) else m) g.pmc) i =
      if i < k ∧ (mget 0 g.pmcProg i).toNat = 2 * e + 1 then mget 0 g.pmc i + BitVec.ofNat 64 n else mget 0 g.pmc i := by
    intro k
    induction k with
    | zero => simp
    | succ k ih =>
      rw [List.range_succ, List.foldl_append, List.foldl_cons, List.foldl_nil]
      by_cases hk : i = k
      · subst hk
        rw [if_neg (by omega)] at ih
        split
        · rename_i hp
          rw [mget_mset_self, ih, if_pos ⟨by omega, hp⟩]
        · rename_i hp
          rw [ih, if_neg fun h => hp h.2]
      · have hiff : i < k + 1 ↔ i < k := by omega
        rw [apply_ite (mget 0 · i), mget_mset_ne _ _ _ hk, ite_self, ih]
        exact if_congr (and_congr_left fun _ => hiff.symm) rfl rfl
  refine (upTo 16).trans ?_
  split <;> simp_all

/-- R45: no count of an event leaves the counters as they read. -/
theorem countEvt_counter_zero (e : Nat) (g : Group) {i : Nat} (hi : i < 16) :
    mget 0 (countEvt e 0 g).pmc i = mget 0 g.pmc i := by
  rw [countEvt_counter e 0 g hi]
  split <;> simp

/-- R45, R309: the count of an issue. -/
theorem countEvt_issue (g : Group) {i : Nat} (hi : i < 16) :
    mget 0 (countEvt evIssue 1 g).pmc i = mget 0 g.pmc i + issueCounts g i := by
  rw [countEvt_counter evIssue 1 g hi, issueCounts]
  refine congrArg (_ + ·) (if_congr ?_ rfl rfl)
  rw [and_iff_left hi, ← BitVec.toNat_inj]
  rfl

end Sys2Proof.Machine
end

section
/-! PROOFS. The special registers (R16, R39 to R45, R98, R116, R308, R309). -/

namespace Sys2Proof.Machine

section
variable {s : State} (h : Quiet s)
include h

/-- R308: the body of a read where nothing is poisoned. -/
theorem sysrdBody_clean (i : BitVec 8) (d : BitVec 6) :
    sysrdBody i d s =
      let s1 := if i = 0x0C then modG s fun g => { g with lastClock := clockRead s } else s
      .ok (modCtx s1 fun c => c.writeS d.toNat (sysValue s i.toNat)) := by
  rw [sysrdBody, h.cleanS]
  rfl

/-- R308: a read of a listed register but CLOCK writes its value. -/
theorem sysrd_completes (hp : s.ctx.prefixes = []) {i : BitVec 8} (d : BitVec 6) {x : SWord} (hl : sysListed i.toNat = true)
    (hc : i ≠ 0x0C) (hx : sysValue s i.toNat = x) :
    Completes s (exec (.sysrd i d) s) (stepped 4 [] s.ctx (s.ctx.writeS d.toNat x)) := by
  have hbody : sysrdBody i d s = .ok (s.withCtx (s.ctx.writeS d.toNat x)) := by
    rw [sysrdBody_clean h, if_neg hc, hx]
    rfl
  change Completes s (execSysrd i d s) _
  unfold execSysrd
  exact writes_completes h (.inr hp) rfl rfl rfl rfl rfl (by rw [hl]; rfl) rfl rfl hbody (Ctx.writeS_pc _ _ _) (Ctx.writeS_pend _ _ _)

/-- R42, R308: a read of CLOCK keeps what it read. -/
theorem sysrd_clock (hp : s.ctx.prefixes = []) (d : BitVec 6) :
    ∃ t, exec (.sysrd 0x0C d) s = .next t ∧
      t = { s with g := { s.g with ctx := t.g.ctx, pmc := t.g.pmc, arriving := t.g.arriving, lastClock := clockRead s } } ∧
      t.ctx = stepped 4 [] s.ctx (s.ctx.writeS d.toNat (BitVec.ofNat 64 (clockRead s))) := by
  change ∃ t, execSysrd 0x0C d s = .next t ∧ _
  unfold execSysrd
  obtain ⟨t, ht, hctx, hframe⟩ := issue_shortKept h hp (i := .sysrd 0x0C d)
    (u := modCtx (modG s fun g => { g with lastClock := clockRead s }) fun c => c.writeS d.toNat (BitVec.ofNat 64 (clockRead s)))
    (inf := { size := 4, writes := [(.scalar, d.toNat)], furrow := 1, closes := (0x0C : BitVec 8) == 0,
              ill := !sysListed (0x0C : BitVec 8).toNat })
    (body := fun _ s => sysrdBody 0x0C d s) (by constructor <;> rfl) rfl rfl (sysrdBody_clean h 0x0C d)
    ⟨rfl, rfl, rfl, rfl, rfl, Ctx.writeS_pc _ _ _, Ctx.writeS_pend _ _ _⟩
  exact ⟨t, ht, hframe, hctx⟩

end

/-- R23: SPAN as the two fields side by side. -/
theorem spanValue_eq (pos code : BitVec 2) :
    BitVec.ofNat 64 (pos.toNat + 4 * code.toNat) = pos.zeroExtend 64 ||| (code.zeroExtend 64 <<< 2) := by
  revert pos code
  decide

/-- R43, R308: the FEAT registers but the first two read zero. -/
theorem sysValue_feat (s : State) {n : Nat} (hn : 0x12 ≤ n ∧ n ≤ 0x17) : sysValue s n = 0 := by
  unfold sysValue
  repeat rw [if_neg (by omega)]
  rw [if_pos (by omega), featRead, if_neg (by omega), if_neg (by omega)]
  rfl

/-- R45, R309: a counter reads with the issue of its own read. -/
theorem sysValue_counter (s : State) {n : Nat} (hn : 0x20 ≤ n ∧ n ≤ 0x2F) :
    sysValue s n = mget 0 s.g.pmc (n - 0x20) + issueCounts s.g (n - 0x20) := by
  unfold sysValue
  repeat rw [if_neg (by omega)]
  rw [if_pos hn]
  exact countEvt_issue s.g (by omega)

/-- R39: the indices from 0x10 to 0x1B and from 0x20 to 0x30 are listed. -/
theorem sysListed_of_range {n : Nat} (h : (0x10 ≤ n ∧ n ≤ 0x1B) ∨ (0x20 ≤ n ∧ n ≤ 0x30)) : sysListed n = true := by
  simp only [sysListed, Bool.or_eq_true, Bool.and_eq_true, decide_eq_true_eq]
  omega

/-- Settles O20: `sysrd_completes` with the value of each index, and `sysrd_clock` for CLOCK. -/
theorem systemRegisterReads : Obligations.SystemRegisterReads := by
  intro s d h hp reads
  have hread : ∀ {i : BitVec 8} {x : SWord}, sysListed i.toNat = true → i ≠ 0x0C → sysValue s i.toNat = x → reads i x :=
    fun hl hc hx => sysrd_completes h hp d hl hc hx
  have between : ∀ {i lo hi : BitVec 8}, lo ≤ i ∧ i ≤ hi → lo.toNat ≤ i.toNat ∧ i.toNat ≤ hi.toNat := id
  have past : ∀ {i : BitVec 8}, 0x10 ≤ i.toNat → i ≠ 0x0C := fun hi he => by
    rw [he] at hi
    exact absurd hi (by decide)
  refine ⟨hread rfl (by decide) rfl, hread rfl (by decide) rfl, hread rfl (by decide) rfl, hread rfl (by decide) rfl,
    hread rfl (by decide) ?_, hread rfl (by decide) rfl, hread rfl (by decide) rfl, hread rfl (by decide) rfl,
    hread rfl (by decide) rfl, hread rfl (by decide) (spanValue_eq _ _), hread rfl (by decide) rfl, hread rfl (by decide) rfl,
    hread rfl (by decide) rfl, hread rfl (by decide) rfl, hread rfl (by decide) rfl, hread rfl (by decide) rfl, fun i hi => ?_,
    hread rfl (by decide) rfl, hread rfl (by decide) rfl, hread rfl (by decide) rfl, hread rfl (by decide) rfl, fun i hi => ?_,
    hread rfl (by decide) rfl, sysrd_clock h hp d⟩
  · show BitVec.ofNat 64 (groupId s.g) = _
    rw [groupId, h.notOwner]
    rfl
  · obtain ⟨hlo, hhi⟩ : 0x12 ≤ i.toNat ∧ i.toNat ≤ 0x17 := between hi
    exact hread (sysListed_of_range (by omega)) (past (by omega)) (sysValue_feat s ⟨hlo, hhi⟩)
  · obtain ⟨hlo, hhi⟩ : 0x20 ≤ i.toNat ∧ i.toNat ≤ 0x2F := between hi
    exact hread (sysListed_of_range (by omega)) (past (by omega)) (sysValue_counter s ⟨hlo, hhi⟩)

end Sys2Proof.Machine
end

section
/-! PROOFS. What SYSWR, SETFMT and SETGANG write (R41, R44, R45, R98, R116, R135, R308). -/

namespace Sys2Proof.Machine

section
variable {s : State} (h : Quiet s)
include h

/-- R308: the body of a legal write. -/
theorem sysWriteBody_legal {i : Nat} {b : BitVec 6} (hl : sysLegal s i (s.ctx.readS b.toNat) = true)
    (hg : (sysWrite s i (s.ctx.readS b.toNat)).g.poisonS = s.g.poisonS) :
    sysWriteBody i b s.ctx s = .ok (sysWrite s i (s.ctx.readS b.toNat)) := by
  have hclean : cleanSpecial i (sysWrite s i (s.ctx.readS b.toNat)).g = (sysWrite s i (s.ctx.readS b.toNat)).g := by
    rw [cleanSpecial, hg, h.cleanS]
    generalize sysWrite s i (s.ctx.readS b.toNat) = u at hg ⊢
    rw [List.filter_nil, ← h.cleanS, ← hg]
  rw [sysWriteBody, if_pos hl]
  exact congrArg (fun g => Except.ok { sysWrite s i (s.ctx.readS b.toNat) with g := g }) hclean

omit h in
/-- R308: a legal write of a writable register is not illegal. -/
theorem sysWriteIll_legal {i : Nat} {b : BitVec 6} (hw : sysWritable i = true) (hl : sysLegal s i (s.ctx.readS b.toNat) = true) :
    sysWriteIll s i b = false := by
  simp [sysWriteIll, hw, hl]

/-- R308: a legal write that changes of the device no more than the context of its group. -/
theorem sysWrite_completes (hp : s.ctx.prefixes = []) {i : Nat} {b : BitVec 6} (hw : sysWritable i = true)
    (hl : sysLegal s i (s.ctx.readS b.toNat) = true) {c : Ctx} (hc : sysWrite s i (s.ctx.readS b.toNat) = s.withCtx c)
    (hpc : c.pc = s.ctx.pc) (hpend : c.pend = s.ctx.pend) (ins : Instr) (closes : Bool) :
    Completes s
      (issue ins { size := 4, reads := [(.scalar, b.toNat)], closes := closes, ill := sysWriteIll s i b } (sysWriteBody i b) s)
      (stepped 4 [] s.ctx c) :=
  writes_completes h (.inr hp) rfl rfl rfl rfl rfl (sysWriteIll_legal hw hl) rfl rfl
    ((sysWriteBody_legal h hl (by rw [hc]; rfl)).trans (by rw [hc])) hpc hpend

/-- R308: SYSWR of a legal value retires with what it writes. -/
theorem execSyswr_retires (hp : s.ctx.prefixes = []) {i : BitVec 8} {b : BitVec 6} (hw : sysWritable i.toNat = true)
    (hl : sysLegal s i.toNat (s.ctx.readS b.toNat) = true) (hg : KeepsIssue s.g (sysWrite s i.toNat (s.ctx.readS b.toNat)).g)
    {u : State} (hu : sysWrite s i.toNat (s.ctx.readS b.toNat) = u) :
    ∃ t, exec (.syswr i b) s = .next t ∧ t.ctx = stepped 4 [] s.ctx u.ctx ∧
      t = { u with g := { u.g with ctx := t.g.ctx, pmc := t.g.pmc, arriving := t.g.arriving } } := by
  subst hu
  exact issue_shortKept h hp (i := .syswr i b)
    (inf := { size := 4, reads := [(.scalar, b.toNat)], closes := true, ill := sysWriteIll s i.toNat b })
    (by constructor <;> rfl) (sysWriteIll_legal hw hl) rfl (sysWriteBody_legal h hl hg.poisonS) hg

end

/-- R45, R309: the counters of a group after the issue of an instruction that fallow lanes do not check. -/
theorem issue_counters {s u t : State} (h : Quiet s) {i : Instr} {inf : Info} {body : Ctx → State → Except Halt State}
    (hp : inf.accepts = true ∨ s.ctx.prefixes = []) (hf : inf.first = none) (hl : inf.ill = false) (hr : regsOk s inf = true)
    (hb : body s.ctx s = .ok u) (hg : KeepsIssue s.g u.g) (hfallow : inf.fallow = false) (ht : issue i inf body s = .next t)
    {k : Nat} (hk : k < 16) : mget 0 t.g.pmc k = mget 0 u.g.pmc k + issueCounts u.g k := by
  rw [issue_next h i inf body hp hl hr hf (hg.suspects.trans h.unsuspected) hb,
    retire_quiet (s := s) i inf hg.uid (hg.window.trans h.noWindow) (hg.poisonV.trans h.cleanV) (hg.poisonS.trans h.cleanS)] at ht
  have hnone : fallowOf s.ctx inf = 0 := by simp [fallowOf, hfallow]
  have hzero : popMask 0 = 0 := by decide
  rw [← Host.Outcome.next.inj ht, hnone, hzero, modG_g, countEvt_counter_zero _ _ hk, modG_g, countEvt_issue _ hk]
  rfl

/-- R44, R135: one bank of a write of LSMODE. -/
def writeBankMode (x : SWord) (b : Block) (i : Nat) : Block :=
  let m := BitVec.ofNat 2 (x.toNat / 4 ^ i)
  if m.toNat = bankMode b i then b else { b with lsmode := mset 1 b.lsmode i m, switches := b.switches ++ [(i, m)] }

theorem writeLsmode_eq (b : Block) (x : SWord) : writeLsmode b x = (List.range b.lstore).foldl (writeBankMode x) b := rfl

theorem writeBankMode_frame (x : SWord) (b : Block) (i : Nat) :
    writeBankMode x b i = { b with lsmode := (writeBankMode x b i).lsmode, switches := (writeBankMode x b i).switches } := by
  unfold writeBankMode
  dsimp only
  split <;> rfl

theorem bankMode_writeBankMode (x : SWord) (b : Block) (i k : Nat) :
    bankMode (writeBankMode x b i) k = if k = i then x.toNat / 4 ^ k % 4 else bankMode b k := by
  unfold writeBankMode
  dsimp only
  split
  · rename_i hm
    split
    · rename_i hk
      rw [hk, ← hm]
      rfl
    · rfl
  · show (mget 1 (mset 1 b.lsmode i _) k).toNat = _
    rw [mget_mset, apply_ite BitVec.toNat]
    refine if_ctx_congr Iff.rfl (fun hk => ?_) fun _ => rfl
    rw [hk]
    rfl

/-- R44, R135: a write of LSMODE changes of its block no more than modes and switches. -/
theorem writeLsmode_frame (b : Block) (x : SWord) :
    writeLsmode b x = { b with lsmode := (writeLsmode b x).lsmode, switches := (writeLsmode b x).switches } := by
  rw [writeLsmode_eq]
  refine List.foldlRecOn _ _ (motive := fun u : Block => u = { b with lsmode := u.lsmode, switches := u.switches }) rfl
    fun u hu i _ => ?_
  rw [writeBankMode_frame, hu]

/-- R44: the banks that a write of LSMODE reaches take their modes. -/
theorem bankMode_writeLsmode (b : Block) (x : SWord) {k : Nat} (hk : k < b.lstore) :
    bankMode (writeLsmode b x) k = x.toNat / 4 ^ k % 4 := by
  have upTo : ∀ n, k < n → bankMode ((List.range n).foldl (writeBankMode x) b) k = x.toNat / 4 ^ k % 4 := by
    intro n
    induction n with
    | zero => exact fun h => absurd h (Nat.not_lt_zero k)
    | succ n ih =>
      intro hn
      rw [List.range_succ, List.foldl_append, List.foldl_cons, List.foldl_nil, bankMode_writeBankMode]
      split
      · rfl
      · exact ih (by omega)
  exact upTo b.lstore hk

/-- Settles O21: a write of a special register by `sysWrite_completes`, of a counter, PMCSEL or LSMODE by `execSyswr_retires`. -/
theorem systemRegisterWrites : Obligations.SystemRegisterWrites := by
  intro s b h hp x
  have ctxWrite : ∀ {i : Nat} {c : Ctx}, sysWritable i = true → sysLegal s i x = true → sysWrite s i x = s.withCtx c →
      c.pc = s.ctx.pc → c.pend = s.ctx.pend → ∀ ins closes, Completes s
        (issue ins { size := 4, reads := [(.scalar, b.toNat)], closes := closes, ill := sysWriteIll s i b } (sysWriteBody i b) s)
        (stepped 4 [] s.ctx c) :=
    fun hw hl hc hpc hpend ins closes => sysWrite_completes h hp hw hl hc hpc hpend ins closes
  refine ⟨fun hx => ⟨?_, ?_⟩, fun hx => ⟨?_, ?_⟩, fun hx => ?_, fun i hi => ?_, fun hx => ?_, fun hx => ?_⟩
  · exact ctxWrite (i := 2) (c := { s.ctx with fmt := x.truncate 32 }) rfl hx rfl rfl rfl _ true
  · exact ctxWrite (i := 2) (c := { s.ctx with fmt := x.truncate 32 }) rfl hx rfl rfl rfl _ false
  · exact ctxWrite (i := 3) (c := { s.ctx with gang := x }) rfl hx rfl rfl rfl _ true
  · exact ctxWrite (i := 3) (c := { s.ctx with gang := x }) rfl hx rfl rfl rfl _ true
  · exact ctxWrite (i := 0x0B) (c := { s.ctx with status := x }) rfl (beq_iff_eq.mpr hx) rfl rfl rfl _ true
  · obtain ⟨hlo, hhi⟩ : 0x20 ≤ i.toNat ∧ i.toNat ≤ 0x2F := hi
    have hlegal : sysLegal s i.toNat x = true := by
      unfold sysLegal
      repeat rw [if_neg (by omega)]
    have hwritable : sysWritable i.toNat = true := by
      simp only [sysWritable, Bool.or_eq_true, Bool.and_eq_true, decide_eq_true_eq]
      omega
    have hwrite : sysWrite s i.toNat x = modG s fun g => { g with pmc := mset 0 g.pmc (i.toNat - 0x20) x } := by
      unfold sysWrite
      repeat rw [if_neg (by omega)]
    have hkeeps : KeepsIssue s.g (sysWrite s i.toNat x).g := by
      rw [hwrite]
      constructor <;> rfl
    obtain ⟨t, ht, hctx, hframe⟩ := execSyswr_retires h hp hwritable hlegal hkeeps hwrite
    refine ⟨t, ht, hframe, hctx, ?_⟩
    have hpmc := issue_counters h (.inr hp) rfl (sysWriteIll_legal hwritable hlegal) rfl
      (sysWriteBody_legal h hlegal hkeeps.poisonS) hkeeps rfl ht (show i.toNat - 0x20 < 16 by omega)
    rw [hpmc, hwrite]
    exact congrArg (· + issueCounts s.g (i.toNat - 0x20)) (mget_mset_self 0 s.g.pmc _ x)
  · obtain ⟨t, ht, hctx, hframe⟩ := execSyswr_retires h hp (i := 0x30) (b := b) rfl hx (by constructor <;> rfl)
      (u := modG s fun g => writePmcsel g x) rfl
    refine ⟨t, ht, hctx, ?_, ?_, ?_, fun k hk => ?_⟩
    · rw [hframe]
      rfl
    · rw [hframe]
      rfl
    · rw [hframe]
      show (mget 0 (mset 0 s.g.pmcProg (x.toNat % 16) (BitVec.ofNat 9 _)) (x.toNat % 16)).toNat = _
      rw [mget_mset_self, BitVec.toNat_ofNat]
      exact Nat.mod_eq_of_lt (by omega)
    · rw [hframe]
      exact mget_mset_ne _ _ _ hk
  · obtain ⟨t, ht, hctx, hframe⟩ := execSyswr_retires h hp (i := 0x0E) (b := b) rfl hx (by constructor <;> rfl)
      (u := modBlk (dropWays s s.blk.core (switchedBanks s.blk x)) fun b => writeLsmode b x) rfl
    have hcores : t.cores = (dropWays s s.blk.core (switchedBanks s.blk x)).cores := by
      rw [hframe]
      rfl
    have hblk : t.blk = writeLsmode s.blk x := by
      rw [hframe]
      rfl
    refine ⟨t, ht, hctx, ?_, fun k hk => ?_, fun y hy => ?_, fun k hk _ => ?_⟩
    · have hfields : writeLsmode s.blk x = { s.blk with lsmode := t.blk.lsmode, switches := t.blk.switches } := by
        rw [hblk]
        exact writeLsmode_frame s.blk x
      rw [← hfields, hcores]
      exact hframe
    · show mget Core.reset t.cores k = _
      rw [hcores]
      exact getCore_modCore_ne s _ hk
    · have hl1 : (getCore t s.blk.core).l1 =
          (getCore s s.blk.core).l1.filter fun y => !hasNat (switchedBanks s.blk x) y.way := by
        show (mget Core.reset t.cores s.blk.core).l1 = _
        rw [hcores]
        exact congrArg Core.l1 (getCore_modCore_self s s.blk.core _)
      rw [hl1] at hy
      exact List.mem_of_mem_filter hy
    · rw [hblk]
      exact bankMode_writeLsmode s.blk x hk

end Sys2Proof.Machine
end

section
/-! PROOFS. Device control by the host: budgets, ports, keys and attestation, firmware, reset and the link (R244, R246, R248, R249,
R251 to R254). -/

namespace Sys2Proof.Machine

/-- An entry that is put stands in the list. -/
theorem self_mem_mput {β : Type} (m : List (Nat × β)) (k : Nat) (v : β) : (k, v) ∈ mput m k v := by
  induction m with
  | nil => exact List.mem_singleton_self _
  | cons e t ih =>
    rw [mput]
    split_ifs
    · exact List.mem_cons_self
    · exact List.mem_cons_self
    · exact List.mem_cons_of_mem _ ih

section
variable (s : State)

/-- R254: a write of BUD or BASE in its range, and one of BUD out of it. -/
theorem budgetWrite_spec {die : Nat} (hdie : die < 4) (watts : Nat) :
    (100 ≤ watts → watts ≤ 1000 → exec (.budgetWrite die false watts) s =
      .next (modDie s die fun d => { d with newBud := watts })) ∧
    (watts ≤ (getDie s die).newBud → exec (.budgetWrite die true watts) s =
      .next (modDie s die fun d => { d with newBase := watts })) ∧
    (watts < 100 ∨ 1000 < watts → exec (.budgetWrite die false watts) s = .next s) := by
  have hin : ¬4 ≤ die := by omega
  refine ⟨fun hlo hhi => ?_, fun hle => ?_, fun hout => ?_⟩
  · change execBudgetWrite die false watts s = _
    simp [execBudgetWrite, hin, hlo, hhi]
  · change execBudgetWrite die true watts s = _
    simp [execBudgetWrite, hin, hle]
  · have hrange : ¬(100 ≤ watts ∧ watts ≤ 1000) := by omega
    change execBudgetWrite die false watts s = _
    simp [execBudgetWrite, hin, hrange]

/-- R251: the state with a failed port dropped from every mask, before readings go stale. -/
def withoutPort (port : Nat) : State :=
  let down := s.portsDown ||| BitVec.ofNat 24 (2 ^ port)
  { s with portsDown := down, peers := s.peers.map fun e => (e.1, { e.2 with mask := e.2.mask &&& ~~~down }) }

/-- R251, R252: a port that fails. -/
theorem portFailure_spec {port : Nat} (hport : port < 24) :
    ∃ t, exec (.strelfelPortFailure port) s = .next t ∧
      t = { s with portsDown := t.portsDown, peers := t.peers, sessionRead := t.sessionRead, sessions := t.sessions } ∧
      t.portsDown.getLsbD port = true ∧ (∀ e ∈ t.peers, e.2.mask.getLsbD port = false) ∧
      (t.peers ≠ s.peers → mget false t.sessionRead 2 = false) := by
  have hexec : exec (.strelfelPortFailure port) s =
      .next (if (withoutPort s port).peers = s.peers then withoutPort s port else staleReading (withoutPort s port) 2) := by
    change execStrelfelPortFailure port s = _
    rw [execStrelfelPortFailure, if_neg (by omega)]
    rfl
  have hdown : (withoutPort s port).portsDown.getLsbD port = true := by
    show (s.portsDown ||| BitVec.ofNat 24 (2 ^ port)).getLsbD port = true
    rw [BitVec.getLsbD_or, BitVec.getLsbD_ofNat, Nat.testBit_two_pow_self, decide_eq_true hport, Bool.and_self, Bool.or_true]
  have hmasks : ∀ e ∈ (withoutPort s port).peers, e.2.mask.getLsbD port = false := by
    intro e he
    obtain ⟨x, -, rfl⟩ := List.mem_map.mp he
    show (x.2.mask &&& ~~~(withoutPort s port).portsDown).getLsbD port = false
    rw [BitVec.getLsbD_and, BitVec.getLsbD_not, hdown, Bool.not_true, Bool.and_false, Bool.and_false]
  refine ⟨_, hexec, ?_⟩
  split
  · rename_i hsame
    exact ⟨rfl, hdown, hmasks, fun hne => absurd hsame hne⟩
  · exact ⟨rfl, hdown, hmasks, fun _ => mget_mset_self false _ 2 false⟩

/-- R252: a session starts; the one that was in use is kept. -/
theorem securedSession_spec :
    ∃ t, exec .securedSession s = .next t ∧
      t = { s with session := true, sessionNo := t.sessionNo, sessions := t.sessions, sessionRead := [] } ∧
      (s.session = true → (s.sessionNo, s.sessionRead) ∈ t.sessions) := by
  refine ⟨_, rfl, ?_, fun hs => ?_⟩
  · unfold parkSession
    split <;> rfl
  · show _ ∈ (parkSession s).sessions
    rw [parkSession, if_pos hs]
    exact self_mem_mput _ _ _

/-- R252: a measurement read in a session. -/
theorem measurementRead_spec (hs : s.session = true) {index : Nat} (hlo : 1 ≤ index) (hhi : index ≤ 4) :
    ∃ t, exec (.spdmMeasurementRead index) s = .next t ∧
      t = { s with sessionRead := t.sessionRead, hostData := t.hostData } ∧ mget false t.sessionRead index = true := by
  refine ⟨{ s with sessionRead := mset false s.sessionRead index true
                   hostData := Config.measurement index (measured s index) }, ?_, rfl, mget_mset_self false _ index true⟩
  change execSpdmMeasurementRead index s = _
  simp [execSpdmMeasurementRead, hs, hlo, hhi]

/-- R249, R252: a key installed in a session that has read what it must. -/
theorem keyInstall_spec (hs : s.session = true) {key : Nat} (hlo : 1 ≤ key) (hhi : key ≤ 255)
    (hread : ∀ k ∈ [2, 3, 4], mget false s.sessionRead k = true) :
    ∃ t, exec (.keyInstall key) s = .next t ∧ t = { s with keys := t.keys, keyGen := t.keyGen, flushed := t.flushed } ∧
      mget 0 t.keyGen key = mget 0 s.keyGen key + 1 ∧ mget false t.keys key = true ∧ mget false t.flushed key = false := by
  refine ⟨{ s with keys := mset false s.keys key true
                   keyGen := mset 0 s.keyGen key (mget 0 s.keyGen key + 1)
                   flushed := mset false s.flushed key false }, ?_, rfl, mget_mset_self 0 s.keyGen key (mget 0 s.keyGen key + 1),
    mget_mset_self false s.keys key true, mget_mset_self false s.flushed key false⟩
  change execKeyInstall key s = _
  simp [execKeyInstall, hs, hlo, hhi, hread 2 (by decide), hread 3 (by decide), hread 4 (by decide)]

/-- R252: no key is installed without a session, or in one that has not read index 3. -/
theorem keyInstall_refused {key : Nat} (h : s.session = false ∨ mget false s.sessionRead 3 = false) :
    exec (.keyInstall key) s = .next s := by
  change execKeyInstall key s = _
  rcases h with h | h <;> simp [execKeyInstall, h]

/-- R249, R252: a flushed key cleared in a session. -/
theorem keyClear_spec (hs : s.session = true) {key : Nat} (hf : mget false s.flushed key = true) :
    ∃ t, exec (.keyClear key) s = .next t ∧ t = { s with keys := t.keys } ∧ mget false t.keys key = false := by
  refine ⟨{ s with keys := mset false s.keys key false }, ?_, rfl, mget_mset_self false s.keys key false⟩
  change execKeyClear key s = _
  simp [execKeyClear, hs, hf]

/-- R253: an update whose event names another outcome than the bytes have does not happen. -/
theorem firmwareUpdate_other (interrupted : Bool) : exec (.firmwareUpdate (!imageOk s) interrupted) s = .next s := by
  change execFirmwareUpdate (!imageOk s) interrupted s = _
  simp [execFirmwareUpdate]

/-- R253: an update that runs to its end. -/
theorem firmwareUpdate_ends :
    ∃ t, exec (.firmwareUpdate (imageOk s) false) s = .next t ∧
      if imageOk s = true then t.firmware = true ∧ t.recovery = false ∧ t.image = s.bar ∧
        t = { s with
          bar := [], firmware := t.firmware, recovery := t.recovery, image := t.image, sessionRead := t.sessionRead
          sessions := t.sessions }
      else t = { s with bar := [] } := by
  change ∃ t, execFirmwareUpdate (imageOk s) false s = .next t ∧ _
  cases hok : imageOk s with
  | false => exact ⟨{ s with bar := [] }, by simp [execFirmwareUpdate, hok], rfl⟩
  | true =>
    let u : State := { s with bar := [], firmware := true, recovery := false }
    refine ⟨measuredWrite u { u with image := s.bar } 1 (s.bar != s.image), by simp [execFirmwareUpdate, hok, u], ?_⟩
    rw [if_pos rfl, measuredWrite]
    split
    · exact ⟨rfl, rfl, rfl, rfl⟩
    · rename_i hsame
      exact ⟨rfl, rfl, (by simpa using hsame : s.bar = s.image).symm, rfl⟩

/-- R253: an update that a reset interrupts. -/
theorem firmwareUpdate_interrupted :
    ∃ t, exec (.firmwareUpdate (imageOk s) true) s = .next t ∧
      if imageOk s = true then t.firmware = false ∧ t.recovery = true ∧ t.image = [] else t = { s with bar := [] } := by
  change ∃ t, execFirmwareUpdate (imageOk s) true s = .next t ∧ _
  cases hok : imageOk s with
  | false => exact ⟨{ s with bar := [] }, by simp [execFirmwareUpdate, hok], rfl⟩
  | true => exact ⟨resetDevice { s with bar := [], firmware := false, image := [] }, by simp [execFirmwareUpdate, hok], rfl, rfl, rfl⟩

/-- R253: what a device reset leaves. -/
theorem deviceReset_spec :
    ∃ t, exec .deviceReset s = .next t ∧ mwf memDefault t.mem = true ∧
      t = { State.reset with
        mem := t.mem, hostMem := s.hostMem, peerMem := s.peerMem, firmware := s.firmware, image := s.image, recovery := !s.firmware
        repair := s.repair, signKeys := s.signKeys, temps := s.temps, freeCtr := s.freeCtr, env := s.env
        agenda := s.agenda } :=
  ⟨resetDevice s, rfl, mwf_writeCells [] _ rfl, rfl⟩

/-- R244: the link trains at a rate and a width that it has. -/
theorem linkTraining_spec {rate width : Nat} (hr : 1 ≤ rate) (hr' : rate ≤ 6) (hw : 1 ≤ width) (hw' : width ≤ 16) :
    exec (.linkTraining rate width) s = .next { s with link := some (rate, width) } := by
  change execLinkTraining rate width s = _
  rw [execLinkTraining, if_pos ⟨hr, hr', hw, hw'⟩]

/-- R248: a write of FANSEQ of a virtual function. -/
theorem registerWrite_fanseq {vf : Nat} (hvf : vf < 64) (val : BitVec 64) :
    exec (.registerWrite false (0x4000010 + 0x10000 * vf) val) s = .next (modTenant s vf fun t => { t with fanseq := val }) := by
  have hfunc : (0x4000010 + 0x10000 * vf - 0x4000000) / 0x10000 = vf := by omega
  have hoff : (0x4000010 + 0x10000 * vf) % 0x10000 = 0x10 := by omega
  change execRegisterWrite false _ val s = _
  rw [execRegisterWrite, if_neg (by omega), if_neg Bool.false_ne_true, if_neg (by omega), if_pos (by omega), hfunc, hoff]
  rfl

/-- R245: a write of CRTAIL reaches the window of its port. -/
theorem registerWrite_window {port : Nat} (hport : port < 64) (val : BitVec 64) :
    exec (.registerWrite true (0x1000 * port + 0x68) val) s = .next (writeWindow s port 0x68 val) := by
  have hdiv : (0x1000 * port + 0x68) / 0x1000 = port := by omega
  have hoff : (0x1000 * port + 0x68) % 0x1000 = 0x68 := by omega
  change execRegisterWrite true _ val s = _
  rw [execRegisterWrite, if_neg (by omega), if_pos rfl, if_pos (by omega), hdiv, hoff]

/-- R192: a write of CRTAIL of an open port. -/
theorem registerWrite_crtail {port : Nat} (hopen : portOpen s port = true) (val : BitVec 64) :
    exec (.registerWrite true (0x1000 * port + 0x68) val) s =
      .next (modPort s port fun p => { p with crtail := val.truncate 32 }) := by
  have hport : port < 64 := of_decide_eq_true (Bool.and_eq_true_iff.mp hopen).1
  rw [registerWrite_window s hport, writeWindow, hopen]
  rfl

/-- R8, R245: a port that is not the host's ignores the write. -/
theorem registerWrite_closed {port : Nat} (hport : port < 64) (hclosed : portOpen s port = false) (val : BitVec 64) :
    exec (.registerWrite true (0x1000 * port + 0x68) val) s = .next s := by
  rw [registerWrite_window s hport, writeWindow, if_pos hclosed]

end

/-- Settles O58: one lemma for each event and register. -/
theorem deviceControl : Obligations.DeviceControl :=
  fun s _ watts _ _ _ _ _ _ val =>
    ⟨fun hdie => budgetWrite_spec s hdie watts, fun hport => portFailure_spec s hport, securedSession_spec s,
      fun hs hlo hhi => measurementRead_spec s hs hlo hhi, fun hs hlo hhi hread => keyInstall_spec s hs hlo hhi hread,
      fun hs hf => keyClear_spec s hs hf, fun h => keyInstall_refused s h, firmwareUpdate_ends s, firmwareUpdate_other s false,
      firmwareUpdate_other s true, firmwareUpdate_interrupted s, deviceReset_spec s,
      fun hr hr' hw hw' => linkTraining_spec s hr hr' hw hw', fun hvf => registerWrite_fanseq s hvf val,
      fun hopen => registerWrite_crtail s hopen val, fun hport hclosed => registerWrite_closed s hport hclosed val⟩

end Sys2Proof.Machine
end

section
/-! PROOFS. Answers to fault records, results that land, the error records of the host, and the unload of a module (R217, R222,
R224, R228, R237, R248, R306, R331). -/

namespace Sys2Proof.Machine

/-- R45: a counter after the count of an issue, any number a counter or not. -/
theorem countEvt_issue_any (g : Group) (j : Nat) : mget 0 (countEvt evIssue 1 g).pmc j = mget 0 g.pmc j + issueCounts g j := by
  by_cases hj : j < 16
  · exact countEvt_issue g hj
  · have hkeep : mget 0 (countEvt evIssue 1 g).pmc j = mget 0 g.pmc j := by
      have hfold : (countEvt evIssue 1 g).pmc = (List.range 16).foldl (fun m i =>
          if (mget 0 g.pmcProg i).toNat = 2 * evIssue + 1 then mset 0 m i (mget 0 m i + BitVec.ofNat 64 1) else m) g.pmc := rfl
      rw [hfold]
      refine List.foldlRecOn (List.range 16) _ (motive := fun m => mget 0 m j = mget 0 g.pmc j) rfl fun m hm i hi => ?_
      split
      · have hlt := List.mem_range.mp hi
        rw [mget_mset_ne _ _ _ (by omega), hm]
      · exact hm
    rw [hkeep, issueCounts, if_neg fun h => hj h.2]
    exact (BitVec.add_zero _).symm

section
variable (s : State)

theorem getTenant_modTenant_self (vf : Nat) (f : Tenant → Tenant) : getTenant (modTenant s vf f) vf = f (getTenant s vf) :=
  mget_mset_self _ _ _ _

theorem getDie_modDie_self (k : Nat) (f : Die → Die) : getDie (modDie s k f) k = f (getDie s k) :=
  mget_mset_self _ _ _ _

/-- R217, R248: an answered record is pending no more. -/
theorem findFault_dropFault (vf seq : Nat) : findFault (dropFault s vf seq) vf seq = none := by
  refine List.find?_eq_none.mpr fun f hf hat => ?_
  have hnot := (List.mem_filter.mp hf).2
  rw [hat] at hnot
  cases hnot

/-- R248: FANSEQ holds the number of the record that was answered. -/
theorem fanseq_dropFault (vf seq : Nat) : (getTenant (dropFault s vf seq) vf).fanseq.toNat = seq % 2 ^ 64 := by
  rw [dropFault, getTenant_modTenant_self]
  exact BitVec.toNat_ofNat seq 64

/-- R217: an answer that updates the group that stood on the fault, where that group is in focus. -/
theorem answered_group {vf seq u k : Nat} (hat : s.g.isAt u k = true) (f : Group → Group) :
    let t := updGroup (dropFault s vf seq) u k f
    t.mem = s.mem ∧ t.g = f s.g ∧ findFault t vf seq = none ∧ (getTenant t vf).fanseq.toNat = seq % 2 ^ 64 :=
  ⟨rfl, if_pos hat, findFault_dropFault s vf seq, fanseq_dropFault s vf seq⟩

/-- R217, R248: the answers to the fault of the group in focus. -/
theorem fault_answers {vf seq u k kind : Nat} {va : Addr} {lane : Option (BitVec 5)}
    (hf : findFault s vf seq = some ⟨seq, vf, .group u k, va, lane, kind⟩) (hat : s.g.isAt u k = true)
    (hrun : s.g.run = .faulted seq) :
    let ends := fun (i : Instr) (trap : Option TrapReq) (counts : Bool) => ∃ t, exec i s = .next t ∧ t.mem = s.mem ∧
      t.g = { s.g with run := .ready, trapReq := trap, pmc := t.g.pmc } ∧
      (∀ j, mget 0 t.g.pmc j = mget 0 s.g.pmc j + if counts then issueCounts s.g j else 0) ∧
      findFault t vf seq = none ∧ (getTenant t vf).fanseq.toNat = seq % 2 ^ 64
    ends (.faultResolved vf seq) s.g.trapReq false ∧
      ends (.faultDenied vf seq) (some ⟨5, 8, 0, va, lane⟩) (kind != kindFetch) := by
  intro ends
  have hwake : wake seq s.g = { s.g with run := .ready } := if_pos hrun
  constructor
  · obtain ⟨hmem, hg, hnone, hfan⟩ := answered_group s (vf := vf) (seq := seq) hat (wake seq)
    refine ⟨updGroup (dropFault s vf seq) u k (wake seq), ?_, hmem, ?_, fun j => ?_, hnone, hfan⟩
    · change execFaultResolved vf seq s = _
      rw [execFaultResolved, hf]
      rfl
    · rw [hg, hwake]
    · rw [hg, hwake]
      exact (BitVec.add_zero _).symm
  · obtain ⟨hmem, hg, hnone, hfan⟩ := answered_group s (vf := vf) (seq := seq) hat
      fun g => { countReplay kind (wake seq g) with trapReq := some ⟨5, 8, 0, va, lane⟩ }
    refine ⟨_, ?_, hmem, ?_, fun j => ?_, hnone, hfan⟩
    · change execFaultDenied vf seq s = _
      rw [execFaultDenied, hf]
      rfl
    · rw [hg, hwake, countReplay]
      split <;> rfl
    · rw [hg, hwake, countReplay]
      by_cases hk : kind = kindFetch
      · rw [if_pos hk, hk]
        exact (BitVec.add_zero _).symm
      · rw [if_neg hk, if_pos (bne_iff_ne.mpr hk)]
        exact countEvt_issue_any _ j

/-- R217: an answer that names no pending record is ignored. -/
theorem fault_answers_none {vf seq : Nat} (h : findFault s vf seq = none) :
    exec (.faultResolved vf seq) s = .next s ∧ exec (.faultDenied vf seq) s = .next s := by
  constructor
  · change execFaultResolved vf seq s = _
    rw [execFaultResolved, h]
  · change execFaultDenied vf seq s = _
    rw [execFaultDenied, h]

/-- R248: a read of FSTS. -/
theorem fstsRead_spec (vf : Nat) :
    ∃ t, exec (.fstsRead vf) s = .next t ∧ t.hostData.getLsbD 0 = (getTenant s vf).wflt ∧
      t.hostData.getLsbD 1 = (getTenant s vf).fbovf ∧ getTenant t vf = { getTenant s vf with wflt := false } ∧
      t = { s with hostData := t.hostData, tenants := t.tenants } := by
  refine ⟨_, rfl, ?_, ?_, getTenant_modTenant_self _ vf _, rfl⟩
  · show (fsts (getTenant s vf)).getLsbD 0 = _
    unfold fsts
    cases (getTenant s vf).wflt <;> cases (getTenant s vf).fbovf <;> rfl
  · show (fsts (getTenant s vf)).getLsbD 1 = _
    unfold fsts
    cases (getTenant s vf).wflt <;> cases (getTenant s vf).fbovf <;> rfl

/-- R248: a write of FBTAIL where no record waits in the device. -/
theorem fbtailWrite_spec {vf : Nat} (hw : (getTenant s vf).waiting = []) (val : BitVec 64) :
    ∃ t, exec (.fbtailWrite vf val) s = .next t ∧
      getTenant t vf = { getTenant s vf with fbtail := val, fbovf := false } ∧ t = { s with tenants := t.tenants } := by
  let u := modTenant s vf fun t => { t with fbtail := val }
  have hu : getTenant u vf = { getTenant s vf with fbtail := val } := getTenant_modTenant_self s vf _
  have hwaiting : writeWaiting u vf =
      modTenant (modTenant u vf fun t => { t with waiting := [] }) vf fun t => { t with fbovf := t.fbovf && !t.waiting.isEmpty } := by
    have hnone : (getTenant u vf).waiting = [] := by rw [hu]; exact hw
    rw [writeWaiting, hnone]
    rfl
  refine ⟨writeWaiting u vf, rfl, ?_, ?_⟩
  · rw [hwaiting, getTenant_modTenant_self, getTenant_modTenant_self, hu]
    simp [hw]
  · have hframe : ∀ (x : State) (f : Tenant → Tenant), x = { s with tenants := x.tenants } →
        modTenant x vf f = { s with tenants := (modTenant x vf f).tenants } := fun x f hx => by
      rw [hx]
      rfl
    rw [hwaiting]
    exact hframe _ _ (hframe u _ rfl)

/-- R224: a fatal event stops the device and interrupts the host. -/
theorem fatalEvent_stops (src : Nat) (synd : BitVec 64) :
    (fatalEvent s src synd).halted = true ∧ .fatal ∈ (fatalEvent s src synd).intr :=
  ⟨rfl, List.mem_append_right _ (List.mem_singleton_self _)⟩

/-- R228: a corrected event of a die whose log has room stands at its end. -/
theorem mcEvent_corrected {die type index flags : Nat} {addr : Addr} {synd vf core part slot : Nat}
    (hroom : (getDie s die).mclog.length < 32) :
    let t := mcEvent s die type index 2 flags addr synd vf core part slot
    ∃ e, (getDie t die).mclog = (getDie s die).mclog ++ [e] ∧ e.kind = 2 ∧ e.seq = s.mcSeq ∧ t.mem = s.mem ∧ t.g = s.g := by
  intro t
  let src := mcSource die type index
  let u : State := { s with mcCE := mset 0 s.mcCE src (satInc (mget 0 s.mcCE src)) }
  let e : McEntry := ⟨s.mcSeq, BitVec.ofNat 16 src, BitVec.ofNat 8 2, BitVec.ofNat 8 flags, addr, BitVec.ofNat 64 synd,
    s.clock, mget 0 u.mcCE src, mget 0 u.mcUE src, vf, core, part, slot⟩
  let v := modDie { u with mcSeq := s.mcSeq + 1 } die fun d => { d with mclog := d.mclog ++ [e] }
  have ht : t = if (getDie s die).mclog.length + 1 = 24 then interrupt v .machineCheck else v := by
    show mcEvent s die type index 2 flags addr synd vf core part slot = _
    unfold mcEvent
    simp only [show ¬2 ≥ 3 by decide, false_or]
    show (if (getDie s die).mclog.length < 32 then _ else _) = _
    rw [if_pos hroom]
    rfl
  have hv : (getDie v die).mclog = (getDie s die).mclog ++ [e] := congrArg Die.mclog (getDie_modDie_self _ die _)
  rw [ht]
  split
  · exact ⟨e, hv, rfl, rfl, rfl, rfl⟩
  · exact ⟨e, hv, rfl, rfl, rfl, rfl⟩

/-- R222, R228: the log of a die and its link errors. -/
theorem errorRecords_spec {die : Nat} (hdie : die < 4) (n other : Nat) :
    (∃ t, exec (.mcpopWrite die n) s = .next t ∧ t = { s with dies := t.dies } ∧
      (getDie t die).mclog = (getDie s die).mclog.drop n) ∧
    (∃ t, exec (.mcclrWrite die 1) s = .next t ∧ t = { s with dies := t.dies } ∧
      getDie t die = { getDie s die with mclost := 0, mcovf := false }) ∧
    (other < 4 → die ≠ other → 8 ≤ mget 0 s.flits (4 * die + other) →
      ∃ t, exec (.dieLinkRetransmit die other) s = .next t ∧ t.halted = true ∧ .fatal ∈ t.intr) ∧
    (other < 4 → die ≠ other → (getDie s die).mclog.length < 32 → mget 0 s.flits (4 * die + other) < 8 →
      ∃ t e, exec (.dieLinkRetransmit die other) s = .next t ∧ (getDie t die).mclog = (getDie s die).mclog ++ [e] ∧
        e.kind = 2 ∧ e.seq = s.mcSeq ∧ t.mem = s.mem ∧ t.g = s.g) := by
  have hin : ¬4 ≤ die := by omega
  refine ⟨⟨_, ?_, rfl, congrArg Die.mclog (getDie_modDie_self s die fun d =>
      { d with mclog := d.mclog.drop n, mchead := (d.mchead + min n d.mclog.length) % 32 })⟩,
    ⟨_, ?_, rfl, getDie_modDie_self s die fun d => { d with mclost := 0, mcovf := false }⟩, fun ho hne h8 => ?_,
    fun ho hne hroom h8 => ?_⟩
  · change execMcpopWrite die n s = _
    rw [execMcpopWrite, if_neg hin]
  · change execMcclrWrite die 1 s = _
    rw [execMcclrWrite, if_neg (by simp [hin])]
  · obtain ⟨hhalted, hintr⟩ := fatalEvent_stops { s with flits := mdel s.flits (4 * die + other) } (mcSource die 6 other) 0
    refine ⟨_, ?_, hhalted, hintr⟩
    change execDieLinkRetransmit die other s = _
    rw [execDieLinkRetransmit, if_neg (by omega), if_pos h8]
  · let u : State := { s with flits := mset 0 s.flits (4 * die + other) (mget 0 s.flits (4 * die + other) + 1) }
    obtain ⟨e, hlog, hkind, hseq, hmem, hg⟩ := mcEvent_corrected u (die := die) (type := 6) (index := other) (flags := 0)
      (addr := 0) (synd := 0) (vf := 0) (core := 0) (part := 0) (slot := 0) hroom
    refine ⟨_, e, ?_, hlog, hkind, hseq, hmem, hg⟩
    change execDieLinkRetransmit die other s = _
    rw [execDieLinkRetransmit, if_neg (by omega), if_neg (by omega)]

/-- R237: an unload that is requested joins those requested before it. -/
theorem unloadRequest_spec (vf index : Nat) :
    ∃ t, exec (.moduleUnloadRequest vf index) s = .next t ∧
      (getTenant t vf).unload = (getTenant s vf).unload ++ [(index, s.uidNext)] ∧
      t = { s with tenants := t.tenants, uidNext := s.uidNext + 1 } :=
  ⟨_, rfl, congrArg Tenant.unload (getTenant_modTenant_self { s with uidNext := s.uidNext + 1 } vf _), rfl⟩

/-- R237: the one unload that is requested ends once nothing needs its module. -/
theorem unload_spec {vf index n : Nat} (hu : (getTenant s vf).unload = [(index, n)])
    (hn : moduleNeeded s vf index n = false) :
    ∃ t, exec (.moduleUnload vf index) s = .next t ∧ (getTenant t vf).unload = [] ∧ findModule t vf index = none ∧
      t.mem = s.mem ∧ t.g = s.g := by
  let u := modTenant s vf fun t => { t with unload := t.unload.erase (index, n) }
  have hfind : (getTenant s vf).unload.find? (fun e => e.1 == index) = some (index, n) := by
    rw [hu]
    simp
  have hexec : exec (.moduleUnload vf index) s =
      .next (match findModule s vf index with
        | none => u
        | some m => removeModule u m) := by
    change execModuleUnload vf index s = _
    rw [execModuleUnload, hfind]
    simp only [hn, Bool.false_eq_true, if_false]
    rfl
  have hempty : (getTenant u vf).unload = [] := by
    rw [getTenant_modTenant_self, hu]
    simp
  rw [hexec]
  cases hm : findModule s vf index with
  | none => exact ⟨u, rfl, hempty, hm, rfl, rfl⟩
  | some m =>
    have hat := List.find?_some hm
    simp only [Bool.and_eq_true, beq_iff_eq] at hat
    obtain ⟨hvf, hindex⟩ := hat
    refine ⟨removeModule u m, rfl, hempty, List.find?_eq_none.mpr fun x hx hxat => ?_, rfl, rfl⟩
    have hnot := (List.mem_filter.mp hx).2
    rw [hvf, hindex, hxat] at hnot
    cases hnot

end

/-- Settles O59: one lemma for each answer, result and record. -/
theorem answersAndErrors : Obligations.AnswersAndErrors :=
  fun s vf _ _ _ _ n other index _ _ _ val =>
    ⟨fun hf hat hrun => fault_answers s hf hat hrun, fun hf => fault_answers_none s hf, fstsRead_spec s vf,
      fun hw => fbtailWrite_spec s hw val, ⟨_, rfl, rfl, getPart_modPart_self s _ _⟩, ⟨_, rfl, rfl, getPart_modPart_self s _ _⟩,
      fun hdie => errorRecords_spec s hdie n other, ⟨_, rfl, fatalEvent_stops s _ _⟩, unloadRequest_spec s vf index,
      fun hu hn => unload_spec s hu hn⟩

end Sys2Proof.Machine
end

section
/-! SUPPORT. What a swap of one group leaves of the others: their readiness and their age (R205). -/

namespace Sys2Proof.Machine

theorem Group.isAt_self (g : Group) : g.isAt g.uid g.slot = true := by
  simp [Group.isAt]

theorem hasPair_of_mem {l : List (Nat × Nat)} {uid slot : Nat} (h : (uid, slot) ∈ l) : hasPair l uid slot = true :=
  List.any_eq_true.mpr ⟨_, h, by simp⟩

theorem length_dropPair_lt {l : List (Nat × Nat)} {uid slot : Nat} (h : (uid, slot) ∈ l) :
    (dropPair l uid slot).length < l.length :=
  List.length_filter_lt_length_iff_exists.mpr ⟨_, h, by simp⟩

theorem mem_readyOf_of_oldest {s : State} {l : List (Nat × Nat)} {uid slot : Nat} {x : Nat × Nat}
    (h : oldest s (readyOf s (dropPair l uid slot)) = some x) : x ∈ readyOf s l := by
  obtain ⟨hx, hready⟩ := List.mem_filter.mp (mem_of_oldest h)
  exact List.mem_filter.mpr ⟨mem_of_mem_dropPair hx, hready⟩

theorem ne_of_oldest_dropPair {s : State} {l : List (Nat × Nat)} {uid slot : Nat} {x : Nat × Nat}
    (h : oldest s (readyOf s (dropPair l uid slot)) = some x) : x ≠ (uid, slot) := by
  rintro rfl
  exact not_mem_dropPair l uid slot (List.mem_filter.mp (mem_of_oldest h)).1

/-- An update of one group leaves every other as it was. -/
theorem findGroup_updGroup_ne (s : State) {uid slot : Nat} {f : Group → Group}
    (hf : ∀ g, (f g).uid = g.uid ∧ (f g).slot = g.slot) {x : Nat × Nat} (hx : x ≠ (uid, slot)) :
    findGroup (updGroup s uid slot f) x.1 x.2 = findGroup s x.1 x.2 := by
  set F : Group → Group := fun g => if g.isAt uid slot then f g else g with hF
  have hat : (fun g : Group => g.isAt x.1 x.2) ∘ F = fun g => g.isAt x.1 x.2 := by
    funext g
    simp only [Function.comp, hF]
    split
    · simp [Group.isAt, hf g]
    · rfl
  show (((s.g :: s.groups).map F).find? fun g => g.isAt x.1 x.2).getD Group.none = _
  rw [List.find?_map, hat, findGroup]
  cases hg : (s.g :: s.groups).find? fun g => g.isAt x.1 x.2 with
  | none => rfl
  | some g =>
    have hgx : g.isAt x.1 x.2 = true := List.find?_some (p := fun g : Group => g.isAt x.1 x.2) hg
    have hne : ¬ g.isAt uid slot = true := by
      intro h
      simp only [Group.isAt, Bool.and_eq_true, beq_iff_eq] at h hgx
      exact hx (Prod.ext (hgx.1.symm.trans h.1) (hgx.2.symm.trans h.2))
    simp [hF, hne]

/-- R205: the sets of a partition after a group has been swapped out of it. -/
def gaveUp (uid slot : Nat) (p : Part) : Part :=
  { p with active := dropPair p.active uid slot, pending := p.pending ++ [(uid, slot)] }

/-- R205, R49: a group that has been swapped out. -/
def swappedOut (g : Group) : Group :=
  { countEvt evSwap 1 g with swapDue := false, waited := 0, ctx := { g.ctx with pend := landAll g.ctx.pend } }

theorem getPart_swapOut (s : State) (k uid slot : Nat) :
    getPart (swapOut s k uid slot) k = gaveUp uid slot (getPart s k) :=
  getPart_modPart_self s k (gaveUp uid slot)

theorem getPart_swapOut_furrow (s : State) (k uid slot j : Nat) :
    (getPart (swapOut s k uid slot) j).furrow = (getPart s j).furrow := by
  change (getPart (modPart s k (gaveUp uid slot)) j).furrow = _
  by_cases hj : j = k
  · rw [hj, getPart_modPart_self]
    rfl
  · rw [getPart_modPart_ne _ _ hj]

/-- What a group waits for does not lie with other groups, nor with the sets of a partition. -/
theorem stillWaits_congr (s : State) (g' : Group) (gs : List Group) (ps : List (Nat × Part))
    (hps : ∀ j, (mget Part.reset ps j).furrow = (getPart s j).furrow) (g : Group) :
    stillWaits { s with g := g', groups := gs, parts := ps } g = stillWaits s g := by
  unfold stillWaits
  cases g.waitOn with
  | furrow => exact congrArg (fun o => match o with
      | some f => !g.fown || f.suspended
      | none => false) (hps _)
  | _ => rfl

theorem isReady_swapOut (s : State) (k uid slot : Nat) {x : Nat × Nat} (hx : x ≠ (uid, slot)) :
    isReady (swapOut s k uid slot) (findGroup (swapOut s k uid slot) x.1 x.2) = isReady s (findGroup s x.1 x.2) := by
  have hfind : findGroup (swapOut s k uid slot) x.1 x.2 = findGroup s x.1 x.2 :=
    findGroup_updGroup_ne (f := swappedOut) (modPart s k (gaveUp uid slot)) (fun _ => ⟨rfl, rfl⟩) hx
  have hwaits : stillWaits (swapOut s k uid slot) (findGroup s x.1 x.2) = stillWaits s (findGroup s x.1 x.2) :=
    stillWaits_congr s (swapOut s k uid slot).g (swapOut s k uid slot).groups (swapOut s k uid slot).parts
      (getPart_swapOut_furrow s k uid slot) _
  rw [hfind, isReady, hwaits]
  rfl

theorem readyOf_swapOut (s : State) (k uid slot : Nat) (l : List (Nat × Nat)) :
    readyOf (swapOut s k uid slot) (dropPair l uid slot) = readyOf s (dropPair l uid slot) := by
  refine List.filter_congr fun x hx => isReady_swapOut s k uid slot ?_
  rintro rfl
  exact not_mem_dropPair l uid slot hx

/-- R205: the age of a group lies with its block. -/
theorem oldest_swapOut (s : State) (k uid slot : Nat) (l : List (Nat × Nat)) :
    oldest (swapOut s k uid slot) l = oldest s l := by
  induction l with
  | nil => rfl
  | cons x t ih =>
    rw [oldest, oldest, ih]
    rfl

/-- R205, R49: the group in focus as a swap leaves it. -/
theorem swapOut_g (s : State) (k : Nat) :
    (swapOut s k s.g.uid s.g.slot).g = swappedOut s.g :=
  if_pos s.g.isAt_self

theorem pendingFull_eq_false {s : State} {k : Nat} {x : Nat × Nat} (uid slot : Nat)
    (h : x ∈ readyOf s (getPart s k).pending) : pendingFull s k uid slot = false := by
  have hne : (readyOf s (getPart s k).pending).isEmpty = false := by
    rw [List.isEmpty_eq_false_iff]
    exact List.ne_nil_of_mem h
  simp [pendingFull, hne]

/-- R205: a swap of an active group for the oldest ready pending one. -/
theorem swapFor_eq {s : State} {k uid slot : Nat} {x : Nat × Nat} (hlen : (getPart s k).active.length ≤ 8)
    (hme : (uid, slot) ∈ (getPart s k).active) (hx : oldest s (readyOf s (dropPair (getPart s k).pending uid slot)) = some x) :
    swapFor s k uid slot = enterActive (swapOut s k uid slot) k x := by
  have hroom : ¬ 8 ≤ (getPart (swapOut s k uid slot) k).active.length := by
    rw [getPart_swapOut]
    have := length_dropPair_lt hme
    change ¬ 8 ≤ (dropPair (getPart s k).active uid slot).length
    omega
  have hold : oldest (swapOut s k uid slot) (readyOf (swapOut s k uid slot) (dropPair (getPart s k).pending uid slot)) = some x := by
    rw [oldest_swapOut, readyOf_swapOut, hx]
  rw [swapFor, pendingFull_eq_false uid slot (mem_readyOf_of_oldest hx)]
  dsimp only [Bool.false_eq_true, if_false]
  rw [hold]
  exact if_neg hroom

/-- R205: the sets of the partition after one group has given its place to another. -/
theorem getPart_enterActive_swapOut (s : State) (k uid slot : Nat) (x : Nat × Nat) :
    (getPart (enterActive (swapOut s k uid slot) k x) k).active = dropPair (getPart s k).active uid slot ++ [x] ∧
    (getPart (enterActive (swapOut s k uid slot) k x) k).pending =
      dropPair ((getPart s k).pending ++ [(uid, slot)]) x.1 x.2 := by
  rw [getPart_enterActive, getPart_swapOut]
  exact ⟨rfl, rfl⟩

/-- R205: the group in focus, where another has taken its place. -/
theorem enterActive_swapOut_g (s : State) (k : Nat) {x : Nat × Nat} (hx : x ≠ (s.g.uid, s.g.slot)) :
    (enterActive (swapOut s k s.g.uid s.g.slot) k x).g = swappedOut s.g := by
  have hg := swapOut_g s k
  refine (enterActive_g_of_ne (s := swapOut s k s.g.uid s.g.slot) ?_ k).trans hg
  rw [hg]
  exact hx

/-- R205: age is a total preorder. -/
theorem older_total (s : State) (x y : Nat × Nat) : older s x y = true ∨ older s y x = true := by
  simp only [older, Bool.or_eq_true, decide_eq_true_eq, Bool.and_eq_true, beq_iff_eq]
  omega

theorem older_trans {s : State} {x y z : Nat × Nat} (hxy : older s x y = true) (hyz : older s y z = true) :
    older s x z = true := by
  simp only [older, Bool.or_eq_true, decide_eq_true_eq, Bool.and_eq_true, beq_iff_eq] at *
  omega

theorem older_of_oldest {s : State} {l : List (Nat × Nat)} {x : Nat × Nat} (h : oldest s l = some x) :
    ∀ y ∈ l, older s x y = true := by
  induction l generalizing x with
  | nil => cases h
  | cons z t ih =>
    have hself : ∀ w, older s w w = true := fun w => (older_total s w w).elim id id
    rw [oldest] at h
    split at h
    next ht =>
      cases h
      cases t with
      | nil =>
        intro y hy
        rw [List.mem_singleton.mp hy]
        exact hself _
      | cons w t =>
        rw [oldest] at ht
        split at ht <;> cases ht
    next w hw =>
      cases h
      intro y hy
      split
      next hzw =>
        rcases List.mem_cons.mp hy with rfl | hy
        · exact hself _
        · exact older_trans hzw (ih hw y hy)
      next hzw =>
        rcases List.mem_cons.mp hy with rfl | hy
        · exact (older_total s w y).resolve_right hzw
        · exact ih hw y hy

end Sys2Proof.Machine
end

section
/-! PROOFS. YIELD, the swaps of a partition, the boost and the choice of the group that issues (R32, R205, R359). -/

namespace Sys2Proof.Machine

theorem plainShort_yield : PlainShort { size := 4, closes := true } := by
  constructor <;> rfl

/-- R359: a group stands aside in its partition for 16 contended cycles. -/
def stoodAside (uid slot : Nat) (p : Part) : Part :=
  { p with yielded := (p.yielded.filter fun x => !(x.1 == uid && x.2.1 == slot)) ++ [(uid, slot, 16)] }

/-- R359: where no pending group is ready, the group that yields stands aside. -/
theorem yield_aside {s : State} (h : Quiet s) (hp : s.ctx.prefixes = [])
    (hnone : readyOf s (getPart s (myPart s)).pending = []) :
    ∃ t, exec .yield s = .next t ∧ OnlyCtxAndPart s t ∧ t.ctx = passed s ∧
      getPart t (myPart s) = stoodAside s.g.uid s.g.slot (getPart s (myPart s)) := by
  have hbody : yieldBody s = modPart s (myPart s) (stoodAside s.g.uid s.g.slot) := by
    rw [yieldBody]
    exact if_pos (by rw [hnone]; rfl)
  obtain ⟨t, ht, hctx, hframe⟩ := issue_shortKept (u := yieldBody s) (i := .yield)
    (body := fun _ s => .ok (yieldBody s)) h hp plainShort_yield rfl rfl rfl (by rw [hbody]; constructor <;> rfl)
  rw [hbody] at hctx hframe
  refine ⟨t, ht, ?_, hctx, ?_⟩
  · rw [hframe]
    rfl
  · rw [hframe]
    exact getPart_modPart_self s (myPart s) (stoodAside s.g.uid s.g.slot)

/-- R359: where a pending group is ready, the group that yields gives it its place. -/
theorem yield_swaps {s : State} (h : Quiet s) (hp : s.ctx.prefixes = []) {x : Nat × Nat}
    (hlen : (getPart s (myPart s)).active.length ≤ 8) (hme : (s.g.uid, s.g.slot) ∈ (getPart s (myPart s)).active)
    (hx : oldest s (readyOf s (dropPair (getPart s (myPart s)).pending s.g.uid s.g.slot)) = some x) :
    ∃ t, exec .yield s = .next t ∧ t.ctx = passed s ∧ t.mem = s.mem ∧
      (getPart t (myPart s)).active = dropPair (getPart s (myPart s)).active s.g.uid s.g.slot ++ [x] ∧
      (getPart t (myPart s)).pending = dropPair ((getPart s (myPart s)).pending ++ [(s.g.uid, s.g.slot)]) x.1 x.2 := by
  have hbody : yieldBody s = enterActive (swapOut s (myPart s) s.g.uid s.g.slot) (myPart s) x := by
    rw [yieldBody]
    refine (if_neg ?_).trans (swapFor_eq hlen hme hx)
    rw [List.isEmpty_iff]
    exact List.ne_nil_of_mem (mem_readyOf_of_oldest hx)
  have hg := enterActive_swapOut_g s (myPart s) (ne_of_oldest_dropPair hx)
  rw [← hbody] at hg
  have hctx : (yieldBody s).ctx = s.ctx := by
    show (yieldBody s).g.ctx = _
    rw [hg]
    show { s.ctx with pend := landAll s.ctx.pend } = s.ctx
    rw [h.covered, show landAll [] = s.ctx.pend from h.covered.symm]
  obtain ⟨t, ht, htctx, hframe⟩ := issue_shortKept (u := yieldBody s) (i := .yield)
    (body := fun _ s => .ok (yieldBody s)) h hp plainShort_yield rfl rfl rfl
    ⟨by rw [hg]; rfl, by rw [hg]; rfl, by rw [hg]; rfl, by rw [hg]; rfl, by rw [hg]; rfl, congrArg Ctx.pc hctx,
      congrArg Ctx.pend hctx⟩
  have hpart : getPart t (myPart s) = getPart (yieldBody s) (myPart s) := by
    rw [hframe]
    rfl
  have hsets := getPart_enterActive_swapOut s (myPart s) s.g.uid s.g.slot x
  rw [← hbody, ← hpart] at hsets
  have hmem : (yieldBody s).mem = s.mem := by rw [hbody]; rfl
  exact ⟨t, ht, by rw [htctx, hctx]; rfl, (congrArg State.mem hframe).trans hmem, hsets⟩

/-- R205: a group that is due for a swap is swapped out. -/
theorem groupSwapOut_swaps {s : State} {x : Nat × Nat} (hme : (s.g.uid, s.g.slot) ∈ (getPart s (myPart s)).active)
    (hw : s.g.window = none) (hp : s.g.parked = false) (hs : swapWanted s.g = true)
    (hlen : (getPart s (myPart s)).active.length ≤ 8)
    (hx : oldest s (readyOf s (dropPair (getPart s (myPart s)).pending s.g.uid s.g.slot)) = some x) :
    exec .groupSwapOut s = .next (enterActive (swapOut s (myPart s) s.g.uid s.g.slot) (myPart s) x) := by
  have hmay : maySwap s (myPart s) s.g.uid s.g.slot = true := by
    rw [maySwap, findGroup_focus s.g.isAt_self, hasPair_of_mem hme, hw, hp]
    rfl
  change execGroupSwapOut s = _
  rw [execGroupSwapOut, hs, hmay, swapFor_eq hlen hme hx]
  rfl

/-- R32: a group that has waited 256 cycles moves to the front. -/
theorem issueBoost_fronts {s : State} (hr : isReady s s.g = true) (hw : 256 ≤ s.g.waited)
    (hme : (s.g.uid, s.g.slot) ∈ (getPart s (myPart s)).active) :
    exec .issueBoost s = .next (modPart s (myPart s) fun p =>
      { p with active := boostFront s p.active (s.g.uid, s.g.slot) }) := by
  change execIssueBoost s = _
  rw [execIssueBoost, hr, decide_eq_true hw, hasPair_of_mem hme]
  rfl

theorem boostFront_alone {s : State} {l : List (Nat × Nat)} {x : Nat × Nat}
    (h : ∀ y ∈ boostedOf s (dropPair l x.1 x.2), older s y x = false) : boostFront s l x = x :: dropPair l x.1 x.2 := by
  have hahead : (boostedOf s (dropPair l x.1 x.2)).filter (fun y => older s y x) = [] :=
    List.filter_eq_nil_iff.mpr fun y hy => by simp [h y hy]
  rw [boostFront]
  simp [hahead, hasPair]

/-- R205: a group that has been pending for 4,096 cycles takes the place of the one that has been active longest. -/
theorem pendingStarvationSwap_swaps {s : State} {x : Nat × Nat} (hr : isReady s s.g = true) (hw : 4096 ≤ s.g.waited)
    (hme : (s.g.uid, s.g.slot) ∈ (getPart s (myPart s)).pending)
    (hx : longest s ((getPart s (myPart s)).active.filter fun y => maySwap s (myPart s) y.1 y.2) = some x) :
    exec .pendingStarvationSwap s =
      .next (enterActive (swapOut s (myPart s) x.1 x.2) (myPart s) (s.g.uid, s.g.slot)) := by
  change execPendingStarvationSwap s = _
  rw [execPendingStarvationSwap, hr, decide_eq_true hw, hasPair_of_mem hme]
  simp only [Bool.and_self, if_true, starvationSwap, hx]

/-- R32: a partition issues one of its ready active groups. -/
theorem nextIssue_ready {s : State} {k : Nat} {x : Nat × Nat} (h : nextIssue s k = some x) :
    x ∈ readyOf s (getPart s k).active := by
  rw [nextIssue] at h
  split at h
  next y hy =>
    cases h
    rw [hy]
    exact List.mem_singleton_self x
  · split at h
    next y hy =>
      cases h
      exact (List.mem_filter.mp (mem_of_oldest hy)).1
    · exact (List.mem_filter.mp (mem_of_oldest h)).1

/-- R32, R359: without boosts and without groups that stand aside it is the oldest of them. -/
theorem nextIssue_oldest {s : State} {k : Nat} {x : Nat × Nat} (h : nextIssue s k = some x)
    (hb : boostedOf s (readyOf s (getPart s k).active) = []) (hy : (getPart s k).yielded = []) :
    ∀ y ∈ readyOf s (getPart s k).active, older s x y = true := by
  have hall : ∀ l : List (Nat × Nat), l.filter (fun y => !asideIn (getPart s k) y.1 y.2) = l := fun l =>
    List.filter_eq_self.mpr fun y _ => by simp [asideIn, hy]
  apply older_of_oldest
  rw [nextIssue] at h
  split at h
  next z hz => rw [hz]; exact h
  · rw [hb] at h
    dsimp only [oldest] at h
    rw [hall] at h
    exact h

/-- Settles O23: each part by what its instruction or event does to the sets of the partition. -/
theorem groupScheduling : Obligations.GroupScheduling := by
  refine ⟨fun s h hp => ⟨yield_aside h hp, fun x => yield_swaps h hp⟩, ?_, ?_⟩
  · intro s x
    refine ⟨?_, ?_, ?_⟩
    · intro hme hw hp hs hlen hx
      have hg := enterActive_swapOut_g s (myPart s) (ne_of_oldest_dropPair hx)
      refine ⟨_, groupSwapOut_swaps hme hw hp hs hlen hx, rfl, ?_, getPart_enterActive_swapOut _ _ _ _ _⟩
      exact congrArg Group.ctx hg
    · intro hr hw hme
      refine ⟨_, issueBoost_fronts hr hw hme, rfl, getPart_modPart_self s (myPart s) _, fun hb => ?_⟩
      rw [getPart_modPart_self]
      exact boostFront_alone hb
    · intro hr hw hme hx
      exact ⟨_, pendingStarvationSwap_swaps hr hw hme hx, rfl, getPart_enterActive_swapOut _ _ _ _ _⟩
  · intro s k x hx
    obtain ⟨hmem, hready⟩ := List.mem_filter.mp (nextIssue_ready hx)
    exact ⟨hmem, hready, fun hb hy y hmem hr => nextIssue_oldest hx hb hy y (List.mem_filter.mpr ⟨hmem, hr⟩)⟩

end Sys2Proof.Machine
end

section
/-! SUPPORT. An instruction of 8 bytes whose marks release (R13, R50), and the LM loads and stores among them (R293). -/

namespace Sys2Proof.Machine

/-- An instruction of 8 bytes that neither jumps nor prefixes, without a fixed latency and a trap of its own; it may release. -/
structure MarkedLong (inf : Info) : Prop where
  size : inf.size = 8
  jumps : inf.jumps = false
  imx : inf.imx = none
  latency : inf.latency = 0
  first : inf.first = none

/-- R13, R50: what retirement makes of the context of such an instruction: the PC goes on, and marked registers that it does not
write are released. -/
theorem retireCtx_marked {inf : Info} {c0 c : Ctx} (hi : MarkedLong inf) (hpc : c.pc = c0.pc) (hpend : c.pend = []) :
    (let r := retireCtx inf c0 c
     r = { c with pc := c0.pc + 8, prefixes := [], pend := [], v := r.v, released := r.released }) ∧
    ∀ r l, l < 32 → (retireCtx inf c0 c).lane r l = if r ∈ inf.marks ∧ r ∉ vecRegs inf.writes then 0 else c.lane r l := by
  refine ⟨?_, fun r l hl => lane_releaseMarks c inf.marks (vecRegs inf.writes) r l hl⟩
  have hrpc : (releaseMarks c inf.marks (vecRegs inf.writes)).pc = c0.pc := by rw [releaseMarks_frame, ← hpc]
  rw [retireCtx, pendAfter_none (c := { c0 with pend := c.pend }) hpend inf hi.latency]
  simp only [hi.jumps, hi.imx, hi.size, hrpc, Bool.false_eq_true, if_false]
  rw [releaseMarks_frame]
  rfl

/-- R13, R211: such an instruction, that nothing stands in the way of, and whose body leaves its group fit to retire. -/
theorem issue_marked {s u : State} (h : Quiet s) {i : Instr} {inf : Info} {body : Ctx → State → Except Halt State}
    (hi : MarkedLong inf) (hp : inf.accepts = true ∨ s.ctx.prefixes = []) (hl : inf.ill = false) (hr : regsOk s inf = true)
    (hb : body s.ctx s = .ok u) (hg : KeepsIssue s.g u.g) :
    ∃ t, issue i inf body s = .next t ∧
      t = { u with g := { u.g with ctx := t.g.ctx, pmc := t.g.pmc, arriving := t.g.arriving } } ∧
      t.ctx = { u.ctx with pc := s.ctx.pc + 8, prefixes := [], pend := [], v := t.ctx.v, released := t.ctx.released } ∧
      ∀ r l, l < 32 → t.ctx.lane r l = if r ∈ inf.marks ∧ r ∉ vecRegs inf.writes then 0 else u.ctx.lane r l := by
  obtain ⟨t, ht, hctx, hframe⟩ := issue_kept h hp hi.first hl hr hb hg
  obtain ⟨hret, hlane⟩ := retireCtx_marked (c0 := s.ctx) (c := u.ctx) hi hg.pc (hg.pend.trans h.covered)
  rw [← hctx] at hret hlane
  exact ⟨t, ht, hframe, hret, hlane⟩

section

variable {s : State} {f : LmF} {global strided : Bool}

theorem markedLong_lmLoad : MarkedLong (lmLoadInfo f global strided) := ⟨rfl, rfl, rfl, rfl, rfl⟩

theorem markedLong_lmStore {lands : Bool} : MarkedLong (lmStoreInfo f global strided lands) := ⟨rfl, rfl, rfl, rfl, rfl⟩

/-- R293: the vector registers that the address of an LM access names. -/
theorem vecRegs_lmAddrReads (f : LmF) (global strided : Bool) :
    vecRegs (lmAddrReads f global strided) = if strided = false ∧ f.os = false then [f.vo.toNat] else [] := by
  cases global <;> cases strided <;> cases ho : f.os <;> simp [lmAddrReads, vecRegs, ho]

theorem vecRegs_lmData (f : LmF) : vecRegs ((lmData f).map fun r => (.vector, r)) = lmData f := vecRegs_vecReads _

/-- R37: the registers that the address of an LM access names lie below the allocation. -/
theorem lmAddrReads_fit (hf : LmFits s f strided) :
    (vecRegs (lmAddrReads f global strided)).all (fun r => decide (r < s.blk.regs)) = true := by
  obtain ⟨-, -, hvo⟩ := hf
  rw [vecRegs_lmAddrReads]
  split
  next h => simp [hvo h.1 h.2]
  · rfl

theorem regsOk_lmLoad (hf : LmFits s f strided) : regsOk s (lmLoadInfo f global strided) = true := by
  have haddr := lmAddrReads_fit (global := global) hf
  have hdata : (lmData f).all (fun r => decide (r < s.blk.regs)) = true := regRange_fits hf.2.1
  show ((vecRegs ((.predicate, f.g.pg.toNat) :: lmAddrReads f global strided) ++
    vecRegs ((lmData f).map fun r => (.vector, r)) ++ [] ++ []).all fun r => decide (r < s.blk.regs)) = true
  rw [vecRegs_cons_of_ne RegClass.noConfusion, vecRegs_lmData]
  simp only [List.all_append, haddr, hdata, List.all_nil, Bool.and_self]

theorem regsOk_lmStore {lands : Bool} (hf : LmFits s f strided) : regsOk s (lmStoreInfo f global strided lands) = true := by
  have haddr := lmAddrReads_fit (global := global) hf
  have hdata : (lmData f).all (fun r => decide (r < s.blk.regs)) = true := regRange_fits hf.2.1
  have happ : ∀ a b : List (RegClass × Nat), vecRegs (a ++ b) = vecRegs a ++ vecRegs b := fun a b => by simp [vecRegs]
  show ((vecRegs (((RegClass.predicate, f.g.pg.toNat) :: (lmData f).map fun r => (RegClass.vector, r)) ++ lmAddrReads f global strided) ++
    [] ++ [] ++ []).all fun r => decide (r < s.blk.regs)) = true
  rw [happ, vecRegs_cons_of_ne RegClass.noConfusion, vecRegs_lmData]
  simp only [List.all_append, haddr, hdata, List.all_nil, Bool.and_self]

/-- R293: a loaded word, sign-extended, zero-extended or one of several. -/
theorem loadWord_eq_laneWord {bs : List Byte} {k : Nat} (hlen : bs.length = sizeBytes f.size) (hk : k < lmCount f.size) :
    loadWord f bs k = laneWord f bs k := by
  unfold loadWord laneWord
  by_cases hs : f.size.toNat < 2
  · have hsize : sizeBytes f.size = 1 ∨ sizeBytes f.size = 2 := by
      have h01 : f.size.toNat = 0 ∨ f.size.toNat = 1 := by omega
      exact h01.imp (fun h => by rw [sizeBytes, h]; rfl) fun h => by rw [sizeBytes, h]; rfl
    have hk0 : k = 0 := by
      rw [lmCount, if_neg (by omega), if_neg (by omega)] at hk
      omega
    have hlt := leNat_lt bs
    rw [hlen, pow_256_eq] at hlt
    rw [if_pos hs]
    by_cases hsign : f.sign = true
    · have hnat : (BitVec.ofNat (8 * sizeBytes f.size) (leNat bs)).toNat = leNat bs := by
        rw [BitVec.toNat_ofNat, Nat.mod_eq_of_lt hlt]
      have hsext := sextN_toInt (n := 8 * sizeBytes f.size) (by omega) (BitVec.ofNat _ (leNat bs))
      rw [hnat] at hsext
      rw [if_pos hsign, if_pos ⟨hs, hsign⟩, hsext]
      rfl
    · rw [if_neg hsign, if_neg fun h => hsign h.2, hk0, Nat.mul_zero, List.drop_zero,
        List.take_of_length_le (by omega)]
  · rw [if_neg hs, if_neg fun h => hs h.1]

/-- R293, R13: an LM load retires, where its body has loaded the lanes that take part. -/
theorem lmLoad_retires {u : State} (h : Quiet s) (hf : LmFits s f strided) {i : Instr}
    {body : Ctx → State → Except Halt State} {bs : Nat → List Byte} (hb : body s.ctx s = .ok u)
    (hlen : ∀ l < 32, takesPart s.ctx f.g l = true → (bs l).length = sizeBytes f.size)
    (hctx : u.ctx = writeLoaded f (s.ctx.takePart f.g) bs s.ctx)
    (hu : u.g = { s.g with ctx := u.g.ctx, swapDue := u.g.swapDue }) :
    ∃ t, issue i (lmLoadInfo f global strided) body s = .next t ∧
      t = { u with g := { u.g with ctx := t.g.ctx, pmc := t.g.pmc, arriving := t.g.arriving } } ∧ LoadsLanes s f bs t := by
  have hrows : writeLoaded f (s.ctx.takePart f.g) bs s.ctx =
      setRows s.ctx f.vd.toNat (s.ctx.takePart f.g) (fun k l => loadWord f (bs l) k) (lmCount f.size) := rfl
  rw [hrows] at hctx
  have hpc : u.g.ctx.pc = s.ctx.pc := (congrArg Ctx.pc hctx).trans (setRows_pc _ _ _ _ _)
  have hpend : u.g.ctx.pend = s.ctx.pend := (congrArg Ctx.pend hctx).trans (setRows_pend _ _ _ _ _)
  obtain ⟨t, ht, hframe, htctx, hlane⟩ := issue_marked (i := i) h markedLong_lmLoad (.inl rfl) rfl
    (regsOk_lmLoad (global := global) hf) hb ⟨by rw [hu], by rw [hu], by rw [hu], by rw [hu], by rw [hu], hpc, hpend⟩
  refine ⟨t, ht, hframe, ?_, fun r l hl => ?_⟩
  · rw [htctx, hctx, setRows_frame]
  · rw [hlane r l hl, hctx, setRows_lane _ _ _ _ _ _ hl, laneOn_takePart _ _ hl]
    have hwritten : r ∈ vecRegs (lmLoadInfo f global strided).writes ↔ f.vd.toNat ≤ r ∧ r < f.vd.toNat + lmCount f.size := by
      rw [show vecRegs (lmLoadInfo f global strided).writes = lmData f from vecRegs_lmData f]
      exact mem_regRange
    have hmark : r ∈ (lmLoadInfo f global strided).marks ↔ f.lro = true ∧ r = f.vo.toNat := by
      show r ∈ (if f.lro then [f.vo.toNat] else []) ↔ _
      cases f.lro <;> simp
    simp only [hwritten, hmark]
    by_cases hd : f.vd.toNat ≤ r ∧ r < f.vd.toNat + lmCount f.size
    · rw [if_neg fun hc => hc.2 hd, if_pos hd]
      by_cases hpart : takesPart s.ctx f.g l = true
      · rw [if_pos ⟨hd.1, hd.2, hpart⟩, if_pos hpart, loadWord_eq_laneWord (hlen l hl hpart) (by omega)]
      · rw [if_neg fun hc => hpart hc.2.2, if_neg hpart]
    · rw [if_neg hd, if_neg (c := _ ∧ _ ∧ _) fun hc => hd ⟨hc.1, hc.2.1⟩]
      exact if_congr (and_iff_left hd) rfl rfl

/-- R293, R13: an LM store retires. -/
theorem lmStore_retires {u : State} (h : Quiet s) (hf : LmFits s f strided) {i : Instr} {lands : Bool}
    {body : Ctx → State → Except Halt State} (hb : body s.ctx s = .ok u)
    (hu : u.g = { s.g with swapDue := u.g.swapDue }) :
    ∃ t, issue i (lmStoreInfo f global strided lands) body s = .next t ∧
      t = { u with g := { u.g with ctx := t.g.ctx, pmc := t.g.pmc, arriving := t.g.arriving } } ∧ StoresLanes s f t := by
  have hctx : u.ctx = s.ctx := by
    show u.g.ctx = s.g.ctx
    rw [hu]
  obtain ⟨t, ht, hframe, htctx, hlane⟩ := issue_marked (i := i) h markedLong_lmStore (.inl rfl) rfl
    (regsOk_lmStore (global := global) (lands := lands) hf) hb
    ⟨by rw [hu], by rw [hu], by rw [hu], by rw [hu], by rw [hu], by rw [hu], by rw [hu]⟩
  refine ⟨t, ht, hframe, ?_, fun r l hl => ?_⟩
  · rw [htctx, hctx]
  · rw [hlane r l hl, hctx]
    refine if_congr ?_ rfl rfl
    show r ∈ (if f.lrd then lmData f else []) ++ (if f.lro then [f.vo.toNat] else []) ∧ r ∉ [] ↔ _
    cases f.lrd <;> cases f.lro <;> simp [lmData]

end

/-- The elements of lists of one length put one after another. -/
theorem getElem?_flatMap_of_length {α β : Type} {g : α → List β} {e : Nat} (he : 0 < e) (h : ∀ x, (g x).length = e)
    (l : List α) (k : Nat) : (l.flatMap g)[k]? = (l[k / e]?).bind fun x => (g x)[k % e]? := by
  induction l generalizing k with
  | nil => rfl
  | cons x t ih =>
    rw [List.flatMap_cons, List.getElem?_append, h]
    split
    next hk => simp [Nat.div_eq_of_lt hk, Nat.mod_eq_of_lt hk]
    next hk =>
      obtain ⟨j, rfl⟩ := Nat.exists_eq_add_of_le' (Nat.le_of_not_lt hk)
      rw [Nat.add_sub_cancel, ih, Nat.add_div_right _ he, Nat.add_mod_right]
      rfl

/-- A byte of a lane word. -/
theorem ofNat_div_eq_extract (x : Lane) (j : Nat) : BitVec.ofNat 8 (x.toNat / 256 ^ j) = x.extractLsb' (8 * j) 8 := by
  apply BitVec.eq_of_toNat_eq
  rw [BitVec.toNat_ofNat, BitVec.extractLsb'_toNat, Nat.shiftRight_eq_div_pow, pow_256_eq]

section

variable {s : State} {f : LmF}

/-- R260, R293: the data registers of an LM access hold its bytes. -/
theorem sizeBytes_le (h : f.size.toNat ≤ 4) : sizeBytes f.size ≤ 4 * lmCount f.size := by
  unfold sizeBytes lmCount
  generalize f.size.toNat = n at *
  interval_cases n <;> decide

/-- R293: the bytes that a lane stores. -/
theorem storeBytes_getElem? (h : f.size.toNat ≤ 4) (c : Ctx) (l : Nat) {k : Nat} (hk : k < sizeBytes f.size) :
    (storeBytes f c l)[k]? = some (laneByte f c l k) := by
  have hreg : k / 4 < lmCount f.size := by have := sizeBytes_le h; omega
  have hbyte : k % 4 < 4 := Nat.mod_lt _ (by decide)
  rw [storeBytes, List.getElem?_take_of_lt hk, getElem?_flatMap_of_length (e := 4) (by decide) fun _ => leBytes_length _ _,
    List.getElem?_range hreg, Option.bind_some, leBytes_eq_map, List.getElem?_map, List.getElem?_range hbyte, Option.map_some,
    ofNat_div_eq_extract]
  rfl

theorem storeBytes_length (h : f.size.toNat ≤ 4) (c : Ctx) (l : Nat) : (storeBytes f c l).length = sizeBytes f.size := by
  have hlen : ((List.range (lmCount f.size)).flatMap fun k => leBytes 4 (c.lane (f.vd.toNat + k) l).toNat).length =
      4 * lmCount f.size := by simp [List.length_flatMap, Nat.mul_comm]
  rw [storeBytes, List.length_take, hlen, Nat.min_eq_left (sizeBytes_le h)]

/-- R344: the cells that the lanes of a store write, ascending. -/
def laneCells (s : State) (f : LmF) (place : Nat → Nat) : List (Nat × Byte) :=
  (lanesOf (s.ctx.takePart f.g)).flatMap fun l => cellsAt (place l) (storeBytes f s.ctx l)

theorem mem_lanesOf_takePart {c : Ctx} {g : Guard} {l : Nat} :
    l ∈ lanesOf (c.takePart g) ↔ l < 32 ∧ takesPart c g l = true := by
  rw [mem_lanesOf]
  exact and_congr_right fun hl => by rw [laneOn_takePart _ _ hl]

theorem lanesOf_pairwise (m : Mask) : (lanesOf m).Pairwise (· < ·) := List.pairwise_lt_range.filter _

/-- R344: the highest lane stands. -/
theorem writeCells_lanesStored (h : f.size.toNat ≤ 4) (place : Nat → Nat) (m : List Host.Cell) :
    lanesStored s f place (mget memDefault (writeCells m (laneCells s f place))) := by
  intro l k hl hpart hk hlater
  obtain ⟨l₁, l₂, hsplit⟩ := List.append_of_mem (mem_lanesOf_takePart.mpr ⟨hl, hpart⟩)
  have hafter : ∀ l' ∈ l₂, l < l' := by
    have hpair := lanesOf_pairwise (s.ctx.takePart f.g)
    rw [hsplit] at hpair
    exact (List.pairwise_cons.mp (List.pairwise_append.mp hpair).2.1).1
  rw [laneCells, hsplit]
  refine mget_writeCells_last m l₁ (storeBytes_getElem? h s.ctx l hk) fun l' hl' => ?_
  have hin : l' ∈ lanesOf (s.ctx.takePart f.g) := by
    rw [hsplit]
    exact List.mem_append_right _ (List.mem_cons_of_mem _ hl')
  obtain ⟨hlt, hpart'⟩ := mem_lanesOf_takePart.mp hin
  rw [storeBytes_length h]
  exact hlater l' (hafter l' hl') hlt hpart'

theorem mem_laneCells (h : f.size.toNat ≤ 4) {place : Nat → Nat} {c : Nat × Byte} (hc : c ∈ laneCells s f place) :
    c.1 ∈ laneStorePlaces s f place := by
  obtain ⟨l, hl, hcl⟩ := List.mem_flatMap.mp hc
  obtain ⟨hlt, hpart⟩ := mem_lanesOf_takePart.mp hl
  exact List.mem_flatMap.mpr ⟨l, List.mem_filter.mpr ⟨List.mem_range.mpr hlt, hpart⟩, storeBytes_length h s.ctx l ▸ mem_cellsAt hcl⟩

end

end Sys2Proof.Machine
end

section
/-! PROOFS. Scratch loads and stores of lanes (R294, R295). -/

namespace Sys2Proof.Machine

/-- R170: of an acquire nothing but cores changes. -/
theorem acquireAt_frame (s : State) (scope : BitVec 3) : acquireAt s scope = { s with cores := (acquireAt s scope).cores } := by
  unfold acquireAt
  split <;> rfl

section

variable {s : State} {f : LmF} {b : Block}

/-- R153: the scratch accesses of the lanes that take part pass their checks. -/
theorem checkScratch_lanes {n : Nat} {read : Bool}
    (h : ∀ l < 32, takesPart s.ctx f.g l = true →
      InScratch b n (scratchOff f s.ctx l) ∧ (read = true → scratchPoisoned b (scratchOff f s.ctx l) n = false)) :
    checkScratch b n read (laneOffs f s.ctx (s.ctx.takePart f.g)) = .ok () := by
  refine checkScratch_ok fun x hx => ?_
  obtain ⟨l, hl, rfl⟩ := List.mem_map.mp hx
  obtain ⟨hlt, hpart⟩ := mem_lanesOf_takePart.mp hl
  exact h l hlt hpart

/-- R294: the device with the lanes loaded, before the acquire of an ordered load. -/
def scratchLoaded (s : State) (f : LmF) (b : Block) : State :=
  modCtx (looseRead s b.uid (sizeBytes f.size) ((lanesOf (s.ctx.takePart f.g)).map fun l => scratchOff f s.ctx l))
    (writeLoaded f (s.ctx.takePart f.g) fun l => scratchRead s b (scratchOff f s.ctx l) (sizeBytes f.size))

theorem loadScratch_loads (h : Quiet s)
    (hin : ∀ l < 32, takesPart s.ctx f.g l = true →
      InScratch b (sizeBytes f.size) (scratchOff f s.ctx l) ∧
        scratchPoisoned b (scratchOff f s.ctx l) (sizeBytes f.size) = false) :
    loadScratch f s.ctx (some b) s =
      .ok (if f.ord then acquireAt (scratchLoaded s f b) f.scope else scratchLoaded s f b) := by
  have hcheck := checkScratch_lanes (read := true) fun l hl hp => ⟨(hin l hl hp).1, fun _ => (hin l hl hp).2⟩
  unfold loadScratch
  rw [h.noWindow]
  dsimp only [checkTarget]
  rw [hcheck]
  rfl

/-- R294: a scratch load by the lanes that take part, as its instruction issues it. -/
theorem scratchLoad_retires (h : Quiet s) (hf : LmFits s f false) {i : Instr} {body : Ctx → State → Except Halt State}
    (hbody : body s.ctx s = loadScratch f s.ctx (some b) s)
    (hin : ∀ l < 32, takesPart s.ctx f.g l = true →
      InScratch b (sizeBytes f.size) (scratchOff f s.ctx l) ∧
        scratchPoisoned b (scratchOff f s.ctx l) (sizeBytes f.size) = false) :
    ∃ t, issue i (lmLoadInfo f false false) body s = .next t ∧ OnlyScratchRead s t ∧
      LoadsLanes s f (fun l => scratchRead s b (scratchOff f s.ctx l) (sizeBytes f.size)) t := by
  obtain ⟨u, hu, huframe⟩ : ∃ u, body s.ctx s = .ok u ∧ u = { scratchLoaded s f b with cores := u.cores } := by
    refine ⟨_, hbody.trans (loadScratch_loads h hin), ?_⟩
    split
    · exact acquireAt_frame _ _
    · rfl
  obtain ⟨hread, hloose, hbroken⟩ := looseRead_frame s b.uid (sizeBytes f.size)
    ((lanesOf (s.ctx.takePart f.g)).map fun l => scratchOff f s.ctx l)
  have hctx : u.ctx = writeLoaded f (s.ctx.takePart f.g)
      (fun l => scratchRead s b (scratchOff f s.ctx l) (sizeBytes f.size)) s.ctx := by
    rw [huframe]
    rfl
  obtain ⟨t, ht, hframe, hloads⟩ := lmLoad_retires (i := i) (global := false) h hf hu
    (fun l _ _ => scratchRead_length s b _ _) hctx (by rw [huframe]; rfl)
  rw [huframe] at hframe
  refine ⟨t, ht, ⟨?_, ?_, fun hnone => ?_⟩, hloads⟩
  · rw [hframe]
    rfl
  · rw [hframe]
    exact hloose
  · rw [hframe]
    exact hbroken hnone

/-- R166: where no engine write to the block stands open, a read finds the bytes of its scratch. -/
theorem scratchRead_settled {s : State} {b : Block} (h : ∀ x ∈ s.loose, x.uid ≠ b.uid) (o n : Nat) :
    scratchRead s b o n = scratchBytes b o n := by
  have hover (lo off : Nat) : looseOver s b.uid lo n off = [] := by
    unfold looseOver
    have hnone : ∀ x ∈ s.loose, within x.uid x.off x.old.length b.uid off = false := fun x hx => by
      simp [within, h x hx]
    generalize s.loose = l at hnone
    induction l with
    | nil => rfl
    | cons x t ih =>
      rw [List.forall_mem_cons] at hnone
      rw [List.foldl_cons, hnone.1]
      exact ih hnone.2
  refine List.map_congr_left fun k _ => ?_
  rw [scratchSeen, hover]

/-- R294: the device with the lanes stored to a block's scratch. -/
def scratchStored (s : State) (f : LmF) (uid : Nat) : State := storeScratch s uid (laneCells s f (scratchOff f s.ctx))

theorem storeScratchLanes_stores
    (hin : ∀ l < 32, takesPart s.ctx f.g l = true → InScratch b (sizeBytes f.size) (scratchOff f s.ctx l)) :
    storeScratchLanes f s.ctx (some b) s = .ok (scratchStored s f b.uid) := by
  have hcheck := checkScratch_lanes (read := false) fun l hl hp => ⟨hin l hl hp, fun hread => (Bool.false_ne_true hread).elim⟩
  unfold storeScratchLanes
  dsimp only [checkTarget]
  rw [hcheck]
  rfl

/-- An update of the block of one number changes it alone. -/
theorem findBlk_updBlk_ne (s : State) {uid u : Nat} {F : Block → Block} (hF : ∀ b, (F b).uid = b.uid) (hu : u ≠ uid) :
    findBlk (updBlk s uid F) u = findBlk s u := by
  rw [findBlk, updBlk_blocks, find?_map_uid _ fun b _ => by split <;> simp only [hF], findBlk]
  cases hb : (s.blk :: s.blks).find? fun b => b.uid == u with
  | none => rfl
  | some b =>
    have hbu : b.uid = u := by simpa using List.find?_some hb
    rw [Option.map_some, Option.getD_some, Option.getD_some, if_neg (by simp [hbu, hu])]

/-- R166: writes of the group in focus over what engines have written leave the engines' elements, as far as they are not its
to see. -/
theorem groupOver_sameElements (s : State) (uid : Nat) (cells : List (Nat × Byte)) : SameElements s (groupOver s uid cells) := by
  refine ⟨?_, ?_, fun hl he => ?_⟩
  · show (s.loose.map fun x => if x.uid == uid then x.over cells else x).map _ = _
    rw [List.map_map]
    refine List.map_congr_left fun x _ => ?_
    simp only [Function.comp]
    split <;> rfl
  · show (s.early.map fun x => if x.hit cells uid then { x with past := true } else x).map _ = _
    rw [List.map_map]
    refine List.map_congr_left fun x _ => ?_
    simp only [Function.comp]
    split <;> rfl
  · show (s.broken || s.early.any _) = s.broken
    rw [he, List.any_nil, Bool.or_false]

/-- Scratch cells of a block written, with the poison that goes (R223). -/
def scratchPut (cells : List (Nat × Byte)) (b : Block) : Block :=
  { b with scratch := scratchCells b.scratch cells, scratchPoison := clearScratchPoison b.scratchPoison cells }

theorem storeScratch_eq (s : State) (uid : Nat) (cells : List (Nat × Byte)) :
    storeScratch s uid cells = updBlk (groupOver s uid cells) uid (scratchPut cells) := rfl

theorem storeScratch_blk (s : State) (uid : Nat) (cells : List (Nat × Byte)) :
    (storeScratch s uid cells).blk = if s.blk.uid == uid then scratchPut cells s.blk else s.blk := rfl

/-- R294: the block that a scratch store writes. -/
theorem findBlk_storeScratch {s : State} {uid : Nat} (hmine : s.blk.uid = uid ∨ (findBlk s uid).phase ≠ .none)
    (cells : List (Nat × Byte)) : findBlk (storeScratch s uid cells) uid = scratchPut cells (findBlk s uid) := by
  rcases hmine with hme | hphase
  · have hblk : (storeScratch s uid cells).blk = scratchPut cells s.blk := by
      rw [storeScratch_blk, if_pos (beq_iff_eq.mpr hme)]
    rw [findBlk_focus hme, ← hblk]
    exact findBlk_focus (by rw [hblk]; exact hme)
  · exact findBlk_updBlk (s := groupOver s uid cells) hphase fun _ => rfl

theorem storeScratch_onlyScratch (s : State) (uid : Nat) (cells : List (Nat × Byte)) {t : State}
    (hframe : t = { storeScratch s uid cells with
      g := { s.g with ctx := t.g.ctx, pmc := t.g.pmc, arriving := t.g.arriving } }) : OnlyScratch s t := by
  refine ⟨?_, ?_, ?_⟩
  · rw [hframe]
    rfl
  · rw [hframe]
    dsimp only
    rw [storeScratch_blk]
    split <;> rfl
  · rw [hframe]
    exact groupOver_sameElements s uid cells

/-- R294: a scratch store by the lanes that take part, to a block that the device finds by its number. -/
theorem scratchStore_retires (h : Quiet s) (hf : LmFits s f false) (hb : findBlk s b.uid = b)
    (hmine : s.blk = b ∨ b.phase ≠ .none) {i : Instr} {body : Ctx → State → Except Halt State}
    (hbody : body s.ctx s = storeScratchLanes f s.ctx (some b) s)
    (hin : ∀ l < 32, takesPart s.ctx f.g l = true → InScratch b (sizeBytes f.size) (scratchOff f s.ctx l)) :
    ∃ t, issue i (lmStoreInfo f false false false) body s = .next t ∧ OnlyScratch s t ∧ StoresLanes s f t ∧
      lanesStored s f (scratchOff f s.ctx) (mget 0 (findBlk t b.uid).scratch) ∧
      (∀ a, a ∉ laneStorePlaces s f (scratchOff f s.ctx) → mget 0 (findBlk t b.uid).scratch a = mget 0 b.scratch a) ∧
      ∀ u, u ≠ b.uid → findBlk t u = findBlk s u := by
  obtain ⟨t, ht, hframe, hstores⟩ := lmStore_retires (i := i) (u := scratchStored s f b.uid) (global := false) (lands := false)
    h hf (hbody.trans (storeScratchLanes_stores hin)) rfl
  have hfind (u : Nat) : findBlk t u = findBlk (scratchStored s f b.uid) u :=
    findBlk_congr (by rw [hframe]) (by rw [hframe]) u
  have hblk : (findBlk t b.uid).scratch = writeCells b.scratch (laneCells s f (scratchOff f s.ctx)) := by
    rw [hfind, ← scratchCells_eq_writeCells]
    rw [scratchStored, findBlk_storeScratch (by rw [hb]; exact hmine.imp_left (congrArg Block.uid)), hb]
    rfl
  refine ⟨t, ht, storeScratch_onlyScratch s b.uid _ hframe, hstores, ?_, fun a ha => ?_, fun u hu => ?_⟩
  · rw [hblk]
    exact writeCells_lanesStored hf.1 (scratchOff f s.ctx) b.scratch
  · rw [hblk]
    exact mget_writeCells_ne _ _ _ fun c hc he => ha (he ▸ mem_laneCells hf.1 hc)
  · rw [hfind]
    exact findBlk_updBlk_ne (groupOver s b.uid (laneCells s f (scratchOff f s.ctx))) (fun _ => rfl) hu

theorem exec_ldl (s : State) (f : LmF) : exec (.ldl f) s =
    issue (.ldl f) (lmLoadInfo f false false) (fun rc s => loadScratch f rc (some s.blk) s) s := rfl

theorem exec_ldr (s : State) (f : LmF) : exec (.ldr f) s =
    issue (.ldr f) (lmLoadInfo f false false) (fun rc s => loadScratch f rc (spanTarget s f.n.toNat) s) s := rfl

theorem exec_stl (s : State) (f : LmF) : exec (.stl f) s =
    issue (.stl f) (lmStoreInfo f false false false) (fun rc s => storeScratchLanes f rc (some s.blk) s) s := rfl

theorem exec_str (s : State) (f : LmF) : exec (.str f) s =
    issue (.str f) (lmStoreInfo f false false false) (fun rc s => storeScratchLanes f rc (spanTarget s f.n.toNat) s) s := rfl

/-- R23: a span position's block is there. -/
theorem spanTarget_phase {n : Nat} (h : spanTarget s n = some b) : b.phase ≠ .none := by
  unfold spanTarget at h
  split at h
  · have hmem := List.mem_of_find?_eq_some h
    simpa using (List.mem_filter.mp (List.mem_filter.mp hmem).1).2
  · cases h

end

end Sys2Proof.Machine
end

section
/-! PROOFS. The FIFO banks (R300, R301), and the scratch of a block together. -/

namespace Sys2Proof.Machine

section

variable {s : State} {f : LmF}

/-- R300: a FIFO bank of the block, through which no switch goes. -/
structure FifoBank (s : State) (n : Nat) : Prop where
  owned : n < s.blk.lstore
  fifo : bankMode s.blk n = 2
  free : bankBusy s.blk n = false

theorem checkFifo_ok {n : Nat} (hn : FifoBank s n) : checkFifo s.blk n = .ok () := by
  obtain ⟨howned, hmode, hfree⟩ := hn
  rw [checkFifo, if_neg (by simp [hfree]), if_neg (by simp [hmode]; omega)]

/-- What issue needs of a QPUSH. -/
def qpushInfo (f : LmF) : Info where
  size := 8
  reads := [(.predicate, f.g.pg.toNat), (.vector, f.vd.toNat)]
  closes := true
  guard := some f.g
  marks := if f.lrd then [f.vd.toNat] else []
  lands := [f.vd.toNat]

/-- What issue needs of a QPOP. -/
def qpopInfo (f : LmF) : Info where
  size := 8
  reads := [(.predicate, f.g.pg.toNat)]
  writes := [(.vector, f.vd.toNat)]
  closes := true
  guard := some f.g

theorem exec_qpush (s : State) (f : LmF) : exec (.qpush f) s = issue (.qpush f) (qpushInfo f) (qpushBody f) s := rfl

theorem exec_qpop (s : State) (f : LmF) : exec (.qpop f) s = issue (.qpop f) (qpopInfo f) (qpopBody f) s := rfl

theorem regsOk_qpush (h : f.vd.toNat < s.blk.regs) : regsOk s (qpushInfo f) = true := by
  simp [regsOk, qpushInfo, vecRegs, h]

theorem regsOk_qpop (h : f.vd.toNat < s.blk.regs) : regsOk s (qpopInfo f) = true := by
  simp [regsOk, qpopInfo, vecRegs, h]

/-- R300: the entry that a QPUSH puts behind the others: the lanes that take part, zeros elsewhere. -/
def pushedEntry (s : State) (f : LmF) : List Lane :=
  (List.range 32).map fun l => if takesPart s.ctx f.g l then s.ctx.lane f.vd.toNat l else 0

/-- R300: the block after a QPUSH. -/
def pushedTo (s : State) (f : LmF) : Block :=
  { s.blk with
    fifo := mset [] s.blk.fifo f.n.toNat (fifoOf s.blk f.n.toNat ++ [pushedEntry s f])
    scratchPoison := clearEntry s.blk.scratchPoison f.n.toNat (fifoOf s.blk f.n.toNat).length }

theorem qpushBody_pushes (hn : FifoBank s f.n.toNat) (hroom : (fifoOf s.blk f.n.toNat).length < 256) :
    qpushBody f s.ctx s = .ok { s with blk := pushedTo s f } := by
  have hentry : ((List.range 32).map fun l => if laneOn (s.ctx.takePart f.g) l then s.ctx.lane f.vd.toNat l else 0) =
      pushedEntry s f := List.map_congr_left fun l hl => by rw [laneOn_takePart _ _ (List.mem_range.mp hl)]
  rw [qpushBody]
  dsimp only
  rw [checkFifo_ok hn]
  dsimp only
  rw [if_neg (by omega), hentry]
  rfl

/-- R300: a QPUSH with room. -/
theorem qpush_pushes (h : Quiet s) (hp : s.ctx.prefixes = []) (hreg : f.vd.toNat < s.blk.regs)
    (hn : FifoBank s f.n.toNat) (hroom : (fifoOf s.blk f.n.toNat).length < 256) :
    ∃ t, exec (.qpush f) s = .next t ∧
      t = { s with g := { s.g with ctx := t.g.ctx, pmc := t.g.pmc, arriving := t.g.arriving }, blk := pushedTo s f } ∧
      t.ctx = { s.ctx with pc := s.ctx.pc + 8, v := t.ctx.v, released := t.ctx.released } ∧
      ∀ r l, l < 32 → t.ctx.lane r l = if f.lrd = true ∧ r = f.vd.toNat then 0 else s.ctx.lane r l := by
  obtain ⟨t, ht, hframe, hctx, hlane⟩ := issue_marked (i := .qpush f) (inf := qpushInfo f) (u := { s with blk := pushedTo s f }) h
    ⟨rfl, rfl, rfl, rfl, rfl⟩ (.inr hp) rfl (regsOk_qpush hreg) (qpushBody_pushes hn hroom) (by constructor <;> rfl)
  refine ⟨t, (exec_qpush s f).trans ht, hframe, ?_, fun r l hl => (hlane r l hl).trans (if_congr ?_ rfl rfl)⟩
  · rw [hctx, ← hp, ← h.covered]
    rfl
  · show r ∈ (if f.lrd then [f.vd.toNat] else []) ∧ r ∉ [] ↔ _
    cases f.lrd <;> simp

theorem qpush_waits (h : Quiet s) (hp : s.ctx.prefixes = []) (hreg : f.vd.toNat < s.blk.regs) (hn : FifoBank s f.n.toNat)
    (hfull : 256 ≤ (fifoOf s.blk f.n.toNat).length) : exec (.qpush f) s = .next (waitFor s (.room f.n.toNat)) := by
  have hbody : qpushBody f s.ctx s = .error (.wait (.room f.n.toNat)) := by
    rw [qpushBody]
    dsimp only
    rw [checkFifo_ok hn]
    exact if_pos hfull
  rw [exec_qpush, issue_body h _ _ _ (.inr hp) rfl (regsOk_qpush hreg) rfl, hbody]
  rfl

theorem qpop_waits (h : Quiet s) (hp : s.ctx.prefixes = []) (hreg : f.vd.toNat < s.blk.regs) (hn : FifoBank s f.n.toNat)
    (hempty : fifoOf s.blk f.n.toNat = []) : exec (.qpop f) s = .next (waitFor s (.entry f.n.toNat)) := by
  have hbody : qpopBody f s.ctx s = .error (.wait (.entry f.n.toNat)) := by
    rw [qpopBody]
    dsimp only
    rw [checkFifo_ok hn, hempty]
  rw [exec_qpop, issue_body h _ _ _ (.inr hp) rfl (regsOk_qpop hreg) rfl, hbody]
  rfl

/-- R300: the device after a QPOP of an entry, with the others left. -/
def qpopped (s : State) (f : LmF) (e : List Lane) (rest : List (List Lane)) : State :=
  modBlk (modCtx s fun c => c.setV f.vd.toNat (s.ctx.takePart f.g) fun l => (e[l]?).getD 0) fun b =>
    { b with fifo := mset [] b.fifo f.n.toNat rest }

theorem qpopBody_pops {e : List Lane} {rest : List (List Lane)} (hn : FifoBank s f.n.toNat)
    (he : fifoOf s.blk f.n.toNat = e :: rest) (hclean : s.blk.scratchPoison = []) :
    qpopBody f s.ctx s = .ok (qpopped s f e rest) := by
  have hpoison : poisonedSlot [] f.n.toNat (s.ctx.takePart f.g) = none := by simp [poisonedSlot, mget]
  have hshift : ({ s.blk with
      fifo := mset [] s.blk.fifo f.n.toNat rest, scratchPoison := shiftPoison s.blk.scratchPoison f.n.toNat } : Block) =
      { s.blk with fifo := mset [] s.blk.fifo f.n.toNat rest } := by
    rw [show shiftPoison s.blk.scratchPoison f.n.toNat = s.blk.scratchPoison by rw [hclean]; rfl]
  rw [qpopBody]
  dsimp only
  rw [checkFifo_ok hn, he]
  dsimp only
  rw [hclean, hpoison]
  exact congrArg (fun b => Except.ok { modCtx s (fun c => c.setV f.vd.toNat (s.ctx.takePart f.g) fun l => (e[l]?).getD 0) with
    blk := b }) hshift

/-- R300: a QPOP of an entry that stands, where nothing of the local store is poisoned. -/
theorem qpop_pops {e : List Lane} {rest : List (List Lane)} (h : Quiet s) (hp : s.ctx.prefixes = [])
    (hreg : f.vd.toNat < s.blk.regs) (hn : FifoBank s f.n.toNat)
    (he : fifoOf s.blk f.n.toNat = e :: rest) (hclean : s.blk.scratchPoison = []) :
    ∃ t, exec (.qpop f) s = .next t ∧
      t = { s with
        g := { s.g with ctx := t.g.ctx, pmc := t.g.pmc, arriving := t.g.arriving }
        blk := { s.blk with fifo := mset [] s.blk.fifo f.n.toNat rest } } ∧
      t.ctx = { s.ctx with pc := s.ctx.pc + 8, v := t.ctx.v, released := t.ctx.released } ∧
      ∀ r l, l < 32 → t.ctx.lane r l =
        if r = f.vd.toNat ∧ takesPart s.ctx f.g l = true then (e[l]?).getD 0 else s.ctx.lane r l := by
  obtain ⟨t, ht, hframe, hctx, hlane⟩ := issue_marked (i := .qpop f) (inf := qpopInfo f) (u := qpopped s f e rest) h
    ⟨rfl, rfl, rfl, rfl, rfl⟩ (.inr hp) rfl (regsOk_qpop hreg) (qpopBody_pops hn he hclean) (by constructor <;> rfl)
  refine ⟨t, (exec_qpop s f).trans ht, hframe, ?_, fun r l hl => ?_⟩
  · rw [hctx, ← hp, ← h.covered]
    rfl
  · rw [hlane r l hl, if_neg fun hm => List.not_mem_nil hm.1]
    refine (lane_setV s.ctx _ _ _ r l hl).trans ?_
    rw [laneOn_takePart _ _ hl]

/-- R223: the poison of a local store after an entry of a FIFO bank has been written whole. -/
theorem mget_clearEntry (p : List (Nat × Bool)) (bank n k : Nat) :
    mget false (clearEntry p bank n) k = if k / 4096 = bank ∧ k % 4096 / 16 = n then false else mget false p k := by
  rw [clearEntry, mdrop, mget_filter_key false (fun x => !(x / 4096 == bank && x % 4096 / 16 == n))]
  by_cases hk : k / 4096 = bank ∧ k % 4096 / 16 = n
  · simp [hk]
  · rw [if_neg hk, if_pos]
    simpa [imp_iff_not_or] using hk

end

/-- Settles O31: loads by `scratchLoad_retires`, stores by `scratchStore_retires`, and the FIFO banks. -/
theorem scratchAndFifo : Obligations.ScratchAndFifo := by
  refine ⟨fun s f b h _ hf => ?_, fun s b o n hl => scratchRead_settled hl o n, fun s f b h _ hf => ?_, ?_⟩
  · intro n off load
    refine ⟨fun hin => ?_, fun hb hin => ?_⟩
    · rw [exec_ldl]
      exact scratchLoad_retires h hf rfl hin
    · rw [exec_ldr]
      exact scratchLoad_retires h hf (congrArg (fun b => loadScratch f s.ctx b s) hb) hin
  · intro off store
    refine ⟨fun hin => ?_, fun hb hfind hin => ?_⟩
    · rw [exec_stl]
      exact scratchStore_retires h hf (findBlk_focus rfl) (.inl rfl) rfl hin
    · rw [exec_str]
      exact scratchStore_retires h hf hfind (.inr (spanTarget_phase hb))
        (congrArg (fun b => storeScratchLanes f s.ctx b s) hb) hin
  · intro s f h hp hreg bank howned hmode hfree
    have hn : FifoBank s f.n.toNat := ⟨howned, hmode, hfree⟩
    refine ⟨fun hroom => ?_, qpush_waits h hp hreg hn, qpop_waits h hp hreg hn, fun e rest he hclean => ?_⟩
    · obtain ⟨t, ht, hframe, hctx, hlane⟩ := qpush_pushes h hp hreg hn hroom
      have hblk : t.blk = pushedTo s f := by rw [hframe]
      refine ⟨t, ht, ?_, fun k => ?_, hctx, hlane, fun k hk => ?_, ?_⟩
      · rw [hframe]
        rfl
      · rw [hblk]
        exact mget_clearEntry _ _ _ _
      · rw [hblk]
        exact mget_mset_ne _ _ _ hk
      · rw [hblk]
        exact mget_mset_self _ _ _ _
    · obtain ⟨t, ht, hframe, hctx, hlane⟩ := qpop_pops h hp hreg hn he hclean
      have hblk : t.blk = { s.blk with fifo := mset [] s.blk.fifo f.n.toNat rest } := by rw [hframe]
      refine ⟨t, ht, ?_, hctx, hlane, fun k hk => ?_, ?_⟩
      · rw [hframe]
      · rw [hblk]
        exact mget_mset_ne _ _ _ hk
      · rw [hblk]
        exact mget_mset_self _ _ _ _

end Sys2Proof.Machine
end

section
/-! SUPPORT. Accesses of lanes that reach local memory pass their checks (R153, R224). -/

namespace Sys2Proof.Machine

section

variable {s : State} {n : Nat} {ea : Nat → Addr} {at_ : Nat → Acc} {write : Bool} {ls : List Nat}

/-- An address with its lane. -/
def laneAddr (ea : Nat → Addr) (l : Nat) : Option (BitVec 5) × Addr := (some (BitVec.ofNat 5 l), ea l)

/-- R153: the access of a lane at an address, to what it reaches there. -/
def laneAcc (ea : Nat → Addr) (at_ : Nat → Acc) (l : Nat) : Acc :=
  ⟨some (BitVec.ofNat 5 l), ea l, (at_ l).pa, (at_ l).idx, (at_ l).leaf⟩

theorem untranslated_lanes (h : ∀ l ∈ ls, Reaches s (ea l) write n (at_ l)) :
    untranslated s s.blk.core s.blk.vf (ls.map (laneAddr ea)) = none := by
  induction ls with
  | nil => rfl
  | cons l t ih =>
    rw [List.forall_mem_cons] at h
    simp only [List.map_cons, untranslated, laneAddr, h.1.found]
    exact ih h.2

theorem unpermitted_lanes (h : ∀ l ∈ ls, Reaches s (ea l) write n (at_ l)) :
    unpermitted s s.blk.core s.blk.vf s.g.ctx.handler write false (ls.map (laneAddr ea)) = none := by
  induction ls with
  | nil => rfl
  | cons l t ih =>
    rw [List.forall_mem_cons] at h
    simp only [List.map_cons, unpermitted, laneAddr, h.1.found, h.1.allowed]
    exact ih h.2

theorem accesses_lanes (h : ∀ l ∈ ls, Reaches s (ea l) write n (at_ l)) :
    accesses s s.blk.core s.blk.vf (ls.map (laneAddr ea)) = ls.map (laneAcc ea at_) := by
  induction ls with
  | nil => rfl
  | cons l t ih =>
    rw [List.forall_mem_cons] at h
    simp only [List.map_cons, accesses, laneAddr, laneAcc, h.1.found, h.1.place]
    exact congrArg (_ :: ·) (ih h.2)

/-- R153: accesses of lanes that each reach local memory pass the checks. -/
theorem checkGlobal_lanes {kind : Nat} {m : Mask} (hk : (kind != kindRead) = write)
    (h : ∀ l ∈ lanesOf m, Reaches s (ea l) write n (at_ l)) :
    checkGlobal s kind n (laneAddrs m ea) = .ok ((lanesOf m).map (laneAcc ea at_)) := by
  show checkGlobal s kind n ((lanesOf m).map (laneAddr ea)) = _
  have haligned : misaligned n ((lanesOf m).map (laneAddr ea)) = none := by
    rw [misaligned, List.find?_eq_none]
    intro x hx
    obtain ⟨l, hl, rfl⟩ := List.mem_map.mp hx
    simp [laneAddr, (h l hl).aligned]
  simp only [checkGlobal, haligned, untranslated_lanes h, hk, unpermitted_lanes h, accesses_lanes h]

/-- R224: none of them reads poison. -/
theorem checkPoison_lanes (h : ∀ l ∈ ls, poisonedAt s (at_ l).idx n = false) :
    checkPoison s n (ls.map (laneAcc ea at_)) = .ok () := by
  have hnone : poisonedAcc s n (ls.map (laneAcc ea at_)) = none := by
    rw [poisonedAcc, List.find?_eq_none]
    intro a ha
    obtain ⟨l, hl, rfl⟩ := List.mem_map.mp ha
    simp [laneAcc, h l hl]
  rw [checkPoison, hnone]

/-- R137, R139: the bytes of a lane among the accesses of a mask. -/
theorem accBytes_lanes (acq : Bool) {m : Mask} {l : Nat} (hl : l ∈ lanesOf m) :
    accBytes s acq n ((lanesOf m).map (laneAcc ea at_)) l = loaded s acq (at_ l) n := by
  have hlt := ((mem_lanesOf m l).mp hl).1
  have hfind : (lanesOf m).find? (fun k => (laneAcc ea at_ k).lane == some (BitVec.ofNat 5 l)) = some l := by
    have heq : ∀ k ∈ lanesOf m, ((laneAcc ea at_ k).lane == some (BitVec.ofNat 5 l)) = (k == l) := by
      intro k hk
      have hklt := ((mem_lanesOf m k).mp hk).1
      have hinj : BitVec.ofNat 5 k = BitVec.ofNat 5 l ↔ k = l := by
        rw [← BitVec.toNat_inj, BitVec.toNat_ofNat, BitVec.toNat_ofNat, Nat.mod_eq_of_lt hklt, Nat.mod_eq_of_lt hlt]
      rw [Bool.eq_iff_iff]
      simp [laneAcc, hinj]
    have hsome : ((lanesOf m).find? fun k => k == l).isSome = true := by
      rw [List.find?_isSome]
      exact ⟨l, hl, beq_self_eq_true l⟩
    rw [List.find?_congr heq]
    obtain ⟨k, hk⟩ := Option.isSome_iff_exists.mp hsome
    have hkl : (k == l) = true := List.find?_some (p := fun k => k == l) hk
    rw [hk, beq_iff_eq.mp hkl]
  rw [accBytes, List.find?_map]
  simp only [Function.comp_def, hfind, Option.map_some]
  rfl

end

/-- R137, R205: what reads of the group in focus ask for; the group may be due to be swapped out for them. -/
theorem askSectors_frame (s : State) (acq : Bool) (l : List Acc) :
    let t := askSectors s acq l
    t = { s with
      g := { s.g with swapDue := t.g.swapDue }, cores := t.cores, dies := t.dies, msgs := t.msgs, chan := t.chan } := by
  have h := readFor_onlyCaches s s.blk.core s.blk.vf (ownerKey s.blk.uid s.g.slot) acq l
  unfold askSectors
  generalize readFor s s.blk.core s.blk.vf (ownerKey s.blk.uid s.g.slot) acq l = u at h ⊢
  dsimp only
  split
  · rw [h.g]
    exact h
  · rw [h]
    rfl

end Sys2Proof.Machine
end

section
/-! PROOFS. VLD and VLDS, VST and VSTS (R293, R343, R344). -/

namespace Sys2Proof.Machine

section

variable {s : State} {f : LmF} {ea : Nat → Addr} {at_ : Nat → Acc}

/-- R139: the bytes that a load reads are as many as it names. -/
theorem loaded_length (s : State) (acq : Bool) (a : Acc) (n : Nat) : (loaded s acq a n).length = n := by
  unfold loaded loadBytes
  split
  · simp
  · simp [pageBytes]

theorem writeLoaded_congr (m : Mask) {bs bs' : Nat → List Byte} (h : ∀ l ∈ lanesOf m, bs l = bs' l) (c : Ctx) :
    writeLoaded f m bs c = writeLoaded f m bs' c := by
  have hlanes : ∀ (v : List (Nat × Lane)) (r k : Nat) (ls : List Nat), (∀ l ∈ ls, bs l = bs' l) →
      setLanes v r (fun l => loadWord f (bs l) k) ls = setLanes v r (fun l => loadWord f (bs' l) k) ls := by
    intro v r k ls
    induction ls generalizing v with
    | nil => exact fun _ => rfl
    | cons x t ih =>
      intro hx
      rw [List.forall_mem_cons] at hx
      rw [setLanes, setLanes, hx.1, ih _ hx.2]
  have hset : ∀ (c : Ctx) (k : Nat), (c.setV (f.vd.toNat + k) m fun l => loadWord f (bs l) k) =
      c.setV (f.vd.toNat + k) m fun l => loadWord f (bs' l) k := fun c k => by
    unfold Ctx.setV
    rw [hlanes _ _ _ _ h]
  unfold writeLoaded
  simp only [hset]

/-- R344: the device with the lanes loaded, before the acquire of an ordered load. -/
def globalLoaded (s : State) (f : LmF) (ea : Nat → Addr) (at_ : Nat → Acc) : State :=
  modCtx (askSectors s f.ord ((lanesOf (s.ctx.takePart f.g)).map (laneAcc ea at_)))
    (writeLoaded f (s.ctx.takePart f.g) fun l => loaded s f.ord (at_ l) (sizeBytes f.size))

theorem globalLoaded_frame (s : State) (f : LmF) (ea : Nat → Addr) (at_ : Nat → Acc) :
    let u := globalLoaded s f ea at_
    u = { s with
      g := { s.g with
        ctx := writeLoaded f (s.ctx.takePart f.g) (fun l => loaded s f.ord (at_ l) (sizeBytes f.size)) s.ctx
        swapDue := u.g.swapDue }
      cores := u.cores, dies := u.dies, msgs := u.msgs, chan := u.chan } := by
  have hasked := askSectors_frame s f.ord ((lanesOf (s.ctx.takePart f.g)).map (laneAcc ea at_))
  unfold globalLoaded
  generalize askSectors s f.ord ((lanesOf (s.ctx.takePart f.g)).map (laneAcc ea at_)) = w at hasked ⊢
  rw [hasked]
  rfl

theorem loadGlobal_loads (h : Quiet s)
    (hreach : ∀ l < 32, takesPart s.ctx f.g l = true →
      Reaches s (ea l) false (sizeBytes f.size) (at_ l) ∧ poisonedAt s (at_ l).idx (sizeBytes f.size) = false) :
    loadGlobal f (s.ctx.takePart f.g) ea s =
      .ok (if f.ord then acquireAt (globalLoaded s f ea at_) f.scope else globalLoaded s f ea at_) := by
  have hlane {l : Nat} (hl : l ∈ lanesOf (s.ctx.takePart f.g)) :=
    hreach l (mem_lanesOf_takePart.mp hl).1 (mem_lanesOf_takePart.mp hl).2
  have hcheck := checkGlobal_lanes (kind := kindRead) rfl fun l hl => (hlane hl).1
  have hpoison := checkPoison_lanes (ea := ea) fun l hl => (hlane hl).2
  unfold loadGlobal
  rw [h.noWindow]
  dsimp only
  rw [hcheck]
  dsimp only
  rw [hpoison]
  dsimp only
  rw [show writeLoaded f (s.ctx.takePart f.g)
      (accBytes s f.ord (sizeBytes f.size) ((lanesOf (s.ctx.takePart f.g)).map (laneAcc ea at_))) =
      writeLoaded f (s.ctx.takePart f.g) fun l => loaded s f.ord (at_ l) (sizeBytes f.size) from
    funext fun c => writeLoaded_congr _ (fun l hl => accBytes_lanes f.ord hl) c]
  rfl

/-- R344: a load of lanes at some addresses, as its instruction issues it. -/
theorem globalLoad_retires {strided : Bool} (h : Quiet s) (hf : LmFits s f strided) {i : Instr}
    {body : Ctx → State → Except Halt State} (hbody : body s.ctx s = loadGlobal f (s.ctx.takePart f.g) ea s)
    (hreach : ∀ l < 32, takesPart s.ctx f.g l = true →
      Reaches s (ea l) false (sizeBytes f.size) (at_ l) ∧ poisonedAt s (at_ l).idx (sizeBytes f.size) = false) :
    ∃ t, issue i (lmLoadInfo f true strided) body s = .next t ∧ OnlyCtxAndCaches s t ∧
      LoadsLanes s f (fun l => loaded s f.ord (at_ l) (sizeBytes f.size)) t := by
  obtain ⟨u, hu, huframe⟩ : ∃ u, body s.ctx s = .ok u ∧ u = { globalLoaded s f ea at_ with cores := u.cores } := by
    refine ⟨_, hbody.trans (loadGlobal_loads h hreach), ?_⟩
    split
    · exact acquireAt_frame _ _
    · rfl
  rw [globalLoaded_frame] at huframe
  have hctx : u.ctx = writeLoaded f (s.ctx.takePart f.g) (fun l => loaded s f.ord (at_ l) (sizeBytes f.size)) s.ctx := by
    rw [huframe]
    rfl
  obtain ⟨t, ht, hframe, hloads⟩ := lmLoad_retires (i := i) (global := true) h hf hu
    (fun l _ _ => loaded_length s _ _ _) hctx (by rw [huframe])
  refine ⟨t, ht, ?_, hloads⟩
  rw [huframe] at hframe
  rw [hframe]
  rfl

theorem storeGlobal_stores {m : Mask}
    (hreach : ∀ l ∈ lanesOf m, Reaches s (ea l) true (sizeBytes f.size) (at_ l)) :
    storeGlobal f s.ctx m ea s = .ok (storeGroup s ((lanesOf m).map (laneAcc ea at_))
      (storeAccs f s.ctx ((lanesOf m).map (laneAcc ea at_)))) := by
  rw [storeGlobal, checkGlobal_lanes (by decide) hreach]

/-- R344: the cells of a store by its accesses are those of its lanes. -/
theorem storeAccs_lanes (s : State) (f : LmF) (ea : Nat → Addr) (at_ : Nat → Acc) :
    storeAccs f s.ctx ((lanesOf (s.ctx.takePart f.g)).map (laneAcc ea at_)) = laneCells s f fun l => (at_ l).idx := by
  rw [storeAccs, laneCells, List.flatMap_map]
  refine List.flatMap_congr fun l hl => ?_
  have hlane : ((laneAcc ea at_ l).lane.getD 0).toNat = l := by
    show (BitVec.ofNat 5 l).toNat = l
    rw [BitVec.toNat_ofNat, Nat.mod_eq_of_lt ((mem_lanesOf _ l).mp hl).1]
  rw [hlane]
  rfl

/-- R344: a store of lanes at some addresses, as its instruction issues it. -/
theorem globalStore_retires {strided : Bool} (h : Quiet s) (hf : LmFits s f strided) {i : Instr}
    {body : Ctx → State → Except Halt State} (hbody : body s.ctx s = storeGlobal f s.ctx (s.ctx.takePart f.g) ea s)
    (hreach : ∀ l < 32, takesPart s.ctx f.g l = true → Reaches s (ea l) true (sizeBytes f.size) (at_ l)) :
    ∃ t, issue i (lmStoreInfo f true strided true) body s = .next t ∧ OnlyStored s t ∧ StoresLanes s f t ∧
      MemoryBut s t (laneStorePlaces s f fun l => (at_ l).idx) ∧
      lanesStored s f (fun l => (at_ l).idx) (mget memDefault t.mem) := by
  have hlanes : ∀ l ∈ lanesOf (s.ctx.takePart f.g), Reaches s (ea l) true (sizeBytes f.size) (at_ l) := fun l hl =>
    hreach l (mem_lanesOf_takePart.mp hl).1 (mem_lanesOf_takePart.mp hl).2
  have hu := hbody.trans (storeGlobal_stores hlanes)
  rw [storeAccs_lanes] at hu
  obtain ⟨hstored, tags, htags, hmem, hkey⟩ := storeGroup_stores s ((lanesOf (s.ctx.takePart f.g)).map (laneAcc ea at_))
    (laneCells s f fun l => (at_ l).idx)
  generalize storeGroup s _ _ = u at hu hstored hmem hkey
  have hug : u.g = { s.g with swapDue := u.g.swapDue } := by
    rw [hstored]
  obtain ⟨t, ht, hframe, hstores⟩ := lmStore_retires (i := i) (global := true) (lands := true) h hf hu hug
  have htmem : t.mem = u.mem := by rw [hframe]
  have htkey : t.memKey = u.memKey := by rw [hframe]
  refine ⟨t, ht, ?_, hstores, memoryBut_cells (tags := tags) ?_ (fun c hc => mem_laneCells hf.1 hc) (htmem.trans hmem)
    (htkey.trans hkey), ?_⟩
  · rw [hug, hstored] at hframe
    rw [hframe]
    rfl
  · intro x hx
    have hsector : x.1 ∈ ((lanesOf (s.ctx.takePart f.g)).map (laneAcc ea at_)).map fun a => a.idx / 128 :=
      htags ▸ List.mem_map_of_mem hx
    obtain ⟨a, ha, hax⟩ := List.mem_map.mp hsector
    obtain ⟨l, hl, rfl⟩ := List.mem_map.mp ha
    obtain ⟨hlt, hpart⟩ := mem_lanesOf_takePart.mp hl
    refine ⟨(at_ l).idx, List.mem_flatMap.mpr ⟨l, List.mem_filter.mpr ⟨List.mem_range.mpr hlt, hpart⟩, ?_⟩, hax⟩
    exact List.mem_map.mpr ⟨0, List.mem_range.mpr (Nat.two_pow_pos _), rfl⟩
  · rw [htmem, hmem]
    exact writeCells_lanesStored hf.1 _ _

/-- R139, R249: what a load that no L1 serves reads. -/
theorem loadsMemory (s : State) (acq : Bool) (a : Acc) (n : Nat) : LoadsMemory s acq a n := by
  refine ⟨fun hno => ?_, fun hkey => List.map_congr_left fun k hk => ?_⟩
  · have hserves : l1Serves s s.blk.core acq a = none := by
      rw [l1Serves]
      rcases hno with h | h | h
      · simp [h]
      · simp [h]
      · rw [h, ite_self]
    rw [loaded, loadBytes, hserves]
  · exact if_pos (hkey k (List.mem_range.mp hk))

theorem exec_vld (s : State) (f : LmF) : exec (.vld f) s =
    issue (.vld f) (lmLoadInfo f true false) (fun rc s => loadGlobal f (rc.takePart f.g) (vldEA f rc) s) s := rfl

theorem exec_vlds (s : State) (f : LmF) : exec (.vlds f) s =
    issue (.vlds f) (lmLoadInfo f true true) (fun rc s => loadGlobal f (rc.takePart f.g) (vldsEA f rc) s) s := rfl

theorem exec_vst (s : State) (f : LmF) : exec (.vst f) s =
    issue (.vst f) (lmStoreInfo f true false true) (fun rc s => storeGlobal f rc (rc.takePart f.g) (vldEA f rc) s) s := rfl

theorem exec_vsts (s : State) (f : LmF) : exec (.vsts f) s =
    issue (.vsts f) (lmStoreInfo f true true true) (fun rc s => storeGlobal f rc (rc.takePart f.g) (vldsEA f rc) s) s := rfl

end

/-- Settles O30: loads by `globalLoad_retires`, stores by `globalStore_retires`, at the addresses of either form. -/
theorem vectorMemory : Obligations.VectorMemory := by
  refine ⟨fun s f at_ h _ => ?_, fun s f at_ h _ => ?_⟩
  · intro n load
    refine ⟨fun hf hreach => ⟨fun l => loadsMemory s f.ord (at_ l) n, ?_⟩,
      fun hf hreach => ⟨fun l => loadsMemory s f.ord (at_ l) n, ?_⟩⟩
    · rw [exec_vld]
      exact globalLoad_retires h hf rfl hreach
    · rw [exec_vlds]
      exact globalLoad_retires h hf rfl hreach
  · intro place store
    refine ⟨fun hf hreach => ?_, fun hf hreach => ?_⟩
    · rw [exec_vst]
      exact globalStore_retires h hf rfl hreach
    · rw [exec_vsts]
      exact globalStore_retires h hf rfl hreach

end Sys2Proof.Machine
end

section
/-! SUPPORT. The size of what a rounding gives (R95, R101): of a significand, and of a pattern of FP32. -/

namespace Sys2Proof.Machine

theorem ite_lt_of {c : Prop} [Decidable c] {a b k : Nat} (ha : c → a < k) (hb : ¬ c → b < k) : (if c then a else b) < k := by
  split
  next h => exact ha h
  next h => exact hb h

section

variable {m p : Nat} {e q : Int}

theorem lt_two_pow_log2_succ (m : Nat) : m < 2 ^ (Nat.log2 m + 1) := Nat.lt_log2_self

/-- R101: a value below 2^p quanta rounds to at most as many. -/
theorem roundQ_le (rm : RMode) (neg : Bool) (h : flog2 m e < q + p) : roundQ rm neg m e q ≤ 2 ^ p := by
  have hm := lt_two_pow_log2_succ m
  unfold flog2 at h
  unfold roundQ
  split
  next hqe =>
    calc m * 2 ^ (e - q).toNat ≤ 2 ^ (Nat.log2 m + 1) * 2 ^ (e - q).toNat := Nat.mul_le_mul_right _ hm.le
      _ = 2 ^ (Nat.log2 m + 1 + (e - q).toNat) := (pow_add _ _ _).symm
      _ ≤ 2 ^ p := Nat.pow_le_pow_right (by decide) (by omega)
  next hqe =>
    have hlt : m / 2 ^ (q - e).toNat < 2 ^ p := by
      rw [Nat.div_lt_iff_lt_mul (Nat.two_pow_pos _), ← pow_add]
      exact hm.trans_le (Nat.pow_le_pow_right (by decide) (by omega))
    have hbit := Nat.mod_lt (m / 2 ^ (q - e).toNat) (show 0 < 2 by decide)
    dsimp only
    cases rm with
    | rtz => dsimp only; omega
    | _ => dsimp only; split_ifs <;> omega

/-- R101: a value of 2^k quanta or more rounds to no fewer. -/
theorem le_roundQ (rm : RMode) (neg : Bool) {k : Nat} (hm : m ≠ 0) (h : q + k ≤ flog2 m e) : 2 ^ k ≤ roundQ rm neg m e q := by
  have hlog := Nat.log2_self_le hm
  unfold flog2 at h
  unfold roundQ
  split
  next hqe =>
    calc 2 ^ k ≤ 2 ^ (Nat.log2 m + (e - q).toNat) := Nat.pow_le_pow_right (by decide) (by omega)
      _ = 2 ^ Nat.log2 m * 2 ^ (e - q).toNat := pow_add _ _ _
      _ ≤ m * 2 ^ (e - q).toNat := Nat.mul_le_mul_right _ hlog
  next hqe =>
    have hle : 2 ^ k ≤ m / 2 ^ (q - e).toNat := by
      rw [Nat.le_div_iff_mul_le (Nat.two_pow_pos _), ← pow_add]
      exact (Nat.pow_le_pow_right (by decide) (by omega)).trans hlog
    dsimp only
    cases rm with
    | rtz => dsimp only; omega
    | _ => dsimp only; split_ifs <;> omega

end

/-- R95: the encoding of a value of FP32 that is not too large is one of 31 bits under its sign. -/
theorem encodeQ_fp32_lt {n : Nat} {q : Int} (neg : Bool) (hq : -149 ≤ q) (hn : n ≤ 2 ^ 24)
    (hsmall : if 104 ≤ q then n * 2 ^ (q - 104).toNat ≤ 16777215 else n ≤ 16777215 * 2 ^ (104 - q).toNat)
    (hnorm : -149 < q → 2 ^ 23 ≤ n) : encodeQ fp32 neg n q < 2 ^ 32 := by
  have hexp : (q + ((24 : Nat) : Int) - 2 + 127).toNat ≤ 253 := by
    by_contra hbig
    rw [if_pos (by omega)] at hsmall
    have htwo : 2 ^ 1 ≤ 2 ^ (q - 104).toNat := Nat.pow_le_pow_right (by decide) (by omega)
    have hmul := Nat.mul_le_mul (hnorm (by omega)) htwo
    omega
  have hn' : (q + ((24 : Nat) : Int) - 2 + 127).toNat = 253 → n ≤ 16777215 := by
    intro h253
    rw [if_pos (by omega), show (q - 104).toNat = 0 by omega] at hsmall
    omega
  have hsign : fp32.signBits neg ≤ 2 ^ 31 := by cases neg <;> decide
  unfold encodeQ
  rw [show fp32.p = 24 from rfl, show fp32.bias = 127 from rfl]
  generalize (q + ((24 : Nat) : Int) - 2 + 127).toNat = x at hexp hn'
  omega

/-- R95: the largest finite value of FP32. -/
theorem decodeF_fp32_max : decodeF fp32 false fp32.maxBits = .fin false 16777215 104 := by decide

/-- R101: a rounding to FP32 gives a pattern of 32 bits. -/
theorem roundF_fp32_lt (rm : RMode) (ftz sat : Bool) (x : FVal) : roundF fp32 rm ftz sat x < 2 ^ 32 := by
  have hmax (neg : Bool) : maxF fp32 neg < 2 ^ 32 := by cases neg <;> decide
  have hinf (neg : Bool) : infF fp32 neg < 2 ^ 32 := by cases neg <;> decide
  have hzero (neg : Bool) : zeroF fp32 neg < 2 ^ 32 := by cases neg <;> decide
  cases x with
  | nan => show (0x7FC00000 : Nat) < _; decide
  | inf neg =>
    unfold roundF
    dsimp only
    split
    · exact hmax neg
    · exact hinf neg
  | fin neg m e =>
    unfold roundF
    dsimp only
    rw [decodeF_fp32_max, show fp32.p = 24 from rfl, show fp32.emin = -126 from rfl]
    split
    · exact hzero neg
    next hm =>
      set q : Int := max (flog2 m e) (-126) - ((24 : Nat) : Int) + 1 with hq
      have hle : roundQ rm neg m e q ≤ 2 ^ 24 := roundQ_le rm neg (by omega)
      have hge : -149 < q → 2 ^ 23 ≤ roundQ rm neg m e q := fun h => le_roundQ rm neg hm (by omega)
      generalize roundQ rm neg m e q = n at hle hge
      refine ite_lt_of (fun _ => ite_lt_of (fun _ => hmax neg) fun _ => ite_lt_of (fun _ => hinf neg) fun _ => hmax neg)
        fun hbig => ite_lt_of (fun _ => hzero neg) fun _ => ite_lt_of (fun _ => hzero neg) fun _ => ?_
      refine encodeQ_fp32_lt neg (by omega) hle ?_ hge
      dsimp only at hbig
      split
      next h104 => simpa [h104] using hbig
      next h104 => simpa [h104] using hbig

end Sys2Proof.Machine
end

section
/-! SUPPORT. Elements that atomics write (R249, R291): their size, how they are read, and what stands of memory. -/

namespace Sys2Proof.Machine

/-- R261: the new value of an element is one of its size. -/
theorem atomNew_lt {aop w o b : Nat} (c : Nat) (hw : 32 ≤ w) (ho : o < 2 ^ w) (hb : b < 2 ^ w) : atomNew aop w o b c < 2 ^ w := by
  have hpow : 2 ^ 32 ≤ 2 ^ w := Nat.pow_le_pow_right (by decide) hw
  unfold atomNew
  refine ite_lt_of (fun _ => Nat.mod_lt _ (Nat.two_pow_pos _)) fun _ => ite_lt_of (fun _ => (roundF_fp32_lt ..).trans_le hpow)
    fun _ => ite_lt_of (fun _ => ite_lt_of (fun _ => ho) fun _ => hb) fun _ => ite_lt_of (fun _ => ite_lt_of (fun _ => hb)
    fun _ => ho) fun _ => ite_lt_of (fun _ => (Nat.min_le_left _ _).trans_lt ho) fun _ => ite_lt_of (fun _ => max_lt ho hb)
    fun _ => ite_lt_of (fun _ => ?_) fun _ => ite_lt_of (fun _ => ?_) fun _ => ite_lt_of (fun _ => ?_)
    fun _ => ite_lt_of (fun _ => hb) fun _ => ite_lt_of (fun _ => hb) fun _ => ho
  · exact (Nat.and_le_left (m := b)).trans_lt ho
  · exact Nat.or_lt_two_pow ho hb
  · exact Nat.xor_lt_two_pow ho hb

theorem atomBytes_pos (w64 : Bool) : 0 < atomBytes w64 := by cases w64 <;> decide

theorem atomBytes_bits (w64 : Bool) : 32 ≤ 8 * atomBytes w64 := by cases w64 <;> decide

/-- R291: the bytes of a new value give it back. -/
theorem leNat_leBytes_atomNew {n o b : Nat} (aop c : Nat) (hn : 32 ≤ 8 * n) (ho : o < 2 ^ (8 * n)) (hb : b < 2 ^ (8 * n)) :
    leNat (leBytes n (atomNew aop (8 * n) o b c)) = atomNew aop (8 * n) o b c := by
  rw [leNat_leBytes, pow_256_eq, Nat.mod_eq_of_lt (atomNew_lt c hn ho hb)]

theorem leNat_pageBytes_lt (s : State) (leaf i n : Nat) : leNat (pageBytes s leaf i n) < 2 ^ (8 * n) := by
  have h := leNat_lt (pageBytes s leaf i n)
  rwa [show (pageBytes s leaf i n).length = n by simp [pageBytes], pow_256_eq] at h

/-- R249: two states show every page the same bytes: they agree on memory and on the keys that it stands under, on the placements
and on what the L2s hold. -/
structure SameViews (s t : State) : Prop where
  mem : t.mem = s.mem
  memKey : t.memKey = s.memKey
  place : t.place = s.place
  keyGen : t.keyGen = s.keyGen
  l2 : ∀ k, (getDie t k).l2 = (getDie s k).l2

namespace SameViews

variable {s t u : State}

theorem refl (s : State) : SameViews s s := ⟨rfl, rfl, rfl, rfl, fun _ => rfl⟩

theorem trans (a : SameViews s t) (b : SameViews t u) : SameViews s u :=
  ⟨b.mem.trans a.mem, b.memKey.trans a.memKey, b.place.trans a.place, b.keyGen.trans a.keyGen,
    fun k => (b.l2 k).trans (a.l2 k)⟩

theorem foldl {α : Type} (s : State) (l : List α) {f : State → α → State} (h : ∀ t x, SameViews t (f t x)) :
    SameViews s (l.foldl f s) :=
  List.foldlRecOn l f (motive := SameViews s) (refl s) fun t ht x _ => ht.trans (h t x)

theorem viewTag_eq (h : SameViews s t) (leaf i : Nat) : viewTag t leaf i = viewTag s leaf i := by
  have hkey : keyTag t leaf i = keyTag s leaf i := by
    unfold keyTag
    rw [h.place, h.keyGen]
  have hheld : heldTag t (i / 128) = heldTag s (i / 128) := by
    have hl2 : ∀ d, ((cohOf t).die d).l2 = ((cohOf s).die d).l2 := h.l2
    unfold heldTag Coh.heldTag
    simp only [hl2]
  rw [viewTag, viewTag, hkey, hheld]

theorem pageBytes_eq (h : SameViews s t) (leaf i n : Nat) : pageBytes t leaf i n = pageBytes s leaf i n := by
  refine List.map_congr_left fun k _ => ?_
  unfold pageByte byteUnder
  rw [h.viewTag_eq, h.mem, h.memKey]

end SameViews

theorem askWalk_sameViews (s : State) (core vf : Nat) (va : Addr) : SameViews s (askWalk s core vf va) := by
  unfold askWalk
  dsimp only
  split
  · exact .refl s
  · refine ⟨rfl, rfl, rfl, rfl, fun k => ?_⟩
    rw [getDie_modDie]
    split
    next h => rw [h]
    · rfl

theorem queueMisses_sameViews (s : State) (core owner : Nat) (l : List Acc) : SameViews s (queueMisses s core owner l) := by
  refine .foldl s l fun t a => ?_
  split
  · exact ⟨rfl, rfl, rfl, rfl, fun _ => rfl⟩
  · exact .refl t

/-- R137, R147: what an atomic of the group in focus at its die's L2 asks for changes nothing that a page shows. -/
theorem atomAsks_sameViews (s : State) (l : List Acc) : SameViews s (atomAsks s false l) := by
  have hwalks : SameViews s (askWalks s s.blk.core s.blk.vf l) := .foldl s l fun t a => askWalk_sameViews t _ _ _
  have hswap (u : State) : SameViews u (swapOnMiss u l) := by
    unfold swapOnMiss
    split
    · exact ⟨rfl, rfl, rfl, rfl, fun _ => rfl⟩
    · exact .refl u
  have hqueue (u : State) : SameViews u (queueWrites u l) := by
    unfold queueWrites
    dsimp only
    split
    · exact (queueMisses_sameViews u _ _ l).trans ⟨rfl, rfl, rfl, rfl, fun _ => rfl⟩
    · exact queueMisses_sameViews u _ _ l
  exact (hwalks.trans (hswap _)).trans (hqueue _)

theorem swapOnMiss_frame (s : State) (l : List Acc) : swapOnMiss s l = { s with g := { s.g with swapDue := (swapOnMiss s l).g.swapDue } } := by
  unfold swapOnMiss
  split <;> rfl

theorem atomAsks_frame (s : State) (l : List Acc) :
    let u := atomAsks s false l
    u = { s with
      g := { s.g with swapDue := u.g.swapDue }, cores := u.cores, dies := u.dies, msgs := u.msgs, chan := u.chan } := by
  have hwalks := askWalks_onlyCaches s s.blk.core s.blk.vf l
  have hswap := swapOnMiss_frame (askWalks s s.blk.core s.blk.vf l) l
  have hqueue := queueWrites_frame (swapOnMiss (askWalks s s.blk.core s.blk.vf l) l) l
  dsimp only
  rw [atomAsks, if_neg Bool.false_ne_true]
  generalize swapOnMiss (askWalks s s.blk.core s.blk.vf l) l = v at *
  rw [hqueue, hswap, hwalks]

/-- R153: one access of the group as a whole that reaches local memory passes the checks. -/
theorem scalarAcc_reaches {s : State} {kind n : Nat} {ea : Addr} {a : Acc} {write : Bool} (hk : (kind != kindRead) = write)
    (h : Reaches s ea write n a) : scalarAcc s kind n ea = .ok ⟨none, ea, a.pa, a.idx, a.leaf⟩ := by
  have haligned : misaligned n [((none : Option (BitVec 5)), ea)] = none := by
    simp [misaligned, h.aligned]
  simp only [scalarAcc, checkGlobal, haligned, untranslated, unpermitted, accesses, h.found, hk, h.allowed, h.place]

/-- R249: bytes written into one sector that has come under a key stand there, and no others change but for the key. -/
theorem memoryButAt_write {s w t : State} (hwm : w.mem = s.mem) (hwk : w.memKey = s.memKey) {i v : Nat} {bs : List Byte}
    (hm : t.mem = writeCells (reseal w (i / 128) v).mem (cellsAt i bs))
    (hk : ∀ j, mget 0 t.memKey j = mget 0 (reseal w (i / 128) v).memKey j) : MemoryButAt s t i bs.length := by
  have hsame := resealAll_eq hwm hwk [(i / 128, v)]
  have hmem : (reseal w (i / 128) v).mem = (reseal s (i / 128) v).mem := by
    show (resealAll w [(i / 128, v)]).mem = _
    rw [hsame]
    rfl
  have hkey : (reseal w (i / 128) v).memKey = (reseal s (i / 128) v).memKey := by
    show (resealAll w [(i / 128, v)]).memKey = _
    rw [hsame]
    rfl
  refine ⟨v, fun a ha => ⟨?_, ?_⟩⟩
  · rw [hm, hmem]
    exact mget_writeCells_ne _ _ _ fun c hc he => ha (he ▸ mem_cellsAt hc)
  · rw [hk, hkey]

end Sys2Proof.Machine
end

section
/-! PROOFS. SATOM (R290, R291). -/

namespace Sys2Proof.Machine

section

variable {s : State} {f : LaF} {a : Acc}

/-- What issue needs of a SATOM. -/
def satomInfo (f : LaF) : Info where
  size := 8
  reads := [(.address, f.n.toNat), (.scalar, f.va.toNat), (.scalar, f.vb.toNat)] ++
    (if f.aop.toNat = aopCas then [(.scalar, f.vc.toNat)] else [])
  writes := [(.scalar, f.vd.toNat)]
  closes := true

theorem exec_satom (s : State) (f : LaF) : exec (.satom f) s = issue (.satom f) (satomInfo f) (satomBody f) s := rfl

theorem regsOk_satom : regsOk s (satomInfo f) = true := by
  unfold regsOk satomInfo
  split <;> simp [vecRegs]

theorem satomOperand_eq (c : Ctx) (r : BitVec 8) (w64 : Bool) :
    satomOperand c r w64 = (c.readS r.toNat).toNat % 2 ^ (8 * atomBytes w64) := by
  cases w64
  · rfl
  · exact (Nat.mod_eq_of_lt (c.readS r.toNat).isLt).symm

/-- R169, R170: of the acquire of an atomic nothing but cores changes. -/
theorem atomAcquire_frame (order : BitVec 2) (scope : BitVec 3) (s : State) :
    atomAcquire order scope s = { s with cores := (atomAcquire order scope s).cores } := by
  unfold atomAcquire
  split
  · exact acquireAt_frame _ _
  · rfl

/-- R291: the new value that a SATOM gives its element. -/
def satomNew (s : State) (f : LaF) (a : Acc) : Nat :=
  atomNew f.aop.toNat (8 * atomBytes f.w64) (elementOf s a (atomBytes f.w64))
    ((s.ctx.readS f.vb.toNat).toNat % 2 ^ (8 * atomBytes f.w64)) ((s.ctx.readS f.vc.toNat).toNat % 2 ^ (8 * atomBytes f.w64))

/-- R291: the device after a SATOM whose access passes its checks: its sector is held under a key, its element and its old value
stand. -/
theorem satomBody_acts (hreach : Reaches s (s.ctx.readA f.n.toNat + sextAddr (s.ctx.readS f.va.toNat)) true (atomBytes f.w64) a)
    (hclean : poisonedAt s a.idx (atomBytes f.w64) = false) :
    ∃ w v u, satomBody f s.ctx s = .ok u ∧
      w = { s with
        g := { s.g with swapDue := w.g.swapDue }, cores := w.cores, dies := w.dies, msgs := w.msgs, chan := w.chan } ∧
      u = { storeCells (reseal w (a.idx / 128) v) s.blk.core (cellsAt a.idx (leBytes (atomBytes f.w64) (satomNew s f a))) with
        g := { w.g with ctx := s.ctx.writeS f.vd.toNat (BitVec.ofNat 64 (elementOf s a (atomBytes f.w64))) }
        cores := u.cores } := by
  set n := atomBytes f.w64 with hn
  set ea := s.ctx.readA f.n.toNat + sextAddr (s.ctx.readS f.va.toNat) with hea
  set x : Acc := ⟨none, ea, a.pa, a.idx, a.leaf⟩ with hx
  have hacc : scalarAcc s kindAtomic n ea = .ok x := scalarAcc_reaches (by decide) hreach
  have hpoison : checkPoison s n [x] = .ok () := by
    have hnone : poisonedAcc s n [x] = none := by simp [poisonedAcc, hx, hclean]
    rw [checkPoison, hnone]
  have hframe := atomAsks_frame s [x]
  have hviews := (atomAsks_sameViews s [x]).pageBytes_eq a.leaf a.idx n
  have hbody : satomBody f s.ctx s = .ok (atomAcquire f.order f.scope (modCtx (atomMem (atomAsks s false [x]) s.blk.core f.aop.toNat n
      false x (satomOperand s.ctx f.vb f.w64) (satomOperand s.ctx f.vc f.w64)).1 fun c => c.writeS f.vd.toNat (BitVec.ofNat 64
      (atomMem (atomAsks s false [x]) s.blk.core f.aop.toNat n false x (satomOperand s.ctx f.vb f.w64)
        (satomOperand s.ctx f.vc f.w64)).2))) := by
    unfold satomBody
    dsimp only
    rw [← hn, ← hea, hacc]
    dsimp only
    rw [hpoison]
  obtain ⟨w, v, hw, hseal⟩ := ownAccs_one (OnlyCaches.refl (atomAsks s false [x])) s.blk.core x
  have hmem : atomMem (atomAsks s false [x]) s.blk.core f.aop.toNat n false x (satomOperand s.ctx f.vb f.w64)
      (satomOperand s.ctx f.vc f.w64) =
      (storeCells (reseal w (a.idx / 128) v) s.blk.core (cellsAt a.idx (leBytes n (satomNew s f a))), elementOf s a n) := by
    show (storeCells (ownAccs (atomAsks s false [x]) s.blk.core [x]) s.blk.core (cellsAt a.idx (leBytes n (atomNew f.aop.toNat (8 * n)
      (leNat (pageBytes (atomAsks s false [x]) a.leaf a.idx n)) _ _))), leNat (pageBytes (atomAsks s false [x]) a.leaf a.idx n)) = _
    rw [hviews, hseal, satomOperand_eq, satomOperand_eq]
    rfl
  rw [hmem] at hbody
  have hwframe : w = { s with
      g := { s.g with swapDue := w.g.swapDue }, cores := w.cores, dies := w.dies, msgs := w.msgs, chan := w.chan } := by
    rw [hw, hframe]
  refine ⟨w, v, _, hbody, hwframe, ?_⟩
  rw [atomAcquire_frame]
  have hctx : w.g.ctx = s.ctx := by
    rw [hwframe]
    rfl
  dsimp only
  rw [← hctx]
  rfl

/-- R290, R291: SATOM acts once for the group. -/
theorem satom_acts (h : Quiet s) (hp : s.ctx.prefixes = [])
    (hreach : Reaches s (s.ctx.readA f.n.toNat + sextAddr (s.ctx.readS f.va.toNat)) true (atomBytes f.w64) a)
    (hclean : poisonedAt s a.idx (atomBytes f.w64) = false) :
    ∃ t, exec (.satom f) s = .next t ∧ OnlyStored s t ∧
      t.ctx = { s.ctx.writeS f.vd.toNat (BitVec.ofNat 64 (elementOf s a (atomBytes f.w64))) with pc := s.ctx.pc + 8 } ∧
      elementAt t.mem a.idx (atomBytes f.w64) = satomNew s f a ∧ MemoryButAt s t a.idx (atomBytes f.w64) := by
  obtain ⟨w, v, u, hbody, hw, hu⟩ := satomBody_acts hreach hclean
  have hctx : u.ctx = s.ctx.writeS f.vd.toNat (BitVec.ofNat 64 (elementOf s a (atomBytes f.w64))) := by
    rw [hu]
    rfl
  have hg : u.g = { s.g with ctx := u.g.ctx, swapDue := u.g.swapDue } := by
    rw [hu]
    dsimp only
    rw [hw]
  have hkept : u.ctx.pc = s.ctx.pc ∧ u.ctx.pend = s.ctx.pend ∧ u.ctx.prefixes = s.ctx.prefixes := by
    rw [hctx, Ctx.writeS]
    split <;> exact ⟨rfl, rfl, rfl⟩
  obtain ⟨hpc, hpend, hprefixes⟩ := hkept
  obtain ⟨t, ht, htctx, hframe⟩ := issue_long (i := .satom f) (inf := satomInfo f) h hp ⟨rfl, rfl, rfl, rfl, rfl, rfl⟩ rfl
    regsOk_satom hbody ⟨by rw [hg], hpc, hpend, hprefixes⟩
  have hmem : t.mem = writeCells (reseal w (a.idx / 128) v).mem (cellsAt a.idx (leBytes (atomBytes f.w64) (satomNew s f a))) := by
    rw [hframe, hu]
    rfl
  have hstand := bytesAt_writeCells (reseal w (a.idx / 128) v).mem a.idx (leBytes (atomBytes f.w64) (satomNew s f a))
  have hbut := memoryButAt_write (s := s) (w := w) (by rw [hw]) (by rw [hw]) hmem fun j => by rw [hframe, hu]; rfl
  rw [leBytes_length] at hstand hbut
  refine ⟨t, (exec_satom s f).trans ht, ?_, htctx.trans (by rw [hctx]), ?_, hbut⟩
  · rw [hg, hu, hw] at hframe
    rw [hframe]
    rfl
  · rw [elementAt, hmem, hstand]
    exact leNat_leBytes_atomNew _ _ (atomBytes_bits _) (leNat_pageBytes_lt _ _ _ _) (Nat.mod_lt _ (Nat.two_pow_pos _))

end

end Sys2Proof.Machine
end

section
/-! PROOFS. LATOM (R290 to R292), where no two lanes meet. -/

namespace Sys2Proof.Machine

/-- R290: an operand of a lane is one of the element's size. -/
theorem atomOperand_lt (c : Ctx) (r : BitVec 8) (w64 : Bool) (l : Nat) : atomOperand c r w64 l < 2 ^ (8 * atomBytes w64) := by
  have hlo := (c.lane r.toNat l).isLt
  have hhi := (c.lane (r.toNat + 1) l).isLt
  cases w64
  · simpa [atomOperand, atomBytes] using hlo
  · simp only [atomOperand, atomBytes, if_true]
    omega

theorem scratchBytes_length (b : Block) (off n : Nat) : (scratchBytes b off n).length = n := by
  simp [scratchBytes]

/-- Scratch bytes that stand apart from those written stay. -/
theorem scratchBytes_congr {b b' : Block} {off n : Nat} (h : ∀ k < n, mget 0 b'.scratch (off + k) = mget 0 b.scratch (off + k)) :
    scratchBytes b' off n = scratchBytes b off n := List.map_congr_left fun k hk => h k (List.mem_range.mp hk)

section

variable {aop n : Nat} {b c off : Nat → Nat}

/-- R291: the new value that a lane gives its element of a block's scratch. -/
def scratchNew (aop n : Nat) (b c off : Nat → Nat) (x : Block) (l : Nat) : Nat :=
  atomNew aop (8 * n) (leNat (scratchBytes x (off l) n)) (b l) (c l)

/-- The block with one lane's element written. -/
def scratchStep (aop n : Nat) (b c off : Nat → Nat) (x : Block) (l : Nat) : Block :=
  scratchPut (cellsAt (off l) (leBytes n (scratchNew aop n b c off x l))) x

theorem atomScratch_cons (l : Nat) (ls : List Nat) (x : Block) :
    atomScratch aop n b c ((l :: ls).map fun l => (l, off l)) x =
      let rest := atomScratch aop n b c (ls.map fun l => (l, off l)) (scratchStep aop n b c off x l)
      (rest.1, (l, leNat (scratchBytes x (off l) n)) :: rest.2) := rfl

theorem scratchStep_apart (x : Block) (l : Nat) {a : Nat} (h : a < off l ∨ off l + n ≤ a) :
    mget 0 (scratchStep aop n b c off x l).scratch a = mget 0 x.scratch a := by
  show mget 0 (scratchCells _ _) a = _
  rw [scratchCells_eq_writeCells]
  exact mget_cellsAt_ne _ _ _ _ (by rw [leBytes_length]; exact h)

theorem scratchStep_own (x : Block) (l : Nat) :
    scratchBytes (scratchStep aop n b c off x l) (off l) n = leBytes n (scratchNew aop n b c off x l) := by
  have h := bytesAt_writeCells x.scratch (off l) (leBytes n (scratchNew aop n b c off x l))
  rw [leBytes_length, ← scratchCells_eq_writeCells] at h
  exact h

/-- R291: the lanes' operations on scratch, where no two of their elements meet: each reads what stood there and writes its new
value, and nothing else of the block changes. -/
theorem atomScratch_apart {ls : List Nat} (hnodup : ls.Nodup)
    (hapart : ∀ l ∈ ls, ∀ k ∈ ls, l ≠ k → off l + n ≤ off k ∨ off k + n ≤ off l) (x : Block) :
    let r := atomScratch aop n b c (ls.map fun l => (l, off l)) x
    r.1 = { x with scratch := r.1.scratch, scratchPoison := r.1.scratchPoison } ∧
    r.2 = ls.map (fun l => (l, leNat (scratchBytes x (off l) n))) ∧
    (∀ l ∈ ls, scratchBytes r.1 (off l) n = leBytes n (scratchNew aop n b c off x l)) ∧
    ∀ a, (∀ l ∈ ls, a < off l ∨ off l + n ≤ a) → mget 0 r.1.scratch a = mget 0 x.scratch a := by
  induction ls generalizing x with
  | nil => exact ⟨rfl, rfl, fun l hl => absurd hl List.not_mem_nil, fun _ _ => rfl⟩
  | cons l t ih =>
    obtain ⟨hl, hnodup⟩ := List.nodup_cons.mp hnodup
    obtain ⟨hframe, hold, hnew, hrest⟩ := ih hnodup
      (fun i hi k hk => hapart i (List.mem_cons_of_mem _ hi) k (List.mem_cons_of_mem _ hk)) (scratchStep aop n b c off x l)
    have hkeep : ∀ k ∈ t, scratchBytes (scratchStep aop n b c off x l) (off k) n = scratchBytes x (off k) n := fun k hk => by
      have hne : l ≠ k := fun h => hl (h ▸ hk)
      have h := hapart l List.mem_cons_self k (List.mem_cons_of_mem _ hk) hne
      exact scratchBytes_congr fun j hj => scratchStep_apart x l (by omega)
    intro r
    have hr : r = _ := atomScratch_cons l t x
    dsimp only at hr
    refine ⟨?_, ?_, fun k hk => ?_, fun a ha => ?_⟩
    · rw [hr]
      dsimp only
      rw [hframe]
      rfl
    · rw [hr]
      dsimp only
      rw [hold, List.map_cons]
      exact congrArg (_ :: ·) (List.map_congr_left fun k hk => by rw [hkeep k hk])
    · rw [hr]
      rcases List.mem_cons.mp hk with rfl | hk
      · rw [← scratchStep_own]
        refine scratchBytes_congr fun j hj => hrest _ fun i hi => ?_
        have hne : k ≠ i := fun h => hl (h ▸ hi)
        have h := hapart k List.mem_cons_self i (List.mem_cons_of_mem _ hi) hne
        omega
      · refine (hnew k hk).trans ?_
        rw [scratchNew, hkeep k hk]
        rfl
    · rw [hr]
      exact (hrest a fun i hi => ha i (List.mem_cons_of_mem _ hi)).trans (scratchStep_apart x l (ha l List.mem_cons_self))

end

section

variable {s : State} {f : LaF}

theorem markedLong_atom {global cas : Bool} : MarkedLong (atomInfo f global cas) := ⟨rfl, rfl, rfl, rfl, rfl⟩

/-- R37: the registers of a vector atomic lie below the allocation. -/
theorem regsOk_atom {global cas : Bool} (hf : AtomFits s f cas) : regsOk s (atomInfo f global cas) = true := by
  obtain ⟨hva, hvb, hvd, hvc⟩ := hf
  have hreads : ∀ r ∈ vecRegs (atomInfo f global cas).reads, r < s.blk.regs := by
    intro r hr
    have hcases : r = f.va.toNat ∨ r ∈ atomRegs f.vb f.w64 ∨ (cas = true ∧ r ∈ atomRegs f.vc f.w64) := by
      cases global <;> cases cas <;> simpa [atomInfo, vecRegs, Function.comp_def] using hr
    simp only [atomRegs, mem_regRange] at hcases
    rcases hcases with rfl | ⟨-, h⟩ | ⟨hcas, -, h⟩
    · exact hva
    · exact h.trans_le hvb
    · exact h.trans_le (hvc hcas)
  have hwrites : ∀ r ∈ vecRegs (atomInfo f global cas).writes, r < s.blk.regs := by
    intro r hr
    rw [show vecRegs (atomInfo f global cas).writes = atomRegs f.vd f.w64 from vecRegs_vecReads _, atomRegs, mem_regRange] at hr
    exact hr.2.trans_le hvd
  rw [regsOk, List.all_eq_true]
  intro r hr
  rw [show (atomInfo f global cas).vregs = [] from rfl, show (atomInfo f global cas).later = [] from rfl, List.append_nil,
    List.append_nil, List.mem_append] at hr
  exact decide_eq_true (hr.elim (hreads r) (hwrites r))

/-- R291: the context with the old values of some lanes written. -/
theorem writeOld_frame (f : LaF) (m : Mask) (old : List (Nat × Nat)) (c : Ctx) :
    writeOld f m old c = { c with v := (writeOld f m old c).v, released := (writeOld f m old c).released } := by
  unfold writeOld
  dsimp only
  split <;> rfl

theorem writeOld_lane (m : Mask) (old : List (Nat × Nat)) (c : Ctx) (r : Nat) {l : Nat} (hl : l < 32) :
    (writeOld f m old c).lane r l =
      if laneOn m l = true ∧ f.w64 = true ∧ r = f.vd.toNat + 1 then BitVec.ofNat 32 (mget 0 old l / 2 ^ 32)
      else if laneOn m l = true ∧ r = f.vd.toNat then BitVec.ofNat 32 (mget 0 old l)
      else c.lane r l := by
  unfold writeOld
  dsimp only
  by_cases hw : f.w64 = true
  · rw [if_pos hw, lane_setV _ _ _ _ _ _ hl, lane_setV _ _ _ _ _ _ hl]
    simp only [hw, true_and, and_comm (a := laneOn m l = true)]
  · rw [if_neg hw, lane_setV _ _ _ _ _ _ hl, if_neg (c := _ ∧ _ ∧ _) fun h => hw h.2.1]
    simp only [and_comm (a := laneOn m l = true)]

/-- R291, R13: an atomic of lanes retires, where its body has written the old values of the lanes that take part. -/
theorem atom_retires {u : State} (h : Quiet s) (hp : s.ctx.prefixes = []) {global cas : Bool} (hf : AtomFits s f cas) {i : Instr}
    {body : Ctx → State → Except Halt State} {old : Nat → Nat} {olds : List (Nat × Nat)} (hb : body s.ctx s = .ok u)
    (hold : olds = (lanesOf (s.ctx.takePart f.g)).map fun l => (l, old l))
    (hctx : u.ctx = writeOld f (s.ctx.takePart f.g) olds s.ctx)
    (hu : u.g = { s.g with ctx := u.g.ctx, swapDue := u.g.swapDue }) :
    ∃ t, issue i (atomInfo f global cas) body s = .next t ∧
      t = { u with g := { u.g with ctx := t.g.ctx, pmc := t.g.pmc, arriving := t.g.arriving } } ∧ OldValues s f old t := by
  have hwf := writeOld_frame f (s.ctx.takePart f.g) olds s.ctx
  rw [← hctx] at hwf
  have hpc : u.ctx.pc = s.ctx.pc := by rw [hwf]
  have hpend : u.ctx.pend = s.ctx.pend := by rw [hwf]
  obtain ⟨t, ht, hframe, htctx, hlane⟩ := issue_marked (i := i) h markedLong_atom (.inr hp) rfl
    (regsOk_atom (global := global) hf) hb ⟨by rw [hu], by rw [hu], by rw [hu], by rw [hu], by rw [hu], hpc, hpend⟩
  refine ⟨t, ht, hframe, ?_, fun r l hl => ?_⟩
  · rw [htctx, hwf, ← hp, ← h.covered]
  · rw [hlane r l hl, if_neg fun hm => List.not_mem_nil hm.1, hctx, writeOld_lane _ _ _ _ hl, laneOn_takePart _ _ hl]
    by_cases hpart : takesPart s.ctx f.g l = true
    · rw [hold, mget_map_key, if_pos (mem_lanesOf_takePart.mpr ⟨hl, hpart⟩)]
    · simp [hpart]

/-- The scratch offset of a lane of a LATOM. -/
def latomOff (s : State) (f : LaF) (l : Nat) : Nat := (s.ctx.lane f.va.toNat l).toNat

/-- The lanes that take part in a LATOM, with their offsets. -/
def latomOffs (s : State) (f : LaF) : List (Nat × Nat) := (lanesOf (s.ctx.takePart f.g)).map fun l => (l, latomOff s f l)

/-- R291: the block after a LATOM, and the old values. -/
def latomResult (s : State) (f : LaF) : Block × List (Nat × Nat) :=
  atomScratch f.aop.toNat (atomBytes f.w64) (atomOperand s.ctx f.vb f.w64) (atomOperand s.ctx f.vc f.w64) (latomOffs s f) s.blk

/-- R291: the device after a LATOM, before its acquire. -/
def latomDone (s : State) (f : LaF) : State :=
  modCtx (modBlk (groupOver s s.blk.uid ((latomOffs s f).flatMap fun x =>
    cellsAt x.2 (scratchBytes (latomResult s f).1 x.2 (atomBytes f.w64)))) fun _ => (latomResult s f).1)
    (writeOld f (s.ctx.takePart f.g) (latomResult s f).2)

theorem exec_latom (s : State) (f : LaF) :
    exec (.latom f) s = issue (.latom f) (atomInfo f false (f.aop.toNat == aopCas)) (latomBody f) s := rfl

theorem latomBody_acts
    (hin : ∀ l, l < 32 ∧ takesPart s.ctx f.g l = true →
      InScratch s.blk (atomBytes f.w64) (latomOff s f l) ∧ scratchPoisoned s.blk (latomOff s f l) (atomBytes f.w64) = false) :
    latomBody f s.ctx s = .ok (atomAcquire f.order f.scope (latomDone s f)) := by
  have hcheck : checkScratch s.blk (atomBytes f.w64) true ((latomOffs s f).map fun x => (some (BitVec.ofNat 5 x.1), x.2)) = .ok () := by
    refine checkScratch_ok fun x hx => ?_
    rw [latomOffs, List.map_map] at hx
    obtain ⟨l, hl, rfl⟩ := List.mem_map.mp hx
    obtain ⟨hscratch, hclean⟩ := hin l (mem_lanesOf_takePart.mp hl)
    exact ⟨hscratch, fun _ => hclean⟩
  unfold latomBody
  dsimp only
  rw [show ((lanesOf (s.ctx.takePart f.g)).map fun l => (l, (s.ctx.lane f.va.toNat l).toNat)) = latomOffs s f from rfl, hcheck]
  rfl

/-- R290 to R292: LATOM, where no two lanes meet. -/
theorem latom_acts (h : Quiet s) (hp : s.ctx.prefixes = []) (hf : AtomFits s f (f.aop.toNat == 10))
    (hin : ∀ l, l < 32 ∧ takesPart s.ctx f.g l = true →
      InScratch s.blk (atomBytes f.w64) (latomOff s f l) ∧ scratchPoisoned s.blk (latomOff s f l) (atomBytes f.w64) = false)
    (hapart : ∀ l k, l < 32 ∧ takesPart s.ctx f.g l = true → k < 32 ∧ takesPart s.ctx f.g k = true → l ≠ k →
      latomOff s f l + atomBytes f.w64 ≤ latomOff s f k ∨ latomOff s f k + atomBytes f.w64 ≤ latomOff s f l) :
    ∃ t, exec (.latom f) s = .next t ∧
      OldValues s f (fun l => leNat (scratchBytes s.blk (latomOff s f l) (atomBytes f.w64))) t ∧
      t = { s with
        g := { s.g with ctx := t.g.ctx, pmc := t.g.pmc, arriving := t.g.arriving }, cores := t.cores, loose := t.loose
        early := t.early, broken := t.broken
        blk := { s.blk with scratch := t.blk.scratch, scratchPoison := t.blk.scratchPoison } } ∧ SameElements s t ∧
      (∀ l, l < 32 ∧ takesPart s.ctx f.g l = true → leNat (scratchBytes t.blk (latomOff s f l) (atomBytes f.w64)) =
        atomNew f.aop.toNat (8 * atomBytes f.w64) (leNat (scratchBytes s.blk (latomOff s f l) (atomBytes f.w64)))
          (atomOperand s.ctx f.vb f.w64 l) (atomOperand s.ctx f.vc f.w64 l)) ∧
      ∀ a, (∀ l, l < 32 ∧ takesPart s.ctx f.g l = true → a < latomOff s f l ∨ latomOff s f l + atomBytes f.w64 ≤ a) →
        mget 0 t.blk.scratch a = mget 0 s.blk.scratch a := by
  obtain ⟨hframe, hold, hnew, hrest⟩ := atomScratch_apart (aop := f.aop.toNat) (n := atomBytes f.w64)
    (b := atomOperand s.ctx f.vb f.w64) (c := atomOperand s.ctx f.vc f.w64) (off := latomOff s f)
    (ls := lanesOf (s.ctx.takePart f.g)) ((lanesOf_pairwise _).imp Nat.ne_of_lt)
    (fun l hl k hk => hapart l k (mem_lanesOf_takePart.mp hl) (mem_lanesOf_takePart.mp hk)) s.blk
  change (latomResult s f).1 = _ at hframe
  change (latomResult s f).2 = _ at hold
  have hacq := atomAcquire_frame f.order f.scope (latomDone s f)
  have hbody := latomBody_acts hin
  generalize atomAcquire f.order f.scope (latomDone s f) = u at hacq hbody
  obtain ⟨t, ht, htframe, hvalues⟩ := atom_retires (i := .latom f) (global := false) h hp hf hbody hold (by rw [hacq]; rfl)
    (by rw [hacq]; rfl)
  have hblk : t.blk = (latomResult s f).1 := by
    rw [htframe, hacq]
    rfl
  refine ⟨t, (exec_latom s f).trans ht, hvalues, ?_, ?_, fun l hl => ?_, fun a ha => ?_⟩
  · have hown : ({ s.blk with scratch := t.blk.scratch, scratchPoison := t.blk.scratchPoison } : Block) = (latomResult s f).1 := by
      rw [hblk]
      exact hframe.symm
    rw [hown, htframe, hacq]
    rfl
  · rw [htframe, hacq]
    exact groupOver_sameElements s s.blk.uid _
  · rw [hblk]
    refine (congrArg leNat (hnew l (mem_lanesOf_takePart.mpr hl))).trans ?_
    have hlt := leNat_lt (scratchBytes s.blk (latomOff s f l) (atomBytes f.w64))
    rw [scratchBytes_length, pow_256_eq] at hlt
    exact leNat_leBytes_atomNew _ _ (atomBytes_bits _) hlt (atomOperand_lt _ _ _ _)
  · rw [hblk]
    exact hrest a fun l hl => ha l (mem_lanesOf_takePart.mp hl)

end

end Sys2Proof.Machine
end

section
/-! PROOFS. The atomic units (R148), and what a peer's accesses do (R251). -/

namespace Sys2Proof.Machine

section

variable {s : State}

/-- R148: a recall leaves its sectors in no L1. -/
theorem recallSectors_drops_l1 (s : State) (sector : Nat) :
    ∀ e ∈ (recallSectors s [sector]).cores, ∀ x ∈ e.2.l1, x.sector ≠ sector := by
  intro e he x hx
  obtain ⟨e', -, rfl⟩ := List.mem_map.mp he
  have hkept : (!hasNat [sector] x.sector) = true := (List.mem_filter.mp hx).2
  rintro rfl
  simp [hasNat] at hkept

/-- R148: the unit performs an operation. -/
theorem atomUnit_performs (s : State) (op : AtomReq) :
    let n := atomBytes op.w64
    let i := homeIdx s.place op.pa.toNat
    let t := atomUnit s op
    MemoryButAt s t i n ∧
    elementAt t.mem i n = atomNew op.aop.toNat (8 * n) (elementOf s ⟨none, 0, op.pa.toNat, i, 0⟩ n)
      (op.b.toNat % 2 ^ (8 * n)) (op.c.toNat % 2 ^ (8 * n)) ∧
    t.unitOps = s.unitOps ∧ (∀ e ∈ t.cores, ∀ x ∈ e.2.l1, x.sector ≠ i / 128) ∧ t.g = s.g ∧ t.blk = s.blk := by
  intro n i t
  set new := atomNew op.aop.toNat (8 * n) (elementOf s ⟨none, 0, op.pa.toNat, i, 0⟩ n)
    (op.b.toNat % 2 ^ (8 * n)) (op.c.toNat % 2 ^ (8 * n)) with hnew
  have hw := recallSectors_onlyCaches s [i / 128]
  have hl1 := recallSectors_drops_l1 s (i / 128)
  have ht : t = putCells (reseal (recallSectors s [i / 128]) (i / 128) (viewTag (recallSectors s [i / 128]) 0 i))
    (cellsAt i (leBytes n new)) := rfl
  generalize viewTag (recallSectors s [i / 128]) 0 i = v at ht
  generalize recallSectors s [i / 128] = w at hw hl1 ht
  have hmem : t.mem = writeCells (reseal w (i / 128) v).mem (cellsAt i (leBytes n new)) := by
    rw [ht]
    rfl
  have hbut := memoryButAt_write (s := s) (w := w) (v := v) (by rw [hw]) (by rw [hw]) hmem fun j => by rw [ht]; rfl
  have hstand := bytesAt_writeCells (reseal w (i / 128) v).mem i (leBytes n new)
  rw [leBytes_length] at hbut hstand
  refine ⟨hbut, ?_, ?_, ?_, ?_, ?_⟩
  · rw [elementAt, hmem, hstand, hnew]
    exact leNat_leBytes_atomNew _ _ (atomBytes_bits _) (leNat_pageBytes_lt _ _ _ _) (Nat.mod_lt _ (Nat.two_pow_pos _))
  · rw [ht, hw]
    rfl
  · rw [ht]
    exact hl1
  · rw [ht, hw]
    rfl
  · rw [ht, hw]
    rfl

/-- R249: the key of a place without a page is that of its sector. -/
theorem keyTag_sector (s : State) {i j : Nat} (h : j / 128 = i / 128) : keyTag s 0 j = keyTag s 0 i := by
  have hquad : j % 2 ^ 38 / 2 ^ 16 = i % 2 ^ 38 / 2 ^ 16 := by omega
  have hpa (placement : Nat) : paAs placement j / 128 = paAs placement i / 128 := by
    unfold paAs
    dsimp only
    split
    · have hdie : j / 2 ^ 38 % 4 = i / 2 ^ 38 % 4 := by omega
      have hstripe : j % 2 ^ 38 / 2 ^ 12 % 4 = i % 2 ^ 38 / 2 ^ 12 % 4 := by omega
      rw [hdie, hstripe]
      generalize Nat.xor (i / 2 ^ 38 % 4) (i % 2 ^ 38 / 2 ^ 12 % 4) = x
      omega
    · exact h
  unfold keyTag
  dsimp only
  rw [if_pos rfl, if_pos rfl, hquad, hpa]

theorem viewTag_sector (s : State) {i j : Nat} (h : j / 128 = i / 128) : viewTag s 0 j = viewTag s 0 i := by
  rw [viewTag, viewTag, h, keyTag_sector s h]

/-- R249: a sector sealed again under the key that it is under. -/
theorem reseal_again {s : State} {sector v : Nat} (h : mget 0 s.memKey sector = v) :
    (reseal s sector v).mem = s.mem ∧ ∀ j, mget 0 (reseal s sector v).memKey j = mget 0 s.memKey j := by
  refine ⟨if_pos (.inr h), fun j => ?_⟩
  show mget 0 (mset 0 s.memKey sector v) j = _
  rw [mget_mset]
  split
  next hj => rw [hj, h]
  · rfl

/-- R249: the bytes of one sector come under the sector's key one after another. -/
theorem tagBytes_sector {i n : Nat} (hn : 0 < n) (hsec : ∀ k < n, (i + k) / 128 = i / 128) (w : State) :
    let u := ((List.range n).map fun k => (i + k, 0)).foldl (fun acc x => tagBytes acc x.2 x.1) w
    u.mem = (reseal w (i / 128) (viewTag w 0 i)).mem ∧
      ∀ j, mget 0 u.memKey j = mget 0 (reseal w (i / 128) (viewTag w 0 i)).memKey j := by
  have hview : ∀ (l : List (Nat × Nat)), viewTag (l.foldl (fun acc x => tagBytes acc x.2 x.1) w) 0 i = viewTag w 0 i := fun l =>
    List.foldlRecOn l _ (motive := fun u : State => viewTag u 0 i = viewTag w 0 i) rfl fun u hu x _ => hu
  induction n with
  | zero => cases hn
  | succ n ih =>
    rw [List.range_succ, List.map_append, List.foldl_append]
    set u := ((List.range n).map fun k => (i + k, 0)).foldl (fun acc x => tagBytes acc x.2 x.1) w with hu
    have htag : tagBytes u 0 (i + n) = reseal u (i / 128) (viewTag w 0 i) := by
      rw [tagBytes, hsec n (by omega), viewTag_sector u (hsec n (by omega)), hu, hview]
    show (tagBytes u 0 (i + n)).mem = _ ∧ ∀ j, mget 0 (tagBytes u 0 (i + n)).memKey j = _
    rw [htag]
    rcases Nat.eq_zero_or_pos n with rfl | hpos
    · exact ⟨rfl, fun _ => rfl⟩
    · obtain ⟨hmem, hkey⟩ := ih hpos fun k hk => hsec k (by omega)
      have hnow : mget 0 u.memKey (i / 128) = viewTag w 0 i := (hkey _).trans (mget_mset_self _ _ _ _)
      obtain ⟨hm, hk⟩ := reseal_again hnow
      exact ⟨hm.trans hmem, fun j => (hk j).trans (hkey j)⟩

/-- R251: bytes of one sector performed at their home, under key 0. -/
theorem performBytes_sector {i n : Nat} (hn : 0 < n) (hsec : ∀ k < n, (i + k) / 128 = i / 128) {bs : List Byte}
    (hlen : bs.length = n) :
    let t := performBytes s ((List.range n).map fun k => (i + k, 0)) bs
    MemoryButAt s t i n ∧ bytesAt t.mem i n = bs ∧ t.g = s.g ∧ t.blk = s.blk := by
  intro t
  set w := onCoh s fun c => ((((List.range n).map fun k => (i + k, 0)).map fun x : Nat × Nat => x.1 / 128).eraseDups.foldl
    (fun c x => c.recall x) c) with hw
  set u := ((List.range n).map fun k => (i + k, 0)).foldl (fun acc x => tagBytes acc x.2 x.1) w with hu
  obtain ⟨hmem, hkey⟩ := tagBytes_sector hn hsec w
  rw [← hu] at hmem hkey
  have hcells : (((List.range n).map fun k => (i + k, 0)).map fun x : Nat × Nat => x.1).zip bs = cellsAt i bs := by
    rw [cellsAt_eq_zip, hlen, List.map_map]
    rfl
  have ht : t = putCells u (cellsAt i bs) := by
    rw [← hcells]
    rfl
  have hframe : u.g = w.g ∧ u.blk = w.blk := by
    rw [hu]
    exact List.foldlRecOn _ _ (motive := fun u : State => u.g = w.g ∧ u.blk = w.blk) ⟨rfl, rfl⟩ fun u hu x _ => hu
  have htmem : t.mem = writeCells (reseal w (i / 128) (viewTag w 0 i)).mem (cellsAt i bs) := by
    rw [ht, ← hmem]
    rfl
  have hbut := memoryButAt_write (s := s) (w := w) rfl rfl htmem fun j => by
    rw [ht]
    exact hkey j
  have hstand := bytesAt_writeCells (reseal w (i / 128) (viewTag w 0 i)).mem i bs
  rw [hlen] at hbut hstand
  refine ⟨hbut, by rw [htmem, hstand], ?_, ?_⟩
  · rw [ht]
    exact hframe.1
  · rw [ht]
    exact hframe.2

/-- R251: the bytes of an operation of a peer are a power of two, of one sector where it is aligned. -/
theorem peerBytesOf_cases (op : AtomReq) :
    peerBytesOf op = 1 ∨ peerBytesOf op = 2 ∨ peerBytesOf op = 4 ∨ peerBytesOf op = 8 ∨ peerBytesOf op = 16 := by
  unfold peerBytesOf
  split
  · have hsize := op.size.isLt
    generalize op.size.toNat = k at hsize
    interval_cases k <;> decide
  · cases op.w64 <;> decide

theorem homeIdx_aligned (place : List (Nat × BitVec 2)) {pa n : Nat} (hn : n = 1 ∨ n = 2 ∨ n = 4 ∨ n = 8 ∨ n = 16)
    (ha : pa % n = 0) {k : Nat} (hk : k < n) : (homeIdx place pa + k) / 128 = homeIdx place pa / 128 := by
  have hidx : homeIdx place pa % n = 0 := by
    unfold homeIdx homeAs
    split
    · generalize Nat.xor (pa / 2 ^ 38 % 4) (pa / 2 ^ 12 % 4) = x
      rcases hn with rfl | rfl | rfl | rfl | rfl <;> omega
    · rcases hn with rfl | rfl | rfl | rfl | rfl <;> omega
  generalize homeIdx place pa = i at hidx
  rcases hn with rfl | rfl | rfl | rfl | rfl <;> omega

end

/-- Settles O35: SATOM, LATOM, `atomUnit_performs` and `performBytes_sector`. -/
theorem scalarScratchUnitAtomics : Obligations.ScalarScratchUnitAtomics := by
  refine ⟨fun s f a h hp => satom_acts h hp, fun s f h hp hf => ?_, fun s op => ?_, fun s peer op => ?_⟩
  · intro n off part at_ hin hapart
    exact latom_acts h hp hf hin hapart
  · intro n i
    refine ⟨fun hne => ?_, fun hfirst _ _ _ => ?_⟩
    · show Host.Outcome.next _ = _
      rw [if_neg (by simpa using hne)]
    · refine ⟨atomUnit { s with unitOps := s.unitOps.erase op } op, ?_, atomUnit_performs { s with unitOps := s.unitOps.erase op } op⟩
      show Host.Outcome.next _ = _
      rw [if_pos (by simpa using hfirst)]
  · intro p n i
    refine ⟨fun hv hlim hlocal halign => ⟨fun haop => ?_, fun haop hclean => ?_⟩, fun hno => ?_⟩
    · have hmay : (p.valid && decide (op.pa.toNat + n ≤ p.limit.toNat) && isLocal op.pa.toNat && op.pa.toNat % n == 0) = true := by
        simp [hv, hlim, hlocal, halign]
      have hn := peerBytesOf_cases op
      refine ⟨performBytes s ((List.range n).map fun k => (i + k, 0)) (leBytes n (op.b.toNat + op.c.toNat * 2 ^ 64)), ?_,
        performBytes_sector (by omega) (fun k hk => homeIdx_aligned s.place hn halign hk) (leBytes_length _ _)⟩
      show Host.Outcome.next _ = _
      rw [if_pos hmay, if_pos haop]
    · have hmay : (p.valid && decide (op.pa.toNat + n ≤ p.limit.toNat) && isLocal op.pa.toNat && op.pa.toNat % n == 0) = true := by
        simp [hv, hlim, hlocal, halign]
      show Host.Outcome.next _ = _
      rw [if_pos hmay, if_neg haop, if_neg (by simpa using hclean)]
    · refine congrArg Host.Outcome.next (if_neg fun hmay => ?_)
      simp only [Bool.and_eq_true, decide_eq_true_eq] at hmay
      obtain ⟨⟨⟨hvalid, hbelow⟩, -⟩, -⟩ := hmay
      exact hno.elim (fun hv => Bool.false_ne_true (hv.symm.trans hvalid)) fun hlim => Nat.not_le.mpr hlim hbelow

end Sys2Proof.Machine
end

section
/-! SUPPORT. Exact values as multiples of a power of two: their order, their sum and their product (R102). -/

namespace Sys2Proof.Machine

/-- A number by which both of two exponents' powers may be told: n · 2^(ex - e₀) scaled up to e is n · 2^(ex - e) scaled up to e₀. -/
theorem two_pow_rescale {ex e e₀ : Int} (h : e ≤ ex) (h₀ : e₀ ≤ ex) :
    (2 : Int) ^ (ex - e₀).toNat * 2 ^ (e₀ - e).toNat = 2 ^ (ex - e).toNat * 2 ^ (e - e₀).toNat := by
  rw [← pow_add, ← pow_add]
  congr 1
  omega

theorem signedI_mul (neg : Bool) (m k : Nat) : signedI neg (m * k) = signedI neg m * k := by
  cases neg <;> simp [signedI]

theorem signedI_zero (neg : Bool) : signedI neg 0 = 0 := by
  cases neg <;> rfl

theorem signedI_eq_zero {neg : Bool} {m : Nat} : signedI neg m = 0 ↔ m = 0 := by
  cases neg <;> simp [signedI]

theorem natAbs_signedI (neg : Bool) (m : Nat) : (signedI neg m).natAbs = m := by
  cases neg <;> simp [signedI]

/-- An integer by its sign and its size. -/
theorem signedI_natAbs (u : Int) : signedI (decide (u < 0)) u.natAbs = u := by
  by_cases h : u < 0
  · simp [signedI, h, abs_of_neg h]
  · simp [signedI, h, abs_of_nonneg (not_lt.mp h)]

namespace FVal

/-- A finite value as a multiple of 2^e. -/
theorem scaled_fin {neg : Bool} {m : Nat} {ex e u : Int} :
    (fin neg m ex).scaled e = some u ↔ (m = 0 ∨ e ≤ ex) ∧ u = signedI neg m * 2 ^ (ex - e).toNat := by
  unfold scaled
  by_cases hm : m = 0
  · simp [hm, signedI_zero, eq_comm]
  · by_cases he : e ≤ ex
    · have hval : ((if neg = true then -1 else 1) * ((m * 2 ^ (ex - e).toNat : Nat) : Int)) = signedI neg m * 2 ^ (ex - e).toNat := by
        cases neg <;> simp [signedI]
      simp only [hm, he, if_false, if_true, Option.some_inj, or_true, true_and]
      rw [hval, eq_comm]
    · simp [hm, he]

theorem scaled_eq_some {x : FVal} {e u : Int} (h : x.scaled e = some u) : ∃ neg m ex, x = fin neg m ex := by
  cases x with
  | nan => cases h
  | inf neg => cases h
  | fin neg m ex => exact ⟨neg, m, ex, rfl⟩

/-- Both of two scales of a value, told by one another. -/
theorem scaled_rescale {neg : Bool} {m : Nat} {ex e e₀ u : Int} (h : (fin neg m ex).scaled e = some u) (h₀ : e₀ ≤ ex) :
    signedI neg (m * 2 ^ (ex - e₀).toNat) * 2 ^ (e₀ - e).toNat = u * 2 ^ (e - e₀).toNat := by
  obtain ⟨hor, rfl⟩ := scaled_fin.mp h
  rw [signedI_mul]
  rcases hor with rfl | he
  · simp [signedI_zero]
  · push_cast
    rw [mul_assoc, mul_assoc, two_pow_rescale he h₀]

end FVal

section

variable {x y : FVal} {e u w : Int} (hx : x.scaled e = some u) (hy : y.scaled e = some w)
include hx hy

/-- R102: the order of two finite values is that of their multiples. -/
theorem cmpF_scaled : cmpF x y = compare u w := by
  obtain ⟨na, ma, ea, rfl⟩ := FVal.scaled_eq_some hx
  obtain ⟨nb, mb, eb, rfl⟩ := FVal.scaled_eq_some hy
  have ha := FVal.scaled_rescale hx (min_le_left ea eb)
  have hb := FVal.scaled_rescale hy (min_le_right ea eb)
  have hP : (0 : Int) < 2 ^ (min ea eb - e).toNat := by positivity
  have hQ : (0 : Int) < 2 ^ (e - min ea eb).toNat := by positivity
  show compare (signedI na (ma * 2 ^ (ea - min ea eb).toNat)) (signedI nb (mb * 2 ^ (eb - min ea eb).toNat)) = _
  generalize signedI na (ma * 2 ^ (ea - min ea eb).toNat) = a at ha
  generalize signedI nb (mb * 2 ^ (eb - min ea eb).toNat) = b at hb
  rcases lt_trichotomy u w with h | h | h
  · rw [compare_lt_iff_lt.mpr h, compare_lt_iff_lt]
    rw [← mul_lt_mul_iff_left₀ hP, ha, hb]
    exact mul_lt_mul_of_pos_right h hQ
  · rw [compare_eq_iff_eq.mpr h, compare_eq_iff_eq]
    exact mul_right_cancel₀ hP.ne' (ha.trans (h ▸ hb.symm))
  · rw [compare_gt_iff_gt.mpr h, compare_gt_iff_gt]
    rw [← mul_lt_mul_iff_left₀ hP, ha, hb]
    exact mul_lt_mul_of_pos_right h hQ

/-- R102: the exact sum. -/
theorem addF_scaled (rm : RMode) : (addF rm x y).scaled e = some (u + w) := by
  obtain ⟨na, ma, ea, rfl⟩ := FVal.scaled_eq_some hx
  obtain ⟨nb, mb, eb, rfl⟩ := FVal.scaled_eq_some hy
  have ha := FVal.scaled_rescale hx (min_le_left ea eb)
  have hb := FVal.scaled_rescale hy (min_le_right ea eb)
  obtain ⟨hea, hu⟩ := FVal.scaled_fin.mp hx
  obtain ⟨heb, hw⟩ := FVal.scaled_fin.mp hy
  have hzero (n : Bool) : (FVal.fin n 0 0).scaled e = some 0 := FVal.scaled_fin.mpr ⟨.inl rfl, by simp [signedI_zero]⟩
  unfold addF
  dsimp only
  split
  next h =>
    obtain ⟨rfl, rfl⟩ := h
    rw [hu, hw, signedI_zero, signedI_zero, zero_mul, zero_mul, zero_add]
    split <;> exact hzero _
  next hne =>
    split
    next h =>
      subst h
      rw [hu, signedI_zero, zero_mul, zero_add]
      exact hy
    next hma =>
      split
      next h =>
        subst h
        rw [hw, signedI_zero, zero_mul, add_zero]
        exact hx
      next hmb =>
        have hmin : e ≤ min ea eb := le_min (hea.resolve_left hma) (heb.resolve_left hmb)
        have hQ : (e - min ea eb).toNat = 0 := by omega
        rw [hQ, pow_zero, mul_one] at ha hb
        rw [← ha, ← hb, ← add_mul]
        generalize signedI na (ma * 2 ^ (ea - min ea eb).toNat) + signedI nb (mb * 2 ^ (eb - min ea eb).toNat) = t
        split
        next h =>
          rw [h, zero_mul]
          exact hzero _
        · exact FVal.scaled_fin.mpr ⟨.inr hmin, by rw [signedI_natAbs]⟩

/-- R102: the exact product. -/
theorem mulF_scaled : (mulF x y).scaled (e + e) = some (u * w) := by
  obtain ⟨na, ma, ea, rfl⟩ := FVal.scaled_eq_some hx
  obtain ⟨nb, mb, eb, rfl⟩ := FVal.scaled_eq_some hy
  obtain ⟨hea, hu⟩ := FVal.scaled_fin.mp hx
  obtain ⟨heb, hw⟩ := FVal.scaled_fin.mp hy
  have hsign : signedI (na != nb) (ma * mb) = signedI na ma * signedI nb mb := by
    cases na <;> cases nb <;> simp [signedI]
  refine FVal.scaled_fin.mpr ⟨?_, ?_⟩
  · rcases hea with rfl | hea
    · exact .inl (zero_mul mb)
    · rcases heb with rfl | heb
      · exact .inl (mul_zero ma)
      · exact .inr (add_le_add hea heb)
  · rw [hsign, hu, hw]
    rcases hea with rfl | hea
    · simp [signedI_zero]
    · rcases heb with rfl | heb
      · simp [signedI_zero]
      · have hexp : (ea + eb - (e + e)).toNat = (ea - e).toNat + (eb - e).toNat := by omega
        rw [hexp, pow_add]
        ring

theorem isNan_scaled : x.isNan = false ∧ y.isNan = false := by
  obtain ⟨na, ma, ea, rfl⟩ := FVal.scaled_eq_some hx
  obtain ⟨nb, mb, eb, rfl⟩ := FVal.scaled_eq_some hy
  exact ⟨rfl, rfl⟩

end

end Sys2Proof.Machine
end

section
/-! PROOFS. The cross-lane instructions retire with what they write (R337). -/

namespace Sys2Proof.Machine

section

variable {s : State} {f : LvF}

/-- R14: the lanes that take part, as a mask. -/
theorem maskOf_takesPart (c : Ctx) (g : Guard) : maskOf (takesPart c g) = c.takePart g := by
  apply BitVec.eq_of_getLsbD_eq
  intro l hl
  exact (laneOn_maskOf _ hl).trans (laneOn_takePart c g hl).symm

/-- R337, R13: a cross-lane instruction without release marks, whose body changes registers alone. -/
theorem cross_retires (h : Quiet s) (hp : s.ctx.prefixes = []) {i : Instr} {reads : List (RegClass × Nat)} {marks : List Nat}
    {dst : RegClass × Nat} {body : Ctx → State → Except Halt State} {c : Ctx} (hm : marks = [])
    (hr : regsOk s (crossInfo f reads marks dst) = true) (hb : body s.ctx s = .ok (s.withCtx c)) (hpc : c.pc = s.ctx.pc)
    (hpend : c.pend = s.ctx.pend) (hpre : c.prefixes = []) :
    ∃ t, issue i (crossInfo f reads marks dst) body s = .next t ∧ OnlyCtx s t ∧
      t.ctx = { c with pc := s.ctx.pc + 8, pend := t.ctx.pend } := by
  obtain ⟨t, ht, hctx, hframe⟩ := issue_kept (i := i) h (.inr hp) rfl rfl hr hb ⟨rfl, rfl, rfl, rfl, rfl, hpc, hpend⟩
  have hret := retireCtx_plain (inf := crossInfo f reads marks dst) (c0 := s.ctx) (c := c) hm rfl rfl hpc hpend
  have htctx : t.ctx = _ := hctx.trans hret
  refine ⟨t, ht, ?_, ?_⟩
  · rw [OnlyCtx, hframe]
    rfl
  · rw [htctx, ← hpre]
    rfl

/-- R337: such an instruction that writes lanes. -/
theorem cross_lanes (h : Quiet s) (hp : s.ctx.prefixes = []) {i : Instr} {reads : List (RegClass × Nat)} {marks : List Nat}
    {body : Ctx → State → Except Halt State} {x : Nat → Lane} (hm : marks = [])
    (hr : regsOk s (crossInfo f reads marks (vecDst f)) = true)
    (hb : body s.ctx s = .ok (modCtx s fun c => c.setV f.vd.toNat (s.ctx.takePart f.g) x)) :
    ∃ t, issue i (crossInfo f reads marks (vecDst f)) body s = .next t ∧ OnlyCtx s t ∧
      t.ctx = { s.ctx with pc := s.ctx.pc + 8, v := t.ctx.v, released := t.ctx.released, pend := t.ctx.pend } ∧
      ∀ r l, l < 32 → t.ctx.lane r l =
        if r = f.vd.toNat ∧ laneOn (s.ctx.takePart f.g) l = true then x l else s.ctx.lane r l := by
  obtain ⟨t, ht, honly, hctx⟩ := cross_retires (i := i) (c := s.ctx.setV f.vd.toNat (s.ctx.takePart f.g) x) h hp hm hr hb rfl rfl hp
  refine ⟨t, ht, honly, ?_, fun r l hl => ?_⟩
  · rw [hctx]
    rfl
  · rw [hctx]
    exact lane_setV _ _ _ _ _ _ hl

/-- R337: such an instruction that writes a scalar. -/
theorem cross_scalar (h : Quiet s) (hp : s.ctx.prefixes = []) {i : Instr} {reads : List (RegClass × Nat)} {marks : List Nat}
    {body : Ctx → State → Except Halt State} {x : SWord} (hm : marks = [])
    (hr : regsOk s (crossInfo f reads marks (scalDst f)) = true)
    (hb : body s.ctx s = .ok (modCtx s fun c => c.writeS f.vd.toNat x)) :
    ∃ t, issue i (crossInfo f reads marks (scalDst f)) body s = .next t ∧ OnlyCtx s t ∧
      t.ctx = { s.ctx.writeS f.vd.toNat x with pc := s.ctx.pc + 8, pend := t.ctx.pend } := by
  obtain ⟨hpc, hpend, hpre⟩ : (s.ctx.writeS f.vd.toNat x).pc = s.ctx.pc ∧ (s.ctx.writeS f.vd.toNat x).pend = s.ctx.pend ∧
      (s.ctx.writeS f.vd.toNat x).prefixes = s.ctx.prefixes := by
    rw [Ctx.writeS]
    split <;> exact ⟨rfl, rfl, rfl⟩
  exact cross_retires h hp hm hr hb hpc hpend (hpre.trans hp)

/-- R37: the registers of a cross-lane instruction with one vector source lie below the allocation. -/
theorem regsOk_cross {marks : List Nat} {dst : RegClass × Nat} (ha : f.a.reg.toNat < s.blk.regs)
    (hd : dst = vecDst f ∨ dst = scalDst f) (hvd : f.vd.toNat < s.blk.regs) :
    regsOk s (crossInfo f [(.vector, f.a.reg.toNat)] marks dst) = true := by
  rcases hd with rfl | rfl <;> simp [regsOk, crossInfo, vecRegs, vecDst, scalDst, ha, hvd]

/-- R37: so do those of one without a vector source. -/
theorem regsOk_cross_none {n : Nat} {reads : List (RegClass × Nat)} {dst : RegClass × Nat}
    (hreads : reads = [] ∨ reads = [(.predicate, n)]) (hd : dst = vecDst f ∨ dst = scalDst f) (hvd : f.vd.toNat < s.blk.regs) :
    regsOk s (crossInfo f reads [] dst) = true := by
  rcases hreads with rfl | rfl <;> rcases hd with rfl | rfl <;> simp [regsOk, crossInfo, vecRegs, vecDst, scalDst, hvd]

/-- R340: VRFL writes zero where no lane takes part. -/
theorem vrflWord_zero {sx : Bool} {p : Mask} {v : Nat → Lane} (hp : p = 0) : vrflWord sx p v = 0 := if_pos hp

/-- R340: VRFL writes the word of the lowest lane that takes part. -/
theorem vrflWord_lowest {sx : Bool} {p : Mask} {v : Nat → Lane} {j : Nat} (hj : j < 32) (hon : laneOn p j = true)
    (hlow : ∀ i < j, laneOn p i = false) :
    vrflWord sx p v = if sx then (v j).signExtend 64 else (v j).zeroExtend 64 := by
  have hbit (i : Nat) : laneOn p i = p.toNat.testBit i := rfl
  have hne : p ≠ 0 := by
    rintro rfl
    simp [laneOn] at hon
  obtain ⟨-, hbelow, hat⟩ := ctzN_bits 32 p.toNat
  have hle : ctzN 32 p.toNat ≤ j := by
    by_contra hlt
    have hoff := hbelow j (by omega)
    rw [← hbit, hon] at hoff
    cases hoff
  have hge : ¬ ctzN 32 p.toNat < j := fun hlt => by
    have hset := hat (by omega)
    rw [← hbit, hlow _ hlt] at hset
    cases hset
  rw [vrflWord, if_neg hne, show ctzN 32 p.toNat = j by omega]

theorem exec_vlane (s : State) (f : LvF) : exec (.vlane f) s = issue (.vlane f) (crossInfo f [] [] (vecDst f))
    (fun rc s => .ok (modCtx s fun c =>
      c.setV f.vd.toNat (rc.takePart f.g) (vlaneWord (f.ext.toNat % 4) (rc.takePart f.g)))) s := rfl

/-- The registers that VSHFL reads beside the guard. -/
def shflReads (f : LvF) : List (RegClass × Nat) :=
  (.vector, f.a.reg.toNat) :: (match f.b with
    | .vec r => [(.vector, r.reg.toNat)]
    | .scal n => [(.scalar, n.toNat)]
    | .imm _ => [])

/-- The marks of VSHFL. -/
def shflMarks (f : LvF) : List Nat :=
  aMark f ++ (match bVector f with
    | some r => if r.lr then [r.reg.toNat] else []
    | none => [])

theorem exec_vshfl (s : State) (f : LvF) :
    exec (.vshfl f) s = issue (.vshfl f) (crossInfo f (shflReads f) (shflMarks f) (vecDst f)) (vshflBody f) s := rfl

theorem exec_vrfl (s : State) (f : LvF) :
    exec (.vrfl f) s = issue (.vrfl f) (crossInfo f [(.vector, f.a.reg.toNat)] (aMark f) (scalDst f))
      (fun rc s => .ok (modCtx s fun c =>
        c.writeS f.vd.toNat (vrflWord (f.ext.getLsbD 0) (rc.takePart f.g) (rc.lane f.a.reg.toNat)))) s := rfl

theorem exec_vvote (s : State) (f : LvF) :
    exec (.vvote f) s = issue (.vvote f) (crossInfo f [(.predicate, f.a.reg.toNat)] [] (scalDst f))
      (fun rc s => .ok (modCtx s fun c =>
        c.writeS f.vd.toNat (vvoteWord (f.ext.toNat % 4) (rc.takePart f.g)
          (rc.takePart f.g &&& rc.readP f.a.reg.toNat)))) s := rfl

theorem exec_vred (s : State) (f : LvF) :
    exec (.vred f) s = issue (.vred f) (crossInfo f [(.vector, f.a.reg.toNat)] (aMark f) (scalDst f))
      (fun rc s => .ok (modCtx s fun c =>
        c.writeS f.vd.toNat (vredWord (f.ext.toNat % 16) rc.fmt
          (laneWords rc f.a.reg.toNat (lanesOf (rc.takePart f.g)))))) s := rfl

theorem exec_vscan (s : State) (f : LvF) :
    exec (.vscan f) s = issue (.vscan f) (crossInfo f [(.vector, f.a.reg.toNat)] (aMark f) (vecDst f))
      (fun rc s => .ok (modCtx s fun c => c.setV f.vd.toNat (rc.takePart f.g) fun l =>
        vscanWord (f.ext.toNat % 16) rc.fmt
          (laneWords rc f.a.reg.toNat (scanLanes (f.ext.getLsbD 4) (rc.takePart f.g) l)))) s := rfl

section

variable (h : Quiet s) (hp : s.ctx.prefixes = []) (hlr : f.a.lr = false) (hblr : ∀ r, bVector f = some r → r.lr = false)
  (hvd : f.vd.toNat < s.blk.regs) (ha : f.a.reg.toNat < s.blk.regs) (hb : ∀ r, bVector f = some r → r.reg.toNat < s.blk.regs)

include hlr in
theorem aMark_nil : aMark f = [] := if_neg (by simp [hlr])

include hlr hblr in
theorem shflMarks_nil : shflMarks f = [] := by
  rw [shflMarks, aMark_nil hlr]
  cases hv : bVector f with
  | none => rfl
  | some r => simp [hblr r hv]

include hvd ha hb in
theorem regsOk_vshfl : regsOk s (crossInfo f (shflReads f) (shflMarks f) (vecDst f)) = true := by
  have hreads : ∀ r ∈ vecRegs ((RegClass.predicate, f.g.pg.toNat) :: shflReads f), r < s.blk.regs := by
    intro r hr
    cases hfb : f.b with
    | vec v =>
      have hv : v.reg.toNat < s.blk.regs := hb v (by rw [bVector, hfb])
      have hcases : r = f.a.reg.toNat ∨ r = v.reg.toNat := by simpa [shflReads, hfb, vecRegs] using hr
      exact hcases.elim (· ▸ ha) (· ▸ hv)
    | scal n => exact (show r = f.a.reg.toNat by simpa [shflReads, hfb, vecRegs] using hr) ▸ ha
    | imm n => exact (show r = f.a.reg.toNat by simpa [shflReads, hfb, vecRegs] using hr) ▸ ha
  show (vecRegs ((RegClass.predicate, f.g.pg.toNat) :: shflReads f) ++ vecRegs [vecDst f] ++ [] ++ []).all _ = true
  rw [List.append_nil, List.append_nil, List.all_append, Bool.and_eq_true]
  refine ⟨List.all_eq_true.mpr fun r hr => decide_eq_true (hreads r hr), ?_⟩
  simp [vecRegs, vecDst, hvd]

end

end

end Sys2Proof.Machine
end

section
/-! SUPPORT. The words, source lanes and lanes of the cross-lane instructions (R338, R339, R341, R342). -/

namespace Sys2Proof.Machine

/-- The members of an initial range, counted in a longer one. -/
theorem length_filter_range {n N : Nat} (hn : n ≤ N) (q : Nat → Bool) :
    ((List.range N).filter fun k => decide (k < n) && q k).length = ((List.range n).filter q).length := by
  obtain ⟨d, rfl⟩ := Nat.exists_eq_add_of_le hn
  rw [List.range_add, List.filter_append, List.length_append]
  have hlow : (List.range n).filter (fun k => decide (k < n) && q k) = (List.range n).filter q :=
    List.filter_congr fun k hk => by simp [List.mem_range.mp hk]
  have hhigh : ((List.range d).map fun k => n + k).filter (fun k => decide (k < n) && q k) = [] := by
    rw [List.filter_eq_nil_iff]
    intro k hk
    obtain ⟨j, -, rfl⟩ := List.mem_map.mp hk
    simp
  rw [hlow, hhigh, List.length_nil, Nat.add_zero]

/-- R338: the lanes of a mask below a lane. -/
theorem popN_below (p : Mask) {l : Nat} (hl : l ≤ 32) :
    popN 32 (p.toNat % 2 ^ l) = ((List.range l).filter fun j => laneOn p j).length := by
  rw [popN_bits, ← length_filter_range hl fun j => laneOn p j]
  refine congrArg List.length (List.filter_congr fun k _ => ?_)
  rw [Nat.testBit_mod_two_pow]
  rfl

theorem popMask_eq (p : Mask) : popMask p = ((List.range 32).filter fun j => laneOn p j).length := popN_bits 32 p.toNat

section

variable (p v : Mask) (b : Lane) {l : Nat} (hl : l < 32)
include hl

theorem vlaneWord_below (j : Nat) : (vlaneWord 3 p l).getLsbD j = (decide (j < l) && laneOn p j) := by
  show (BitVec.ofNat 32 (p.toNat % 2 ^ l)).getLsbD j = _
  rw [BitVec.getLsbD_ofNat, Nat.testBit_mod_two_pow]
  by_cases hj : j < l
  · have hj32 : j < 32 := by omega
    simp only [hj, hj32, decide_true, Bool.true_and]
    rfl
  · simp [hj]

theorem shflLane_up : shflLane 1 b l = if b.toNat ≤ l then l - b.toNat else l := by
  show (if 0 ≤ (l : Int) - (b.toNat : Int) ∧ (l : Int) - (b.toNat : Int) ≤ 31 then _ else l) = _
  by_cases h : b.toNat ≤ l
  · rw [if_pos h, if_pos (by omega)]
    omega
  · rw [if_neg h, if_neg (by omega)]

theorem shflLane_down : shflLane 2 b l = if l + b.toNat < 32 then l + b.toNat else l := by
  show (if 0 ≤ (l : Int) + (b.toNat : Int) ∧ (l : Int) + (b.toNat : Int) ≤ 31 then _ else l) = _
  by_cases h : l + b.toNat < 32
  · rw [if_pos h, if_pos (by omega)]
    omega
  · rw [if_neg h, if_neg (by omega)]

omit hl in
theorem shflLane_at : shflLane 0 b l = b.toNat % 32 := by
  show (if 0 ≤ ((b.toNat % 32 : Nat) : Int) ∧ ((b.toNat % 32 : Nat) : Int) ≤ 31 then _ else l) = _
  rw [if_pos (by omega)]
  exact Int.toNat_natCast _

theorem shflLane_xor : shflLane 3 b l = l ^^^ (b.toNat % 32) := by
  have hx : l ^^^ (b.toNat % 32) < 2 ^ 5 := Nat.xor_lt_two_pow hl (Nat.mod_lt _ (by decide))
  show (if 0 ≤ ((l ^^^ (b.toNat % 32) : Nat) : Int) ∧ ((l ^^^ (b.toNat % 32) : Nat) : Int) ≤ 31 then _ else l) = _
  rw [if_pos (by omega)]
  exact Int.toNat_natCast _

end

theorem mem_scanLanes (excl : Bool) (p : Mask) (l j : Nat) :
    j ∈ scanLanes excl p l ↔ j < 32 ∧ laneOn p j = true ∧ j ≤ l ∧ (excl = true → j ≠ l) := by
  rw [scanLanes, List.mem_filter, mem_lanesOf, and_assoc]
  cases excl
  · simp
  · simp only [if_true, decide_eq_true_eq, forall_const]
    exact and_congr_right fun _ => and_congr_right fun _ => by omega

end Sys2Proof.Machine
end

section
/-! SUPPORT. The folds of VRED and VSCAN over integers (R342). -/

namespace Sys2Proof.Machine

/-- A fold that always picks one of two, by an order in which it comes first. -/
theorem foldAll_picks {β : Type} {f : β → β → β} {le : β → β → Prop} (hrefl : ∀ x, le x x) (htrans : ∀ x y z, le x y → le y z → le x z)
    (hf : ∀ x y, (f x y = x ∧ le x y) ∨ (f x y = y ∧ le y x)) {l : List β} (hl : l ≠ []) :
    ∃ r ∈ l, foldAll f l = some r ∧ ∀ y ∈ l, le r y := by
  have hfold (t : List β) : ∀ x, (t.foldl f x = x ∨ t.foldl f x ∈ t) ∧ le (t.foldl f x) x ∧ ∀ y ∈ t, le (t.foldl f x) y := by
    induction t with
    | nil => exact fun x => ⟨.inl rfl, hrefl x, fun y hy => absurd hy List.not_mem_nil⟩
    | cons z t ih =>
      intro x
      obtain ⟨hmem, hhead, hrest⟩ := ih (f x z)
      rw [List.foldl_cons]
      rcases hf x z with ⟨hx, hle⟩ | ⟨hz, hle⟩
      · rw [hx] at hmem hhead hrest ⊢
        exact ⟨hmem.imp_right (List.mem_cons_of_mem _), hhead,
          List.forall_mem_cons.mpr ⟨htrans _ _ _ hhead hle, hrest⟩⟩
      · rw [hz] at hmem hhead hrest ⊢
        exact ⟨.inr (List.mem_cons.mpr hmem), htrans _ _ _ hhead hle,
          List.forall_mem_cons.mpr ⟨hhead, hrest⟩⟩
  cases l with
  | nil => exact absurd rfl hl
  | cons x t =>
    obtain ⟨hmem, hhead, hrest⟩ := hfold t x
    exact ⟨t.foldl f x, List.mem_cons.mpr hmem, rfl, List.forall_mem_cons.mpr ⟨hhead, hrest⟩⟩

theorem foldAll_add (l : List Int) : (foldAll (· + ·) l).getD 0 = l.sum := by
  have hfold (t : List Int) : ∀ x, t.foldl (· + ·) x = x + t.sum := by
    induction t with
    | nil => simp
    | cons y t ih =>
      intro x
      rw [List.foldl_cons, ih, List.sum_cons, add_assoc]
  cases l with
  | nil => rfl
  | cons x t => exact hfold t x

theorem foldAll_min {l : List Int} (hl : l ≠ []) : ∃ r ∈ l, foldAll (pickI true) l = some r ∧ ∀ y ∈ l, r ≤ y :=
  foldAll_picks (le := (· ≤ ·)) le_refl (fun _ _ _ => le_trans) (fun x y => by
    show (min x y = x ∧ _) ∨ (min x y = y ∧ _)
    omega) hl

theorem foldAll_max {l : List Int} (hl : l ≠ []) : ∃ r ∈ l, foldAll (pickI false) l = some r ∧ ∀ y ∈ l, y ≤ r :=
  foldAll_picks (le := (· ≥ ·)) le_refl (fun _ _ _ h h' => le_trans h' h) (fun x y => by
    show (max x y = x ∧ _) ∨ (max x y = y ∧ _)
    omega) hl

/-- A bit of a fold of numbers, where the operation acts bit by bit. -/
theorem testBit_foldl {f : Nat → Nat → Nat} {g : Bool → Bool → Bool}
    (h : ∀ x y i, (f x y).testBit i = g (x.testBit i) (y.testBit i)) (t : List Nat) (x i : Nat) :
    (t.foldl f x).testBit i = (t.map fun y => y.testBit i).foldl g (x.testBit i) := by
  induction t generalizing x with
  | nil => rfl
  | cons y t ih => rw [List.foldl_cons, ih, h, List.map_cons, List.foldl_cons]

theorem foldl_and (t : List Bool) (x : Bool) : t.foldl (· && ·) x = (x && t.all id) := by
  induction t generalizing x with
  | nil => simp
  | cons y t ih => rw [List.foldl_cons, ih, List.all_cons, id, Bool.and_assoc]

theorem foldl_or (t : List Bool) (x : Bool) : t.foldl (· || ·) x = (x || t.any id) := by
  induction t generalizing x with
  | nil => simp
  | cons y t ih => rw [List.foldl_cons, ih, List.any_cons, id, Bool.or_assoc]

theorem getLsbD_ofInt_natCast (n : Nat) {i : Nat} (hi : i < 64) : (BitVec.ofInt 64 (n : Int)).getLsbD i = n.testBit i := by
  rw [BitVec.ofInt_natCast, BitVec.getLsbD_ofNat, decide_eq_true hi, Bool.true_and]

/-- R342: a bit of a bitwise fold. -/
theorem vredWord_bits {op : Nat} (hop : op = 6 ∨ op = 7 ∨ op = 8) (fmt : BitVec 32) (l : List Lane) {i : Nat} (hi : i < 64) :
    (vredWord op fmt l).getLsbD i = foldedBit op l i := by
  cases l with
  | nil => rcases hop with rfl | rfl | rfl <;> simp [vredWord, foldInt, foldAll, foldedBit]
  | cons x t =>
    have hbits : (t.map BitVec.toNat).map (fun y => y.testBit i) = t.map fun y => y.getLsbD i := by
      rw [List.map_map]
      rfl
    rcases hop with rfl | rfl | rfl
    · show (BitVec.ofInt 64 (((t.map BitVec.toNat).foldl Nat.land x.toNat : Nat) : Int)).getLsbD i = _
      rw [getLsbD_ofInt_natCast _ hi, testBit_foldl (f := Nat.land) (g := (· && ·)) (fun x y i => Nat.testBit_and x y i), hbits, foldl_and]
      rfl
    · show (BitVec.ofInt 64 (((t.map BitVec.toNat).foldl Nat.lor x.toNat : Nat) : Int)).getLsbD i = _
      rw [getLsbD_ofInt_natCast _ hi, testBit_foldl (f := Nat.lor) (g := (· || ·)) (fun x y i => Nat.testBit_or x y i), hbits, foldl_or]
      rfl
    · show (BitVec.ofInt 64 (((t.map BitVec.toNat).foldl Nat.xor x.toNat : Nat) : Int)).getLsbD i = _
      rw [getLsbD_ofInt_natCast _ hi, testBit_foldl (f := Nat.xor) (g := (· != ·)) (fun x y i => Nat.testBit_xor x y i), hbits]
      show _ = (t.map fun y => y.getLsbD i).foldl (· != ·) (false != x.getLsbD i)
      rw [Bool.false_bne]
      rfl

/-- An integer as a word of 64 bits and of 32 is the same in the low half. -/
theorem truncate_ofInt (x : Int) : (BitVec.ofInt 64 x).truncate 32 = BitVec.ofInt 32 x := by
  apply BitVec.eq_of_toNat_eq
  rw [BitVec.truncate, BitVec.toNat_setWidth, BitVec.toNat_ofInt, BitVec.toNat_ofInt]
  omega

theorem truncate_ofNat (x : Nat) : (BitVec.ofNat 64 x).truncate 32 = BitVec.ofNat 32 x := by
  apply BitVec.eq_of_toNat_eq
  rw [BitVec.truncate, BitVec.toNat_setWidth, BitVec.toNat_ofNat, BitVec.toNat_ofNat]
  omega

theorem ofInt_toNat (x : Lane) : BitVec.ofInt 64 (x.toNat : Int) = x.zeroExtend 64 := by
  rw [BitVec.ofInt_natCast, BitVec.ofNat_toNat]

theorem foldAll_isSome {β : Type} (f : β → β → β) {l : List β} (hl : l ≠ []) : ∃ r, foldAll f l = some r := by
  cases l with
  | nil => exact absurd rfl hl
  | cons x t => exact ⟨_, rfl⟩

theorem foldInt_isSome {op : Nat} (hop : op < 9) {l : List Lane} (hl : l ≠ []) : ∃ r, foldInt op l = some r := by
  cases l with
  | nil => exact absurd rfl hl
  | cons x t => interval_cases op <;> exact ⟨_, rfl⟩

/-- R342: a VSCAN word of a fold that is not empty is the low half of the VRED word. -/
theorem vscanWord_truncate (op : Nat) (fmt : BitVec 32) {l : List Lane} (hl : l ≠ []) :
    vscanWord op fmt l = (vredWord op fmt l).truncate 32 := by
  unfold vscanWord vredWord
  split
  next hop =>
    obtain ⟨r, hr⟩ := foldInt_isSome hop hl
    rw [hr]
    exact (truncate_ofInt r).symm
  next hop =>
    have hx : l.map (fp fmt) ≠ [] := by simpa using hl
    obtain ⟨r, hr⟩ : ∃ r, foldFloat op fmt l = some r := by
      unfold foldFloat
      dsimp only
      split_ifs
      · obtain ⟨r, hr⟩ := foldAll_isSome (addF (fmtRm fmt)) hx
        exact ⟨_, by rw [hr]; rfl⟩
      · obtain ⟨r, hr⟩ := foldAll_isSome (minMaxF true) hx
        exact ⟨_, by rw [hr]; rfl⟩
      · obtain ⟨r, hr⟩ := foldAll_isSome (minMaxF false) hx
        exact ⟨_, by rw [hr]; rfl⟩
    rw [hr]
    exact (truncate_ofNat r).symm

/-- R342: an empty VRED gives zero. -/
theorem vredWord_nil (op : Nat) (fmt : BitVec 32) : vredWord op fmt [] = 0 := by
  have hint : foldInt op [] = none := by
    unfold foldInt
    dsimp only [List.map_nil, foldAll, Option.map_none]
    split_ifs <;> rfl
  have hfloat : foldFloat op fmt [] = none := by
    unfold foldFloat
    dsimp only [List.map_nil, foldAll]
    split_ifs <;> rfl
  unfold vredWord
  rw [hint, hfloat]
  split <;> rfl

section

variable {l : List Lane} (fmt : BitVec 32)

theorem vredWord_add : vredWord 0 fmt l = BitVec.ofInt 64 (l.map BitVec.toInt).sum :=
  congrArg (BitVec.ofInt 64) (foldAll_add _)

theorem vredWord_addu : vredWord 1 fmt l = BitVec.ofNat 64 (l.map BitVec.toNat).sum := by
  have hsum : (l.map fun x => (x.toNat : Int)).sum = ((l.map BitVec.toNat).sum : Nat) := by
    rw [Nat.cast_list_sum, List.map_map]
    rfl
  refine (congrArg (BitVec.ofInt 64) (foldAll_add _)).trans ?_
  rw [hsum, BitVec.ofInt_natCast]

variable (hl : l ≠ [])
include hl

theorem vredWord_mins : ∃ x ∈ l, vredWord 2 fmt l = x.signExtend 64 ∧ ∀ y ∈ l, x.sle y = true := by
  obtain ⟨r, hr, hfold, hle⟩ := foldAll_min (l := l.map BitVec.toInt) (by simpa using hl)
  obtain ⟨x, hx, rfl⟩ := List.mem_map.mp hr
  exact ⟨x, hx, congrArg (fun o : Option Int => BitVec.ofInt 64 (o.getD 0)) hfold,
    fun y hy => decide_eq_true (hle _ (List.mem_map_of_mem hy))⟩

theorem vredWord_maxs : ∃ x ∈ l, vredWord 3 fmt l = x.signExtend 64 ∧ ∀ y ∈ l, y.sle x = true := by
  obtain ⟨r, hr, hfold, hle⟩ := foldAll_max (l := l.map BitVec.toInt) (by simpa using hl)
  obtain ⟨x, hx, rfl⟩ := List.mem_map.mp hr
  exact ⟨x, hx, congrArg (fun o : Option Int => BitVec.ofInt 64 (o.getD 0)) hfold,
    fun y hy => decide_eq_true (hle _ (List.mem_map_of_mem hy))⟩

theorem vredWord_minu : ∃ x ∈ l, vredWord 4 fmt l = x.zeroExtend 64 ∧ ∀ y ∈ l, x.ule y = true := by
  obtain ⟨r, hr, hfold, hle⟩ := foldAll_min (l := l.map fun x => (x.toNat : Int)) (by simpa using hl)
  obtain ⟨x, hx, rfl⟩ := List.mem_map.mp hr
  refine ⟨x, hx, (congrArg (fun o : Option Int => BitVec.ofInt 64 (o.getD 0)) hfold).trans (ofInt_toNat x), fun y hy => ?_⟩
  exact decide_eq_true (Int.ofNat_le.mp (hle _ (List.mem_map_of_mem (f := fun x : Lane => (x.toNat : Int)) hy)))

theorem vredWord_maxu : ∃ x ∈ l, vredWord 5 fmt l = x.zeroExtend 64 ∧ ∀ y ∈ l, y.ule x = true := by
  obtain ⟨r, hr, hfold, hle⟩ := foldAll_max (l := l.map fun x => (x.toNat : Int)) (by simpa using hl)
  obtain ⟨x, hx, rfl⟩ := List.mem_map.mp hr
  refine ⟨x, hx, (congrArg (fun o : Option Int => BitVec.ofInt 64 (o.getD 0)) hfold).trans (ofInt_toNat x), fun y hy => ?_⟩
  exact decide_eq_true (Int.ofNat_le.mp (hle _ (List.mem_map_of_mem (f := fun x : Lane => (x.toNat : Int)) hy)))

end

end Sys2Proof.Machine
end


section
/-! SUPPORT. The order of values that are no NaN (R102), and the folds of VRED over FP32 values (R342). -/

namespace Sys2Proof.Machine

/-- The place of a rational among the rationals with both infinities. -/
def place (q : ℚ) : WithBot (WithTop ℚ) := ((q : WithTop ℚ) : WithBot (WithTop ℚ))

theorem place_lt {p q : ℚ} : place p < place q ↔ p < q := by
  rw [place, place, WithBot.coe_lt_coe, WithTop.coe_lt_coe]

theorem bot_lt_place (q : ℚ) : ⊥ < place q := WithBot.bot_lt_coe _

theorem place_lt_top (q : ℚ) : place q < ⊤ := WithBot.coe_lt_coe.mpr (WithTop.coe_lt_top q)

/-- Where a value stands among the rationals with both infinities; a NaN anywhere. -/
def FVal.rank : FVal → WithBot (WithTop ℚ)
  | .nan => ⊥
  | .inf true => ⊥
  | .inf false => ⊤
  | .fin neg m e => place (signedI neg m * 2 ^ e)

/-- A finite value by its multiple of a power of two. -/
theorem FVal.rank_scaled {x : FVal} {e u : Int} (h : x.scaled e = some u) :
    x.rank = place (u * 2 ^ e) := by
  obtain ⟨neg, m, ex, rfl⟩ := FVal.scaled_eq_some h
  obtain ⟨hor, rfl⟩ := FVal.scaled_fin.mp h
  have hval : (signedI neg m : ℚ) * 2 ^ ex = ((signedI neg m * 2 ^ (ex - e).toNat : Int) : ℚ) * 2 ^ e := by
    rcases hor with rfl | he
    · simp [signedI_zero]
    · have hsum : ex = ((ex - e).toNat : Int) + e := by omega
      conv_lhs => rw [hsum]
      rw [zpow_add₀ (by norm_num), zpow_natCast]
      push_cast
      ring
  rw [FVal.rank, hval]

/-- Any two finite values are multiples of one power of two. -/
theorem FVal.exists_scaled (na nb : Bool) (ma mb : Nat) (ea eb : Int) :
    ∃ e u w, (FVal.fin na ma ea).scaled e = some u ∧ (FVal.fin nb mb eb).scaled e = some w :=
  ⟨min ea eb, _, _, scaled_fin.mpr ⟨.inr (min_le_left _ _), rfl⟩, scaled_fin.mpr ⟨.inr (min_le_right _ _), rfl⟩⟩

theorem FVal.isNan_eq_false {x : FVal} : x.isNan = false ↔ x ≠ .nan := by
  cases x <;> simp [FVal.isNan]

/-- R102: the comparison of two values that are no NaN is that of where they stand. -/
theorem cmpF_rank {x y : FVal} (hx : x ≠ .nan) (hy : y ≠ .nan) :
    (cmpF x y = .lt ↔ x.rank < y.rank) ∧ (cmpF x y = .gt ↔ y.rank < x.rank) := by
  have hends : (⊥ : WithBot (WithTop ℚ)) < ⊤ := (bot_lt_place 0).trans (place_lt_top 0)
  match x, y with
  | .nan, _ => exact absurd rfl hx
  | .inf _, .nan => exact absurd rfl hy
  | .fin .., .nan => exact absurd rfl hy
  | .inf a, .inf b => cases a <;> cases b <;> simp [cmpF, FVal.rank, hends]
  | .inf a, .fin .. => cases a <;> simp [cmpF, FVal.rank, bot_lt_place, place_lt_top]
  | .fin .., .inf b => cases b <;> simp [cmpF, FVal.rank, bot_lt_place, place_lt_top]
  | .fin na ma ea, .fin nb mb eb =>
    obtain ⟨e, u, w, hu, hw⟩ := FVal.exists_scaled na nb ma mb ea eb
    have hpow : (0 : ℚ) < 2 ^ e := by positivity
    have hiff (u w : Int) : place (u * 2 ^ e) < place (w * 2 ^ e) ↔ u < w := by
      rw [place_lt, mul_lt_mul_iff_left₀ hpow, Int.cast_lt]
    rw [cmpF_scaled hu hw, FVal.rank_scaled hu, FVal.rank_scaled hw, hiff, hiff]
    exact ⟨compare_lt_iff_lt, compare_gt_iff_gt⟩

/-- R102: whether a value comes before another for a minimum or a maximum, where a NaN comes last. -/
def ComesBefore (least : Bool) (x y : FVal) : Prop :=
  y ≠ .nan → x ≠ .nan ∧ if least then x.rank ≤ y.rank else y.rank ≤ x.rank

section

variable (least : Bool)

theorem ComesBefore.refl (x : FVal) : ComesBefore least x x := fun hx => ⟨hx, by split <;> exact le_refl _⟩

theorem ComesBefore.trans (x y z : FVal) (hxy : ComesBefore least x y) (hyz : ComesBefore least y z) : ComesBefore least x z := by
  intro hz
  obtain ⟨hy, hle⟩ := hyz hz
  obtain ⟨hx, hle'⟩ := hxy hy
  refine ⟨hx, ?_⟩
  cases least
  · exact le_trans hle hle'
  · exact le_trans hle' hle

/-- R102: a minimum or a maximum is one of the two, and comes before the other. -/
theorem minMaxF_picks (x y : FVal) :
    (minMaxF least x y = x ∧ ComesBefore least x y) ∨ (minMaxF least x y = y ∧ ComesBefore least y x) := by
  unfold minMaxF
  by_cases hx : x = .nan
  · subst hx
    exact .inr ⟨rfl, fun h => absurd rfl h⟩
  · rw [if_neg (by rw [FVal.isNan_eq_false.mpr hx]; decide)]
    by_cases hy : y = .nan
    · subst hy
      exact .inl ⟨rfl, fun h => absurd rfl h⟩
    · rw [if_neg (by rw [FVal.isNan_eq_false.mpr hy]; decide)]
      obtain ⟨hlt, hgt⟩ := cmpF_rank hx hy
      cases hc : cmpF x y with
      | lt =>
        have hle := (hlt.mp hc).le
        cases least
        · exact .inr ⟨rfl, fun _ => ⟨hy, hle⟩⟩
        · exact .inl ⟨rfl, fun _ => ⟨hx, hle⟩⟩
      | gt =>
        have hle := (hgt.mp hc).le
        cases least
        · exact .inl ⟨rfl, fun _ => ⟨hx, hle⟩⟩
        · exact .inr ⟨rfl, fun _ => ⟨hy, hle⟩⟩
      | eq =>
        have heq : x.rank = y.rank := le_antisymm
          (not_lt.mp fun h => by rw [hgt.mpr h] at hc; cases hc) (not_lt.mp fun h => by rw [hlt.mpr h] at hc; cases hc)
        dsimp only
        split
        · exact .inl ⟨rfl, fun _ => ⟨hx, by rw [heq]; split <;> exact le_refl _⟩⟩
        · exact .inr ⟨rfl, fun _ => ⟨hy, by rw [heq]; split <;> exact le_refl _⟩⟩

end

/-- R342: the word of a float fold of VRED. -/
def floatOut (fmt : BitVec 32) (x : FVal) : SWord := BitVec.ofNat 64 (roundF fp32 (fmtRm fmt) (fmtFtz fmt) false x)

section

variable (fmt : BitVec 32) {l : List Lane} (hl : l ≠ [])

/-- R342: the fold of a minimum or a maximum. -/
def bestFold (least : Bool) (l : List Lane) : Option FVal := foldAll (minMaxF least) (l.map (fp fmt))

theorem vredWord_fmin {r : FVal} (h : bestFold fmt true l = some r) : vredWord 10 fmt l = floatOut fmt r :=
  congrArg (fun o : Option FVal => BitVec.ofNat 64 ((o.map fun r => roundF fp32 (fmtRm fmt) (fmtFtz fmt) false r).getD 0)) h

theorem vredWord_fmax {r : FVal} (h : bestFold fmt false l = some r) : vredWord 11 fmt l = floatOut fmt r :=
  congrArg (fun o : Option FVal => BitVec.ofNat 64 ((o.map fun r => roundF fp32 (fmtRm fmt) (fmtFtz fmt) false r).getD 0)) h

theorem vredWord_fadd {r : FVal} (h : foldAll (addF (fmtRm fmt)) (l.map (fp fmt)) = some r) : vredWord 9 fmt l = floatOut fmt r :=
  congrArg (fun o : Option FVal => BitVec.ofNat 64 ((o.map fun r => roundF fp32 (fmtRm fmt) (fmtFtz fmt) false r).getD 0)) h

include hl in
theorem bestFold_before (least : Bool) :
    ∃ x ∈ l, bestFold fmt least l = some (fp fmt x) ∧ ∀ y ∈ l, ComesBefore least (fp fmt x) (fp fmt y) := by
  obtain ⟨r, hr, hfold, hle⟩ := foldAll_picks (ComesBefore.refl least) (ComesBefore.trans least) (minMaxF_picks least)
    (l := l.map (fp fmt)) (by simpa using hl)
  obtain ⟨x, hx, rfl⟩ := List.mem_map.mp hr
  exact ⟨x, hx, hfold, fun y hy => hle _ (List.mem_map_of_mem hy)⟩

/-- R342: the fold of a minimum is no NaN where some value is none, and none that is stands below it. -/
theorem least_of_before {x : Lane} (h : ∀ y ∈ l, ComesBefore true (fp fmt x) (fp fmt y)) (hne : ∃ y ∈ l, fp fmt y ≠ .nan) :
    fp fmt x ≠ .nan ∧ ∀ y ∈ l, fp fmt y ≠ .nan → fcondHolds 2 (fp fmt y) (fp fmt x) = false := by
  obtain ⟨y, hy, hyn⟩ := hne
  refine ⟨(h y hy hyn).1, fun z hz hzn => ?_⟩
  obtain ⟨hx, hle⟩ := h z hz hzn
  have hnot : cmpF (fp fmt z) (fp fmt x) ≠ .lt := fun hc => absurd ((cmpF_rank hzn hx).1.mp hc) (not_lt.mpr hle)
  show (!((fp fmt z).isNan || (fp fmt x).isNan) && cmpF (fp fmt z) (fp fmt x) == .lt) = false
  rw [beq_false_of_ne hnot, Bool.and_false]

theorem greatest_of_before {x : Lane} (h : ∀ y ∈ l, ComesBefore false (fp fmt x) (fp fmt y)) (hne : ∃ y ∈ l, fp fmt y ≠ .nan) :
    fp fmt x ≠ .nan ∧ ∀ y ∈ l, fp fmt y ≠ .nan → fcondHolds 4 (fp fmt y) (fp fmt x) = false := by
  obtain ⟨y, hy, hyn⟩ := hne
  refine ⟨(h y hy hyn).1, fun z hz hzn => ?_⟩
  obtain ⟨hx, hle⟩ := h z hz hzn
  have hnot : cmpF (fp fmt z) (fp fmt x) ≠ .gt := fun hc => absurd ((cmpF_rank hzn hx).2.mp hc) (not_lt.mpr hle)
  show (!((fp fmt z).isNan || (fp fmt x).isNan) && cmpF (fp fmt z) (fp fmt x) == .gt) = false
  rw [beq_false_of_ne hnot, Bool.and_false]

end

theorem addF_nan_left (rm : RMode) (x : FVal) : addF rm .nan x = .nan := by cases x <;> rfl

theorem addF_nan_right (rm : RMode) (x : FVal) : addF rm x .nan = .nan := by cases x <;> rfl

/-- R102: a NaN among the terms makes the sum NaN. -/
theorem foldl_addF_nan (rm : RMode) (t : List FVal) : ∀ x, (x = .nan ∨ .nan ∈ t) → t.foldl (addF rm) x = .nan := by
  induction t with
  | nil => exact fun x h => h.resolve_right List.not_mem_nil
  | cons y t ih =>
    intro x h
    rw [List.foldl_cons]
    refine ih _ ?_
    rcases h with rfl | h
    · exact .inl (addF_nan_left rm y)
    · rcases List.mem_cons.mp h with rfl | h
      · exact .inl (addF_nan_right rm x)
      · exact .inr h

/-- R102: a sum of finite values is exact. -/
theorem foldl_addF_scaled (rm : RMode) {e : Int} (t : List FVal) : ∀ (x : FVal) (u : Int) (us : List Int), x.scaled e = some u →
    t.map (fun y => y.scaled e) = us.map some → (t.foldl (addF rm) x).scaled e = some (u + us.sum) := by
  induction t with
  | nil =>
    intro x u us hx ht
    obtain rfl : us = [] := by simpa using ht.symm
    simpa using hx
  | cons y t ih =>
    intro x u us hx ht
    cases us with
    | nil => cases ht
    | cons w us =>
      obtain ⟨hy, ht⟩ := List.cons.inj ht
      rw [List.foldl_cons, List.sum_cons, ← add_assoc]
      exact ih _ _ _ (addF_scaled hx hy rm) ht

section

variable (fmt : BitVec 32) {l : List Lane}

/-- R342: a NaN in a fold of additions. -/
theorem vredWord_fadd_nan (h : ∃ x ∈ l, fp fmt x = .nan) : vredWord 9 fmt l = 0x7FC00000 := by
  obtain ⟨x, hx, hnan⟩ := h
  have hmem : FVal.nan ∈ l.map (fp fmt) := hnan ▸ List.mem_map_of_mem hx
  have hfold : foldAll (addF (fmtRm fmt)) (l.map (fp fmt)) = some .nan := by
    cases hl : l.map (fp fmt) with
    | nil => exact absurd (hl ▸ hmem) List.not_mem_nil
    | cons y t => exact congrArg some (foldl_addF_nan _ t y ((List.mem_cons.mp (hl ▸ hmem)).imp_left Eq.symm))
  exact vredWord_fadd fmt hfold

/-- R342: a fold of additions of finite values rounds their exact sum once. -/
theorem vredWord_fadd_scaled (hl : l ≠ []) {e : Int} {us : List Int} (h : l.map (fun x => (fp fmt x).scaled e) = us.map some) :
    ∃ v : FVal, v.scaled e = some us.sum ∧ vredWord 9 fmt l = floatOut fmt v := by
  cases l with
  | nil => exact absurd rfl hl
  | cons x t =>
    cases us with
    | nil => cases h
    | cons u us =>
      obtain ⟨hx, ht⟩ := List.cons.inj h
      refine ⟨(t.map (fp fmt)).foldl (addF (fmtRm fmt)) (fp fmt x), ?_, vredWord_fadd fmt rfl⟩
      rw [List.sum_cons]
      exact foldl_addF_scaled _ _ _ _ _ hx (by rw [List.map_map]; exact ht)

end

end Sys2Proof.Machine
end

section
/-! PROOFS. The cross-lane instructions (R337 to R342), settling O19. -/

namespace Sys2Proof.Machine

/-- Settles O19: each instruction by its retirement rule, the words by counting lanes, the folds by their least and greatest
members and the exact sum. -/
theorem crossLane : Obligations.CrossLane := by
  unfold Obligations.CrossLane
  refine ⟨fun s f h hp hlr hblr hvd ha hb => ?_, fun p v b l hl => ?_, fun fmt l => ?_⟩
  · have hmark := aMark_nil hlr
    have hvec := regsOk_cross (marks := aMark f) ha (.inl rfl) hvd
    have hscal := regsOk_cross (marks := aMark f) ha (.inr rfl) hvd
    dsimp only
    rw [maskOf_takesPart]
    refine ⟨?_, ?_, fun hz => ?_, fun j hj hon hlow => ?_, ?_, ?_, ?_⟩
    · rw [exec_vlane]
      exact cross_lanes h hp rfl (regsOk_cross_none (n := 0) (.inl rfl) (.inl rfl) hvd) rfl
    · rw [exec_vshfl]
      exact cross_lanes h hp (shflMarks_nil hlr hblr) (regsOk_vshfl hvd ha hb) rfl
    · rw [exec_vrfl, ← vrflWord_zero (sx := f.ext.getLsbD 0) (v := s.ctx.lane f.a.reg.toNat) hz]
      exact cross_scalar h hp hmark hscal rfl
    · rw [exec_vrfl, ← vrflWord_lowest hj hon hlow]
      exact cross_scalar h hp hmark hscal rfl
    · rw [exec_vvote]
      exact cross_scalar h hp rfl (regsOk_cross_none (.inr rfl) (.inr rfl) hvd) rfl
    · rw [exec_vred]
      exact cross_scalar h hp hmark hscal rfl
    · rw [exec_vscan]
      exact cross_lanes h hp hmark hvec rfl
  · dsimp only
    refine ⟨rfl, ?_, ?_, vlaneWord_below p hl, rfl, ?_, rfl, ?_, shflLane_at b, shflLane_up b hl, shflLane_down b hl,
      shflLane_xor b hl, fun excl => ⟨lanesOf_pairwise p, (lanesOf_pairwise p).filter _, fun j =>
        ⟨mem_lanesOf p j, mem_scanLanes excl p l j⟩⟩⟩
    · exact congrArg (BitVec.ofNat 32) (popN_below p hl.le)
    · exact congrArg (BitVec.ofNat 32) (popMask_eq p)
    · show (if v ≠ 0 then 1 else 0) = _
      rw [ite_not]
    · exact congrArg (BitVec.ofNat 64) (popMask_eq v)
  · dsimp only
    refine ⟨vredWord_add fmt, vredWord_addu fmt, ?_, ?_, fun hl => ⟨vredWord_mins fmt hl, vredWord_maxs fmt hl,
      vredWord_minu fmt hl, vredWord_maxu fmt hl, ?_, ?_, fun op => vscanWord_truncate op fmt hl, vredWord_fadd_nan fmt,
      fun e us h => vredWord_fadd_scaled fmt hl h⟩, rfl, rfl, rfl, rfl, rfl, rfl, rfl, rfl, rfl⟩
    · intro op hop i hi
      exact vredWord_bits (by simpa using hop) fmt l hi
    · rintro rfl op
      exact vredWord_nil op fmt
    · obtain ⟨x, hx, hfold, hbefore⟩ := bestFold_before fmt hl true
      exact ⟨x, hx, vredWord_fmin fmt hfold, least_of_before fmt hbefore⟩
    · obtain ⟨x, hx, hfold, hbefore⟩ := bestFold_before fmt hl false
      exact ⟨x, hx, vredWord_fmax fmt hfold, greatest_of_before fmt hbefore⟩

end Sys2Proof.Machine
end


section
/-! SUPPORT. Rounding where nothing is lost, and rounding to an integer (R95, R101). -/

namespace Sys2Proof.Machine

theorem log2_mul_pow {m : Nat} (hm : m ≠ 0) (k : Nat) : Nat.log2 (m * 2 ^ k) = Nat.log2 m + k := by
  have hpow : 0 < 2 ^ k := Nat.two_pow_pos k
  rw [Nat.log2_eq_iff (Nat.mul_ne_zero hm hpow.ne')]
  have hle := Nat.log2_self_le hm
  have hlt := lt_two_pow_log2_succ m
  constructor
  · rw [pow_add]
    exact Nat.mul_le_mul_right _ hle
  · rw [show Nat.log2 m + k + 1 = Nat.log2 m + 1 + k by omega, pow_add]
    exact (Nat.mul_lt_mul_right hpow).mpr hlt

section

variable {m n : Nat} {e q : Int} (h : m * 2 ^ (e - q).toNat = n * 2 ^ (q - e).toNat)
include h

/-- R101: a whole number of quanta rounds to itself. -/
theorem roundQ_exact (rm : RMode) (neg : Bool) : roundQ rm neg m e q = n := by
  unfold roundQ
  by_cases hqe : e ≥ q
  · rw [if_pos hqe, h, show (q - e).toNat = 0 by omega, pow_zero, Nat.mul_one]
  · rw [show (e - q).toNat = 0 by omega, pow_zero, Nat.mul_one] at h
    have hpos : 0 < 2 ^ (q - e).toNat := Nat.two_pow_pos _
    rw [if_neg hqe, h]
    dsimp only
    rw [Nat.mul_div_cancel _ hpos, Nat.mul_mod_left]
    cases rm with
    | rne => exact if_pos hpos
    | rtz => rfl
    | rdn => exact if_neg (by simp)
    | rup => exact if_neg (by simp)

theorem flog2_exact (hm : m ≠ 0) : flog2 m e = flog2 n q := by
  have hn : n ≠ 0 := by
    rintro rfl
    rw [Nat.zero_mul] at h
    exact Nat.mul_ne_zero hm (Nat.two_pow_pos _).ne' h
  have hlog := congrArg Nat.log2 h
  rw [log2_mul_pow hm, log2_mul_pow hn] at hlog
  unfold flog2
  omega

end

/-- R95: the value of a pattern of FP32, by its fields. -/
theorem decodeF_fp32 (ftz : Bool) (bits : Nat) : decodeF fp32 ftz bits =
    if bits % 2 ^ 31 / 2 ^ 23 = 255 then
      (if bits % 2 ^ 23 = 0 then .inf (decide (bits / 2 ^ 31 % 2 = 1)) else .nan)
    else if bits % 2 ^ 31 / 2 ^ 23 = 0 then
      (if ftz then .fin (decide (bits / 2 ^ 31 % 2 = 1)) 0 0 else .fin (decide (bits / 2 ^ 31 % 2 = 1)) (bits % 2 ^ 23) (-149))
    else .fin (decide (bits / 2 ^ 31 % 2 = 1)) (2 ^ 23 + bits % 2 ^ 23) (((bits % 2 ^ 31 / 2 ^ 23 : Nat) : Int) - 150) := by
  have hexp (x : Int) : x - 127 - ((24 - 1 : Nat) : Int) = x - 150 := by omega
  unfold decodeF
  rw [if_pos (show fp32.wide = true from rfl)]
  show (if _ = 255 then _ else if _ = 0 then (if _ then _ else FVal.fin _ _ (-126 - ((24 - 1 : Nat) : Int)))
    else FVal.fin _ _ (_ - 127 - ((24 - 1 : Nat) : Int))) = _
  rw [hexp]
  rfl

/-- R95: a significand of FP32, and the exponent of its quantum. -/
def Fits32 (n : Nat) (q : Int) : Prop := -149 ≤ q ∧ q ≤ 104 ∧ n < 2 ^ 24 ∧ (-149 < q → 2 ^ 23 ≤ n)

section

variable {m n : Nat} {e q : Int} (hfit : Fits32 n q)
include hfit

/-- R101: a value that FP32 holds rounds to itself. -/
theorem roundF_exact (hm : m ≠ 0) (h : m * 2 ^ (e - q).toNat = n * 2 ^ (q - e).toNat) (rm : RMode) {ftz : Bool} (sat neg : Bool)
    (hftz : ftz = true → 2 ^ 23 ≤ n) : roundF fp32 rm ftz sat (.fin neg m e) = encodeQ fp32 neg n q := by
  obtain ⟨hlo, hhi, hlt, hnorm⟩ := hfit
  have hn : n ≠ 0 := by
    rintro rfl
    rw [Nat.zero_mul] at h
    exact Nat.mul_ne_zero hm (Nat.two_pow_pos _).ne' h
  have hlog : Nat.log2 n ≤ 23 := Nat.lt_succ_iff.mp ((Nat.log2_lt hn).mpr hlt)
  have hlog' : -149 < q → Nat.log2 n = 23 := fun hq => le_antisymm hlog ((Nat.le_log2 hn).mpr (hnorm hq))
  have hquantum : max (flog2 m e) (-126) - ((24 : Nat) : Int) + 1 = q := by
    rw [flog2_exact h hm, flog2]
    rcases eq_or_lt_of_le hlo with hq | hq
    · omega
    · rw [hlog' hq]
      omega
  unfold roundF
  dsimp only
  rw [decodeF_fp32_max, show fp32.p = 24 from rfl, show fp32.emin = -126 from rfl, hquantum, roundQ_exact h, if_neg hm]
  have hbig : (if q ≥ 104 then decide (n * 2 ^ (q - 104).toNat > 16777215) else decide (n > 16777215 * 2 ^ (104 - q).toNat)) = false := by
    split
    next h104 =>
      rw [show (q - 104).toNat = 0 by omega]
      exact decide_eq_false (by omega)
    next h104 =>
      have hpow : 1 ≤ 2 ^ (104 - q).toNat := Nat.one_le_two_pow
      exact decide_eq_false (by omega)
  dsimp only
  rw [if_neg (Bool.eq_false_iff.mp hbig), if_neg hn, if_neg fun hflush => absurd (hftz hflush.1) (by omega)]

/-- R95: a pattern of FP32 decodes to the value that it encodes. -/
theorem decodeF_encodeQ (neg : Bool) : decodeF fp32 false (encodeQ fp32 neg n q) = .fin neg n q := by
  obtain ⟨hlo, hhi, hlt, hnorm⟩ := hfit
  obtain ⟨x, rfl⟩ : ∃ x : Nat, q = x - 149 := ⟨(q + 149).toNat, by omega⟩
  have hsign : fp32.signBits neg = if neg then 2 ^ 31 else 0 := rfl
  have hbits : encodeQ fp32 neg n ((x : Int) - 149) = (if neg then 2 ^ 31 else 0) + (x * 2 ^ 23 + n) := by
    unfold encodeQ
    rw [show fp32.p = 24 from rfl, show fp32.bias = 127 from rfl, show ((x : Int) - 149 + ((24 : Nat) : Int) - 2 + 127).toNat = x by omega,
      hsign]
  have hneg : decide (((if neg then 2 ^ 31 else 0) + (x * 2 ^ 23 + n)) / 2 ^ 31 % 2 = 1) = neg := by
    cases neg
    · exact decide_eq_false (by rw [if_neg (by decide)]; omega)
    · exact decide_eq_true (by rw [if_pos rfl]; omega)
  have hlow : ((if neg then 2 ^ 31 else 0) + (x * 2 ^ 23 + n)) % 2 ^ 31 = x * 2 ^ 23 + n := by
    split <;> omega
  have hfrac : ((if neg then 2 ^ 31 else 0) + (x * 2 ^ 23 + n)) % 2 ^ 23 = n % 2 ^ 23 := by
    split <;> omega
  rw [hbits, decodeF_fp32, hneg, hlow, hfrac]
  by_cases hn : n < 2 ^ 23
  · obtain rfl : x = 0 := by omega
    rw [if_neg (by omega), if_pos (by omega), if_neg (by decide), Nat.mod_eq_of_lt hn]
    rfl
  · rw [if_neg (by omega), if_neg (by omega), show 2 ^ 23 + n % 2 ^ 23 = n by omega,
      show (((x * 2 ^ 23 + n) / 2 ^ 23 : Nat) : Int) - 150 = (x : Int) - 149 by omega]

end

/-- R95: what FP32 patterns hold. -/
theorem decodeF_fits {ftz neg : Bool} {bits m : Nat} {e : Int} (h : decodeF fp32 ftz bits = .fin neg m e) : m = 0 ∨ Fits32 m e := by
  have hexp : bits % 2 ^ 31 / 2 ^ 23 ≤ 255 := by omega
  rw [decodeF_fp32] at h
  split_ifs at h with htop hfrac hsub hflush
  · injection h with hneg hm he
    exact .inl hm.symm
  · injection h with hneg hm he
    subst hm he
    exact .inr ⟨by omega, by omega, by omega, by omega⟩
  · injection h with hneg hm he
    subst hm he
    exact .inr ⟨by omega, by omega, by omega, by omega⟩

/-- R95: the sign of a pattern of FP32, in place. -/
theorem signBits_fp32 {bits : Nat} (hb : bits < 2 ^ 32) :
    fp32.signBits (decide (bits / 2 ^ 31 % 2 = 1)) = bits / 2 ^ 31 * 2 ^ 31 := by
  show (if decide (bits / 2 ^ 31 % 2 = 1) = true then 2 ^ 31 else 0) = _
  simp only [decide_eq_true_eq]
  split <;> omega

theorem encodeQ_decodeF {neg : Bool} {bits m : Nat} {e : Int} (h : decodeF fp32 false bits = .fin neg m e) (hb : bits < 2 ^ 32) :
    encodeQ fp32 neg m e = bits := by
  have hval {b : Bool} {x n : Nat} {q : Int} (hq : q = x - 149) : encodeQ fp32 b n q = fp32.signBits b + (x * 2 ^ 23 + n) := by
    subst hq
    unfold encodeQ
    rw [show fp32.p = 24 from rfl, show fp32.bias = 127 from rfl,
      show ((x : Int) - 149 + ((24 : Nat) : Int) - 2 + 127).toNat = x by omega]
  rw [decodeF_fp32, if_neg (show ¬ false = true by decide)] at h
  split_ifs at h with htop hfrac hsub
  · injection h with hneg hm he
    subst hneg hm he
    rw [hval (x := 0) (by omega), signBits_fp32 hb]
    omega
  · injection h with hneg hm he
    subst hneg hm he
    rw [hval (x := bits % 2 ^ 31 / 2 ^ 23 - 1) (by omega), signBits_fp32 hb]
    omega

theorem zeroF_decodeF {neg : Bool} {bits : Nat} {e : Int} (h : decodeF fp32 false bits = .fin neg 0 e) (hb : bits < 2 ^ 32) :
    zeroF fp32 neg = bits := by
  rw [decodeF_fp32, if_neg (show ¬ false = true by decide)] at h
  split_ifs at h with htop hfrac hsub
  · injection h with hneg hm he
    subst hneg
    exact (signBits_fp32 hb).trans (by omega)
  · injection h with hneg hm he
    omega

theorem infF_decodeF {ftz neg : Bool} {bits : Nat} (h : decodeF fp32 ftz bits = .inf neg) (hb : bits < 2 ^ 32) :
    infF fp32 neg = bits := by
  rw [decodeF_fp32] at h
  split_ifs at h with htop hfrac
  injection h with hneg
  subst hneg
  show fp32.signBits _ + 255 * 2 ^ 23 = bits
  rw [signBits_fp32 hb]
  omega

theorem roundF_zero (f : FFmt) (rm : RMode) (ftz sat neg : Bool) (e : Int) : roundF f rm ftz sat (.fin neg 0 e) = zeroF f neg := by
  simp [roundF]

theorem roundF_inf (rm : RMode) (ftz neg : Bool) : roundF fp32 rm ftz false (.inf neg) = infF fp32 neg := by
  simp [roundF]

/-- R95, R101: a value that FP32 holds rounds back to its pattern. -/
theorem roundF_decodeF (rm : RMode) {bits : Nat} (hb : bits < 2 ^ 32) (hnan : decodeF fp32 false bits ≠ .nan) :
    roundF fp32 rm false false (decodeF fp32 false bits) = bits := by
  cases hx : decodeF fp32 false bits with
  | nan => exact absurd hx hnan
  | inf neg => rw [roundF_inf, infF_decodeF hx hb]
  | fin neg m e =>
    by_cases hm : m = 0
    · subst hm
      rw [roundF_zero, zeroF_decodeF hx hb]
    · rw [roundF_exact ((decodeF_fits hx).resolve_left hm) hm rfl rm false neg (fun h => absurd h (by decide)), encodeQ_decodeF hx hb]

end Sys2Proof.Machine
end


section
/-! SUPPORT. Rounding to an integer, as a relation (R101). -/

namespace Sys2Proof.Machine

section

variable {rm : RMode} {u n : Int} {k : Nat}

theorem roundsTo_exact (h : u = n * 2 ^ k) : RoundsTo rm u k n := by
  subst h
  have hpow : (0 : Int) < 2 ^ k := by positivity
  cases rm with
  | rne =>
    refine ⟨by simp, fun h => ?_⟩
    rw [sub_self, Int.natAbs_zero, Nat.mul_zero] at h
    omega
  | rtz =>
    refine ⟨?_, le_refl _, ?_⟩
    · rw [← mul_assoc]
      exact mul_nonneg (mul_self_nonneg n) hpow.le
    · omega
  | rdn => exact ⟨le_refl _, by rw [add_mul]; omega⟩
  | rup => exact ⟨by rw [sub_mul]; omega, le_refl _⟩

theorem roundsTo_scale (j : Nat) (h : RoundsTo rm u k n) : RoundsTo rm (u * 2 ^ j) (k + j) n := by
  have hpow : (0 : Int) < 2 ^ j := by positivity
  have hdist : u * 2 ^ j - n * 2 ^ (k + j) = (u - n * 2 ^ k) * 2 ^ j := by ring
  have hP : ((2 : Int) ^ j).natAbs ≠ 0 := by omega
  cases rm with
  | rne =>
    obtain ⟨hle, heven⟩ := h
    refine ⟨?_, fun hh => heven ?_⟩
    · show 2 * (u * 2 ^ j - n * 2 ^ (k + j)).natAbs ≤ ((2 : Int) ^ (k + j)).natAbs
      rw [hdist, pow_add, Int.natAbs_mul, Int.natAbs_mul, ← mul_assoc]
      exact Nat.mul_le_mul_right _ hle
    · rw [hdist, pow_add, Int.natAbs_mul, Int.natAbs_mul, ← mul_assoc] at hh
      exact Nat.eq_of_mul_eq_mul_right (Nat.pos_of_ne_zero hP) hh
  | rtz =>
    obtain ⟨hsign, hle, hlt⟩ := h
    have hnd : n * 2 ^ (k + j) = n * 2 ^ k * 2 ^ j := by ring
    refine ⟨?_, ?_, ?_⟩
    · show 0 ≤ n * (u * 2 ^ j)
      rw [← mul_assoc]
      exact mul_nonneg hsign hpow.le
    · show (n * 2 ^ (k + j)).natAbs ≤ (u * 2 ^ j).natAbs
      rw [hnd, Int.natAbs_mul, Int.natAbs_mul u]
      exact Nat.mul_le_mul_right _ hle
    · show (u * 2 ^ j).natAbs < (n * 2 ^ (k + j)).natAbs + ((2 : Int) ^ (k + j)).natAbs
      rw [hnd, pow_add, Int.natAbs_mul, Int.natAbs_mul (n * 2 ^ k), Int.natAbs_mul (2 ^ k), ← add_mul]
      exact Nat.mul_lt_mul_of_pos_right hlt (Nat.pos_of_ne_zero hP)
  | rdn =>
    obtain ⟨hle, hlt⟩ := h
    refine ⟨?_, ?_⟩
    · show n * 2 ^ (k + j) ≤ u * 2 ^ j
      rw [pow_add, ← mul_assoc]
      exact mul_le_mul_of_nonneg_right hle hpow.le
    · show u * 2 ^ j < (n + 1) * 2 ^ (k + j)
      rw [pow_add, ← mul_assoc]
      exact mul_lt_mul_of_pos_right hlt hpow
  | rup =>
    obtain ⟨hlt, hle⟩ := h
    refine ⟨?_, ?_⟩
    · show (n - 1) * 2 ^ (k + j) < u * 2 ^ j
      rw [pow_add, ← mul_assoc]
      exact mul_lt_mul_of_pos_right hlt hpow
    · show u * 2 ^ j ≤ n * 2 ^ (k + j)
      rw [pow_add, ← mul_assoc]
      exact mul_le_mul_of_nonneg_right hle hpow.le

end

/-- R101: the four roundings of m = n · d + r, where r < d, by the size of the result. -/
def roundParts (rm : RMode) (neg : Bool) (n r d : Nat) : Nat :=
  match rm with
  | .rne => if 2 * r < d then n else if 2 * r > d then n + 1 else n + n % 2
  | .rtz => n
  | .rdn => if neg ∧ r ≠ 0 then n + 1 else n
  | .rup => if ¬neg ∧ r ≠ 0 then n + 1 else n

theorem roundQ_parts (rm : RMode) (neg : Bool) (m : Nat) {k : Nat} (hk : 0 < k) :
    roundQ rm neg m (-(k : Int)) 0 = roundParts rm neg (m / 2 ^ k) (m % 2 ^ k) (2 ^ k) := by
  unfold roundQ
  rw [if_neg (by omega), show (0 - -(k : Int)).toNat = k by omega]
  cases rm <;> rfl

section

variable {neg : Bool} {m n r k : Nat} (hm : m = n * 2 ^ k + r) (hr : r < 2 ^ k)
include hm hr

theorem roundsTo_rne : RoundsTo .rne (signedI neg m) k (signedI neg (roundParts .rne neg n r (2 ^ k))) := by
  have hdist (N : Nat) : (signedI neg m - signedI neg N * 2 ^ k).natAbs = ((m : Int) - ((N * 2 ^ k : Nat) : Int)).natAbs := by
    cases neg
    · simp [signedI]
    · rw [← Int.natAbs_neg]
      simp [signedI, add_comm, sub_eq_add_neg]
  have heven (N : Nat) : signedI neg N % 2 = 0 ↔ N % 2 = 0 := by
    cases neg <;> simp only [signedI] <;> omega
  have hpow : ((2 : Int) ^ k).natAbs = 2 ^ k := by rw [Int.natAbs_pow]; rfl
  show 2 * (signedI neg m - signedI neg _ * 2 ^ k).natAbs ≤ ((2 : Int) ^ k).natAbs ∧
    (2 * (signedI neg m - signedI neg _ * 2 ^ k).natAbs = ((2 : Int) ^ k).natAbs → _)
  rw [hdist, heven, hpow]
  have hup : (n + 1) * 2 ^ k = n * 2 ^ k + 2 ^ k := Nat.succ_mul _ _
  unfold roundParts
  dsimp only
  generalize 2 ^ k = d at *
  generalize hD : n * d = D at *
  split_ifs with hlow hhigh
  · rw [hD]
    omega
  · rw [hup]
    omega
  · rcases Nat.mod_two_eq_zero_or_one n with hp | hp
    · rw [hp, Nat.add_zero, hD]
      omega
    · rw [hp, hup]
      omega

theorem roundsTo_rtz : RoundsTo .rtz (signedI neg m) k (signedI neg n) := by
  have hpow : ((2 : Int) ^ k).natAbs = 2 ^ k := by rw [Int.natAbs_pow]; rfl
  refine ⟨?_, ?_, ?_⟩
  · have hprod : signedI neg n * signedI neg m = ((n * m : Nat) : Int) := by cases neg <;> simp [signedI]
    rw [hprod]
    exact Int.natCast_nonneg _
  · rw [Int.natAbs_mul, natAbs_signedI, natAbs_signedI, hpow]
    omega
  · rw [Int.natAbs_mul, natAbs_signedI, natAbs_signedI, hpow]
    omega

/-- R101: a rounding away from a bound, of the values at or above it. -/
theorem between_parts : ((n : Int) * 2 ^ k ≤ m ∧ (m : Int) < (n + 1) * 2 ^ k) ∧
    (((if r ≠ 0 then n + 1 else n : Nat) : Int) - 1) * 2 ^ k < m ∧ (m : Int) ≤ (if r ≠ 0 then n + 1 else n : Nat) * 2 ^ k := by
  have hcast : (m : Int) = n * 2 ^ k + r := by rw [hm]; push_cast; rfl
  have hr' : (r : Int) < 2 ^ k := by exact_mod_cast hr
  rw [add_mul, one_mul, sub_mul, one_mul]
  split_ifs with h
  · push_cast
    rw [add_mul, one_mul]
    omega
  · omega

theorem roundsTo_rdn : RoundsTo .rdn (signedI neg m) k (signedI neg (roundParts .rdn neg n r (2 ^ k))) := by
  obtain ⟨⟨hle, hlt⟩, hlt', hle'⟩ := between_parts hm hr
  cases neg with
  | false => exact ⟨hle, hlt⟩
  | true =>
    have hparts : roundParts .rdn true n r (2 ^ k) = if r ≠ 0 then n + 1 else n := by simp [roundParts]
    rw [hparts]
    generalize (if r ≠ 0 then n + 1 else n) = N at hlt' hle'
    show -(N : Int) * 2 ^ k ≤ -(m : Int) ∧ -(m : Int) < (-(N : Int) + 1) * 2 ^ k
    rw [sub_mul, one_mul] at hlt'
    rw [add_mul, one_mul, neg_mul]
    omega

theorem roundsTo_rup : RoundsTo .rup (signedI neg m) k (signedI neg (roundParts .rup neg n r (2 ^ k))) := by
  obtain ⟨⟨hle, hlt⟩, hlt', hle'⟩ := between_parts hm hr
  cases neg with
  | false =>
    have hparts : roundParts .rup false n r (2 ^ k) = if r ≠ 0 then n + 1 else n := by simp [roundParts]
    rw [hparts]
    exact ⟨hlt', hle'⟩
  | true =>
    show (-(n : Int) - 1) * 2 ^ k < -(m : Int) ∧ -(m : Int) ≤ -(n : Int) * 2 ^ k
    rw [add_mul, one_mul] at hlt
    rw [sub_mul, one_mul, neg_mul]
    omega

end

/-- R101: the rounding of m / 2^k. -/
theorem roundsTo_roundQ (rm : RMode) (neg : Bool) (m k : Nat) :
    RoundsTo rm (signedI neg m) k (signedI neg (roundQ rm neg m (-(k : Int)) 0)) := by
  rcases Nat.eq_zero_or_pos k with rfl | hk
  · refine roundsTo_exact ?_
    rw [roundQ_exact (n := m) (by simp), pow_zero, mul_one]
  · have hm : m = m / 2 ^ k * 2 ^ k + m % 2 ^ k := (Nat.div_add_mod' m (2 ^ k)).symm
    have hr : m % 2 ^ k < 2 ^ k := Nat.mod_lt _ (Nat.two_pow_pos k)
    rw [roundQ_parts rm neg m hk]
    cases rm with
    | rne => exact roundsTo_rne hm hr
    | rtz => exact roundsTo_rtz hm hr
    | rdn => exact roundsTo_rdn hm hr
    | rup => exact roundsTo_rup hm hr

/-- R101, R103: the rounding of a finite value to an integer. -/
theorem roundsTo_roundI (rm : RMode) {neg : Bool} {m k : Nat} {e u : Int} (h : (FVal.fin neg m e).scaled (-(k : Int)) = some u) :
    RoundsTo rm u k (roundI rm neg m e) := by
  obtain ⟨hor, rfl⟩ := FVal.scaled_fin.mp h
  unfold roundI
  by_cases he : 0 ≤ e
  · have hexact : m * 2 ^ (e - 0).toNat = m * 2 ^ (e - 0).toNat * 2 ^ (0 - e).toNat := by
      rw [show (0 - e).toNat = 0 by omega, pow_zero, Nat.mul_one]
    refine roundsTo_exact ?_
    rw [roundQ_exact hexact, signedI_mul, show (e - -(k : Int)).toNat = (e - 0).toNat + k by omega, pow_add]
    push_cast
    ring
  · obtain ⟨i, rfl⟩ : ∃ i : Nat, e = -(i : Int) := ⟨(-e).toNat, by omega⟩
    rcases hor with rfl | hk
    · refine roundsTo_exact ?_
      rw [roundQ_exact (n := 0) (by simp), signedI_zero, zero_mul, zero_mul]
    · obtain ⟨j, rfl⟩ : ∃ j, k = i + j := ⟨k - i, by omega⟩
      rw [show (-(i : Int) - -((i + j : Nat) : Int)).toNat = j by omega]
      exact roundsTo_scale j (roundsTo_roundQ rm neg m i)

end Sys2Proof.Machine
end


section
/-! SUPPORT. Elements of w bits under the integer operations (R100, R108, R319), and saturation (R100). -/

namespace Sys2Proof.Machine

section

variable {w : Nat} (x y : BitVec w)

theorem ofNat_shlN (k : Nat) : BitVec.ofNat w (shlN w x.toNat k) = x <<< k := by
  apply BitVec.eq_of_toNat_eq
  unfold shlN
  split
  next hk => simp [Nat.shiftLeft_eq]
  next hk =>
    obtain ⟨d, rfl⟩ := Nat.exists_eq_add_of_le (not_lt.mp hk)
    simp

theorem ofNat_shrN (k : Nat) : BitVec.ofNat w (shrN w x.toNat k) = x >>> k := by
  have hx := x.isLt
  apply BitVec.eq_of_toNat_eq
  rw [BitVec.toNat_ofNat, BitVec.toNat_ushiftRight, Nat.shiftRight_eq_div_pow]
  unfold shrN
  split
  next hk => rw [Nat.mod_eq_of_lt hx, Nat.mod_eq_of_lt (Nat.lt_of_le_of_lt (Nat.div_le_self _ _) hx)]
  next hk => rw [Nat.div_eq_of_lt (hx.trans_le (Nat.pow_le_pow_right (by decide) (not_lt.mp hk))), Nat.zero_mod]

/-- A signed pattern shifted right by its width or more. -/
theorem toInt_ediv_large {k : Nat} (hk : w ≤ k) : x.toInt / 2 ^ k = if x.toInt < 0 then -1 else 0 := by
  have hlo := BitVec.le_toInt x
  have hhi := BitVec.toInt_lt (x := x)
  have hmono : (2 : Int) ^ (w - 1) ≤ 2 ^ k := pow_le_pow_right₀ (by decide) (by omega)
  generalize (2 : Int) ^ k = q at hmono
  split
  next hneg =>
    rw [Int.ediv_eq_iff_of_pos (by omega)]
    omega
  next hpos => exact Int.ediv_eq_zero_of_lt (by omega) (by omega)

theorem ofNat_sraN (hw : 0 < w) (k : Nat) : BitVec.ofNat w (sraN w x.toNat k) = x.sshiftRight k := by
  have hshift : x.sshiftRight k = BitVec.ofInt w (x.toInt / 2 ^ k) := by
    rw [← BitVec.ofInt_toInt (x := x.sshiftRight k), BitVec.toInt_sshiftRight, Int.shiftRight_eq_div_pow]
    rfl
  rw [hshift]
  unfold sraN
  rw [sextN_toInt hw]
  split
  next hk =>
    rw [truncI_toInt, Int.fdiv_eq_ediv_of_nonneg _ (by positivity)]
    rfl
  next hk =>
    rw [toInt_ediv_large x (not_lt.mp hk)]
    split
    · rw [BitVec.ofInt_neg, BitVec.ofInt_ofNat, BitVec.neg_one_eq_allOnes]
      exact BitVec.eq_of_toNat_eq (by simp)
    · rfl

/-- R319, R348: the lesser or the greater of two elements. -/
theorem ofNat_pickN (hw : 0 < w) (least signed : Bool) : BitVec.ofNat w (pickN w least signed x.toNat y.toNat) =
    if (if signed then x.slt y else x.ult y) = least then x else y := by
  have hlt : (if signed then decide (sextN w x.toNat < sextN w y.toNat) else decide (x.toNat < y.toNat)) =
      if signed then x.slt y else x.ult y := by
    rw [sextN_toInt hw, sextN_toInt hw]
    rfl
  unfold pickN
  dsimp only
  rw [hlt, apply_ite (BitVec.ofNat w), BitVec.ofNat_toNat, BitVec.ofNat_toNat, BitVec.setWidth_eq, BitVec.setWidth_eq]

/-- R319, R348: whether an element comes before another or equals it. -/
def comesFirst (signed : Bool) : Bool := if signed then x.sle y else decide (x ≤ y)

theorem comesFirst_iff (signed : Bool) :
    comesFirst x y signed = true ↔ (if signed then x.slt y else x.ult y) = true ∨ x = y := by
  cases signed
  · show decide (x.toNat ≤ y.toNat) = true ↔ decide (x.toNat < y.toNat) = true ∨ x = y
    rw [decide_eq_true_iff, decide_eq_true_iff, ← BitVec.toNat_inj]
    exact le_iff_lt_or_eq
  · show decide (x.toInt ≤ y.toInt) = true ↔ decide (x.toInt < y.toInt) = true ∨ x = y
    rw [decide_eq_true_iff, decide_eq_true_iff, ← BitVec.toInt_inj]
    exact le_iff_lt_or_eq

theorem ofNat_pickN_least (hw : 0 < w) (signed : Bool) :
    BitVec.ofNat w (pickN w true signed x.toNat y.toNat) = if comesFirst x y signed then x else y := by
  rw [ofNat_pickN x y hw]
  by_cases heq : x = y
  · rw [heq, ite_self, ite_self]
  · simp only [comesFirst_iff, heq, or_false]

theorem ofNat_pickN_greatest (hw : 0 < w) (signed : Bool) :
    BitVec.ofNat w (pickN w false signed x.toNat y.toNat) = if comesFirst x y signed then y else x := by
  rw [ofNat_pickN x y hw]
  by_cases heq : x = y
  · rw [heq, ite_self, ite_self]
  · simp only [comesFirst_iff, heq, or_false]
    cases (if signed then x.slt y else x.ult y) <;> rfl

end

/-- R100: the signed saturation of an integer. -/
theorem satS_eq (x : Int) (n : Nat) : satS x n = (clampTo (-(2 ^ (n - 1))) (2 ^ (n - 1) - 1) x,
    decide (x < -(2 ^ (n - 1)) ∨ 2 ^ (n - 1) - 1 < x)) := by
  have hpow : (0 : Int) < 2 ^ (n - 1) := by positivity
  unfold satS clampTo
  push_cast
  split_ifs with hlo hhi
  · rw [max_eq_left (by omega), decide_eq_true (.inl hlo)]
  · rw [min_eq_left (by omega), max_eq_right (by omega), decide_eq_true (.inr hhi)]
  · rw [min_eq_right (by omega), max_eq_right (by omega), decide_eq_false (by omega)]

/-- R100: the unsigned saturation. -/
theorem satU_eq (x : Int) (n : Nat) : satU x n = (clampTo 0 (2 ^ n - 1) x, decide (x < 0 ∨ 2 ^ n - 1 < x)) := by
  have hpow : (0 : Int) < 2 ^ n := by positivity
  unfold satU clampTo
  push_cast
  split_ifs with hlo hhi
  · rw [max_eq_left (by omega), decide_eq_true (.inl hlo)]
  · rw [min_eq_left (by omega), max_eq_right (by omega), decide_eq_true (.inr hhi)]
  · rw [min_eq_right (by omega), max_eq_right (by omega), decide_eq_false (by omega)]

theorem wordS_satS (x : Int) : wordS (satS x 32) = clamped (-(2 ^ 31)) (2 ^ 31 - 1) x := by
  rw [satS_eq]
  rfl

theorem wordS_satU (x : Int) : wordS (satU x 32) = clamped 0 (2 ^ 32 - 1) x := by
  rw [satU_eq]
  rfl

section

variable (x : Lane)

/-- R100: an element of a word. -/
theorem elemN_elemAt (w i : Nat) : elemN x.toNat w i = (elemAt w x i).toNat := by
  rw [elemAt, BitVec.extractLsb'_toNat, Nat.shiftRight_eq_div_pow]
  rfl

end

/-- R97: an element of elements put side by side. -/
theorem elemN_joinN {w : Nat} {l : List Nat} {i : Nat} (hi : i < l.length) : elemN (joinN w l) w i = l[i] % 2 ^ w := by
  induction l generalizing i with
  | nil => cases hi
  | cons x t ih =>
    have hx : x % 2 ^ w < 2 ^ w := Nat.mod_lt _ (Nat.two_pow_pos w)
    cases i with
    | zero => simp [elemN, joinN]
    | succ i =>
      rw [elemN, joinN, Nat.mul_succ, Nat.add_comm (w * i), pow_add, ← Nat.div_div_eq_div_mul,
        Nat.add_mul_div_left _ _ (Nat.two_pow_pos w), Nat.div_eq_of_lt hx, Nat.zero_add]
      exact ih (Nat.lt_of_succ_lt_succ hi)

theorem joinN_lt (w : Nat) (l : List Nat) : joinN w l < 2 ^ (w * l.length) := by
  induction l with
  | nil => simp [joinN]
  | cons x t ih =>
    have hx : x % 2 ^ w < 2 ^ w := Nat.mod_lt _ (Nat.two_pow_pos w)
    have hmul := Nat.mul_le_mul_left (2 ^ w) (Nat.succ_le_of_lt ih)
    rw [joinN, List.length_cons, Nat.mul_succ, Nat.add_comm, pow_add, Nat.mul_comm (2 ^ (w * t.length))]
    rw [Nat.mul_succ] at hmul
    omega

/-- R97: an element of a word made of elements. -/
theorem elemAt_joinN {w : Nat} {l : List Nat} (hl : w * l.length ≤ 32) {i : Nat} (hi : i < l.length) :
    elemAt w (BitVec.ofNat 32 (joinN w l)) i = BitVec.ofNat w l[i] := by
  have hlt : joinN w l < 2 ^ 32 := (joinN_lt w l).trans_le (Nat.pow_le_pow_right (by decide) hl)
  apply BitVec.eq_of_toNat_eq
  rw [← elemN_elemAt, BitVec.toNat_ofNat, Nat.mod_eq_of_lt hlt, elemN_joinN hi, BitVec.toNat_ofNat]

/-- R319: an element of a packed operation. -/
theorem elemAt_packedLane (w : Nat) (f : Nat → Nat → Nat) (a b : Lane) {i : Nat} (hi : i < 32 / w) :
    elemAt w (packedLane w f a b).val i = BitVec.ofNat w (f (elemAt w a i).toNat (elemAt w b i).toNat) := by
  have hlen : ((List.range (32 / w)).map fun i => f (elemN a.toNat w i) (elemN b.toNat w i)).length = 32 / w := by simp
  refine (elemAt_joinN (by rw [hlen]; exact Nat.mul_div_le 32 w) (by rw [hlen]; exact hi)).trans ?_
  rw [List.getElem_map, List.getElem_range, elemN_elemAt, elemN_elemAt]

end Sys2Proof.Machine
end


section
/-! SUPPORT. What a lane of the integer instructions computes (R316 to R323, R326, R347, R348). -/

namespace Sys2Proof.Machine

theorem wordN_toNat (x : Lane) : wordN x.toNat = word x := by
  rw [wordN, BitVec.ofNat_toNat, BitVec.setWidth_eq]

section

variable {ext : BitVec 8} (fmt : BitVec 32) (a b c : Lane) (p : Bool)

/-- R317: the saturating sums and differences. -/
theorem addLane_sat {mode : Nat} (h : mode = 1 ∨ mode = 2) :
    let pick := fun (x y : Int) => if mode = 1 then clamped (-(2 ^ 31)) (2 ^ 31 - 1) x else clamped 0 (2 ^ 32 - 1) y
    addLane false mode a b = pick (a.toInt + b.toInt) (a.toNat + b.toNat) ∧
      addLane true mode a b = pick (a.toInt - b.toInt) (a.toNat - b.toNat) := by
  rcases h with rfl | rfl
  · constructor
    · exact (wordS_satS _).trans (by rw [if_neg (by decide), one_mul]; rfl)
    · exact (wordS_satS _).trans (by rw [if_pos rfl, neg_one_mul, ← sub_eq_add_neg]; rfl)
  · constructor
    · exact (wordS_satU _).trans (by rw [if_neg (by decide), one_mul]; rfl)
    · exact (wordS_satU _).trans (by rw [if_pos rfl, neg_one_mul, ← sub_eq_add_neg]; rfl)

/-- R347: the high half of a product, by 64-bit factors. -/
theorem wordI_high (x y : Int) :
    wordI (Int.fdiv (x * y) ((2 ^ 32 : Nat) : Int)) = word ((BitVec.ofInt 64 x * BitVec.ofInt 64 y).extractLsb' 32 32) := by
  rw [← BitVec.ofInt_mul, Int.fdiv_eq_ediv_of_nonneg _ (by positivity)]
  generalize x * y = z
  refine congrArg word (BitVec.eq_of_toNat_eq ?_)
  simp only [BitVec.toNat_ofInt, BitVec.extractLsb'_toNat, Nat.shiftRight_eq_div_pow]
  omega

theorem mulhLane_eq {mode : Nat} (h : mode < 4) : mulhLane mode a b =
    word (((if mode % 2 = 0 then a.signExtend 64 else a.zeroExtend 64) *
      (if mode = 0 ∨ mode = 3 then b.signExtend 64 else b.zeroExtend 64)).extractLsb' 32 32) := by
  have hext (c : Prop) [Decidable c] (x : Lane) :
      BitVec.ofInt 64 (if c then x.toInt else (x.toNat : Int)) = if c then x.signExtend 64 else x.zeroExtend 64 := by
    split
    · rfl
    · exact ofInt_toNat x
  unfold mulhLane
  dsimp only
  rw [wordI_high, hext, hext]
  interval_cases mode <;> rfl

/-- R318: the sum with a carry. -/
theorem addcLane_eq : laneEval .addc ext fmt a b c p =
    ⟨a + b + (if p then 1 else 0), decide (2 ^ 32 ≤ a.toNat + b.toNat + (if p then 1 else 0)), false⟩ := by
  have hval : BitVec.ofNat 32 (a.toNat + b.toNat + p.toNat) = a + b + (if p then 1 else 0) := by
    rw [BitVec.ofNat_add, BitVec.ofNat_add, BitVec.ofNat_toNat, BitVec.ofNat_toNat, BitVec.setWidth_eq, BitVec.setWidth_eq]
    cases p <;> rfl
  show LaneOut.mk (BitVec.ofNat 32 _) (carryOut a b p) false = _
  rw [hval]
  cases p <;> rfl

/-- R348: the lesser and the greater of two words. -/
theorem pickLane_eq (signed : Bool) : wordN (pickN 32 true signed a.toNat b.toNat) = word (if comesFirst a b signed then a else b) ∧
    wordN (pickN 32 false signed a.toNat b.toNat) = word (if comesFirst a b signed then b else a) :=
  ⟨congrArg word (ofNat_pickN_least a b (by decide) signed), congrArg word (ofNat_pickN_greatest a b (by decide) signed)⟩

theorem comesFirst_unsigned : comesFirst a b false = true ↔ a ≤ b := decide_eq_true_iff

theorem wordN_shift (k : Nat) : wordN (shlN 32 a.toNat k) = word (a <<< k) ∧ wordN (shrN 32 a.toNat k) = word (a >>> k) ∧
    wordN (sraN 32 a.toNat k) = word (a.sshiftRight k) :=
  ⟨congrArg word (ofNat_shlN a k), congrArg word (ofNat_shrN a k), congrArg word (ofNat_sraN a (by decide) k)⟩

/-- R316: the magnitude and the negative of a word, wrapped. -/
theorem negLane_wraps : satLane false (if a.toInt < 0 then -a.toInt else a.toInt) = word (if a.slt 0 then -a else a) ∧
    satLane false (-a.toInt) = word (-a) := by
  have hneg : BitVec.ofInt 32 (-a.toInt) = -a := by rw [BitVec.ofInt_neg, BitVec.ofInt_toInt]
  refine ⟨?_, congrArg word hneg⟩
  have hslt : a.slt 0 = decide (a.toInt < 0) := rfl
  show word (BitVec.ofInt 32 (if a.toInt < 0 then -a.toInt else a.toInt)) = _
  rw [hslt]
  split
  next h => rw [hneg, decide_eq_true h, if_pos rfl]
  next h => rw [BitVec.ofInt_toInt, decide_eq_false h, if_neg (by decide)]

/-- R316: saturated, they differ for the least word alone. -/
theorem negLane_saturates :
    (a = 0x80000000 → satLane true (if a.toInt < 0 then -a.toInt else a.toInt) = ⟨0x7FFFFFFF, false, true⟩ ∧
      satLane true (-a.toInt) = ⟨0x7FFFFFFF, false, true⟩) ∧
    (a ≠ 0x80000000 → satLane true (if a.toInt < 0 then -a.toInt else a.toInt) = word (if a.slt 0 then -a else a) ∧
      satLane true (-a.toInt) = word (-a)) := by
  refine ⟨fun h => ?_, fun h => ?_⟩
  · subst h
    decide
  · have hlo := BitVec.le_toInt a
    have hhi := BitVec.toInt_lt (x := a)
    have hne : a.toInt ≠ -(2 ^ 31) := fun heq => h (BitVec.toInt_inj.mp heq)
    have hwrap (r : Int) (hr : -(2 ^ 31) ≤ r ∧ r < 2 ^ 31) : satLane true r = satLane false r := by
      show wordS (satS r 32) = wordI r
      rw [satS, if_neg (by push_cast; omega), if_neg (by push_cast; omega)]
      rfl
    obtain ⟨habs, hneg⟩ := negLane_wraps a
    rw [← habs, ← hneg]
    refine ⟨hwrap _ ?_, hwrap _ (by omega)⟩
    split <;> omega

/-- R321: a field taken with its sign. -/
theorem getLsbD_field_signed {w : Nat} (hw : 0 < w) (hw32 : w ≤ 32) (k : Nat) {i : Nat} (hi : i < 32) :
    (BitVec.ofInt 32 (sextN w (truncI (Int.fdiv a.toInt ((2 ^ k : Nat) : Int)) w))).getLsbD i =
      (a.sshiftRight k).getLsbD (min i (w - 1)) := by
  have hfield : truncI (Int.fdiv a.toInt ((2 ^ k : Nat) : Int)) w = ((a.sshiftRight k).setWidth w).toNat := by
    have hofInt : (a.sshiftRight k).setWidth w = BitVec.ofInt w (a.toInt / 2 ^ k) := by
      rw [← BitVec.signExtend_eq_setWidth_of_le _ hw32]
      show BitVec.ofInt w (a.sshiftRight k).toInt = _
      rw [BitVec.toInt_sshiftRight, Int.shiftRight_eq_div_pow]
      rfl
    rw [hofInt, Int.fdiv_eq_ediv_of_nonneg _ (by positivity), BitVec.toNat_ofInt]
    rfl
  rw [hfield, sextN_toInt hw]
  show (((a.sshiftRight k).setWidth w).signExtend 32).getLsbD i = _
  rw [BitVec.getLsbD_signExtend, decide_eq_true hi, Bool.true_and]
  split
  next h => rw [min_eq_left (by omega), BitVec.getLsbD_setWidth, decide_eq_true h, Bool.true_and]
  next h =>
    rw [min_eq_right (by omega), BitVec.msb_eq_getLsbD_last, BitVec.getLsbD_setWidth, decide_eq_true (by omega), Bool.true_and]

/-- R321: VBFE, by its bits. -/
theorem bfeLane_bits (sx : Bool) {i : Nat} (hi : i < 32) : (bfeLane sx a b).val.getLsbD i =
    if sx then decide (0 < (fieldPos b).2) && (a.sshiftRight (fieldPos b).1).getLsbD (min i ((fieldPos b).2 - 1))
    else decide (i < (fieldPos b).2) && a.getLsbD (i + (fieldPos b).1) := by
  have hlen : (fieldPos b).2 ≤ 32 := min_le_right _ _
  generalize hpos : (fieldPos b).1 = k
  generalize hw : (fieldPos b).2 = w at hlen
  unfold bfeLane
  dsimp only
  rw [hpos, hw]
  cases sx with
  | true =>
    by_cases hzero : w = 0
    · subst hzero
      simp [wordN, word, truncI]
    · have hw0 : 0 < w := Nat.pos_of_ne_zero hzero
      rw [if_pos ⟨rfl, hw0⟩, decide_eq_true hw0, Bool.true_and]
      exact getLsbD_field_signed a hw0 hlen k hi
  | false =>
    have htrunc : truncI (Int.fdiv (a.toNat : Int) ((2 ^ k : Nat) : Int)) w = a.toNat / 2 ^ k % 2 ^ w := by
      rw [Int.fdiv_eq_ediv_of_nonneg _ (by positivity)]
      exact Int.toNat_natCast _
    rw [if_neg (by simp)]
    show (BitVec.ofNat 32 (truncI (Int.fdiv (a.toNat : Int) ((2 ^ k : Nat) : Int)) w)).getLsbD i = _
    rw [htrunc, BitVec.getLsbD_ofNat, decide_eq_true hi, Bool.true_and, Nat.testBit_mod_two_pow, Nat.testBit_div_two_pow]
    rfl

/-- R321: VBFI, by its bits. -/
theorem bfiLane_bits {i : Nat} (hi : i < 32) : (bfiLane a b c).val.getLsbD i =
    if (fieldPos b).1 ≤ i ∧ i < (fieldPos b).1 + (fieldPos b).2 then a.getLsbD (i - (fieldPos b).1) else c.getLsbD i := by
  generalize hpos : (fieldPos b).1 = k
  generalize hw : (fieldPos b).2 = w
  have hmask : (BitVec.ofNat 32 ((2 ^ w - 1) * 2 ^ k)).getLsbD i = (decide (k ≤ i) && decide (i < k + w)) := by
    rw [BitVec.getLsbD_ofNat, decide_eq_true hi, Bool.true_and, Nat.testBit_mul_two_pow, Nat.testBit_two_pow_sub_one]
    rw [Bool.eq_iff_iff]
    simp only [Bool.and_eq_true, decide_eq_true_eq]
    omega
  have hval : (BitVec.ofNat 32 (a.toNat * 2 ^ k)).getLsbD i = (decide (k ≤ i) && a.getLsbD (i - k)) := by
    rw [BitVec.getLsbD_ofNat, decide_eq_true hi, Bool.true_and, Nat.testBit_mul_two_pow]
    rfl
  unfold bfiLane
  dsimp only [word]
  rw [hpos, hw, BitVec.getLsbD_or, BitVec.getLsbD_and, BitVec.getLsbD_and, BitVec.getLsbD_not, hmask, hval,
    decide_eq_true hi, Bool.true_and]
  by_cases hk : k ≤ i <;> by_cases hkw : i < k + w <;> simp [hk, hkw]

/-- R259: a comparison of two words, as that of the words extended. -/
theorem condHolds_word {k : Nat} (hk : k ≤ 9) : condHolds 32 k a.toNat b.toNat =
    if k ≤ 5 then related k (a.signExtend 64) (b.signExtend 64) else related k (a.zeroExtend 64) (b.zeroExtend 64) := by
  have hsigned (x : Lane) : (x.signExtend 64).toInt = x.toInt := BitVec.toInt_signExtend_of_le (by decide)
  have hunsigned (x : Lane) : (x.zeroExtend 64).toNat = x.toNat := BitVec.toNat_setWidth_of_le (by decide)
  have hinj : a.signExtend 64 = b.signExtend 64 ↔ a.toNat = b.toNat := by
    rw [← BitVec.toInt_inj, hsigned, hsigned, BitVec.toInt_inj, BitVec.toNat_inj]
  have hmod (x : Lane) : x.toNat % 2 ^ 32 = x.toNat := Nat.mod_eq_of_lt x.isLt
  unfold condHolds
  rw [sextN_toInt (by decide), sextN_toInt (by decide), hmod, hmod, ← hsigned a, ← hsigned b, ← hunsigned a, ← hunsigned b]
  rw [← hunsigned a, ← hunsigned b] at hinj
  interval_cases k
  · exact decide_eq_decide.mpr hinj.symm
  · exact (decide_eq_decide.mpr (not_congr hinj.symm)).trans decide_not
  all_goals simp [related, BitVec.slt, BitVec.sle, BitVec.ult, BitVec.ule]

end

end Sys2Proof.Machine
end


section
/-! SUPPORT. Dot products, packing and unpacking (R109, R326, R351). -/

namespace Sys2Proof.Machine

/-- R97: two halves side by side. -/
theorem ofNat_joinN_pair (x y : BitVec 16) : BitVec.ofNat 32 (joinN 16 [x.toNat, y.toNat]) = y ++ x := by
  apply BitVec.eq_of_toNat_eq
  have hx := x.isLt
  have hy := y.isLt
  rw [toNat_prefixed, BitVec.toNat_ofNat]
  simp only [joinN]
  omega

/-- R97: four bytes side by side. -/
theorem ofNat_joinN_quad (x y z u : BitVec 8) :
    BitVec.ofNat 32 (joinN 8 [x.toNat, y.toNat, z.toNat, u.toNat]) = u ++ z ++ y ++ x := by
  apply BitVec.eq_of_toNat_eq
  have hx := x.isLt
  have hy := y.isLt
  have hz := z.isLt
  have hu := u.isLt
  rw [toNat_prefixed, toNat_prefixed, toNat_prefixed, BitVec.toNat_ofNat]
  simp only [joinN]
  omega

/-- R351: an element clamped to a narrow format. -/
theorem narrowed_signed {n : Nat} (x : Int) :
    (truncI (satS x n).1 n, (satS x n).2) = ((narrowed n true x).1.toNat, (narrowed n true x).2) := by
  rw [satS_eq, narrowed, BitVec.toNat_ofInt]
  rfl

theorem narrowed_unsigned {n : Nat} (x : Int) :
    (truncI (satU x n).1 n, (satU x n).2) = ((narrowed n false x).1.toNat, (narrowed n false x).2) := by
  rw [satU_eq, narrowed, BitVec.toNat_ofInt]
  rfl

section

variable {ext : BitVec 8} (fmt : BitVec 32) (a b c : Lane)

/-- R109: an element of a dot product. -/
def dotElem (w : Nat) (signed : Bool) (x : Lane) (i : Nat) : Int :=
  if signed then (elemAt w x i).toInt else ((elemAt w x i).toNat : Int)

theorem dotElem_eq {w : Nat} (hw : 0 < w) (signed : Bool) (x : Lane) (i : Nat) :
    (if signed then sextN w (elemN x.toNat w i) else ((elemN x.toNat w i : Nat) : Int)) = dotElem w signed x i := by
  rw [elemN_elemAt, sextN_toInt hw]
  rfl

/-- R109: the dot product. -/
theorem dotLane_eq {w : Nat} (hw : 0 < w) (n : Nat) : dotLane w n ext a b c =
    let x := c.toInt + ((List.range n).map fun i => dotElem w (ext.getLsbD 0) a i * dotElem w (ext.getLsbD 1) b i).sum
    if ext.getLsbD 2 then clamped (-(2 ^ 31)) (2 ^ 31 - 1) x else word (BitVec.ofInt 32 x) := by
  have hfold (f : Nat → Int) (l : List Nat) : ∀ acc : Int, l.foldl (fun acc i => acc + f i) acc = acc + (l.map f).sum := by
    induction l with
    | nil => simp
    | cons i l ih =>
      intro acc
      rw [List.foldl_cons, ih, List.map_cons, List.sum_cons, add_assoc]
  unfold dotLane
  simp only [dotElem_eq hw, hfold, wordS_satS]
  rfl

/-- R351: VPACK of two words, clamped. -/
theorem packLane_words {k : Nat} (hk : ext.toNat % 8 = k) (h : k = 1 ∨ k = 2) :
    let q := fun (x : Lane) => narrowed 16 (k == 1) x.toInt
    packLane fmt ext a b = ⟨(q b).1 ++ (q a).1, false, (q a).2 || (q b).2⟩ := by
  have helem (x : Lane) : narrowElem fmt k x.toNat = ((narrowed 16 (k == 1) x.toInt).1.toNat, (narrowed 16 (k == 1) x.toInt).2) := by
    rcases h with rfl | rfl
    · show (truncI (satS (sextN 32 x.toNat) 16).1 16, _) = _
      rw [sextN_toInt (by decide)]
      exact narrowed_signed _
    · show (truncI (satU (sextN 32 x.toNat) 16).1 16, _) = _
      rw [sextN_toInt (by decide)]
      exact narrowed_unsigned _
  have hk3 : k < 3 := by omega
  unfold packLane
  dsimp only
  rw [hk, if_pos hk3, if_pos hk3, helem, helem]
  simp only [List.map_cons, List.map_nil, List.any_cons, List.any_nil, Bool.or_false, ofNat_joinN_pair]

/-- R351: VPACK of four halves, clamped. -/
theorem packLane_halves {k : Nat} (hk : ext.toNat % 8 = k) (h : k = 4 ∨ k = 5) :
    let q := fun (x : Lane) i => narrowed 8 (k == 4) (elemAt 16 x i).toInt
    packLane fmt ext a b = ⟨(q b 1).1 ++ (q b 0).1 ++ (q a 1).1 ++ (q a 0).1, false,
      (q a 0).2 || (q a 1).2 || (q b 0).2 || (q b 1).2⟩ := by
  have helem (x : Lane) (i : Nat) : narrowElem fmt k (elemN x.toNat 16 i) =
      ((narrowed 8 (k == 4) (elemAt 16 x i).toInt).1.toNat, (narrowed 8 (k == 4) (elemAt 16 x i).toInt).2) := by
    rw [elemN_elemAt]
    rcases h with rfl | rfl
    · show (truncI (satS (sextN 16 (elemAt 16 x i).toNat) 8).1 8, _) = _
      rw [sextN_toInt (by decide)]
      exact narrowed_signed _
    · show (truncI (satU (sextN 16 (elemAt 16 x i).toNat) 8).1 8, _) = _
      rw [sextN_toInt (by decide)]
      exact narrowed_unsigned _
  have hk3 : ¬ k < 3 := by omega
  unfold packLane
  dsimp only
  rw [hk, if_neg hk3, if_neg hk3, helem, helem, helem, helem]
  simp only [List.map_cons, List.map_nil, List.any_cons, List.any_nil, Bool.or_false, Bool.or_assoc, ofNat_joinN_quad]

theorem ofNat_truncI_sextN {w n : Nat} (hw : 0 < w) (x : BitVec w) : truncI (sextN w x.toNat) n = (x.signExtend n).toNat := by
  rw [sextN_toInt hw, BitVec.signExtend, BitVec.toNat_ofInt]
  rfl

/-- R351: VUNPK, by its kinds of integers. -/
theorem unpkLane_eq : let hi := if ext.getLsbD 3 then 1 else 0
    (ext.toNat % 8 = 1 → unpkLane fmt ext a = word ((elemAt 16 a hi).signExtend 32)) ∧
    (ext.toNat % 8 = 2 → unpkLane fmt ext a = word ((elemAt 16 a hi).zeroExtend 32)) ∧
    (ext.toNat % 8 = 4 → unpkLane fmt ext a =
      word ((elemAt 8 a (2 * hi + 1)).signExtend 16 ++ (elemAt 8 a (2 * hi)).signExtend 16)) ∧
    (ext.toNat % 8 = 5 → unpkLane fmt ext a =
      word ((elemAt 8 a (2 * hi + 1)).zeroExtend 16 ++ (elemAt 8 a (2 * hi)).zeroExtend 16)) := by
  have hhi : ext.toNat / 8 % 2 = if ext.getLsbD 3 then 1 else 0 := by
    show _ = if ext.toNat.testBit 3 then 1 else 0
    rw [Nat.testBit_eq_decide_div_mod_eq]
    rcases Nat.mod_two_eq_zero_or_one (ext.toNat / 8) with h | h <;> simp [h]
  have hzero {w n : Nat} (hwn : w ≤ n) (x : BitVec w) : x.toNat % 2 ^ w = (x.zeroExtend n).toNat := by
    rw [Nat.mod_eq_of_lt x.isLt]
    exact (BitVec.toNat_setWidth_of_le hwn).symm
  unfold unpkLane
  dsimp only
  rw [hhi]
  simp only [elemN_elemAt]
  generalize (if ext.getLsbD 3 then 1 else 0) = hi
  refine ⟨fun h => ?_, fun h => ?_, fun h => ?_, fun h => ?_⟩
  · rw [h, if_pos (by decide)]
    show wordN (truncI (sextN 16 _) 32) = _
    rw [ofNat_truncI_sextN (by decide), wordN_toNat]
  · rw [h, if_pos (by decide)]
    show wordN (_ % 2 ^ 16) = _
    rw [hzero (n := 32) (by decide), wordN_toNat]
  · rw [h, if_neg (by decide)]
    show wordN (joinN 16 [truncI (sextN 8 _) 16, truncI (sextN 8 _) 16]) = _
    rw [ofNat_truncI_sextN (by decide), ofNat_truncI_sextN (by decide), wordN, ofNat_joinN_pair]
  · rw [h, if_neg (by decide)]
    show wordN (joinN 16 [_ % 2 ^ 8, _ % 2 ^ 8]) = _
    rw [hzero (n := 16) (by decide), hzero (n := 16) (by decide), wordN, ofNat_joinN_pair]

end

end Sys2Proof.Machine
end


section
/-! SUPPORT. What a lane of the floating-point instructions computes, and the laws of exact values (R102, R327, R329, R336). -/

namespace Sys2Proof.Machine

/-- R336: an operation on two halves, by element. -/
theorem elemAt_halfLane (fmt : BitVec 32) (f : FVal → FVal → FVal → FVal) (a b c : Lane) {i : Nat} (hi : i < 2) :
    let g := fun (x : Lane) => decodeF (fmtHalf fmt) (fmtFtz fmt) (elemAt 16 x i).toNat
    elemAt 16 (halfLane fmt f a b c).val i =
      BitVec.ofNat 16 (roundF (fmtHalf fmt) (fmtRm fmt) (fmtFtz fmt) (fmtSat fmt) (f (g a) (g b) (g c))) := by
  refine (elemAt_joinN (by simp) (by simpa using hi)).trans ?_
  rw [List.getElem_map, List.getElem_range]
  simp only [elemN_elemAt]

section

variable {x y : FVal} {e u w : Int} (hx : x.scaled e = some u) (hy : y.scaled e = some w)
include hx hy

/-- R259: the comparisons of finite values. -/
theorem fcondHolds_scaled : fcondHolds 0 x y = decide (u = w) ∧ fcondHolds 1 x y = decide (u ≠ w) ∧
    fcondHolds 2 x y = decide (u < w) ∧ fcondHolds 3 x y = decide (u ≤ w) ∧ fcondHolds 4 x y = decide (w < u) ∧
    fcondHolds 5 x y = decide (w ≤ u) ∧ fcondHolds 6 x y = false ∧ fcondHolds 7 x y = true := by
  obtain ⟨hnx, hny⟩ := isNan_scaled hx hy
  unfold fcondHolds
  rw [cmpF_scaled hx hy, hnx, hny]
  rcases lt_trichotomy u w with h | h | h
  · rw [compare_lt_iff_lt.mpr h]
    simp [h, h.ne, h.le, h.not_gt, h.not_ge]
  · rw [compare_eq_iff_eq.mpr h]
    simp [h]
  · rw [compare_gt_iff_gt.mpr h]
    simp [h, h.ne', h.le, h.not_gt, h.not_ge]

/-- R102: the lesser and the greater of two finite values. -/
theorem minMaxF_scaled : (u < w → minMaxF true x y = x ∧ minMaxF false x y = y) ∧
    (w < u → minMaxF true x y = y ∧ minMaxF false x y = x) := by
  obtain ⟨hnx, hny⟩ := isNan_scaled hx hy
  unfold minMaxF
  rw [cmpF_scaled hx hy, hnx, hny]
  refine ⟨fun h => ?_, fun h => ?_⟩
  · rw [compare_lt_iff_lt.mpr h]
    exact ⟨rfl, rfl⟩
  · rw [compare_gt_iff_gt.mpr h]
    exact ⟨rfl, rfl⟩

end

theorem mulF_nan (x : FVal) : mulF .nan x = .nan ∧ mulF x .nan = .nan := by cases x <;> exact ⟨rfl, rfl⟩

theorem minMaxF_nan (least : Bool) (x : FVal) : minMaxF least .nan x = x ∧ minMaxF least x .nan = x := by
  cases x <;> exact ⟨rfl, rfl⟩

/-- R102: of two zeros of unlike signs the negative one is the lesser. -/
theorem minMaxF_zeros (sg : Bool) (e : Int) : (minMaxF true (.fin sg 0 e) (.fin (!sg) 0 e)).isNeg = true ∧
    (minMaxF false (.fin sg 0 e) (.fin (!sg) 0 e)).isNeg = false := by
  have hzero (neg : Bool) : (FVal.fin neg 0 e).scaled e = some 0 :=
    FVal.scaled_fin.mpr ⟨.inl rfl, by rw [signedI_zero, zero_mul]⟩
  have hcmp : cmpF (.fin sg 0 e) (.fin (!sg) 0 e) = .eq := cmpF_scaled (hzero sg) (hzero (!sg))
  unfold minMaxF
  rw [hcmp]
  cases sg <;> exact ⟨rfl, rfl⟩

/-- R259: a comparison with a NaN holds for codes 1 and 6 alone. -/
theorem fcondHolds_nan (k : Nat) (x : FVal) :
    fcondHolds k .nan x = decide (k = 1 ∨ k = 6) ∧ fcondHolds k x .nan = decide (k = 1 ∨ k = 6) := by
  have hor : (x.isNan || FVal.nan.isNan) = true := Bool.or_true _
  have hor' : (FVal.nan.isNan || x.isNan) = true := rfl
  unfold fcondHolds
  rw [hor, hor']
  match k with
  | 0 | 1 | 2 | 3 | 4 | 5 | 6 => exact ⟨rfl, rfl⟩
  | k + 7 => simp

end Sys2Proof.Machine
end


section
/-! SUPPORT. VCVT by the kinds of its formats (R103, R324). -/

namespace Sys2Proof.Machine

theorem cvtWidth_pos (k : Nat) : 0 < cvtWidth k := by
  unfold cvtWidth
  split_ifs <;> decide

/-- R103: an integer clamped to an integer format. -/
def cvtInto (dst : Nat) (x : Int) : LaneOut :=
  if cvtSigned dst then clamped (-(2 ^ (cvtWidth dst - 1))) (2 ^ (cvtWidth dst - 1) - 1) x
  else clamped 0 (2 ^ cvtWidth dst - 1) x

/-- R103: what VCVT makes of an integer, saturated for its format, and of whether it was clamped. -/
def cvtIntLane (dst : Nat) (r : Int × Bool) : LaneOut :=
  ⟨if cvtSigned dst then BitVec.ofInt 32 (sextN (cvtWidth dst) (truncI r.1 (cvtWidth dst)))
    else BitVec.ofNat 32 (truncI r.1 (cvtWidth dst)), false, r.2⟩

section

variable {dst : Nat} (x : Int)

theorem cvtIntLane_signed (h : cvtSigned dst = true) : cvtIntLane dst (satS x (cvtWidth dst)) = cvtInto dst x := by
  have hw := cvtWidth_pos dst
  unfold cvtIntLane cvtInto
  rw [if_pos h, if_pos h, satS_eq]
  generalize cvtWidth dst = w at *
  have hpow : (0 : Int) < 2 ^ (w - 1) := by positivity
  have hrange : -(2 ^ (w - 1)) ≤ clampTo (-(2 ^ (w - 1))) (2 ^ (w - 1) - 1) x ∧
      clampTo (-(2 ^ (w - 1))) (2 ^ (w - 1) - 1) x < 2 ^ (w - 1) := by
    unfold clampTo
    omega
  have htrunc : truncI (clampTo (-(2 ^ (w - 1))) (2 ^ (w - 1) - 1) x) w =
      (BitVec.ofInt w (clampTo (-(2 ^ (w - 1))) (2 ^ (w - 1) - 1) x)).toNat := (BitVec.toNat_ofInt ..).symm
  dsimp only
  rw [htrunc, sextN_toInt hw, BitVec.toInt_ofInt_eq_self hw hrange.1 hrange.2]
  rfl

theorem cvtIntLane_unsigned (h : cvtSigned dst = false) : cvtIntLane dst (satU x (cvtWidth dst)) = cvtInto dst x := by
  unfold cvtIntLane cvtInto
  rw [if_neg (by rw [h]; decide), if_neg (by rw [h]; decide), satU_eq]
  generalize cvtWidth dst = w at *
  have hpow : (0 : Int) < 2 ^ w := by positivity
  have hrange : 0 ≤ clampTo 0 (2 ^ w - 1) x ∧ clampTo 0 (2 ^ w - 1) x < 2 ^ w := by
    unfold clampTo
    omega
  unfold clamped
  dsimp only
  generalize clampTo 0 (2 ^ w - 1) x = c at hrange
  obtain ⟨n, rfl⟩ := Int.eq_ofNat_of_zero_le hrange.1
  have htrunc : truncI (n : Int) w = n := by
    unfold truncI
    rw [Int.emod_eq_of_lt hrange.1 (by push_cast; exact hrange.2), Int.toNat_natCast]
  rw [htrunc, BitVec.ofInt_natCast]

/-- R103: an integer saturated for the destination. -/
theorem cvtIntLane_sat : cvtIntLane dst (if cvtSigned dst then satS x (cvtWidth dst) else satU x (cvtWidth dst)) = cvtInto dst x := by
  cases h : cvtSigned dst
  · exact cvtIntLane_unsigned x h
  · exact cvtIntLane_signed x h

end

section

variable {dst : Nat} (rm : RMode)

/-- R103: what VCVT makes of a float for an integer format. -/
def cvtFloatLane (dst : Nat) (rm : RMode) (x : FVal) : LaneOut := cvtIntLane dst (cvtFI x (cvtWidth dst) (cvtSigned dst) rm)

theorem cvtFloatLane_nan : cvtFloatLane dst rm .nan = ⟨0, false, true⟩ := by
  have hzero (w : Nat) : truncI 0 w = 0 := by simp [truncI]
  have hsext (w : Nat) : sextN w 0 = 0 := by simp [sextN]
  show LaneOut.mk (if _ then BitVec.ofInt 32 (sextN _ (truncI 0 _)) else BitVec.ofNat 32 (truncI 0 _)) false true = _
  rw [hzero, hsext]
  split <;> rfl

theorem cvtFloatLane_inf : cvtFloatLane dst rm (.inf false) = cvtInto dst (2 ^ cvtWidth dst) ∧
    cvtFloatLane dst rm (.inf true) = cvtInto dst (-(2 ^ cvtWidth dst)) := by
  have hcast : ((2 ^ cvtWidth dst : Nat) : Int) = 2 ^ cvtWidth dst := by push_cast; rfl
  unfold cvtFloatLane cvtFI
  rw [← hcast]
  refine ⟨cvtIntLane_sat _, ?_⟩
  cases h : cvtSigned dst
  · refine (cvtIntLane_unsigned (-1) h).trans ?_
    have hpos : (0 : Int) < 2 ^ cvtWidth dst := by positivity
    unfold cvtInto clamped clampTo
    rw [h, hcast]
    have hclamp {z : Int} (hz : z < 0) : max 0 (min (2 ^ cvtWidth dst - 1) z) = 0 ∧
        decide (z < 0 ∨ 2 ^ cvtWidth dst - 1 < z) = true := ⟨by omega, decide_eq_true (.inl hz)⟩
    obtain ⟨hone, hone'⟩ := hclamp (z := -1) (by decide)
    obtain ⟨hbig, hbig'⟩ := hclamp (z := -(2 ^ cvtWidth dst)) (by omega)
    simp only [Bool.false_eq_true, if_false]
    rw [hone, hone', hbig, hbig']
  · exact cvtIntLane_signed _ h

theorem cvtFloatLane_finite {x : FVal} {k : Nat} {u : Int} (h : x.scaled (-(k : Int)) = some u) :
    ∃ n : Int, RoundsTo rm u k n ∧ cvtFloatLane dst rm x = cvtInto dst n := by
  obtain ⟨neg, m, e, rfl⟩ := FVal.scaled_eq_some h
  exact ⟨_, roundsTo_roundI rm h, cvtIntLane_sat _⟩

end

section

variable {ext : BitVec 8} {src dst : Nat} (fmt : BitVec 32) (a : Lane) (hsrc : ext.toNat % 16 = src) (hdst : ext.toNat / 16 = dst)

/-- R103: the integer that a pattern of an integer format is. -/
def cvtInt (src : Nat) (bits : Nat) : Int := if cvtSigned src then sextN (cvtWidth src) bits else ((bits % 2 ^ cvtWidth src : Nat) : Int)

theorem not_cvtSigned_float {k : Nat} (h : k < 5) : ¬ cvtSigned k = true := by
  interval_cases k <;> decide

include hsrc hdst

theorem cvtLane_floats (hs : src < 5) (hd : dst < 5) : cvtLane fmt ext a = word (BitVec.ofNat 32 (roundF (fmtOfCode dst) (fmtRm fmt)
    (flushesTo (fmtOfCode src) (fmtOfCode dst) (fmtFtz fmt)) (fmtSat fmt)
    (decodeF (fmtOfCode src) (fmtFtz fmt) (a.toNat % 2 ^ cvtWidth src)))) := by
  unfold cvtLane convert
  dsimp only
  rw [hsrc, hdst, if_neg (not_cvtSigned_float hd), if_pos hd, if_pos hs, if_pos hs, if_pos hs]
  rfl

theorem cvtLane_int_float (hs : 5 ≤ src) (hd : dst < 5) : cvtLane fmt ext a = word (BitVec.ofNat 32 (roundF (fmtOfCode dst) (fmtRm fmt)
    (fmtFtz fmt) (fmtSat fmt) (intF (cvtInt src a.toNat)))) := by
  unfold cvtLane convert
  dsimp only
  rw [hsrc, hdst, if_neg (not_cvtSigned_float hd), if_pos hd, if_neg (not_lt.mpr hs), if_neg (not_lt.mpr hs)]
  rfl

theorem cvtLane_ints (hs : 5 ≤ src) (hd : 5 ≤ dst) : cvtLane fmt ext a = cvtInto dst (cvtInt src a.toNat) := by
  refine Eq.trans ?_ (cvtIntLane_sat _)
  unfold cvtLane convert cvtIntLane
  dsimp only
  rw [hsrc, hdst, if_neg (not_lt.mpr hd), if_neg (not_lt.mpr hs)]
  rfl

theorem cvtLane_float_int (hs : src < 5) (hd : 5 ≤ dst) : cvtLane fmt ext a =
    cvtFloatLane dst (fmtRm fmt) (decodeF (fmtOfCode src) (fmtFtz fmt) (a.toNat % 2 ^ cvtWidth src)) := by
  unfold cvtLane convert cvtFloatLane cvtIntLane
  dsimp only
  rw [hsrc, hdst, if_neg (not_lt.mpr hd), if_pos hs, if_pos hs]

end

/-- R102: which widening alone may flush under FTZ or not. -/
theorem flushesTo_of_ne {src dst : Nat} (hs : src < 5) (hd : dst < 5) (h : ¬ (src = 4 ∧ dst = 1)) (ftz : Bool) :
    flushesTo (fmtOfCode src) (fmtOfCode dst) ftz = ftz := by
  have hne : ¬ (fmtOfCode src = f8b ∧ fmtOfCode dst = fp16) := by
    have hsrc : fmtOfCode src = f8b → src = 4 := by interval_cases src <;> decide
    have hdst : fmtOfCode dst = fp16 → dst = 1 := by interval_cases dst <;> decide
    exact fun heq => h ⟨hsrc heq.1, hdst heq.2⟩
  unfold flushesTo
  rw [if_neg hne, Bool.and_true]

theorem flushesTo_or (src dst : FFmt) (ftz : Bool) : flushesTo src dst ftz = ftz ∨ flushesTo src dst ftz = false := by
  unfold flushesTo
  cases ftz
  · exact .inl rfl
  · cases (if src = f8b ∧ dst = fp16 then Config.widenFlushes else true)
    · exact .inr rfl
    · exact .inl rfl

end Sys2Proof.Machine
end


section
/-! SUPPORT. FP32 lanes by their fields, VFCLS and VFRND (R95, R328, R334). -/

namespace Sys2Proof.Machine

section

variable (a : Lane)

/-- R95: the exponent field, the fraction and the sign of a lane word. -/
def laneExp : Nat := a.toNat / 2 ^ 23 % 2 ^ 8

def laneFrac : Nat := a.toNat % 2 ^ 23

theorem decide_msb : decide (a.toNat / 2 ^ 31 % 2 = 1) = a.msb := by
  have ha := a.isLt
  rw [BitVec.msb_eq_decide]
  exact decide_eq_decide.mpr (by omega)

/-- R95, R100: the value of a lane word. -/
theorem decodeF_lane (ftz : Bool) : decodeF fp32 ftz a.toNat =
    if laneExp a = 255 then (if laneFrac a = 0 then .inf a.msb else .nan)
    else if laneExp a = 0 then (if ftz then .fin a.msb 0 0 else .fin a.msb (laneFrac a) (-149))
    else .fin a.msb (2 ^ 23 + laneFrac a) ((laneExp a : Int) - 150) := by
  have hexp : a.toNat % 2 ^ 31 / 2 ^ 23 = laneExp a := by
    unfold laneExp
    omega
  rw [decodeF_fp32, decide_msb, hexp]
  rfl

variable {a} {ftz neg : Bool} {m : Nat} {e : Int}

theorem msb_of_fin (h : decodeF fp32 ftz a.toNat = .fin neg m e) : neg = a.msb := by
  rw [decodeF_lane] at h
  split_ifs at h <;> (injection h with hneg; exact hneg.symm)

theorem msb_of_inf (h : decodeF fp32 ftz a.toNat = .inf neg) : neg = a.msb := by
  rw [decodeF_lane] at h
  split_ifs at h
  injection h with hneg
  exact hneg.symm

end

/-- R328: the class of a lane word. -/
theorem fclsLane_eq (fmt : BitVec 32) (a : Lane) : fclsLane fmt a = word (
    if laneExp a = 255 then (if laneFrac a ≠ 0 then 0x100 else if a.msb then 0x001 else 0x080)
    else if laneExp a = 0 ∧ (laneFrac a = 0 ∨ fmtFtz fmt = true) then (if a.msb then 0x008 else 0x010)
    else if laneExp a = 0 then (if a.msb then 0x004 else 0x020) else if a.msb then 0x002 else 0x040) := by
  have hfrac : laneFrac a < 2 ^ 23 := Nat.mod_lt _ (by decide)
  have hpick (x y : Nat) : wordN (if a.msb then x else y) = word (if a.msb then BitVec.ofNat 32 x else BitVec.ofNat 32 y) := by
    cases a.msb <;> rfl
  unfold fclsLane fp
  rw [decodeF_lane]
  by_cases htop : laneExp a = 255
  · rw [if_pos htop, if_pos htop]
    by_cases hzero : laneFrac a = 0
    · rw [if_pos hzero, if_neg (not_not.mpr hzero)]
      exact hpick 0x001 0x080
    · rw [if_neg hzero, if_pos hzero]
      rfl
  · rw [if_neg htop, if_neg htop]
    by_cases hexp : laneExp a = 0
    · rw [if_pos hexp]
      by_cases hflush : fmtFtz fmt = true
      · have hclass : laneExp a = 0 ∧ (laneFrac a = 0 ∨ fmtFtz fmt = true) := ⟨hexp, .inr hflush⟩
        rw [if_pos hflush, if_pos hclass]
        exact hpick 0x008 0x010
      · rw [if_neg hflush]
        dsimp only
        by_cases hzero : laneFrac a = 0
        · have hclass : laneExp a = 0 ∧ (laneFrac a = 0 ∨ fmtFtz fmt = true) := ⟨hexp, .inl hzero⟩
          rw [if_pos hzero, if_pos hclass]
          exact hpick 0x008 0x010
        · have hlog : Nat.log2 (laneFrac a) < 23 := (Nat.log2_lt hzero).mpr hfrac
          have hclass : ¬ (laneExp a = 0 ∧ (laneFrac a = 0 ∨ fmtFtz fmt = true)) := fun h => h.2.elim hzero hflush
          rw [if_neg hzero, if_pos (by unfold flog2; omega), if_neg hclass, if_pos hexp]
          exact hpick 0x004 0x020
    · rw [if_neg hexp, if_neg (fun h => hexp h.1), if_neg hexp]
      dsimp only
      have hlog : 23 ≤ Nat.log2 (2 ^ 23 + laneFrac a) := (Nat.le_log2 (by omega)).mpr (Nat.le_add_right _ _)
      rw [if_neg (by omega), if_neg (by unfold flog2; omega)]
      exact hpick 0x002 0x040

/-- R95: a value of at most 24 bits stands in FP32. -/
theorem exists_fits {m : Nat} {j : Int} (hm : m ≠ 0) (hlt : m < 2 ^ 24) (hlo : -126 ≤ flog2 m j) (hhi : flog2 m j ≤ 127) :
    ∃ n q, Fits32 n q ∧ 2 ^ 23 ≤ n ∧ m * 2 ^ (j - q).toNat = n * 2 ^ (q - j).toNat := by
  have hlog : Nat.log2 m < 24 := (Nat.log2_lt hm).mpr hlt
  have hlow := Nat.log2_self_le hm
  have hhigh := lt_two_pow_log2_succ m
  unfold flog2 at hlo hhi
  have hge : 2 ^ 23 ≤ m * 2 ^ (23 - Nat.log2 m) := by
    calc 2 ^ 23 = 2 ^ Nat.log2 m * 2 ^ (23 - Nat.log2 m) := by rw [← pow_add]; congr 1; omega
      _ ≤ m * 2 ^ (23 - Nat.log2 m) := Nat.mul_le_mul_right _ hlow
  have hltn : m * 2 ^ (23 - Nat.log2 m) < 2 ^ 24 := by
    calc m * 2 ^ (23 - Nat.log2 m) < 2 ^ (Nat.log2 m + 1) * 2 ^ (23 - Nat.log2 m) :=
          Nat.mul_lt_mul_of_pos_right hhigh (Nat.two_pow_pos _)
      _ = 2 ^ 24 := by rw [← pow_add]; congr 1; omega
  refine ⟨m * 2 ^ (23 - Nat.log2 m), j - (23 - Nat.log2 m : Nat), ⟨by omega, by omega, hltn, fun _ => hge⟩, hge, ?_⟩
  rw [show (j - (j - (23 - Nat.log2 m : Nat))).toNat = 23 - Nat.log2 m by omega,
    show (j - (23 - Nat.log2 m : Nat) - j).toNat = 0 by omega, pow_zero, Nat.mul_one]

/-- A value written with another quantum. -/
theorem scaled_of_exact {neg : Bool} {m n : Nat} {e q e₀ u : Int} (h : m * 2 ^ (e - q).toNat = n * 2 ^ (q - e).toNat)
    (hs : (FVal.fin neg m e).scaled e₀ = some u) (hq : e₀ ≤ q) : (FVal.fin neg n q).scaled e₀ = some u := by
  obtain ⟨hor, hu⟩ := FVal.scaled_fin.mp hs
  refine FVal.scaled_fin.mpr ⟨.inr hq, ?_⟩
  by_cases hqe : q ≤ e
  · have hn : n = m * 2 ^ (e - q).toNat := by rw [h, show (q - e).toNat = 0 by omega, pow_zero, Nat.mul_one]
    rw [hu, hn, signedI_mul, show (e - e₀).toNat = (e - q).toNat + (q - e₀).toNat by omega, pow_add]
    push_cast
    ring
  · have hm : m = n * 2 ^ (q - e).toNat := by rw [← h, show (e - q).toNat = 0 by omega, pow_zero, Nat.mul_one]
    rcases hor with hzero | he
    · have hn : n = 0 := (Nat.mul_eq_zero.mp (hm.symm.trans hzero)).resolve_right (Nat.two_pow_pos _).ne'
      rw [hu, hzero, hn, signedI_zero, zero_mul, zero_mul]
    · rw [hu, hm, signedI_mul, show (q - e₀).toNat = (q - e).toNat + (e - e₀).toNat by omega, pow_add]
      push_cast
      ring

/-- R95, R101: the pattern of a value that FP32 holds decodes to that value. -/
theorem decodeF_roundF_exact {m : Nat} {e e₀ u : Int} {neg : Bool} (rm : RMode) (hm : m ≠ 0)
    (hfit : ∃ n q, Fits32 n q ∧ m * 2 ^ (e - q).toNat = n * 2 ^ (q - e).toNat) (hs : (FVal.fin neg m e).scaled e₀ = some u)
    (he₀ : e₀ ≤ -149) : (decodeF fp32 false (roundF fp32 rm false false (.fin neg m e))).scaled e₀ = some u := by
  obtain ⟨n, q, hfit, heq⟩ := hfit
  rw [roundF_exact hfit hm heq rm false neg (fun h => absurd h (by decide)), decodeF_encodeQ hfit]
  exact scaled_of_exact heq hs (he₀.trans hfit.1)

/-- R334: an FP32 value rounded to an integer stands in FP32. -/
theorem roundQ_fits {m : Nat} {e : Int} (hfit : Fits32 m e) (rm : RMode) (neg : Bool) (h0 : roundQ rm neg m e 0 ≠ 0) :
    ∃ n q, Fits32 n q ∧ roundQ rm neg m e 0 * 2 ^ (0 - q).toNat = n * 2 ^ (q - 0).toNat := by
  obtain ⟨hlo, hhi, hlt, hnorm⟩ := hfit
  by_cases he : 0 ≤ e
  · refine ⟨m, e, ⟨hlo, hhi, hlt, hnorm⟩, ?_⟩
    have hexact : m * 2 ^ (e - 0).toNat = m * 2 ^ (e - 0).toNat * 2 ^ (0 - e).toNat := by
      rw [show (0 - e).toNat = 0 by omega, pow_zero, Nat.mul_one]
    rw [roundQ_exact hexact, show (0 - e).toNat = 0 by omega, pow_zero, Nat.mul_one]
  · have hm : m ≠ 0 := by
      rintro rfl
      exact h0 (roundQ_exact (n := 0) (by simp) rm neg)
    have hlog : Nat.log2 m < 24 := (Nat.log2_lt hm).mpr hlt
    have hle : roundQ rm neg m e 0 ≤ 2 ^ 24 := roundQ_le rm neg (by unfold flog2; omega)
    generalize roundQ rm neg m e 0 = N at h0 hle
    rcases eq_or_lt_of_le hle with rfl | hN
    · exact ⟨2 ^ 23, 1, by unfold Fits32; omega, by decide⟩
    · have hlogN : Nat.log2 N < 24 := (Nat.log2_lt h0).mpr hN
      obtain ⟨n, q, hfit, -, heq⟩ := exists_fits (j := 0) h0 hN (by unfold flog2; omega) (by unfold flog2; omega)
      exact ⟨n, q, hfit, heq⟩

theorem ofNat_roundF_toNat (rm : RMode) (ftz sat : Bool) (x : FVal) :
    (BitVec.ofNat 32 (roundF fp32 rm ftz sat x)).toNat = roundF fp32 rm ftz sat x := by
  rw [BitVec.toNat_ofNat, Nat.mod_eq_of_lt (roundF_fp32_lt rm ftz sat x)]

section

variable {fmt : BitVec 32} {ext : BitVec 8} {a : Lane}

/-- R334: the mode of VFRND. -/
def frndMode (fmt : BitVec 32) (ext : BitVec 8) : RMode := if ext.getLsbD 2 then RMode.ofCode (ext.toNat % 4) else fmtRm fmt

theorem frndLane_nan (h : fp fmt a = .nan) : frndLane fmt ext a = word 0x7FC00000 := by
  unfold frndLane
  rw [h]
  rfl

theorem frndLane_inf {neg : Bool} (h : fp fmt a = .inf neg) : frndLane fmt ext a = word a := by
  unfold frndLane
  rw [h]
  dsimp only
  rw [infF_decodeF h a.isLt, wordN_toNat]

theorem frndLane_word : frndLane fmt ext a = word (frndLane fmt ext a).val := by
  unfold frndLane
  split
  · rfl
  · rfl
  · split <;> rfl

/-- R334: a finite value rounded to an integer. -/
theorem frndLane_finite {k : Nat} {u : Int} (h : (fp fmt a).scaled (-(k : Int)) = some u) :
    ∃ n : Int, RoundsTo (frndMode fmt ext) u k n ∧ (n = 0 → frndLane fmt ext a = word (if a.msb then 0x80000000 else 0)) ∧
      (n ≠ 0 → (decodeF fp32 false (frndLane fmt ext a).val.toNat).scaled (-149) = some (n * 2 ^ 149)) := by
  obtain ⟨neg, m, e, hx⟩ := FVal.scaled_eq_some h
  have hneg : neg = a.msb := msb_of_fin hx
  rw [hx] at h
  have hzero : wordN (zeroF fp32 neg) = word (if a.msb then 0x80000000 else 0) := by
    rw [← hneg]
    cases neg <;> rfl
  refine ⟨_, roundsTo_roundI (frndMode fmt ext) h, ?_, ?_⟩
  · intro hn
    have hQ : roundQ (frndMode fmt ext) neg m e 0 = 0 := signedI_eq_zero.mp hn
    unfold frndLane
    rw [hx]
    dsimp only
    split
    · exact hzero
    · rw [show roundQ (if ext.getLsbD 2 = true then RMode.ofCode (ext.toNat % 4) else fmtRm fmt) neg m e 0 = 0 from hQ,
        roundF_zero, hzero]
  · intro hn
    have hQ : roundQ (frndMode fmt ext) neg m e 0 ≠ 0 := fun hz => hn (signedI_eq_zero.mpr hz)
    have hm : m ≠ 0 := by
      rintro rfl
      exact hQ (roundQ_exact (n := 0) (by simp) _ _)
    have hval : frndLane fmt ext a = wordN (roundF fp32 .rne false false (.fin neg (roundQ (frndMode fmt ext) neg m e 0) 0)) := by
      unfold frndLane
      rw [hx]
      exact if_neg hm
    rw [hval]
    show (decodeF fp32 false (BitVec.ofNat 32 _).toNat).scaled (-149) = _
    rw [ofNat_roundF_toNat]
    refine decodeF_roundF_exact .rne hQ (roundQ_fits ((decodeF_fits hx).resolve_left hm) _ neg hQ) ?_ (le_refl _)
    exact FVal.scaled_fin.mpr ⟨.inr (by decide), rfl⟩

end

end Sys2Proof.Machine
end


section
/-! SUPPORT. The exact and the special results of the special functions (R104, R105, R330). -/

namespace Sys2Proof.Machine

/-- R330: none but VFSQRT depends on the rounding mode. -/
theorem specialF_mode {op : SpecialOp} (h : op ≠ .sqrt) (rm rm' : RMode) (ftz : Bool) (a : Lane) :
    specialF op rm ftz a = specialF op rm' ftz a := by
  unfold specialF
  generalize decodeF fp32 ftz a.toNat = x
  cases op with
  | sqrt => exact absurd rfl h
  | rcp | rsq | exp2 | log2 | sin | cos => cases x <;> rfl

section

variable (rm : RMode) {ftz : Bool} {a : Lane}

theorem specialF_nan (h : decodeF fp32 ftz a.toNat = .nan) (op : SpecialOp) : specialF op rm ftz a = 0x7FC00000 := by
  unfold specialF
  rw [h]
  cases op <;> rfl

/-- R105: the results for an infinity. -/
theorem specialF_inf {neg : Bool} (h : decodeF fp32 ftz a.toNat = .inf neg) :
    specialF .rcp rm ftz a = zeroF fp32 neg ∧
    specialF .rsq rm ftz a = (if neg then fp32.nan else zeroF fp32 false) ∧
    specialF .sqrt rm ftz a = (if neg then fp32.nan else infF fp32 false) ∧
    specialF .exp2 rm ftz a = (if neg then zeroF fp32 false else infF fp32 false) ∧
    specialF .log2 rm ftz a = (if neg then fp32.nan else infF fp32 false) ∧
    specialF .sin rm ftz a = fp32.nan ∧ specialF .cos rm ftz a = fp32.nan := by
  unfold specialF
  rw [h]
  exact ⟨rfl, rfl, rfl, rfl, rfl, rfl, rfl⟩

/-- R105: the results for a zero. -/
theorem specialF_zero {neg : Bool} {e : Int} (h : decodeF fp32 ftz a.toNat = .fin neg 0 e) :
    specialF .rcp rm ftz a = infF fp32 neg ∧ specialF .rsq rm ftz a = infF fp32 neg ∧
    specialF .sqrt rm ftz a = zeroF fp32 neg ∧ specialF .exp2 rm ftz a = oneF false ∧ specialF .log2 rm ftz a = infF fp32 true := by
  unfold specialF
  rw [h]
  have hsqrt : sqrtF rm ftz (.fin neg 0 e) = zeroF fp32 neg := by
    unfold sqrtF
    exact if_pos rfl
  exact ⟨if_pos rfl, if_pos rfl, hsqrt, if_pos rfl, if_pos rfl⟩

/-- R105: those that have none for a negative value. -/
theorem specialF_neg {m : Nat} {e : Int} (h : decodeF fp32 ftz a.toNat = .fin true m e) (hm : m ≠ 0) :
    specialF .rsq rm ftz a = fp32.nan ∧ specialF .sqrt rm ftz a = fp32.nan ∧ specialF .log2 rm ftz a = fp32.nan := by
  unfold specialF
  rw [h]
  refine ⟨?_, ?_, ?_⟩
  · dsimp only
    rw [if_neg hm, if_pos rfl]
  · unfold sqrtF
    dsimp only
    rw [if_neg hm, if_pos rfl]
  · dsimp only
    rw [if_neg hm, if_pos rfl]

/-- R104: one has one as its reciprocal and as that of its root. -/
theorem specialF_one (h : a = 0x3F800000) : specialF .rcp rm ftz a = oneF false ∧ specialF .rsq rm ftz a = oneF false := by
  have hx : decodeF fp32 ftz (0x3F800000 : Lane).toNat = .fin false (2 ^ 23) (-23) := by
    rw [decodeF_lane]
    cases ftz <;> decide
  have hone : 2 ^ 23 * 2 ^ ((-23 : Int) + 256).toNat = 2 ^ 256 := by decide
  subst h
  unfold specialF
  rw [hx]
  dsimp only
  refine ⟨?_, ?_⟩
  · rw [if_neg (by decide), if_pos ⟨by decide, hone⟩]
  · rw [if_neg (by decide), if_neg (by decide), if_pos hone]

end

section

variable {neg : Bool} {m : Nat} {e u : Int} (hs : (FVal.fin neg m e).scaled (-149) = some u)
include hs

/-- The fixed-point form of a value by its multiple of the least quantum. -/
theorem toFix_scaled : toFix neg m e = u * 2 ^ 107 := by
  obtain ⟨hor, rfl⟩ := FVal.scaled_fin.mp hs
  unfold toFix
  rw [signedI_mul]
  rcases hor with rfl | he
  · rw [signedI_zero, zero_mul, zero_mul, zero_mul]
  · rw [show (e + 256).toNat = (e - -149).toNat + 107 by omega, pow_add]
    push_cast
    ring

theorem significand_eq_zero : m = 0 ↔ u = 0 := by
  obtain ⟨-, rfl⟩ := FVal.scaled_fin.mp hs
  rw [mul_eq_zero, signedI_eq_zero]
  exact ⟨.inl, fun h => h.resolve_right (by positivity)⟩

/-- R101: where the leading bit of a value stands. -/
theorem flog2_scaled (hm : m ≠ 0) : flog2 m e = Nat.log2 u.natAbs - 149 := by
  obtain ⟨hor, rfl⟩ := FVal.scaled_fin.mp hs
  have he := hor.resolve_left hm
  have hpow : ((2 : Int) ^ (e - -149).toNat).natAbs = 2 ^ (e - -149).toNat := by rw [Int.natAbs_pow]; rfl
  rw [Int.natAbs_mul, natAbs_signedI, hpow, log2_mul_pow hm]
  unfold flog2
  omega

theorem sign_scaled (hm : m ≠ 0) : neg = decide (u < 0) := by
  obtain ⟨-, rfl⟩ := FVal.scaled_fin.mp hs
  have hpow : (0 : Int) < 2 ^ (e - -149).toNat := by positivity
  have hpos : (0 : Int) < m := by omega
  cases neg
  · exact (decide_eq_false (not_lt.mpr (mul_nonneg (Int.natCast_nonneg m) hpow.le))).symm
  · exact (decide_eq_true (mul_neg_of_neg_of_pos (neg_neg_of_pos hpos) hpow)).symm

end

/-- R95, R101: a value of 2^128 or more rounds to nearest to an infinity. -/
theorem roundF_overflow {m : Nat} {e : Int} (ftz neg : Bool) (hm : m ≠ 0) (h : 128 ≤ flog2 m e) :
    roundF fp32 .rne ftz false (.fin neg m e) = infF fp32 neg := by
  unfold roundF
  dsimp only
  rw [decodeF_fp32_max, show fp32.p = 24 from rfl, show fp32.emin = -126 from rfl, if_neg hm,
    show max (flog2 m e) (-126) - ((24 : Nat) : Int) + 1 = flog2 m e - 23 by omega]
  have hle : 2 ^ 23 ≤ roundQ .rne neg m e (flog2 m e - 23) := le_roundQ .rne neg hm (by omega)
  generalize roundQ .rne neg m e (flog2 m e - 23) = n at hle
  have hbig : (if flog2 m e - 23 ≥ 104 then decide (n * 2 ^ (flog2 m e - 23 - 104).toNat > 16777215)
      else decide (n > 16777215 * 2 ^ (104 - (flog2 m e - 23)).toNat)) = true := by
    have htwo : 2 ^ 1 ≤ 2 ^ (flog2 m e - 23 - 104).toNat := Nat.pow_le_pow_right (by decide) (by omega)
    have hmul := Nat.mul_le_mul hle htwo
    rw [if_pos (by omega)]
    exact decide_eq_true (by omega)
  rw [if_pos hbig]
  simp

section

variable (rm : RMode) {ftz : Bool} {a : Lane} {k : Int}

theorem log2_natAbs_mul (hk : k ≠ 0) (j : Nat) : Nat.log2 (k * 2 ^ j).natAbs = Nat.log2 k.natAbs + j := by
  have hpow : ((2 : Int) ^ j).natAbs = 2 ^ j := by rw [Int.natAbs_pow]; rfl
  rw [Int.natAbs_mul, hpow, log2_mul_pow (by omega)]

/-- R104: a power of two with an integer exponent. -/
theorem nearestEncl_pow (hlo : -126 ≤ k) : nearestEncl ftz ⟨1, 1, k⟩ =
    if k ≤ 127 then ((k + 127) * 2 ^ 23).toNat else infF fp32 false := by
  have hval : nearestEncl ftz ⟨1, 1, k⟩ = roundF fp32 .rne ftz false (.fin false 1 k) := if_pos rfl
  have hlog : flog2 1 k = k := by
    unfold flog2
    rw [show Nat.log2 1 = 0 by decide]
    omega
  rw [hval]
  split
  next hhi =>
    have hfit : Fits32 (2 ^ 23) (k - 23) := by unfold Fits32; omega
    have heq : 1 * 2 ^ (k - (k - 23)).toNat = 2 ^ 23 * 2 ^ ((k - 23) - k).toNat := by
      rw [show (k - (k - 23)).toNat = 23 by omega, show ((k - 23) - k).toNat = 0 by omega, pow_zero, Nat.one_mul, Nat.mul_one]
    rw [roundF_exact hfit (by decide) heq .rne false false fun _ => le_refl _]
    unfold encodeQ
    rw [show fp32.p = 24 from rfl, show fp32.bias = 127 from rfl, show fp32.signBits false = 0 from rfl]
    omega
  next hhi => exact roundF_overflow ftz false (by decide) (by omega)

/-- R104: VFEXP2 of an integer. -/
theorem specialF_exp2_int {neg : Bool} {m : Nat} {e : Int} (h : decodeF fp32 ftz a.toNat = .fin neg m e)
    (hs : (FVal.fin neg m e).scaled (-149) = some (k * 2 ^ 149)) (hlo : -126 ≤ k) :
    specialF .exp2 rm ftz a = if k ≤ 127 then ((k + 127) * 2 ^ 23).toNat else infF fp32 false := by
  have hzero : m = 0 ↔ k = 0 := by
    rw [significand_eq_zero hs, mul_eq_zero]
    exact ⟨fun h => h.resolve_right (by positivity), .inl⟩
  unfold specialF
  rw [h]
  dsimp only
  by_cases hm : m = 0
  · rw [if_pos hm, hzero.mp hm]
    rfl
  · have hk : k ≠ 0 := fun hk => hm (hzero.mpr hk)
    have hlog : flog2 m e = Nat.log2 k.natAbs := by
      rw [flog2_scaled hs hm, log2_natAbs_mul hk]
      omega
    have hpos : (0 : Int) < oneFix := by decide
    have hfix : toFix neg m e = k * oneFix := by
      rw [toFix_scaled hs, mul_assoc]
      rfl
    rw [if_neg hm]
    split
    next hbig =>
      have hlarge : 2 ^ 12 ≤ k.natAbs := (Nat.le_log2 (by omega)).mp (by omega)
      have hneg : neg = false := by
        rw [sign_scaled hs hm]
        exact decide_eq_false (not_lt.mpr (mul_nonneg (by omega) (by positivity)))
      rw [hneg, if_neg (by decide), if_neg (by omega)]
    next hsmall =>
      have hencl : exp2Encl neg m e = ⟨1, 1, k⟩ := by
        unfold exp2Encl
        dsimp only
        rw [hfix, Int.mul_fdiv_cancel _ hpos.ne', sub_self, if_pos rfl]
      rw [hencl]
      exact (if_pos rfl).trans (nearestEncl_pow hlo)

/-- R104: the reduced argument of a multiple of the quarter turn's half, in units h of 2^255. -/
theorem reduceFix_mul {h : Int} (hone : oneFix = 2 * h) (j : Int) : reduceFix (j * h) = h * (j - 4 * ((j + 2) / 4)) := by
  have hpos : 0 < h := by
    have : (0 : Int) < oneFix := by decide
    omega
  have hnum : j * h + 2 * h = h * (j + 2) := by ring
  have hden : 2 * (2 * h) = h * 4 := by ring
  unfold reduceFix
  rw [hone, Int.fdiv_eq_ediv_of_nonneg _ (by omega), hnum, hden, Int.mul_ediv_mul_of_pos _ _ hpos]
  ring

theorem oneFix_half : oneFix = 2 * 2 ^ 255 := by decide

/-- R104: sine and cosine at an integer. -/
theorem trigF_int {neg : Bool} {m : Nat} {e : Int} (free : BitVec 32 → Bool → BitVec 32)
    (hs : (FVal.fin neg m e).scaled (-149) = some (k * 2 ^ 149)) :
    trigF free false ftz neg m e = zeroF fp32 neg ∧ trigF free true ftz neg m e = oneF (decide (k % 2 ≠ 0)) := by
  have hzero : m = 0 ↔ k = 0 := by
    rw [significand_eq_zero hs, mul_eq_zero]
    exact ⟨fun h => h.resolve_right (by positivity), .inl⟩
  have hred : reduceFix (toFix neg m e) = 2 ^ 255 * (2 * k - 4 * ((2 * k + 2) / 4)) := by
    rw [← reduceFix_mul oneFix_half, toFix_scaled hs]
    congr 1
    ring
  have hone := oneFix_half
  generalize (2 : Int) ^ 255 = h at hred hone
  have hpos : 0 < h := by
    have : (0 : Int) < oneFix := by decide
    omega
  have hcases : (k % 2 = 0 ∧ reduceFix (toFix neg m e) = 0) ∨ (k % 2 ≠ 0 ∧ reduceFix (toFix neg m e) = -oneFix) := by
    rcases Int.emod_two_eq_zero_or_one k with hk | hk
    · refine .inl ⟨hk, ?_⟩
      rw [hred, show 2 * k - 4 * ((2 * k + 2) / 4) = 0 by omega, mul_zero]
    · refine .inr ⟨by omega, ?_⟩
      rw [hred, show 2 * k - 4 * ((2 * k + 2) / 4) = -2 by omega, hone]
      ring
  have hspecial : m = 0 ∨ reduceFix (toFix neg m e) = 0 ∨ reduceFix (toFix neg m e) = oneFix ∨ reduceFix (toFix neg m e) = -oneFix :=
    hcases.elim (fun h => .inr (.inl h.2)) fun h => .inr (.inr (.inr h.2))
  have hodd : (m ≠ 0 ∧ reduceFix (toFix neg m e) ≠ 0) ↔ k % 2 ≠ 0 := by
    rcases hcases with ⟨hk, hx⟩ | ⟨hk, hx⟩
    · exact iff_of_false (fun h => h.2 hx) (not_not.mpr hk)
    · refine iff_of_true ⟨fun hm => hk ?_, by omega⟩ hk
      rw [hzero.mp hm]
      rfl
  unfold trigF
  dsimp only
  rw [if_pos hspecial, if_pos hspecial, if_neg (by decide), if_pos rfl, decide_eq_decide.mpr hodd]
  exact ⟨rfl, rfl⟩

/-- R104: sine and cosine half way between two integers. -/
theorem trigF_half {neg : Bool} {m : Nat} {e : Int} (free : BitVec 32 → Bool → BitVec 32)
    (hs : (FVal.fin neg m e).scaled (-149) = some (k * 2 ^ 148)) (hk : k % 2 = 1) :
    trigF free false ftz neg m e = oneF (decide (k % 4 ≠ 1)) ∧ trigF free true ftz neg m e = zeroF fp32 false := by
  have hm : m ≠ 0 := by
    rw [Ne, significand_eq_zero hs, mul_eq_zero]
    rintro (rfl | hpow)
    · cases hk
    · exact absurd hpow (by positivity)
  have hred : reduceFix (toFix neg m e) = 2 ^ 255 * (k - 4 * ((k + 2) / 4)) := by
    rw [← reduceFix_mul oneFix_half, toFix_scaled hs]
    congr 1
    ring
  have hone := oneFix_half
  generalize (2 : Int) ^ 255 = h at hred hone
  have hpos : 0 < h := by
    have : (0 : Int) < oneFix := by decide
    omega
  have hcases : (k % 4 = 1 ∧ reduceFix (toFix neg m e) = h) ∨ (k % 4 ≠ 1 ∧ reduceFix (toFix neg m e) = -h) := by
    by_cases h4 : k % 4 = 1
    · refine .inl ⟨h4, ?_⟩
      rw [hred, show k - 4 * ((k + 2) / 4) = 1 by omega, mul_one]
    · refine .inr ⟨h4, ?_⟩
      rw [hred, show k - 4 * ((k + 2) / 4) = -1 by omega]
      ring
  have hquarter : oneFix / 2 = h := by omega
  generalize hx : reduceFix (toFix neg m e) = x at hcases
  have hplain : ¬ (m = 0 ∨ x = 0 ∨ x = oneFix ∨ x = -oneFix) := by omega
  have hspecial : x = oneFix / 2 ∨ x = -(oneFix / 2) := by omega
  have hsign : decide (x < 0) = decide (k % 4 ≠ 1) := decide_eq_decide.mpr (by omega)
  unfold trigF
  dsimp only
  rw [hx, if_neg hplain, if_pos hspecial, if_neg hplain, if_pos hspecial, hsign]
  exact ⟨rfl, rfl⟩

/-- A number of which a power of two times a power of two is one. -/
theorem eq_two_pow_log2 {m i j : Nat} (h : m * 2 ^ i = 2 ^ j) : m = 2 ^ Nat.log2 m := by
  obtain ⟨l, -, hl⟩ := (Nat.dvd_prime_pow Nat.prime_two).mp (Dvd.intro _ h)
  rw [hl, Nat.log2_two_pow]

/-- R104: VFLOG2 of a power of two. -/
theorem specialF_log2_pow {neg : Bool} {m : Nat} {e i : Int} (h : decodeF fp32 ftz a.toNat = .fin neg m e)
    (hs : (FVal.fin neg m e).scaled (-149) = some (2 ^ (i + 149).toNat)) (hi : -149 ≤ i) :
    specialF .log2 rm ftz a = roundF fp32 .rne false false (.fin (decide (i < 0)) i.natAbs 0) := by
  have hupos : (0 : Int) < 2 ^ (i + 149).toNat := by positivity
  have hm : m ≠ 0 := fun hm => hupos.ne' ((significand_eq_zero hs).mp hm)
  have hneg : neg = false := by
    rw [sign_scaled hs hm]
    exact decide_eq_false (not_lt.mpr hupos.le)
  have hpow : ((2 : Int) ^ (i + 149).toNat).natAbs = 2 ^ (i + 149).toNat := by rw [Int.natAbs_pow]; rfl
  have hlog : flog2 m e = i := by
    rw [flog2_scaled hs hm, hpow, Nat.log2_two_pow]
    omega
  have hm2 : m = 2 ^ Nat.log2 m := by
    obtain ⟨-, hu⟩ := FVal.scaled_fin.mp hs
    subst hneg
    have hint : (m : Int) * 2 ^ (e - -149).toNat = 2 ^ (i + 149).toNat := hu.symm
    have hnat : m * 2 ^ (e - -149).toNat = 2 ^ (i + 149).toNat := by exact_mod_cast hint
    exact eq_two_pow_log2 hnat
  obtain ⟨-, hhi, hlt, -⟩ := (decodeF_fits h).resolve_left hm
  have hlogm : Nat.log2 m < 24 := (Nat.log2_lt hm).mpr hlt
  have hi' : i ≤ 127 := by
    rw [← hlog]
    unfold flog2
    omega
  have hencl : log2Encl m e = ⟨i, i, 0⟩ := by
    have hone : ((m * 2 ^ 256 / 2 ^ Nat.log2 m : Nat) : Int) = oneFix := by
      unfold oneFix
      conv_lhs => rw [hm2, Nat.log2_two_pow]
      rw [Nat.mul_div_cancel_left _ (Nat.two_pow_pos _)]
    unfold log2Encl
    dsimp only
    rw [if_pos hone, hlog]
  have hnear : nearestEncl ftz ⟨i, i, 0⟩ = roundF fp32 .rne ftz false (.fin (decide (i < 0)) i.natAbs 0) := if_pos rfl
  unfold specialF
  rw [h, hneg]
  dsimp only
  rw [if_neg hm, if_neg (by decide), hencl, if_pos rfl, hnear]
  by_cases hi0 : i.natAbs = 0
  · rw [hi0, roundF_zero, roundF_zero]
  · have hilog : Nat.log2 i.natAbs < 8 := (Nat.log2_lt hi0).mpr (by omega)
    obtain ⟨n, q, hfit, hnorm, heq⟩ := exists_fits (j := 0) hi0 (by omega) (by unfold flog2; omega) (by unfold flog2; omega)
    rw [roundF_exact hfit hi0 heq .rne false _ fun _ => hnorm, roundF_exact hfit hi0 heq .rne false _ fun _ => hnorm]

end

end Sys2Proof.Machine
end


section
/-! SUPPORT. VFSQRT, correctly rounded (R104, R105). -/

namespace Sys2Proof.Machine

/-- The integer square root, bit by bit. -/
theorem isqrtFrom_bounds (n : Nat) : ∀ k r : Nat, r * r ≤ n → n < (r + 2 ^ k) * (r + 2 ^ k) →
    isqrtFrom n k r * isqrtFrom n k r ≤ n ∧ n < (isqrtFrom n k r + 1) * (isqrtFrom n k r + 1) := by
  intro k
  induction k with
  | zero => exact fun r hle hlt => ⟨hle, hlt⟩
  | succ k ih =>
    intro r hle hlt
    unfold isqrtFrom
    split
    next h => exact ih _ h (by rwa [Nat.add_assoc, ← Nat.two_mul, ← Nat.pow_succ'])
    next h => exact ih _ hle (not_le.mp h)

theorem isqrt_bounds (n : Nat) : isqrt n * isqrt n ≤ n ∧ n < (isqrt n + 1) * (isqrt n + 1) := by
  refine isqrtFrom_bounds n _ 0 (Nat.zero_le _) ?_
  rw [Nat.zero_add, ← pow_add]
  exact (lt_two_pow_log2_succ n).trans_le (Nat.pow_le_pow_right (by decide) (by omega))

/-- Twice the root of n, with a bit for what lies beyond it. -/
def stickyRoot (n : Nat) : Nat := 2 * isqrt n + if isqrt n * isqrt n = n then 0 else 1

/-- Where the root of n stands to a number, by the sticky root. -/
theorem stickyRoot_le (n w : Nat) : stickyRoot n ≤ 2 * w ↔ n ≤ w * w := by
  obtain ⟨hle, hlt⟩ := isqrt_bounds n
  unfold stickyRoot
  generalize isqrt n = r at *
  constructor
  · intro h
    split at h
    next heq => exact heq ▸ Nat.mul_self_le_mul_self (by omega)
    next hne => exact hlt.le.trans (Nat.mul_self_le_mul_self (by omega))
  · intro h
    have hrw : r ≤ w := Nat.mul_self_le_mul_self_iff.mp (hle.trans h)
    split
    next heq => omega
    next hne =>
      have hrw' : r ≠ w := by
        rintro rfl
        exact hne (le_antisymm hle h)
      omega

theorem le_stickyRoot (n w : Nat) : 2 * w ≤ stickyRoot n ↔ w * w ≤ n := by
  obtain ⟨hle, hlt⟩ := isqrt_bounds n
  unfold stickyRoot
  generalize isqrt n = r at *
  constructor
  · intro h
    have hwr : w ≤ r := by split at h <;> omega
    exact (Nat.mul_self_le_mul_self hwr).trans hle
  · intro h
    have hwr : w < r + 1 := Nat.mul_self_lt_mul_self_iff.mp (h.trans_lt hlt)
    split <;> omega

/-- R101: a rounding to twice a number is one to that number of double quanta, where it is even. -/
theorem roundsTo_carry {rm : RMode} {u n : Int} {k : Nat} (hu : 0 ≤ u) (hn : 0 < n) (heven : n % 2 = 0) (h : RoundsTo rm u k (2 * n)) :
    RoundsTo rm u (k + 1) n := by
  have hpow : (0 : Int) < 2 ^ k := by positivity
  have hdouble : n * 2 ^ (k + 1) = 2 * n * 2 ^ k := by ring
  have hsucc : (2 : Int) ^ (k + 1) = 2 * 2 ^ k := by ring
  have hup : (n + 1) * 2 ^ (k + 1) = 2 * n * 2 ^ k + 2 * 2 ^ k := by ring
  have hdown : (n - 1) * 2 ^ (k + 1) = 2 * n * 2 ^ k - 2 * 2 ^ k := by ring
  cases rm with
  | rne =>
    obtain ⟨hle, -⟩ := h
    refine ⟨?_, fun _ => heven⟩
    show 2 * (u - n * 2 ^ (k + 1)).natAbs ≤ ((2 : Int) ^ (k + 1)).natAbs
    rw [hdouble, hsucc]
    omega
  | rtz =>
    obtain ⟨-, hle, hlt⟩ := h
    refine ⟨mul_nonneg hn.le hu, ?_, ?_⟩
    · rw [hdouble]
      exact hle
    · show u.natAbs < (n * 2 ^ (k + 1)).natAbs + ((2 : Int) ^ (k + 1)).natAbs
      rw [hdouble, hsucc]
      omega
  | rdn =>
    obtain ⟨hle, hlt⟩ := h
    refine ⟨?_, ?_⟩
    · show n * 2 ^ (k + 1) ≤ u
      rw [hdouble]
      exact hle
    · show u < (n + 1) * 2 ^ (k + 1)
      rw [add_mul] at hlt
      rw [hup]
      omega
  | rup =>
    obtain ⟨hlt, hle⟩ := h
    refine ⟨?_, ?_⟩
    · show (n - 1) * 2 ^ (k + 1) < u
      rw [sub_mul] at hlt
      rw [hdown]
      omega
    · show u ≤ n * 2 ^ (k + 1)
      rw [hdouble]
      exact hle

theorem roundQ_shift (rm : RMode) (neg : Bool) (m : Nat) (e q : Int) : roundQ rm neg m e q = roundQ rm neg m (e - q) 0 := by
  have hcond : e ≥ q ↔ e - q ≥ 0 := by omega
  unfold roundQ
  rw [sub_zero, zero_sub, neg_sub]
  simp only [hcond]

/-- R95: the pattern of 2^24 quanta. -/
theorem encodeQ_carry {q : Int} (hq : -149 ≤ q) : encodeQ fp32 false (2 ^ 24) q = encodeQ fp32 false (2 ^ 23) (q + 1) := by
  unfold encodeQ
  rw [show fp32.p = 24 from rfl, show fp32.bias = 127 from rfl]
  omega

/-- R101: the pattern of a positive value that is normal in FP32, and that it holds too many bits for. -/
theorem roundF_normal {m : Nat} {e : Int} (rm : RMode) (ftz : Bool) (hm : m ≠ 0) (hlog : 25 ≤ Nat.log2 m) (hlo : -126 ≤ flog2 m e)
    (hhi : flog2 m e ≤ 126) : ∃ (n t : Nat), 2 ≤ t ∧ Fits32 n (e + t) ∧ 2 ^ 23 ≤ n ∧
      roundF fp32 rm ftz false (.fin false m e) = encodeQ fp32 false n (e + t) ∧ RoundsTo rm m t n := by
  obtain ⟨t, ht⟩ : ∃ t, Nat.log2 m = t + 23 := Nat.exists_eq_add_of_le' (by omega)
  have hflog : flog2 m e = e + t + 23 := by
    unfold flog2
    omega
  have hrounds : RoundsTo rm m t (roundQ rm false m e (e + t) : Nat) := by
    rw [roundQ_shift, show e - (e + t) = -(t : Int) by omega]
    exact roundsTo_roundQ rm false m t
  have hle : roundQ rm false m e (e + t) ≤ 2 ^ 24 := roundQ_le rm false (by omega)
  have hge : 2 ^ 23 ≤ roundQ rm false m e (e + t) := le_roundQ rm false hm (by omega)
  have hround : roundF fp32 rm ftz false (.fin false m e) = encodeQ fp32 false (roundQ rm false m e (e + t)) (e + t) := by
    unfold roundF
    dsimp only
    rw [decodeF_fp32_max, show fp32.p = 24 from rfl, show fp32.emin = -126 from rfl, if_neg hm,
      show max (flog2 m e) (-126) - ((24 : Nat) : Int) + 1 = e + t by omega]
    generalize roundQ rm false m e (e + t) = N at hle hge
    have hsmall : (if e + t ≥ 104 then decide (N * 2 ^ (e + t - 104).toNat > 16777215)
        else decide (N > 16777215 * 2 ^ (104 - (e + t)).toNat)) = false := by
      have htwo : 2 ^ 1 ≤ 2 ^ (104 - (e + t)).toNat := Nat.pow_le_pow_right (by decide) (by omega)
      rw [if_neg (by omega)]
      exact decide_eq_false (by omega)
    rw [if_neg (Bool.eq_false_iff.mp hsmall), if_neg (by omega), if_neg (by omega)]
  generalize roundQ rm false m e (e + t) = N at hrounds hle hge hround
  rcases eq_or_lt_of_le hle with rfl | hlt
  · refine ⟨2 ^ 23, t + 1, by omega, by unfold Fits32; omega, le_refl _, ?_, ?_⟩
    · rw [hround, encodeQ_carry (by omega), show e + (t : Int) + 1 = e + ((t + 1 : Nat) : Int) by omega]
    · exact roundsTo_carry (Int.natCast_nonneg m) (by decide) (by decide) hrounds
  · exact ⟨N, t, by omega, by unfold Fits32; omega, hge, hround, hrounds⟩

/-- R104: what VFSQRT gives for a positive value: the sticky root of a significand widened by 64 bits, rounded. -/
theorem sqrtF_sticky (rm : RMode) (ftz : Bool) {m : Nat} (e : Int) (hm : m ≠ 0) : ∃ (M : Nat) (h : Int), 2 ^ 64 ≤ M ∧
    M ≤ m * 2 ^ 65 ∧ (e - 65 ≤ 2 * h ∧ 2 * h ≤ e - 64) ∧
    sqrtF rm ftz (.fin false m e) = roundF fp32 rm ftz false (.fin false (stickyRoot M) (h - 1)) ∧
      ∀ c : Int, 0 ≤ 2 * h + c → m * 2 ^ (e + c).toNat = M * 2 ^ (2 * h + c).toNat := by
  have hval : sqrtF rm ftz (.fin false m e) = roundF fp32 rm ftz false
      (.fin false (stickyRoot ((if e % 2 = 1 then 2 * m else m) * 2 ^ 64)) ((if e % 2 = 1 then e - 1 else e) / 2 - 32 - 1)) := by
    unfold sqrtF stickyRoot
    dsimp only
    rw [if_neg hm, if_neg (by decide)]
  by_cases hodd : e % 2 = 1
  · rw [if_pos hodd, if_pos hodd] at hval
    refine ⟨_, _, by omega, by omega, by omega, hval, fun c hc => ?_⟩
    rw [show (e + c).toNat = 65 + (2 * ((e - 1) / 2 - 32) + c).toNat by omega, pow_add]
    ring
  · rw [if_neg hodd, if_neg hodd] at hval
    refine ⟨_, _, by omega, by omega, by omega, hval, fun c hc => ?_⟩
    rw [show (e + c).toNat = 64 + (2 * (e / 2 - 32) + c).toNat by omega, pow_add]
    ring

/-- R104: an FP32 value squared against the argument of a root, told by the sticky root. -/
theorem square_le_iff (M k i E : Nat) :
    (k ^ 2 * 2 ^ (2 * (i + 2) + E) ≤ M * 2 ^ (E + 4) ↔ 2 * (k * 2 ^ i) ≤ stickyRoot M) ∧
    (M * 2 ^ (E + 4) ≤ k ^ 2 * 2 ^ (2 * (i + 2) + E) ↔ stickyRoot M ≤ 2 * (k * 2 ^ i)) := by
  have hpow : 0 < 2 ^ (E + 4) := Nat.two_pow_pos _
  have hsquare : k ^ 2 * 2 ^ (2 * (i + 2) + E) = k * 2 ^ i * (k * 2 ^ i) * 2 ^ (E + 4) := by
    ring
  rw [hsquare, le_stickyRoot, stickyRoot_le]
  exact ⟨Nat.mul_le_mul_right_iff hpow, Nat.mul_le_mul_right_iff hpow⟩

/-- R104: what a correctly rounded root keeps to, by the squares of its half units in the last place. -/
def RootBounds (rm : RMode) (half : Nat → Nat) (square n : Nat) : Prop :=
  match rm with
  | .rne => half (2 * n - 1) ≤ square ∧ square ≤ half (2 * n + 1)
  | .rup => half (2 * n - 2) < square ∧ square ≤ half (2 * n)
  | _ => half (2 * n) ≤ square ∧ square < half (2 * n + 2)

/-- R104: the square of a rounded root against its argument. -/
theorem square_rounded {rm : RMode} {M n i : Nat} (E : Nat) (hn : 0 < n) (h : RoundsTo rm (stickyRoot M) (i + 2) n) :
    RootBounds rm (fun k => k ^ 2 * 2 ^ (2 * (i + 2) + E)) (M * 2 ^ (E + 4)) n := by
  have hD : (n : Int) * 2 ^ (i + 2) = ((4 * (n * 2 ^ i) : Nat) : Int) := by
    push_cast
    ring
  have hP : (2 : Int) ^ (i + 2) = ((4 * 2 ^ i : Nat) : Int) := by
    push_cast
    ring
  have hpos : 0 < 2 ^ i := Nat.two_pow_pos i
  have hle : 2 ^ i ≤ n * 2 ^ i := Nat.le_mul_of_pos_left _ hn
  have hsq (k : Nat) := square_le_iff M k i E
  have hdown : (2 * n - 1) * 2 ^ i = 2 * (n * 2 ^ i) - 2 ^ i := by rw [Nat.sub_mul, Nat.one_mul, Nat.mul_assoc]
  have hup : (2 * n + 1) * 2 ^ i = 2 * (n * 2 ^ i) + 2 ^ i := by rw [Nat.add_mul, Nat.one_mul, Nat.mul_assoc]
  have hdown2 : (2 * n - 2) * 2 ^ i = 2 * (n * 2 ^ i) - 2 * 2 ^ i := by rw [Nat.sub_mul, Nat.mul_assoc]
  have hup2 : (2 * n + 2) * 2 ^ i = 2 * (n * 2 ^ i) + 2 * 2 ^ i := by rw [Nat.add_mul, Nat.mul_assoc]
  have hat : 2 * n * 2 ^ i = 2 * (n * 2 ^ i) := Nat.mul_assoc ..
  have hfloor (h : (n : Int) * 2 ^ (i + 2) ≤ stickyRoot M ∧ (stickyRoot M : Int) < (n + 1) * 2 ^ (i + 2)) :
      (2 * n) ^ 2 * 2 ^ (2 * (i + 2) + E) ≤ M * 2 ^ (E + 4) ∧ M * 2 ^ (E + 4) < (2 * n + 2) ^ 2 * 2 ^ (2 * (i + 2) + E) := by
    rw [add_mul, one_mul, hD, hP] at h
    refine ⟨(hsq _).1.mpr ?_, not_le.mp fun hge => ?_⟩
    · rw [hat]
      omega
    · have := (hsq _).1.mp hge
      rw [hup2] at this
      omega
  cases rm with
  | rne =>
    obtain ⟨hdist, -⟩ := h
    rw [hD, hP] at hdist
    refine ⟨(hsq _).1.mpr ?_, (hsq _).2.mpr ?_⟩
    · rw [hdown]
      omega
    · rw [hup]
      omega
  | rup =>
    obtain ⟨hlt, hge⟩ := h
    rw [sub_mul, one_mul, hD, hP] at hlt
    rw [hD] at hge
    refine ⟨not_le.mp fun hle => ?_, (hsq _).2.mpr ?_⟩
    · have := (hsq _).2.mp hle
      rw [hdown2] at this
      omega
    · rw [hat]
      omega
  | rdn => exact hfloor h
  | rtz =>
    obtain ⟨-, hge, hlt⟩ := h
    rw [hD] at hge
    rw [hD, hP] at hlt
    refine hfloor ?_
    rw [add_mul, one_mul, hD, hP]
    omega

/-- R104: VFSQRT of a positive value, correctly rounded. -/
theorem sqrtF_rounded (rm : RMode) (ftz : Bool) {m : Nat} {e : Int} (hm : m ≠ 0) (hfit : Fits32 m e) :
    ∃ (n : Nat) (q : Int), decodeF fp32 false (sqrtF rm ftz (.fin false m e)) = .fin false n q ∧ 2 ^ 23 ≤ n ∧ n < 2 ^ 24 ∧
      RootBounds rm (fun k => k ^ 2 * 2 ^ (2 * q + 398).toNat) (m * 2 ^ (e + 400).toNat) n := by
  obtain ⟨hlo, hhi, hlt, -⟩ := hfit
  obtain ⟨M, h, hM, hM', hh, hval, hsquare⟩ := sqrtF_sticky rm ftz e hm
  have hV : 2 * 2 ^ 32 ≤ stickyRoot M := (le_stickyRoot M (2 ^ 32)).mpr (by omega)
  have hV' : stickyRoot M ≤ 2 * 2 ^ 45 := 
    (stickyRoot_le M (2 ^ 45)).mpr (hM'.trans ((Nat.mul_le_mul_right _ hlt.le).trans (by decide)))
  have hlog : 33 ≤ Nat.log2 (stickyRoot M) := (Nat.le_log2 (by omega)).mpr (by omega)
  have hlog' : Nat.log2 (stickyRoot M) < 47 := (Nat.log2_lt (by omega)).mpr (by omega)
  obtain ⟨n, t, ht, hfit, hnorm, hround, hrounds⟩ := roundF_normal (e := h - 1) rm ftz (show stickyRoot M ≠ 0 by omega) (by omega)
    (by unfold flog2; omega) (by unfold flog2; omega)
  obtain ⟨i, rfl⟩ : ∃ i, t = i + 2 := Nat.exists_eq_add_of_le' ht
  refine ⟨n, h - 1 + (i + 2 : Nat), ?_, hnorm, hfit.2.2.1, ?_⟩
  · rw [hval, hround, decodeF_encodeQ hfit]
  · rw [hsquare 400 (by omega), show (2 * h + 400).toNat = (2 * h + 396).toNat + 4 by omega,
      show (2 * (h - 1 + (i + 2 : Nat)) + 398).toNat = 2 * (i + 2) + (2 * h + 396).toNat by omega]
    exact square_rounded _ (by omega) hrounds

end Sys2Proof.Machine
end


section
/-! SUPPORT. The integer instructions by element (R319), as VADDP and its kin compute them. -/

namespace Sys2Proof.Machine

section

variable {ext : BitVec 8} (fmt : BitVec 32) (a b c : Lane) (p : Bool) {w : Nat} (hw : (if ext.getLsbD 0 then 16 else 8) = w)
include hw

/-- R319: each packed operation, on element i. -/
theorem packed_eq {i : Nat} (hi : i < 32 / w) :
    let x := elemAt w a i
    let y := elemAt w b i
    let e := fun (op : LaneOp) => elemAt w (laneEval op ext fmt a b c p).val i
    let le := comesFirst x y (ext.getLsbD 1)
    e .addp = x + y ∧ e .subp = x - y ∧ e .shlp = x <<< y.toNat ∧ e .shrp = x >>> y.toNat ∧
      e .srap = x.sshiftRight y.toNat ∧ e .minp = (if le then x else y) ∧ e .maxp = (if le then y else x) := by
  have hw0 : 0 < w := by rw [← hw]; split <;> decide
  have helem (f : Nat → Nat → Nat) := elemAt_packedLane w f a b hi
  subst hw
  refine ⟨(helem _).trans ?_, (helem _).trans ?_, (helem _).trans (ofNat_shlN _ _), (helem _).trans (ofNat_shrN _ _),
    (helem _).trans (ofNat_sraN _ hw0 _), (helem _).trans (ofNat_pickN_least _ _ hw0 _),
    (helem _).trans (ofNat_pickN_greatest _ _ hw0 _)⟩
  · show BitVec.ofNat _ ((elemAt _ a i).toNat + (elemAt _ b i).toNat) = _
    rw [BitVec.ofNat_add, BitVec.ofNat_toNat, BitVec.ofNat_toNat, BitVec.setWidth_eq, BitVec.setWidth_eq]
  · apply BitVec.eq_of_toNat_eq
    rw [BitVec.toNat_ofNat, BitVec.toNat_sub]
    congr 1
    omega

end

end Sys2Proof.Machine
end

section
/-! SUPPORT. The words of the special functions and of VCVT, as the lanes give them (R104, R105, R324). -/

namespace Sys2Proof.Machine

theorem infF_word (neg : Bool) : BitVec.ofNat 32 (infF fp32 neg) = if neg then 0xFF800000 else 0x7F800000 := by
  cases neg <;> rfl

theorem zeroF_word (neg : Bool) : BitVec.ofNat 32 (zeroF fp32 neg) = if neg then 0x80000000 else 0 := by
  cases neg <;> rfl

theorem oneF_word (neg : Bool) : BitVec.ofNat 32 (oneF neg) = if neg then 0xBF800000 else 0x3F800000 := by
  cases neg <;> rfl

/-- R330: the word of a special function. -/
def specialWord (op : SpecialOp) (rm : RMode) (ftz : Bool) (a : Lane) : Lane := BitVec.ofNat 32 (specialF op rm ftz a)

section

variable (rm : RMode) {ftz : Bool} {a : Lane}

theorem specialWord_zero (h : (decodeF fp32 ftz a.toNat).scaled 0 = some 0) :
    specialWord .rcp rm ftz a = (if a.msb then 0xFF800000 else 0x7F800000) ∧
    specialWord .rsq rm ftz a = (if a.msb then 0xFF800000 else 0x7F800000) ∧
    specialWord .sqrt rm ftz a = (if a.msb then 0x80000000 else 0) ∧
    specialWord .exp2 rm ftz a = 0x3F800000 ∧ specialWord .log2 rm ftz a = 0xFF800000 := by
  obtain ⟨neg, m, e, hx⟩ := FVal.scaled_eq_some h
  obtain rfl : m = 0 := by
    rw [hx] at h
    obtain ⟨-, hu⟩ := FVal.scaled_fin.mp h
    exact signedI_eq_zero.mp ((mul_eq_zero.mp hu.symm).resolve_right (by positivity))
  obtain ⟨hrcp, hrsq, hsqrt, hexp2, hlog2⟩ := specialF_zero rm hx
  unfold specialWord
  rw [hrcp, hrsq, hsqrt, hexp2, hlog2, msb_of_fin hx, infF_word, zeroF_word]
  exact ⟨rfl, rfl, rfl, rfl, rfl⟩

theorem specialWord_inf (h : decodeF fp32 ftz a.toNat = .inf false) :
    specialWord .rcp rm ftz a = 0 ∧ specialWord .rsq rm ftz a = 0 ∧ specialWord .sqrt rm ftz a = 0x7F800000 ∧
    specialWord .exp2 rm ftz a = 0x7F800000 ∧ specialWord .log2 rm ftz a = 0x7F800000 ∧
    specialWord .sin rm ftz a = 0x7FC00000 ∧ specialWord .cos rm ftz a = 0x7FC00000 := by
  obtain ⟨hrcp, hrsq, hsqrt, hexp2, hlog2, hsin, hcos⟩ := specialF_inf rm h
  unfold specialWord
  rw [hrcp, hrsq, hsqrt, hexp2, hlog2, hsin, hcos]
  exact ⟨rfl, rfl, rfl, rfl, rfl, rfl, rfl⟩

theorem specialWord_negInf (h : decodeF fp32 ftz a.toNat = .inf true) :
    specialWord .rcp rm ftz a = 0x80000000 ∧ specialWord .rsq rm ftz a = 0x7FC00000 ∧ specialWord .sqrt rm ftz a = 0x7FC00000 ∧
    specialWord .exp2 rm ftz a = 0 ∧ specialWord .log2 rm ftz a = 0x7FC00000 ∧
    specialWord .sin rm ftz a = 0x7FC00000 ∧ specialWord .cos rm ftz a = 0x7FC00000 := by
  obtain ⟨hrcp, hrsq, hsqrt, hexp2, hlog2, hsin, hcos⟩ := specialF_inf rm h
  unfold specialWord
  rw [hrcp, hrsq, hsqrt, hexp2, hlog2, hsin, hcos]
  exact ⟨rfl, rfl, rfl, rfl, rfl, rfl, rfl⟩

theorem specialWord_neg {m : Nat} {e : Int} (h : decodeF fp32 ftz a.toNat = .fin true m e) (hm : m ≠ 0) :
    specialWord .rsq rm ftz a = 0x7FC00000 ∧ specialWord .sqrt rm ftz a = 0x7FC00000 ∧ specialWord .log2 rm ftz a = 0x7FC00000 := by
  obtain ⟨hrsq, hsqrt, hlog2⟩ := specialF_neg rm h hm
  unfold specialWord
  rw [hrsq, hsqrt, hlog2]
  exact ⟨rfl, rfl, rfl⟩

theorem specialWord_one (h : a = 0x3F800000) :
    specialWord .rcp rm ftz a = 0x3F800000 ∧ specialWord .rsq rm ftz a = 0x3F800000 := by
  obtain ⟨hrcp, hrsq⟩ := specialF_one rm (ftz := ftz) h
  unfold specialWord
  rw [hrcp, hrsq]
  exact ⟨rfl, rfl⟩

/-- R104: the words for an integer. -/
theorem specialWord_int {k : Int} (h : (decodeF fp32 ftz a.toNat).scaled (-149) = some (k * 2 ^ 149)) :
    (-126 ≤ k → k ≤ 127 → specialWord .exp2 rm ftz a = BitVec.ofInt 32 ((k + 127) * 2 ^ 23)) ∧
    (128 ≤ k → specialWord .exp2 rm ftz a = 0x7F800000) ∧
    specialWord .sin rm ftz a = (if a.msb then 0x80000000 else 0) ∧
    specialWord .cos rm ftz a = if k % 2 = 0 then 0x3F800000 else 0xBF800000 := by
  obtain ⟨neg, m, e, hx⟩ := FVal.scaled_eq_some h
  rw [hx] at h
  have hexp2 := fun hlo => specialF_exp2_int rm hx h hlo
  unfold specialWord
  refine ⟨fun hlo hhi => ?_, fun hhi => ?_, ?_, ?_⟩
  · rw [hexp2 hlo, if_pos hhi, ← BitVec.ofInt_natCast, Int.toNat_of_nonneg (by omega)]
  · rw [hexp2 (by omega), if_neg (by omega), infF_word]
    rfl
  · unfold specialF
    rw [hx]
    dsimp only
    rw [(trigF_int _ h).1, zeroF_word, msb_of_fin hx]
  · unfold specialF
    rw [hx]
    dsimp only
    rw [(trigF_int _ h).2, oneF_word]
    simp only [decide_eq_true_eq, ite_not]

/-- R104: the words half way between two integers. -/
theorem specialWord_half {k : Int} (h : (decodeF fp32 ftz a.toNat).scaled (-149) = some (k * 2 ^ 148)) (hk : k % 2 = 1) :
    specialWord .sin rm ftz a = (if k % 4 = 1 then 0x3F800000 else 0xBF800000) ∧ specialWord .cos rm ftz a = 0 := by
  obtain ⟨neg, m, e, hx⟩ := FVal.scaled_eq_some h
  rw [hx] at h
  unfold specialWord specialF
  rw [hx]
  dsimp only
  rw [(trigF_half _ h hk).1, (trigF_half _ h hk).2, oneF_word, zeroF_word]
  simp only [decide_eq_true_eq, ite_not]
  exact ⟨trivial, rfl⟩

/-- R104: the root of a positive value. -/
theorem specialWord_sqrt {m : Nat} {e : Int} (h : decodeF fp32 ftz a.toNat = .fin false m e) (hm : m ≠ 0) :
    ∃ (n : Nat) (q : Int), decodeF fp32 false (specialWord .sqrt rm ftz a).toNat = .fin false n q ∧ 2 ^ 23 ≤ n ∧ n < 2 ^ 24 ∧
      RootBounds rm (fun k => k ^ 2 * 2 ^ (2 * q + 398).toNat) (m * 2 ^ (e + 400).toNat) n := by
  have hsqrt : specialF .sqrt rm ftz a = sqrtF rm ftz (.fin false m e) := by rw [← h]; rfl
  have hlt : sqrtF rm ftz (.fin false m e) < 2 ^ 32 := by
    obtain ⟨M, i, -, -, -, hval, -⟩ := sqrtF_sticky rm ftz e hm
    rw [hval]
    exact roundF_fp32_lt ..
  have hword : (specialWord .sqrt rm ftz a).toNat = sqrtF rm ftz (.fin false m e) := by
    unfold specialWord
    rw [hsqrt, BitVec.toNat_ofNat, Nat.mod_eq_of_lt hlt]
  rw [hword]
  exact sqrtF_rounded rm ftz hm ((decodeF_fits h).resolve_left hm)

end

section

variable {src : Nat}

theorem cvtInt_eq (n : Nat) : cvtInt src n = if cvtSigned src = true ∧ 2 ^ (cvtWidth src - 1) ≤ n % 2 ^ cvtWidth src then
    ((n % 2 ^ cvtWidth src : Nat) : Int) - 2 ^ cvtWidth src else ((n % 2 ^ cvtWidth src : Nat) : Int) := by
  unfold cvtInt sextN
  cases cvtSigned src
  · rw [if_neg (by decide), if_neg (by simp)]
  · rw [if_pos rfl]
    by_cases h : n % 2 ^ cvtWidth src < 2 ^ (cvtWidth src - 1)
    · rw [if_pos h, if_neg (fun hh => absurd hh.2 (not_le.mpr h))]
    · rw [if_neg h, if_pos ⟨rfl, not_lt.mp h⟩]
      push_cast
      rfl

/-- R103: the widths of the formats, by code. -/
def cvtWidths : List Nat := [32, 16, 16, 8, 8, 32, 32, 16, 16, 8, 8]

theorem cvtWidths_getD (h : src < 11) : cvtWidths.getD src 0 = cvtWidth src := by
  interval_cases src <;> rfl

theorem fmtOfCode_getD (h : src < 5) : [fp32, fp16, bf16, f8a, f8b].getD src fp32 = fmtOfCode src := by
  interval_cases src <;> rfl

theorem cvtSigned_iff : (src = 5 ∨ src = 7 ∨ src = 9) ↔ cvtSigned src = true := by
  simp [cvtSigned, or_assoc]

/-- R103: the integer of a pattern, and the clamp into a format, as the table of widths gives them. -/
theorem cvtInt_table (h : src < 11) (n : Nat) :
    (if (src = 5 ∨ src = 7 ∨ src = 9) ∧ 2 ^ (cvtWidths.getD src 0 - 1) ≤ n % 2 ^ cvtWidths.getD src 0 then
      ((n % 2 ^ cvtWidths.getD src 0 : Nat) : Int) - 2 ^ cvtWidths.getD src 0
    else ((n % 2 ^ cvtWidths.getD src 0 : Nat) : Int)) = cvtInt src n := by
  rw [cvtInt_eq, ← cvtWidths_getD h]
  exact if_congr (and_congr_left' cvtSigned_iff) rfl rfl

theorem cvtInto_table (h : src < 11) :
    (if src = 5 ∨ src = 7 ∨ src = 9 then clamped (-(2 ^ (cvtWidths.getD src 0 - 1))) (2 ^ (cvtWidths.getD src 0 - 1) - 1)
    else clamped 0 (2 ^ cvtWidths.getD src 0 - 1)) = cvtInto src := by
  funext x
  rw [cvtWidths_getD h, apply_ite (fun f : Int → LaneOut => f x)]
  exact if_congr cvtSigned_iff rfl rfl

end

end Sys2Proof.Machine
end

section
/-! PROOFS. What a lane computes, settling O15. -/

namespace Sys2Proof.Machine

/-- Settles O15: the integer lanes by bits and elements, the floating-point ones by exact values and their rounding, the special
functions by their exact arguments, the root by its sticky bit. -/
theorem laneValues : Obligations.LaneValues := by
  unfold Obligations.LaneValues
  refine ⟨fun ext fmt a b c p => ?_, fun ext fmt a b c => ?_, ?_, ?_, fun rm x y e u w hx hy => ?_,
    fun rm x sg s' e => ?_, fun rm b => ?_, ?_⟩
  · have hmode : ext.toNat % 4 < 4 := Nat.mod_lt _ (by decide)
    obtain ⟨habs, hneg⟩ := negLane_wraps a
    obtain ⟨hleast, hother⟩ := negLane_saturates a
    obtain ⟨hshl, hshr, hsra⟩ := wordN_shift a b.toNat
    obtain ⟨hclz, hlow, htop⟩ := clzN_bits a
    obtain ⟨hun1, hun2, hun4, hun5⟩ := unpkLane_eq (ext := ext) fmt a
    refine ⟨fun h => ?_, fun h => ?_, rfl, rfl, ?_, addcLane_eq fmt a b c p, rfl, rfl, rfl, rfl, hshl, hshr, hsra, rfl, rfl, rfl,
      fun h => ?_, fun h => ?_, ⟨_, hclz, rfl, hlow, htop⟩, congrArg wordN (popN_bits 32 a.toNat),
      fun i hi => bfeLane_bits a b _ hi, fun i hi => bfiLane_bits a b c hi, fun hk => ?_, fun i hi => ?_,
      ⟨dotLane_eq a b c (by decide) 4, dotLane_eq a b c (by decide) 8⟩, ⟨fun h => ?_, fun h => ?_⟩, hun1, hun2, hun4, hun5⟩
    · constructor
      · show addLane false (ext.toNat % 4) a b = _
        rw [h]
        rfl
      · show addLane true (ext.toNat % 4) a b = _
        rw [h]
        rfl
    · exact addLane_sat a b h
    · have hpar : ext.toNat % 4 % 2 = ext.toNat % 2 := Nat.mod_mod_of_dvd _ (by decide)
      exact hpar ▸ mulhLane_eq a b hmode
    · obtain ⟨hmin, hmax⟩ := pickLane_eq a b true
      refine ⟨?_, ?_, ?_, ?_⟩
      · show wordN (pickN 32 true (!ext.getLsbD 0) a.toNat b.toNat) = _
        rw [h]
        exact hmin
      · show wordN (pickN 32 false (!ext.getLsbD 0) a.toNat b.toNat) = _
        rw [h]
        exact hmax
      · show satLane (ext.getLsbD 0) _ = _
        rw [h, habs]
      · show satLane (ext.getLsbD 0) _ = _
        rw [h, hneg]
    · obtain ⟨hmin, hmax⟩ := pickLane_eq a b false
      have habs' : laneEval .abs ext fmt a b c p = satLane true (if a.toInt < 0 then -a.toInt else a.toInt) := by rw [← h]; rfl
      have hneg' : laneEval .neg ext fmt a b c p = satLane true (-a.toInt) := by rw [← h]; rfl
      dsimp only
      rw [habs', hneg']
      refine ⟨?_, ?_, hleast, hother⟩
      · show wordN (pickN 32 true (!ext.getLsbD 0) a.toNat b.toNat) = _
        rw [h]
        exact hmin.trans (by simp only [comesFirst_unsigned])
      · show wordN (pickN 32 false (!ext.getLsbD 0) a.toNat b.toNat) = _
        rw [h]
        exact hmax.trans (by simp only [comesFirst_unsigned])
    · show LaneOut.mk 0 (condHolds 32 (ext.toNat % 16) a.toNat b.toNat) false = _
      rw [condHolds_word a b hk]
    · exact packed_eq fmt a b c p rfl hi
    · exact packLane_words fmt a b rfl h
    · exact packLane_halves fmt a b rfl h
  · exact ⟨rfl, rfl, rfl, rfl, rfl, rfl, rfl, fun i hi => elemAt_halfLane fmt _ a b c hi, fun i hi => elemAt_halfLane fmt _ a b c hi,
      fun i hi => elemAt_halfLane fmt _ a b c hi⟩
  · intro ext fmt a b c p
    have hspecial (op : SpecialOp) : laneEval (.special op) ext fmt a b c p = word (specialWord op (fmtRm fmt) (fmtFtz fmt) a) := rfl
    refine ⟨fclsLane_eq fmt a, fun _ => rfl, fun op fmt' hop hftz => ?_, fun h op => ?_, fun h => specialWord_zero _ h,
      fun h => specialWord_inf _ h, fun h => specialWord_negInf _ h, fun m e h hm => specialWord_neg _ h hm,
      fun h => specialWord_one _ h, fun k h => specialWord_int _ h, fun k h hk => specialWord_half _ h hk, fun i h hi => ?_,
      fun m e h hm => ?_, fun h => frndLane_nan h, fun sg h => frndLane_inf h, fun k u h => ?_⟩
    · show wordN (specialF op (fmtRm fmt') (fmtFtz fmt') a) = wordN (specialF op (fmtRm fmt) (fmtFtz fmt) a)
      rw [hftz, specialF_mode hop (fmtRm fmt') (fmtRm fmt)]
    · exact congrArg (BitVec.ofNat 32) (specialF_nan _ h op)
    · obtain ⟨neg, m, e, hx⟩ := FVal.scaled_eq_some h
      exact congrArg (BitVec.ofNat 32) (specialF_log2_pow _ hx (hx ▸ h) hi)
    · obtain ⟨n, q, hdec, hge, hlt, hbounds⟩ := specialWord_sqrt (fmtRm fmt) h hm
      refine ⟨n, q, hdec, hge, hlt, ?_⟩
      unfold RootBounds at hbounds
      cases hrm : fmtRm fmt with
      | rne | rup | rtz | rdn =>
        rw [hrm] at hbounds
        exact hbounds
    · obtain ⟨n, hrounds, hzero, hval⟩ := frndLane_finite (ext := ext) h
      exact ⟨n, hrounds, frndLane_word, hzero, hval⟩
  · intro ext fmt a b c p hs hd
    have hint := cvtInt_table hs a.toNat
    have hinto := cvtInto_table hd
    have hws := cvtWidths_getD hs
    have hwd := cvtWidths_getD hd
    unfold cvtWidths at hint hinto hws hwd
    dsimp only
    rw [hint, hinto, hws, hwd]
    refine ⟨fun hs5 hd5 hne => ?_, fun hs4 hd1 => ?_, fun hs5 hd5 => ?_, fun hs5 hd5 => ?_, fun hs5 hd5 => ?_⟩
    · rw [fmtOfCode_getD hs5, fmtOfCode_getD hd5]
      exact (cvtLane_floats fmt a rfl rfl hs5 hd5).trans (by rw [flushesTo_of_ne hs5 hd5 hne])
    · rw [fmtOfCode_getD (by omega), fmtOfCode_getD (by omega)]
      have hval := cvtLane_floats fmt a rfl rfl (show ext.toNat % 16 < 5 by omega) (show ext.toNat / 16 < 5 by omega)
      rcases flushesTo_or (fmtOfCode (ext.toNat % 16)) (fmtOfCode (ext.toNat / 16)) (fmtFtz fmt) with hflush | hflush
      · exact .inl (hval.trans (by rw [hflush]))
      · exact .inr (hval.trans (by rw [hflush]))
    · rw [fmtOfCode_getD hd5]
      exact cvtLane_int_float fmt a rfl rfl hs5 hd5
    · exact cvtLane_ints fmt a rfl rfl hs5 hd5
    · rw [fmtOfCode_getD hs5]
      have hval : laneEval .cvt ext fmt a b c p = _ := cvtLane_float_int fmt a rfl rfl hs5 hd5
      rw [hval]
      obtain ⟨hinf, hinf'⟩ := cvtFloatLane_inf (dst := ext.toNat / 16) (fmtRm fmt)
      refine ⟨fun h => ?_, fun h => ?_, fun h => ?_, fun k u h => cvtFloatLane_finite _ h⟩
      · rw [h, cvtFloatLane_nan]
      · rw [h, hinf]
      · rw [h, hinf']
  · obtain ⟨h0, h1, h2, h3, h4, h5, h6, h7⟩ := fcondHolds_scaled hx hy
    exact ⟨addF_scaled hx hy rm, mulF_scaled hx hy, h0, h1, h2, h3, h4, h5, h6, h7, minMaxF_scaled hx hy⟩
  · obtain ⟨hmin, hmax⟩ := minMaxF_zeros sg e
    obtain ⟨hleft, hright⟩ := minMaxF_nan sg x
    refine ⟨addF_nan_left rm x, addF_nan_right rm x, (mulF_nan x).1, (mulF_nan x).2, ?_, ?_, rfl, rfl, rfl, hmin, hmax, hleft,
      hright, fun k hk => ?_, fun k hk => ?_⟩
    · cases sg <;> rfl
    · cases sg <;> rfl
    · obtain ⟨hl, hr⟩ := fcondHolds_nan k x
      have hk' : k = 1 ∨ k = 6 := by simpa using hk
      exact ⟨hl.trans (decide_eq_true hk'), hr.trans (decide_eq_true hk')⟩
    · obtain ⟨hl, hr⟩ := fcondHolds_nan k x
      have hk' : ¬ (k = 1 ∨ k = 6) := by
        rintro (rfl | rfl) <;> simp at hk
      exact ⟨hl.trans (decide_eq_false hk'), hr.trans (decide_eq_false hk')⟩
  · exact ⟨rfl, roundF_decodeF rm b.isLt⟩
  · decide

end Sys2Proof.Machine
end
